-- ==== Sys2Proof/Word.lean ====
section
/-! DEFINITION. The widths the manual names: a register is 32 bits (R4), a byte of memory 8 bits (R11), a wide
accumulator 48 bits (R115), a command granule 256 bits (R53), a descriptor 512 bits (R70). -/

namespace Sys2Proof

/-- A register or a control address (R4). -/
abbrev Word := BitVec 32

/-- A byte of memory (R11). -/
abbrev Byte := BitVec 8

/-- A W48 code (Table 5-5). -/
abbrev W48 := BitVec 48

/-- A device address (R35, R332). -/
abbrev DevAddr := BitVec 48

/-- A command granule (R60). -/
abbrev Granule := BitVec 256

end Sys2Proof
end

