-- ==== Sys2Proof/Syntax.lean ====
section
/-! DEFINITION. The commands of the block: one constructor per row of opcode_table.json, with the operands that the
spec gives the step. Registers' rows carry the requester and the word written; frame rows carry the frame as it stands
on the wire; stream rows name the sequencer, which takes its command word from partition memory (R53). -/

namespace Sys2Proof

/-- The three streams of a partition (R52); t is 0 for F, 1 for B, 2 for U (R85). -/
inductive StreamTag where
  | F | B | U
  deriving DecidableEq, Repr

/-- Who makes a control access (R37): an open management session, whose level the B7 holds, or the Rolom firmware. -/
inductive Requester where
  | session (n : Fin 64)
  | firmware
  deriving DecidableEq, Repr

/-- One end of a Polsil connection: a module connection (Table 2-2) or a host session (R374). -/
inductive Endpoint where
  | conn (c : Fin 2048)
  | sess (n : Fin 64)
  deriving DecidableEq, Repr

/-- What stands around the granules of a received frame (R353, R356): its VLAN ID, 0 untagged; the Ethernet type on a fabric
port, the UDP destination port on a host port; whether its IP packet has no options, extension headers or fragments; its
bytes from destination address to FCS; and the FEC codewords corrected and uncorrectable since the frame before it. -/
structure RxHead where
  vlan : Nat
  service : Nat
  plain : Bool
  bytes : Nat
  fecFixed : Nat
  fecLost : Nat
  deriving DecidableEq, Repr

/-- A Polsil frame as received: the port (0 to 11 are F0 to F11, 12 to 15 H0.0 to H0.3, 16 to 19 H1.0 to H1.3, 20 the
loop of R360), what stands around it, the verdict of its Ethernet FCS and checksums, and its granules of 36 bytes (R356,
R359). -/
structure RxFrame where
  port : Fin 21
  head : RxHead
  fcsOk : Bool
  granules : List (List Byte)
  deriving DecidableEq, Repr

/-- A device that CXL enumeration finds on a port (R329, R330): its capacity in bytes, the SPEED and WIDTH of its link
(Table 13-18), and whether it lies behind a switch. -/
structure CxlDevice where
  port : Fin 4
  bytes : Nat
  speed : Nat
  width : Nat
  switched : Bool
  deriving DecidableEq, Repr

/-- Measured powers of one average-loop period, in W (R428). -/
structure PowerReading where
  p1 : Nat
  pWindow : Nat
  classes : List Nat
  deriving DecidableEq, Repr

/-- Measured power in W, voltage in 10 mV and current in 10 mA of one peak-loop tick (R433, Table 17-9). -/
structure PeakReading where
  p100us : Nat
  centivolts : Nat
  centiamps : Nat
  deriving DecidableEq, Repr

/-- One thermal sample: 80 junction and 72 GDDR7 readings in °C (R439). -/
structure ThermalReading where
  junctions : List Nat
  gddr : List Nat
  deriving DecidableEq, Repr

/-- One coolant sample (R440). -/
structure CoolantReading where
  inlet : Nat
  outlet : Nat
  flow : Nat
  deriving DecidableEq, Repr

/-- Where a disturbance falls: the stripe that the patrol reads, by its granule; a granule of the lower shelf, disturbed or
answered with poison from then on (Table 13-4); a granule of an on-die SRAM array of a core, stream or partition; the next
granule over a mesh or die-to-die link or through a collective or update buffer; the next burst of a GDDR7 channel, whose
transfer fails so many times (R322). -/
inductive UpsetPlace where
  | stripe
  | lower
  | poison
  | sram (array owner : Nat)
  | line (key : Nat)
  | burst (channel tries : Nat)
  deriving DecidableEq, Repr

/-- A disturbance of symbols: the byte `pos` of the 36-byte word of a granule is exclusive-ored with `flip`. -/
structure Upset where
  place : UpsetPlace
  granule : Nat
  pos : Nat
  flip : Byte
  deriving DecidableEq, Repr

/-- A port and a class that priority flow control pauses there: CONTROL, or else DATA (R358, Table 14-2). -/
structure PortClass where
  port : Fin 20
  control : Bool
  deriving DecidableEq, Repr

/-- One constructor per row of opcode_table.json, in the table's order. -/
inductive Instr where
  /-- PRECHARGE_START (R489). -/
  | prechargeStart
  /-- PRECHARGE_ABORT (R489). -/
  | prechargeAbort
  /-- INPUT_GOOD (R489). -/
  | inputGood
  /-- UNDER_VOLTAGE (R487). -/
  | underVoltage
  /-- OVER_VOLTAGE (R487). -/
  | overVoltage
  /-- EXTRACTION (R500). -/
  | extraction
  /-- COOLANT_CUT (R498). -/
  | coolantCut
  /-- STRAP_READ (R377). -/
  | strapRead (codes : List Nat) (repairOk : Bool)
  /-- IMAGE_READ_DONE (R380). -/
  | imageReadDone (cxl : List CxlDevice)
  /-- KEYS_READY (R390). -/
  | keysReady
  /-- PRST_N_ASSERT (R403). -/
  | prstNAssert
  /-- PRST_N_RELEASE (R403). -/
  | prstNRelease
  /-- PRST_GLITCH (R403). -/
  | prstGlitch
  /-- PM_WDOG_KICK (R404). -/
  | pmWdogKick (who : Requester) (value : Word)
  /-- MODULE_WATCHDOG_EXPIRY (R404). -/
  | moduleWatchdogExpiry
  /-- MODULE_WATCHDOG_RELEASE (R404). -/
  | moduleWatchdogRelease
  /-- PM_REMOTE_RESET (R405). -/
  | pmRemoteReset (who : Requester) (value : Word)
  /-- REMOTE_RESET_ASSERT (R405). -/
  | remoteResetAssert
  /-- PARTITION_RESET (R406). -/
  | partitionReset (who : Requester) (p : Fin 16) (value : Word)
  /-- BLOCK_RESET_SET (R407). -/
  | blockResetSet (who : Requester) (b : Nat) (value : Word)
  /-- BLOCK_RESET_CLEAR (R407). -/
  | blockResetClear (who : Requester) (b : Nat) (value : Word)
  /-- DRAIN_IDLE (R409). -/
  | drainIdle (b : Nat)
  /-- DRAIN_TIMEOUT (R409). -/
  | drainTimeout (b : Nat)
  /-- RST_HELD_CLK_EXPIRY (R413). -/
  | rstHeldClkExpiry (b : Nat)
  /-- PLL_LOCK (R421). -/
  | pllLock (d : Fin 8)
  /-- PLL_LOCK_FAIL (R421). -/
  | pllLockFail (d : Fin 8)
  /-- GOVERNOR_GRANT (R424). -/
  | governorGrant (fall : Bool)
  /-- RAMP_DONE (R424). -/
  | rampDone (fall : Bool) (index : Nat)
  /-- IDLE_SLEEP (R416). -/
  | idleSleep (dom : Nat)
  /-- POWER_STOP_DONE (R418). -/
  | powerStopDone (dom : Nat)
  /-- PM_OP (R419). -/
  | pmOp (who : Requester) (value : Word)
  /-- OP_MOVE_DONE (R420). -/
  | opMoveDone
  /-- STATE_MISMATCH (R461). -/
  | stateMismatch (b : Nat) (count : Nat)
  /-- AVERAGE_LOOP (R431). -/
  | averageLoop (m : PowerReading)
  /-- SHED_DOMAIN (R435). -/
  | shedDomain
  /-- UNSHED_DOMAIN (R436). -/
  | unshedDomain
  /-- PEAK_LOOP (R433). -/
  | peakLoop (m : PeakReading)
  /-- DROOP_TRIP (R434). -/
  | droopTrip (die : Fin 3)
  /-- DROOP_RECOVER (R434). -/
  | droopRecover (die : Fin 3)
  /-- DROOP_STRETCH_LIMIT (R434). -/
  | droopStretchLimit (die : Fin 3)
  /-- PWRBRK_ENGAGE (R437). -/
  | pwrbrkEngage
  /-- PWRBRK_IGNORE (R437). -/
  | pwrbrkIgnore
  /-- PWRBRK_HIGH (R437). -/
  | pwrbrkHigh
  /-- BRAKE_HOLD_END (R437). -/
  | brakeHoldEnd
  /-- BRAKE_LONG (R438). -/
  | brakeLong
  /-- THERMAL_SAMPLE (R439). -/
  | thermalSample (m : ThermalReading)
  /-- COOLANT_SAMPLE (R440). -/
  | coolantSample (m : CoolantReading)
  /-- COOLANT_WARNING (R441). -/
  | coolantWarning
  /-- COOLANT_WARNING_END (R441). -/
  | coolantWarningEnd
  /-- COOLANT_TRIP (R440). -/
  | coolantTrip (src : Fin 3)
  /-- PM_THERM_CTL (R443). -/
  | pmThermCtl (who : Requester) (value : Word)
  /-- LINK_TRAINED (R355). -/
  | linkTrained (port : Fin 20)
  /-- LINK_TRAINING_TIMEOUT (R355). -/
  | linkTrainingTimeout (port : Fin 20)
  /-- FEC_LOCK (R355). -/
  | fecLock (port : Fin 20)
  /-- FEC_LOCK_TIMEOUT (R355). -/
  | fecLockTimeout (port : Fin 20)
  /-- LINK_DOWN (R355). -/
  | linkDown (port : Fin 20)
  /-- HOLD_DOWN_END (R355). -/
  | holdDownEnd (port : Fin 20)
  /-- PORT_FAILED (R355). -/
  | portFailed (port : Fin 20)
  /-- CXL_PORT_DOWN (R331). -/
  | cxlPortDown (x : Fin 4)
  /-- ACK (R365). -/
  | ackFrame (f : RxFrame)
  /-- OPEN (R394). -/
  | openConn (f : RxFrame)
  /-- OPEN_ACK (R361). -/
  | openAck (f : RxFrame)
  /-- CLOSE (R360). -/
  | closeConn (f : RxFrame)
  /-- CLOSE_ACK (R360). -/
  | closeAck (f : RxFrame)
  /-- WRITE (R364). -/
  | remoteWrite (f : RxFrame)
  /-- READ (R321). -/
  | remoteRead (f : RxFrame)
  /-- SIGNAL (R98). -/
  | remoteSignal (f : RxFrame)
  /-- SEND_DATA (R373). -/
  | sendData (f : RxFrame)
  /-- COLL_DATA (R372). -/
  | collData (f : RxFrame)
  /-- SEND_RTS (R373). -/
  | sendRts (f : RxFrame)
  /-- SEND_CTS (R373). -/
  | sendCts (f : RxFrame)
  /-- REJECT (R99). -/
  | rejectFrame (f : RxFrame)
  /-- REG_READ (R368). -/
  | regRead (f : RxFrame)
  /-- REG_WRITE (R368). -/
  | regWrite (f : RxFrame)
  /-- COUNTER_READ (R473). -/
  | counterRead (f : RxFrame)
  /-- DUMP_READ (R464). -/
  | dumpRead (f : RxFrame)
  /-- CONN_SET (R361). -/
  | connSet (f : RxFrame)
  /-- COMM_SET (R369). -/
  | commSet (f : RxFrame)
  /-- ADMIT (R43). -/
  | admitVerb (f : RxFrame)
  /-- ADMIT_DONE (R48). -/
  | admitDone
  /-- LOAD_VERB (R41). -/
  | loadVerb (f : RxFrame)
  /-- START (R41). -/
  | startVerb (f : RxFrame)
  /-- STOP_BOUNDARY (R82). -/
  | stopBoundary (f : RxFrame)
  /-- STOP_HALT (R42). -/
  | stopHalt (f : RxFrame)
  /-- STOP_DONE (R41). -/
  | stopDone (p : Fin 16)
  /-- RELEASE (R49). -/
  | release (f : RxFrame)
  /-- SCRUB_DONE (R49). -/
  | scrubDone (p : Fin 16)
  /-- VERB_DEQUEUE (R44). -/
  | verbDequeue (q : Option (Fin 16))
  /-- ACK_TIMER (R365). -/
  | ackTimer (e : Endpoint)
  /-- RETRANSMIT_TIMEOUT (R366). -/
  | retransmitTimeout (e : Endpoint)
  /-- CONN_TIMEOUT (R363). -/
  | connTimeout (e : Endpoint)
  /-- SESSION_OPEN_TIMEOUT (R395). -/
  | sessionOpenTimeout (n : Fin 64)
  /-- PFC_PAUSE (R353). -/
  | pfcPause (c : PortClass)
  /-- PAUSE_FRAME (R353). -/
  | pauseFrame (port : Fin 20)
  /-- ARP_REQUEST (R353). -/
  | arpRequest (port : Fin 20)
  /-- NEIGHBOR_SOLICITATION (R353). -/
  | neighborSolicitation (port : Fin 20)
  /-- ICMP_ECHO (R353). -/
  | icmpEcho (port : Fin 20)
  /-- MARK (R475). -/
  | mark (p : Fin 16) (t : StreamTag)
  /-- WAIT (R78). -/
  | wait (p : Fin 16) (t : StreamTag)
  /-- SIG (R99). -/
  | sig (p : Fin 16) (t : StreamTag)
  /-- FENCE (R78). -/
  | fence (p : Fin 16) (t : StreamTag)
  /-- STEP (R80). -/
  | step (p : Fin 16) (t : StreamTag)
  /-- END (R83). -/
  | endStream (p : Fin 16) (t : StreamTag)
  /-- LOAD (R502). -/
  | load (p : Fin 16) (t : StreamTag)
  /-- XPOSE (R176). -/
  | xpose (p : Fin 16) (t : StreamTag)
  /-- CFLUSH (R190). -/
  | cflush (p : Fin 16) (t : StreamTag)
  /-- TLOAD (R142). -/
  | tload (p : Fin 16) (t : StreamTag)
  /-- FMAT (R132). -/
  | fmat (p : Fin 16) (t : StreamTag)
  /-- BDX (R181). -/
  | bdx (p : Fin 16) (t : StreamTag)
  /-- BDW (R185). -/
  | bdw (p : Fin 16) (t : StreamTag)
  /-- BMAT (R236). -/
  | bmat (p : Fin 16) (t : StreamTag)
  /-- STORE (R206). -/
  | store (p : Fin 16) (t : StreamTag)
  /-- ADD (R223). -/
  | add (p : Fin 16) (t : StreamTag)
  /-- SUB (R223). -/
  | sub (p : Fin 16) (t : StreamTag)
  /-- MUL (R223). -/
  | mul (p : Fin 16) (t : StreamTag)
  /-- MAX (R223). -/
  | max (p : Fin 16) (t : StreamTag)
  /-- MIN (R223). -/
  | min (p : Fin 16) (t : StreamTag)
  /-- CVT (R221). -/
  | cvt (p : Fin 16) (t : StreamTag)
  /-- SCALE (R223). -/
  | scale (p : Fin 16) (t : StreamTag)
  /-- OFFSET (R223). -/
  | offset (p : Fin 16) (t : StreamTag)
  /-- FUNC (R229). -/
  | funcVop (p : Fin 16) (t : StreamTag)
  /-- DERIV (R229). -/
  | deriv (p : Fin 16) (t : StreamTag)
  /-- RSUM (R134). -/
  | rsum (p : Fin 16) (t : StreamTag)
  /-- RMAX (R223). -/
  | rmax (p : Fin 16) (t : StreamTag)
  /-- RMIN (R223). -/
  | rmin (p : Fin 16) (t : StreamTag)
  /-- RSUMSQ (R223). -/
  | rsumsq (p : Fin 16) (t : StreamTag)
  /-- SOFTMAX (R226). -/
  | softmax (p : Fin 16) (t : StreamTag)
  /-- RMSNORM (R227). -/
  | rmsnorm (p : Fin 16) (t : StreamTag)
  /-- LAYERNORM (R227). -/
  | layernorm (p : Fin 16) (t : StreamTag)
  /-- TBLLOAD (R231). -/
  | tblload (p : Fin 16) (t : StreamTag)
  /-- UPD (R307). -/
  | upd (p : Fin 16) (t : StreamTag)
  /-- PREF (R347). -/
  | pref (p : Fin 16) (t : StreamTag)
  /-- MIGR (R335). -/
  | migr (p : Fin 16) (t : StreamTag)
  /-- PUB (R342). -/
  | pub (p : Fin 16) (t : StreamTag)
  /-- PUB_PUBLISH (R342). -/
  | pubPublish (p : Fin 16) (t : StreamTag) (k : Nat)
  /-- COLL (R371). -/
  | coll (p : Fin 16) (t : StreamTag)
  /-- SEND (R373). -/
  | send (p : Fin 16) (t : StreamTag)
  /-- RECV (R373). -/
  | recv (p : Fin 16) (t : StreamTag)
  /-- COMMAND_COMPLETE (R57). -/
  | commandComplete (p : Fin 16) (t : StreamTag) (k : Nat)
  /-- WAIT_TIMEOUT (R96). -/
  | waitTimeout (p : Fin 16) (t : StreamTag)
  /-- PROGRESS_WATCHDOG_EXPIRY (R453). -/
  | progressWatchdogExpiry (p : Fin 16) (t : StreamTag)
  /-- PARTITION_DRAIN_DONE (R449). -/
  | partitionDrainDone (p : Fin 16)
  /-- DUMP_START (R462). -/
  | dumpStart (who : Requester) (value : Word)
  /-- DUMP_CAPTURE_DONE (R462). -/
  | dumpCaptureDone
  /-- DUMP_RELEASE (R464). -/
  | dumpRelease (who : Requester) (value : Word)
  /-- PATROL_READ (R327). -/
  | patrolRead (g : Fin 4) (upset : List Upset)
  /-- PROOF_RUN_START (R455). -/
  | proofRunStart (kind : Nat) (index : Nat)
  /-- PROOF_RUN_DONE (R457). -/
  | proofRunDone (kind : Nat) (index : Nat) (lasting : Bool) (failing : List Nat)
  /-- RETIRE_MOVE_DONE (R459). -/
  | retireMoveDone (index : Nat)
  /-- AUTO_MIGRATION_WINDOW (R334). -/
  | autoMigrationWindow (eastFirst : Bool)
  /-- EXCHANGE_DONE (R336). -/
  | exchangeDone (p : Fin 16) (index : Nat)
  /-- FRAME_ZEROED (R339). -/
  | frameZeroed (p : Fin 16) (index : Nat)
  /-- PREFETCH_ENTRY_START (R348). -/
  | prefetchEntryStart (p : Fin 16)
  /-- PREFETCH_COPY_DONE (R348). -/
  | prefetchCopyDone (p : Fin 16)
  /-- COUNTER_WRAP (R474). -/
  | counterWrap (core : Fin 64) (j : Fin 16)
  /-- DB_CNT_WRITE (R470). -/
  | dbCntWrite (who : Requester) (addr : Word) (value : Word)
  /-- MONITOR_WINDOW_END (R479). -/
  | monitorWindowEnd (m : Fin 64) (rx : Nat) (tx : Nat)
  /-- DB_MON_CFG (R479). -/
  | dbMonCfg (who : Requester) (addr : Word) (value : Word)
  /-- ATTEST_START (R393). -/
  | attestStart (who : Requester) (value : Word)
  /-- ATTEST_DONE (R393). -/
  | attestDone
  /-- FLASH_READ (R397). -/
  | flashRead (who : Requester) (value : Word)
  /-- FLASH_PROGRAM (R397). -/
  | flashProgram (who : Requester) (value : Word)
  /-- FLASH_ERASE (R397). -/
  | flashErase (who : Requester) (value : Word)
  /-- FLASH_OP_DONE (R397). -/
  | flashOpDone (ok : Bool)
  /-- COMMIT_SVN (R389). -/
  | commitSvn (who : Requester) (value : Word)
  /-- REVOKE_RSA (R389). -/
  | revokeRsa (who : Requester) (k : Fin 4) (value : Word)
  /-- REVOKE_SLH (R389). -/
  | revokeSlh (who : Requester) (k : Fin 4) (value : Word)
  /-- CONTROL_WRITE (R5). -/
  | controlWrite (who : Requester) (addr : Word) (value : Word)
  /-- CXL_LINK_UP (R331). -/
  | cxlLinkUp (x : Fin 4)
  /-- PFC_PAUSE_EXPIRY (R353). -/
  | pfcPauseExpiry (c : PortClass)
  /-- UPPER_SHELF_TRAINED (R380). -/
  | upperShelfTrained (ok : Bool)
  /-- LANE_SPARING_DONE (R458). -/
  | laneSparingDone (link : Fin 2)
  /-- P54_FALLS_BELOW_20V (R498). -/
  | p54FallsBelow20v
  deriving DecidableEq, Repr

end Sys2Proof
end

