-- ==== Sys2Proof/Decode.lean ====
section
/-! DEFINITION. Commands from words: no row of opcode_table.json carries bits, so no word spells a command. -/

namespace Sys2Proof

/-- The command that a word spells by the table's bits: the table gives no row any bits, so none. -/
def decodeTableWord (_nbits _w : Nat) : Option Instr := none

end Sys2Proof
end

