-- ==== Sys2Proof/Machine/Sparse.lean ====
section
/-! DEFINITION. Sparse data in ONE canonical form: a list of (key, value) pairs with strictly rising keys that never
lists the value an unlisted key reads as. Memory, register files and every numbered collection of the block are held
so, hence equal contents are equal data. -/

namespace Sys2Proof.Machine

/-- Numbered data; an unlisted key reads as a default that its owner names. -/
abbrev Sparse (α : Type) := List (Nat × α)

/-- The value at key `k`; `d` where the key is not listed. -/
def Sparse.get {α : Type} (d : α) : Sparse α → Nat → α
  | [], _ => d
  | (k', v) :: rest, k => if k = k' then v else if k < k' then d else Sparse.get d rest k

/-- Put `v` at key `k`, keeping the canonical form: writing the default removes the entry. -/
def Sparse.set {α : Type} [DecidableEq α] (d : α) : Sparse α → Nat → α → Sparse α
  | [], k, v => if v = d then [] else [(k, v)]
  | (k', v') :: rest, k, v =>
    if k < k' then (if v = d then (k', v') :: rest else (k, v) :: (k', v') :: rest)
    else if k = k' then (if v = d then rest else (k, v) :: rest)
    else (k', v') :: Sparse.set d rest k v

/-- Apply `f` at key `k`. -/
def Sparse.modify {α : Type} [DecidableEq α] (d : α) (m : Sparse α) (k : Nat) (f : α → α) : Sparse α :=
  Sparse.set d m k (f (Sparse.get d m k))

/-- Every listed key of `lo .. lo + n - 1` goes back to the default. -/
def Sparse.clearRange {α : Type} (m : Sparse α) (lo n : Nat) : Sparse α :=
  m.filter (fun e => decide (e.1 < lo) || decide (lo + n ≤ e.1))

/-- Write a run of values from key `k` upward. -/
def Sparse.setRun {α : Type} [DecidableEq α] (d : α) : Sparse α → Nat → List α → Sparse α
  | m, _, [] => m
  | m, k, v :: vs => Sparse.setRun d (Sparse.set d m k v) (k + 1) vs

/-- Read `n` values from key `k` upward. -/
def Sparse.getRun {α : Type} (d : α) (m : Sparse α) : Nat → Nat → List α
  | _, 0 => []
  | k, n + 1 => Sparse.get d m k :: Sparse.getRun d m (k + 1) n

/-- The canonical form where an unlisted key `k` reads as `f k`: keys strictly rising from `lo`, no entry equal to what
its key reads as when unlisted. -/
def Sparse.wfBy {α : Type} [DecidableEq α] (f : Nat → α) : Nat → Sparse α → Bool
  | _, [] => true
  | lo, (k, v) :: rest => decide (lo ≤ k) && decide (v ≠ f k) && Sparse.wfBy f (k + 1) rest

/-- The canonical form holds, the default being `d` for every key. -/
def Sparse.wf {α : Type} [DecidableEq α] (d : α) (m : Sparse α) : Bool := Sparse.wfBy (fun _ => d) 0 m

end Sys2Proof.Machine
end

