-- ==== Sys2Proof/Machine/Bits.lean ====
section
/-! DEFINITION. Bit fields and byte order (R11): bits are numbered from 0 at the least significant end, multi-byte
values are little-endian. -/

namespace Sys2Proof.Machine

/-- The field [hi:lo] of a word of any width, as a number. -/
def field {n : Nat} (w : BitVec n) (hi lo : Nat) : Nat := (w.toNat >>> lo) % 2 ^ (hi + 1 - lo)

/-- Bit i of a word. -/
def flag {n : Nat} (w : BitVec n) (i : Nat) : Bool := w.getLsbD i

/-- A field value placed at bit `lo`. -/
def at32 (lo v : Nat) : Word := BitVec.ofNat 32 (v * 2 ^ lo)

/-- One bit placed at bit `i`. -/
def bit32 (i : Nat) (b : Bool) : Word := if b then BitVec.ofNat 32 (2 ^ i) else 0#32

/-- The mask of the bits [hi:lo]. -/
def mask32 (hi lo : Nat) : Word := BitVec.ofNat 32 ((2 ^ (hi + 1 - lo) - 1) * 2 ^ lo)

/-- `w` with the bits of `m` taken from `v`. -/
def merge32 (w m v : Word) : Word := (w &&& ~~~m) ||| (v &&& m)

/-- `w` with the field [hi:lo] set to `v`. -/
def setField (w : Word) (hi lo v : Nat) : Word := merge32 w (mask32 hi lo) (at32 lo v)

/-- `w` with bit `i` set to `b`. -/
def setBit (w : Word) (i : Nat) (b : Bool) : Word := merge32 w (mask32 i i) (bit32 i b)

/-- The `n` little-endian bytes of a number (R11). -/
def leBytes : Nat → Nat → List Byte
  | 0, _ => []
  | n + 1, v => BitVec.ofNat 8 v :: leBytes n (v / 256)

/-- The number that little-endian bytes spell (R11). -/
def leNat : List Byte → Nat
  | [] => 0
  | b :: bs => b.toNat + 256 * leNat bs

/-- The `n` big-endian bytes of a number, as the SHA-2 standard lays out words. -/
def beBytes (n v : Nat) : List Byte := (leBytes n v).reverse

/-- The number that big-endian bytes spell. -/
def beNat (bs : List Byte) : Nat := leNat bs.reverse

/-- Cut a list into pieces of `n` (with fuel for the number of pieces). -/
def chunks {α : Type} (n : Nat) : Nat → List α → List (List α)
  | 0, _ => []
  | k + 1, xs => xs.take n :: chunks n k (xs.drop n)

/-- Bytes `lo .. lo + n - 1` of a byte string; bytes past its end read zero. -/
def slice (bs : List Byte) (lo n : Nat) : List Byte :=
  (bs.drop lo).take n ++ List.replicate (n - ((bs.drop lo).take n).length) 0#8

/-- The little-endian number in bytes `lo .. lo + n - 1`. -/
def leAt (bs : List Byte) (lo n : Nat) : Nat := leNat (slice bs lo n)

/-- The bytes of an ASCII label. -/
def ascii (s : String) : List Byte := s.toList.map (fun c => BitVec.ofNat 8 c.toNat)

/-- A 32-bit signed value of a two's complement number of `n` bits. -/
def signedOf (n v : Nat) : Int := if v < 2 ^ (n - 1) then (v : Int) else (v : Int) - 2 ^ n

/-- GE of Table 3-4 and R95: the signed 32-bit difference is zero or positive. -/
def geSigned (a b : Word) : Bool := !(a - b).getLsbD 31

/-- Saturating count of 32 bits (R257). -/
def satAdd32 (a n : Nat) : Nat := min (a + n) 0xFFFFFFFF

/-- 48-bit counts wrap past 2^48 - 1. -/
def wrap48 : Nat := 2 ^ 48

end Sys2Proof.Machine
end

