-- ==== Sys2Proof/Machine/Cloile.lean ====
section
/-! DEFINITION. The Cloile code C256 (R318 to R321): RS(36,32) over GF(2^8), every granule carries four check bytes. -/

namespace Sys2Proof.Machine

/-- Multiply by α = 0x02 modulo x^8 + x^4 + x^3 + x^2 + 1 (R318). -/
def gfDouble (b : Byte) : Byte := (b <<< 1) ^^^ (if b.getLsbD 7 then 0x1D#8 else 0#8)

/-- Product in GF(2^8): bits of `b` from the least significant upward. -/
def gfMulAux : Nat → Byte → Byte → Byte
  | 0, _, _ => 0#8
  | n + 1, a, b => (if b.getLsbD 0 then a else 0#8) ^^^ gfMulAux n (gfDouble a) (b >>> 1)

/-- Product in GF(2^8). -/
def gfMul (a b : Byte) : Byte := gfMulAux 8 a b

/-- α^n. -/
def gfAlpha : Nat → Byte
  | 0 => 1#8
  | n + 1 => gfDouble (gfAlpha n)

/-- Powers by squaring and multiplying; a^254 is the inverse. -/
def gfInv (a : Byte) : Byte :=
  let a2 := gfMul a a
  let a4 := gfMul a2 a2
  let a8 := gfMul a4 a4
  let a16 := gfMul a8 a8
  let a32 := gfMul a16 a16
  let a64 := gfMul a32 a32
  let a128 := gfMul a64 a64
  gfMul (gfMul (gfMul a2 a4) (gfMul a8 a16)) (gfMul (gfMul a32 a64) a128)

/-- Coefficients of g(x) below x^4, from x^3 down, of (x - 1)(x - α)(x - α²)(x - α³) (R318). -/
def c256Gen : List Byte :=
  let a := gfAlpha
  let mulRoot := fun (p : List Byte) (r : Byte) =>
    List.zipWith (· ^^^ ·) (p ++ [0#8]) (0#8 :: p.map (gfMul r))
  ([a 0, a 1, a 2, a 3].foldl mulRoot [1#8]).drop 1

/-- One step of the division: feed the next data byte into the remainder p0..p3. -/
def c256Feed (p : List Byte) (d : Byte) : List Byte :=
  let f := p.getD 0 0#8 ^^^ d
  List.zipWith (· ^^^ ·) (p.drop 1 ++ [0#8]) (c256Gen.map (gfMul f))

/-- The four check bytes of the 32 data bytes of a granule. -/
def c256Check (data : List Byte) : List Byte := data.foldl c256Feed [0#8, 0#8, 0#8, 0#8]

/-- Syndrome j of a 36-byte word: its polynomial at α^j, by Horner's rule. -/
def c256Syn (word : List Byte) (j : Nat) : Byte :=
  word.foldl (fun acc b => gfMul acc (gfAlpha j) ^^^ b) 0#8

/-- All four syndromes. -/
def c256Syns (word : List Byte) : List Byte := (List.range 4).map (c256Syn word)

/-- Flip byte `i` of a word by `e`. -/
def flipByte (word : List Byte) (i : Nat) (e : Byte) : List Byte := word.set i (word.getD i 0#8 ^^^ e)

/-- Decoding policies of Table 13-1. -/
inductive Policy where
  | correct1 | correct2
  deriving DecidableEq, Repr

/-- What a decoder delivers. -/
inductive Decoded where
  | clean (data : List Byte)
  | corrected (data : List Byte)
  | uncorrectable
  deriving DecidableEq, Repr

/-- The correction of one byte at position i (its x-power is 35 - i), if it explains every syndrome. -/
def c256Try1 (word : List Byte) (i : Nat) : Option (List Byte) :=
  let w := flipByte word i (c256Syn word 0)
  if c256Syn word 0 ≠ 0#8 ∧ c256Syns w = [0#8, 0#8, 0#8, 0#8] then some w else none

/-- The correction of two bytes at positions i < j: solve e1 + e2 = s0, e1·x1 + e2·x2 = s1, then check. -/
def c256Try2 (word : List Byte) (i j : Nat) : Option (List Byte) :=
  let s0 := c256Syn word 0
  let s1 := c256Syn word 1
  let x1 := gfAlpha (35 - i)
  let x2 := gfAlpha (35 - j)
  let e1 := gfMul (gfMul s0 x2 ^^^ s1) (gfInv (x1 ^^^ x2))
  let w := flipByte (flipByte word i e1) j (s0 ^^^ e1)
  if e1 ≠ 0#8 ∧ s0 ^^^ e1 ≠ 0#8 ∧ c256Syns w = [0#8, 0#8, 0#8, 0#8] then some w else none

/-- All pairs of positions of a 36-byte word. -/
def c256Pairs : List (Nat × Nat) :=
  (List.range 36).flatMap (fun i => ((List.range 36).filter (fun j => decide (i < j))).map (fun j => (i, j)))

/-- Decode a 36-byte granule word under a policy (R320, R321). -/
def c256Decode (pol : Policy) (word : List Byte) : Decoded :=
  if c256Syns word = [0#8, 0#8, 0#8, 0#8] then .clean (word.take 32)
  else match (List.range 36).findSome? (c256Try1 word) with
    | some w => .corrected (w.take 32)
    | none =>
      match pol with
      | .correct1 => .uncorrectable
      | .correct2 =>
        match c256Pairs.findSome? (fun p => c256Try2 word p.1 p.2) with
        | some w => .corrected (w.take 32)
        | none => .uncorrectable

end Sys2Proof.Machine
end

