-- ==== Sys2Proof/Machine/Floats.lean ====
section
/-! DEFINITION. Numbers (05_number_formats): decoded values are exact rationals with IEEE infinities and signed zeros
(R126), and every conversion rounds once by R120 to R125. -/

namespace Sys2Proof.Machine

/-- NaN trap kinds of Table 5-7. -/
inductive TrapKind where
  | invalid | nanInput | infNarrow | badScale | badCode
  deriving DecidableEq, Repr

/-- The KIND code of Table 5-7. -/
def TrapKind.code : TrapKind → Nat
  | .invalid => 1 | .nanInput => 2 | .infNarrow => 3 | .badScale => 4 | .badCode => 5

/-- A decoded value: a finite exact rational (zero carries a sign) or an infinity. A NaN is never a value: a unit that
reads or makes one traps (R128). -/
inductive Num where
  | fin (q : Rat) (negZero : Bool)
  | inf (neg : Bool)
  deriving DecidableEq, Repr

/-- A finite value; zero is +0. -/
def Num.ofRat (q : Rat) : Num := .fin q false

/-- +0. -/
def Num.zero : Num := .fin 0 false

/-- The value 1. -/
def Num.one : Num := .fin 1 false

/-- An integer value. -/
def Num.ofInt (i : Int) : Num := .fin (i : Rat) false

/-- Zero of either sign. -/
def Num.isZero : Num → Bool
  | .fin q _ => decide (q = 0)
  | .inf _ => false

/-- An infinity. -/
def Num.isInf : Num → Bool
  | .fin _ _ => false
  | .inf _ => true

/-- The sign bit of the value. -/
def Num.isNeg : Num → Bool
  | .fin q nz => if q = 0 then nz else decide (q < 0)
  | .inf n => n

/-- The rational of a finite value; 0 for an infinity. -/
def Num.rat : Num → Rat
  | .fin q _ => q
  | .inf _ => 0

/-- The magnitude of a finite value. -/
def ratAbs (q : Rat) : Rat := if q < 0 then -q else q

/-- The opposite value. -/
def Num.neg : Num → Num
  | .fin q nz => if q = 0 then .fin 0 (!nz) else .fin (-q) false
  | .inf n => .inf (!n)

/-- The magnitude. -/
def Num.abs (x : Num) : Num := if x.isNeg then x.neg else x

/-- Exact sum: opposite infinities are INVALID, and a sum of zero is +0, also of -0 and -0 (R126). -/
def Num.add (a b : Num) : Except TrapKind Num :=
  match a, b with
  | .inf m, .inf n => if m = n then .ok (.inf m) else .error .invalid
  | .inf m, .fin _ _ => .ok (.inf m)
  | .fin _ _, .inf n => .ok (.inf n)
  | .fin p _, .fin q _ => .ok (Num.ofRat (p + q))

/-- Exact product; 0 times an infinity is INVALID (Table 5-7). -/
def Num.mul (a b : Num) : Except TrapKind Num :=
  let s := a.isNeg != b.isNeg
  match a, b with
  | .fin p _, .fin q _ => .ok (.fin (p * q) (decide (p * q = 0) && s))
  | _, _ => if a.isZero || b.isZero then .error .invalid else .ok (.inf s)

/-- Exact quotient; 0/0 and inf/inf are INVALID, a finite non-zero value by zero is an infinity (R220). -/
def Num.div (a b : Num) : Except TrapKind Num :=
  let s := a.isNeg != b.isNeg
  match a, b with
  | .inf _, .inf _ => .error .invalid
  | .inf _, .fin _ _ => .ok (.inf s)
  | .fin _ _, .inf _ => .ok (.fin 0 s)
  | .fin p _, .fin q _ =>
    if q = 0 then (if p = 0 then .error .invalid else .ok (.inf s))
    else .ok (.fin (p / q) (decide (p = 0) && s))

/-- Order of values; -0 and +0 compare equal. -/
def Num.lt (a b : Num) : Bool :=
  match a, b with
  | .inf m, .inf n => m && !n
  | .inf m, .fin _ _ => m
  | .fin _ _, .inf n => !n
  | .fin p _, .fin q _ => decide (p < q)

/-- Exact maximum; max(-0, +0) is +0 in either order (R135, R220). -/
def Num.max (a b : Num) : Num :=
  if a.lt b then b else if b.lt a then a else if a.isZero && a.isNeg then b else a

/-- Exact minimum; min(-0, +0) is -0 in either order (R135, R220). -/
def Num.min (a b : Num) : Num :=
  if a.lt b then a else if b.lt a then b else if a.isZero && !a.isNeg then b else a

/-- 2^i as a rational. -/
def pow2 (i : Int) : Rat := if 0 ≤ i then ((2 ^ i.toNat : Nat) : Rat) else 1 / ((2 ^ (-i).toNat : Nat) : Rat)

/-- floor(log2 q) of a positive rational. -/
def floorLog2 (q : Rat) : Int :=
  let e : Int := (Nat.log2 q.num.natAbs : Int) - (Nat.log2 q.den : Int)
  if pow2 e ≤ q then e else e - 1

/-- The rounding of a conversion (R120, R122): `stoch r` carries the 24-bit draw. -/
inductive Rounding where
  | nearestEven | towardZero | stoch (draw : Nat)
  deriving DecidableEq, Repr

/-- R122: the upper neighbour is delivered when the draw is below ⌊2^24 × fraction⌋. -/
def stochUp (frac : Rat) (draw : Nat) : Bool := decide ((draw : Int) < (frac * ((2 ^ 24 : Nat) : Rat)).floor)

/-- Round an exact quotient to an integer by R120. -/
def roundInt (m : Rounding) (x : Rat) : Int :=
  let f := x.floor
  let r := x - (f : Rat)
  if r = 0 then f else
  match m with
  | .nearestEven => if r < 1 / 2 then f else if 1 / 2 < r then f + 1 else if f % 2 = 0 then f else f + 1
  | .towardZero => if 0 ≤ x then f else f + 1
  | .stoch d => if stochUp r d then f + 1 else f

/-- A floating-point format of Table 5-5; `hasInf` is false for E4M3 alone. -/
structure FloatFmt where
  expBits : Nat
  fracBits : Nat
  bias : Int
  hasInf : Bool
  deriving DecidableEq, Repr

def fE4M3 : FloatFmt := ⟨4, 3, 7, false⟩
def fE5M2 : FloatFmt := ⟨5, 2, 15, true⟩
def fFP16 : FloatFmt := ⟨5, 10, 15, true⟩
def fBF16 : FloatFmt := ⟨8, 7, 127, true⟩
def fFP32 : FloatFmt := ⟨8, 23, 127, true⟩
def fM40 : FloatFmt := ⟨8, 31, 127, true⟩
def fW48 : FloatFmt := ⟨9, 38, 255, true⟩

/-- The bit of the sign. -/
def FloatFmt.signBit (f : FloatFmt) : Nat := 2 ^ (f.expBits + f.fracBits)

/-- The magnitude code of infinity (IEEE formats). -/
def FloatFmt.infCode (f : FloatFmt) : Nat := (2 ^ f.expBits - 1) * 2 ^ f.fracBits

/-- The largest finite magnitude code. -/
def FloatFmt.maxCode (f : FloatFmt) : Nat :=
  if f.hasInf then f.infCode - 1 else 2 ^ (f.expBits + f.fracBits) - 2

/-- Decode a code by Table 5-5; every NaN code traps with NAN_INPUT (R116, Table 5-7). -/
def FloatFmt.decode (f : FloatFmt) (code : Nat) : Except TrapKind Num :=
  let neg := decide (code / f.signBit % 2 = 1)
  let mag := code % f.signBit
  if f.maxCode < mag then
    if f.hasInf && decide (mag = f.infCode) then .ok (.inf neg) else .error .nanInput
  else
    let e := mag / 2 ^ f.fracBits
    let fr := mag % 2 ^ f.fracBits
    let v : Rat := if e = 0 then (fr : Rat) * pow2 (1 - f.bias - f.fracBits)
      else ((2 ^ f.fracBits + fr : Nat) : Rat) * pow2 ((e : Int) - f.bias - f.fracBits)
    .ok (if v = 0 then .fin 0 neg else .fin (if neg then -v else v) false)

/-- The value of a code that is no NaN; a NaN code reads +0 here, so callers that must trap use `decode`. -/
def FloatFmt.value (f : FloatFmt) (code : Nat) : Num :=
  match f.decode code with
  | .ok v => v
  | .error _ => Num.zero

/-- The magnitude code of a rounded non-negative value on a grid that continues past the format's range. -/
def FloatFmt.magCode (f : FloatFmt) (m : Rounding) (neg : Bool) (a : Rat) : Nat :=
  if a = 0 then 0 else
  let e := max (floorLog2 a) (1 - f.bias)
  let q := a / pow2 (e - f.fracBits)
  let k : Int := if neg then -(roundInt m (-q)) else roundInt m q
  ((e + f.bias - 1) * (2 ^ f.fracBits : Nat) + k).toNat

/-- The result of encoding one element: its code and whether it saturated (R123). -/
structure Enc where
  code : Nat
  sat : Bool
  deriving DecidableEq, Repr

/-- Encode into a wide target (R125): overflow goes to infinity, or to the largest finite value toward zero. -/
def FloatFmt.encodeWide (f : FloatFmt) (m : Rounding) (x : Num) : Nat :=
  let s := if x.isNeg then f.signBit else 0
  match x with
  | .inf _ => s + f.infCode
  | .fin q _ =>
    let c := f.magCode m x.isNeg (ratAbs q)
    if f.maxCode < c then (match m with | .towardZero => s + f.maxCode | _ => s + f.infCode) else s + c

/-- Encode into the saturating targets E4M3 and E5M2 (R123, R125). Past the range the grid keeps the edge's spacing,
so a stochastic draw beyond the edge uses that spacing (R120). -/
def FloatFmt.encodeSat (f : FloatFmt) (m : Rounding) (x : Num) : Except TrapKind Enc :=
  let s := if x.isNeg then f.signBit else 0
  match x with
  | .inf _ => if f.hasInf then .ok ⟨s + f.infCode, false⟩ else .error .infNarrow
  | .fin q _ =>
    let c := f.magCode m x.isNeg (ratAbs q)
    .ok (if f.maxCode < c then ⟨s + f.maxCode, true⟩ else ⟨s + c, false⟩)

/-- Round a value once to the format by nearest-even (rne_w48, rne_fp32, rne_bf16). -/
def FloatFmt.rne (f : FloatFmt) (x : Num) : Num := f.value (f.encodeWide .nearestEven x)

def addR (f : FloatFmt) (a b : Num) : Except TrapKind Num := (a.add b).map f.rne
def subR (f : FloatFmt) (a b : Num) : Except TrapKind Num := (a.add b.neg).map f.rne
def mulR (f : FloatFmt) (a b : Num) : Except TrapKind Num := (a.mul b).map f.rne
def divR (f : FloatFmt) (a b : Num) : Except TrapKind Num := (a.div b).map f.rne

/-- Square root rounded once (R136, R220); a value below -0 is INVALID. The integer root of the scaled radicand decides
the nearest significand exactly. -/
def sqrtR (f : FloatFmt) (x : Num) : Except TrapKind Num :=
  match x with
  | .inf true => .error .invalid
  | .inf false => .ok (.inf false)
  | .fin q nz =>
    if q = 0 then .ok (.fin 0 nz) else if q < 0 then .error .invalid else
    let e := max (floorLog2 q / 2) (1 - f.bias)
    let u := pow2 (e - f.fracBits)
    let z := q / (u * u)
    let a := Nat.sqrt z.floor.toNat
    let h : Rat := ((2 * a + 1 : Nat) : Rat) / 2
    let k := if z < h * h then a else if h * h < z then a + 1 else if a % 2 = 0 then a else a + 1
    .ok (f.rne (Num.ofRat ((k : Rat) * u)))

/-! ### Errors of values formed together (R129) -/

/-- NaNs of values that one unit forms in one cycle: the first in place, and how many others there are. -/
structure Nans where
  kind : TrapKind
  place : Nat
  more : Nat
  deriving DecidableEq, Repr

/-- The errors of two groups of values formed together, the one at the lower place first. -/
def Nans.join (a b : Nans) : Nans :=
  if b.place < a.place then { b with more := a.more + b.more + 1 } else { a with more := a.more + b.more + 1 }

/-- Two results formed together. -/
def joinBoth {α β γ : Type} (f : α → β → γ) (a : Except Nans α) (b : Except Nans β) : Except Nans γ :=
  match a, b with
  | .ok x, .ok y => .ok (f x y)
  | .error e, .ok _ => .error e
  | .ok _, .error e => .error e
  | .error e, .error e' => .error (e.join e')

/-- The results of parts formed together. -/
def together {α : Type} : List (Except Nans α) → Except Nans (List α)
  | [] => .ok []
  | x :: xs => joinBoth List.cons x (together xs)

/-- The results of f on the values at places i, i + 1, … formed together. -/
def allAt {α β : Type} (f : Nat → α → Except TrapKind β) : Nat → List α → Except Nans (List β)
  | _, [] => .ok []
  | i, x :: xs => joinBoth List.cons ((f i x).mapError (fun k => ⟨k, i, 0⟩)) (allAt f (i + 1) xs)

/-- An error of a whole part, at its first place. -/
def wholeAt {α : Type} (i : Nat) (e : Except TrapKind α) : Except Nans α := e.mapError (fun k => ⟨k, i, 0⟩)

/-- Errors counted on from a base. -/
def fromPlace {α : Type} (base : Nat) (e : Except Nans α) : Except Nans α :=
  e.mapError (fun n => { n with place := base + n.place })

/-! ### Block scales (R109) -/

/-- SC16 codes with a name (Table 5-2). -/
def scZero : Nat := 0x0000
def scConst : Nat := 0x7F80
def scOne : Nat := 0x3F80

/-- A decoded block scale. -/
inductive Scale where
  | zero | const | val (s : Rat)
  deriving DecidableEq, Repr

/-- Decode an SC16 word; CONST is valid only where the tensor is asymmetric A8 or A4 (Table 5-2). -/
def decodeScale (constOk : Bool) (code : Nat) : Except TrapKind Scale :=
  if code = 0 then .ok .zero
  else if code < 0x7F80 then .ok (.val (fBF16.value code).rat)
  else if code = scConst && constOk then .ok .const
  else .error .badScale

/-- The smallest BF16 value not below a non-negative rational, limited to 2^-133 .. 0x7F7F (Table 8-4, R248, R310). -/
def bf16Ceil (x : Rat) : Nat :=
  if x ≤ 0 then 1 else
  let e := max (floorLog2 x) (-126)
  let k := (x / pow2 (e - 7)).ceil
  let c := ((e + 126) * 128 + k).toNat
  if 0x7F7F < c then 0x7F7F else if c = 0 then 1 else c

/-- The SC16 code of 2^e, e limited to -133 .. 127. -/
def pow2Code (e : Int) : Nat :=
  let e := max (-133) (min 127 e)
  if -126 ≤ e then ((e + 127) * 128).toNat else 2 ^ (e + 133).toNat

/-! ### Narrow codes (R111 to R114) -/

/-- Weight of a W1 code (Table 5-4). -/
def weightW1 (c : Nat) : Int := if c = 0 then 1 else -1

/-- Weight of a WT digit (Table 5-4). -/
def weightWT (d : Nat) : Int := if d = 0 then 0 else if d = 1 then 1 else -1

/-- Weight of a W2 code (Table 5-4). -/
def weightW2 (c : Nat) : Int := signedOf 2 c

/-- Round and limit to an integer range; saturation is judged on the rounded value (R123). -/
def encodeIntRange (lo hi : Int) (m : Rounding) (q : Rat) : Int × Bool :=
  let k := roundInt m q
  if hi < k then (hi, true) else if k < lo then (lo, true) else (k, false)

/-- Encode a quotient into W1, whose grid is the odd integers (R120). -/
def encodeW1 (m : Rounding) (q : Rat) : Enc :=
  let a : Int := 2 * ((q - 1) / 2).floor + 1
  let frac := (q - (a : Rat)) / 2
  let v : Int :=
    if frac = 0 then a else
    match m with
    | .nearestEven =>
      if frac < 1 / 2 then a else if 1 / 2 < frac then a + 2
      else if (a - 1) % 4 = 0 then a else a + 2
    | .towardZero =>
      if -1 < q ∧ q < 1 then (if q < 0 then -1 else 1) else if 0 < q then a else a + 2
    | .stoch d => if stochUp frac d then a + 2 else a
  ⟨if 0 < v then 0 else 1, decide (1 < v) || decide (v < -1)⟩

/-- Encode a quotient into WT digits (R120: a tie goes to 0; -1.5 goes to -1, +1.5 saturates). -/
def encodeWT (m : Rounding) (q : Rat) : Enc :=
  let k : Int := if m = .nearestEven ∧ q = -3 / 2 then -1 else roundInt m q
  if 1 < k then ⟨1, true⟩ else if k < -1 then ⟨2, true⟩ else ⟨if k = 0 then 0 else if k = 1 then 1 else 2, false⟩

/-- Encode a quotient into W2. -/
def encodeW2 (m : Rounding) (q : Rat) : Enc :=
  let r := encodeIntRange (-2) 1 m q
  ⟨(r.1 % 4).toNat, r.2⟩

/-- T[j] × 2^38 for T[j] = rne_w48(2^(j/8)) (Table 5-6). -/
def l8Table : List Nat :=
  [274877906944, 299756483061, 326886762695, 356472542425, 388736063997, 423919683755, 462287693163, 504128304111]

/-- The value of an L8 code at scale s (Table 5-6). -/
def decodeL8 (s : Rat) (c : Nat) : Num :=
  if c = 0 then Num.zero else
  let k : Int := (c : Int) - 255
  let j := (k % 8).toNat
  fW48.rne (Num.ofRat (s * (((l8Table.getD j 0 : Nat) : Rat) * pow2 (-38)) * pow2 (k / 8)))

/-- The largest L8 code whose value does not pass x, by bisection over the 256 codes. -/
def l8Below (s x : Rat) : Nat → Nat → Nat
  | 0, c => c
  | n + 1, c => if (decodeL8 s (c + 2 ^ n)).rat ≤ x then l8Below s x n (c + 2 ^ n) else l8Below s x n c

/-- Encode a value into L8 at scale s (R119, R120); a negative value is INVALID (Table 5-7). DESIGN CHOICE (assumption 65):
−∞ is both a negative input and an infinity that L8 cannot hold (R125), and the spec names no order: it is INVALID. -/
def encodeL8 (m : Rounding) (s : Rat) (x : Num) : Except TrapKind Enc :=
  match x with
  | .inf true => .error .invalid
  | .inf false => .error .infNarrow
  | .fin q _ =>
    if q < 0 then .error .invalid else
    let c := l8Below s q 8 0
    let v := (decodeL8 s c).rat
    let gap := if c = 255 then v - (decodeL8 s 254).rat else (decodeL8 s (c + 1)).rat - v
    let frac := (q - v) / gap
    let up : Bool :=
      if frac = 0 then false else
      match m with
      | .nearestEven => decide (1 / 2 < frac) || (decide (frac = 1 / 2) && decide (c % 2 = 1))
      | .towardZero => false
      | .stoch d => stochUp frac d
    .ok (if c = 255 then ⟨255, up || decide (1 ≤ frac)⟩ else ⟨if up then c + 1 else c, false⟩)

end Sys2Proof.Machine
end

