-- ==== Sys2Proof/Machine/Types.lean ====
section
/-! DEFINITION. The parts that State is made of, chapter by chapter. Every value of a `reset` or `free` part is the
spec's reset value where it gives one; INVENTORY.md lists each field with its rule. -/

namespace Sys2Proof.Machine

/-! ### Jobs and partitions (02) -/

/-- Partition states (Table 2-4). -/
inductive PartState where
  | free | admitted | loaded | running | stopping | stopped | complete | faulted | scrubbing
  deriving DecidableEq, Repr

/-- The code of Table 2-4. -/
def PartState.code : PartState → Nat
  | .free => 0 | .admitted => 1 | .loaded => 2 | .running => 3 | .stopping => 4
  | .stopped => 5 | .complete => 6 | .faulted => 7 | .scrubbing => 8

/-- STOP_MODE of Table 2-8. -/
inductive StopMode where
  | none | boundary | halt
  deriving DecidableEq, Repr

def StopMode.code : StopMode → Nat
  | .none => 0 | .boundary => 1 | .halt => 2

/-- Privilege levels (Table 2-3). -/
inductive Level where
  | owner | tenant (p : Fin 16) | firmware
  deriving DecidableEq, Repr

/-- Where the answer of a verb goes: a session of one generation and the PSN of the request it answers. -/
structure ReplyTo where
  sess : Fin 64
  gen : Nat
  seq : Nat
  deriving DecidableEq, Repr

/-- One entry of the ADMIT layer table (Table 14-8, R47). -/
structure LayerEntry where
  tokens : Nat
  k : Nat
  startA8 : Bool
  ceiling : Nat
  coexist : Nat
  deriving DecidableEq, Repr

/-- The ADMIT record (Table 14-8) after parsing. -/
structure AdmitRecord where
  part : Nat
  shape : Nat
  origin : Nat
  u : Nat
  lT : Nat
  lR : Nat
  soBase : Nat
  soCount : Nat
  slotBase : Nat
  slotCount : Nat
  desc : Nat
  groups : Nat
  conns : Nat
  credential : List Byte
  layers : List LayerEntry
  deriving DecidableEq, Repr

/-- The LOAD record (Table 14-9) after parsing. -/
structure LoadRecord where
  part : Nat
  seed : Nat
  skip : Bool
  tierMode : Nat
  wdRelaxed : Bool
  fEntry : Nat
  bEntry : Nat
  uEntry : Nat
  deriving DecidableEq, Repr

/-- A job verb at the intake (R41). -/
inductive JobVerb where
  | admission (r : AdmitRecord)
  | load (r : LoadRecord)
  | start
  | stop (halt : Bool)
  | release
  | malformed (isAdmit : Bool) (part : Nat)   -- an ADMIT, or another verb, whose record breaks its table (R41, R43)
  deriving DecidableEq, Repr

/-- A verb with the place its answer goes to, and whether the session that sent it is a tenant's (R37). -/
structure VerbReq where
  verb : JobVerb
  reply : ReplyTo
  tenant : Bool
  deriving DecidableEq, Repr

/-! ### Function tables (09) -/

/-- A loaded function table (Table 9-2): the eight FP32 words, KIND and the coefficient codes C0, C1, C2 by segment. -/
structure FuncTable where
  derivative : Bool
  x0 : Nat
  x1 : Nat
  w : Nat
  loValue : Nat
  loSlope : Nat
  hiValue : Nat
  hiSlope : Nat
  coeffs : List (Nat × Nat × Nat)
  deriving DecidableEq, Repr

/-! ### Streams (03) -/

/-- The stored part of SQ_STREAM_STATUS.STATE; the WAIT codes are computed from the head command (Table 3-13). -/
inductive StreamState where
  | idle | running | stopped | done | refused | faulted
  deriving DecidableEq, Repr

/-- What a command in flight still needs before it can complete. -/
inductive FlightWait where
  | none                       -- its effects are done: COMMAND_COMPLETE may come
  | trapped                    -- it faulted: it never completes (R449)
  | ended                      -- it ended without completing (R42, R449)
  | sigAck                     -- a remote signal to be acknowledged (R99)
  | sendCts                    -- a matched SEND waiting for SEND_CTS (R373)
  | sendAck (n : Nat)          -- a SEND with n frames to be acknowledged
  | recvData                   -- a RECV whose data has not all arrived
  | coll                       -- a COLL whose contributions have not all arrived
  | direct                     -- a CFLUSH with DIRECT whose COLL has not issued (R42)
  | crust                      -- an FMAT with CRUST whose crust rows have not all come (R157)
  | push (k : Nat)             -- a crust BMAT that met a full crust queue after k tokens, its FMAT not begun (R157, R240)
  | behind                     -- issued behind such an FMAT on the same engines: runs after it (R76)
  | pref                       -- a PREF whose list is not yet accepted (R347)
  | migr (pages : List Nat)    -- a MIGR with pages still to move (R335)
  | pub                        -- a PUB whose slot's writes are not yet done (R342)
  | table (k : Nat) (f : FuncTable)  -- a TBLLOAD: the table it installs as it completes (R231)
  | update (entry : List Byte) (events : Nat)  -- a UPD: bytes 64 to 91 of its group entry, which it writes as it
                               -- completes, and the bits of MM_UU_EVENTS it then posts (R302, R313)
  deriving DecidableEq, Repr

/-- A command issued and not yet out of its stream's order of signals (R56, R62). -/
structure Flight where
  word : Granule
  pc : Nat
  seq : Nat
  wait : FlightWait
  done : Bool
  mute : Bool                  -- issued after a command that faulted: applies no signal (R449)
  reads : List Nat             -- region slots it holds a reference on (R341)
  writes : List Nat            -- region slots it writes (R342)
  named : List Nat             -- descriptors it reads or writes through
  wrote : List (Nat × Nat × Nat)  -- bytes it writes, complete only with it (R84): space, address, length
  table : Option FuncTable     -- the function table it evaluates, as it stood at its issue (R231)
  deriving DecidableEq, Repr

/-- One sequencer (R52, Table 3-12). -/
structure Stream where
  state : StreamState
  refuse : Nat
  pc : Nat
  head : Option Granule
  waitMet : Bool
  step : Nat
  loop : Option Nat
  loopAt : Nat
  layer : Nat
  oper : Nat
  issued : Nat
  flight : List Flight
  descCache : Sparse (BitVec 512)
  waitFault : Word
  marker : Nat
  mute : Bool                  -- a command of the stream has faulted (R449)
  lastPc : Nat                 -- the command most recently issued (R474): its address and opcode
  lastOp : Nat
  deriving DecidableEq, Repr

def Stream.idle : Stream :=
  { state := .idle, refuse := 0, pc := 0, head := none, waitMet := false, step := 0, loop := none, loopAt := 0,
    layer := 0, oper := 0, issued := 0, flight := [], descCache := [], waitFault := 0#32, marker := 0, mute := false,
    lastPc := 0, lastOp := 0 }

/-! ### Synchronisation objects (04) -/

/-- One sync object (R87). -/
structure SyncObj where
  value : Word
  epoch : BitVec 16
  wrap : Bool
  deriving DecidableEq, Repr

def SyncObj.zero : SyncObj := ⟨0#32, 0#16, false⟩

/-! ### Fault record (18) -/

/-- The fault record of a partition (Table 18-2). -/
structure FaultRec where
  cause : Nat
  kind : Nat
  stream : Nat
  unit : Nat
  layer : Nat
  oper : Nat
  core : Nat
  place : Nat
  refuse : Nat
  step : Nat
  pc : Nat
  tile : List Nat
  addr : Nat
  chan : Nat
  further : Nat
  tick : Nat
  deriving DecidableEq, Repr

def FaultRec.none : FaultRec :=
  { cause := 0, kind := 0, stream := 0, unit := 0, layer := 0, oper := 0, core := 0, place := 0, refuse := 0,
    step := 0, pc := 0, tile := [0, 0, 0, 0], addr := 0, chan := 0, further := 0, tick := 0 }

/-! ### Shelves (13). A frame id is the frame's number on the upper shelf, or lowerBase + port × 2^24 + number. -/

/-- Region slot states (Table 13-6). -/
inductive RegionState where
  | free | opened | published | retired
  deriving DecidableEq, Repr

/-- One region slot (R338): `frames` maps a page of the slot to its frame id plus 1. -/
structure Region where
  state : RegionState
  name : Nat
  refs : Nat
  frames : Sparse Nat
  deriving DecidableEq, Repr

def Region.free : Region := { state := .free, name := 0, refs := 0, frames := [] }

/-- One published name (R343): its version and the slot it maps to plus 1. -/
structure NameEntry where
  version : Word
  slot : Nat
  deriving DecidableEq, Repr

def NameEntry.zero : NameEntry := ⟨0#32, 0⟩

/-- A queued prefetch entry (Table 13-7) with its window's start and size and the stream that issued it. -/
structure PrefEntry where
  name : Nat
  dst : Nat
  minVer : Word
  srcOfs : Nat
  len : Nat
  freeEn : Bool
  freeSo : Nat
  freeValue : Word
  fullEn : Bool
  fullSo : Nat
  src : Option Nat             -- the slot resolved once the copy has begun (R348)
  ver : Word                   -- the version then resolved
  deriving DecidableEq, Repr

/-- An exchange of the frames of two tier pages in progress (R336). -/
structure Exchange where
  pageA : Nat
  pageB : Nat
  deriving DecidableEq, Repr

/-- What a partition holds of the shelves (R332 to R348). -/
structure PartMem where
  u : Nat
  lT : Nat
  lR : Nat
  pin : Bool                   -- tier mode (R334)
  pages : List Nat             -- frame id of each tier page
  flags : Sparse Nat           -- 0 MIGRATE, 1 PIN_UPPER, 2 PIN_LOWER
  access : Sparse Nat          -- stripe accesses of the window, per page
  exch : List Exchange
  regions : Sparse Region
  names : Sparse NameEntry
  poolFree : List Nat          -- zeroed region frames
  poolZeroing : List Nat       -- region frames being zeroed
  turn : Nat                   -- next place in the turn X0, X2, X1, X3
  prefQ : List PrefEntry
  deriving DecidableEq, Repr

def PartMem.none : PartMem :=
  { u := 0, lT := 0, lR := 0, pin := false, pages := [], flags := [], access := [], exch := [], regions := [],
    names := [], poolFree := [], poolZeroing := [], turn := 0, prefQ := [] }

/-! ### Core-local state (06, 07, 08) -/

/-- One bank of an FE (R141, R146), by band × 256 + column: weight block scales, of which an unlisted one is ZERO; the band
column sums cs(b, c); the corrections z(b, c) of R153. -/
structure FeBank where
  scales : Sparse Nat
  sums : Sparse Int
  corr : Sparse Int
  deriving DecidableEq, Repr

def FeBank.none : FeBank := { scales := [], sums := [], corr := [] }

/-- The tables of one tile (R139, R140): the 16 entries of cell (r, c) at r × 256 + c, as two's complement codes in the
widths of Table 6-2; an unlisted cell has every entry 0. -/
structure FeTile where
  valid : Bool
  kt : Nat
  nt : Nat
  wfmt : Nat
  kext : Nat
  tables : Sparse (List Nat)
  bank : FeBank
  deriving DecidableEq, Repr

def FeTile.none : FeTile :=
  { valid := false, kt := 0, nt := 0, wfmt := 0, kext := 0, tables := [], bank := FeBank.none }

/-- What the tiles of an FE will be once every command issued so far has run; the checks of R67 and R147 use it. -/
structure TilePred where
  active : Option (Nat × Nat × Nat)  -- KT, NT, K extent
  shadow : Option (Nat × Nat × Nat)
  pair : Option (Nat × Nat × Nat)    -- of the FMAT with CRUST last issued: the tile its crust BMAT serves (R158)
  deriving DecidableEq, Repr

/-- One bank of the transposing buffer (Table 7-4): raw weight blocks at (slot × 256 + n) × 8 + block; `fmt` is WFMT as
Table 6-13 codes it and `kext` the K extent of the weights. -/
structure TbBank where
  valid : Bool
  k0 : Nat
  n0 : Nat
  kcnt : Nat
  ncnt : Nat
  fmt : Nat
  kext : Nat
  blocks : Sparse (List Byte)
  scales : Sparse Nat
  deriving DecidableEq, Repr

def TbBank.none : TbBank :=
  { valid := false, k0 := 0, n0 := 0, kcnt := 0, ncnt := 0, fmt := 0, kext := 0, blocks := [], scales := [] }

/-- The tiles that TB will hold once every XPOSE issued so far has run; the checks of R178 and R181 use it. -/
structure TbPred where
  k0 : Nat
  n0 : Nat
  kcnt : Nat
  ncnt : Nat
  deriving DecidableEq, Repr

/-- One chest tile (R187): elements at row × 256 + column; an unlisted element is +0. -/
structure ChestTile where
  clear : Bool
  recValid : Bool
  tokEnd : Nat
  touched : BitVec 256
  vals : Sparse Nat
  deriving DecidableEq, Repr

def ChestTile.empty : ChestTile :=
  { clear := true, recValid := false, tokEnd := 0, touched := 0#256, vals := [] }

/-- KIND of an AM record (Table 8-13). -/
inductive RecKind where
  | clear | fmat | bdx | bmat
  deriving DecidableEq, Repr

def RecKind.code : RecKind → Nat
  | .clear => 0 | .fmat => 1 | .bdx => 2 | .bmat => 3

/-- The record of an AM row (R199). -/
structure AmRec where
  kind : RecKind
  value : Nat
  deriving DecidableEq, Repr

def AmRec.clear : AmRec := ⟨.clear, 0⟩

/-- One AM row (R199): W48 codes by column; an unlisted column is +0. -/
structure AmRow where
  empty : Bool
  rcd : AmRec
  vals : Sparse Nat
  deriving DecidableEq, Repr

def AmRow.none : AmRow := { empty := true, rcd := AmRec.clear, vals := [] }

/-- One core (Table 1-3). The core store and the counts stand in State by address. -/
structure Core where
  retired : Bool
  active : FeTile
  shadow : FeTile
  draining : Option (Nat × FeBank) -- the old bank after a swap, until every FMAT before the numbered one is complete (R146)
  crustQ : List (List Num)     -- crust rows held, oldest first (R157)
  pred : TilePred
  mask : List Nat
  maskValid : Bool
  bank0 : TbBank
  bank1 : TbBank
  tbBoth : Bool
  tbCurrent : Nat
  tbAny : Bool
  tbPred : Option TbPred
  tbReads : List (Nat × Nat)   -- BDX flights that have read a bank: number, bank (R178)
  tblCache : List Nat          -- function tables that VU holds, latest first (R232)
  chest : Sparse ChestTile
  am : Sparse AmRow            -- AM × 1024 + row
  amPred : Sparse AmRec        -- the records once every command issued so far has run (R67)
  deriving DecidableEq, Repr

def Core.reset : Core :=
  { retired := false, active := FeTile.none, shadow := FeTile.none, draining := .none, crustQ := [],
    pred := ⟨.none, .none, .none⟩, mask := [], maskValid := false, bank0 := TbBank.none, bank1 := TbBank.none, tbBoth := false,
    tbCurrent := 0, tbAny := false, tbPred := .none, tbReads := [],
    tblCache := [], chest := [], am := [], amPred := [] }

/-! ### Scale slots and layers (10) -/

/-- One scale slot (Table 10-1); FP32 history codes, newest first at index 0. -/
structure Slot where
  cfg : Word
  committed : Nat
  next : Nat
  init : Nat
  pinScale : Nat
  ctabLo : Word
  ctabHi : Word
  histA : Sparse Nat
  histB : Sparse Nat
  sat : Nat
  fullsat : Nat
  under : Nat
  constb : Nat
  lastSat : Nat
  lastFullsat : Nat
  lastUnder : Nat
  lastConstb : Nat
  pinHeld : Nat
  statA : Nat                  -- largest required scale of the step, column A, FP32 code
  statB : Nat
  listn : Nat
  list : Sparse Nat
  zps : Sparse Nat             -- the model's own: the zero points of the channels stored under the slot (assumption 35)
  deriving DecidableEq, Repr

/-- Reset values of Tables 10-10 and 10-14 to 10-16. -/
def Slot.reset : Slot :=
  { cfg := 0#32, committed := 0x3F80, next := 0x3F80, init := 0x3F80, pinScale := 0x3F80, ctabLo := 0#32,
    ctabHi := 0#32, histA := [], histB := [], sat := 0, fullsat := 0, under := 0, constb := 0, lastSat := 0,
    lastFullsat := 0, lastUnder := 0, lastConstb := 0, pinHeld := 0, statA := 0, statB := 0, listn := 0, list := [],
    zps := [] }

/-- A layer's fall-back state (Table 10-17, R264): the bench tile is (WDESC, KT, NT). -/
structure Layer where
  rungCur : Nat
  rungPrev : Nat
  exhausted : Bool
  triggered : Bool
  sat : Nat
  fullsat : Nat
  bench : Option (Nat × Nat × Nat)
  deriving DecidableEq, Repr

def Layer.zero : Layer :=
  { rungCur := 0, rungPrev := 0, exhausted := false, triggered := false, sat := 0, fullsat := 0, bench := .none }

/-! ### Traces (19) -/

/-- A trace record (Table 19-6); `data` is bytes 24 to 31 as a number, and `place` the unit and the tile coordinates of an
INF_SEEN (R127). -/
structure TraceRec where
  kind : Nat
  stream : Nat
  opcode : Nat
  core : Nat
  layer : Nat
  oper : Nat
  step : Nat
  range : Nat
  ref : Nat
  data : Nat
  place : List Nat
  deriving DecidableEq, Repr

/-! ### Collectives (14) -/

/-- A communicator of a partition (R369): `conns` gives the local connection number by rank. -/
structure Comm where
  size : Nat
  rank : Nat
  conns : List Nat
  count : Nat                  -- COLLs issued on it since LOAD (R370)
  deriving DecidableEq, Repr

/-- A COLL_DATA segment received and kept in a buffer (R371, R372). -/
structure CollSeg where
  comm : Nat
  number : Nat
  src : Nat
  gather : Bool                -- an owner's encoded result, not a contribution
  kind : Nat
  rop : Nat
  fmt : Nat
  elems : Nat
  unit : Nat                   -- first block
  blocks : List (List Byte × Nat)
  deriving DecidableEq, Repr

/-- A COLL in flight. -/
structure Coll where
  comm : Nat
  number : Nat
  kind : Nat
  rop : Nat
  elems : Nat
  stream : StreamTag
  seq : Nat
  step : Nat
  word : Granule
  sent : Bool                  -- the own encoded chunk has gone to the other ranks
  got : List Nat               -- blocks of the result written, of the E elements
  deriving DecidableEq, Repr

/-! ### One partition -/

/-- What LOAD binds (Table 2-5, Table 14-9). -/
structure Job where
  seed : Nat
  skip : Bool
  wdRelaxed : Bool
  fEntry : Nat
  bEntry : Nat
  uEntry : Nat
  loaded : Bool
  deriving DecidableEq, Repr

def Job.none : Job :=
  { seed := 0, skip := false, wdRelaxed := false, fEntry := 0, bEntry := 0, uEntry := 0, loaded := false }

/-- One partition number (R40). -/
structure Part where
  state : PartState
  faultCause : Nat
  stopMode : StopMode
  stopTarget : Option Nat
  resumable : Bool
  draining : Bool
  halted : Bool
  admitting : Bool             -- ADMIT is zeroing the partition's resources (R48)
  shape : Nat
  origin : Nat
  soBase : Nat
  soCount : Nat
  slotBase : Nat
  slotCount : Nat
  desc : Nat
  groups : Nat
  conns : Nat
  connMap : List Nat           -- module connection index of each local number (R360)
  credential : List Byte
  layerTable : List LayerEntry
  job : Job
  sF : Stream
  sB : Stream
  sU : Stream
  active : Option VerbReq      -- the verb being carried out (R44)
  stopWaiting : List ReplyTo   -- STOPs to be answered when the streams have stopped (R41)
  queue : List VerbReq
  mem : PartMem
  layers : Sparse Layer
  tables : Sparse (Option FuncTable)
  infSeen : Bool
  record : FaultRec
  nextSeq : Nat
  crustWait : Option Nat       -- the FMAT with CRUST waiting for its pair, by flight number (R158)
  directWait : Option Nat      -- the CFLUSH with DIRECT waiting for its COLL (R196)
  ring : List TraceRec         -- the on-die trace ring, newest first (R476)
  frozen : Bool                -- a freeze has stopped its cores, until LOAD, partition reset or RELEASE (R450)
  undrained : List TraceRec    -- trace records that wait to be drained, oldest first (R476)
  drained : Nat                -- records written to the ring in partition memory
  lostRecs : Nat               -- records lost since the last LOST record
  resetDue : Bool              -- a partition reset waits for the dump's capture to end (Table 18-7)
  starting : Bool              -- a START waits for the partition's cores to wake (R41)
  comms : Sparse (Option Comm)
  colls : List Coll
  segs : List CollSeg
  handed : Sparse (List Byte × Nat)  -- G8 blocks that a CFLUSH with DIRECT handed over, by value address (R196)
  deriving DecidableEq, Repr

/-- A partition number in state FREE (Table 2-4). -/
def Part.free : Part :=
  { state := .free, faultCause := 0, stopMode := .none, stopTarget := .none, resumable := false, draining := false,
    halted := false, admitting := false, shape := 0, origin := 0, soBase := 0, soCount := 0, slotBase := 0,
    slotCount := 0, desc := 0, groups := 0, conns := 0, connMap := [], credential := [], layerTable := [], job := Job.none,
    sF := Stream.idle, sB := Stream.idle, sU := Stream.idle, active := .none, stopWaiting := [], queue := [],
    mem := PartMem.none, layers := [], tables := [], infSeen := false, record := FaultRec.none, nextSeq := 0,
    crustWait := .none, directWait := .none, ring := [],
    frozen := false, undrained := [], drained := 0, lostRecs := 0, resetDue := false, starting := false, comms := [], colls := [], segs := [], handed := [] }

end Sys2Proof.Machine
end

