-- ==== Sys2Proof/Machine/Desc.lean ====
section
/-! DEFINITION. Command words (Table 3-2), tensor descriptors (Table 3-7) and the formats they name (Tables 3-8, 5-1,
11-1). -/

namespace Sys2Proof.Machine

/-! ### The command word -/

def cOpcode (g : Granule) : Nat := field g 255 248
def cFlags (g : Granule) : Nat := field g 247 240
def cSerial (g : Granule) : Bool := flag g 247
def cTrace (g : Granule) : Bool := flag g 246
/-- Opcode flag OFi (Table 3-3). -/
def cOF (g : Granule) (i : Nat) : Bool := flag g (240 + i)
def cLayer (g : Granule) : Nat := field g 239 224
def cOper (g : Granule) : Nat := field g 223 208
def cWaitSo (g : Granule) : Nat := field g 207 196
def cWaitCond (g : Granule) : Nat := field g 195 192
def cWaitValue (g : Granule) : Word := BitVec.ofNat 32 (field g 191 160)
def cSigSo (g : Granule) : Nat := field g 159 148
def cSigOp (g : Granule) : Nat := field g 147 144
def cSigAmount (g : Granule) : Word := BitVec.ofNat 32 (field g 143 128)
/-- Target rectangle of R64, relative to the partition's origin. -/
def cTX (g : Granule) : Nat := field g 127 125
def cTY (g : Granule) : Nat := field g 124 122
def cTW (g : Granule) : Nat := field g 121 119 + 1
def cTH (g : Granule) : Nat := field g 118 116 + 1

/-! ### Formats -/

/-- Tensor formats (Table 3-8). -/
inductive Fmt where
  | w1 | wt | w2 | a8 | a4 | e4m3 | e5m2 | int8 | bf16 | fp16 | fp32 | w48 | m40 | g8 | q8 | l8
  deriving DecidableEq, Repr

/-- The format of an FMT code (Table 3-8). -/
def Fmt.ofCode (c : Nat) : Fmt :=
  [Fmt.w1, .wt, .w2, .a8, .a4, .e4m3, .e5m2, .int8, .bf16, .fp16, .fp32, .w48, .m40, .g8, .q8, .l8].getD (c % 16) .w1

/-- B of Table 11-1: value bytes per block. -/
def Fmt.blockBytes : Fmt → Nat
  | .w1 => 4 | .w2 => 8 | .wt => 7 | .a4 => 16
  | .a8 => 32 | .e4m3 => 32 | .e5m2 => 32 | .int8 => 32 | .g8 => 32
  | .q8 => 64 | .l8 => 64 | .bf16 => 64 | .fp16 => 64 | .fp32 => 128 | .m40 => 160 | .w48 => 192

/-- Elements per block (Table 11-1). -/
def Fmt.perBlock : Fmt → Nat
  | .q8 => 64 | .l8 => 64 | _ => 32

/-- Formats whose scale array is there always (Table 5-1). -/
def Fmt.alwaysScaled : Fmt → Bool
  | .w1 => true | .wt => true | .w2 => true | .a8 => true | .a4 => true | .g8 => true | .q8 => true | .l8 => true
  | _ => false

/-- E4M3, E5M2 and INT8, whose scale array is there when SBASE ≠ 0 (R108). -/
def Fmt.maybeScaled : Fmt → Bool
  | .e4m3 => true | .e5m2 => true | .int8 => true | _ => false

/-- W1, WT and W2. -/
def Fmt.narrow : Fmt → Bool
  | .w1 => true | .wt => true | .w2 => true | _ => false

/-- Formats that stochastic rounding serves (R121). -/
def Fmt.stochOk : Fmt → Bool
  | .g8 => true | .q8 => true | .l8 => true | .w1 => true | .wt => true | .w2 => true | _ => false

/-- A8 and A4. -/
def Fmt.isAct : Fmt → Bool
  | .a8 => true | .a4 => true | _ => false

/-! ### Descriptors -/

/-- A tensor descriptor (Table 3-7). -/
structure Desc where
  valid : Bool
  reserved : Nat
  ssstep : Nat
  sring : Nat
  vstep : Nat
  round : Nat
  space : Bool
  signed : Bool
  crumb : Bool
  slotEn : Bool
  slot : Nat
  layout : Nat
  fmt : Fmt
  cdy : Nat
  csy : Nat
  cdx : Nat
  csx : Nat
  s3 : Nat
  s2 : Nat
  s1 : Nat
  e3 : Nat
  e2 : Nat
  e1 : Nat
  e0 : Nat
  abase : Nat
  sbase : Nat
  vbase : Nat
  deriving DecidableEq, Repr

/-- Read the fields of a descriptor entry (Table 3-7). -/
def Desc.ofBits (w : BitVec 512) : Desc :=
  { valid := flag w 511, reserved := field w 510 440, ssstep := field w 439 408, sring := field w 407 400,
    vstep := field w 399 368, round := field w 367 366, space := flag w 365, signed := flag w 364,
    crumb := flag w 363, slotEn := flag w 362, slot := field w 361 348, layout := field w 347 344,
    fmt := Fmt.ofCode (field w 343 340), cdy := field w 339 338, csy := field w 337 322, cdx := field w 321 320,
    csx := field w 319 304, s3 := field w 303 272, s2 := field w 271 240, s1 := field w 239 208,
    e3 := field w 207 192, e2 := field w 191 176, e1 := field w 175 160, e0 := field w 159 144,
    abase := field w 143 96, sbase := field w 95 48, vbase := field w 47 0 }

/-- The descriptor's elements carry block scales from memory (R107, R108). -/
def Desc.scaled (d : Desc) : Bool := d.fmt.alwaysScaled || (d.fmt.maybeScaled && decide (d.sbase ≠ 0))

/-- Asymmetric A8 or A4 (R113). -/
def Desc.asym (d : Desc) : Bool := d.fmt.isAct && !d.signed

/-- Elements per block. -/
def Desc.epb (d : Desc) : Nat := d.fmt.perBlock

/-- C_d of R276 for a stride in 64-byte units. -/
def Desc.cap (d : Desc) (stride : Nat) : Nat := 64 * stride / d.fmt.blockBytes

/-- Number of rows across dimensions 1 to 3 (R213). -/
def Desc.rows (d : Desc) : Nat := (d.e1 + 1) * (d.e2 + 1) * (d.e3 + 1)

/-- The indices (i1, i2, i3) of row number r, dimension 1 fastest (R213). -/
def Desc.rowIdx (d : Desc) (r : Nat) : Nat × Nat × Nat :=
  (r % (d.e1 + 1), r / (d.e1 + 1) % (d.e2 + 1), r / ((d.e1 + 1) * (d.e2 + 1)))

/-- Blocks along dimension 0 of the slice. -/
def Desc.blocks (d : Desc) : Nat := d.e0 / d.epb + 1

/-- Offset of a core along dimension `dim` (R75). -/
def Desc.coreOfs (d : Desc) (cx cy dim : Nat) : Nat :=
  (if d.cdx = dim then cx * d.csx else 0) + (if d.cdy = dim then cy * d.csy else 0)

/-- Bytes from VBASE to value block `jb` of row (i1, i2, i3), core offsets already added (R275, R281). -/
def Desc.valueOfs (d : Desc) (jb i1 i2 i3 : Nat) : Nat :=
  if d.layout = 2 then
    64 * (i1 / 32 * d.s1 + i2 * d.s2 + i3 * d.s3) + d.fmt.blockBytes * (32 * jb + i1 % 32)
  else 64 * (i1 * d.s1 + i2 * d.s2 + i3 * d.s3) + d.fmt.blockBytes * jb

/-- Bytes from SBASE to the scale word of block `jb` of row (i1, i2, i3) (R279, R281). -/
def Desc.scaleOfs (d : Desc) (jb i1 i2 i3 : Nat) : Nat :=
  if d.layout = 2 then
    2 * (i1 / 32 * d.cap d.s1 + 32 * jb + i1 % 32 + i2 * d.cap d.s2 + i3 * d.cap d.s3)
  else 2 * (jb + i1 * d.cap d.s1 + i2 * d.cap d.s2 + i3 * d.cap d.s3)

/-- Place of the step ring (R72). -/
def Desc.ring (d : Desc) (step : Nat) : Nat := step % (d.sring + 1)

/-- VBASE at step `step` (R72). -/
def Desc.vAt (d : Desc) (step : Nat) : Nat := d.vbase + d.ring step * d.vstep * 64

/-- SBASE at step `step` (R72). -/
def Desc.sAt (d : Desc) (step : Nat) : Nat := d.sbase + d.ring step * d.ssstep * 64

/-- ZPLEN of R283: channel capacity in bytes of zero points. -/
def Desc.zplen (d : Desc) : Nat := if d.signed then 0 else 32 * d.cap d.s1

end Sys2Proof.Machine
end

