-- ==== Sys2Proof/Config.lean ====
section
/-! DEFINITION. What the spec leaves open or outside the part: constants without a body, so that no proof can see a
value. Those taken afresh at every use are applied to the counter `freeCount` of State. -/

namespace Sys2Proof.Config

/-- The identity signatures and public keys, which the unreadable identity seed of the fuses determines (R390, R392). -/
opaque rsaSign : List Byte → List Byte
opaque slhSign : List Byte → List Byte
opaque rsaPublic : List Byte
opaque slhPublic : List Byte

/-- The fuse contents of a part (Table 15-6). -/
opaque lot : Nat
opaque die : Nat
opaque packageSerial : Nat
opaque moduleSerial : Nat
opaque rsaPresent : Nat
opaque slhPresent : Nat
opaque rsaDigest : Nat → List Byte
opaque slhDigest : Nat → List Byte

/-- The SHA-384 digests of the boot ROM and of the readable fuses (Table 15-7). -/
opaque romDigest : List Byte
opaque fuseDigest : Nat → Nat → Nat → List Byte

/-- What the firmware writes for a configuration record whose layout the spec does not give (Table 15-5): register
addresses and words; none when a value is out of range. -/
opaque recordWrites : Nat → List Byte → Option (List (Nat × Nat))

/-- The permission for OPEN_ONLY of the FABRIC record (R362), and the ports that the records enable. -/
opaque openOnly : List Byte → Bool
opaque cxlEnabled : List Byte → Nat → Bool

/-- Of the TRAFFIC record: that priority flow control is enabled for a class, and the class's priority code point; of a
HOSTNET or FABRIC record: the VLAN ID of a port code, 0 for untagged (Table 15-5). -/
opaque pfcEnabled : List Byte → Bool → Bool
opaque priority : List Byte → Bool → Nat
opaque vlan : List Byte → Nat → Nat

/-- Nonces (R361, R394). -/
opaque nonce : Nat → List Byte

/-- Bytes of a frame besides its granules, by port code: Ethernet, VLAN, IP and UDP headers, padding, FCS (R356). -/
opaque frameOverhead : Nat → Nat

/-- Payload granules that a receiver grants beyond those it has received (R367). -/
opaque dataCredit : Nat → Nat

/-- Contents of the shelves after a width-3 reset, and of a core store after its power was off (R402, R414): keys and
bytes, and keys and disturbances. -/
opaque shelfBytes : Nat → List (Nat × Byte)
opaque shelfUpsets : Nat → List (Nat × Nat)
opaque storeBytes : Nat → List (Nat × Byte)

/-- Writes that a prefetch copy cut short has left in its window (Table 13-9): places and bytes. -/
opaque windowBytes : Nat → List (Nat × Byte)

/-- Contents of a flash slot whose program or erase operation was cut short (Table 15-10): keys and bytes. -/
opaque flashBytes : Nat → List (Nat × Byte)

/-- Bytes that the spec does not promise. -/
opaque freeByte : Nat → Byte

/-- Words of the report window without a finished report, and of the key window before KEYS_READY, by word number. -/
opaque staleReport : Nat → Word
opaque earlyKey : Nat → Word

/-- How the sections of a dump whose layout the spec does not give (Table 18-5) hold their items: byte i of an item, by
section and by the item's contents in the spec's order. -/
opaque dumpLayout : Nat → List Nat → Nat → Byte

/-- The power estimate of a partition's always-on set (R481), by tick and partition. -/
opaque powerEstimate : Nat → Nat → Nat

/-- Words that the spec does not promise. -/
opaque freeWord : Nat → Word

/-- Core cycles whose number the spec leaves to the arrival of data or of another engine's work. -/
opaque waitCycles : Nat → Nat

/-- What a register shows of how far a command in progress has come, by moment and control address. -/
opaque progress : Nat → Nat → Word

/-- A byte read before the command that writes it is complete (R84): job seed, stream, commands the stream has issued,
address. -/
opaque raceByte : Nat → Nat → Nat → Nat → Byte

/-- Which of two rows of one command gives a byte that both hold (R277), by address and by the two bytes. -/
opaque rowPick : Nat → Byte → Byte → Bool

/-- The zero point of a channel of a tensor that comes over a connection in another format, by tag and channel. -/
opaque sentZero : Nat → Nat → Nat

/-- The block scale of a converting LOAD into a format for which the spec gives none, by format and W48 codes. -/
opaque loadScale : Nat → List Nat → Nat

/-- The reference period and core cycle within a tick at which record n of a partition's trace is made (Table 19-6). -/
opaque tracePhase : Nat → Nat → Nat

/-- The eight bytes of DATA that hold the unit and the four tile coordinates of INF_SEEN (Table 19-7), which the spec names
and does not lay out. -/
opaque infData : List Nat → Nat

end Sys2Proof.Config
end

