-- ==== Sys2Proof/Machine/ModuleTypes.lean ====
section
/-! DEFINITION. The parts of State outside the partitions and cores: the Polsil transport (14), boot and trust (15),
resets, domains and the governor (16), power and heat (17), and the module's input (20). -/

namespace Sys2Proof.Machine

/-! ### Transport (14) -/

/-- States of a connection or session (Tables 14-16, 14-18). -/
inductive LinkState where
  | free | opening | opened | closing | broken
  deriving DecidableEq, Repr

def LinkState.code : LinkState → Nat
  | .free => 0 | .opening => 1 | .opened => 2 | .closing => 3 | .broken => 4

/-- A frame this module sends, before its header's acknowledgement fields are filled in (R356). -/
structure TxFrame where
  op : Nat
  flags : Nat
  psn : Nat
  ext : Option (List Byte)
  payload : List (List Byte)
  sent : Bool                  -- on the wire at least once; false while it waits for data credit (R367)
  rexmit : Nat                 -- retransmissions (R363)
  deriving DecidableEq, Repr

/-- A frame handed to a port: the Ethernet type or UDP port, VLAN ID and priority it goes under (R356, R358), its header as
sent (Table 14-4), extension and payload. -/
structure WireFrame where
  port : Nat
  service : Nat
  vlan : Nat
  prio : Nat
  dconn : Nat
  dgen : Nat
  op : Nat
  flags : Nat
  psn : Nat
  ack : Nat
  climit : Nat
  slimit : Nat
  sack : Nat
  ext : Option (List Byte)
  payload : List (List Byte)
  tag : List Byte              -- trailer bytes 0 to 47; empty without AUTH
  deriving DecidableEq, Repr

/-- A received frame after its header is read (Table 14-4). -/
structure RxMsg where
  op : Nat
  flags : Nat
  dconn : Nat
  dgen : Nat
  psn : Nat
  ack : Nat
  climit : Nat
  slimit : Nat
  sack : Nat
  ext : List Byte
  payload : List (List Byte)
  st : Nat                     -- status of its placement (R364)
  deriving DecidableEq, Repr

/-- A verb message whose LAST frame has not yet taken effect: its FIRST frame's PSN, the status so far, and the payload
collected. -/
structure PartialMsg where
  op : Nat
  psn : Nat
  status : Nat
  ext : List Byte
  payload : List (List Byte)
  deriving DecidableEq, Repr

/-- A command of a stream that waits on a connection: a SIG, SEND or RECV with its tag and its bytes. -/
structure LinkWait where
  stream : StreamTag
  seq : Nat
  tag : Nat
  total : Nat
  got : Nat
  psn : Nat                    -- last frame it sent
  matched : Bool
  cts : Bool                   -- of a matched SEND: SEND_CTS has come
  deriving DecidableEq, Repr

/-- Blocks of a SEND_DATA frame in another format than their destination's: they are converted once all have come (R130). -/
structure SentBlocks where
  tag : Nat
  fmt : Nat
  signed : Bool
  first : Nat
  blocks : List (List Byte × Nat)
  deriving DecidableEq, Repr

/-- One end of a Polsil connection: a partition connection or a host session (R360 to R374). -/
structure Link where
  state : LinkState
  level : Level
  part : Nat
  conn : Nat
  port : Nat                   -- code of FB_CONN_STATUS.PORT
  reason : Nat
  authFull : Bool
  initiator : Bool
  gen : Nat
  key : List Byte              -- connection secret, or session key
  nonceOwn : List Byte
  noncePeer : List Byte
  peerAddr : List Byte         -- MAC address, or UDP port and IP address, as CONN_SET gives them
  peerIdx : Nat
  peerGen : Nat
  peerPart : Nat
  peerConn : Nat
  peerSoBase : Nat
  peerSoCount : Nat
  maxLen : Nat
  psnTx : Nat
  psnRx : Nat
  ahead : List RxMsg           -- frames placed whose effects wait for PSN order (R364)
  unacked : List TxFrame       -- oldest first
  peerClimit : Nat
  sentGran : Nat
  gotGran : Nat
  peerSlimit : Nat
  sentSig : Nat
  gotSig : Nat
  sinceAck : Nat
  authFails : Nat
  rto : Nat                    -- expiries since ACK advanced (R366)
  ackSeen : Nat                -- the latest ACK that a frame of the window carried (R99)
  msg : Option PartialMsg
  rts : List (Nat × Nat × Nat) -- SEND_RTS received and unmatched: tag, total bytes, PSN
  sigs : List LinkWait
  sends : List LinkWait
  recvs : List LinkWait
  parts : List SentBlocks
  deriving DecidableEq, Repr

def Link.free : Link :=
  { state := .free, level := .owner, part := 0, conn := 0, port := 0, reason := 0, authFull := false,
    initiator := false, gen := 0, key := [], nonceOwn := [], noncePeer := [], peerAddr := [], peerIdx := 0, peerGen := 0, peerPart := 0,
    peerConn := 0, peerSoBase := 0, peerSoCount := 0, maxLen := 0, psnTx := 0, psnRx := 0, ahead := [], unacked := [],
    peerClimit := 0, sentGran := 0, gotGran := 0, peerSlimit := 0, sentSig := 0, gotSig := 0, sinceAck := 0,
    authFails := 0, rto := 0, ackSeen := 0, msg := .none, rts := [], sigs := [], sends := [], recvs := [], parts := [] }

/-- Bring-up steps of a port or sub-port (Table 14-3). -/
inductive PortState where
  | off | training | locking | up | held | failed
  deriving DecidableEq, Repr

/-- STATE of FB_PORT_STATUS (Table 14-15). -/
def PortState.code : PortState → Nat
  | .off => 0 | .training => 1 | .locking => 1 | .up => 2 | .held => 3 | .failed => 4

/-- A port or sub-port: 0 to 11 are F0 to F11, 12 to 15 H0.0 to H0.3, 16 to 19 H1.0 to H1.3. -/
structure Port where
  state : PortState
  flaps : List Nat             -- ticks of the flaps of the last 10 s
  pfcRx : Bool                 -- a received pause holds the DATA class, or the CONTROL class
  pfcCtl : Bool
  dead : Bool                  -- out of service until power-on (Table 18-4)
  deriving DecidableEq, Repr

def Port.off : Port := ⟨.off, [], false, false, false⟩

/-- A port whose domain or block has lost its state: what is out of service stays so. -/
def Port.stop (x : Port) : Port := { Port.off with state := if x.dead then .failed else .off, dead := x.dead }

/-- A port begins to train (Table 14-3). -/
def Port.train (x : Port) : Port := if x.dead then x.stop else { x with state := .training }

/-- A control access held while its block wakes (R26, R28): its requester, the frame it came in or the write, and the
results of the accesses of that frame already made. -/
structure HeldAcc where
  who : Requester
  frame : Option RxMsg
  addr : Word
  value : Word
  done : List (List Byte)
  deriving DecidableEq, Repr

/-! ### Boot and trust (15) -/

/-- Steps of Table 15-2 in which the module waits for a row of the table. -/
inductive BootStep where
  | off                        -- unpowered
  | strap                      -- step 2: STRAP_READ comes next
  | shelf                      -- step 4: UPPER_SHELF_TRAINED comes next
  | image                      -- steps 5 and 6: IMAGE_READ_DONE comes next
  | running
  | failed                     -- step 10, BOOT_FAIL
  deriving DecidableEq, Repr

/-- What the fuses hold that a burn can change (Table 15-6, R389, R460). -/
structure Fuses where
  svn : Nat                    -- set bits of the thermometer
  rsaRevoked : Nat
  slhRevoked : Nat
  cores : List Nat
  frames : List Nat
  lanes : List Nat             -- (link × 2 + direction) × 1024 + lane
  rows : List Nat              -- bank × 256 + row
  deriving DecidableEq, Repr

/-- A flash operation in progress, as its START found it: what it does (OP), the flash offset, and the 256 bytes of the
data window (DESIGN CHOICE, assumption 84). -/
structure FlashOp where
  op : Nat
  place : Nat
  bytes : List Byte
  deriving DecidableEq, Repr

/-- Boot, image, measurement and attestation. -/
structure Boot where
  step : BootStep
  fuses : Fuses
  records : List (Nat × List Byte)   -- records of the image in force (Table 15-5)
  owner : List Byte                  -- owner credential
  chain : List (Nat × List Byte)     -- measurement entries, first first (R391)
  request : List Byte                -- SC_BOOT and the nonce as the last attestation START found them (Table 15-8)
  report : List Byte
  flash : Sparse Byte
  prstLow : Bool                     -- PRST_N has asserted and not released
  wdHeld : Bool                      -- the module watchdog's source is asserted
  remoteDue : Bool                   -- a remote reset was requested (R405)
  h1Mode : Nat                       -- H1's mode, as start-up fixed it (R352)
  refClks : List Nat                 -- ports whose CXL_REFCLK output runs (R494)
  flashOp : Option FlashOp           -- the flash operation in progress
  wdStart : Nat                      -- tick at which the module watchdog's count started (R404)
  deriving DecidableEq, Repr

/-! ### Domains and resets (16) -/

/-- Power states of a domain (R414). -/
inductive Pwr where
  | off | waking | on | stopping
  deriving DecidableEq, Repr

def Pwr.code : Pwr → Nat
  | .off => 0 | .waking => 1 | .on => 2 | .stopping => 3

/-- A power domain: 0 to 63 cores, 64 compute-die base, 65 to 68 channel groups, 69 to 80 fabric ports, 81 to 84 CXL
ports, 85 and 86 I/O-die bases, 87 and 88 host ports, 89 always-on (Tables 16-5, 16-8). -/
structure Dom where
  pwr : Pwr
  retain : Bool
  pendingOn : Bool
  clkGood : Bool
  needPll : Bool               -- WAKING, its PLL not yet locked
  want : Bool                  -- a wake demand that waits for the domain to be unshed (R436)
  deriving DecidableEq, Repr

def Dom.off : Dom := ⟨.off, false, false, false, false, false⟩

/-- A block's reset sources and settings (Table 16-15); `mode` is none while it has the reset value of its class. -/
structure Blk where
  soft : Bool
  mode : Option Bool
  drainTo : Nat
  module : Bool
  part : Bool
  inReset : Bool
  iso : Bool                   -- its wrapper is closed: requests meet error responses (R408), else they are held
  heldClk : Bool
  err : Bool
  draining : Bool
  stuck : Bool                 -- step 5 of Table 16-4: it waits for the next release of a source
  widest : Nat                 -- widest source since the block last left reset (R412)
  deriving DecidableEq, Repr

def Blk.reset : Blk :=
  { soft := false, mode := none, drainTo := 0x10, module := false, part := false, inReset := true, iso := true, heldClk := false,
    err := false, draining := false, stuck := false, widest := 4 }

/-- A ramp request of the governor (R424): domains ramped together, or a move of the operating point. -/
structure Ramp where
  doms : List Nat
  opMove : Bool
  granted : Bool
  deriving DecidableEq, Repr

/-! ### Power and heat (17) -/

/-- The loops' own state (R428 to R445). Classes: 0 compute, 1 memory, 2 links. Dies: 0 compute, 1 west, 2 east. -/
structure Power where
  avg : List Nat               -- levels of the average loop, by class
  therm : List Nat             -- levels of the throttles, in the order of `throttling`
  throttling : List Bool       -- by throttle: 0 compute-die sensors, 1 I/O-die sensors, 2 GDDR7 devices (Table 17-5)
  thrRun : List Nat            -- consecutive periods a throttle holds its class at 4 or more
  droop : List Bool            -- droop limit in force: compute level at least 8
  stretch : List Bool
  brake : Bool
  brakeHold : Bool             -- PWRBRK_N has returned high; the 100 µs hold runs
  longPosted : Bool
  avgPoint : Nat
  thermPoint : Nat
  highRun : Nat                -- consecutive periods with the compute level 4 or more
  lowRun : Nat                 -- consecutive periods at level 0 with headroom
  headRun : Nat                -- consecutive periods with x < -0.05 CAP
  shed : List Nat              -- shed entries of Table 17-4 in order: row y is y, CXL Xx is 8 + x, fabric Fi is 12 + i
  hotRun : Sparse Nat          -- consecutive readings at 110 °C or more, by sensor
  junctions : List Nat         -- last reading of each junction sensor
  periods : Nat                -- periods since the window of P_W restarted
  opNext : Option Nat          -- a move that follows the move in progress (R420)
  thermDue : Bool              -- a period has ended since the throttles last moved their levels (R439)
  heldLevels : List Nat        -- levels in force that PEAK_HOLD keeps from falling (R433)
  coldRun : Nat                -- consecutive coolant samples with the inlet below 20 °C (Table 17-6)
  deriving DecidableEq, Repr

def Power.reset : Power :=
  { avg := [0, 0, 0], therm := [0, 0, 0], throttling := [false, false, false], thrRun := [0, 0, 0],
    droop := [false, false, false], stretch := [false, false, false], brake := false, brakeHold := false,
    longPosted := false, avgPoint := 0, thermPoint := 0, highRun := 0, lowRun := 0, headRun := 0, shed := [],
    hotRun := [], junctions := [], periods := 0, opNext := .none, thermDue := true, heldLevels := [0, 0, 0], coldRun := 0 }

/-! ### The module's input (20) -/

/-- Where the power-up of Table 20-4 stands. -/
inductive InputStep where
  | off | charging | on | cut
  deriving DecidableEq, Repr

end Sys2Proof.Machine
end

