-- ==== Sys2Proof/Machine/State.lean ====
section
/-! DEFINITION. The state of the B7: every register, memory, queue and mode the spec gives it, as plain data, the queue
of commands that wait, and the machine right after the power-on reset asserts (R402). -/

namespace Sys2Proof.Machine

/-- Why a step stops with a fault. No command of this block does: errors of the B7 are effects on its registers
(R448), so the constructor is never raised; safe. -/
inductive Fault where
  | none
  deriving DecidableEq, Repr

/-- Why a command is refused. -/
inductive Refusal where
  /-- The command has no meaning yet; raised by an arm of exec only; safe. -/
  | notModelled (mnemonic : String)
  deriving DecidableEq, Repr

/-- One block of 64 sync objects (Table 4-7). -/
structure SoBlock where
  alloc : Bool
  scrub : Bool
  part : Nat
  deriving DecidableEq, Repr

def SoBlock.free : SoBlock := ⟨false, false, 0⟩

/-- A proof run queued or under test (R455): kind 0 SRAM bank, 1 upper frame within a group (frame × 4 + group),
2 channel, 3 lower frame, 4 mesh link, 5 die-to-die link, 6 fabric or host port, 7 CXL port. -/
structure ProofReq where
  kind : Nat
  index : Nat
  count : Nat
  running : Bool
  deriving DecidableEq, Repr

/-- The dump engine (R462): the partition being captured, the partition whose dump is held, and its bytes. -/
structure Dump where
  busy : Option (Fin 16)
  held : Option (Fin 16)
  len : Nat
  data : Sparse Byte
  depth : Nat                  -- DEPTH of the capture, as it stood at its start (R463)
  deriving DecidableEq, Repr

structure State where
  pending : List Instr
  regs : Sparse Word           -- plain registers by control address; unlisted: the reset value of the register
  counts : Sparse Nat          -- counts of more than 32 bits by the address of their low word
  caps : Sparse Nat            -- captured quantities by requester × 2^32 + address (R9); value + 1
  mem : Sparse Byte            -- bytes of the shelves by frame id × 2^21 + offset
  store : Sparse Byte          -- bytes of the core stores by core × 2^23 + offset
  errs : Sparse Nat            -- disturbed symbols of a granule, by address / 32: a 288-bit mask
  storeErrs : Sparse Nat       -- the same for the core stores
  sramErrs : Sparse Nat        -- the same for the other on-die SRAM, by array × 2^44 + owner × 2^24 + granule (R16, R319)
  lineErrs : Sparse Nat        -- disturbance that meets the next granule a mesh router or a die-to-die link hands over
                               -- (R13, R22), by place
  frames : Sparse Nat          -- frame id: 0 free, 1 + p owned by Pp, 98 a spare in use, 99 retired
  parts : Vector Part 16
  cores : Vector Core 64
  so : Sparse SyncObj
  soBlk : Sparse SoBlock
  slotBlk : Sparse Nat         -- scale-slot block: 1 + p while it belongs to Pp
  slots : Sparse Slot
  proofs : List ProofReq
  transients : Sparse (List Nat) -- ticks of transient verdicts, by kind × 2^56 + index (R457)
  retire : List ProofReq       -- retirements not yet done (R458 to R460): kind 0 a row by bank × 256 + row, 1 and 3 a frame
                               -- whose contents go to the frame `count`, 5 a link's lanes, 8 a core
  rowsUsed : Sparse Nat        -- spare rows in use, by SRAM bank (Table 18-4)
  lanesUsed : Sparse Nat       -- spare lanes in use, by die-to-die link × 2 + direction
  patrol : Sparse Nat          -- stripes that the patrol has read, by channel group (R327)
  dump : Dump
  conns : Sparse Link          -- module connections 0 to 2047
  sess : Sparse Link           -- host sessions 0 to 63
  wire : List WireFrame        -- frames handed to the ports, newest first
  ports : Sparse Port
  accs : List HeldAcc          -- control accesses that wait for a wake
  heldHi : Sparse Nat          -- held writes of DB_CNT_HI by requester × 2^32 + address (R470); value + 1
  admits : List VerbReq        -- the module queue of ADMITs (R44)
  boot : Boot
  doms : Sparse Dom
  blks : Sparse Blk
  rises : List Ramp
  falls : List Ramp
  power : Power
  input : InputStep
  rowRuns : List (Nat × Nat × List Byte) -- the model's own: what the command at work has written to its destinations
                               -- (space, address, bytes), newest first (R277)
  freeCount : Nat              -- the model's own: how many free values were taken (assumption 10)
  tick : Nat                   -- ticks since power-on (Table 18-2)
  deriving DecidableEq, Repr

/-- The machine right after the power-on reset asserts: every field at its reset value. -/
def State.reset : State :=
  { pending := [], regs := [], counts := [], caps := [], mem := [], store := [], errs := [], storeErrs := [],
    sramErrs := [], lineErrs := [],
    frames := [], parts := Vector.replicate 16 Part.free, cores := Vector.replicate 64 Core.reset, so := [],
    soBlk := [], slotBlk := [], slots := [], proofs := [], transients := [], retire := [], rowsUsed := [], lanesUsed := [], patrol := [],
    dump := ⟨none, none, 0, [], 0⟩, conns := [], sess := [], wire := [], ports := [], accs := [], heldHi := [],
    admits := [],
    boot := { step := .off, fuses := ⟨0, 0, 0, [], [], [], []⟩, records := [], owner := [], chain := [], request := [], report := [],
              flash := [], prstLow := false, wdHeld := false, remoteDue := false, h1Mode := 0, refClks := [],
              flashOp := none, wdStart := 0 },
    doms := [], blks := [], rises := [], falls := [], power := Power.reset, input := .off, rowRuns := [],
    freeCount := 0, tick := 0 }

/-- Partition p. -/
def State.part (s : State) (p : Fin 16) : Part := s.parts[p]

/-- Set partition p. -/
def State.setPart (s : State) (p : Fin 16) (x : Part) : State := { s with parts := s.parts.set p x }

/-- Change partition p. -/
def State.modPart (s : State) (p : Fin 16) (f : Part → Part) : State := s.setPart p (f (s.part p))

/-- Core nn. -/
def State.core (s : State) (c : Fin 64) : Core := s.cores[c]

/-- Set core nn. -/
def State.setCore (s : State) (c : Fin 64) (x : Core) : State := { s with cores := s.cores.set c x }

/-- Change core nn. -/
def State.modCore (s : State) (c : Fin 64) (f : Core → Core) : State := s.setCore c (f (s.core c))

/-- Stream t of a partition. -/
def Part.stream (x : Part) : StreamTag → Stream
  | .F => x.sF
  | .B => x.sB
  | .U => x.sU

/-- Set stream t of a partition. -/
def Part.setStream (x : Part) (t : StreamTag) (q : Stream) : Part :=
  match t with
  | .F => { x with sF := q }
  | .B => { x with sB := q }
  | .U => { x with sU := q }

/-- Stream t of partition p. -/
def State.stream (s : State) (p : Fin 16) (t : StreamTag) : Stream := (s.part p).stream t

/-- Set stream t of partition p. -/
def State.setStream (s : State) (p : Fin 16) (t : StreamTag) (q : Stream) : State :=
  s.modPart p (fun x => x.setStream t q)

/-- Change stream t of partition p. -/
def State.modStream (s : State) (p : Fin 16) (t : StreamTag) (f : Stream → Stream) : State :=
  s.setStream p t (f (s.stream p t))

/-- t as SQ numbers it (R85). -/
def tagCode : StreamTag → Nat
  | .F => 0
  | .B => 1
  | .U => 2

end Sys2Proof.Machine
end

