-- ==== Sys2Proof/Machine/Regs.lean ====
section
/-! DEFINITION. Plain registers and counts by control address (R24), and event bits. Every register that only stores is
kept in `regs`; an unlisted one reads its reset value, so that returning a register to reset removes its entry. -/

namespace Sys2Proof.Machine

/-- Address of a register of core nn in a per-core subsystem (R24). -/
def coreReg (code nn ofs : Nat) : Nat := code * 0x10000000 + nn * 0x400000 + ofs

/-- Address of an SQ register of partition p (R85). -/
def sqReg (p ofs : Nat) : Nat := 0x70100000 + p * 0x1000 + ofs

/-- Address of a QS register of partition p (R274). -/
def qsReg (p ofs : Nat) : Nat := 0x60000000 + p * 0x1000 + ofs

/-- Reset values of single registers that are not zero. -/
def resetTable : List (Nat × Nat) :=
  [(0x00000000, 0xB764A100),      -- SYS_IDENT (Table 0-2)
   (0x90000000, 0x00000C01),      -- MM_CFG (Table 13-11)
   (0xA0000000, 0x00001001),      -- TR_CFG (Table 13-17)
   (0xF0000004, 0x00000064),      -- DB_WD_STRICT (Table 18-8)
   (0xF0000008, 0x0000EA60),      -- DB_WD_RELAXED (Table 18-8)
   (0xB0000000, 0x010088B5),      -- FB_CFG (Table 14-13)
   (0xB0000004, 0x07D04040),      -- FB_TIMER (Table 14-14)
   (0xC0000000, 0x0E00BA5E),      -- HP_CFG (Table 14-17)
   (0xE0000000, 0x40271012),      -- PM_CFG (Table 16-12)
   (0xE0000008, 0x10000000),      -- PM_RST_CAUSE (Table 16-13)
   (0xE0000200, 0x10960708),      -- PM_PWR_CFG (Table 17-10)
   (0xF000000C, 0x00400000)]      -- DB_DUMP_CTL (Table 18-10)

/-- The reset value of a stored register; 0 where its table gives 0. -/
def resetWord (a : Nat) : Word :=
  if a / 0x10000000 = 6 ∧ a / 0x1000 % 0x10000 < 16 ∧ a % 0x1000 = 0x008 then 0x80000000#32       -- QS_FB_CFG
  else if a / 0x10000 = 0x7010 ∧ a % 0x1000 = 0x310 then 0x78000000#32                            -- SQ_TRACE_CFG
  else if a / 0x10000 = 0x7010 ∧ a % 0x1000 = 0x31C then 0x40#32                                  -- SQ_TRACE_LEN
  else if a = 0x90001200 ∨ a = 0x90001440 ∨ a = 0x90001680 ∨ a = 0x900018C0 then 0x00200000#32    -- MM_CH_STATUS.CHECK
  else if a / 0x10000000 = 8 ∧ a / 0x1000 % 0x400 = 1 ∧ a % 0x1000 < 0x200 ∧ a % 0x20 = 0 then 0x07010000#32  -- DB_CNT_CTL
  else if a / 0x1000 = 0xF0002 ∧ a % 0x1000 < 0x700 ∧ a % 0x20 = 0 then 0x800003E8#32              -- DB_MON_CFG
  else match resetTable.find? (fun e => e.1 = a) with
    | some e => BitVec.ofNat 32 e.2
    | none => 0#32

/-- The stored word of a register. -/
def rawReg (s : State) (a : Nat) : Word := Sparse.get (resetWord a) s.regs a

/-- Store a word in a register. -/
def setRaw (s : State) (a : Nat) (w : Word) : State := { s with regs := Sparse.set (resetWord a) s.regs a w }

/-- Set bit i of a stored register: how an event or a sticky bit is posted. -/
def postBit (s : State) (a i : Nat) : State := setRaw s a (setBit (rawReg s a) i true)

/-- The value of a count (0 when unlisted). -/
def count (s : State) (lo : Nat) : Nat := Sparse.get 0 s.counts lo

/-- Add n to a 48-bit count; past 2^48 - 1 it wraps and sets bit i of its overflow register, if it has one. -/
def bump (s : State) (lo : Nat) (ovf : Option (Nat × Nat)) (n : Nat) : State :=
  let v := count s lo + n
  { s with counts := Sparse.set 0 s.counts lo (v % wrap48),
           regs := match ovf with
             | some (a, i) => if wrap48 ≤ v then (postBit s a i).regs else s.regs
             | none => s.regs }

/-- Return the registers and counts of addresses lo .. lo + n - 1 to their reset values. -/
def resetRange (s : State) (lo n : Nat) : State :=
  { s with regs := Sparse.clearRange s.regs lo n, counts := Sparse.clearRange s.counts lo n }

/-- A count of core nn with its overflow bit. -/
def bumpCore (s : State) (code nn lo ovf i n : Nat) : State :=
  bump s (coreReg code nn lo) (some (coreReg code nn ovf, i)) n

end Sys2Proof.Machine
end

