-- ==== Sys2Proof/Machine/Domains.lean ====
section
/-! DEFINITION. Blocks and power domains (Tables 16-2, 16-5, 16-8): which block an address reaches, which domain serves a
block, wake demands and the governor's queues (R415, R418, R424). -/

namespace Sys2Proof.Machine

/-! ### Cores of a partition (R32) -/

/-- Width of a SHAPE code (Table 2-1). -/
def shapeW (c : Nat) : Nat := [2, 4, 4, 8, 8].getD c 0

/-- Height of a SHAPE code (Table 2-1). -/
def shapeH (c : Nat) : Nat := [2, 2, 4, 4, 8].getD c 0

/-- The cores of a rectangle relative to an origin: (nn, cx, cy), lowest nn first. -/
def rectCores (origin tx ty tw th : Nat) : List (Nat × Nat × Nat) :=
  (List.range th).flatMap (fun y => (List.range tw).map (fun x =>
    (origin + 8 * (ty + y) + tx + x, tx + x, ty + y)))

/-- The cores of a partition. -/
def partCores (x : Part) : List Nat := (rectCores x.origin 0 0 (shapeW x.shape) (shapeH x.shape)).map (fun c => c.1)

/-- The partition that holds core nn: 16 when none does. -/
def corePart (s : State) (nn : Nat) : Nat :=
  (((List.range 16).find? (fun p => (s.part (Fin.ofNat 16 p)).state ≠ .free &&
    (partCores (s.part (Fin.ofNat 16 p))).contains nn))).getD 16

/-! ### Domains -/

def domBase : Nat := 64
def domGroup (g : Nat) : Nat := 65 + g
def domFabric (i : Nat) : Nat := 69 + i
def domCxl (x : Nat) : Nat := 81 + x
def domHost (h : Nat) : Nat := 87 + h
def domAlways : Nat := 89

/-- How many domains there are. -/
def domCount : Nat := 90

def domGet (s : State) (d : Nat) : Dom := Sparse.get Dom.off s.doms d
def domSet (s : State) (d : Nat) (x : Dom) : State := { s with doms := Sparse.set Dom.off s.doms d x }
def domMod (s : State) (d : Nat) (f : Dom → Dom) : State := domSet s d (f (domGet s d))

/-- The clocks of Table 1-6 that serve a domain, as PM_CLK numbers them: a core's engines and its router, the compute-die
base, a channel group, a fabric port, a CXL port, and an I/O-die base with its collective half, tier controller and
die-to-die link (R29). -/
def domClocks (d : Nat) : List Nat :=
  if d ≤ 64 then [1, 2] else if d ≤ 68 then [3] else if d ≤ 80 then [4] else if d ≤ 84 then [6] else if d ≤ 86 then [4, 6, 7]
  else if d ≤ 88 then [5] else [0]

/-- Clock c serves the domain. -/
def clocks (c d : Nat) : Bool := (domClocks d).contains c

/-- PM_CLK_d.LOCKED (R421). -/
def clkLocked (s : State) (d : Nat) : Bool := flag (rawReg s (0xE0000100 + 4 * d)) 31

/-- Every clock of a domain is locked. -/
def domLocked (s : State) (d : Nat) : Bool := (domClocks d).all (clkLocked s)

/-- A clock of the domain has failed to lock (R421). -/
def domFailed (s : State) (d : Nat) : Bool := (domClocks d).any (fun c => flag (rawReg s (0xE0000100 + 4 * c)) 30)

/-! ### Blocks -/

def blkGet (s : State) (b : Nat) : Blk := Sparse.get Blk.reset s.blks b
def blkSet (s : State) (b : Nat) (x : Blk) : State := { s with blks := Sparse.set Blk.reset s.blks b x }
def blkMod (s : State) (b : Nat) (f : Blk → Blk) : State := blkSet s b (f (blkGet s b))

/-- The index b names a block (Table 16-2). -/
def blkExists (b : Nat) : Bool :=
  let i := b % 0x400
  match b / 0x400 with
  | 0 => i = 0 | 13 => i = 0 | 14 => i = 0
  | 1 => decide (i < 64) | 2 => decide (i < 64) | 3 => decide (i < 64) | 4 => decide (i < 64) | 5 => decide (i < 64)
  | 8 => decide (i < 64)
  | 6 => decide (i < 64) || i = 0x100
  | 7 => decide (i < 16) || i = 0x100
  | 9 => decide (i < 36) || (decide (0x40 ≤ i) && decide (i < 0x44))
  | 10 => decide (i < 4) || i = 0x10 || i = 0x11
  | 11 => decide (i < 12) || i = 0x20 || i = 0x21
  | 12 => decide (i < 2) || i = 0x10
  | 15 => decide (i < 64) || i = 0x100
  | _ => false

/-- The domain that holds a block (Tables 16-2, 16-5). -/
def blkDom (b : Nat) : Nat :=
  let i := b % 0x400
  match b / 0x400 with
  | 1 => i | 2 => i | 3 => i | 4 => i | 5 => i | 8 => i
  | 6 => if i < 64 then i else domBase
  | 7 => domBase
  | 9 => if i < 0x40 then domGroup (i / 9) else domGroup (i - 0x40)
  | 10 => if i < 4 then domCxl i else 85 + (i - 0x10)
  | 11 => if i < 12 then domFabric i else 85 + (i - 0x20)
  | 12 => if i < 2 then domHost i else domHost 0
  | 15 => if i < 64 then i else domAlways
  | _ => domAlways

/-- The block of the reset mode table whose MODE resets to 1: MM, TR, FB and HP (Table 16-15). -/
def classDrain (b : Nat) : Bool := decide (9 ≤ b / 0x400) && decide (b / 0x400 ≤ 12)

/-- MODE of a block: true is DRAIN. -/
def blkDrains (s : State) (b : Nat) : Bool := ((blkGet s b).mode).getD (classDrain b)

/-- A request that reaches the block meets an error response (R408). -/
def wrapperClosed (s : State) (b : Nat) : Bool := (blkGet s b).inReset && (blkGet s b).iso

/-- The block that a control address reaches; none for registers of no block of Table 16-2. -/
def blkOf (a : Nat) : Option Nat :=
  let c := a / 0x10000000
  let ofs := a % 0x10000000
  match c with
  | 6 => if ofs / 0x8000000 = 1 then some (0x1800 + ofs % 0x8000000 / 0x100 % 64) else some 0x1900
  | 7 => if ofs / 0x100000 = 1 then some (0x1C00 + ofs / 0x1000 % 16) else some 0x1D00
  | 8 =>
    let nn := ofs / 0x400000
    if ofs % 0x400000 / 0x1000 = 1 then some (0x3C00 + nn) else some (0x2000 + nn)
  | 9 => if 0x1000 ≤ ofs ∧ ofs < 0x1900 then some (0x2400 + (ofs - 0x1000) / 0x40)
         else if 0x8000000 ≤ ofs ∧ ofs < 0x8000400 then some (0x2440 + (ofs - 0x8000000) / 0x100) else none
  | 10 => if 0x100 ≤ ofs ∧ ofs < 0x200 then some (0x2800 + (ofs - 0x100) / 0x40) else some 0x2810
  | 11 => if 0x100 ≤ ofs ∧ ofs < 0x700 then some (0x2C00 + (ofs - 0x100) / 0x80) else some 0x2C20
  | 12 => if 0x200 ≤ ofs ∧ ofs < 0x300 then some (0x3000 + (ofs - 0x200) / 0x80) else some 0x3010
  | 15 => some 0x3D00
  | 0 => some 0
  | 13 => some 0x3400
  | 14 => some 0x3800
  | _ => some (c * 0x400 + ofs / 0x400000)

/-- The blocks of core nn. -/
def coreBlks (nn : Nat) : List Nat := [1, 2, 3, 4, 5, 6, 8, 15].map (fun c => c * 0x400 + nn)

/-- Every block of Table 16-2. -/
def allBlks : List Nat := (List.range 0x4000).filter blkExists

/-! ### Wakes (R415 to R418, R424) -/

/-- The thermal trip latch is set (R442). -/
def thermalHold (s : State) : Bool := flag (rawReg s 0xE0000228) 31

/-- Domains that a thermal trip cuts: all but the always-on domain, the host ports and the channel groups (R442). -/
def tripDom (d : Nat) : Bool := decide (d < 65) || (decide (69 ≤ d) && decide (d < 87))

/-- A domain marked shed by the power loop (R436). -/
def isShed (s : State) (d : Nat) : Bool :=
  if d < 64 then s.power.shed.contains (d / 8)
  else if 69 ≤ d ∧ d ≤ 80 then s.power.shed.contains (12 + (d - 69))
  else if 81 ≤ d ∧ d ≤ 84 then s.power.shed.contains (8 + (d - 81))
  else false

/-- Take a wake demand of one domain: its new state, and whether its ramp can be asked for now. -/
def demandOne (s : State) (d : Nat) : State × Bool :=
  let x := domGet s d
  if thermalHold s && tripDom d then (s, false)
  else if isShed s d then (domSet s d { x with want := true }, false)
  else match x.pwr with
    | .off =>
      let s := bump s 0xE0000030 none 1
      let ready := domLocked s d
      (domSet s d { x with pwr := .waking, needPll := !ready, want := false }, ready)
    | .stopping => (domSet s d { x with pendingOn := true }, false)
    | _ => (s, false)

/-- Wake demands that arrive together: their ramps enter the rise queue as one request (R424). -/
def demandAll (s : State) (ds : List Nat) : State :=
  let r := ds.foldl (fun (acc : State × List Nat) d =>
    let x := demandOne acc.1 d
    (x.1, if x.2 then acc.2 ++ [d] else acc.2)) (s, [])
  if r.2 = [] then r.1 else { r.1 with rises := r.1.rises ++ [{ doms := r.2, opMove := false, granted := false }] }

/-- A wake demand of a domain: a core needs the compute-die base too (R415). -/
def demandWake (s : State) (d : Nat) : State := demandAll s (if d < 64 then [domBase, d] else [d])

/-- The domain is on. -/
def domOn (s : State) (d : Nat) : Bool := (domGet s d).pwr = .on

end Sys2Proof.Machine
end

