-- ==== Sys2Proof/Machine/Links.lean ====
section
/-! DEFINITION. Sending on a Polsil endpoint (R356, R364 to R368): frames take their PSN when they are formed, wait for
data credit, and stay until they are acknowledged; answers of verbs and of control accesses. -/

namespace Sys2Proof.Machine

/-! ### Endpoints -/

def linkGet (s : State) : Endpoint → Link
  | .conn c => Sparse.get Link.free s.conns c.val
  | .sess n => Sparse.get Link.free s.sess n.val

def linkSet (s : State) (e : Endpoint) (l : Link) : State :=
  match e with
  | .conn c => { s with conns := Sparse.set Link.free s.conns c.val l }
  | .sess n => { s with sess := Sparse.set Link.free s.sess n.val l }

def linkMod (s : State) (e : Endpoint) (f : Link → Link) : State := linkSet s e (f (linkGet s e))

/-- DCONN of this end of an endpoint, and the number its free credit constant takes (Table 14-4). -/
def endpointCode : Endpoint → Nat
  | .conn c => c.val
  | .sess n => 0x800 + n.val

def isSession : Endpoint → Bool
  | .conn _ => false
  | .sess _ => true

/-! Flag bits of the header granule (Table 14-4). -/
def flFirst : Nat := 1
def flLast : Nat := 2
def flExt : Nat := 4
def flAuth : Nat := 8
def flAckNow : Nat := 16

/-- Sequence numbers wrap at 2^32. -/
def psnMod : Nat := 2 ^ 32

/-- a is not past b in modulo-2^32 order. -/
def psnLe (a b : Nat) : Bool := geSigned (BitVec.ofNat 32 b) (BitVec.ofNat 32 a)

/-- SACK: bit i for the frame ACK + 1 + i that has arrived (Table 14-4). -/
def sackOf (l : Link) : Nat :=
  ((List.range 32).filter (fun i => l.ahead.any (fun m => m.psn = (l.psnRx + 1 + i) % psnMod))).map (fun i => 2 ^ i) |>.sum

/-- Verbs that take no credit (R367). -/
def creditFree (op : Nat) : Bool := [0x01, 0x02, 0x03, 0x04, 0x05, 0x13, 0x3F].contains op

/-- Verbs of the DATA traffic class (R358). -/
def dataClass (op : Nat) : Bool := [0x10, 0x11, 0x12, 0x14, 0x15].contains op

/-! ### Ports -/

/-- The port of a code of FB_CONN_STATUS.PORT (Table 14-16); none for the internal loop. -/
def portOfCode (c : Nat) : Option Nat :=
  if c < 12 then some c else if 16 ≤ c ∧ c < 24 then some (c - 4) else none

/-- The port code of a port, or of the loop (20). -/
def codeOfPort (i : Nat) : Nat := if i < 12 then i else if i < 20 then i + 4 else 31

/-- Base address of a port's register set (Table 14-12); sub-ports share the set of their host port. -/
def portBase (i : Nat) : Nat := if i < 12 then 0xB0000100 + 0x80 * i else 0xC0000200 + 0x80 * ((i - 12) / 4)

/-- Add to count j of a port's set. -/
def bumpPort (s : State) (i j n : Nat) : State := bump s (portBase i + 8 + 8 * j) (some (portBase i + 4, j)) n

def portGet (s : State) (i : Nat) : Port := Sparse.get Port.off s.ports i
def portSet (s : State) (i : Nat) (x : Port) : State := { s with ports := Sparse.set Port.off s.ports i x }
def portMod (s : State) (i : Nat) (f : Port → Port) : State := portSet s i (f (portGet s i))

/-- The mode of host port h, fixed at start-up (R352): H0_BREAKOUT comes from the strap (Table 14-17), and a retired lane
forces 4 × 100G (Table 18-4). -/
def breakout (s : State) (h : Nat) : Nat :=
  if (List.range 4).any (fun k => (portGet s (12 + 4 * h + k)).dead) then 2
  else if h = 0 then field (rawReg s 0x4) 1 0 else s.boot.h1Mode

/-- H0 runs in management-only mode, and this is its port (R354). -/
def mgmtOnly (s : State) (code : Nat) : Bool := decide (code = 16) && decide (breakout s 0 = 3)

/-- Lanes of sub-port k of a host port: 400G, 200G, 100G or management-only (Table 14-1). -/
def subLanes (mode k : Nat) : Nat :=
  match mode with
  | 0 => if k = 0 then 0xF else 0
  | 1 => if k < 2 then 3 * 4 ^ k else 0
  | 2 => 2 ^ k
  | _ => if k = 0 then 1 else 0

/-- The port, or the sub-port in the mode of its host port, exists (Table 14-1). -/
def portExists (s : State) (i : Nat) : Bool :=
  decide (i < 12) || decide (subLanes (breakout s ((i - 12) / 4)) ((i - 12) % 4) ≠ 0)

/-- Frames pass on the port of this code (Table 14-3); the loop always carries. -/
def portCarries (s : State) (code : Nat) : Bool :=
  match portOfCode code with
  | some i => (portGet s i).state = .up
  | none => code = 31

/-- A received priority pause holds a class on the port; the other class goes on (R358). -/
def portPaused (s : State) (code : Nat) (data : Bool) : Bool :=
  match portOfCode code with
  | some i => if data then (portGet s i).pfcRx else (portGet s i).pfcCtl
  | none => false

/-- The value of a record of the image in force (Table 15-5), empty when it has none. -/
def imageRecord (s : State) (k : Nat) : List Byte := ((s.boot.records.find? (fun r => r.1 = k)).map (fun r => r.2)).getD []

/-- A port code is that of a host port. -/
def hostCode (code : Nat) : Bool := decide (16 ≤ code) && decide (code < 24)

/-- The Ethernet type of a fabric port's frames, or the UDP destination port of a host port's (R356). -/
def portService (s : State) (code : Nat) : Nat :=
  if hostCode code then field (rawReg s 0xC0000000) 15 0 else if code < 12 then field (rawReg s 0xB0000000) 15 0 else 0

/-- The VLAN ID of a port, 0 for untagged frames (Table 14-2). -/
def portVlan (s : State) (code : Nat) : Nat := if code < 24 then Config.vlan (imageRecord s (if hostCode code then 2 else 3)) code % 4096 else 0

/-- MAX_LEN of a port (R357); the loop takes that of the fabric ports. -/
def portMaxLen (s : State) (code : Nat) : Nat :=
  if 16 ≤ code ∧ code < 24 then field (rawReg s 0xC0000000) 28 20 else field (rawReg s 0xB0000000) 24 16

/-! ### The header and the trailer (R356, R374) -/

/-- The 32 bytes of a header granule (Table 14-4). -/
def headerBytes (f : WireFrame) : List Byte :=
  leBytes 1 1 ++ leBytes 1 f.op ++ leBytes 2 f.flags ++ leBytes 2 f.dconn ++ leBytes 2 f.dgen ++ leBytes 4 f.psn ++
  leBytes 4 f.ack ++ leBytes 4 f.climit ++ leBytes 2 f.slimit ++ leBytes 2 f.payload.length ++ leBytes 4 f.sack ++
  leBytes 4 0

/-- The data bytes of the granules before the trailer. -/
def frameData (f : WireFrame) : List Byte := headerBytes f ++ f.ext.getD [] ++ f.payload.flatten

/-- The trailer's tag: over the data bytes of every earlier granule and the PSN (R374). -/
def trailerTag (key data : List Byte) (psn : Nat) : List Byte := hmac384 key (data ++ leBytes 4 psn)

/-- Granules of a frame. -/
def WireFrame.size (f : WireFrame) : Nat :=
  1 + (if f.ext.isSome then 1 else 0) + f.payload.length + (if f.flags / flAuth % 2 = 1 then 2 else 0)

/-- COLL segments that other ranks have sent and that a partition's buffers hold (R372). -/
def segsHeld (x : Part) : Nat :=
  (x.segs.filter (fun g => match Sparse.get none x.comms g.comm with
    | some k => decide (g.src ≠ k.rank)
    | none => true)).length

/-- Payload granules that a receiver grants beyond those it has received: for a partition's connection no more than the
free part of its 128 segment buffers of 256 granules takes (R367, R372). -/
def creditOf (s : State) (e : Endpoint) : Nat :=
  let n := Config.dataCredit (endpointCode e) % 2 ^ 31
  match e with
  | .conn _ => min n (256 * (128 - segsHeld (s.part (Fin.ofNat 16 (linkGet s e).part))))
  | .sess _ => n

/-- The frame as it goes on the wire, with the acknowledgement fields of this moment (R356, R366). -/
def wireOf (s : State) (e : Endpoint) (l : Link) (f : TxFrame) : WireFrame :=
  let auth := isSession e || l.authFull
  let w : WireFrame :=
    { port := l.port, service := portService s l.port, vlan := portVlan s l.port,
      prio := Config.priority (imageRecord s 4) (dataClass f.op) % 8, dconn := l.peerIdx, dgen := l.peerGen, op := f.op,
      flags := f.flags + (if f.ext.isSome then flExt else 0) + (if auth then flAuth else 0),
      psn := f.psn, ack := l.psnRx, climit := (l.gotGran + creditOf s e) % psnMod,
      slimit := (l.gotSig + 64) % 2 ^ 16, sack := sackOf l, ext := f.ext, payload := f.payload, tag := [] }
  if auth then { w with tag := trailerTag l.key (frameData w) w.psn } else w

/-- Hand frames to their port, the last of them first in the record: they are counted (Table 14-12). -/
def handOver (s : State) (code again : Nat) (ws : List WireFrame) : State :=
  let s := { s with wire := ws ++ s.wire }
  match portOfCode code with
  | some i =>
    let bytes := (ws.map (fun w => 36 * w.size + Config.frameOverhead code)).sum
    bumpPort (bumpPort (bumpPort s i 0 ws.length) i 2 bytes) i 9 again
  | none => s

/-- Transmit the frames that credit lets go, oldest first: data waits for credit behind earlier data and behind a pause of
its class; a frame that needs none goes at once (R97, R358, R367). -/
def pumpFrames (s : State) (e : Endpoint) (paused : Bool → Bool) :
    Bool → List TxFrame → Link × List WireFrame → List TxFrame × Link × List WireFrame
  | _, [], (l, w) => ([], l, w)
  | blocked, f :: fs, (l, w) =>
    let len := f.payload.length
    let free := creditFree f.op || len = 0
    let fits := (free || (!blocked && psnLe (l.sentGran + len) l.peerClimit)) && !paused (dataClass f.op)
    if f.sent then
      let r := pumpFrames s e paused blocked fs (l, w)
      (f :: r.1, r.2)
    else if fits then
      let l := { l with sentGran := if free then l.sentGran else (l.sentGran + len) % psnMod, sinceAck := 0 }
      let r := pumpFrames s e paused blocked fs (l, wireOf s e l f :: w)
      ({ f with sent := true } :: r.1, r.2)
    else
      let r := pumpFrames s e paused (blocked || !free) fs (l, w)
      (f :: r.1, r.2)

/-- The fabric port of this code is shed: new frames wait for it (R436). -/
def portShed (s : State) (code : Nat) : Bool := decide (code < 12) && isShed s (domFabric code)

/-- Let the waiting frames of an endpoint go, while its port passes frames and is not shed. -/
def pump (s : State) (e : Endpoint) : State :=
  let l := linkGet s e
  if portCarries s l.port && !portShed s l.port then
    let r := pumpFrames s e (portPaused s l.port) false l.unacked (l, [])
    handOver (linkSet s e { r.2.1 with unacked := r.1 }) l.port 0 r.2.2
  else s

/-- A link carries frames: it is opening, open or closing. -/
def linkLive (l : Link) : Bool := l.state = .opening || l.state = .opened || l.state = .closing

/-- Form a frame with the next PSN and let it go (R356). -/
def sendFrame (s : State) (e : Endpoint) (op flags : Nat) (ext : Option (List Byte)) (payload : List (List Byte)) :
    State :=
  let l := linkGet s e
  if linkLive l then
    let f : TxFrame := { op := op, flags := flags, psn := l.psnTx, ext := ext, payload := payload, sent := false,
                         rexmit := 0 }
    pump (linkSet s e { l with psnTx := (l.psnTx + 1) % psnMod, unacked := l.unacked ++ [f] }) e
  else s

/-- An ACK frame: it takes no PSN of its own (Table 14-4, R365). -/
def sendAck (s : State) (e : Endpoint) : State :=
  let l := linkGet s e
  if linkLive l && portCarries s l.port then
    let f : TxFrame := { op := 0x01, flags := flFirst + flLast, psn := l.psnTx, ext := none, payload := [], sent := true,
                         rexmit := 0 }
    handOver (linkSet s e { l with sinceAck := 0 }) l.port 0 [wireOf s e l f]
  else s

/-- Send the frames of `ps` again: they keep PSN and payload and take the acknowledgement fields of now (R366). -/
def resend (s : State) (e : Endpoint) (ps : List Nat) : State :=
  let l := linkGet s e
  let again := l.unacked.filter (fun f => f.sent && ps.contains f.psn)
  if again = [] || !portCarries s l.port then s else
  let fs := l.unacked.map (fun f => if f.sent && ps.contains f.psn then { f with rexmit := f.rexmit + 1 } else f)
  handOver (linkSet s e { l with unacked := fs, sinceAck := 0 }) l.port again.length ((again.map (wireOf s e l)).reverse)

/-- Pad bytes to a granule. -/
def granule32 (bs : List Byte) : List Byte := slice bs 0 32

/-- Cut bytes into granules. -/
def granulesOf (bs : List Byte) : List (List Byte) := (chunks 32 ((bs.length + 31) / 32) bs).map granule32

/-- VERB_STATUS: status and the PSN of the verb's FIRST frame (Table 14-6); the layout is the model's (assumption 20). -/
def sendStatus (s : State) (e : Endpoint) (psn status : Nat) : State :=
  sendFrame s e 0x3F (flFirst + flLast) (some (granule32 (leBytes 4 status ++ leBytes 4 psn))) []

/-- REJECT: status, rejected PSN and the object number where one applies (Table 14-6). -/
def sendReject (s : State) (e : Endpoint) (psn status obj : Nat) : State :=
  sendFrame s e 0x18 (flFirst + flLast) (some (granule32 (leBytes 4 status ++ leBytes 4 psn ++ leBytes 4 obj))) []

/-- Answer a verb, if its session still stands (R41). -/
def answer (s : State) (r : ReplyTo) (status : Nat) : State :=
  if (linkGet s (.sess r.sess)).gen = r.gen then sendStatus s (.sess r.sess) r.seq status else s

/-- Answer every STOP being carried out with a status, and forget them. -/
def answerStops (s : State) (p : Fin 16) (status : Nat) : State :=
  (s.part p).stopWaiting.foldl (fun s r => answer s r status) (s.modPart p (fun x => { x with stopWaiting := [] }))

/-- Answer the STOPs being carried out, OK, now that the partition has reached its state (R41). -/
def answerStop (s : State) (p : Fin 16) : State := answerStops s p 0

end Sys2Proof.Machine
end

