-- ==== Sys2Proof/Machine/Ops.lean ====
section
/-! DEFINITION. Named operations over memory: device addresses to frames (R332), granules under C256 (R318 to R321),
reads and writes of bytes with their counts, and the form in which an engine stops on an error. -/

namespace Sys2Proof.Machine

/-! ### Stopping inside a command -/

/-- Why a command stops part-way: uncorrectable data or its like (cause 0x1), a NaN (cause 0x2), or a stop "as if
refused" with a code of Table 3-1 (R340, R347). -/
inductive Stop where
  | mem (kind place addr chan : Nat)
  | nan (k : TrapKind)
  | refused (code : Nat)
  | waits (frame : Option Nat) -- it meets a page being exchanged (R336), or at this address no zeroed frame (R339): all of
                               -- the command waits
  | shed                       -- it meets a frame behind a CXL port that is shed (R436): all of the command waits
  | broken (conn chan : Nat)   -- its connection broke (R363)
  deriving DecidableEq, Repr

/-- A stop with the unit, core and tile coordinates that the fault record takes (Table 18-2). -/
structure Trap where
  stop : Stop
  unit : Nat
  core : Nat
  tile : List Nat
  elem : Nat                   -- place of the trapping element within what the operation reads or encodes
  more : Nat := 0              -- other NaNs of the same cycle (R129)
  deriving DecidableEq, Repr

/-- Work of an engine on the state; what it wrote before it stopped stays. -/
abbrev Op (α : Type) := ExceptT Trap (StateM State) α

/-- Stop, leaving unit, core and coordinates to the caller. -/
def Op.stop {α : Type} (st : Stop) : Op α := throw { stop := st, unit := 0, core := 0xFF, tile := [0, 0, 0, 0], elem := 0 }

/-- Give unit, core and coordinates to a stop that has none yet. -/
def Op.at {α : Type} (unit core : Nat) (tile : List Nat) (m : Op α) : Op α :=
  tryCatch m (fun t => throw (if t.unit = 0 then { t with unit := unit, core := core, tile := tile } else t))

/-- A result of the number formats; an error is a NaN trap (R128). -/
def Op.nan {α : Type} (e : Except TrapKind α) : Op α :=
  match e with
  | .ok a => pure a
  | .error k => Op.stop (.nan k)

/-- Results of the number formats formed together; the error names the place of its element, counted on from `base`, and
how many others there are (R129). -/
def Op.nanAt {α : Type} (base : Nat) (e : Except Nans α) : Op α :=
  match e with
  | .ok a => pure a
  | .error k =>
    throw { stop := .nan k.kind, unit := 0, core := 0xFF, tile := [0, 0, 0, 0], elem := base + k.place, more := k.more }

/-- Give unit, core and the coordinates of the trapping element to a stop that has none yet. -/
def Op.atElem {α : Type} (unit core : Nat) (tile : Nat → List Nat) (m : Op α) : Op α :=
  tryCatch m (fun t => throw (if t.unit = 0 then { t with unit := unit, core := core, tile := tile t.elem } else t))

/-- The state. -/
def Op.get : Op State := ExceptT.lift (fun s => (s, s))

/-- Change the state. -/
def Op.mod (f : State → State) : Op Unit := ExceptT.lift (fun s => ((), f s))

/-- Run the work: its result or its stop, and the state it leaves. -/
def Op.exec {α : Type} (m : Op α) (s : State) : Except Trap α × State := (ExceptT.run m) s

/-- The state that work leaves, whether it ends or stops. -/
def Op.after {α : Type} (m : Op α) (s : State) : State := (Op.exec m s).2

/-- Do `f` for every element in order, stopping at the first stop. -/
def Op.each {α : Type} : List α → (α → Op Unit) → Op Unit
  | [], _ => pure ()
  | x :: xs, f => do
    f x
    Op.each xs f

/-- The results of `f` over a list in order. -/
def Op.map {α β : Type} : List α → (α → Op β) → Op (List β)
  | [], _ => pure []
  | x :: xs, f => do
    let y ← f x
    let ys ← Op.map xs f
    pure (y :: ys)

/-- Fold with stops. -/
def Op.fold {α β : Type} (f : β → α → Op β) : β → List α → Op β
  | b, [] => pure b
  | b, x :: xs => do
    let b' ← f b x
    Op.fold f b' xs

/-! ### Proof-run requests (R455) -/

/-- The resource is retired: a request for it is discarded. -/
def resRetired (s : State) (kind index : Nat) : Bool :=
  match kind with
  | 0 => decide (index / 512 < 64) && (s.core (Fin.ofNat 64 (index / 512))).retired
  | 1 => decide (Sparse.get 0 s.frames (index / 4) = 99)
  | 3 => decide (Sparse.get 0 s.frames index = 99)
  | 6 => decide (index < 12) && (portGet s index).dead
  | _ => false

/-- Ask for a proof run of a resource: an entry already there takes one more request, and a retired resource none. -/
def requestProof (s : State) (kind index : Nat) : State :=
  if resRetired s kind index then s
  else if s.proofs.any (fun r => r.kind = kind && r.index = index) then
    { s with proofs := s.proofs.map (fun r =>
        if r.kind = kind && r.index = index then { r with count := r.count + 1 } else r) }
  else { s with proofs := s.proofs ++ [{ kind := kind, index := index, count := 1, running := false }] }

/-! ### Frames and device addresses (R324, R332) -/

/-- Bytes of a frame (2 MiB). -/
def frameBytes : Nat := 0x200000

/-- Frame ids from here on are lower-shelf frames: lowerBase + port × 2^24 + number behind the port. -/
def lowerBase : Nat := 2 ^ 39

/-- First device address of region space (Table 13-5). -/
def regionBase : Nat := 0x800000000000

/-- Bytes of one region slot's window (Table 13-5). -/
def regionBytes : Nat := 0x1000000000

/-- The frame lies on the lower shelf. -/
def isLower (id : Nat) : Bool := decide (lowerBase ≤ id)

/-- The CXL port of a lower frame. -/
def lowerPort (id : Nat) : Nat := (id - lowerBase) / 2 ^ 24 % 4

/-- What backs a device address. -/
inductive Loc where
  | outside
  | frame (id ofs : Nat)
  | hole                       -- a page of an OPEN slot that holds no frame: reads zeros (R339)
  deriving DecidableEq, Repr

/-- Device address to frame (Table 13-5). -/
def locate (m : PartMem) (a : Nat) : Loc :=
  if a < regionBase then
    match m.pages[a / frameBytes]? with
    | some id => .frame id (a % frameBytes)
    | none => .outside
  else
    let i := (a - regionBase) / regionBytes
    if 1024 ≤ i then .outside else
    let v := Sparse.get 0 (Sparse.get Region.free m.regions i).frames ((a - regionBase) % regionBytes / frameBytes)
    if v = 0 then .hole else .frame (v - 1) (a % frameBytes)

/-- The bytes a .. a + n - 1 lie inside one part of the partition's range (Table 13-5, RANGE of Table 3-1). -/
def inRange (m : PartMem) (a n : Nat) : Bool :=
  if a + n ≤ m.pages.length * frameBytes then true
  else decide (regionBase ≤ a) && decide ((a - regionBase) / regionBytes < 1024) &&
    decide ((a - regionBase) % regionBytes + n ≤ regionBytes)

/-- Group of a shelf address (R325). -/
def groupOf (a : Nat) : Nat :=
  let st := a / 256
  Nat.xor (Nat.xor (st % 4) (st / 2 ^ 10 % 4)) (Nat.xor (st / 2 ^ 20 % 4) (st / 2 ^ 28 % 4))

/-- Data channel of a granule on the upper shelf (R323). -/
def channelOf (a : Nat) : Nat := 9 * groupOf a + a / 32 % 8

/-- CHAN of the fault record for a byte of a frame (Table 18-2). -/
def chanCode (id ofs : Nat) : Nat :=
  if isLower id then 0x200 + lowerPort id else channelOf (id * frameBytes + ofs)

/-- PLACE of the fault record (Table 18-2). -/
def placeCode (id : Nat) : Nat := if isLower id then 5 else 4

/-- The link of a CXL port is up (Table 13-18). -/
def portUp (s : State) (x : Nat) : Bool := field (rawReg s (0xA0000100 + 0x40 * x)) 31 29 = 2

/-- The halves of a CXL port that retirement has taken out of use, as a mask (Table 18-4). -/
def retiredHalves (s : State) (x : Nat) : Nat := Sparse.get 0 s.lanesUsed (8 + x)

/-- The upper-shelf decoding policy in force (R328); the lower shelf always uses correct-2. -/
def shelfPolicy (s : State) (id : Nat) : Policy :=
  if !isLower id && flag (rawReg s 0x90000000) 1 then .correct1 else .correct2

/-- The 36-byte word of a granule with the disturbance it suffered. -/
def granuleWord (data : List Byte) (mask : Nat) : List Byte :=
  List.zipWith (· ^^^ ·) (data ++ c256Check data) (leBytes 36 mask)

/-- A granule whose device answers with poison (Table 13-4): its mask lies past the code's 288 bits. -/
def isPoison (mask : Nat) : Bool := decide (2 ^ 288 ≤ mask)

/-- Decode a stored granule: its 32 bytes, whether a correction was made, or nothing. -/
def decodeGranule (pol : Policy) (data : List Byte) (mask : Nat) : Decoded :=
  if mask = 0 then .clean data else if isPoison mask then .uncorrectable else c256Decode pol (granuleWord data mask)

/-- A correction at a place of the shelves: its count, its event and the proof-run request (R321). -/
def noteCorrected (s : State) (id ofs : Nat) : State :=
  if isLower id then requestProof s 3 id
  else
    let a := id * frameBytes + ofs
    let c := channelOf a
    let s := bump s (0x90001008 + 0x40 * c) (some (0x90001004 + 0x40 * c, 0)) 1
    requestProof (postBit s 0x90000004 0) 1 (id * 4 + groupOf a)

/-- An uncorrectable granule: its count, its event and the proof-run request (R321). -/
def noteUncorrectable (s : State) (id ofs : Nat) : State :=
  if isLower id then
    let x := lowerPort id
    let s := bump s (0xA0000120 + 0x40 * x) (some (0xA0000108 + 0x40 * x, 2)) 1
    requestProof (postBit s 0xA0000004 1) (if portUp s x then 3 else 7) (if portUp s x then id else x)
  else
    let a := id * frameBytes + ofs
    let c := channelOf a
    let s := bump s (0x90001010 + 0x40 * c) (some (0x90001004 + 0x40 * c, 1)) 1
    requestProof (postBit s 0x90000004 1) 1 (id * 4 + groupOf a)

/-! ### Routes (R13, R14, R17, R19, R22) -/

/-- Where an engine that reads or writes memory stands: in a core, elsewhere on the compute die, or on an I/O die, 0 west and
1 east. -/
inductive Side where
  | core (nn : Nat)
  | compute
  | io (die : Nat)
  deriving DecidableEq, Repr

/-- The I/O die that a granule of a frame lies behind (Table 1-2). -/
def dieOf (id ofs : Nat) : Nat := (if isLower id then lowerPort id else groupOf (id * frameBytes + ofs)) / 2

/-- The I/O die of a port (Table 1-2): F0 to F11, then the sub-ports of H0 and H1; the loop counts as west. -/
def portDie (code : Nat) : Nat :=
  match portOfCode code with
  | some i => if i < 12 then i / 6 else (i - 12) / 4
  | none => 0

/-- Key of a mesh link in one direction: links 9·y + i, i = 0 to 8, lie along row y from its west edge, and 72 + 8·y + x
joins rows y and y + 1 (assumption 54); `back` is toward west or south. -/
def meshKey (link : Nat) (back : Bool) : Nat := 2 * link + (if back then 1 else 0)

/-- The links from core a's router to core b's: along x to b's column, then along y to b's row (R19). -/
def meshRoute (a b : Nat) : List Nat :=
  let x := a % 8
  let y := a / 8
  let x' := b % 8
  let y' := b / 8
  (if x ≤ x' then (List.range (x' - x)).map (fun i => meshKey (9 * y + x + 1 + i) false)
   else (List.range (x - x')).map (fun i => meshKey (9 * y + x - i) true)) ++
  (if y ≤ y' then (List.range (y' - y)).map (fun i => meshKey (72 + 8 * (y + i) + x') false)
   else (List.range (y - y')).map (fun i => meshKey (72 + 8 * (y - 1 - i) + x') true))

/-- The edge router of an I/O die in the row of core nn (R19). -/
def edgeRouter (die nn : Nat) : Nat := nn / 8 * 8 + 7 * die

/-- The link that attaches that router to its I/O die (R17). -/
def edgeKey (die nn : Nat) (out : Bool) : Nat := meshKey (9 * (nn / 8) + 8 * die) (decide (die = 0) == out)

/-- The links of a transfer from an I/O die to core nn, which never travels along y (R19). -/
def routeIn (die nn : Nat) : List Nat := edgeKey die nn false :: meshRoute (edgeRouter die nn) nn

/-- The links of a transfer from core nn to an I/O die. -/
def routeOut (die nn : Nat) : List Nat := meshRoute nn (edgeRouter die nn) ++ [edgeKey die nn true]

/-- The links of a multicast from an I/O die to a rectangle of cores: it branches where the routes part (R19). -/
def routeCast (die : Nat) (cores : List Nat) : List Nat := (cores.flatMap (routeIn die)).dedup

/-- Key of a die-to-die link in one direction. -/
def dieKey (die : Nat) (out : Bool) : Nat := 256 + 2 * die + (if out then 1 else 0)

/-- Key of the bursts of a GDDR7 channel (R322); the value is the mask, and 2^288 times the transfers that fail. -/
def burstKey (c : Nat) : Nat := 1024 + c

/-- Key of the SRAM of a collective-engine half, or of an update unit (R16): the mask meets the next granule it holds. -/
def halfKey (h : Nat) : Nat := 2048 + h
def unitKey (g : Nat) : Nat := 2064 + g

/-- The resource whose proof run a disturbance on a key asks for (Table 18-3). -/
def lineRes (k : Nat) : Nat × Nat :=
  if k < 256 then (4, k / 2) else if k < 1024 then (5, (k - 256) / 2)
  else if k < 2064 then (0, 512 * 64 + 256 + (k - 2048)) else (0, 512 * 64 + 260 + (k - 2064))

/-- Ask for the proof runs of some keys. -/
def proveLines (s : State) (ks : List Nat) : State := ks.foldl (fun s k => requestProof s (lineRes k).1 (lineRes k).2) s

/-- One granule passes over links, or through a buffer, and is decoded at their end under correct-1/detect-3 (R13, R22,
R319): a disturbance that waits there meets it. -/
def crossLinks (keys : List Nat) (place dev : Nat) (data : List Byte) : Op (List Byte) := do
  let s ← Op.get
  let bad := keys.filter (fun k => decide (Sparse.get 0 s.lineErrs k ≠ 0))
  if bad.isEmpty then pure data else do
    Op.mod (fun s => { s with lineErrs := bad.foldl (fun m k => Sparse.set 0 m k 0) s.lineErrs })
    match decodeGranule .correct1 data (bad.foldl (fun m k => Nat.xor m (Sparse.get 0 s.lineErrs k)) 0) with
    | .clean d => pure d
    | .corrected d => do
      Op.mod (fun s => proveLines s bad)
      pure d
    | .uncorrectable => do
      Op.mod (fun s => proveLines s bad)
      Op.stop (.mem 1 place dev 0xFFFF)

/-- A granule goes from an I/O die to a reader: over the die-to-die link, decoded on the compute die, then over the mesh,
decoded at the core's router; to the other I/O die over both links (R13, R19, R22). -/
def crossIn (side : Side) (die dev : Nat) (data : List Byte) : Op (List Byte) :=
  match side with
  | .core nn => do
    let d ← crossLinks [dieKey die false] 3 dev data
    crossLinks (routeIn die nn) 2 dev d
  | .compute => crossLinks [dieKey die false] 3 dev data
  | .io e =>
    if e = die then pure data else do
      let d ← crossLinks [dieKey die false] 3 dev data
      crossLinks [dieKey e true] 3 dev d

/-- A granule goes from a writer to an I/O die: decoded at the edge router, then on the I/O die. -/
def crossOut (side : Side) (die dev : Nat) (data : List Byte) : Op (List Byte) :=
  match side with
  | .core nn => do
    let d ← crossLinks (routeOut die nn) 2 dev data
    crossLinks [dieKey die true] 3 dev d
  | .compute => crossLinks [dieKey die true] 3 dev data
  | .io e =>
    if e = die then pure data else do
      let d ← crossLinks [dieKey e false] 3 dev data
      crossLinks [dieKey die true] 3 dev d

/-- Let a granule cross; nothing happens to it while no disturbance waits anywhere. -/
def crossed (s : State) (cross : List Byte → Op (List Byte)) (data : List Byte) : Op (List Byte) :=
  if s.lineErrs.isEmpty then pure data else cross data

/-- A read of a frame behind a port that is down, or that its device answers with poison: the count, the event and the
proof run of the port (Tables 13-4, 18-1). -/
def notePort (s : State) (id ofs : Nat) (poison : Bool) : State :=
  let x := lowerPort id
  if poison then
    let s := bump s (0xA0000120 + 0x40 * x) (some (0xA0000108 + 0x40 * x, 2)) 1
    requestProof (postBit s 0xA0000004 1) 7 x
  else noteUncorrectable s id ofs

/-- The controller that serves a granule of a frame: a GDDR7 channel or a CXL port (Table 16-2). -/
def memBlk (id ofs : Nat) : Nat :=
  if isLower id then 0x2800 + lowerPort id else 0x2400 + channelOf (id * frameBytes + ofs)

/-- The burst of a granule crosses its GDDR7 channel: a transfer that fails the link-error check is retried up to twice,
each retry counts, and the last failing one is decoded as it arrived; a burst that exhausts its retries asks for the proof
run of its channel (R322, Table 18-1). The result is the disturbance it arrives with. -/
def burstMask (id ofs : Nat) : Op Nat := do
  let s ← Op.get
  let c := channelOf (id * frameBytes + ofs)
  let v := if isLower id then 0 else Sparse.get 0 s.lineErrs (burstKey c)
  if v = 0 then pure 0 else do
    let tries := v / 2 ^ 288
    Op.mod (fun s => bump { s with lineErrs := Sparse.set 0 s.lineErrs (burstKey c) 0 } (0x90001018 + 0x40 * c)
      (some (0x90001004 + 0x40 * c, 2)) (min tries 2))
    if tries < 3 then pure 0 else do
      Op.mod (fun s => requestProof s 2 c)
      pure (v % 2 ^ 288)

/-- Read one granule of a frame: `ofs` is a multiple of 32, `dev` the device address it is read for. -/
def readGranule (id ofs dev : Nat) : Op (List Byte) := do
  let s ← Op.get
  let key := id * frameBytes + ofs
  let mask := Sparse.get 0 s.errs (key / 32)
  if isLower id && (!portUp s (lowerPort id) || isPoison mask) then
    Op.mod (fun s => notePort s id ofs (isPoison mask))
    Op.stop (.mem 4 5 dev (chanCode id ofs))
  else if wrapperClosed s (memBlk id ofs) then Op.stop (.mem 3 (placeCode id) dev (chanCode id ofs))
  else do
    let burst ← burstMask id ofs
    match decodeGranule (shelfPolicy s id) (Sparse.getRun 0#8 s.mem key 32) (Nat.xor mask burst) with
    | .clean d => pure d
    | .corrected d => do
      Op.mod (fun s => noteCorrected s id ofs)
      pure d
    | .uncorrectable => do
      Op.mod (fun s => noteUncorrectable s id ofs)
      Op.stop (.mem 1 (placeCode id) dev (chanCode id ofs))

/-- Count a stripe read or write of a frame (Tables 13-10, 13-16): `n` data bytes on the lower shelf; a sleeping group or
port is woken (R415). -/
def countAccess (s : State) (id ofs : Nat) (write whole : Bool) (n : Nat) : State :=
  if isLower id then
    let x := lowerPort id
    let s := if domOn s (domCxl x) then s else demandWake s (domCxl x)
    if write then bump s (0xA0000118 + 0x40 * x) (some (0xA0000108 + 0x40 * x, 1)) n
    else bump s (0xA0000110 + 0x40 * x) (some (0xA0000108 + 0x40 * x, 0)) n
  else
    let g := groupOf (id * frameBytes + ofs)
    let s := if domOn s (domGroup g) then s else demandWake s (domGroup g)
    let ovf := 0x90000104 + 0x40 * g
    if write then
      if whole then bump s (0x90000110 + 0x40 * g) (some (ovf, 1)) 1
      else bump s (0x90000118 + 0x40 * g) (some (ovf, 2)) 1
    else bump s (0x90000108 + 0x40 * g) (some (ovf, 0)) 1

/-- Count an access to a tier page of partition p for automatic migration (R334). -/
def countPage (s : State) (p : Fin 16) (a : Nat) : State :=
  if a < regionBase then
    let add := fun (m : PartMem) =>
      { m with access := Sparse.modify 0 m.access (a / frameBytes) (fun n => n + 1) }
    s.modPart p (fun x => { x with mem := add x.mem })
  else s

/-- Cut the bytes a .. a + n - 1 at multiples of `unit`: pieces (address, length). -/
def pieces (unit : Nat) : Nat → Nat → Nat → List (Nat × Nat)
  | 0, _, _ => []
  | fuel + 1, a, n =>
    if n = 0 then [] else
    let k := min n (unit - a % unit)
    (a, k) :: pieces unit fuel (a + k) (n - k)

/-- The pieces of a run of bytes by stripes of 256 bytes. -/
def stripes (a n : Nat) : List (Nat × Nat) := pieces 256 (n / 256 + 2) a n

/-- The pieces of a run of bytes by granules of 32 bytes. -/
def granules (a n : Nat) : List (Nat × Nat) := pieces 32 (n / 32 + 2) a n

/-- Read the bytes of one stripe piece. -/
def readStripe (side : Side) (p : Fin 16) (a n : Nat) : Op (List Byte) := do
  let s ← Op.get
  match locate (s.part p).mem a with
  | .outside => Op.stop (.refused 6)
  | .hole => pure (List.replicate n 0#8)
  | .frame id ofs => do
    Op.mod (fun s => countPage (countAccess s id ofs false true n) p a)
    let parts ← Op.map (granules ofs n) (fun g => do
      let dev := a - ofs % 32 + (g.1 - ofs + ofs % 32) / 32 * 32
      let d ← readGranule id (g.1 / 32 * 32) dev
      let d ← crossed s (crossIn side (dieOf id ofs) dev) d
      pure ((d.drop (g.1 % 32)).take g.2))
    pure parts.flatten

/-- Read n bytes of partition memory at a device address. -/
def readMem (side : Side) (p : Fin 16) (a n : Nat) : Op (List Byte) := do
  let parts ← Op.map (stripes a n) (fun st => readStripe side p st.1 st.2)
  pure parts.flatten

/-- The ports in the turn of R339. -/
def portTurn : List Nat := [0, 2, 1, 3]

/-- Take a region frame for a page from a pool, in the turn of the ports (R339): frame id, the pool's rest, and the
next place in the turn. -/
def takeFrame (pool : List Nat) (turn : Nat) : Option (Nat × List Nat × Nat) :=
  (List.range 4).findSome? (fun i =>
    let k := (turn + i) % 4
    (pool.find? (fun id => lowerPort id = portTurn.getD k 0)).map (fun id => (id, pool.erase id, (k + 1) % 4)))

/-- Zero n bytes from key `lo` of the shelves and restore their check bytes (R48, R49). -/
def zeroMem (s : State) (lo n : Nat) : State :=
  { s with mem := Sparse.clearRange s.mem lo n, errs := Sparse.clearRange s.errs (lo / 32) (n / 32) }

/-- Zero a frame. -/
def zeroFrame (s : State) (id : Nat) : State := zeroMem s (id * frameBytes) frameBytes

/-- Open the FREE slot of an address (R339). -/
def openSlot (m : PartMem) (a : Nat) : PartMem :=
  { m with regions := Sparse.modify Region.free m.regions ((a - regionBase) / regionBytes) (fun r =>
      if r.state = .free then { r with state := .opened } else r) }

/-- Back the page of an address with a frame. -/
def backPage (m : PartMem) (a id : Nat) : PartMem :=
  { m with regions := Sparse.modify Region.free m.regions ((a - regionBase) / regionBytes) (fun r =>
      { r with frames := Sparse.set 0 r.frames ((a - regionBase) % regionBytes / frameBytes) (id + 1) }) }

/-- Open a FREE slot and back its page before a write: with a zeroed frame, or with one still being zeroed, where the
writer has waited for it; a pool without a frame stops the write with CAPACITY (R339, R340). -/
def openPage (p : Fin 16) (a : Nat) : Op Unit := do
  Op.mod (fun s => s.modPart p (fun x => { x with mem := openSlot x.mem a }))
  let s ← Op.get
  let m := (s.part p).mem
  match takeFrame m.poolFree m.turn with
  | some (id, rest, turn) =>
    Op.mod (fun s => s.modPart p (fun x => { x with mem := backPage { x.mem with poolFree := rest, turn := turn } a id }))
  | none =>
    match takeFrame m.poolZeroing m.turn with
    | some (id, rest, turn) =>
      Op.mod (fun s => (zeroFrame (postBit s 0xA0000004 0) id).modPart p (fun x =>
        { x with mem := backPage { x.mem with poolZeroing := rest, turn := turn } a id }))
    | none => Op.stop (.refused 10)

/-- Write whole or part granules of one frame; a granule written whole forgets its disturbance. -/
def putBytes (s : State) (key : Nat) (bytes : List Byte) (clear : List Nat) : State :=
  { s with mem := Sparse.setRun 0#8 s.mem key bytes,
           errs := clear.foldl (fun e k => Sparse.set 0 e k 0) s.errs }

/-- Write the bytes of one stripe piece (R326): every granule written in part is read and decoded first, and an
uncorrectable one leaves the stripe unwritten. -/
def writeStripe (side : Side) (p : Fin 16) (a : Nat) (bytes : List Byte) : Op Unit := do
  let s ← Op.get
  match locate (s.part p).mem a with
  | .outside => Op.stop (.refused 6)
  | .hole => openPage p a
  | .frame _ _ => pure ()
  let s ← Op.get
  match locate (s.part p).mem a with
  | .frame id ofs => do
    let gs := granules ofs bytes.length
    let merged ← Op.map gs (fun g => do
      let dev := a - ofs % 32 + (g.1 - ofs + ofs % 32) / 32 * 32
      let sent ← crossed s (crossOut side (dieOf id ofs) dev) (slice ((bytes.drop (g.1 - ofs)).take g.2) 0 32)
      let new := sent.take g.2
      if g.2 = 32 then
        if isLower id && !portUp s (lowerPort id) then do
          Op.mod (fun s => noteUncorrectable s id ofs)
          Op.stop (.mem 4 5 a (chanCode id ofs))
        else if wrapperClosed s (memBlk id g.1) then Op.stop (.mem 3 (placeCode id) a (chanCode id g.1))
        else pure new
      else do
        let old ← readGranule id (g.1 / 32 * 32) dev
        pure (old.take (g.1 % 32) ++ new ++ old.drop (g.1 % 32 + g.2)))
    let key := id * frameBytes + ofs / 32 * 32
    Op.mod (fun s => countPage (countAccess (putBytes s key merged.flatten
      ((List.range gs.length).map (fun i => key / 32 + i))) id ofs true (bytes.length = 256) bytes.length) p a)
  | _ => pure ()

/-- Write bytes of partition memory at a device address, stripe by stripe in ascending order. -/
def writeMem (side : Side) (p : Fin 16) (a : Nat) (bytes : List Byte) : Op Unit :=
  Op.each (stripes a bytes.length) (fun st => writeStripe side p st.1 ((bytes.drop (st.1 - a)).take st.2))

/-! ### References on region slots (R341, R344) -/

/-- Free a RETIRED slot whose last reference has ended: its frames are zeroed in the background (R344). -/
def freeRetired (m : PartMem) (i : Nat) : PartMem :=
  let r := Sparse.get Region.free m.regions i
  if r.state = .retired ∧ r.refs = 0 then
    { m with regions := Sparse.set Region.free m.regions i Region.free,
             poolZeroing := m.poolZeroing ++ r.frames.map (fun e => e.2 - 1) }
  else m

/-- Take a reference on a slot (R341). -/
def addRef (m : PartMem) (i : Nat) : PartMem :=
  { m with regions := Sparse.modify Region.free m.regions i (fun r => { r with refs := r.refs + 1 }) }

/-- End a reference on a slot. -/
def dropRef (m : PartMem) (i : Nat) : PartMem :=
  freeRetired { m with regions := Sparse.modify Region.free m.regions i (fun r => { r with refs := r.refs - 1 }) } i

/-- The prefetch queue empties, and the copy in progress ends its reference (Table 13-9). -/
def emptyQueue (m : PartMem) : PartMem :=
  (m.prefQ.filterMap PrefEntry.src).foldl dropRef { m with prefQ := [] }

/-! ### Core stores -/

/-- Bytes of a core store (8 MiB). -/
def storeBytes : Nat := 0x800000

/-- SRAM banks of 2,048 granules (Table 18-3): core nn holds banks 512·nn on, its store first, then AM, the chest and TB;
those of the sequencer caches, the function tables, the collective buffers and the update units follow (assumption 66). -/
def sramBank (array owner granule : Nat) : Nat :=
  match array with
  | 0 => 512 * owner + granule / 2048
  | 1 => 512 * owner + 128 + granule / 2048
  | 2 => 512 * owner + 272 + granule / 2048
  | 3 => 512 * owner + 176 + granule / 2048
  | 4 => 512 * 64 + owner
  | _ => 512 * 64 + 64 + 8 * owner + granule / 2048

/-- The arrays that `sramErrs` numbers: AM, TB, the chest, a stream's descriptor cache, a partition's function tables. -/
def arrAm : Nat := 1
def arrTb : Nat := 2
def arrChest : Nat := 3
def arrDesc : Nat := 4
def arrTable : Nat := 5

/-- Key of a granule of an SRAM array. -/
def sramKey (array owner granule : Nat) : Nat := array * 2 ^ 44 + owner * 2 ^ 24 + granule

/-- Granules of an array are written whole: their disturbance is gone. -/
def clearArray (s : State) (array owner lo n : Nat) : State :=
  { s with sramErrs := Sparse.clearRange s.sramErrs (sramKey array owner lo) n }

end Sys2Proof.Machine
end

