-- ==== Sys2Proof/Machine/Flags.lean ====
section
/-! DEFINITION. What commands set beside their results: sync-object values and their waiters (04), trace records (R476,
R477), INF_SEEN (R127), and the fault record with the drain and the freeze of a partition (R449 to R451). -/

namespace Sys2Proof.Machine

/-! ### Traces -/

/-- Which bit of SQ_TRACE_CFG enables a record type (Table 19-8). -/
def traceBit (kind : Nat) : Nat := if kind = 3 then 27 else if kind = 4 then 28 else if kind = 5 then 29 else 30

/-- The 32 bytes of a record (Table 19-6); `ref` holds REF and CYC, bytes 16 to 23. -/
def TraceRec.bytes (r : TraceRec) : List Byte :=
  leBytes 1 r.kind ++ leBytes 1 r.stream ++ leBytes 1 r.opcode ++ leBytes 1 r.core ++ leBytes 2 r.layer ++
  leBytes 2 r.oper ++ leBytes 4 r.step ++ leBytes 4 r.range ++ leBytes 8 r.ref ++ leBytes 8 r.data

/-- REF and CYC at record n of a tick: the reference period is one of the tick's 25, the core cycle within it below 32; which
ones is free (assumption 9). -/
def traceTime (tick n : Nat) : Nat :=
  let k := Config.tracePhase tick n
  tick * 25 + k % 25 + 2 ^ 48 * (k / 25 % 32)

/-- Address of record n in the ring in partition memory (R476, Table 19-8). -/
def ringAddr (s : State) (p : Fin 16) (n : Nat) : Nat :=
  field (rawReg s (sqReg p 0x318)) 15 0 * 2 ^ 32 + (rawReg s (sqReg p 0x314)).toNat +
    n % (field (rawReg s (sqReg p 0x31C)) 15 0 * 128) * 32

/-- Write one record to the next place of the ring in partition memory. -/
def drainOne (p : Fin 16) (s : State) (r : TraceRec) : State :=
  let n := (s.part p).drained
  Op.after (writeMem .compute p (ringAddr s p n) r.bytes) (s.modPart p (fun x => { x with drained := n + 1 }))

/-- The LOST record (R476). -/
def lostRecord (tick n : Nat) : TraceRec :=
  { kind := 6, stream := 0xFF, opcode := 0, core := 0xFF, layer := 0, oper := 0, step := 0, range := 0, ref := tick * 25,
    data := n % 2 ^ 32, place := [] }

/-- The drain goes on, oldest record first, as far as it comes: how far is free (assumption 9). Where it has caught up after
a loss it writes the LOST record (R476). -/
def drainOn (p : Fin 16) (s : State) : State :=
  let x := s.part p
  let k := Config.waitCycles s.freeCount
  let s := { s with freeCount := s.freeCount + 1 }.setPart p { x with undrained := x.undrained.drop k }
  let s := (x.undrained.take k).foldl (drainOne p) s
  if x.undrained.length ≤ k ∧ x.lostRecs ≠ 0 then
    drainOne p (s.modPart p (fun x => { x with lostRecs := 0 })) (lostRecord s.tick x.lostRecs)
  else s

/-- A record joins those that wait to be drained; beyond 8,192 the oldest of them is lost, and counted (R476). -/
def queueRecord (p : Fin 16) (s : State) (r : TraceRec) : State :=
  let q := (s.part p).undrained
  if q.length < 8192 then s.modPart p (fun x => { x with undrained := q ++ [r] })
  else bump (s.modPart p (fun x => { x with undrained := q.tail ++ [r], lostRecs := x.lostRecs + 1 })) (sqReg p 0x328) none 1

/-- Write a record to the on-die ring and, with DRAIN, let it go to the ring in partition memory (R476); the ring of a frozen
partition has stopped (Table 19-12). -/
def putTrace (s : State) (p : Fin 16) (r : TraceRec) : State :=
  let cfg := rawReg s (sqReg p 0x310)
  if flag cfg 31 && flag cfg (traceBit r.kind) && !(s.part p).frozen then
    let r := { r with ref := traceTime s.tick (count s (sqReg p 0x320)) }
    let s := s.modPart p (fun x => { x with ring := (r :: x.ring).take 8192 })
    let s := bump s (sqReg p 0x320) none 1
    if flag cfg 26 then drainOn p (queueRecord p s r) else s
  else s

/-- The record of a command of stream t, without its type and data. -/
def cmdTrace (q : Stream) (t : StreamTag) (g : Granule) : TraceRec :=
  { kind := 0, stream := tagCode t, opcode := cOpcode g, core := 0xFF, layer := cLayer g, oper := cOper g,
    step := q.step, range := q.marker, ref := 0, data := 0, place := [] }

/-- A partition event of Table 19-7. -/
def postEvent (s : State) (p : Fin 16) (t : StreamTag) (code core layer oper data : Nat) : State :=
  putTrace s p
    { kind := 5, stream := tagCode t, opcode := code, core := core, layer := layer, oper := oper,
      step := (s.stream p t).step, range := (s.stream p t).marker, ref := 0, data := data, place := [] }

/-- INF_SEEN: posted once per step of the partition, with the unit and the whole tile coordinates of the first infinity
(R127). The 8 bytes of data that hold them have no layout in the spec: they are free (assumption 68). -/
def noteInf (s : State) (p : Fin 16) (t : StreamTag) (g : Granule) (unit core : Nat) (tile : List Nat) : State :=
  if (s.part p).infSeen then s
  else
    let q := s.stream p t
    putTrace (s.modPart p (fun x => { x with infSeen := true })) p
      { kind := 5, stream := tagCode t, opcode := 1, core := core, layer := cLayer g, oper := cOper g, step := q.step,
        range := q.marker, ref := 0, data := Config.infData (unit :: tile) % 2 ^ 64, place := unit :: tile }

/-! ### Sync objects (04) -/

/-- Sync object n. -/
def soGet (s : State) (n : Nat) : SyncObj := Sparse.get SyncObj.zero s.so n

/-- Set sync object n. -/
def soSet (s : State) (n : Nat) (x : SyncObj) : State := { s with so := Sparse.set SyncObj.zero s.so n x }

/-- Signal operations (Table 3-4). -/
inductive SigOp where
  | add | set
  deriving DecidableEq, Repr

/-- The object after one operation (R87, Table 4-1). -/
def SyncObj.apply (x : SyncObj) (op : SigOp) (amount : Word) : SyncObj :=
  match op with
  | .add => { x with value := x.value + amount, wrap := x.wrap || decide (2 ^ 32 ≤ x.value.toNat + amount.toNat) }
  | .set => { x with value := amount, epoch := x.epoch + 1 }

/-- A wait condition of Table 3-4 on a counter value. -/
def condHolds (cond : Nat) (value wait : Word) : Bool :=
  if cond = 0 then true else if cond = 1 then geSigned value wait
  else if cond = 2 then decide (value = wait) else decide (value ≠ wait)

/-- A stream's head waits on object n. -/
def waitsOn (q : Stream) (n : Nat) : Bool :=
  match q.head with
  | some g => decide (cWaitCond g ≠ 0) && decide (cWaitSo g = n)
  | none => false

/-- A head command that waits on object n sees its new value (R94). -/
def observe (q : Stream) (n : Nat) (v : Word) : Stream :=
  match q.head with
  | some g => if waitsOn q n && condHolds (cWaitCond g) v (cWaitValue g) then { q with waitMet := true } else q
  | none => q

/-- Every stream of a partition observes a value; the sequencers of a frozen one keep their state (R450). -/
def observePart (x : Part) (n : Nat) (v : Word) : Part :=
  if x.frozen then x else { x with sF := observe x.sF n v, sB := observe x.sB n v, sU := observe x.sU n v }

/-- The partition whose run holds object n (R89). -/
def soOwner (s : State) (n : Nat) : Option (Fin 16) :=
  let b := Sparse.get SoBlock.free s.soBlk (n / 64)
  if b.alloc && !b.scrub then some (Fin.ofNat 16 b.part) else none

/-- Apply one operation to an object; every waiter observes the value (R91, R94). -/
def applySignal (s : State) (n : Nat) (op : SigOp) (amount : Word) : State :=
  let x := (soGet s n).apply op amount
  let s := soSet s n x
  match soOwner s n with
  | some p => s.modPart p (fun y => observePart y n x.value)
  | none => s

/-- Object n lies in the partition's run (SO_RANGE). -/
def soInRun (x : Part) (n : Nat) : Bool :=
  decide (x.soBase * 64 ≤ n) && decide (n < (x.soBase + x.soCount + 1) * 64)

/-! ### Faults (R449 to R451) -/

/-- Write the fault record, or add 1 to FURTHER when the partition holds one (R451). -/
def recordFault (s : State) (p : Fin 16) (r : FaultRec) : State :=
  s.modPart p (fun x =>
    if x.record.cause = 0 then { x with record := { r with further := 0, tick := s.tick } }
    else { x with record := { x.record with further := satAdd32 x.record.further 1 } })

/-- Faults after the recorded one (R129, R451). -/
def moreFaults (s : State) (p : Fin 16) (n : Nat) : State :=
  s.modPart p (fun x => { x with record := { x.record with further := satAdd32 x.record.further n } })

/-- The fault record's fields that a command gives (Table 18-2). -/
def cmdFault (q : Stream) (t : StreamTag) (g : Granule) (pc : Nat) : FaultRec :=
  { FaultRec.none with stream := tagCode t, layer := cLayer g, oper := cOper g, step := q.step, pc := pc,
                       core := 0xFF, chan := 0xFFFF }

/-- The fault record of a stop inside a command: cause 0x1 or 0x2. -/
def trapFault (q : Stream) (t : StreamTag) (g : Granule) (pc : Nat) (e : Trap) : FaultRec :=
  let r := { cmdFault q t g pc with unit := e.unit, core := e.core, tile := e.tile }
  match e.stop with
  | .mem kind place addr chan => { r with cause := 1, kind := kind, place := place, addr := addr, chan := chan }
  | .nan k => { r with cause := 2, kind := k.code }
  | .refused code => { r with cause := 3, kind := 3, unit := 0xA, refuse := code }
  | .waits _ => r
  | .shed => r
  | .broken conn chan => { r with cause := 3, kind := 5, unit := 0xC, tile := [conn, 0, 0, 0], chan := chan }

/-- How a stream that has not reached END reads once its partition is FAULTED (R59). -/
def faultStream (q : Stream) : Stream :=
  match q.state with
  | .done => q
  | .refused => q
  | _ => { q with state := .faulted }

/-- Enter FAULTED (R449, R450): FAULT_CAUSE is that of the recorded fault, and a STOP being carried out is left to be
answered. -/
def enterFaulted (x : Part) : Part :=
  { x with state := .faulted, faultCause := x.record.cause, draining := false, halted := true, resumable := false,
           sF := faultStream x.sF, sB := faultStream x.sB, sU := faultStream x.sU }

/-- Begin a drain after a fault of cause 0x1, 0x2 or 0x4 (R449); a partition not running is left as it is. -/
def startDrain (s : State) (p : Fin 16) : State :=
  s.modPart p (fun x =>
    if x.state = .running ∨ x.state = .stopping then { x with draining := true } else x)

/-- A stream stops on a fault of its command (R449): it reads FAULTED and no later command of it signals. -/
def stopStream (s : State) (p : Fin 16) (t : StreamTag) : State :=
  s.modStream p t (fun q => { q with state := .faulted, mute := true })

/-- Capture begins for a frozen partition, unless the dump area is taken (R462). -/
def startDump (s : State) (p : Fin 16) : State :=
  if s.dump.busy.isSome || s.dump.held.isSome then postBit s 0xF0000000 5
  else { s with dump := { s.dump with busy := some p, depth := field (rawReg s 0xF000000C) 23 22 } }

/-- The update units that hold panels of a UPD in flight show it stopped (Table 12-12). -/
def stopUpds (s : State) (p : Fin 16) : State :=
  let groups := (s.part p).sU.flight.filterMap (fun f => match f.wait with
    | .update _ _ => some (field f.word 127 116)
    | _ => none)
  (List.range 4).foldl (fun s u =>
    let a := 0x98000008 + 0x100 * u
    let w := rawReg s a
    if field w 31 28 = p.val ∧ groups.contains (field w 11 0) then
      setRaw s a (at32 28 p.val ||| at32 26 2 ||| at32 0 (field w 11 0))
    else s) s

/-- Freeze a running or stopping partition on a fault of cause 0x3 (R450): it enters FAULTED at once, no command of it
goes on, and a dump is captured. -/
def freeze (s : State) (p : Fin 16) (r : FaultRec) : State :=
  let s := stopUpds (recordFault s p r) p
  let x := s.part p
  if x.state = .running ∨ x.state = .stopping then
    answerStop (startDump (s.setPart p (enterFaulted
      { x with mem := emptyQueue x.mem, colls := [], segs := [], handed := [], frozen := true })) p) p else s

/-- A command of stream t stops on its faults, first core first: the record, FURTHER, and the drain, or the freeze
where it stops as if refused. -/
def trapCommand (s : State) (p : Fin 16) (t : StreamTag) (g : Granule) (pc : Nat) (es : List Trap) : State :=
  match es with
  | [] => s
  | e :: rest =>
    let q := s.stream p t
    match e.stop with
    | .refused code =>
      let s := s.modStream p t (fun q => { q with state := .refused, refuse := code, pc := pc })
      freeze s p (trapFault q t g pc e)
    | .broken _ _ =>
      freeze (s.modStream p t (fun q => { q with state := .refused, refuse := 3 })) p (trapFault q t g pc e)
    | _ =>
      let s := (e :: rest).foldl (fun s e => moreFaults (recordFault s p (trapFault q t g pc e)) p e.more) s
      startDrain (stopStream s p t) p

end Sys2Proof.Machine
end

