-- ==== Sys2Proof/Machine/Counters.lean ====
section
/-! DEFINITION. The programmable counters of the cores (R467 to R474): what an attributable event adds, wraps, samples and
resets. VALUE and RELOAD are counts by the address of their low word; CTL and INFO are stored registers. -/

namespace Sys2Proof.Machine

/-- DB_CNT_CTL_j of core nn (R468). -/
def cntBase (nn j : Nat) : Nat := 0x80000000 + nn * 0x400000 + 0x1000 + 0x20 * j

/-- The record of a sample (Table 19-6): the command most recently issued by the stream, or none. -/
def sampleRecord (x : Part) (nn j : Nat) (t : Option StreamTag) : TraceRec :=
  match t with
  | some t =>
    let q := x.stream t
    { kind := 4, stream := tagCode t, opcode := q.lastOp, core := nn, layer := q.layer, oper := q.oper, step := q.step,
      range := q.marker, ref := 0, data := j + 2 ^ 16 * q.lastPc, place := [] }
  | none =>
    { kind := 4, stream := 0xFF, opcode := 0, core := nn, layer := 0, oper := 0, step := 0, range := 0, ref := 0,
      data := j, place := [] }

/-- One wrap of a counter (R467, R474): OVF, and with SAMPLE the record and the signal, of an object of the partition's run
only (R90); a core of no partition has neither. -/
def wrapCounter (s : State) (p : Option (Fin 16)) (t : Option StreamTag) (nn j : Nat) : State :=
  let a := cntBase nn j
  let ctl := rawReg s a
  let s := postBit s (a + 4) 15
  match p with
  | some p =>
    if flag ctl 30 then
      let s := putTrace s p (sampleRecord (s.part p) nn j t)
      let so := field (rawReg s (a + 4)) 11 0
      if flag ctl 29 && soInRun (s.part p) so then applySignal s so .add 1#32 else s
    else s
  | none => s

/-- The value a counter continues from after a wrap: 0, or RELOAD with SAMPLE (R467). -/
def wrapStart (s : State) (nn j : Nat) : Nat :=
  if flag (rawReg s (cntBase nn j)) 30 then count s (cntBase nn j + 0x10) else 0

/-- Add to a counter, wrap by wrap. -/
def addCounter (p : Option (Fin 16)) (t : Option StreamTag) (nn j : Nat) : Nat → Nat → State → State
  | 0, v, s => { s with counts := Sparse.set 0 s.counts (cntBase nn j + 8) (v % wrap48) }
  | fuel + 1, v, s =>
    if v < wrap48 then { s with counts := Sparse.set 0 s.counts (cntBase nn j + 8) v }
    else addCounter p t nn j fuel (wrapStart s nn j + (v - wrap48)) (wrapCounter s p t nn j)

/-- The counter is on, counts this event, and the command passes its filters (R469). -/
def counterTakes (ctl : Word) (code : Nat) (t : StreamTag) (layer : Nat) : Bool :=
  flag ctl 31 && field ctl 23 16 = code && flag ctl (24 + tagCode t) && (!flag ctl 27 || field ctl 15 0 = layer)

/-- An attributable event of core nn, done `n` times for a command of stream t (Table 19-1). -/
def countEvent (s : State) (p : Fin 16) (t : StreamTag) (layer code nn n : Nat) : State :=
  (List.range 16).foldl (fun s j =>
    if counterTakes (rawReg s (cntBase nn j)) code t layer && decide (n ≠ 0) then
      addCounter (some p) (some t) nn j n (count s (cntBase nn j + 8) + n) s
    else s) s

/-- The counter is on, counts this event, and passes one that belongs to no command (R469). -/
def counterTakesCore (ctl : Word) (code : Nat) : Bool :=
  flag ctl 31 && field ctl 23 16 = code && !flag ctl 27 && field ctl 26 24 = 7

/-- The partition that holds a core. -/
def partOf (s : State) (nn : Nat) : Option (Fin 16) := if h : corePart s nn < 16 then some ⟨corePart s nn, h⟩ else none

/-- An event of core nn that is not attributable, n times (Table 19-1). -/
def countCore (s : State) (nn code n : Nat) : State :=
  (List.range 16).foldl (fun s j =>
    if counterTakesCore (rawReg s (cntBase nn j)) code then
      addCounter (partOf s nn) none nn j n (count s (cntBase nn j + 8) + n) s
    else s) s

/-- Reset a counter (R470): VALUE ← RELOAD, OVF clears, EPOCH rises. -/
def resetCounter (s : State) (nn j : Nat) : State :=
  let a := cntBase nn j
  let s := { s with counts := Sparse.set 0 s.counts (a + 8) (count s (a + 0x10)) }
  let info := rawReg s (a + 4)
  setRaw s (a + 4) (setField (setBit info 15 false) 31 16 ((field info 31 16 + 1) % 65536))

/-- The counters of a partition's cores with RESET_ON_BEGIN whose STREAMS hold stream t (R470). -/
def beginMark (s : State) (p : Fin 16) (t : StreamTag) : State :=
  (partCores (s.part p)).foldl (fun s nn => (List.range 16).foldl (fun s j =>
    let ctl := rawReg s (cntBase nn j)
    if flag ctl 28 && flag ctl (24 + tagCode t) then resetCounter s nn j else s) s) s

/-- Reset every counter of a partition's cores: LOAD and partition reset (R470). -/
def resetCounters (s : State) (p : Fin 16) : State :=
  (partCores (s.part p)).foldl (fun s nn => (List.range 16).foldl (fun s j => resetCounter s nn j) s) s

/-- Events that are not attributable (Table 19-1). -/
def coreEvents : List Nat := [0x01, 0x02, 0x50, 0x51, 0x60]

/-- The stream whose command made an attributable counter wrap where no step of the model tells it: a free one of STREAMS. -/
def wrapStream (s : State) (ctl : Word) : Option StreamTag :=
  let on := [StreamTag.F, .B, .U].filter (fun t => flag ctl (24 + tagCode t))
  on[(Config.freeWord s.freeCount).toNat % on.length]?

/-- The counter can count: it is on, its event passes its filters, and no freeze has stopped it (R469, Table 19-12). -/
def counterRuns (s : State) (nn j : Nat) : Bool :=
  let ctl := rawReg s (cntBase nn j)
  flag ctl 31 && (if coreEvents.contains (field ctl 23 16) then !flag ctl 27 && field ctl 26 24 = 7 else field ctl 26 24 ≠ 0) &&
  !((partOf s nn).any (fun p => (s.part p).frozen))

/-- COUNTER_WRAP: a counter that runs reaches its wrap by events that no other row carries, such as core cycles (R467,
R474). -/
def execCounterWrap (core : Fin 64) (j : Fin 16) (s : State) : Host.Outcome State Fault Refusal :=
  if counterRuns s core.val j.val then
    let ctl := rawReg s (cntBase core.val j.val)
    let t := if coreEvents.contains (field ctl 23 16) then none else wrapStream s ctl
    .next (addCounter (partOf s core.val) t core.val j.val 1 wrap48 { s with freeCount := s.freeCount + 1 })
  else .next s

end Sys2Proof.Machine
end

