-- ==== Sys2Proof/Machine/Sram.lean ====
section
/-! DEFINITION. Reading on-die SRAM through its check symbols: the core stores and the other arrays (R16, R199, R319), with
what a correction or an uncorrectable granule there leaves. -/

namespace Sys2Proof.Machine

/-- A correction or an uncorrectable granule in on-die SRAM: the always-on counts of a core's SRAM (R481), its SRAM_CORR
counters (Table 19-1) and the bank's proof run (R321, Table 18-3). -/
def noteSram (s : State) (array owner granule : Nat) (bad : Bool) : State :=
  let core := decide (array ≤ 3)
  let p := corePart s owner
  let s := if core && decide (p < 16) then bump s (0xF0004000 + 0x100 * p + (if bad then 0x38 else 0x30)) none 1 else s
  let s := if core && !bad then countCore s owner 0x60 1 else s
  requestProof s 0 (sramBank array owner granule)

/-- Decode one granule of SRAM under correct-1/detect-3 (Table 13-1). -/
def readSram (array owner granule : Nat) (data : List Byte) (mask : Nat) : Op (List Byte) :=
  match decodeGranule .correct1 data mask with
  | .clean d => pure d
  | .corrected d => do
    Op.mod (fun s => noteSram s array owner granule false)
    pure d
  | .uncorrectable => do
    Op.mod (fun s => noteSram s array owner granule true)
    Op.stop (.mem 1 1 0 0xFFFF)

/-- No disturbance meets n granules of an array from `lo` on. -/
def arrayClean (s : State) (array owner lo n : Nat) : Bool :=
  let first := sramKey array owner lo
  s.sramErrs.all (fun e => decide (e.1 < first) || decide (first + n ≤ e.1))

/-- Read bytes that an array other than a core store holds from granule `lo` on (R16, R319). -/
def readArray (array owner lo : Nat) (bytes : List Byte) : Op (List Byte) := do
  let s ← Op.get
  let first := sramKey array owner lo
  let n := (bytes.length + 31) / 32
  if arrayClean s array owner lo n then pure bytes else do
    let gs ← Op.map (List.range n) (fun i =>
      readSram array owner (lo + i) (slice bytes (32 * i) 32) (Sparse.get 0 s.sramErrs (first + i)))
    pure (gs.flatten.take bytes.length)

/-- Read one granule of core nn's store. -/
def readStoreGranule (nn ofs : Nat) : Op (List Byte) := do
  let s ← Op.get
  let key := nn * storeBytes + ofs
  readSram 0 nn (ofs / 32) (Sparse.getRun 0#8 s.store key 32) (Sparse.get 0 s.storeErrs (key / 32))

/-- Read n bytes of core nn's store. -/
def readStore (nn a n : Nat) : Op (List Byte) := do
  let parts ← Op.map (granules a n) (fun g => do
    let d ← readStoreGranule nn (g.1 / 32 * 32)
    pure ((d.drop (g.1 % 32)).take g.2))
  pure parts.flatten

/-- Write bytes of core nn's store; a granule written in part is decoded first. -/
def writeStore (nn a : Nat) (bytes : List Byte) : Op Unit :=
  Op.each (granules a bytes.length) (fun g => do
    let new := (bytes.drop (g.1 - a)).take g.2
    let base := g.1 / 32 * 32
    let old ← (if g.2 = 32 then pure [] else readStoreGranule nn base)
    Op.mod (fun s => { s with
      store := Sparse.setRun 0#8 s.store (nn * storeBytes + base)
        (old.take (g.1 % 32) ++ new ++ old.drop (g.1 % 32 + g.2)),
      storeErrs := Sparse.set 0 s.storeErrs ((nn * storeBytes + base) / 32) 0 }))

end Sys2Proof.Machine
end

