-- ==== Sys2Proof/Machine/Operands.lean ====
section
/-! DEFINITION. Operand forms: the target rectangle (R64), tensor elements through a descriptor (R70 to R75, R275 to
R282), crumb groups (R288 to R292), and the decoding and encoding of every format (R107 to R125). -/

namespace Sys2Proof.Machine

/-! ### Targets -/

/-- The cores that a command names (R64). -/
def targetCores (x : Part) (g : Granule) : List (Nat × Nat × Nat) :=
  rectCores x.origin (cTX g) (cTY g) (cTW g) (cTH g)

/-- The rectangle lies inside the partition (BAD_TARGET of Table 3-1). -/
def targetOk (x : Part) (g : Granule) : Bool :=
  decide (cTX g + cTW g ≤ shapeW x.shape) && decide (cTY g + cTH g ≤ shapeH x.shape)

/-- Where a command acts: partition, core, relative position, the stream's step counter (R72, R75), the side of the links
that its engine stands on, and its stream. -/
structure Ctx where
  p : Fin 16
  nn : Nat
  cx : Nat
  cy : Nat
  step : Nat
  side : Side
  t : StreamTag
  deriving DecidableEq, Repr

/-! ### Bytes of a block -/

/-- The block scale and raw value bytes of one block as stored. -/
structure RawBlock where
  bytes : List Byte
  scale : Nat
  deriving DecidableEq, Repr

/-- A WT byte of 243 or more is BAD_CODE (R112), at the first of the five digits it holds. -/
def badDigits (bytes : List Byte) : Except Nans Unit :=
  match (bytes.zipIdx.filter (fun e => decide (243 ≤ e.1.toNat))).map (fun e => e.2) with
  | [] => .ok ()
  | i :: is => .error ⟨.badCode, 5 * i, is.length⟩

/-- Element codes of a block's bytes (Table 11-1, R111 to R113). -/
def blockCodes (f : Fmt) (bytes : List Byte) : Except Nans (List Nat) :=
  match f with
  | .w1 => .ok ((List.range 32).map (fun i => (bytes.getD (i / 8) 0#8).toNat / 2 ^ (i % 8) % 2))
  | .w2 => .ok ((List.range 32).map (fun i => (bytes.getD (i / 4) 0#8).toNat / 4 ^ (i % 4) % 4))
  | .wt => (badDigits bytes).map (fun _ => (List.range 32).map (fun i => (bytes.getD (i / 5) 0#8).toNat / 3 ^ (i % 5) % 3))
  | .a4 => .ok ((List.range 32).map (fun i => (bytes.getD (i / 2) 0#8).toNat / 16 ^ (i % 2) % 16))
  | f =>
    let w := f.blockBytes / f.perBlock
    .ok ((List.range f.perBlock).map (fun i => leAt bytes (w * i) w))

/-- Pack digits of a base into bytes, `k` to a byte, first digit lowest. -/
def packDigits (base k : Nat) (codes : List Nat) (nbytes : Nat) : List Byte :=
  (chunks k nbytes codes).map (fun ds => BitVec.ofNat 8 (ds.foldr (fun d acc => d + base * acc) 0))

/-- The value bytes of a block's codes (Table 11-1); WT padding digits are 0 (R112). -/
def blockBytesOf (f : Fmt) (codes : List Nat) : List Byte :=
  match f with
  | .w1 => packDigits 2 8 codes 4
  | .w2 => packDigits 4 4 codes 8
  | .wt => packDigits 3 5 codes 7
  | .a4 => packDigits 16 2 codes 16
  | f => (codes.map (leBytes (f.blockBytes / f.perBlock))).flatten

/-! ### Reading and writing through a descriptor -/

/-- Bytes that commands in flight write and have not completed (R84). -/
def pendingWrites (x : Part) : List (Nat × Nat × Nat) :=
  [x.sF, x.sB, x.sU].flatMap (fun q => (q.flight.filter (fun f => !f.done)).flatMap Flight.wrote)

/-- A read of data that is not complete is unpredictable (R84): its bytes are free. -/
def raced (s : State) (p : Fin 16) (t : StreamTag) (sp a : Nat) (bytes : List Byte) : List Byte :=
  let near := (pendingWrites (s.part p)).filter (fun r =>
    decide (r.1 = sp) && decide (r.2.1 < a + bytes.length) && decide (a < r.2.1 + r.2.2))
  if near.isEmpty then bytes else
    bytes.zipIdx.map (fun e => if near.any (fun r => decide (r.2.1 ≤ a + e.2) && decide (a + e.2 < r.2.1 + r.2.2))
      then Config.raceByte (s.part p).job.seed (tagCode t) (s.stream p t).issued (a + e.2) else e.1)

/-- Bytes a .. a + n - 1 meet a tier page that is being exchanged (R336). -/
def exchanging (m : PartMem) (a n : Nat) : Bool :=
  decide (a < regionBase) && m.exch.any (fun e => [e.pageA, e.pageB].any (fun g =>
    decide (a / frameBytes ≤ g) && decide (g ≤ (a + n - 1) / frameBytes)))

/-- Some of the bytes lie in a lower-shelf frame whose port is shed (R436). -/
def behindShed (s : State) (p : Fin 16) (a n : Nat) : Bool :=
  (stripes a n).any (fun st => match locate (s.part p).mem st.1 with
    | .frame id _ => isLower id && isShed s (domCxl (lowerPort id))
    | _ => false)

/-- A command's access to a page that is being exchanged waits (R336), and one behind a shed port (R436). -/
def awaitPages (p : Fin 16) (a n : Nat) : Op Unit := do
  let s ← Op.get
  if exchanging (s.part p).mem a n then Op.stop (.waits none)
  else if !s.power.shed.isEmpty && behindShed s p a n then Op.stop .shed else pure ()

/-- A command's write to a page of a region without a frame waits for a zeroed one, while some are being zeroed (R339). -/
def awaitFrame (p : Fin 16) (a : Nat) : Op Unit := do
  let s ← Op.get
  let m := (s.part p).mem
  if locate m a = .hole ∧ m.poolFree = [] ∧ m.poolZeroing ≠ [] then Op.stop (.waits (some a)) else pure ()

/-- A command reads partition memory. -/
def readDev (c : Ctx) (a n : Nat) : Op (List Byte) := do
  awaitPages c.p a n
  let s ← Op.get
  let bs ← readMem c.side c.p a n
  pure (raced s c.p c.t 0 a bs)

/-- A command writes partition memory, stripe by stripe in ascending order. -/
def writeDev (c : Ctx) (a : Nat) (bytes : List Byte) : Op Unit := do
  awaitPages c.p a bytes.length
  Op.each (stripes a bytes.length) (fun st => do
    awaitFrame c.p st.1
    writeStripe c.side c.p st.1 ((bytes.drop (st.1 - a)).take st.2))

/-- Bytes of the space a descriptor names (SPACE of Table 3-7). -/
def readSpace (c : Ctx) (d : Desc) (a n : Nat) : Op (List Byte) :=
  if d.space then do
    let s ← Op.get
    let bs ← readStore c.nn a n
    pure (raced s c.p c.t (1 + c.nn) a bs)
  else readDev c a n

/-- A byte of a destination: where an earlier row of the same command has written it, it holds the value of one of the two
rows, and which one is free (R277). `near` is what the command wrote there, newest first. -/
def sharedByte (near : List (Nat × Nat × List Byte)) (a : Nat) (b : Byte) : Byte :=
  match near.find? (fun r => decide (r.2.1 ≤ a) && decide (a < r.2.1 + r.2.2.length)) with
  | some r =>
    let old := r.2.2.getD (a - r.2.1) b
    if Config.rowPick a old b then old else b
  | none => b

/-- Write bytes of a destination in a space (0 memory, 1 + nn a core store), and note them for the rows that follow. -/
def putRow (sp a : Nat) (bytes : List Byte) (put : List Byte → Op Unit) : Op Unit := do
  let s ← Op.get
  let near := s.rowRuns.filter (fun r => decide (r.1 = sp) && decide (r.2.1 < a + bytes.length) &&
    decide (a < r.2.1 + r.2.2.length))
  let out := if near.isEmpty then bytes else bytes.zipIdx.map (fun e => sharedByte near (a + e.2) e.1)
  Op.mod (fun s => { s with rowRuns := (sp, a, out) :: s.rowRuns })
  put out

/-- Forget what an earlier command wrote. -/
def freshRows (s : State) : State := { s with rowRuns := [] }

/-- Write bytes of the space a descriptor names. -/
def writeSpace (c : Ctx) (d : Desc) (a : Nat) (bytes : List Byte) : Op Unit :=
  if d.space then putRow (1 + c.nn) a bytes (writeStore c.nn a) else putRow 0 a bytes (writeDev c a)

/-- Offsets of the core along dimensions 1 to 3 added to row indices (R75). -/
def rowAt (c : Ctx) (d : Desc) (r : Nat × Nat × Nat) : Nat × Nat × Nat :=
  (r.1 + d.coreOfs c.cx c.cy 1, r.2.1 + d.coreOfs c.cx c.cy 2, r.2.2 + d.coreOfs c.cx c.cy 3)

/-- Offset of the core along dimension 0, in elements. -/
def ofs0 (c : Ctx) (d : Desc) : Nat := d.coreOfs c.cx c.cy 0

/-- Address of value block `jb` of a row of the core's slice. -/
def valueAddr (c : Ctx) (d : Desc) (jb : Nat) (r : Nat × Nat × Nat) : Nat :=
  let (i1, i2, i3) := rowAt c d r
  d.vAt c.step + d.valueOfs (jb + ofs0 c d / d.epb) i1 i2 i3

/-- Address of the scale word of block `jb` of a row of the core's slice. -/
def scaleAddr (c : Ctx) (d : Desc) (jb : Nat) (r : Nat × Nat × Nat) : Nat :=
  let (i1, i2, i3) := rowAt c d r
  d.sAt c.step + d.scaleOfs (jb + ofs0 c d / d.epb) i1 i2 i3

/-- The position of element i of block `jb`, before the step offset (R271). -/
def position (c : Ctx) (d : Desc) (jb i : Nat) (r : Nat × Nat × Nat) : Nat :=
  let (i1, i2, i3) := rowAt c d r
  64 * d.valueOfs (jb + ofs0 c d / d.epb) i1 i2 i3 + i

/-- Blocks jb .. jb + n - 1 of a row as stored: one run of bytes under ROW, one block at a time under IL32; an
unscaled block carries 1.0 (R108). -/
def readBlocks (c : Ctx) (d : Desc) (jb n : Nat) (r : Nat × Nat × Nat) : Op (List RawBlock) :=
  let B := d.fmt.blockBytes
  if d.layout = 2 then
    Op.map (List.range n) (fun k => do
      let v ← readSpace c d (valueAddr c d (jb + k) r) B
      let w ← (if d.scaled then readSpace c d (scaleAddr c d (jb + k) r) 2 else pure (leBytes 2 scOne))
      pure { bytes := v, scale := leNat w })
  else do
    let v ← readSpace c d (valueAddr c d jb r) (B * n)
    let w ← (if d.scaled then readSpace c d (scaleAddr c d jb r) (2 * n) else pure [])
    pure ((List.range n).map (fun k =>
      { bytes := slice v (B * k) B, scale := if d.scaled then leAt w (2 * k) 2 else scOne }))

/-- Bytes of a block of which n elements are read. -/
def heldBytes (d : Desc) (n : Nat) : Nat :=
  let k := match d.fmt with
    | .w1 => (n + 7) / 8
    | .w2 => (n + 3) / 4
    | .wt => (n + 4) / 5
    | .a4 => (n + 1) / 2
    | f => n * (f.blockBytes / f.perBlock)
  if d.asym then max 2 k else k

/-- Blocks jb .. jb + n - 1 of a row as a computation reads them: no byte that only elements beyond the extent take is
read (R501). -/
def readHeld (c : Ctx) (d : Desc) (jb n : Nat) (r : Nat × Nat × Nat) : Op (List RawBlock) :=
  let last := d.e0 + 1 - d.epb * (jb + n - 1)
  if n = 0 ∨ d.epb ≤ last then readBlocks c d jb n r
  else do
    let bs ← readBlocks c d jb (n - 1) r
    let v ← readSpace c d (valueAddr c d (jb + n - 1) r) (heldBytes d last)
    let w ← (if d.scaled then readSpace c d (scaleAddr c d (jb + n - 1) r) 2 else pure (leBytes 2 scOne))
    pure (bs ++ [{ bytes := slice v 0 d.fmt.blockBytes, scale := leNat w }])

/-- Write blocks jb .. of a row: values, then scale words where the tensor carries them (R214). -/
def writeBlocks (c : Ctx) (d : Desc) (jb : Nat) (r : Nat × Nat × Nat) (bs : List RawBlock) : Op Unit :=
  if d.layout = 0 then do
    writeSpace c d (valueAddr c d jb r) (bs.map RawBlock.bytes).flatten
    if d.scaled then writeSpace c d (scaleAddr c d jb r) (bs.map (fun b => leBytes 2 b.scale)).flatten
  else
    Op.each (bs.zipIdx) (fun e => do
      writeSpace c d (valueAddr c d (jb + e.2) r) e.1.bytes
      if d.scaled then writeSpace c d (scaleAddr c d (jb + e.2) r) (leBytes 2 e.1.scale))

/-! ### Decoding -/

/-- A finite value of an integer times a scale. -/
def scaledInt (k : Int) (s : Rat) : Num := Num.ofRat ((k : Rat) * s)

/-- The value of an element code at a block scale (Table 5-3); `zp` is its zero point where asymmetric. -/
def elemValue (f : Fmt) (signed : Bool) (s : Rat) (zp : Nat) (code : Nat) : Except TrapKind Num :=
  match f with
  | .w1 => .ok (scaledInt (weightW1 code) s)
  | .wt => .ok (scaledInt (weightWT code) s)
  | .w2 => .ok (scaledInt (weightW2 code) s)
  | .a8 => .ok (scaledInt (if signed then signedOf 8 code else (code : Int) - zp) s)
  | .a4 => .ok (scaledInt (if signed then signedOf 4 code else (code : Int) - zp) s)
  | .int8 => .ok (scaledInt (signedOf 8 code) s)
  | .q8 => .ok (scaledInt (signedOf 8 code) s)
  | .l8 => .ok (decodeL8 s code)
  | .e4m3 => (fE4M3.decode code).bind (fun v => v.mul (Num.ofRat s))
  | .e5m2 => (fE5M2.decode code).bind (fun v => v.mul (Num.ofRat s))
  | .g8 => (fE5M2.decode code).bind (fun v => v.mul (Num.ofRat s))
  | .bf16 => fBF16.decode code
  | .fp16 => fFP16.decode code
  | .fp32 => fFP32.decode code
  | .w48 => fW48.decode code
  | .m40 => fM40.decode code

/-- The channel constant of a CONST block: value bytes 0 and 1 as BF16 (R256). -/
def channelConst (bytes : List Byte) : Except TrapKind Num := fBF16.decode (leAt bytes 0 2)

/-- Results of a list of checks in order. -/
def allOk {α β : Type} (f : α → Except TrapKind β) : List α → Except TrapKind (List β)
  | [] => .ok []
  | x :: xs => (f x).bind (fun y => (allOk f xs).map (fun ys => y :: ys))

/-- The element values of a block of which n elements lie within the extent (Table 5-3): those beyond it are +0 and are
not read (R501); ZERO decodes to +0 whatever the codes, CONST to the channel constant. DESIGN CHOICE (assumption 67): R256
names the readers FE, BW and the bench; VU and the others take a CONST block the same way. -/
def blockValuesAt (d : Desc) (zps : List Nat) (n : Nat) (b : RawBlock) : Except Nans (List Num) :=
  let held := fun (v : Nat → Num) => (List.range d.epb).map (fun i => if i < n then v i else Num.zero)
  (wholeAt 0 (decodeScale d.asym b.scale)).bind (fun sc =>
    match sc with
    | .zero => .ok (held (fun _ => Num.zero))
    | .const => (wholeAt 0 (channelConst b.bytes)).map (fun v => held (fun _ => v))
    | .val s => (blockCodes d.fmt b.bytes).bind (fun cs =>
        allAt (fun i c => if i < n then elemValue d.fmt d.signed s (zps.getD i 0) c else .ok Num.zero) 0 cs))

/-- All element values of a block. -/
def blockValues (d : Desc) (zps : List Nat) (b : RawBlock) : Except Nans (List Num) := blockValuesAt d zps d.epb b

/-- Zero points of the channels of blocks jb .. jb + n - 1 (R113, R152); none for a signed or other tensor. -/
def readZps (c : Ctx) (d : Desc) (jb n : Nat) : Op (List Nat) :=
  if d.asym then do
    let bs ← readSpace c d (d.abase + ofs0 c d + 32 * jb) (min (32 * n) (d.e0 + 1 - 32 * jb))
    pure (bs.map BitVec.toNat)
  else pure []

/-! ### Crumb groups (R288 to R292) -/

/-- Malformed crumb data acts as uncorrectable data, KIND 0x2 (R292, Table 18-2). -/
def malformed {α : Type} (c : Ctx) (d : Desc) (a : Nat) : Op α := do
  let s ← Op.get
  match locate (s.part c.p).mem a with
  | .frame id ofs => Op.stop (.mem 2 (placeCode id) (if d.space then 0 else a / 32 * 32) (chanCode id ofs))
  | _ => Op.stop (.mem 2 0 a 0xFFFF)

/-- Code width in bits of a format's crumbs. -/
def crumbWidth (f : Fmt) : Nat := if f = .a4 then 4 else 8

/-- Bits lo .. lo + w - 1 of a byte string read from bit 0 of its first byte upward. -/
def bitsAt (bs : List Byte) (lo w : Nat) : Nat := leNat bs / 2 ^ lo % 2 ^ w

/-- Restore a stored code of w bits to the format's own width in the tensor's signedness. -/
def widen (f : Fmt) (signed : Bool) (w v : Nat) : Nat :=
  let full := crumbWidth f
  if signed then ((signedOf w v) % (2 ^ full : Nat)).toNat else v

/-- Decode the payload of one block (Table 11-6): its codes and the bytes used; none when it runs past the end. -/
def crumbPayload (d : Desc) (nulls : List Nat) (scale header : Nat) (bytes : List Byte) (avail : Nat) :
    Option (List Byte × Nat) :=
  let full := crumbWidth d.fmt
  let w := header % 16
  if scale = scZero then
    if header ≠ 0 then none else some (blockBytesOf d.fmt ((List.range 32).map (fun i => nulls.getD i 0)), 0)
  else if scale = scConst ∧ d.asym then
    if header ≠ 0 ∨ avail < 2 then none
    else some (slice bytes 0 2 ++ List.replicate (d.fmt.blockBytes - 2) 0#8, 2)
  else if full < w ∨ 32 ≤ header then none
  else if header / 16 % 2 = 0 then
    if avail < 4 * w then none else
    some (blockBytesOf d.fmt ((List.range 32).map (fun i =>
      if w = 0 then 0 else widen d.fmt d.signed w (bitsAt (bytes.take (4 * w)) (w * i) w))), 4 * w)
  else
    if avail < 4 then none else
    let mask := leAt bytes 0 4
    let n := ((List.range 32).filter (fun i => mask.testBit i)).length
    let size := 4 + (n * w + 7) / 8
    if avail < size then none else
    let body := (bytes.take size).drop 4
    let code := fun i => if mask.testBit i then
        widen d.fmt d.signed w (bitsAt body (w * ((List.range i).filter (fun k => mask.testBit k)).length) w)
      else nulls.getD i 0
    some (blockBytesOf d.fmt ((List.range 32).map code), size)

/-- Decode the eight blocks of a compressed group after its header. -/
def crumbBlocks (d : Desc) (nulls : List Nat) : List Nat → List Nat → Nat → List Byte → Nat → Option (List RawBlock)
  | [], _, _, _, _ => some []
  | sc :: scs, hs, k, bytes, avail =>
    match crumbPayload d (nulls.drop (32 * k)) sc (hs.headD 0) bytes avail with
    | none => none
    | some (b, used) =>
      (crumbBlocks d nulls scs hs.tail (k + 1) (bytes.drop used) (avail - used)).map
        (fun rest => { bytes := b, scale := sc } :: rest)

/-- Recall one crumb group of a row: its 8 blocks and the value bytes read (R289 to R292). -/
def recallGroup (c : Ctx) (d : Desc) (jb : Nat) (r : Nat × Nat × Nat) : Op (List RawBlock × Nat) := do
  let B := d.fmt.blockBytes
  let w ← readSpace c d (scaleAddr c d jb r) 16
  let words := (List.range 8).map (fun k => leAt w (2 * k) 2)
  let crumb := ((List.range 8).map (fun k => words.getD k 0 / 0x8000 * 2 ^ k)).sum
  let scales := words.map (fun x => x % 0x8000)
  let zps ← readZps c d jb 8
  let nulls := (List.range 256).map (fun i => if d.asym then zps.getD i 0 else 0)
  let a := valueAddr c d jb r
  if crumb = 0 then do
    let v ← readSpace c d a (8 * B)
    pure ((List.range 8).map (fun k =>
      { bytes := if scales.getD k 0 = scZero then blockBytesOf d.fmt ((List.range 32).map (fun i => nulls.getD (32 * k + i) 0))
          else slice v (B * k) B, scale := scales.getD k 0 }), 8 * B)
  else if crumb = 0x80 then
    if scales.any (fun x => decide (x ≠ 0)) then malformed c d a else
    pure ((List.range 8).map (fun k =>
      RawBlock.mk (blockBytesOf d.fmt ((List.range 32).map (fun i => nulls.getD (32 * k + i) 0))) 0), 0)
  else if crumb % 16 = 0 ∨ 8 ≤ crumb % 16 ∨ crumb / 16 ≠ 8 ∨ 8 * B < 32 * (crumb % 16) then malformed c d a
  else do
    let size := 32 * (crumb % 16)
    let v ← readSpace c d a size
    match crumbBlocks d nulls scales ((v.take 8).map BitVec.toNat) 0 (v.drop 8) (size - 8) with
    | some bs => pure (bs, size)
    | none => malformed c d a

/-- The smallest width that holds every code (R290). -/
def crumbNeed (d : Desc) (codes : List Nat) : Nat :=
  let full := crumbWidth d.fmt
  let fits := fun w => codes.all (fun c =>
    if d.signed then
      (if w = 0 then decide (c = 0) else
        decide (-(2 ^ (w - 1) : Int) ≤ signedOf full c) && decide (signedOf full c < 2 ^ (w - 1)))
    else decide (c < 2 ^ w))
  ((List.range (full + 1)).find? fits).getD full

/-- Pack codes of w bits from bit 0 upward into whole bytes. -/
def packBits (w : Nat) (codes : List Nat) : List Byte :=
  leBytes ((w * codes.length + 7) / 8) (codes.foldr (fun c acc => c % 2 ^ w + 2 ^ w * acc) 0)

/-- Header and payload of one block as the encoder writes them (R290, R291). -/
def crumbEncode (d : Desc) (nulls : List Nat) (b : RawBlock) : Nat × List Byte :=
  if b.scale = scZero then (0, [])
  else if b.scale = scConst ∧ d.asym then (0, b.bytes.take 2)
  else
    let codes := match blockCodes d.fmt b.bytes with
      | .ok cs => cs
      | .error _ => []
    let live := (List.range 32).filter (fun i => decide (codes.getD i 0 ≠ nulls.getD i 0))
    let w := crumbNeed d codes
    let kept := live.map (fun i => codes.getD i 0)
    let wm := crumbNeed d kept
    if 4 + (live.length * wm + 7) / 8 < 4 * w then
      (16 + wm, leBytes 4 ((live.map (fun i => 2 ^ i)).sum) ++ packBits wm kept)
    else (w, packBits w codes)

/-- Counts of the crumb writer of a core (Table 11-10). -/
def countCrumb (s : State) (nn raw packed : Nat) (isRaw : Bool) : State :=
  let s := bumpCore s 8 nn 0x408 0x400 0 raw
  let s := bumpCore s 8 nn 0x410 0x400 1 packed
  if isRaw then bumpCore s 8 nn 0x420 0x400 3 1 else s

/-- Write one crumb group (R291): only the granules it fills and the scale words; the value bytes written. -/
def writeGroup (c : Ctx) (d : Desc) (jb : Nat) (r : Nat × Nat × Nat) (bs : List RawBlock) : Op Nat := do
  let B := d.fmt.blockBytes
  let zps ← readZps c d jb 8
  let nulls := (List.range 256).map (fun i => if d.asym then zps.getD i 0 else 0)
  let enc := bs.zipIdx.map (fun e => crumbEncode d (nulls.drop (32 * e.2)) e.1)
  let z := 8 + (enc.map (fun e => e.2.length)).sum
  let grans := (z + 31) / 32
  let empty := bs.all (fun b => decide (b.scale = scZero))
  let raw := !empty && decide (8 * B ≤ 32 * grans)
  let crumb := if empty then 0x80 else if raw then 0 else 0x80 + grans
  let bytes := if empty then [] else if raw then (bs.map RawBlock.bytes).flatten
    else enc.map (fun e => BitVec.ofNat 8 e.1) ++ (enc.map (fun e => e.2)).flatten ++
      List.replicate (32 * grans - z) 0#8
  if bytes ≠ [] then writeSpace c d (valueAddr c d jb r) bytes
  writeSpace c d (scaleAddr c d jb r)
    (bs.zipIdx.map (fun e => leBytes 2 (e.1.scale % 0x8000 + (if crumb.testBit e.2 then 0x8000 else 0)))).flatten
  Op.mod (fun s => countCrumb s c.nn (8 * B) bytes.length raw)
  pure bytes.length

/-- Blocks of a row through a descriptor, recalling crumb groups where CRUMB = 1 (`jb` and `n` are then multiples
of 8) and counting the bytes the recall reads. -/
def recallBlocks (c : Ctx) (d : Desc) (jb n : Nat) (r : Nat × Nat × Nat) : Op (List RawBlock) :=
  if d.crumb then do
    let gs ← Op.map (List.range ((n + 7) / 8)) (fun g => do
      let (bs, size) ← recallGroup c d (jb + 8 * g) r
      Op.mod (fun s => bumpCore s 8 c.nn 0x418 0x400 2 size)
      pure bs)
    pure (gs.flatten.take n)
  else readHeld c d jb n r

/-- Values of elements 0 .. 32·n - 1 from block `jb` of a row: blocks beyond the slice's extent, and elements beyond it
inside a block, are +0 (R501). -/
def readValues (c : Ctx) (d : Desc) (jb n : Nat) (r : Nat × Nat × Nat) : Op (List Num) := do
  let held := min n (d.blocks - jb)
  let bs ← recallBlocks c d jb held r
  let zps ← readZps c d jb held
  let vs ← Op.nanAt 0 (together (bs.zipIdx.map (fun e => fromPlace (d.epb * e.2)
    (blockValuesAt d (zps.drop (32 * e.2)) (d.e0 + 1 - d.epb * (jb + e.2)) e.1))))
  let flat := vs.flatten
  pure ((List.range (d.epb * n)).map (fun i =>
    if d.epb * jb + i ≤ d.e0 then flat.getD i Num.zero else Num.zero))

/-! ### Encoding -/

/-- The scale as a rational; ZERO and CONST do not encode elements. -/
def scaleRat (code : Nat) : Rat := (fBF16.value code).rat

/-- Encode one element into a block format at scale s (R120 to R125). -/
def encodeElem (f : Fmt) (signed : Bool) (m : Rounding) (s : Rat) (zp : Nat) (x : Num) : Except TrapKind Enc :=
  let q := x.rat / s
  let int := fun (lo hi : Int) (full : Nat) =>
    if x.isInf then .error TrapKind.infNarrow else
    let r := encodeIntRange lo hi m q
    .ok (⟨(r.1 % (2 ^ full : Nat)).toNat, r.2⟩ : Enc)
  let act := fun (full : Nat) =>
    if signed then int (-(2 ^ (full - 1) : Int)) (2 ^ (full - 1) - 1) full
    else if x.isInf then .error TrapKind.infNarrow else
      let k : Int := match m with
        | .towardZero => roundInt .towardZero q + zp
        | m => roundInt m (q + (zp : Rat))
      .ok (if (2 ^ full - 1 : Int) < k then ⟨2 ^ full - 1, true⟩ else if k < 0 then ⟨0, true⟩ else ⟨k.toNat, false⟩)
  let quot : Num := match x with
    | .inf n => .inf n
    | .fin _ nz => .fin q nz
  match f with
  | .a8 => act 8
  | .a4 => act 4
  | .int8 => int (-128) 127 8
  | .q8 => int (-128) 127 8
  | .e4m3 => fE4M3.encodeSat m quot
  | .e5m2 => fE5M2.encodeSat m quot
  | .g8 => fE5M2.encodeSat m quot
  | .l8 => encodeL8 m s x
  | .w1 => if x.isInf then .error .infNarrow else .ok (encodeW1 m q)
  | .wt => if x.isInf then .error .infNarrow else .ok (encodeWT m q)
  | .w2 => if x.isInf then .error .infNarrow else .ok (encodeW2 m q)
  | .bf16 => .ok ⟨fBF16.encodeWide m x, false⟩
  | .fp16 => .ok ⟨fFP16.encodeWide m x, false⟩
  | .fp32 => .ok ⟨fFP32.encodeWide m x, false⟩
  | .w48 => .ok ⟨fW48.encodeWide m x, false⟩
  | .m40 => .ok ⟨fM40.encodeWide m x, false⟩

/-- A code decodes to zero at a finite positive scale. -/
def codeIsZero (f : Fmt) (signed : Bool) (zp : Nat) (code : Nat) : Bool :=
  match elemValue f signed 1 zp code with
  | .ok v => v.isZero
  | .error _ => false

/-- Rounding of a ROUND field without a draw (Table 3-7). -/
def roundMode (r : Nat) : Rounding := if r = 1 then .towardZero else .nearestEven

/-- What the encoding of one block reports (R123, R124). -/
structure BlockOut where
  raw : RawBlock
  sat : Nat
  under : Bool
  deriving DecidableEq, Repr

/-- Encode the values of a block at scale `sc`: `mode` gives each element's rounding, `n` the elements within the
extent. Rule 1 of R211 and R124 write ZERO in place of `sc`. -/
def encodeBlock (d : Desc) (mode : Nat → Rounding) (sc : Nat) (zps : List Nat) (n : Nat) (xs : List Num) :
    Except Nans BlockOut :=
  let live := xs.take n
  if d.scaled && live.all Num.isZero then
    .ok { raw := { bytes := List.replicate d.fmt.blockBytes 0#8, scale := scZero }, sat := 0, under := false }
  else
    (allAt (fun i x => if i < n then encodeElem d.fmt d.signed (mode i) (scaleRat sc) (zps.getD i 0) x
        else .ok (⟨0, false⟩ : Enc)) 0 xs).map (fun es =>
      let codes := es.map Enc.code
      let under := d.scaled && ((codes.take n).zipIdx.all (fun e => codeIsZero d.fmt d.signed (zps.getD e.2 0) e.1))
      { raw := { bytes := blockBytesOf d.fmt codes, scale := if under then scZero else sc },
        sat := (es.filter Enc.sat).length, under := under })

/-- The largest finite magnitude of a block, 0 when there is none. -/
def maxMag (xs : List Num) : Rat :=
  xs.foldl (fun a x => if x.isInf then a else max a (ratAbs x.rat)) 0

/-- Block scale chosen without a slot (Table 8-4): a is the largest finite magnitude. -/
def tableScale (f : Fmt) (a : Rat) : Nat :=
  if a = 0 then scOne else
  match f with
  | .a8 => bf16Ceil (a / 127)
  | .a4 => bf16Ceil (a / 7)
  | .e4m3 => pow2Code (floorLog2 a - 7)
  | _ => pow2Code (floorLog2 a - 14)

/-! ### Checks of descriptors (R71, R108, R276 to R282) -/

/-- The role a command gives a descriptor. -/
inductive Role where
  | source                     -- read, ROW only
  | weights                    -- a weight operand, ROW or IL32
  | loadSrc                    -- LOAD source
  | dest                       -- written, ROW only
  | loadDst                    -- LOAD destination
  | storeDst                   -- STORE destination
  | copyDst                    -- the forward copy of UPD
  | xdesc                      -- saved input of BDW
  | crust                      -- CDESC, of which the crust record is read
  deriving DecidableEq, Repr

/-- The role is written to. -/
def Role.writes : Role → Bool
  | .dest => true | .loadDst => true | .storeDst => true | .copyDst => true | _ => false

/-- Largest index of each dimension over the cores of the partition's rectangle (R75). -/
def Desc.maxIdx (d : Desc) (w h : Nat) (dim e : Nat) : Nat := d.coreOfs (w - 1) (h - 1) dim + e

/-- The layout code fits the role and the format (Table 11-2, R280). -/
def layoutOk (d : Desc) (role : Role) : Bool :=
  match d.layout with
  | 0 => true
  | 1 => role = .storeDst
  | 2 => (role = .weights || role = .loadSrc || role = .loadDst || role = .copyDst) && d.fmt.narrow
  | _ => false

/-- BAD_DESC checks that hold for every descriptor a command names in a role: VALID, reserved bits, base alignment is
left to RANGE, scale array (R108), strides and capacity (R276, R281), destination strides (R277), core offsets (R278),
rounding (R121) and CRUMB (R288). `w` × `h` is the partition's rectangle. -/
def descOk (w h : Nat) (role : Role) (d : Desc) : Bool :=
  let top := d.maxIdx w h 0 d.e0 / d.epb
  let unit := if d.crumb then 256 else d.epb
  let ofsOk := fun (dim cs n : Nat) =>
    n ≤ 1 || ((dim ≠ 0 || cs % unit = 0) && (d.layout ≠ 2 || dim ≠ 1 || cs % 32 = 0))
  d.valid && decide (d.reserved = 0) && decide (d.s1 ≠ 0) && layoutOk d role &&
  (!d.fmt.alwaysScaled || decide (d.sbase ≠ 0)) &&
  (if d.layout = 2 then decide ((d.e1 + 1) % 32 = 0) && decide (32 * (top + 1) ≤ d.cap d.s1)
   else decide (top < d.cap d.s1)) &&
  ofsOk d.cdx d.csx w && ofsOk d.cdy d.csy h &&
  (!role.writes || ((d.s2 ≠ 0 || d.e2 = 0) && (d.s3 ≠ 0 || d.e3 = 0) && decide (d.round ≠ 3) &&
    (decide (d.round ≠ 2) || d.fmt.stochOk))) &&
  (!d.crumb || (d.fmt.isAct && decide (d.layout = 0) && !d.space && decide ((d.e0 + 1) % 256 = 0) &&
    (role = .storeDst || role = .loadSrc || role = .loadDst || role = .xdesc)))

/-- Last byte + 1 of the value array over every core and every place of the step ring, from VBASE (R74). -/
def Desc.valueEnd (d : Desc) (w h : Nat) : Nat :=
  d.vbase + d.sring * d.vstep * 64 + d.valueOfs (d.maxIdx w h 0 d.e0 / d.epb) (d.maxIdx w h 1 d.e1)
    (d.maxIdx w h 2 d.e2) (d.maxIdx w h 3 d.e3) + d.fmt.blockBytes

/-- Last byte + 1 of the scale array likewise. -/
def Desc.scaleEnd (d : Desc) (w h : Nat) : Nat :=
  d.sbase + d.sring * d.ssstep * 64 + d.scaleOfs (d.maxIdx w h 0 d.e0 / d.epb) (d.maxIdx w h 1 d.e1)
    (d.maxIdx w h 2 d.e2) (d.maxIdx w h 3 d.e3) + 2

/-- Bytes a .. b - 1 of the descriptor's space lie in range (RANGE of Table 3-1). -/
def spanOk (m : PartMem) (d : Desc) (a b : Nat) : Bool :=
  if d.space then decide (b ≤ storeBytes) else inRange m a (b - a)

/-- RANGE checks of a descriptor: aligned bases, and its whole region in range at every core and step (R71, R74). -/
def rangeOk (m : PartMem) (w h : Nat) (d : Desc) : Bool :=
  decide (d.vbase % 64 = 0) && spanOk m d d.vbase (d.valueEnd w h) &&
  (!d.scaled || (decide (d.sbase % 64 = 0) && spanOk m d d.sbase (d.scaleEnd w h))) &&
  (!d.asym || (decide (d.abase % 64 = 0) && spanOk m d d.abase (d.abase + d.maxIdx w h 0 d.e0 + 1)))

end Sys2Proof.Machine
end

