-- ==== Sys2Proof/Machine/Streams.lean ====
section
/-! DEFINITION. How a sequencer takes, checks, holds, issues and completes a command (R52 to R66, R76 to R83): one shared
operation `issue` that every stream command's meaning calls with its own checks and its own effect. -/

namespace Sys2Proof.Machine

/-! ### The table of opcodes -/

/-- The opcodes of Table 3-5 with the streams that take them: F, B, U. -/
def opcodeTable : List (Nat × Bool × Bool × Bool) :=
  [(0x01, true, true, true), (0x02, true, true, true), (0x03, true, true, true), (0x04, true, true, true),
   (0x05, true, true, true), (0x06, true, true, true), (0x10, true, true, true), (0x11, false, true, false),
   (0x12, false, true, false), (0x20, true, false, false), (0x21, true, false, false), (0x22, false, true, false),
   (0x23, false, true, false), (0x24, true, true, false), (0x30, true, true, true), (0x31, true, true, false),
   (0x40, false, false, true), (0x41, true, true, true), (0x42, true, true, true), (0x43, false, false, true),
   (0x50, true, true, true), (0x51, true, true, true), (0x52, true, true, true)]

/-- The opcode stands in Table 3-5. -/
def opcodeKnown (op : Nat) : Bool := opcodeTable.any (fun e => e.1 = op)

/-- The stream takes the opcode (Table 3-5). -/
def opcodeAllowed (op : Nat) (t : StreamTag) : Bool :=
  opcodeTable.any (fun e => e.1 = op && (match t with
    | .F => e.2.1
    | .B => e.2.2.1
    | .U => e.2.2.2))

/-- Operand bits that Table 3-6 lists for an opcode, as (hi, lo) fields. -/
def operandFields (op : Nat) : List (Nat × Nat) :=
  match op with
  | 0x01 => [(127, 126), (95, 64)]
  | 0x02 => [(31, 0)]
  | 0x03 => [(127, 104), (95, 64)]
  | 0x05 => [(111, 32)]
  | 0x10 => [(127, 116), (111, 48)]
  | 0x11 => [(127, 116), (111, 48)]
  | 0x12 => [(127, 116), (111, 48)]
  | 0x20 => [(127, 116), (111, 72)]
  | 0x21 => [(127, 116), (111, 44)]
  | 0x22 => [(127, 116), (111, 36)]
  | 0x23 => [(127, 116), (111, 16)]
  | 0x24 => [(127, 116), (111, 18), (15, 0)]
  | 0x30 => [(127, 116), (111, 0)]
  | 0x31 => [(127, 116), (111, 86), (79, 24)]
  | 0x40 => [(127, 116), (111, 16)]
  | 0x41 => [(111, 48)]
  | 0x42 => [(111, 30)]
  | 0x43 => [(111, 64)]
  | 0x50 => [(127, 80)]
  | 0x51 => [(127, 120), (111, 64)]
  | 0x52 => [(127, 120), (111, 64)]
  | _ => []

/-- Opcode flags that Table 3-6 lists. -/
def operandFlags (op : Nat) : List Nat :=
  match op with
  | 0x03 => [0]
  | 0x04 => [0]
  | 0x05 => [0]
  | 0x12 => [1]
  | 0x21 => [0, 1]
  | 0x22 => [1]
  | 0x23 => [1]
  | 0x24 => [0, 1, 2]
  | 0x40 => [0]
  | _ => []

/-- Bits of the operands that no field of the opcode covers are 0, and so are the flags it does not list and the
reserved flags (BAD_FIELD of Table 3-1). -/
def reservedOk (g : Granule) : Bool :=
  let op := cOpcode g
  ((List.range 128).all (fun i => !flag g i || (operandFields op).any (fun f => decide (f.2 ≤ i) && decide (i ≤ f.1)))) &&
  ((List.range 4).all (fun i => !cOF g i || (operandFlags op).contains i)) && !flag g 244 && !flag g 245

/-- VOP functions of Table 9-1. -/
def vopFuncs : List Nat :=
  [0x01, 0x02, 0x03, 0x04, 0x05, 0x06, 0x07, 0x08, 0x10, 0x11, 0x20, 0x21, 0x22, 0x23, 0x30, 0x31, 0x32, 0x3F]

/-- FUNC of a VOP. -/
def vFunc (g : Granule) : Nat := field g 63 56

/-- Opcodes that act on cores and carry a target rectangle (R64). -/
def onCores (op : Nat) : Bool := decide (0x10 ≤ op) && decide (op ≤ 0x31)

/-! ### Rungs (R262 to R265) -/

/-- The layer-table entry that a command's LAYER names for one of the opcodes of R63. -/
def laddered (x : Part) (g : Granule) : Option Nat :=
  if [0x20, 0x21, 0x22, 0x23, 0x24, 0x31, 0x10].contains (cOpcode g) && decide (cLayer g < x.layerTable.length)
  then some (cLayer g) else none

/-- State of layer L. -/
def layerGet (x : Part) (l : Nat) : Layer := Sparse.get Layer.zero x.layers l

/-- The rung in force for a command of stream t (R265). -/
def rungOf (x : Part) (t : StreamTag) (g : Granule) : Nat :=
  match laddered x g with
  | none => 0
  | some l =>
    let y := layerGet x l
    if x.sF.state = .done ∨ (x.stream t).step ≥ x.sF.step then y.rungCur else y.rungPrev

/-- The command is one of layer L's at rung 3. -/
def atRung3 (x : Part) (t : StreamTag) (g : Granule) : Bool := (laddered x g).isSome && decide (rungOf x t g = 3)

/-- A command one step ahead of the F-stream waits for its rung (R265). -/
def rungHeld (x : Part) (t : StreamTag) (g : Granule) : Bool :=
  (laddered x g).isSome && decide (x.sF.state ≠ .done) && decide (x.sF.step < (x.stream t).step)

/-! ### Descriptors (R70, R73) -/

/-- A cache of 256 entries (R73) with a new one: a full cache gives up the lowest-numbered entry that no command in flight
and not the command at hand names (assumption 69). -/
def cachePut (m : Sparse (BitVec 512)) (keep : List Nat) (i : Nat) (w : BitVec 512) : Sparse (BitVec 512) :=
  let out := if 256 ≤ m.length ∧ Sparse.get 0#512 m i = 0#512 then m.find? (fun e => !keep.contains e.1) else none
  Sparse.set 0#512 (match out with
    | some e => Sparse.set 0#512 m e.1 0#512
    | none => m) i w

/-- Set an entry of a stream's descriptor cache. -/
def setDesc (s : State) (p : Fin 16) (t : StreamTag) (keep : List Nat) (i : Nat) (bs : List Byte) : State :=
  let put := fun (q : Stream) => cachePut q.descCache (keep ++ q.flight.flatMap Flight.named) i (BitVec.ofNat 512 (leNat bs))
  s.modStream p t (fun q => { q with descCache := put q })

/-- Owner of a stream's descriptor cache among the SRAM arrays. -/
def descOwner (p : Fin 16) (t : StreamTag) : Nat := 3 * p.val + tagCode t

/-- Read an entry of the descriptor table into the stream's cache, if it is not there (R73); one that is there is decoded
as the cache's SRAM holds it (R319). -/
def fetchDesc (p : Fin 16) (t : StreamTag) (keep : List Nat) (i : Nat) : Op Unit := do
  let s ← Op.get
  let w := Sparse.get 0#512 (s.stream p t).descCache i
  if (s.part p).desc ≤ i then pure ()
  else if w = 0#512 then do
    let bs ← readMem .compute p (64 * i) 64
    Op.mod (fun s => clearArray (setDesc s p t keep i (raced s p t 0 (64 * i) bs)) arrDesc (descOwner p t) (2 * i) 2)
  else do
    let bs ← readArray arrDesc (descOwner p t) (2 * i) (leBytes 64 w.toNat)
    Op.mod (fun s => setDesc s p t keep i bs)

/-- The descriptor of an index as the stream's cache holds it; not VALID when it is not there. -/
def rawDesc (s : State) (p : Fin 16) (t : StreamTag) (i : Nat) : Desc :=
  Desc.ofBits (if i < (s.part p).desc then Sparse.get 0#512 (s.stream p t).descCache i else 0#512)

/-- The starting format of a layer (R262). -/
def startFmt (e : LayerEntry) : Fmt := if e.startA8 then .a8 else .a4

/-- The descriptor as the sequencer reads it: a laddered one takes the rung's format (R263); at rung 3 it is BF16 without
scales and without crumbs (Table 10-4, R288). -/
def descOf (s : State) (p : Fin 16) (t : StreamTag) (g : Granule) (i : Nat) : Desc :=
  let d := rawDesc s p t i
  let x := s.part p
  match laddered x g with
  | none => d
  | some l =>
    match x.layerTable[l]? with
    | none => d
    | some e =>
      if d.slotEn && decide (d.fmt = startFmt e) then
        match rungOf x t g with
        | 0 => { d with fmt := .a4 }
        | 3 => { d with fmt := .bf16, sbase := 0, crumb := false }
        | _ => { d with fmt := .a8 }
      else d

/-- The slot lies in the partition's run (SLOT_RANGE). -/
def slotInRun (x : Part) (n : Nat) : Bool :=
  decide (x.slotBase * 256 ≤ n) && decide (n < (x.slotBase + x.slotCount + 1) * 256)

/-! ### What a stream command is -/

/-- What the effect of a command leaves: its stops, and what it still waits for. -/
structure Effect where
  state : State
  traps : List Trap
  wait : FlightWait

/-- A row of the table that a sequencer carries out. -/
structure StreamCmd where
  matches_ : Granule → Bool                                        -- the head is this command
  reads : Granule → List Nat                                        -- descriptors it names and reads
  writes : Granule → List Nat                                       -- descriptors it names and writes
  also : State → Fin 16 → Granule → List Nat := fun _ _ _ => []     -- a descriptor it reads without naming it
  check : State → Fin 16 → StreamTag → Granule → List Nat           -- refusal codes of its own checks that fail
  hold : State → Fin 16 → StreamTag → Granule → Bool                -- waits before issue beyond R56
  atIssue : State → Fin 16 → StreamTag → Granule → Bool             -- completes at issue (Table 3-5)
  predict : State → Fin 16 → StreamTag → Granule → State := fun s _ _ _ => s   -- what later checks will find (R67, R69)
  blocked : State → Fin 16 → StreamTag → Granule → Nat → Bool := fun _ _ _ _ _ => false
                                                                    -- an earlier flight holds it back (R76)
  run : State → Fin 16 → StreamTag → Granule → Nat → Effect         -- the effect; the number is its flight number

/-! ### Fetch and head of stream -/

/-- The descriptors a command names. -/
def StreamCmd.descs (c : StreamCmd) (s : State) (p : Fin 16) (g : Granule) : List Nat :=
  c.reads g ++ c.writes g ++ c.also s p g

/-- The state as an effect with nothing more to wait for. -/
def Effect.done (s : State) : Effect := { state := s, traps := [], wait := .none }

/-- Fetch the command at the stream's PC and let it arrive at the head: a value the object holds now satisfies its
wait (R54, R94). An uncorrectable granule stops the stream with cause 0x1 (R55). -/
def arrive (s : State) (p : Fin 16) (t : StreamTag) : State :=
  let q := s.stream p t
  if q.state ≠ .running then s else
  match Op.exec (readMem .compute p q.pc 32) s with
  | (.ok bs, s) =>
    let g : Granule := BitVec.ofNat 256 (leNat (raced s p t 0 q.pc bs))
    let met := condHolds (cWaitCond g) (soGet s (cWaitSo g)).value (cWaitValue g)
    s.modStream p t (fun q => { q with head := some g, waitMet := met })
  | (.error e, s) =>
    match e.stop with
    | .refused _ => s.modStream p t (fun q => { q with head := none, waitMet := false })
    | _ => trapCommand (s.modStream p t (fun q => { q with head := none })) p t 0#256 q.pc [{ e with unit := 0xA }]

/-- Refuse the head command (R59): the stream reads REFUSED with the code, and the partition freezes. -/
def refuse (s : State) (p : Fin 16) (t : StreamTag) (g : Granule) (code : Nat) : State :=
  let q := s.stream p t
  let s := s.setStream p t { q with state := .refused, refuse := code }
  freeze s p { cmdFault q t g q.pc with cause := 3, kind := 3, unit := 0xA, refuse := code }

/-! ### Checks common to every command (Table 3-1) -/

/-- AMSEL of a BMAT or STORE. -/
def amsel (g : Granule) : Nat := if cOpcode g = 0x24 then field g 43 42 else field g 111 110

/-- The command carries AMSEL. -/
def hasAmsel (g : Granule) : Bool := cOpcode g = 0x24 || cOpcode g = 0x31

/-- A serial command that must not meet a command which waits for its pair (Tables 6-6, 7-7). -/
def pairBad (x : Part) (t : StreamTag) (g : Granule) : Bool :=
  let op := cOpcode g
  (cSerial g || op = 0x04 || op = 0x05 || op = 0x06) &&
    ((t = .F && x.crustWait.isSome) || (t = .B && x.directWait.isSome))

/-- Codes of the checks that come before any descriptor: BAD_STREAM, BAD_FIELD and BAD_TARGET. -/
def earlyChecks (x : Part) (t : StreamTag) (g : Granule) : List Nat :=
  let op := cOpcode g
  let amBad := hasAmsel g && ((amsel g = 0 && t = .B) || (amsel g = 1 && t = .F))
  let fieldBad := !reservedOk g || decide (3 < cWaitCond g) || decide (2 < cSigOp g) ||
    (hasAmsel g && decide (1 < amsel g))
  (if !opcodeAllowed op t || amBad then [2] else []) ++ (if fieldBad then [3] else []) ++
  (if onCores op && !targetOk x g then [4] else [])

/-- Codes of the further checks every command takes: BAD_DESC of the indices, SO_RANGE, SLOT_RANGE, and the pairings that
a serial command must not meet. -/
def commonChecks (s : State) (p : Fin 16) (t : StreamTag) (g : Granule) (descs : List Nat) : List Nat :=
  let x := s.part p
  let soBad := (decide (cWaitCond g ≠ 0) && !soInRun x (cWaitSo g)) || (decide (cSigOp g ≠ 0) && !soInRun x (cSigSo g))
  let descBad := descs.any (fun i => decide (x.desc ≤ i) || !(rawDesc s p t i).valid)
  let slotBad := descs.any (fun i => (rawDesc s p t i).slotEn && !slotInRun x (rawDesc s p t i).slot)
  (if descBad then [5] else []) ++ (if soBad then [7] else []) ++
  (if slotBad then [8] else []) ++ (if pairBad x t g then [9] else [])

/-- The first code in Table 3-1's order. -/
def firstCode : List Nat → Option Nat
  | [] => none
  | c :: cs => some (cs.foldl min c)

/-! ### Holds (R56, R79) -/

/-- Commands issued and not completed. -/
def inflight (q : Stream) : Nat := (q.flight.filter (fun f => !f.done)).length

/-- Lowest step counter among the streams not yet at END. -/
def lowestStep (x : Part) : Option Nat :=
  ([x.sF, x.sB, x.sU].filter (fun q => decide (q.state ≠ .done))).foldl
    (fun a q => some (match a with
      | none => q.step
      | some v => min v q.step)) none

/-- A STEP that would put its stream more than 1 above the lowest counter waits (R79). -/
def stepHeld (x : Part) (t : StreamTag) (g : Granule) : Bool :=
  cOpcode g = 0x05 && (match lowestStep x with
    | none => false
    | some v => decide (v + 1 < (x.stream t).step + 1))

/-- SERIAL, FENCE, STEP and END wait for every earlier command (R56). -/
def serialHeld (q : Stream) (g : Granule) : Bool :=
  (cSerial g || cOpcode g = 0x04 || cOpcode g = 0x05 || cOpcode g = 0x06) && decide (0 < inflight q)

/-- The table a command names by TABLE, when it names one (R209, R223). -/
def namedTable (g : Granule) : Option Nat :=
  if cOpcode g = 0x31 then (if flag g 87 then some (field g 47 40) else none)
  else if cOpcode g = 0x30 ∧ [0x10, 0x11, 0x30, 0x3F].contains (vFunc g) then some (field g 55 48)
  else none

/-- A TBLLOAD of the same table is in flight in the stream (R231). -/
def tableHeld (q : Stream) (g : Granule) : Bool :=
  match namedTable g with
  | none => false
  | some k => q.flight.any (fun f => !f.done && cOpcode f.word = 0x30 && vFunc f.word = 0x3F && field f.word 55 48 = k)

/-- The head command's wait does not hold yet; a reserved condition is no wait but refused (Table 3-1). -/
def waitPending (q : Stream) (g : Granule) : Bool := !q.waitMet && decide (cWaitCond g ≤ 3)

/-- The head command is held: it does not issue yet. -/
def held (x : Part) (t : StreamTag) (g : Granule) : Bool :=
  let q := x.stream t
  stepHeld x t g || serialHeld q g || decide (32 ≤ inflight q) || rungHeld x t g || tableHeld q g

/-! ### Region slots (R338, R341) -/

/-- A code when a condition fails. -/
def failIf (code : Nat) (bad : Bool) : List Nat := if bad then [code] else []

/-- The bases that a descriptor uses (R71): an auxiliary base where it is not 0. -/
def usedBases (d : Desc) : List Nat :=
  d.vbase :: (if d.scaled then [d.sbase] else []) ++ (if d.abase ≠ 0 then [d.abase] else [])

/-- The region slots that a descriptor's bases lie in; none for tiered space and the core store. -/
def slotsNamed (d : Desc) : List Nat :=
  if d.space then [] else
  ((usedBases d).filter (fun a => decide (regionBase ≤ a))).map (fun a => (a - regionBase) / regionBytes)

/-- R341 and R338: all bases of a region descriptor lie in one slot, and the slot's state accepts the access; a PUB that has
issued closes its slot to writes (R342). -/
def regionChecks (x : Part) (write : Bool) (d : Desc) : List Nat :=
  let ns := slotsNamed d
  let st := fun i => (Sparse.get Region.free x.mem.regions i).state
  let pub := (x.sU.flight.filter (fun f => cOpcode f.word = 0x43 && !f.done)).flatMap Flight.writes
  let mixed := decide (ns ≠ []) && (ns.any (fun i => decide (i ≠ ns.headD 0)) || decide (ns.length ≠ (usedBases d).length))
  failIf 6 (mixed || ns.any (fun i =>
    if write then !(st i = .free || st i = .opened) || pub.contains i else !(st i = .opened || st i = .published)))

/-- Take or end references of a command. -/
def modRefs (f : PartMem → Nat → PartMem) (s : State) (p : Fin 16) (slots : List Nat) : State :=
  s.modPart p (fun x => { x with mem := slots.foldl f x.mem })

/-! ### Signals in issue order (R62) -/

/-- The signal operation of a command, if it carries one. -/
def sigOf (g : Granule) : Option SigOp := if cSigOp g = 1 then some .add else if cSigOp g = 2 then some .set else none

/-- Split the flights into those that stay and the signals to apply now: a completed command's signal waits for every
earlier command of the stream that carries one. -/
def popFlights : Bool → List Flight → List Flight × List Flight
  | _, [] => ([], [])
  | blocked, f :: fs =>
    let signals := (sigOf f.word).isSome && !f.mute
    if f.done then
      if !signals then popFlights blocked fs
      else if blocked then
        let r := popFlights blocked fs
        (f :: r.1, r.2)
      else
        let r := popFlights blocked fs
        (r.1, f :: r.2)
    else
      let r := popFlights (blocked || signals) fs
      (f :: r.1, r.2)

/-- Apply the signal of a completed command. -/
def applyFlight (s : State) (f : Flight) : State :=
  match sigOf f.word with
  | some op => applySignal s (cSigSo f.word) op (cSigAmount f.word)
  | none => s

/-- Apply the signals that may be applied, and drop what is finished. -/
def settleSignals (s : State) (p : Fin 16) (t : StreamTag) : State :=
  let r := popFlights false (s.stream p t).flight
  r.2.foldl applyFlight (s.modStream p t (fun q => { q with flight := r.1 }))

/-! ### Issue -/

/-- Data of an ISSUE or COMPLETE record (Table 19-6): PC, then commands in flight. -/
def traceData (q : Stream) (pc : Nat) : Nat := pc + 2 ^ 48 * inflight q

/-- The stream after a command has issued: PC, counts and last labels (R56, R85). -/
def advance (q : Stream) (g : Granule) : Stream :=
  { q with pc := q.pc + 32, issued := (q.issued + 1) % wrap48, layer := cLayer g, oper := cOper g, head := none,
           waitMet := false, lastPc := q.pc, lastOp := cOpcode g }

/-- A wait of R336 or R339 begins: a page exchange's wait is counted, for a free number of cycles; a FREE slot opens, and
FRAME_WAIT sets. -/
def noteWait (p : Fin 16) (s : State) (e : Trap) : State :=
  match e.stop with
  | .waits none =>
    let s := bump s (0xA0001020 + 0x40 * p.val) none (Config.waitCycles s.freeCount)
    { s with freeCount := s.freeCount + 1 }
  | .waits (some a) => (postBit s 0xA0000004 0).modPart p (fun x => { x with mem := openSlot x.mem a })
  | _ => s

/-- The stop is a wait of R336, R339 or R436. -/
def Trap.waits (e : Trap) : Bool := match e.stop with
  | .waits _ => true
  | .shed => true
  | _ => false

/-- Carry out a command that no earlier flight holds back; one that meets a page in exchange, or no zeroed frame, has not
begun, and waits (R336, R339). -/
def StreamCmd.attempt (c : StreamCmd) (s : State) (p : Fin 16) (t : StreamTag) (g : Granule) (n : Nat) : Effect :=
  let e := c.run (freshRows s) p t g n
  if e.traps.any Trap.waits then { state := e.traps.foldl (noteWait p) s, traps := [], wait := .behind } else e

/-- A core takes no command: its row is shed, or it still sleeps from that (R436). -/
def coreAway (s : State) (nn : Nat) : Bool := isShed s nn || ((domGet s nn).retain && !domOn s nn)

/-- The cores of an engine command's rectangle that take none. -/
def awayCores (s : State) (p : Fin 16) (g : Granule) : List Nat :=
  if 0x10 ≤ cOpcode g ∧ cOpcode g < 0x40 then
    ((targetCores (s.part p) g).map (fun c => c.1)).filter (coreAway s)
  else []

/-- A command begins, or waits: at the wrapper of a core that is shed, which it demands (R436), or behind an earlier flight
on the same engine or rows (R76). -/
def StreamCmd.begin_ (c : StreamCmd) (s : State) (p : Fin 16) (t : StreamTag) (g : Granule) (n : Nat) : Effect :=
  match awayCores s p g with
  | [] => if c.blocked s p t g n then { state := s, traps := [], wait := .behind } else c.attempt s p t g n
  | ds => { state := demandAll s ds, traps := [], wait := .behind }

/-- The ranges that a command's effect has written (R84). -/
def wroteOf (e : Effect) : List (Nat × Nat × Nat) :=
  if e.wait = .behind then [] else e.state.rowRuns.map (fun r => (r.1, r.2.1, r.2.2.length))

/-- The function table of a command: as it stood at its issue (R231). -/
def tableAt (s : State) (p : Fin 16) (t : StreamTag) (g : Granule) (n : Nat) : Option FuncTable :=
  match (s.stream p t).flight.find? (fun f => f.seq = n) with
  | some f => f.table
  | none => (namedTable g).bind (fun k => Sparse.get none (s.part p).tables k)

/-- The region slots behind some of a command's descriptors. -/
def issueSlots (s : State) (p : Fin 16) (t : StreamTag) (g : Granule) (is : List Nat) : List Nat :=
  (is.flatMap (fun i => slotsNamed (descOf s p t g i))).dedup

/-- The region slots on which a command takes references (R341). -/
def issueReads (c : StreamCmd) (s : State) (p : Fin 16) (t : StreamTag) (g : Granule) : List Nat :=
  issueSlots s p t g (c.reads g ++ c.also s p g)

/-- An event of a command, counted at every core of its partition. -/
def countCores (s : State) (p : Fin 16) (t : StreamTag) (g : Granule) (code n : Nat) : State :=
  (partCores (s.part p)).foldl (fun s nn => countEvent s p t (cLayer g) code nn n) s

/-- WAIT_SO: the core cycles that a command with a wait condition was held, a free number (R469). -/
def countWait (s : State) (p : Fin 16) (t : StreamTag) (g : Granule) : State :=
  if cWaitCond g = 0 then s else
    countCores { s with freeCount := s.freeCount + 1 } p t g 0x04 (Config.waitCycles s.freeCount)

/-- The engine that holds a command: FE, BD, BW, BU or VU (R481). -/
def busyEngine (op : Nat) : Option Nat :=
  match op with
  | 0x20 => some 0 | 0x21 => some 0
  | 0x11 => some 1 | 0x22 => some 1
  | 0x12 => some 2 | 0x23 => some 2
  | 0x24 => some 3
  | 0x30 => some 4
  | _ => none

/-- The busy count of a command's engine rises by the core cycles for which it holds the command, a free number (R481). -/
def countBusy (s : State) (p : Fin 16) (g : Granule) : State :=
  match busyEngine (cOpcode g) with
  | some i =>
    bump { s with freeCount := s.freeCount + 1 } (0xF0004008 + 0x100 * p.val + 8 * i) none (Config.waitCycles s.freeCount)
  | none => s

/-- The state in which the effect of a command starts: the stream has advanced, the issue is counted and traced, and the
command's references are taken. -/
def issueHead (c : StreamCmd) (s : State) (p : Fin 16) (t : StreamTag) (g : Granule) : State :=
  let q := s.stream p t
  let reads := issueReads c s p t g
  let n := (s.part p).nextSeq
  let s := (s.setStream p t (advance q g)).modPart p (fun x => { x with nextSeq := n + 1 })
  let s := countBusy (countWait (countCores s p t g 0x03 1) p t g) p g
  let s := if cTrace g then putTrace s p { cmdTrace q t g with kind := 1, data := traceData q q.pc } else s
  modRefs addRef s p reads

/-- The command in flight after its effect; `s` is the state before its issue. -/
def issuedFlight (c : StreamCmd) (s : State) (p : Fin 16) (t : StreamTag) (g : Granule) (e : Effect) : Flight :=
  { word := g, pc := (s.stream p t).pc, seq := (s.part p).nextSeq, wait := e.wait, done := c.atIssue s p t g,
    mute := (e.state.stream p t).mute, reads := issueReads c s p t g, writes := issueSlots s p t g (c.writes g),
    named := c.descs s p g, wrote := wroteOf e, table := (namedTable g).bind (fun k => Sparse.get none (s.part p).tables k) }

/-- After the effect: the command is in flight until it completes, and the next command arrives; a command that traps never
completes and signals nothing (R128, R449), and its references stay (R344). -/
def issueEnd (c : StreamCmd) (s : State) (p : Fin 16) (t : StreamTag) (g : Granule) (e : Effect) : State :=
  let q := s.stream p t
  match e.traps with
  | [] =>
    let f := issuedFlight c s p t g e
    let s := e.state.modStream p t (fun q => { q with flight := q.flight ++ [f] })
    let s := if f.done && cTrace g then
        putTrace s p { cmdTrace q t g with kind := 2, data := traceData (s.stream p t) q.pc } else s
    arrive (settleSignals s p t) p t
  | es => trapCommand e.state p t g q.pc es

/-- Issue the head command: advance the stream, carry out the effect or let it wait its turn, keep the command in flight
until it completes, and let the next command arrive. -/
def issueNow (c : StreamCmd) (s : State) (p : Fin 16) (t : StreamTag) (g : Granule) : State :=
  issueEnd c s p t g (c.begin_ (c.predict (issueHead c s p t g) p t g) p t g (s.part p).nextSeq)

/-- The sequencer of stream t may issue (R52, R449, R450). -/
def canIssue (s : State) (p : Fin 16) (t : StreamTag) : Bool :=
  let x := s.part p
  (x.state = .running || x.state = .stopping) && !x.draining && !x.halted && (x.stream t).state = .running

/-- The head command, whose wait holds and which no earlier command holds: its descriptors are fetched, it is checked in
the order of Table 3-1 (R58), and issues. -/
def checkHead (c : StreamCmd) (p : Fin 16) (t : StreamTag) (g : Granule) (s : State) : State :=
  match firstCode (earlyChecks (s.part p) t g) with
  | some code => refuse s p t g code
  | none =>
    match Op.exec (Op.each (c.descs s p g) (fetchDesc p t (c.descs s p g))) s with
    | (.error e, s) => trapCommand s p t g (s.stream p t).pc [{ e with unit := 0xA }]
    | (.ok _, s) =>
      let x := s.part p
      let region := (c.reads g ++ c.also s p g).flatMap (fun i => regionChecks x false (descOf s p t g i)) ++
        (c.writes g).flatMap (fun i => regionChecks x true (descOf s p t g i))
      match firstCode (commonChecks s p t g (c.descs s p g) ++ region ++ c.check s p t g) with
      | some code => refuse s p t g code
      | none => if c.hold s p t g then s else issueNow c s p t g

/-- Carry out a stream row: the command at the head of the stream, if it is this one, is held, checked or issued. A command
is checked once its wait and the other conditions of R56 hold; one that no wait can end (Tables 6-6, 7-7) at once. -/
def issue (c : StreamCmd) (p : Fin 16) (t : StreamTag) (s : State) : State :=
  if canIssue s p t then
    match (s.stream p t).head with
    | none => refuse s p t 0#256 6
    | some g =>
      if waitPending (s.stream p t) g then s
      else if !opcodeKnown (cOpcode g) then refuse s p t g 1
      else if cOpcode g = 0x30 && !vopFuncs.contains (vFunc g) then refuse s p t g 3
      else if !c.matches_ g then s
      else if held (s.part p) t g && !pairBad (s.part p) t g then s
      else checkHead c p t g s
  else s

/-! ### Completion (R57) -/

/-- A flight completes: it is marked, traced, and its signal joins the order of R62. -/
def completeFlight (s : State) (p : Fin 16) (t : StreamTag) (n : Nat) : State :=
  let q := s.stream p t
  match q.flight.find? (fun f => f.seq = n) with
  | none => s
  | some f =>
    let s := s.modStream p t (fun q => { q with flight := q.flight.map (fun f =>
      if f.seq = n then { f with done := true } else f) })
    let s := if cTrace f.word then
        putTrace s p { cmdTrace q t f.word with kind := 2, data := traceData (s.stream p t) f.pc } else s
    settleSignals (modRefs dropRef s p f.reads) p t

/-- Change what the flight of number n waits for. -/
def setWait (s : State) (p : Fin 16) (t : StreamTag) (n : Nat) (w : FlightWait) : State :=
  s.modStream p t (fun q => { q with flight := q.flight.map (fun f => if f.seq = n then { f with wait := w } else f) })

/-- Remove a flight that ended without completing (R42, R449); its references stay (R344). -/
def endFlight (s : State) (p : Fin 16) (t : StreamTag) (n : Nat) : State :=
  settleSignals (s.modStream p t (fun q => { q with flight := q.flight.filter (fun f => f.seq ≠ n) })) p t

/-- No command issued after flight n signals (R449). -/
def muteAfter (s : State) (p : Fin 16) (t : StreamTag) (n : Nat) : State :=
  s.modStream p t (fun q => { q with mute := true, flight := q.flight.map (fun f =>
    if n < f.seq then { f with mute := true } else f) })

/-! ### Commands that can begin only when an earlier one completes (R449) -/

/-- A flight that has not acted yet. -/
def Flight.waiting (f : Flight) : Bool := match f.wait with
  | .behind => true
  | .push _ => true
  | _ => false

/-- The AM rows that a command writes or reads: the memory, the first and the last row; of a BDX all of AM 1. -/
def amSpan (g : Granule) : Option (Nat × Nat × Nat) :=
  match cOpcode g with
  | 0x21 => some (0, field g 63 54, field g 63 54 + field g 53 44)
  | 0x22 => some (1, 0, 1023)
  | 0x24 => if cOF g 2 then none else some (field g 43 42, field g 63 54, field g 63 54 + field g 53 44)
  | 0x31 => some (field g 111 110, field g 109 100, field g 109 100 + field g 99 90)
  | _ => none

/-- Two commands meet on some AM rows. -/
def rowsMeet (a b : Granule) : Bool :=
  match amSpan a, amSpan b with
  | some x, some y => x.1 = y.1 && decide (x.2.1 ≤ y.2.2) && decide (y.2.1 ≤ x.2.2)
  | _, _ => false

/-- The chest tiles that a BDW or CFLUSH names. -/
def chestTiles (g : Granule) : List Nat :=
  match cOpcode g with
  | 0x23 => (List.range (field g 43 40 + 1)).map (fun i => field g 47 44 + i)
  | 0x12 => (List.range 16).filter (fun i => (field g 63 48).testBit i)
  | _ => []

/-- The target rectangles of two commands meet (R64). -/
def rectMeet (a b : Granule) : Bool :=
  decide (cTX a < cTX b + cTW b) && decide (cTX b < cTX a + cTW a) && decide (cTY a < cTY b + cTH b) &&
  decide (cTY b < cTY a + cTH a)

/-- Command b can begin only when command a, which stands in front of it in its stream, has completed: an FMAT after its
TLOAD, a BDX after its XPOSE, a command on the same AM rows or chest tiles, a crust BMAT after the FMAT it serves, a remote
SIG after a SEND on its connection (R100), a UPD of the same group. -/
def needs (a b : Granule) : Bool :=
  let x := cOpcode a
  let y := cOpcode b
  (rectMeet a b && ((x = 0x20 && y = 0x21) || (x = 0x11 && y = 0x22) || rowsMeet a b ||
    (chestTiles a).any (chestTiles b).contains)) ||
  (x = 0x21 && y = 0x24 && cOF a 0 && cOF b 2) ||
  (x = 0x51 && y = 0x03 && cOF b 0 && decide (field a 127 120 = field b 127 120)) ||
  (x = 0x40 && y = 0x40 && decide (field a 127 116 = field b 127 116))

/-- The flights that can begin only after one of the ended commands end in their turn (R449). -/
def endDependents (p : Fin 16) (t : StreamTag) : List Granule → List Flight → State → State
  | _, [], s => s
  | gone, f :: fs, s =>
    if f.waiting && gone.any (fun a => needs a f.word) then
      endDependents p t (f.word :: gone) fs (endFlight s p t f.seq)
    else endDependents p t gone fs s

/-- A flight ends without completing, and so do those that need it. -/
def dropFlight (s : State) (p : Fin 16) (t : StreamTag) (f : Flight) : State :=
  endDependents p t [f.word] ((s.stream p t).flight.filter (fun e => decide (f.seq < e.seq))) (endFlight s p t f.seq)

/-- A flight meets its own stop: it leaves the stream's flights, and the stops are recorded (R449). -/
def trapFlight (s : State) (p : Fin 16) (t : StreamTag) (f : Flight) (es : List Trap) : State :=
  match es with
  | [] => setWait s p t f.seq .none
  | es => trapCommand (dropFlight (muteAfter s p t f.seq) p t f) p t f.word f.pc es

/-- Run a part of a command on every core of its rectangle: each core runs to its end or its own stop (R449). -/
def onTargets (cores : List (Nat × Nat × Nat)) (f : Nat × Nat × Nat → Op Unit) (s : State) : State × List Trap :=
  cores.foldl (fun acc c =>
    match Op.exec (Op.at 0 c.1 [0, 0, 0, 0] (f c)) acc.1 with
    | (.ok _, s) => (s, acc.2)
    | (.error e, s) => (s, acc.2 ++ [{ e with core := c.1 }])) (freshRows s, [])

/-- The context of a core of a command (R64, R72). -/
def ctxOf (s : State) (p : Fin 16) (t : StreamTag) (c : Nat × Nat × Nat) : Ctx :=
  { p := p, nn := c.1, cx := c.2.1, cy := c.2.2, step := (s.stream p t).step, side := .core c.1, t := t }

/-- Rectangle of the partition. -/
def partW (x : Part) : Nat := shapeW x.shape
def partH (x : Part) : Nat := shapeH x.shape

/-- BAD_DESC and RANGE of a descriptor in a role. -/
def descChecks (s : State) (p : Fin 16) (role : Role) (d : Desc) : List Nat :=
  let x := s.part p
  (if descOk (partW x) (partH x) role d then [] else [5]) ++ (if rangeOk x.mem (partW x) (partH x) d then [] else [6])

end Sys2Proof.Machine
end

