-- ==== Sys2Proof/Machine/Scales.lean ====
section
/-! DEFINITION. Scale slots, crust lists, the fall-back ladder and the leaven draws (10_scales_fallback). -/

namespace Sys2Proof.Machine

/-! ### Slots -/

def slotGet (s : State) (n : Nat) : Slot := Sparse.get Slot.reset s.slots n
def slotSet (s : State) (n : Nat) (x : Slot) : State := { s with slots := Sparse.set Slot.reset s.slots n x }
def slotMod (s : State) (n : Nat) (f : Slot → Slot) : State := slotSet s n (f (slotGet s n))

/-! Fields of QS_SLOT_CFG (Table 10-14). -/
def Slot.family (x : Slot) : Nat := field x.cfg 31 30
def Slot.streamOf (x : Slot) : Nat := field x.cfg 29 28
def Slot.hist (x : Slot) : Nat := field x.cfg 27 24 + 1
def Slot.margin (x : Slot) : Nat := field x.cfg 23 22
def Slot.pin (x : Slot) : Bool := flag x.cfg 21
def Slot.ctabEn (x : Slot) : Bool := flag x.cfg 20
def Slot.colsel (x : Slot) : Bool := flag x.cfg 19
def Slot.crustN (x : Slot) : Nat := field x.cfg 18 12
def Slot.layerEn (x : Slot) : Bool := flag x.cfg 11
def Slot.layer (x : Slot) : Nat := field x.cfg 10 1
/-- Channel table: its address and its channels (Table 10-10). -/
def Slot.ctabAddr (x : Slot) : Nat := field x.ctabLo 31 6 * 64 + field x.ctabHi 15 0 * 2 ^ 32
def Slot.ctabLen (x : Slot) : Nat := field x.ctabHi 31 16 + 1
/-- The crust list, ascending; always empty with CTAB_EN = 0 (R247). -/
def Slot.crust (x : Slot) : List Nat := if x.ctabEn then (List.range x.listn).map (fun i => Sparse.get 0 x.list i) else []

/-- A slot with a list of channels. -/
def Slot.withList (x : Slot) (l : List Nat) : Slot :=
  { x with listn := l.length, list := Sparse.setRun 0 [] 0 l }

/-- The layer a slot follows (R248, item 3). -/
def followed (y : Part) (x : Slot) : Option Nat :=
  if x.layerEn && decide (x.layer < y.layerTable.length) then some x.layer else none

/-- Formats of a slot's family, BF16 by the ladder only (Table 10-2). -/
def familyOk (x : Slot) (raw d : Desc) : Bool :=
  let act := raw.fmt.isAct && (d.fmt.isAct || decide (d.fmt = .bf16))
  match x.family with
  | 0 => act && d.signed
  | 1 => act && !d.signed
  | 2 => decide (d.fmt = .e4m3) && decide (d.sbase ≠ 0)
  | _ => decide (d.fmt = .e5m2) && decide (d.sbase ≠ 0)

/-- BAD_DESC of R245, R259 and R261 for a destination that names a slot. -/
def slotDescOk (s : State) (t : StreamTag) (raw d : Desc) : Bool :=
  let x := slotGet s raw.slot
  familyOk x raw d && decide (x.streamOf = tagCode t) &&
  (!x.ctabEn || decide (d.e0 < x.ctabLen)) && (x.crust.isEmpty || decide (d.abase ≠ 0))

/-! ### The tracker -/

/-- Q of a family's column (Table 10-2); columns: false A, true B. -/
def familyQ (fam : Nat) (col : Bool) : Nat :=
  match fam with
  | 0 => if col then 127 else 7
  | 1 => if col then 255 else 15
  | 2 => 448
  | _ => 57344

/-- The required scale of an element as an FP32 code; none when it is excluded, or when the family does not use the
column (R246, Table 10-2). -/
def required (fam : Nat) (col : Bool) (z : Nat) (x : Num) : Option Nat :=
  let q := familyQ fam col
  if x.isInf || (decide (2 ≤ fam) && !col) then none
  else if fam = 1 then
    if x.isZero then some 0
    else if x.isNeg then (if 0 < z then some (fFP32.encodeWide .nearestEven (Num.ofRat (-x.rat / z))) else none)
    else if z < q then some (fFP32.encodeWide .nearestEven (Num.ofRat (x.rat / ((q - z : Nat) : Rat)))) else none
  else some (fFP32.encodeWide .nearestEven (Num.ofRat (ratAbs x.rat / (q : Rat))))

/-- Largest required scale of some elements with their zero points, from a start code. -/
def requiredMax (fam : Nat) (col : Bool) (start : Nat) (xs : List (Num × Nat)) : Nat :=
  xs.foldl (fun a e => match required fam col e.2 e.1 with
    | some r => max a r
    | none => a) start

/-- What a block encoded under a slot reports (R215, R255). -/
structure BlockReport where
  elems : List (Num × Nat)     -- elements the tracker sees with their zero points; none of a constant block
  sat : Nat
  full : Bool
  under : Bool
  const : Bool
  deriving DecidableEq, Repr

/-- Merge a block's report into its slot (R247, R255, R257): counts saturate; without a channel table the statistic
takes the largest required scale. -/
def reportBlock (s : State) (nn n : Nat) (r : BlockReport) : State :=
  let s := slotMod s n (fun x =>
    { x with sat := satAdd32 x.sat r.sat, fullsat := satAdd32 x.fullsat (if r.full then 1 else 0),
             under := satAdd32 x.under (if r.under then 1 else 0), constb := satAdd32 x.constb (if r.const then 1 else 0),
             statA := if x.ctabEn then x.statA else requiredMax x.family false x.statA r.elems,
             statB := if x.ctabEn then x.statB else requiredMax x.family true x.statB r.elems })
  bump s (0x68000008 + nn * 0x100) none 1

/-- Count a slotted F-stream STORE's saturation for its layer (R257, R266). -/
def reportLayer (s : State) (p : Fin 16) (l sat full : Nat) : State :=
  s.modPart p (fun x => { x with layers := Sparse.modify Layer.zero x.layers l (fun y =>
    { y with sat := satAdd32 y.sat sat, fullsat := satAdd32 y.fullsat full }) })

/-- FP32 codes compared as numbers: a below b. -/
def fp32Lt (a b : Nat) : Bool := (fFP32.value a).lt (fFP32.value b)

/-- Merge the values of a channel into its entry of the channel table: minimum and maximum (R259). -/
def mergeChannel (p : Fin 16) (addr : Nat) (vs : List Num) : Op Unit :=
  match vs.filter (fun v => !v.isInf) with
  | [] => pure ()
  | fin => do
    let e ← readMem .compute p addr 8
    let codes := fin.map (fFP32.encodeWide .nearestEven)
    let lo := codes.foldl (fun a c => if fp32Lt c a then c else a) (leAt e 0 4)
    let hi := codes.foldl (fun a c => if fp32Lt a c then c else a) (leAt e 4 4)
    writeMem .compute p addr (leBytes 4 lo ++ leBytes 4 hi)

/-! ### Commit of a slot (R248) -/

/-- The rung of layer L at a stream's step (R265). -/
def rungAt (y : Part) (l step : Nat) : Nat :=
  let z := layerGet y l
  if y.sF.state = .done ∨ y.sF.step ≤ step then z.rungCur else z.rungPrev

/-- The column the slot uses in the step to come: none at rung 3. -/
def slotColumn (y : Part) (x : Slot) (step : Nat) : Option Bool :=
  if 2 ≤ x.family then some true else
  match followed y x with
  | none => some x.colsel
  | some l => match rungAt y l step with
    | 0 => some false
    | 3 => none
    | _ => some true

/-- Width of the crust list for the step to come (R258). -/
def crustWidth (y : Part) (x : Slot) (step : Nat) : Nat :=
  if !x.ctabEn then 0 else
  match followed y x with
  | none => x.crustN
  | some l => match rungAt y l step with
    | 3 => 0
    | 2 => 64
    | _ => x.crustN

/-- Insert a channel by its required scale, largest first, ties to the lower channel (R260). -/
def rankInsert (e : Nat × Nat) : List (Nat × Nat) → List (Nat × Nat)
  | [] => [e]
  | f :: fs => if f.2 < e.2 then e :: f :: fs else f :: rankInsert e fs

/-- The channels with a required scale above zero, ranked. -/
def rankChannels (rs : List (Nat × Nat)) : List (Nat × Nat) :=
  (rs.filter (fun e => decide (0 < e.2))).foldl (fun acc e => rankInsert e acc) []

/-- Insert into an ascending list. -/
def ascInsert (n : Nat) : List Nat → List Nat
  | [] => [n]
  | m :: ms => if n < m then n :: m :: ms else m :: ascInsert n ms

/-- Push a statistic into a history of 16 entries as entry 0. -/
def pushHist (h : Sparse Nat) (v : Nat) : Sparse Nat :=
  Sparse.setRun 0 [] 0 ((v :: (List.range 15).map (fun i => Sparse.get 0 h i)))

/-- NEXT from the largest of the newest entries (R248, item 4). -/
def nextScale (x : Slot) (col : Option Bool) : Nat :=
  match col with
  | none => x.committed
  | some c =>
    let h := if c then x.histB else x.histA
    let a := (List.range x.hist).foldl (fun m i => max m (Sparse.get 0 h i)) 0
    if a = 0 then x.committed
    else
      match mulR fFP32 (fFP32.value a) (Num.ofInt (2 ^ x.margin)) with
      | .ok (.fin q _) => bf16Ceil q
      | _ => 0x7F7F

/-- The slot after its commit, given its statistics and its list for the step to come (R248, R250). -/
def Slot.commit (x : Slot) (col : Option Bool) (a b : Nat) (l : List Nat) : Slot :=
  let x := (x.withList l)
  let x := { x with histA := pushHist x.histA a, histB := pushHist x.histB b }
  let next := nextScale x col
  { x with next := next, committed := if x.pin then x.pinScale else next,
           pinHeld := if x.pin && decide (next ≠ x.pinScale) then satAdd32 x.pinHeld 1 else x.pinHeld,
           lastSat := x.sat, lastFullsat := x.fullsat, lastUnder := x.under, lastConstb := x.constb, sat := 0, fullsat := 0, under := 0, constb := 0,
           statA := 0, statB := 0, zps := [] }

/-- Commit slot k of partition p at the STEP of stream t; `step` is the step to come. -/
def commitSlot (p : Fin 16) (t : StreamTag) (step k : Nat) : Op Unit := do
  let s ← Op.get
  let x := slotGet s k
  let y := s.part p
  let col := slotColumn y x step
  let x' ← (if x.ctabEn then do
      let n := x.ctabLen
      let tab ← readMem .compute p x.ctabAddr (8 * n)
      let rs := fun (c : Bool) => (List.range n).map (fun i =>
        let z := Sparse.get 0 x.zps i
        (i, requiredMax x.family c 0 [(fFP32.value (leAt tab (8 * i) 4), z), (fFP32.value (leAt tab (8 * i + 4) 4), z)]))
      let ranked := match col with
        | none => []
        | some c => rankChannels (rs c)
      let list := ((ranked.take (crustWidth y x step)).map (fun e => e.1)).foldl (fun acc i => ascInsert i acc) []
      let best := fun (c : Bool) => (rs c).foldl (fun m e => if list.contains e.1 then m else max m e.2) 0
      writeMem .compute p x.ctabAddr (List.replicate (8 * n) 0#8)
      pure (x.commit col (best false) (best true) list)
    else pure (x.commit col x.statA x.statB []))
  Op.mod (fun s =>
    let s := slotSet s k x'
    if x.pin && decide (x'.next ≠ x.pinScale) then
      postEvent (postBit s (qsReg p 4) 2) p t 7 0xFF 0 0 k
    else s)

/-- The slots of the partition's run that commit at the STEP of stream t, ascending. -/
def slotsOf (s : State) (p : Fin 16) (t : StreamTag) : List Nat :=
  let x := s.part p
  ((List.range ((x.slotCount + 1) * 256)).map (fun i => x.slotBase * 256 + i)).filter
    (fun k => (slotGet s k).streamOf = tagCode t)

/-! ### Commit of the layers (R266 to R268) -/

/-- The layer triggered in the step (R266). -/
def layerTriggered (limit : Nat) (y : Layer) : Bool :=
  decide (0 < y.fullsat) || (decide (limit ≠ 0) && decide (limit ≤ y.sat))

/-- Outcomes of one layer's commit. -/
inductive Climb where
  | quiet | climbed | exhausted | held
  deriving DecidableEq, Repr

/-- One layer at the F-stream's STEP (R267). -/
def commitLayer (en : Bool) (limit ceil : Nat) (y : Layer) : Layer × Climb :=
  let trig := layerTriggered limit y
  let z := { y with rungPrev := y.rungCur, triggered := trig, sat := 0, fullsat := 0 }
  if !trig then (z, .quiet)
  else if y.rungCur < ceil then
    if en then ({ z with rungCur := y.rungCur + 1 }, .climbed) else (z, .held)
  else ({ z with exhausted := true }, .exhausted)

/-- Commit the layers in turn: their outcomes, lowest layer first. -/
def commitLayers (p : Fin 16) : List (LayerEntry × Nat) → State → State × List Climb
  | [], s => (s, [])
  | (e, l) :: rest, s =>
    let fb := rawReg s (qsReg p 8)
    let r := commitLayer (flag fb 31) (field fb 30 0) e.ceiling (layerGet (s.part p) l)
    let s := s.modPart p (fun x => { x with layers := Sparse.set Layer.zero x.layers l r.1 })
    let s := match r.2 with
      | .exhausted =>
        let s := postEvent (postBit s (qsReg p 4) 1) p .F 2 0xFF l 0 l
        setRaw s (qsReg p 0x30C) (BitVec.ofNat 32 l)
      | .held => setRaw s (qsReg p 0xC) (BitVec.ofNat 32 (satAdd32 (rawReg s (qsReg p 0xC)).toNat 1))
      | _ => s
    let r2 := commitLayers p rest s
    (r2.1, r.2 :: r2.2)

/-- The layer table's commit with GLOBAL_FALLBACK (R267, R268): CLIMBED of QS_PART_STATUS is kept beside it. -/
def commitRungs (s : State) (p : Fin 16) : State :=
  let r := commitLayers p (s.part p).layerTable.zipIdx s
  let climbed := (r.2.filter (fun c => decide (c = .climbed))).length
  let s := setRaw r.1 (qsReg p 0) (at32 9 climbed)
  if r.2.all (fun c => decide (c ≠ .quiet)) && decide (0 < climbed) then
    postEvent (postBit s (qsReg p 4) 0) p .F 3 0xFF 0 0 climbed
  else s

/-! ### Leaven draws (R269 to R271) -/

/-- The leaven key of a job seed (R269). -/
def leavenKey (seed : Nat) : List Byte := (sha384 (ascii "BIULONE-LEAVEN" ++ leBytes 8 seed)).take 16

/-- The block of Table 10-7. -/
def leavenBlock (layer oper purpose step group : Nat) : List Byte :=
  leBytes 16 (group + step * 2 ^ 56 + purpose * 2 ^ 88 + oper * 2 ^ 96 + layer * 2 ^ 112)

/-- The 24-bit draw of an element at position `pos` (R271). -/
def leavenDraw (seed layer oper purpose step pos : Nat) : Nat :=
  leNat (aes128 (leavenKey seed) (leavenBlock layer oper purpose step (pos / 4))) / 2 ^ (32 * (pos % 4) + 8) % 2 ^ 24

/-- The STEP field of a stream's draws (Table 10-7). -/
def leavenStep (s : State) (p : Fin 16) (step : Nat) : Nat := (step + (rawReg s (qsReg p 0x308)).toNat) % 2 ^ 32

/-- The draw a command takes for an element. -/
def drawOf (s : State) (c : Ctx) (g : Granule) (purpose pos : Nat) : Nat :=
  leavenDraw (s.part c.p).job.seed (cLayer g) (cOper g) purpose (leavenStep s c.p c.step) pos

/-- Rounding of element i of a block under ROUND: a stochastic one draws (R121, R122). -/
def roundAt (s : State) (c : Ctx) (g : Granule) (d : Desc) (purpose jb : Nat) (r : Nat × Nat × Nat) (i : Nat) : Rounding :=
  if d.round = 2 then .stoch (drawOf s c g purpose (position c d jb i r)) else roundMode d.round

/-- Count draws of a core's generator (Table 10-10). -/
def countDraws (s : State) (nn n : Nat) : State := bump s (0x68000000 + nn * 0x100) none n

end Sys2Proof.Machine
end

