-- ==== Sys2Proof/Machine/Control.lean ====
section
/-! DEFINITION. Control commands of the streams (R65, R78 to R83): MARK, WAIT, SIG, FENCE, STEP, END; the completion of a
command (R57, R62), the timers of R96 and R453, and the end of a drain (R449). -/

namespace Sys2Proof.Machine

/-- A control command: it names no descriptor and completes at issue. -/
def control (op : Nat) (check : State → Fin 16 → StreamTag → Granule → List Nat)
    (run : State → Fin 16 → StreamTag → Granule → State) : StreamCmd :=
  { matches_ := fun g => cOpcode g = op, reads := fun _ => [], writes := fun _ => [], check := check,
    hold := fun _ _ _ _ => false, atIssue := fun _ _ _ _ => true, run := fun s p t g _ => Effect.done (run s p t g) }

/-! ### MARK (R475) -/

def markKind (g : Granule) : Nat := field g 127 126
def markValue (g : Granule) : Nat := field g 95 64

/-- MARK: its record carries the marker in force before it; a begin resets the counters that ask for it (R470). -/
def markRun (s : State) (p : Fin 16) (t : StreamTag) (g : Granule) : State :=
  let q := s.stream p t
  let s := putTrace s p { cmdTrace q t g with kind := 3, data := markKind g + 2 ^ 32 * markValue g }
  let next := fun (m : Nat) => if markKind g = 1 then markValue g else if markKind g = 2 then 0 else m
  let s := s.modStream p t (fun q => { q with marker := next q.marker })
  if markKind g = 1 then beginMark s p t else s

def markCmd : StreamCmd := control 0x01 (fun _ _ _ g => failIf 3 (markKind g = 3)) markRun

/-- MARK. -/
def execMark (p : Fin 16) (t : StreamTag) (s : State) : Host.Outcome State Fault Refusal := .next (issue markCmd p t s)

/-! ### WAIT (R78) and FENCE (R78, R73) -/

def waitCmd : StreamCmd := control 0x02 (fun _ _ _ _ => []) (fun s _ _ _ => s)

/-- WAIT: it issues when its condition holds and does nothing else. -/
def execWait (p : Fin 16) (t : StreamTag) (s : State) : Host.Outcome State Fault Refusal := .next (issue waitCmd p t s)

/-- FENCE with DINV empties the stream's descriptor cache. -/
def fenceRun (s : State) (p : Fin 16) (t : StreamTag) (g : Granule) : State :=
  if cOF g 0 then s.modStream p t (fun q => { q with descCache := [] }) else s

def fenceCmd : StreamCmd := control 0x04 (fun _ _ _ _ => []) fenceRun

/-- FENCE. -/
def execFence (p : Fin 16) (t : StreamTag) (s : State) : Host.Outcome State Fault Refusal := .next (issue fenceCmd p t s)

/-! ### SIG (R97 to R100) -/

def sigConn (g : Granule) : Nat := field g 127 120
def sigRso (g : Granule) : Nat := field g 119 108
def sigRop (g : Granule) : Nat := field g 107 104
def sigRamount (g : Granule) : Nat := field g 95 64

/-- The endpoint of a partition's local connection number (R360). -/
def connEndpoint (x : Part) (n : Nat) : Option Endpoint :=
  (x.connMap[n]?).map (fun i => Endpoint.conn (Fin.ofNat 2048 i))

/-- The connection is reserved and open; a command on any other stops as refused with BAD_FIELD (R363). -/
def connOpen (s : State) (p : Fin 16) (n : Nat) : Bool :=
  match connEndpoint (s.part p) n with
  | some e => (linkGet s e).state = .opened
  | none => false

/-- The remote object lies in the run that the peer reported (R97). -/
def rsoInRun (s : State) (p : Fin 16) (n rso : Nat) : Bool :=
  match connEndpoint (s.part p) n with
  | some e =>
    let l := linkGet s e
    decide (l.peerSoBase * 64 ≤ rso) && decide (rso < (l.peerSoBase + l.peerSoCount + 1) * 64)
  | none => false

/-- Signals sent and not yet credited back: all 64 are outstanding (R97). -/
def sigCreditOut (s : State) (p : Fin 16) (n : Nat) : Bool :=
  match connEndpoint (s.part p) n with
  | some e => decide ((linkGet s e).sentSig = (linkGet s e).peerSlimit)
  | none => false

/-- Send the remote signal and remember who waits for its acknowledgement. -/
def sigRemote (s : State) (p : Fin 16) (t : StreamTag) (g : Granule) (n : Nat) : State :=
  match connEndpoint (s.part p) (sigConn g) with
  | none => s
  | some e =>
    let l := linkGet s e
    let ext := granule32 (leBytes 2 (sigRso g) ++ leBytes 1 (sigRop g) ++ leBytes 1 l.peerPart ++
      leBytes 4 (sigRamount g))
    let w : LinkWait := { stream := t, seq := n, tag := sigRso g, total := 0, got := 0, psn := l.psnTx, matched := true, cts := true }
    sendFrame (linkSet s e { l with sentSig := (l.sentSig + 1) % 2 ^ 16, sigs := l.sigs ++ [w] }) e 0x13
      (flFirst + flLast) (some ext) []

/-- The stop of a command whose connection is broken (R363, Table 18-2). -/
def brokenConn (s : State) (p : Fin 16) (n : Nat) : Trap :=
  let port := ((connEndpoint (s.part p) n).map (fun e => (linkGet s e).port)).getD 0
  { stop := .broken n (0x100 + port), unit := 0xC, core := 0xFF, tile := [n, 0, 0, 0], elem := 0 }

/-- A remote SIG waits to be sent: a SEND in front of it on its connection has still to send its data, an earlier SIG of the
connection waits, or all credits are out (R97, R100). -/
def sigBlocked (s : State) (p : Fin 16) (t : StreamTag) (g : Granule) (n : Nat) : Bool :=
  let x := s.part p
  let here := fun (f : Flight) => decide (f.seq < n) && !f.done && decide (sigConn f.word = sigConn g)
  cOF g 0 && (sigCreditOut s p (sigConn g) ||
    (x.stream t).flight.any (fun f => here f && cOpcode f.word = 0x51 && (f.wait = .sendCts || f.wait = .behind)) ||
    [x.sF, x.sB, x.sU].any (fun q => q.flight.any (fun f =>
      here f && cOpcode f.word = 0x03 && cOF f.word 0 && f.wait = .behind)))

def sigCmd : StreamCmd :=
  { matches_ := fun g => cOpcode g = 0x03, reads := fun _ => [], writes := fun _ => [],
    check := fun s p _ g => if cOF g 0 then
        failIf 3 (decide (2 < sigRop g) || !connOpen s p (sigConn g)) ++ failIf 7 (!rsoInRun s p (sigConn g) (sigRso g))
      else [],
    hold := fun s p _ g => cOF g 0 && sigCreditOut s p (sigConn g),
    atIssue := fun _ _ _ _ => false, blocked := sigBlocked,
    run := fun s p t g n =>
      if !cOF g 0 then Effect.done s
      else if connOpen s p (sigConn g) then { state := sigRemote s p t g n, traps := [], wait := .sigAck }
      else { state := s, traps := [brokenConn s p (sigConn g)], wait := .none } }

/-- SIG. -/
def execSig (p : Fin 16) (t : StreamTag) (s : State) : Host.Outcome State Fault Refusal := .next (issue sigCmd p t s)

/-! ### STEP (R79 to R82) -/

def stepLoop (g : Granule) : Nat := field g 111 64
def stepCount (g : Granule) : Nat := field g 63 32

/-- The loop decision of R81. -/
def loopDecision (q : Stream) (g : Granule) (pc : Nat) : Stream :=
  if cOF g 0 then
    match q.loop.getD (stepCount g) with
    | 0 => { q with loop := none }
    | n + 1 => { q with loop := some n, loopAt := pc, pc := stepLoop g }
  else q

/-- A looping STEP that the body of another loop reaches, and a misaligned loop address. DESIGN CHOICE (assumption 71): LOOP
and COUNT of a STEP without LOOPEN are not used, and are not checked. -/
def stepCheck (s : State) (p : Fin 16) (t : StreamTag) (g : Granule) : List Nat :=
  let q := s.stream p t
  if cOF g 0 then
    failIf 3 (q.loop.isSome && decide (q.loopAt ≠ q.pc)) ++ failIf 6 (decide (stepLoop g % 32 ≠ 0))
  else []

/-- The stream stops at the boundary that a STOP fixed (R82). -/
def boundaryStop (x : Part) (t : StreamTag) : Part :=
  let q := x.stream t
  match x.stopTarget with
  | some target => if q.step = target ∧ q.state = .running then x.setStream t { q with state := .stopped } else x
  | none => x

/-- STEP: the counter, the rungs and slots, the loop decision; its signal follows (R80). -/
def stepRun (s : State) (p : Fin 16) (t : StreamTag) (g : Granule) : Effect :=
  let q := s.stream p t
  let n := (q.step + 1) % 2 ^ 32
  let s := s.modStream p t (fun q => { q with step := n })
  let s := if t = .F then commitRungs (s.modPart p (fun x => { x with infSeen := false })) p else s
  let r := Op.exec (Op.each (slotsOf s p t) (commitSlot p t n)) s
  match r.1 with
  | .error e => { state := r.2, traps := [{ e with unit := 0xA }], wait := .none }
  | .ok _ =>
    Effect.done ((r.2.modStream p t (fun q => loopDecision q g (q.pc - 32))).modPart p (fun x => boundaryStop x t))

def stepCmd : StreamCmd :=
  { matches_ := fun g => cOpcode g = 0x05, reads := fun _ => [], writes := fun _ => [], check := stepCheck,
    hold := fun _ _ _ _ => false, atIssue := fun _ _ _ _ => true, run := fun s p t g _ => stepRun s p t g }

/-- STEP. -/
def execStep (p : Fin 16) (t : StreamTag) (s : State) : Host.Outcome State Fault Refusal := .next (issue stepCmd p t s)

/-! ### END (R83) -/

/-- The stream reads DONE. -/
def endRun (s : State) (p : Fin 16) (t : StreamTag) (_g : Granule) : State :=
  s.modStream p t (fun q => { q with state := .done })

def endCmd : StreamCmd := control 0x06 (fun _ _ _ _ => []) endRun

/-- All three streams read DONE. -/
def allDone (x : Part) : Bool := x.sF.state = .done && x.sB.state = .done && x.sU.state = .done

/-- COMPLETE when all three streams read DONE (R83, Table 2-7); a STOP being carried out is answered (R41). -/
def completePart (s : State) (p : Fin 16) : State :=
  let x := s.part p
  if (x.state = .running || x.state = .stopping) && allDone x then
    answerStop (s.setPart p { x with state := .complete, stopTarget := none }) p
  else s

/-- END. -/
def execEndStream (p : Fin 16) (t : StreamTag) (s : State) : Host.Outcome State Fault Refusal :=
  .next (completePart (issue endCmd p t s) p)

/-! ### Completion and timers -/

/-- The flight may complete now: nothing holds it, and its partition still runs (R57, R450). -/
def canComplete (x : Part) (f : Flight) : Bool :=
  (x.state = .running || x.state = .stopping || x.state = .scrubbing) && !f.done && (match f.wait with
    | .none => true
    | .table _ _ => true
    | .update _ _ => true
    | _ => false)

/-- A TBLLOAD puts its table in the store as it completes (R231). -/
def installTable (s : State) (p : Fin 16) (f : Flight) : State :=
  match f.wait with
  | .table k tbl => (clearArray s arrTable p.val (50 * k) 50).modPart p (fun x =>
      { x with tables := Sparse.set none x.tables k (some tbl) })
  | _ => s

/-- The head is a WAIT with a TIMEOUT that is not met. -/
def timedWait (q : Stream) : Option Granule :=
  match q.head with
  | some g => if cOpcode g = 0x02 ∧ field g 31 0 ≠ 0 ∧ q.waitMet = false then some g else none
  | none => none

/-- A stream of a running or stopping partition whose timers run: not STOPPED, not DONE (R453). -/
def timersRun (x : Part) (t : StreamTag) : Bool :=
  (x.state = .running || x.state = .stopping) && (x.stream t).state ≠ .stopped && (x.stream t).state ≠ .done

/-- WAIT_TIMEOUT, unless a STOP HALT has stopped the stream: the stream reads FAULTED, its wait fault is recorded, and the partition freezes (R96). -/
def execWaitTimeout (p : Fin 16) (t : StreamTag) (s : State) : Host.Outcome State Fault Refusal :=
  let q := s.stream p t
  match timedWait q with
  | some g =>
    if timersRun (s.part p) t && !(s.part p).halted && q.state = .running then
      let s := s.setStream p t { q with state := .faulted, waitFault := at32 28 1 ||| BitVec.ofNat 32 (cWaitSo g) }
      .next (freeze s p { cmdFault q t g q.pc with cause := 3, kind := 2, unit := 0xA,
                                                   tile := [cWaitSo g, 0, 0, 0] })
    else .next s
  | none => .next s

/-- PROGRESS_WATCHDOG_EXPIRY: the stream reads FAULTED and the partition freezes (R453). -/
def execProgressWatchdogExpiry (p : Fin 16) (t : StreamTag) (s : State) : Host.Outcome State Fault Refusal :=
  let q := s.stream p t
  if timersRun (s.part p) t then
    let s := s.setStream p t { q with state := .faulted }
    .next (freeze s p { cmdFault q t (q.head.getD 0#256) q.pc with cause := 3, kind := 1, unit := 0xA })
  else .next s

/-- Commands of the partition still in flight. -/
def partInflight (x : Part) : Nat := inflight x.sF + inflight x.sB + inflight x.sU

/-- PARTITION_DRAIN_DONE: no command remains in flight, so the partition enters FAULTED (R449); a STOP being carried out
is answered (R41). -/
def drainDone (p : Fin 16) (s : State) : State :=
  let x := s.part p
  if x.draining && decide (partInflight x = 0) then answerStop (s.setPart p (enterFaulted x)) p else s

end Sys2Proof.Machine
end

