-- ==== Sys2Proof/Machine/Resets.lean ====
section
/-! DEFINITION. Reset sources and their reach, block resets and releases, domains, clocks and the governor
(16_resets_clocks_wake). -/

namespace Sys2Proof.Machine

/-! ### What LOAD and partition reset clear (R147, R188, R201, R230, R242, R252, Table 4-1) -/

/-- The engine state of a core, as reset leaves it; a retired core stays retired. -/
def clearCore (x : Core) : Core := { Core.reset with retired := x.retired }

/-- What disturbed the AM rows, the transpose buffer and the chest of core nn goes with their contents. -/
def clearCoreSram (s : State) (nn : Nat) : State :=
  [arrAm, arrTb, arrChest].foldl (fun s a => clearArray s a nn 0 (2 ^ 24)) s

/-- The registers and counts of a core's engine blocks: FE, BK, BU, AO, VU and the crumb counts of NC. -/
def clearCoreRegs (s : State) (nn : Nat) : State :=
  let s := [1, 2, 3, 4, 5].foldl (fun s c => resetRange s (coreReg c nn 0) 0x400000) s
  resetRange s (coreReg 8 nn 0x400) 0x40

/-- The engines of a partition's cores. -/
def clearEngines (s : State) (p : Fin 16) : State :=
  (partCores (s.part p)).foldl (fun s nn =>
    (clearCoreRegs (clearCoreSram s nn) nn).modCore (Fin.ofNat 64 nn) clearCore) s

/-- The sync objects of a partition's run: VALUE and WRAP clear; EPOCH rises, or clears (Table 4-1). -/
def resetObjects (s : State) (p : Fin 16) (rise : Bool) : State :=
  let x := s.part p
  (List.range (64 * (x.soCount + 1))).foldl (fun s i =>
    let n := x.soBase * 64 + i
    soSet s n { value := 0#32, epoch := if rise then (soGet s n).epoch + 1 else 0#16, wrap := false }) s

/-- The starting rung of a layer-table entry (R262). -/
def startRung (e : LayerEntry) : Nat := if e.startA8 then 1 else 0

/-- The layers at their starting rungs (R252). -/
def startLayers (x : Part) : Part :=
  { x with layers := Sparse.setRun Layer.zero [] 0 (x.layerTable.map (fun e =>
      { Layer.zero with rungCur := startRung e, rungPrev := startRung e })) }

/-- Every command in flight ends and the streams return to idle: buffers of COLLs are freed. A reference on a region that
such a command held stays: only its completion or a partition reset ends one (R344). -/
def idleStreams (x : Part) : Part :=
  { x with sF := Stream.idle, sB := Stream.idle, sU := Stream.idle, draining := false,
           halted := false, resumable := false, stopTarget := none, crustWait := none, directWait := none, infSeen := false,
           colls := [], segs := [], handed := [], starting := false, frozen := false }

/-- Drop what connections of a partition hold for commands that ended. -/
def dropLinkWaits (s : State) (p : Fin 16) : State :=
  (s.part p).connMap.foldl (fun s i => linkMod s (.conn (Fin.ofNat 2048 i))
    (fun l => { l with sends := [], recvs := [], sigs := [] })) s

/-- The trace ring empties and its counts clear (R476). -/
def clearTrace (s : State) (p : Fin 16) : State :=
  resetRange (s.modPart p (fun x => { x with ring := [], undrained := [], drained := 0, lostRecs := 0 })) (sqReg p.val 0x320) 0x10

/-- The copy of a prefetch entry that a partition reset stops: its window's contents are free (Table 13-9). -/
def loseWindow (p : Fin 16) (s : State) (e : PrefEntry) : State :=
  if e.src.isNone then s else
    let s' := (Op.exec (Op.each (Config.windowBytes s.freeCount) (fun b =>
      writeMem .compute p (e.dst + b.1 % (256 * e.len)) [b.2])) s).2
    { s' with freeCount := s'.freeCount + 1 }

/-- Every reference on the regions of a partition ends (R344). -/
def endRefs (m : PartMem) : PartMem :=
  (m.regions.map (fun e => e.1)).foldl (fun m i =>
    freeRetired { m with regions := Sparse.modify Region.free m.regions i (fun r => { r with refs := 0 }) } i) m

/-- What a partition reset returns to reset values (R45, R406): sequencers, sync objects, scale slots, layer state, function
tables and the prefetch queue; memory, reservations, connections and communicators stay, references on regions end (R344)
and the partition reads ADMITTED. A verb that it cuts short is answered IN_RESET (assumption 21). -/
def resetPart (s : State) (p : Fin 16) : State :=
  let s := stopUpds s p
  let s := match (s.part p).active with
    | some v => answer (s.modPart p (fun x => { x with active := none })) v.reply 3
    | none => s
  let s := answerStops s p 3
  let s := dropLinkWaits (resetObjects (clearTrace (resetCounters (clearEngines s p) p) p) p true) p
  let x := s.part p
  let s := { s with slots := Sparse.clearRange s.slots (x.slotBase * 256) ((x.slotCount + 1) * 256) }
  let s := resetRange s (qsReg p.val 0) 0x1000
  let s := x.mem.prefQ.foldl (loseWindow p) s
  let x := startLayers (idleStreams (s.part p))
  s.setPart p { x with state := .admitted, tables := [], stopMode := .none, resetDue := false,
                       mem := endRefs (emptyQueue x.mem) }

/-! ### Contents lost with power or through a width-3 source -/

/-- Free bytes in canonical form. -/
def freeBytes (l : List (Nat × Byte)) (lo n : Nat) : Sparse Byte :=
  l.foldl (fun m e => Sparse.set 0#8 m (lo + e.1 % n) e.2) []

/-- The contents of a core's SRAM are lost (R414): its engine state resets on the next wake, its store reads free bytes. -/
def loseCore (s : State) (nn : Nat) : State :=
  let s := (clearCoreRegs (clearCoreSram s nn) nn).modCore (Fin.ofNat 64 nn) clearCore
  let lo := nn * storeBytes
  { s with store := (Config.storeBytes s.freeCount).foldl (fun m e => Sparse.set 0#8 m (lo + e.1 % storeBytes) e.2)
             (Sparse.clearRange s.store lo storeBytes),
           storeErrs := Sparse.clearRange s.storeErrs (lo / 32) (storeBytes / 32),
           freeCount := s.freeCount + 1 }

/-! ### Sleep (R416 to R418) -/

/-- A port domain is needed: an open connection or session uses it, or lower frames lie behind it (Table 16-5). -/
def portNeeded (s : State) (d : Nat) : Bool :=
  if d < 81 then (s.conns ++ s.sess).any (fun e => linkLive e.2 && decide (e.2.port = d - 69))
  else rawReg s (0xA0000104 + 0x40 * (d - 81)) ≠ 0#32

/-- Commands in flight use core nn; on a shed core those that wait at its wrapper are no work in flight (R436). -/
def coreBusy (s : State) (nn : Nat) : Bool :=
  let p := corePart s nn
  let x := s.part (Fin.ofNat 16 p)
  decide (p < 16) && (if isShed s nn then
    [x.sF, x.sB, x.sU].any (fun q => q.flight.any (fun f => !f.done && !f.wait = .behind)) else decide (0 < partInflight x))

/-- Frames of a fabric port are in flight: sent, and not acknowledged. -/
def portBusy (s : State) (d : Nat) : Bool :=
  (s.conns ++ s.sess).any (fun e => decide (e.2.port = d - 69) && e.2.unacked.any TxFrame.sent)

/-- Work on the shelves is in flight: commands, exchanges, prefetch copies, scrubs and the intake of a verb, or a dump
(R417). -/
def shelfBusy (s : State) : Bool :=
  s.parts.toList.any (fun x => decide (0 < partInflight x) || !x.mem.exch.isEmpty || x.mem.prefQ.any (fun e => e.src.isSome) ||
    x.state = .scrubbing || x.active.isSome) || s.dump.busy.isSome

/-- The idle policy lets the domain sleep (Table 16-5), or it is shed and idle (R436). -/
def maySleep (s : State) (d : Nat) : Bool :=
  if d < 64 then
    let p := corePart s d
    let st := (s.part (Fin.ofNat 16 p)).state
    !coreBusy s d && (decide (16 ≤ p) || isShed s d || !(st = .running || st = .stopping))
  else if d = domBase then (List.range 64).all (fun c => decide ((domGet s c).pwr = .off))
  else if d < 69 then !shelfBusy s
  else if d < 81 then !portNeeded s d || (isShed s d && !portBusy s d)
  else if d < 85 then !portNeeded s d || (isShed s d && !shelfBusy s)
  else false

/-- IDLE_SLEEP: a domain that is on and may sleep begins to stop, through a falling ramp (R416, R424). -/
def execIdleSleep (dom : Nat) (s : State) : Host.Outcome State Fault Refusal :=
  if domOn s dom && maySleep s dom then
    .next { domMod s dom (fun x => { x with pwr := .stopping }) with
              falls := s.falls ++ [{ doms := [dom], opMove := false, granted := false }] }
  else .next s

/-- The domain keeps its contents asleep: retention for a partition's core, the base and the channel groups. -/
def retains (s : State) (d : Nat) : Bool := if d < 64 then decide (corePart s d < 16) else decide (d < 69)

/-- The PLLs that sleep with the last domain they clock, the core pair with the compute-die base (Table 16-7). -/
def sleepPlls (s : State) : State :=
  [1, 2, 3, 4, 6, 7].foldl (fun s c =>
    let w := rawReg s (0xE0000100 + 4 * c)
    let off := fun (d : Nat) => !clocks c d || (domGet s d).pwr = .off
    if flag w 31 && (List.range domCount).all off then setRaw s (0xE0000100 + 4 * c) (setBit w 31 false) else s) s

/-- POWER_STOP_DONE: the stop completes, and a latched demand wakes the domain at once (R418). -/
def execPowerStopDone (dom : Nat) (s : State) : Host.Outcome State Fault Refusal :=
  let x := domGet s dom
  if x.pwr = .stopping ∧ s.falls.all (fun r => !r.doms.contains dom) then
    let keep := retains s dom
    let s := domSet s dom { x with pwr := .off, retain := keep, clkGood := false, pendingOn := false }
    let s := if dom < 64 && !keep then loseCore s dom else s
    let keepFlaps := fun (q : Port) => { q.stop with flaps := q.flaps }
    let ports := Sparse.modify Port.off s.ports (dom - 69) keepFlaps
    let s := sleepPlls (if 69 ≤ dom ∧ dom ≤ 80 then { s with ports := ports } else s)
    .next (if x.pendingOn then demandWake s dom else s)
  else .next s

/-! ### Block resets (R407 to R413) -/

/-- A count of PM: 48 bits, no overflow bit (R427). -/
def bumpPm (s : State) (ofs n : Nat) : State := bump s (0xE0000000 + ofs) none n

/-- STATE of TR_PORT_STATUS_x (Table 13-18). -/
def cxlState (s : State) (x : Nat) : Nat := field (rawReg s (0xA0000100 + 0x40 * x)) 31 29
def setCxlState (s : State) (x v : Nat) : State :=
  setRaw s (0xA0000100 + 0x40 * x) (setField (rawReg s (0xA0000100 + 0x40 * x)) 31 29 v)

/-- A CXL port that was up or down trains again. -/
def cxlRetrain (s : State) (x : Nat) : State :=
  if cxlState s x = 2 ∨ cxlState s x = 3 then setCxlState s x 1 else s

/-- What a block's reset returns to its reset values. -/
def resetBlock (s : State) (b : Nat) : State :=
  let i := b % 0x400
  let core := Fin.ofNat 64 i
  match b / 0x400 with
  | 1 => (resetRange s (coreReg 1 i 0) 0x400000).modCore core (fun c =>
      { c with active := FeTile.none, shadow := FeTile.none, draining := none, crustQ := [], pred := ⟨none, none, none⟩, mask := [],
               maskValid := false })
  | 2 =>
    let s := clearArray (clearArray s arrTb i 0 (2 ^ 24)) arrChest i 0 (2 ^ 24)
    (resetRange s (coreReg 2 i 0) 0x400000).modCore core (fun c =>
      { c with bank0 := TbBank.none, bank1 := TbBank.none, tbBoth := false, tbCurrent := 0, tbAny := false, tbPred := none,
               tbReads := [], chest := [] })
  | 3 => resetRange s (coreReg 3 i 0) 0x400000
  | 4 => (resetRange (clearArray s arrAm i 0 (2 ^ 24)) (coreReg 4 i 0) 0x400000).modCore core (fun c =>
      { c with am := [], amPred := [] })
  | 5 => resetRange s (coreReg 5 i 0) 0x400000
  | 8 => resetRange s (coreReg 8 i 0) 0x1000
  | 15 => if i < 64 then resetRange s (coreReg 8 i 0x1000) 0x200
          else { s with dump := ⟨none, none, 0, [], 0⟩ }
  | 6 => if i < 64 then resetRange s (0x68000000 + i * 0x100) 0x100
         else { s with slots := [] }
  | 7 => if i < 16 then s.modPart (Fin.ofNat 16 i) idleStreams
         else { s with so := (List.range 4096).foldl (fun m n =>
                  Sparse.modify SyncObj.zero m n (fun o => { o with value := 0#32, wrap := false })) s.so }
  | 9 => if i < 36 then resetRange s (0x90001000 + 0x40 * i) 0x40
         else if 0x40 ≤ i ∧ i < 0x44 then resetRange s (0x98000000 + 0x100 * (i - 0x40)) 0x100 else s
  | 10 => if i < 4 then cxlRetrain (resetRange s (0xA0000104 + 0x40 * i) 0x3C) i else s
  | 11 => if i < 12 then
            { resetRange s (0xB0000104 + 0x80 * i) 0x54 with ports := Sparse.modify Port.off s.ports i Port.stop } else s
  | 12 => if i < 2 then
            let stop := fun (m : Sparse Port) (k : Nat) => Sparse.modify Port.off m (12 + 4 * i + k) Port.stop
            { resetRange s (0xC0000204 + 0x80 * i) 0x54 with ports := (List.range 4).foldl stop s.ports } else s
  | 0 => resetRange s 0xC 8
  | 13 => resetRange s 0xD0000100 0xB0
  | 14 => resetRange (resetRange (resetRange s 0xE0000004 4) 0xE0000020 0x20) 0xE0000240 0x30
  | _ => s

/-- The subsystems whose blocks belong to a core (Table 16-2). -/
def perCore (b : Nat) : Bool :=
  let c := b / 0x400
  (decide (1 ≤ c) && decide (c ≤ 5)) || c = 8 || ((c = 6 || c = 15) && decide (b % 0x400 < 64))

/-- A reset of a core's block stops the running partition that holds the core, with cause 0x3 (R411); the spec gives no
KIND for it. -/
def faultOnReset (s : State) (b : Nat) : State :=
  let p := corePart s (b % 0x400)
  if perCore b && decide (p < 16) then
    let n := s.freeCount
    freeze { s with freeCount := n + 1 } (Fin.ofNat 16 p)
      { FaultRec.none with cause := 3, kind := (Config.freeWord n).toNat % 256, stream := 0xFF, core := b % 0x400,
                           chan := 0xFFFF }
  else s

/-- The block's reset asserts (R408): it is held, and what it holds returns to reset values. -/
def assertBlk (s : State) (b width : Nat) (iso : Bool) : State :=
  let s := blkMod s b (fun x => { x with inReset := true, iso := iso, draining := false, stuck := false, heldClk := false,
                                         widest := max x.widest width })
  resetBlock (if width = 1 then faultOnReset s b else s) b

/-- Every source has released the block (R412). -/
def sourcesClear (x : Blk) : Bool := !x.soft && !x.module && !x.part

/-- The ports that a block serves. -/
def blkPorts (b : Nat) : List Nat :=
  if 0x2C00 ≤ b ∧ b < 0x2C0C then [b - 0x2C00]
  else if 0x3000 ≤ b ∧ b < 0x3002 then (List.range 4).map (fun k => 12 + 4 * (b - 0x3000) + k) else []

/-- Ports that had stopped train, but sub-ports that do not exist (Table 14-3). -/
def trainPorts (s : State) (l : List Nat) : State :=
  let go := fun (m : Sparse Port) (i : Nat) =>
    Sparse.modify Port.off m i (fun q => if q.state = .off then q.train else q)
  { s with ports := (l.filter (portExists s)).foldl go s.ports }

/-- Leave reset, when every source has released it and its clock is good; wait for the wake or the clock before
(Table 16-4). A port's block starts its ports. -/
def releaseBlk (s : State) (b : Nat) : State :=
  let x := blkGet s b
  let d := domGet s (blkDom b)
  if x.inReset && sourcesClear x && !x.draining then
    if d.pwr ≠ .on then
      demandWake (blkSet s b { x with stuck := false, heldClk := domFailed s (blkDom b) }) (blkDom b)
    else if !d.clkGood then blkSet s b { x with heldClk := true, stuck := false }
    else trainPorts (blkSet s b { x with inReset := false, heldClk := false, stuck := false, widest := 0 }) (blkPorts b)
  else s

/-- The partition that a per-core block belongs to, while a partition reset means anything to it. -/
def blkPart (s : State) (b : Nat) : Option (Fin 16) :=
  let p := corePart s (b % 0x400)
  if perCore b && decide (p < 16) && (s.part (Fin.ofNat 16 p)).state ≠ .scrubbing then some (Fin.ofNat 16 p) else none

/-- Clearing RST: where a partition reset asserted while RST held the block, the width-2 sequence runs on the final release
(R412, Table 16-10). -/
def releaseSoft (s : State) (b : Nat) : State :=
  let x := blkGet s b
  let s := releaseBlk (blkSet s b { x with soft := false }) b
  if x.widest = 2 && x.inReset && !x.part && !x.module then
    match blkPart s b with
    | some p => resetPart s p
    | none => s
  else s

/-- The software source of a block (R407, R409). -/
def setSoft (s : State) (b : Nat) (on : Bool) : State :=
  let x := blkGet s b
  if on && !x.soft then
    let s := blkSet s b { x with soft := true }
    if x.draining then s
    else if x.inReset then blkMod s b (fun x => { x with heldClk := false, stuck := false })
    else if blkDrains s b && decide (x.drainTo ≠ 0) then blkMod s b (fun x => { x with draining := true })
    else assertBlk s b 1 true
  else if !on && x.soft then releaseSoft s b
  else s

/-- The end of a drain: the reset asserts, the partition source lets go, and the block is released at once when no other
source holds it (Table 16-10). -/
def endDrain (s : State) (b : Nat) (iso : Bool) : State :=
  let part := (blkGet s b).part
  let s := assertBlk s b (if part then 2 else 1) iso
  releaseBlk (blkMod s b (fun x => { x with part := false })) b

/-- The partition reset covers a block: it drains first where its MODE asks for that (R409, R410), else its reset asserts;
the source then lets go, and the block leaves reset as Table 16-4 gives. -/
def coverBlk (s : State) (b : Nat) : State :=
  let x := blkGet s b
  if x.inReset then blkSet s b { x with widest := max x.widest 2 }
  else if x.draining || (blkDrains s b && decide (x.drainTo ≠ 0)) then
    blkSet s b { x with part := true, draining := true }
  else releaseBlk (assertBlk s b 2 true) b

/-- Partition reset (R45, R406): what it returns to reset values, and the per-core blocks of the rectangle, released as their
domains wake (Table 16-3). It reads ADMITTED at once (assumption 72). -/
def partitionReset (s : State) (p : Fin 16) : State :=
  let s := resetPart s p
  let cores := partCores (s.part p)
  let s := demandAll s (domBase :: cores)
  (cores.flatMap coreBlks).foldl coverBlk s

/-- DRAIN_IDLE: the draining block reports idle (R409). -/
def execDrainIdle (b : Nat) (s : State) : Host.Outcome State Fault Refusal :=
  .next (if blkExists b && (blkGet s b).draining then endDrain s b false else s)

/-- DRAIN_TIMEOUT: the block falls back to ISOLATE (R409). -/
def execDrainTimeout (b : Nat) (s : State) : Host.Outcome State Fault Refusal :=
  if blkExists b && (blkGet s b).draining then
    .next (endDrain (postBit (setRaw (bumpPm s 0x28 1) 0xE000001C (BitVec.ofNat 32 b)) 0xE0000004 1) b true)
  else .next s

/-- RST_HELD_CLK_EXPIRY: a release without a good clock ends at step 5 of Table 16-4. -/
def execRstHeldClkExpiry (b : Nat) (s : State) : Host.Outcome State Fault Refusal :=
  if blkExists b && (blkGet s b).heldClk then
    .next (postBit (blkMod s b (fun x => { x with heldClk := false, err := true, stuck := true })) 0xE0000004 0)
  else .next s

/-- Blocks of a domain that wait for it leave reset (Table 16-4, steps 1 to 3). -/
def releaseDomain (s : State) (d : Nat) : State :=
  (allBlks.filter (fun b => blkDom b = d && !(blkGet s b).stuck)).foldl releaseBlk s

/-- STATE_MISMATCH: the event, its block and count, and the management view taken from the wrapper (R461). -/
def execStateMismatch (b : Nat) (count : Nat) (s : State) : Host.Outcome State Fault Refusal :=
  if blkExists b then
    let s := bump (setRaw (postBit s 0xF0000000 0) 0xF0000018 (BitVec.ofNat 32 b)) 0xF0000030 none 1
    let x := domGet s (blkDom b)
    .next (if count ≠ 0 ∧ x.pwr = .off then domSet s (blkDom b) { x with pwr := .on, clkGood := true } else s)
  else .next s

/-! ### Clocks (R421) -/

/-- PLL_LOCK: LOCKED sets, and the domains whose PLLs have all locked ask for their ramps together (R415, R424). -/
def execPllLock (d : Fin 8) (s : State) : Host.Outcome State Fault Refusal :=
  let s := setRaw s (0xE0000100 + 4 * d.val) (setBit (setBit (rawReg s (0xE0000100 + 4 * d.val)) 31 true) 30 false)
  let ds := (List.range domCount).filter (fun i => (domGet s i).needPll && domLocked s i)
  let s := ds.foldl (fun s i => domMod s i (fun x => { x with needPll := false })) s
  .next (if ds = [] then s else { s with rises := s.rises ++ [{ doms := ds, opMove := false, granted := false }] })

/-- A block waits for a PLL: of a domain that wakes, whether a source has just released it or it only slept. -/
def waitsPll (s : State) (c b : Nat) : Bool :=
  let x := blkGet s b
  clocks c (blkDom b) && (domGet s (blkDom b)).needPll && sourcesClear x && !x.draining && !x.stuck

/-- A PLL has failed: FAIL sets, and the blocks that wait for it stay at step 2 of Table 16-4, held in reset (R27, R421). -/
def pllFail (d : Nat) (s : State) : State :=
  let s := setRaw s (0xE0000100 + 4 * d) (setBit (rawReg s (0xE0000100 + 4 * d)) 30 true)
  (allBlks.filter (waitsPll s d)).foldl (fun s b =>
    blkMod s b (fun x => { x with inReset := true, heldClk := true })) s

/-! ### The governor (R424) and the operating point (R420) -/

/-- Grant the first request that has no grant. -/
def grantHead : List Ramp → List Ramp
  | [] => []
  | r :: rs => if r.granted then r :: grantHead rs else { r with granted := true } :: rs

/-- GOVERNOR_GRANT: the head of the rise or fall queue is granted; PEAK_HOLD grants no rise (R424, R433). -/
def execGovernorGrant (fall : Bool) (s : State) : Host.Outcome State Fault Refusal :=
  if fall then .next { s with falls := grantHead s.falls }
  else if flag (rawReg s 0xE0000204) 28 then .next s
  else .next { s with rises := grantHead s.rises }

/-- A domain whose rising ramp is done is on with a good clock; a port begins to train (R415, Table 14-3). -/
def domUp (s : State) (d : Nat) : State :=
  let s := domMod s d (fun x => { x with pwr := .on, retain := false, clkGood := true, needPll := false })
  releaseDomain (trainPorts s ((allBlks.filter (fun b => blkDom b = d && !(blkGet s b).inReset)).flatMap blkPorts)) d

/-- The ramp of index `i` of the queue is done, if it is granted and moves domains. -/
def rampDone (s : State) (fall : Bool) (i : Nat) : State :=
  match (if fall then s.falls else s.rises)[i]? with
  | some r =>
    if r.granted && !r.opMove then
      if fall then { s with falls := s.falls.eraseIdx i }
      else r.doms.foldl domUp { s with rises := s.rises.eraseIdx i }
    else s
  | none => s

/-! PM_OP (Table 16-14). -/
def opPin (s : State) : Option Nat :=
  let w := rawReg s 0xE0000018
  if flag w 31 then some (field w 30 29) else none
def opMoving (s : State) : Bool := flag (rawReg s 0xE0000018) 28
def opTarget (s : State) : Nat := field (rawReg s 0xE0000018) 27 26
def opCur (s : State) : Nat := field (rawReg s 0xE0000018) 25 24

/-- The operating point that the loops ask for (R444): the brake's OP3, else a pin, else the slowest asked. -/
def wantedPoint (s : State) : Nat :=
  if s.power.brake then 3 else
  match opPin s with
  | some n => n
  | none => max s.power.avgPoint s.power.thermPoint

/-- Begin the move to the wanted point, or leave it to follow the move in progress (R420). -/
def startMove (s : State) : State :=
  let n := wantedPoint s
  if opMoving s then { s with power := { s.power with opNext := some n } }
  else if n = opCur s then s
  else
    let w := setField (setBit (rawReg s 0xE0000018) 28 true) 27 26 n
    let s := { setRaw s 0xE0000018 w with power := { s.power with opNext := none } }
    if n < opCur s then { s with rises := s.rises ++ [{ doms := [], opMove := true, granted := false }] } else s

/-- The move in progress may end: it falls, or its rise is granted. -/
def moveGranted (s : State) : Bool := opCur s < opTarget s || s.rises.any (fun r => r.opMove && r.granted)

/-- OP_MOVE_DONE: the point in force is the target; a move asked meanwhile follows (R420). -/
def execOpMoveDone (s : State) : Host.Outcome State Fault Refusal :=
  if opMoving s && moveGranted s then
    let n := opTarget s
    let s := setRaw s 0xE0000018 (setField (setBit (rawReg s 0xE0000018) 28 false) 25 24 n)
    .next (startMove { s with rises := s.rises.filter (fun r => !r.opMove) })
  else .next s

/-! ### Reset pins (R403) -/

/-- PRST_GLITCH: a low pulse too short to count as reset. -/
def execPrstGlitch (s : State) : Host.Outcome State Fault Refusal := .next (bumpPm s 0x38 1)

/-! ### Width-3 sources (R402, R410) -/

/-- Control addresses of a register that a width-3 source keeps (Table 16-1, R401, R447). -/
def keptReg (a : Nat) : Bool :=
  decide (a = 0x4) || decide (a = 0xE0000008) || decide (a = 0xE0000100) ||
  decide (a = 0xE0000228) || decide (a = 0xE000022C) ||
  (decide (a / 0x10000000 = 0xD) && !(decide (a = 0xD0000000)) && !(decide (0xD0000100 ≤ a) && decide (a < 0xD00001B0)))

/-- Registers after a width-3 source: the kept ones with the coolant warning, and PM_RST_CAUSE with its source. -/
def keptRegs (s : State) (cause : Nat) : Sparse Word :=
  let w := rawReg s 0xE0000008
  let w := setField (setField w 31 28 cause) 15 0 (min (field w 15 0 + 1) 0xFFFF)
  let cool := rawReg s 0xE0000204 &&& mask32 26 26
  Sparse.set 0#32 (Sparse.set (resetWord 0xE0000008) (s.regs.filter (fun e => keptReg e.1)) 0xE0000008 w) 0xE0000204 cool

/-- A width-3 reset: every block returns to reset but the kept items, and boot restarts at step 4 (R402, R380); what the
shelves hold afterwards is not promised. -/
def wideReset (s : State) (cause : Nat) : State :=
  let n := s.freeCount
  { State.reset with
    pending := s.pending, regs := keptRegs s cause, wire := s.wire, tick := s.tick, freeCount := n + 1, input := s.input,
    transients := s.transients, rowsUsed := s.rowsUsed, lanesUsed := s.lanesUsed,
    ports := (s.ports.map (fun e => (e.1, e.2.stop))).filter (fun e => e.2.dead),
    mem := freeBytes (Config.shelfBytes n) 0 (2 ^ 64),
    errs := (Config.shelfUpsets n).foldl (fun m e => Sparse.set 0 m e.1 (e.2 % 2 ^ 288)) [],
    frames := s.frames.filter (fun e => e.2 = 99),
    cores := s.cores.map clearCore, store := freeBytes (Config.storeBytes n) 0 (64 * storeBytes),
    doms := Sparse.set Dom.off [] domAlways { Dom.off with pwr := .on, clkGood := true },
    power := { Power.reset with therm := s.power.therm, throttling := s.power.throttling, thrRun := s.power.thrRun,
                                thermPoint := s.power.thermPoint, hotRun := s.power.hotRun,
                                junctions := s.power.junctions, brake := s.power.brake, brakeHold := s.power.brakeHold,
                                longPosted := s.power.longPosted, thermDue := s.power.thermDue,
                                coldRun := s.power.coldRun },
    boot := { s.boot with step := .shelf, records := [], owner := [], chain := s.boot.chain.take 3, request := [], report := [],
                          remoteDue := false, h1Mode := 0, refClks := [], wdStart := s.tick } }

/-- A flash operation cut short by power loss or PRST_N: it ends, and a slot that was being written holds anything
(Table 15-10). -/
def flashCut (s : State) : State :=
  match s.boot.flashOp with
  | none => s
  | some o =>
    let s := setRaw s 0xD0000200 (setBit (rawReg s 0xD0000200) 30 false)
    if o.op = 0 then { s with boot := { s.boot with flashOp := none } } else
    let slot := 0x2000000
    let lo := o.place / slot * slot
    let rest := Sparse.clearRange s.boot.flash lo slot
    let flash := (Config.flashBytes s.freeCount).foldl (fun m e => Sparse.set 0xFF#8 m (lo + e.1 % slot) e.2) rest
    { s with boot := { s.boot with flash := flash, flashOp := none }, freeCount := s.freeCount + 1 }

/-- The module has left step 3 of its boot, so a width-3 source acts on it. -/
def booted (s : State) : Bool := s.boot.step ≠ .off && s.boot.step ≠ .strap

/-- PRST_N_ASSERT (R403). -/
def execPrstNAssert (s : State) : Host.Outcome State Fault Refusal :=
  let s := if booted s then wideReset (flashCut s) 2 else s
  .next { s with boot := { s.boot with prstLow := true } }

/-- PRST_N_RELEASE: boot goes on at step 4 (R403, R490). -/
def execPrstNRelease (s : State) : Host.Outcome State Fault Refusal :=
  .next { s with boot := { s.boot with prstLow := false } }

/-- MODULE_WATCHDOG_EXPIRY: with WD_EN the watchdog asserts its source (R404). -/
def execModuleWatchdogExpiry (s : State) : Host.Outcome State Fault Refusal :=
  if flag (rawReg s 0xE0000000) 30 && booted s then
    let s := wideReset s 3
    .next { s with boot := { s.boot with wdHeld := true } }
  else .next s

/-- MODULE_WATCHDOG_RELEASE: 100 µs later the source lets go (R404). -/
def execModuleWatchdogRelease (s : State) : Host.Outcome State Fault Refusal :=
  .next { s with boot := { s.boot with wdHeld := false } }

/-- REMOTE_RESET_ASSERT: 1 ms after its answer a requested remote reset asserts (R405). -/
def execRemoteResetAssert (s : State) : Host.Outcome State Fault Refusal :=
  .next (if s.boot.remoteDue then wideReset s 4 else s)

end Sys2Proof.Machine
end

