-- ==== Sys2Proof/Machine/Accum.lean ====
section
/-! DEFINITION. The accumulator memories (08): rows, records, the order check of R67 and promotion (R199 to R204), which
FMAT, BDX and BMAT share. -/

namespace Sys2Proof.Machine

/-- Where an engine works: the core's context, the stream and the command. -/
structure Work where
  c : Ctx
  t : StreamTag
  g : Granule

/-- Core nn of the context. -/
def Work.core (w : Work) : Fin 64 := Fin.ofNat 64 w.c.nn

/-- Change the core's engine state. -/
def Work.modCore (w : Work) (f : Core → Core) : Op Unit := Op.mod (fun s => s.modCore w.core f)

/-- The core's engine state. -/
def Work.getCore (w : Work) : Op Core := do
  let s ← Op.get
  pure (s.core w.core)

/-- Add to a 48-bit count of the core with its overflow bit. -/
def Work.count (w : Work) (code lo ovf bit n : Nat) : Op Unit := Op.mod (fun s => bumpCore s code w.c.nn lo ovf bit n)

/-- Add the core cycles of a wait whose length the spec leaves to the arrival of data (R164, R217, R233). -/
def Work.waits (w : Work) (code lo ovf bit : Nat) : Op Unit :=
  Op.mod (fun s => bumpCore { s with freeCount := s.freeCount + 1 } code w.c.nn lo ovf bit (Config.waitCycles s.freeCount))

/-- An attributable counter event of the command at this core (Table 19-1). -/
def Work.event (w : Work) (code n : Nat) : Op Unit :=
  Op.mod (fun s => countEvent s w.c.p w.t (cLayer w.g) code w.c.nn n)

/-- INF_SEEN at a unit of this core (R127). -/
def Work.inf (w : Work) (unit : Nat) (tile : List Nat) : Op Unit :=
  Op.mod (fun s => noteInf s w.c.p w.t w.g unit w.c.nn tile)

/-! ### Records and the order check (R67, R202) -/

/-- Key of a row of an AM. -/
def amKey (am row : Nat) : Nat := am * 1024 + row

/-- The rows AMROW to AMROW + n of an AM. -/
def amKeys (am row n : Nat) : List Nat := (List.range (n + 1)).map (fun i => amKey am (row + i))

/-- A record lets an accumulation of a kind at an index follow: it is clear, or of that kind and lower. -/
def recordAllows (kind : RecKind) (index : Nat) (r : AmRec) : Bool :=
  r.kind = .clear || (r.kind = kind && decide (r.value < index))

/-- ORDER of R67: a command without INIT, on the records as they will stand, at every core of its rectangle. -/
def orderOk (s : State) (cores : List (Nat × Nat × Nat)) (keys : List Nat) (init : Bool) (kind : RecKind) (index : Nat) :
    Bool :=
  init || cores.all (fun c => keys.all (fun k =>
    recordAllows kind index (Sparse.get AmRec.clear (s.core (Fin.ofNat 64 c.1)).amPred k)))

/-- Note the record that the rows will hold, at issue. -/
def predictRows (s : State) (cores : List (Nat × Nat × Nat)) (keys : List Nat) (r : AmRec) : State :=
  cores.foldl (fun s c => s.modCore (Fin.ofNat 64 c.1) (fun x =>
    { x with amPred := keys.foldl (fun m k => Sparse.set AmRec.clear m k r) x.amPred })) s

/-! ### Rows -/

def amGet (x : Core) (k : Nat) : AmRow := Sparse.get AmRow.none x.am k
def amSet (x : Core) (k : Nat) (r : AmRow) : Core := { x with am := Sparse.set AmRow.none x.am k r }

/-- The W48 codes of a row; an EMPTY row reads +0 (R201). -/
def AmRow.codes (r : AmRow) : List Nat :=
  (List.range 256).map (fun c => if r.empty then 0 else Sparse.get 0 r.vals c)

/-- The sparse form of a row's codes. -/
def sparseOf (codes : List Nat) : Sparse Nat := codes.zipIdx.filterMap (fun e => if e.1 = 0 then none else some (e.2, e.1))

/-- INIT sets EMPTY and clears the record (R201, R67). -/
def emptyRow (w : Work) (k : Nat) : Op Unit := w.modCore (fun x => amSet x k AmRow.none)

/-- Granules of an AM row (R199). -/
def amGranules : Nat := 48

/-- W48 codes that stand in an array from granule `lo` on, decoded. -/
def readCodes (array owner lo : Nat) (codes : List Nat) : Op (List Nat) := do
  let s ← Op.get
  if arrayClean s array owner lo ((6 * codes.length + 31) / 32) then pure codes else do
    let bs ← readArray array owner lo (codes.flatMap (leBytes 6))
    pure ((List.range codes.length).map (fun i => leAt bs (6 * i) 6))

/-- Read the columns lo .. lo + n - 1 of a row, both multiples of 16: its granules are decoded, but those of an EMPTY row,
which reads +0 (R199, R201). -/
def readAm (w : Work) (k lo n : Nat) : Op (List Nat) := do
  let x ← w.getCore
  let r := amGet x k
  if r.empty then pure (List.replicate n 0)
  else readCodes arrAm w.c.nn (amGranules * k + 6 * lo / 32) ((r.codes.drop lo).take n)

/-- Write columns lo upward of a row; the first write after EMPTY writes the whole row (R201). -/
def writeAm (w : Work) (k lo : Nat) (rcd : AmRec) (codes : List Nat) : Op Unit := do
  let x ← w.getCore
  let r := amGet x k
  let old := r.codes
  let all := old.take lo ++ codes ++ old.drop (lo + codes.length)
  let first := if r.empty then (0, amGranules) else (6 * lo / 32, 6 * codes.length / 32)
  Op.mod (fun s => clearArray s arrAm w.c.nn (amGranules * k + first.1) first.2)
  w.modCore (fun x => amSet x k { empty := false, rcd := rcd, vals := sparseOf all })

/-! ### Promotion (R203, R204) -/

/-- One entry after a run, and whether INF_SEEN and AO_INF see it: (code, new infinity, infinity). -/
def promoteEntry (old : Nat) (run : Num) : Except TrapKind (Nat × Bool × Bool) :=
  let a := fW48.value old
  ((a.add run).map (fun v => fW48.encodeWide .nearestEven v)).map (fun code =>
    let inf := (fW48.value code).isInf
    (code, inf && !a.isInf, inf && (!a.isInf || run.isInf)))

/-- Places of the entries whose infinity INF_SEEN sees. -/
def freshEntries (rs : List (Except TrapKind (Nat × Bool × Bool))) : List Nat :=
  rs.zipIdx.filterMap (fun e => match e.1 with
    | .ok r => if r.2.2 then some e.2 else none
    | .error _ => none)

/-- The tile coordinates of a column: a column stands fourth but where the FE has its band (R166, R197, R237). -/
def columnTile (unit : Nat) (tile : List Nat) (c : Nat) : List Nat := if unit = 1 then tile else tile.set 3 c

/-- A STORE of the stream, not yet complete, reads the row: a promotion into it may wait for the read (R205). -/
def storeReads (s : State) (w : Work) (k : Nat) : Bool :=
  (s.stream w.c.p w.t).flight.any (fun f => !f.done && cOpcode f.word = 0x31 &&
    (amKeys (field f.word 111 110) (field f.word 109 100) (field f.word 99 90)).contains k)

/-- Promote runs into the columns `lo` upward of a row at once (R203); the first promotion writes every entry (R201). A
NaN leaves the row unwritten (R204). A row promotion counts once, with its lowest column. -/
def promoteCols (w : Work) (unit : Nat) (tile : List Nat) (k : Nat) (r : AmRec) (lo : Nat) (runs : List Num) :
    Op Unit := do
  let s ← Op.get
  if lo = 0 && storeReads s w k then w.waits 4 0x58 0x04 7
  let old ← Op.at unit w.c.nn tile (readAm w k lo runs.length)
  let rs := (old.zip runs).map (fun e => promoteEntry e.1 e.2)
  match (freshEntries rs).head? with
  | some i => w.inf unit (columnTile unit tile (lo + i))
  | none => pure ()
  let es ← Op.atElem unit w.c.nn (fun i => columnTile unit tile (lo + i))
    (Op.nanAt 0 (together (rs.zipIdx.map (fun e => wholeAt e.2 e.1))))
  writeAm w k lo r (es.map (fun e => e.1))
  if lo = 0 then w.count 4 0x20 0x04 0 1
  w.count 4 0x48 0x04 5 (es.filter (fun e => e.2.1)).length

/-- Promote one run of a whole row. -/
def promote (w : Work) (unit : Nat) (tile : List Nat) (k : Nat) (r : AmRec) (runs : List Num) : Op Unit :=
  promoteCols w unit tile k r 0 runs

end Sys2Proof.Machine
end

