-- ==== Sys2Proof/Machine/Forward.lean ====
section
/-! DEFINITION. The forward engine (06): tiles and TLOAD, the crust mask, waves, skipping, the correction wave, the column
merge and the promotion of an FMAT into AM 0. The command FMAT itself stands with the bench unit (Bench.lean), which
carries it out at rung 3. -/

namespace Sys2Proof.Machine

/-! ### Operand fields (Table 3-6) -/

def tWdesc (g : Granule) : Nat := field g 111 96
def tKt (g : Granule) : Nat := field g 95 84
def tNt (g : Granule) : Nat := field g 83 72
def fAdesc (g : Granule) : Nat := field g 111 96
def fCdesc (g : Granule) : Nat := field g 95 80
def fTok0 (g : Granule) : Nat := field g 79 64
def fAmrow (g : Granule) : Nat := field g 63 54
def fNtok (g : Granule) : Nat := field g 53 44

/-! ### The crust record (R283, R284) -/

/-- S2 and S3 are multiples of S1, as a record that is read or written needs (R284). -/
def auxStridesOk (d : Desc) : Bool := decide (d.s2 % d.s1 = 0) && decide (d.s3 % d.s1 = 0)

/-- The header of a record lies in range. -/
def auxHeaderOk (m : PartMem) (d : Desc) : Bool :=
  decide (d.abase % 64 = 0) && spanOk m d d.abase (d.abase + d.zplen + 256)

/-- The channels that a record lists; a descriptor with ABASE = 0 has no record (R284). -/
def readCrust (c : Ctx) (d : Desc) : Op (List Nat) :=
  if d.abase = 0 then pure [] else do
    let n ← readSpace c d (d.abase + d.zplen) 2
    let l ← readSpace c d (d.abase + d.zplen + 128) 128
    pure ((List.range (min 64 (leNat n))).map (fun i => leAt l (2 * i) 2))

/-! ### TLOAD (R142 to R145) -/

/-- The two's complement weight codes of a block (Table 5-4). -/
def weightCodes (f : Fmt) (codes : List Nat) : List Nat :=
  codes.map (fun c =>
    let v := match f with
      | .w1 => weightW1 c
      | .wt => weightWT c
      | _ => weightW2 c
    (v % 4).toNat)

/-- WFMT of Table 6-13. -/
def wfmtCode (f : Fmt) : Nat := match f with
  | .w1 => 0 | .wt => 1 | _ => 2

/-- Width of a table entry (Table 6-2). -/
def entryWidth (wfmt : Nat) : Nat := if wfmt = 2 then 5 else 4

/-- The 16 entries of a cell: entry i is the sum of those of its four weights whose index is a bit of i (R140). -/
def cellTable (width : Nat) (ws : List Int) : List Nat :=
  (List.range 16).map (fun i =>
    ((((ws.zipIdx.filter (fun e => i.testBit e.2)).map (fun e => e.1)).sum : Int) % (2 ^ width : Nat)).toNat)

/-- Entry i of cell (r, c). -/
def FeTile.entry (x : FeTile) (r c i : Nat) : Int :=
  signedOf (entryWidth x.wfmt) ((Sparse.get [] x.tables (r * 256 + c)).getD i 0)

/-- The rows of a tile at which the codes or the scale of a weight block are bad: the scale on the first row of its band,
a WT byte on the row of its first digit (R143, R166). -/
def badRows (f : Fmt) (b : Nat) (raw : RawBlock) : List (Nat × TrapKind) :=
  (match decodeScale false raw.scale with
    | .ok _ => []
    | .error k => [(8 * b, k)]) ++
  (if f = .wt then (raw.bytes.zipIdx.filter (fun e => decide (243 ≤ e.1.toNat))).map (fun e => (8 * b + 5 * e.2 / 4, .badCode))
   else [])

/-- The builder checks the blocks of a band: it traps on the first row with a bad one, at the lowest column of that row, and
the others of the row count as further (R129, R143). -/
def checkBand (w : Work) (f : Fmt) (kt nt b : Nat) (blocks : List RawBlock) : Op Unit :=
  let bad := blocks.zipIdx.flatMap (fun e => (badRows f b e.1).map (fun x => (x.1, e.2, x.2)))
  match bad with
  | [] => pure ()
  | x :: _ => do
    let row := bad.foldl (fun m e => min m e.1) x.1
    Op.mod (fun s => setRaw s (coreReg 1 w.c.nn 0) (BitVec.ofNat 32 row))
    match bad.filter (fun e => decide (e.1 = row)) with
    | e :: rest => throw { stop := .nan e.2.2, unit := 1, core := w.c.nn, tile := [kt, nt, row, e.2.1], elem := 0, more := rest.length }
    | [] => pure ()

/-- Band b of a tile: its weight blocks, checked, as scale codes and weights by column; elements beyond the extent are
weight 0 (R142 to R144). -/
def tileBand (w : Work) (d : Desc) (kt nt b : Nat) : Op (List (Nat × List Int)) := do
  let jb := 32 * kt + b
  Op.mod (fun s => setRaw s (coreReg 1 w.c.nn 0) (BitVec.ofNat 32 (8 * b)))
  let blocks ← Op.map (List.range (min 256 (d.e1 + 1 - 256 * nt))) (fun n => Op.at 1 w.c.nn [kt, nt, 8 * b, n] (do
    let bs ← readHeld w.c d jb 1 (256 * nt + n, 0, 0)
    pure (bs.headD { bytes := [], scale := 0 })))
  checkBand w d.fmt kt nt b blocks
  pure (blocks.map (fun raw =>
    let codes := match blockCodes d.fmt raw.bytes with
      | .ok cs => cs
      | .error _ => []
    (raw.scale, (weightCodes d.fmt codes).zipIdx.map (fun e => if 32 * jb + e.2 ≤ d.e0 then signedOf 2 e.1 else 0))))

/-- The weights of row r of a tile by column: four of the 32 of its band. -/
def rowWeights (band : List (Nat × List Int)) (r : Nat) : List (List Int) :=
  band.map (fun e => (e.2.drop (4 * (r % 8))).take 4)

/-- The band column sums of a tile's tables: the sum of T[15] over the band's cells (R141, R142). -/
def columnSums (x : FeTile) (bands : Nat) : Sparse Int :=
  (List.range bands).flatMap (fun b => (List.range 256).filterMap (fun c =>
    let v := ((List.range 8).map (fun r => x.entry (8 * b + r) c 15)).sum
    if v = 0 then none else some (256 * b + c, v)))

/-- Fill the tables of a tile from WDESC, band by band and row by row (R142). -/
def buildTile (w : Work) (d : Desc) (kt nt : Nat) : Op FeTile := do
  let n := min 32 (d.blocks - 32 * kt)
  let bands ← Op.map (List.range n) (tileBand w d kt nt)
  let width := entryWidth (wfmtCode d.fmt)
  let tables := (List.range (8 * n)).flatMap (fun r => (rowWeights (bands.getD (r / 8) []) r).zipIdx.filterMap (fun e =>
    if e.1.all (fun v => decide (v = 0)) then none else some (r * 256 + e.2, cellTable width e.1)))
  let scales := bands.zipIdx.flatMap (fun r => r.1.zipIdx.filterMap (fun e =>
    if e.1.1 = 0 then none else some (r.2 * 256 + e.2, e.1.1)))
  let x : FeTile := { valid := true, kt := kt, nt := nt, wfmt := wfmtCode d.fmt, kext := d.e0 + 1, tables := tables,
                      bank := { scales := scales, sums := [], corr := [] } }
  pure { x with bank := { x.bank with sums := columnSums x n } }

/-- TLOAD at one core: the shadow tables are invalid until they are full (Table 6-10). -/
def tloadCore (w : Work) (d : Desc) : Op Unit := do
  let kt := tKt w.g
  let nt := tNt w.g
  w.modCore (fun x => { x with shadow := { FeTile.none with kt := kt, nt := nt, wfmt := wfmtCode d.fmt } })
  let tile ← buildTile w d kt nt
  w.modCore (fun x => { x with shadow := tile })
  Op.mod (fun s => setRaw s (coreReg 1 w.c.nn 0) 256#32)

/-- The work of a command at a core of its rectangle. -/
def workOf (s : State) (p : Fin 16) (t : StreamTag) (g : Granule) (c : Nat × Nat × Nat) : Work :=
  { c := ctxOf s p t c, t := t, g := g }

/-- The block of core nn that carries a command out (Table 16-2). -/
def engineBlk (g : Granule) (nn : Nat) : Nat :=
  let code := match cOpcode g with
    | 0x20 => 1 | 0x21 => 1 | 0x11 => 2 | 0x12 => 2 | 0x22 => 2 | 0x23 => 2 | 0x24 => 3 | 0x31 => 4 | 0x30 => 5 | _ => 8
  code * 0x400 + nn

/-- Run a command's work on every core of its rectangle; a core whose engine is isolated answers with an error. -/
def onCoresOf (s : State) (p : Fin 16) (t : StreamTag) (g : Granule) (f : Work → Op Unit) : State × List Trap :=
  onTargets (targetCores (s.part p) g) (fun c =>
    if wrapperClosed s (engineBlk g c.1) then Op.stop (.mem 3 0 0 0xFFFF) else f (workOf s p t g c)) s

/-- The commands of a stream before flight n that are not complete. -/
def ahead (q : Stream) (n : Nat) : List Flight := q.flight.filter (fun f => decide (f.seq < n) && !f.done)

/-- A command of an opcode in front of flight n has not acted (R76). -/
def opBehind (q : Stream) (n op : Nat) : Bool := (ahead q n).any (fun f => f.wait = .behind && cOpcode f.word = op)

/-- What flight n finds in front of it on the forward engine: a TLOAD that is not complete, or an FMAT that has not begun. A
TLOAD waits for both; an FMAT for them and for one that waits for its crust rows (R145, R157). -/
def feBehind (q : Stream) (n : Nat) : Bool :=
  (ahead q n).any (fun f => cOpcode f.word = 0x20 || (cOpcode f.word = 0x21 && f.wait = .behind))

/-- Checks of TLOAD: a weight operand of W1, WT or W2. -/
def tloadCheck (s : State) (p : Fin 16) (t : StreamTag) (g : Granule) : List Nat :=
  let d := descOf s p t g (tWdesc g)
  failIf 5 (!d.fmt.narrow) ++ descChecks s p .weights d

/-- The bench tile of a layer (Table 10-5). -/
def setBenchTile (s : State) (p : Fin 16) (g : Granule) : State :=
  s.modPart p (fun x => match laddered x g with
    | some l => { x with layers := Sparse.modify Layer.zero x.layers l (fun y =>
        { y with bench := some (tWdesc g, tKt g, tNt g) }) }
    | none => x)

/-- The work of a TLOAD, now or after an FMAT it stands behind. -/
def tloadWork (s : State) (p : Fin 16) (t : StreamTag) (g : Granule) : State × List Trap :=
  onCoresOf s p t g (fun w => tloadCore w (descOf s p t g (tWdesc g)))

/-- The tile that a TLOAD will leave in the shadow tables, at issue. -/
def predictTile (s : State) (p : Fin 16) (t : StreamTag) (g : Granule) : State :=
  if atRung3 (s.part p) t g then s else
  let tile := (tKt g, tNt g, (descOf s p t g (tWdesc g)).e0 + 1)
  (targetCores (s.part p) g).foldl (fun s c => s.modCore (Fin.ofNat 64 c.1) (fun x =>
    { x with pred := { x.pred with shadow := some tile } })) s

/-- TLOAD: at rung 3 the tile becomes the layer's bench tile and nothing is loaded (Table 10-5). -/
def tloadRun (s : State) (p : Fin 16) (t : StreamTag) (g : Granule) : Effect :=
  if atRung3 (s.part p) t g then Effect.done (setBenchTile s p g)
  else
    let r := tloadWork s p t g
    { state := r.1, traps := r.2, wait := .none }

def tloadCmd : StreamCmd :=
  { matches_ := fun g => cOpcode g = 0x20, reads := fun g => [tWdesc g], writes := fun _ => [], check := tloadCheck,
    hold := fun _ _ _ _ => false, atIssue := fun s p t g => atRung3 (s.part p) t g, predict := predictTile,
    blocked := fun s p t g n => !atRung3 (s.part p) t g && feBehind (s.stream p t) n,
    run := fun s p t g _ => tloadRun s p t g }

/-- TLOAD. -/
def execTload (p : Fin 16) (t : StreamTag) (s : State) : Host.Outcome State Fault Refusal := .next (issue tloadCmd p t s)

/-! ### Skipping (R150, R151) -/

/-- The planes of a block that its lane visits, in ascending order with their weights (R114, R150, R151): every plane with
skipping off; with skipping on the top ones go by sign extension where signed, and every plane that is 0 in all codes. -/
def visitedPlanes (skip signed : Bool) (bits : Nat) (codes : List Nat) : List (Nat × Int) :=
  let fits := fun (w : Nat) => codes.all (fun c =>
    decide (-(2 ^ (w - 1) : Int) ≤ signedOf bits c) && decide (signedOf bits c < 2 ^ (w - 1)))
  let top := if skip && signed then ((List.range' 1 bits).find? fits).getD bits else bits
  ((List.range top).filter (fun j => !skip || codes.any (fun c => c.testBit j))).map (fun j =>
    (j, if signed && j + 1 = top then -(2 ^ j : Int) else 2 ^ j))

/-- The planes of a lane's wave: none where its block takes no lookup with skipping on, all where skipping is off. -/
def lanePlanes (skip signed : Bool) (bits : Nat) (codes : Option (List Nat)) : List (Nat × Int) :=
  match codes with
  | some cs => visitedPlanes skip signed bits cs
  | none => if skip then [] else visitedPlanes false signed bits []

/-- Lookup cycles of a lane on a wave (Table 6-5). -/
def laneCycles (planes : List (Nat × Int)) : Nat := (planes.length + 1) / 2

/-- Add the visits of the 32 lanes of one wave of `bits` planes to the FE's counts (Table 6-11). -/
def countLanes (w : Work) (bits : Nat) (lanes : List (List (Nat × Int))) : Op Unit := do
  let look := (lanes.map laneCycles).sum
  let skipped := (lanes.map (fun l => bits - l.length)).sum
  w.count 1 0x20 0x0C 2 look
  w.count 1 0x28 0x0C 3 skipped
  w.count 1 0x30 0x0C 4 (lanes.filter List.isEmpty).length
  w.event 0x10 look
  w.event 0x11 skipped

/-! ### Lanes running ahead (R159, R164) -/

/-- The lanes' clock in core cycles: when each finished its last wave, the last five waves taken (newest first), when the last
wave arrived, and when its promotion was written. -/
structure LaneClock where
  done : List Nat
  takes : List Nat
  arrived : Nat
  promoted : Nat
  deriving DecidableEq, Repr

/-- Wave 0 arrives in cycle 1. -/
def LaneClock.start : LaneClock := { done := List.replicate 32 1, takes := [], arrived := 1, promoted := 0 }

/-- One wave through the lanes (R159): the clock after it, and the cycles it adds in which a lane waited on a full output
queue, and in which a lane waited for its wave. -/
def LaneClock.wave (k : LaneClock) (arrive : Nat) (cs : List Nat) : LaneClock × Nat × Nat :=
  let take := fun (i : Nat) => k.takes.getD i 0
  let first := k.done.foldl min (k.done.headD 0)
  let done := List.zipWith (fun d c => max d (max (take 3) arrive) + c) k.done cs
  ({ k with done := done, takes := (max (take 0 + 1) (done.foldl max 0) :: k.takes).take 5, arrived := arrive },
   take 3 - max first (take 4), arrive - max first k.arrived)

/-- Cycles until the next wave arrives: one from the core store; from device memory at least its bytes through the mesh
port, and free beyond that (R164). -/
def waveGap (d : Desc) (w late : Nat) : Nat :=
  if d.space then 1
  else if d.fmt = .a4 then (9 * (w + 1) + 7) / 8 - (9 * w + 7) / 8 + late
  else (17 * (w + 1) + 7) / 8 - (17 * w + 7) / 8 + late

/-- A wave passes the lanes: their clock, the counts of Table 6-11, the waits of LANE_STALL and READER_WAIT. -/
def passWave (w : Work) (d : Desc) (i bits : Nat) (lanes : List (List (Nat × Int))) (k : LaneClock) : Op LaneClock := do
  let s ← Op.get
  let gap := if i = 0 then 0 else waveGap d (i - 1) (Config.waitCycles s.freeCount)
  if i ≠ 0 && !d.space then Op.mod (fun s => { s with freeCount := s.freeCount + 1 })
  let r := k.wave (k.arrived + gap) (lanes.map laneCycles)
  countLanes w bits lanes
  w.count 1 0x38 0x0C 5 r.2.1
  w.event 0x12 r.2.1
  w.count 1 0x40 0x0C 6 r.2.2
  pure r.1

/-- A run leaves the merge and is promoted once its crust row is present: cycles of waiting count (R161, FE_CRUST_WAIT). -/
def promoteAt (w : Work) (row : Option Nat) (k : LaneClock) : Op LaneClock := do
  let ready := max (k.takes.headD 0 + 12) (k.promoted + 1)
  let at_ := max ready (row.getD 0)
  w.count 1 0x48 0x0C 7 (at_ - ready)
  w.event 0x13 (at_ - ready)
  pure { k with promoted := at_ }

/-! ### Waves and runs (R132, R148 to R160) -/

/-- What a band's activation block presents. -/
inductive BandIn where
  | none
  | const (v : Num)
  | live (codes : List Nat) (s : Rat)
  deriving DecidableEq, Repr

/-- The codes that a band presents to the lanes. -/
def BandIn.codes : BandIn → Option (List Nat)
  | .live cs _ => some cs
  | _ => Option.none

/-- The block of band b of a token row; none beyond the K extent. -/
def readBand (w : Work) (d : Desc) (kt b : Nat) (r : Nat × Nat × Nat) : Op (Option RawBlock) := do
  let jb := 32 * kt + b
  if d.blocks ≤ jb then pure none else do
    let bs ← readHeld w.c d jb 1 r
    pure bs.head?

/-- What a band's block presents: masked channels and elements beyond the extent are code 0 (R148, R155, R501). -/
def bandIn (d : Desc) (kt b : Nat) (mask : List Nat) (raw : Option RawBlock) : Except Nans BandIn :=
  match raw with
  | none => .ok .none
  | some raw =>
    (wholeAt b (decodeScale d.asym raw.scale)).bind (fun sc =>
      match sc with
      | .zero => .ok .none
      | .const => (wholeAt b (channelConst raw.bytes)).map BandIn.const
      | .val s => (blockCodes d.fmt raw.bytes).map (fun codes => .live (codes.zipIdx.map (fun e =>
          if 32 * (32 * kt + b) + e.2 ≤ d.e0 ∧ !mask.contains (32 * b + e.2) then e.1 else 0)) s))

/-- The index of row r of a band for plane j: bit i is bit j of the code of K index 4r + i (R148). -/
def rowIndex (codes : List Nat) (r j : Nat) : Nat :=
  ((List.range 4).map (fun i => if (codes.getD (4 * r + i) 0).testBit j then 2 ^ i else 0)).sum

/-- The band accumulators hold 18 bits (R149). -/
def wrap18 (v : Int) : Int := signedOf 18 (v % (2 ^ 18 : Nat)).toNat

/-- One lookup cycle of a lane in a column: every cell reads its table at the indices of one or two planes through its two
ports, and the lane's eight cells add into its accumulator (R149). -/
def laneCycle (x : FeTile) (b c : Nat) (codes : List Nat) (acc : Int) (planes : List (Nat × Int)) : Int :=
  wrap18 (acc + ((List.range 8).map (fun r =>
    (planes.map (fun j => x.entry (8 * b + r) c (rowIndex codes r j.1) * j.2)).sum)).sum)

/-- The planes of a visit, two to a cycle in ascending order (R149). -/
def planePairs : List (Nat × Int) → List (List (Nat × Int))
  | a :: b :: rest => [a, b] :: planePairs rest
  | [a] => [[a]]
  | [] => []

/-- The band accumulator of lane b and column c after its last plane pair: the sum of weight times code (R149). -/
def bandAcc (x : FeTile) (b c : Nat) (planes : List (Nat × Int)) (codes : List Nat) : Int :=
  (planePairs planes).foldl (laneCycle x b c codes) 0

/-- The scale of band b, column n; none for ZERO. -/
def FeTile.scale (x : FeTile) (b n : Nat) : Option Rat :=
  let c := Sparse.get 0 x.bank.scales (b * 256 + n)
  if c = 0 then Option.none else some (scaleRat c)

/-- The 40-bit narrow run adder (R132): bands rounded to the grid of the largest exponent. -/
def narrowRun (vs : List Rat) : Rat :=
  match vs.filter (fun v => decide (v ≠ 0)) with
  | [] => 0
  | v :: rest =>
    let e := rest.foldl (fun m v => max m (floorLog2 (ratAbs v))) (floorLog2 (ratAbs v))
    let unit := pow2 (e - 32)
    (((v :: rest).map (fun v => roundInt .nearestEven (v / unit))).sum : Int) * unit

/-- The constant-channel term of a column from the band column sums and weight scales (R156, R256): a band of scale ZERO adds
nothing; an error stands at its band. -/
def constTerm (x : FeTile) (n : Nat) (bands : List BandIn) : Except Nans Num :=
  bands.zipIdx.foldl (fun acc e =>
    match e.1, x.scale e.2 n with
    | .const v, some sw => acc.bind (fun a => wholeAt e.2
        ((v.mul (Num.ofRat (((Sparse.get 0 x.bank.sums (256 * e.2 + n) : Int) : Rat) * sw))).bind a.add))
    | _, _ => acc) (.ok Num.zero)

/-- The column merge: the run of column n before its crust products, the correction subtracted from every band's
accumulator (R132, R153, R160). -/
def columnRun (x : FeTile) (signed : Bool) (bands : List (BandIn × List (Nat × Int))) (n : Nat) : Except Nans Num :=
  let vs := bands.zipIdx.filterMap (fun e =>
    match e.1.1, x.scale e.2 n with
    | .live codes s, some sw =>
      let z := if signed then 0 else Sparse.get 0 x.bank.corr (256 * e.2 + n)
      some (((bandAcc x e.2 n e.1.2 codes - z : Int) : Rat) * sw * s)
    | _, _ => none)
  (constTerm x n (bands.map (fun e => e.1))).bind (fun k => wholeAt 0 ((Num.ofRat (narrowRun vs)).add k))

/-! ### An FMAT begins (R145, R146, R153, R154) -/

/-- The shadow tables become active, if a TLOAD has filled them; the old bank drains while an earlier FMAT is still in the
engine (R145, R146). -/
def swapTile (n : Nat) (busy : Bool) (x : Core) : Core :=
  if x.shadow.valid then
    { x with active := x.shadow, shadow := { x.shadow with valid := false },
             draining := if busy && x.active.valid then some (n, x.active.bank) else none }
  else x

/-- K indices of the tile that a crust list masks (R154); channels count from the core's first channel. -/
def maskOf (c : Ctx) (d : Desc) (kt : Nat) (crust : List Nat) : List Nat :=
  let lo := ofs0 c d + 1024 * kt
  (crust.filter (fun ch => decide (lo ≤ ch) && decide (ch < lo + 1024))).map (fun ch => ch - lo)

/-- The band column sums less the weights of the masked channels, each read from its cell's entry T[2^i] (R154). -/
def maskedSums (x : FeTile) (mask : List Nat) : Sparse Int :=
  mask.dedup.foldl (fun m k => (List.range 256).foldl (fun m c =>
    Sparse.modify 0 m (256 * (k / 32) + c) (fun v => v - x.entry (k / 4) c (2 ^ (k % 4)))) m) (columnSums x 32)

/-- The correction wave: z(b, c) of every band and column (R153). -/
def corrections (x : FeTile) (zps : List Nat) (lanes : List (List (Nat × Int))) : Sparse Int :=
  lanes.zipIdx.flatMap (fun e => (List.range 256).filterMap (fun c =>
    let z := bandAcc x e.2 c e.1 ((zps.drop (32 * e.2)).take 32)
    if z = 0 then none else some (256 * e.2 + c, z)))

/-- Change the bank of the active tile. -/
def modBank (f : FeTile → FeBank) (x : Core) : Core := { x with active := { x.active with bank := f x.active } }

/-- An FMAT begins at one core: the swap, the mask of its crust list, the column sums, and the zero points of its tile less
those of masked channels, which its correction wave presents (R145, R152 to R154). -/
def fmatBegin (w : Work) (n : Nat) (busy : Bool) (d : Desc) (cd : Option Desc) : Op Unit := do
  w.modCore (swapTile n busy)
  let x ← w.getCore
  let at_ := fun {α : Type} (m : Op α) => Op.at 1 w.c.nn [x.active.kt, x.active.nt, 0, 0] m
  let list ← (match cd with
    | some cd => at_ (readCrust w.c cd)
    | none => pure [])
  let mask := maskOf w.c d x.active.kt list
  w.modCore (fun x => modBank (fun a => { a.bank with sums := maskedSums a mask, corr := [] })
    { x with mask := mask, maskValid := cd.isSome })

/-- The zero points that the correction wave presents: those of masked channels are 0 (R152). -/
def waveZps (w : Work) (d : Desc) : Op (List Nat) := do
  let x ← w.getCore
  let zps ← Op.at 1 w.c.nn [x.active.kt, x.active.nt, 0, 0] (readZps w.c d (32 * x.active.kt) 32)
  pure (zps.zipIdx.map (fun e => if x.mask.contains e.2 then 0 else e.1))

/-- The correction wave of an asymmetric FMAT (R153): its result stands in the active bank. -/
def corrWave (w : Work) (d : Desc) (skip : Bool) (k : LaneClock) : Op LaneClock := do
  let zps ← waveZps w d
  let lanes := (List.range 32).map (fun b => visitedPlanes skip false 8 ((List.range 32).map (fun i => zps.getD (32 * b + i) 0)))
  let k ← passWave w d 0 8 lanes k
  w.count 1 0x18 0x0C 1 1
  w.modCore (modBank (fun a => { a.bank with corr := corrections a zps lanes }))
  pure k

/-- A token wave: the reader, the lanes, the merge of the 256 columns (R148, R160). -/
def tokenWave (w : Work) (d : Desc) (skip : Bool) (i tok : Nat) (k : LaneClock) : Op (List Num × LaneClock) := do
  let x ← w.getCore
  let a := x.active
  let tile := fun (b : Nat) => [a.kt, a.nt, tok, b]
  let raws ← Op.map (List.range 32) (fun b => Op.at 1 w.c.nn (tile b) (readBand w d a.kt b (d.rowIdx tok)))
  let bands ← Op.atElem 1 w.c.nn tile (Op.nanAt 0 (together (raws.zipIdx.map (fun e => bandIn d a.kt e.2 x.mask e.1))))
  let bits := crumbWidth d.fmt
  let lanes := bands.map (fun b => lanePlanes skip d.signed bits b.codes)
  let k ← passWave w d i bits lanes k
  let runs ← Op.atElem 1 w.c.nn tile (Op.nanAt 0 (together ((List.range 256).map (columnRun a d.signed (bands.zip lanes)))))
  pure (runs, k)

/-- The waves of an FMAT that has begun at one core, each promoted with its crust row: `rows` gives the row of a token and
the cycle in which it is pushed (R157, R162). -/
def fmatWaves (w : Work) (d : Desc) (rows : Nat → Op (List Num × Option Nat)) : Op Unit := do
  let s ← Op.get
  let skip := (s.part w.c.p).job.skip
  let k ← (if d.asym then corrWave w d skip LaneClock.start else pure LaneClock.start)
  let _ ← Op.fold (fun k j => do
    let tok := fTok0 w.g + j
    let r ← tokenWave w d skip (if d.asym then j + 1 else j) tok k
    let row ← rows j
    let x ← w.getCore
    let tile := [x.active.kt, x.active.nt, tok, 0]
    let k ← promoteAt w row.2 r.2
    let runs ← Op.at 1 w.c.nn tile (Op.nanAt 0 (together ((List.range 256).map (fun n =>
      wholeAt 0 ((r.1.getD n Num.zero).add (row.1.getD n Num.zero))))))
    let key := amKey 0 (fAmrow w.g + j)
    if cOF w.g 1 then emptyRow w key
    promote w 1 tile key { kind := .fmat, value := x.active.kt } runs
    w.count 1 0x10 0x0C 0 1
    pure k) k (List.range (fNtok w.g + 1))
  pure ()

end Sys2Proof.Machine
end

