-- ==== Sys2Proof/Machine/Bench.lean ====
section
/-! DEFINITION. The bench unit (R234 to R240): BMAT, the crust path, FMAT with its pairing (R157, R158) and the products of
a layer at rung 3 (Table 10-5). -/

namespace Sys2Proof.Machine

/-! ### Operand fields of BMAT (Table 3-6) -/

def mAdesc (g : Granule) : Nat := field g 111 96
def mBdesc (g : Granule) : Nat := field g 95 80
def mTok0 (g : Granule) : Nat := field g 79 64
def mAmrow (g : Granule) : Nat := field g 63 54
def mNtok (g : Granule) : Nat := field g 53 44
def mAmsel (g : Granule) : Nat := field g 43 42
def mK0 (g : Granule) : Nat := field g 41 30
def mKcnt (g : Granule) : Nat := field g 29 18
def mCdesc (g : Granule) : Nat := field g 15 0

/-! ### The product (R133, R234 to R236) -/

/-- A product for the bench: rows, AM rows, contraction units, and the first column of the right operand. -/
structure BenchJob where
  am : Nat
  amrow : Nat
  tok0 : Nat
  ntok : Nat
  k0 : Nat
  kcnt : Nat
  nofs : Nat
  init : Bool
  fp32 : Bool

/-- The exact run of two operands (R133). -/
def exactRun (a b : List Num) : Except TrapKind Num :=
  (a.zip b).foldl (fun acc e => acc.bind (fun x => (e.1.mul e.2).bind x.add)) (.ok Num.zero)

/-- Elements of K units j .. j + n - 1 of a row. -/
def readUnits (c : Ctx) (d : Desc) (j n : Nat) (r : Nat × Nat × Nat) : Op (List Num) := readValues c d j n r

/-- One block of 64 columns from `lo` and up to two K units from `j`, for every token (R236): each token's runs are
promoted in ascending K. A column beyond the N extent receives +0. -/
def benchBlock (w : Work) (ad bd : Desc) (b : BenchJob) (lo j n bi : Nat) : Op Unit := do
  let cols ← Op.map (List.range 64) (fun i =>
    let col := b.nofs + lo + i
    if col ≤ bd.e1 then (do
      let v ← Op.at 4 w.c.nn [bi, b.tok0, 0, 0] (readUnits w.c bd j n (col, 0, 0))
      pure (some v)) else pure none)
  Op.each (List.range (b.ntok + 1)) (fun i => do
    let tok := b.tok0 + i
    let at_ := fun {α : Type} (m : Op α) => Op.at 4 w.c.nn [bi, tok, 0, 0] m
    let a ← at_ (readUnits w.c ad j n (ad.rowIdx tok))
    let k := amKey b.am (b.amrow + i)
    if b.init && decide (bi = 0) then emptyRow w k
    Op.each (List.range (2 * n)) (fun r => do
      let part := fun (l : List Num) => (l.drop (16 * r)).take 16
      let runs ← at_ (Op.nanAt 0 (together (cols.map (fun c => match c with
        | some v => wholeAt 0 (exactRun (part a) (part v))
        | none => .ok Num.zero))))
      promoteCols w 4 [bi, tok, 0, 0] k { kind := .bmat, value := b.k0 + b.kcnt } lo runs)
    w.count 3 0x10 0x04 0 (2048 * n)
    w.event 0x30 (2048 * n))

/-- A product at one core: column groups of 64 outermost, K ascending within each (R236). -/
def benchCore (w : Work) (ad bd : Desc) (b : BenchJob) : Op Unit := do
  let nb := (b.kcnt + 2) / 2
  if !ad.space || !bd.space then w.waits 3 0x28 0x04 3
  Op.each (List.range 4) (fun cg => Op.each (List.range nb) (fun kb =>
    benchBlock w ad bd b (64 * cg) (b.k0 + 2 * kb) (min 2 (b.kcnt + 1 - 2 * kb)) (cg * nb + kb)))

/-! ### Crust sums (R238) -/

/-- The exact crust sums of token row `tok` for the 256 columns of a tile: entries whose channel lies in its K range. -/
def crustRow (w : Work) (ad bd : Desc) (list : List Nat) (kt nt tok : Nat) : Op (List Num) := do
  let at_ := fun {α : Type} (m : Op α) => Op.at 4 w.c.nn [0, tok, 0, 0] m
  let vals ← at_ (readValues w.c ad 0 2 (ad.rowIdx tok))
  let inTile := list.zipIdx.filter (fun e =>
    decide (ofs0 w.c bd + 1024 * kt ≤ e.1) && decide (e.1 < ofs0 w.c bd + 1024 * kt + 1024))
  let rows ← Op.map (List.range 256) (fun c =>
    let n := 256 * nt + c
    if bd.e1 < n then pure Num.zero else
    Op.fold (fun acc e => do
      let k := e.1 - ofs0 w.c bd
      let ws ← at_ (readValues w.c bd (k / 32) 1 (n, 0, 0))
      at_ (Op.nan (((vals.getD e.2 Num.zero).mul (ws.getD (k % 32) Num.zero)).bind acc.add))) Num.zero inTile)
  w.count 3 0x18 0x04 1 1
  w.count 3 0x10 0x04 0 16384
  w.event 0x30 16384
  pure rows

/-! ### Checks -/

/-- Formats of the left operand in BF16 mode (Table 9-3). -/
def benchLeft (f : Fmt) : Bool := [Fmt.bf16, .fp16, .e4m3, .e5m2, .int8, .a8, .a4].contains f

/-- Formats of the right operand in BF16 mode (Table 9-3). -/
def benchRight (f : Fmt) : Bool := [Fmt.bf16, .fp16, .e4m3, .e5m2, .int8, .w1, .wt, .w2].contains f

/-- The role of a right operand: only narrow weights may be interleaved. -/
def rightRole (d : Desc) : Role := if d.fmt.narrow then .weights else .source

/-- Token rows TOK0 to TOK0 + n lie among the descriptor's rows (R74). -/
def tokensOk (d : Desc) (tok0 n : Nat) : Bool := decide (tok0 + n < d.rows)

/-- Checks of a crust list that is read (R284). -/
def crustListChecks (s : State) (p : Fin 16) (d : Desc) : List Nat :=
  failIf 5 (!d.fmt.isAct || (decide (d.abase ≠ 0) && !auxStridesOk d)) ++
  failIf 6 (decide (d.abase ≠ 0) && !auxHeaderOk (s.part p).mem d)

/-- Checks of a CDESC: those of every descriptor, and those of its list. -/
def cdescChecks (s : State) (p : Fin 16) (d : Desc) : List Nat := descChecks s p .crust d ++ crustListChecks s p d

/-- The FMAT with CRUST that waits for its pair. -/
def waitingFmat (s : State) (p : Fin 16) : Option Flight :=
  match (s.part p).crustWait with
  | some n => (s.stream p .F).flight.find? (fun f => f.seq = n)
  | none => none

/-- KT of the tile of the FMAT with CRUST last issued. DESIGN CHOICE (assumption 73): where the cores of its rectangle hold
different tiles, the first core's counts. -/
def pairKt (s : State) (p : Fin 16) (g : Granule) : Nat :=
  match targetCores (s.part p) g with
  | c :: _ => ((s.core (Fin.ofNat 64 c.1)).pred.pair.getD (0, 0, 0)).1
  | [] => 0

/-- Table 6-6 at the issue of a crust BMAT. -/
def pairOk (s : State) (p : Fin 16) (g : Granule) : Bool :=
  match waitingFmat s p with
  | none => false
  | some f =>
    let kt := pairKt s p f.word
    fAmrow f.word = mAmrow g && fNtok f.word = mNtok g && fCdesc f.word = mCdesc g &&
      decide (32 * kt ≤ mK0 g) && decide (mK0 g + mKcnt g ≤ 32 * kt + 31)

/-- A BMAT that gives crust sums to an FMAT (R158). -/
def isCrustBmat (g : Granule) : Bool := cOpcode g = 0x24 && cOF g 2 && decide (mAmsel g = 0)

/-- Checks of BMAT; at rung 3 a crust BMAT has no effect and its list is not read (Table 10-5). -/
def bmatCheck (s : State) (p : Fin 16) (t : StreamTag) (g : Granule) : List Nat :=
  let ad := descOf s p t g (mAdesc g)
  let bd := descOf s p t g (mBdesc g)
  let none3 := cOF g 2 && atRung3 (s.part p) t g
  let fmts := if cOF g 2 then decide (ad.fmt = .bf16) && bd.fmt.narrow
    else if cOF g 0 then decide (ad.fmt = .fp32) && decide (bd.fmt = .fp32)
    else benchLeft ad.fmt && benchRight bd.fmt
  let pairing := isCrustBmat g && !none3 && !pairOk s p g
  failIf 3 (decide (1023 < mAmrow g + mNtok g) || pairing) ++ failIf 5 (!none3 && !fmts) ++
  (if none3 then [] else descChecks s p .source ad ++ descChecks s p (rightRole bd) bd ++
    failIf 6 (!tokensOk ad (mTok0 g) (mNtok g))) ++
  (if none3 then [] else if cOF g 2 then cdescChecks s p (descOf s p t g (mCdesc g))
   else failIf 9 (!orderOk s (targetCores (s.part p) g) (amKeys (mAmsel g) (mAmrow g) (mNtok g)) (cOF g 1) .bmat (mK0 g)))

/-- The layer's bench tile (Table 10-5). -/
def benchTile (s : State) (p : Fin 16) (g : Granule) : Option (Nat × Nat × Nat) :=
  match laddered (s.part p) g with
  | some l => (layerGet (s.part p) l).bench
  | none => none

/-- The tile an FMAT will compute on at one core, at issue. -/
def TilePred.next (x : TilePred) : Option (Nat × Nat × Nat) := x.shadow <|> x.active

/-- Checks of an FMAT on the forward engine. -/
def fmatCheckFe (s : State) (p : Fin 16) (t : StreamTag) (g : Granule) : List Nat :=
  let d := descOf s p t g (fAdesc g)
  let cores := targetCores (s.part p) g
  let tiles := cores.map (fun c => (s.core (Fin.ofNat 64 c.1)).pred.next)
  let keys := amKeys 0 (fAmrow g) (fNtok g)
  failIf 5 (!d.fmt.isAct || tiles.any (fun x => match x with
    | some e => decide (e.2.2 ≠ d.e0 + 1)
    | none => false)) ++
  descChecks s p .source d ++ failIf 6 (!tokensOk d (fTok0 g) (fNtok g)) ++
  (if cOF g 0 then cdescChecks s p (descOf s p t g (fCdesc g)) else []) ++
  failIf 9 (tiles.any Option.isNone || (cOF g 0 && (s.part p).crustWait.isSome) ||
    (cores.zip tiles).any (fun e => match e.2 with
      | some x => !orderOk s [e.1] keys (cOF g 1) .fmat x.1
      | none => false))

/-- Checks of an FMAT at rung 3: those of its product on the bench. -/
def fmatCheckBench (s : State) (p : Fin 16) (t : StreamTag) (g : Granule) : List Nat :=
  let ad := descOf s p t g (fAdesc g)
  match benchTile s p g with
  | none => [9]
  | some (wd, kt, _) =>
    let bd := descOf s p t g wd
    failIf 5 (!(benchLeft ad.fmt && benchRight bd.fmt)) ++ descChecks s p .source ad ++
    descChecks s p (rightRole bd) bd ++ failIf 6 (!tokensOk ad (fTok0 g) (fNtok g)) ++
    failIf 9 (!orderOk s (targetCores (s.part p) g) (amKeys 0 (fAmrow g) (fNtok g)) (cOF g 1) .bmat (32 * kt))

/-- Checks of FMAT. -/
def fmatCheck (s : State) (p : Fin 16) (t : StreamTag) (g : Granule) : List Nat :=
  failIf 3 (decide (1023 < fAmrow g + fNtok g)) ++
  (if atRung3 (s.part p) t g then fmatCheckBench s p t g else fmatCheckFe s p t g)

/-! ### Products on the bench -/

/-- The product that carries out an FMAT at rung 3 (Table 10-5). -/
def fmatJob (g : Granule) (kt nt : Nat) : BenchJob :=
  { am := 0, amrow := fAmrow g, tok0 := fTok0 g, ntok := fNtok g, k0 := 32 * kt, kcnt := 31, nofs := 256 * nt,
    init := cOF g 1, fp32 := false }

/-- The work of an FMAT at rung 3. -/
def fmatBench (s : State) (p : Fin 16) (t : StreamTag) (g : Granule) : State × List Trap :=
  match benchTile s p g with
  | some (wd, kt, nt) =>
    onCoresOf s p t g (fun w => benchCore w (descOf s p t g (fAdesc g)) (descOf s p t g wd) (fmatJob g kt nt))
  | none => (s, [])

/-- The product of a BMAT with OF2 = 0. -/
def bmatJob (g : Granule) : BenchJob :=
  { am := mAmsel g, amrow := mAmrow g, tok0 := mTok0 g, ntok := mNtok g, k0 := mK0 g, kcnt := mKcnt g, nofs := 0,
    init := cOF g 1, fp32 := cOF g 0 }

/-- The work of a BMAT with OF2 = 0. -/
def bmatWork (s : State) (p : Fin 16) (t : StreamTag) (g : Granule) : State × List Trap :=
  onCoresOf s p t g (fun w => benchCore w (descOf s p t g (mAdesc g)) (descOf s p t g (mBdesc g)) (bmatJob g))

/-! ### What stands in front of a command (R76, R157, R240) -/

/-- Flight n, whose command is g, stands behind one that has still to act on some of its AM rows (R76). -/
def rowsBehind (q : Stream) (n : Nat) (g : Granule) : Bool :=
  (ahead q n).any (fun f => (f.wait = .crust || f.wait = .behind) && rowsMeet f.word g)

/-- A bench command of the stream in front of flight n has not acted, or stands at a full crust queue (R240). -/
def benchBehind (s : State) (p : Fin 16) (t : StreamTag) (n : Nat) : Bool :=
  (ahead (s.stream p t) n).any (fun f => f.waiting && (cOpcode f.word = 0x24 ||
    ((cOpcode f.word = 0x21 || cOpcode f.word = 0x22) && atRung3 (s.part p) t f.word)))

/-! ### The crust pair (R157, R158) -/

/-- Rows of the crust queue (R157). -/
def crustRows : Nat := 64

/-- The bench pushes a row. -/
def pushRow (w : Work) (row : List Num) : Op Unit := w.modCore (fun x => { x with crustQ := x.crustQ ++ [row] })

/-- Promotion takes the oldest row. -/
def takeRow (w : Work) : Op (Option (List Num)) := do
  let x ← w.getCore
  w.modCore (fun x => { x with crustQ := x.crustQ.tail })
  pure x.crustQ.head?

/-- The crust sums of token j of a crust BMAT, for the tile of its FMAT. -/
def bmatRow (s : State) (p : Fin 16) (t : StreamTag) (g : Granule) (w : Work) (tile : Nat × Nat) (j : Nat) : Op (List Num) := do
  let list ← Op.at 4 w.c.nn [0, mTok0 g + j, 0, 0] (readCrust w.c (descOf s p t g (mCdesc g)))
  crustRow { w with g := g } (descOf s p t g (mAdesc g)) (descOf s p t g (mBdesc g)) list tile.1 tile.2 (mTok0 g + j)

/-- The rows that an FMAT's promotion takes: those in the queue, then those that the bench pushes as it goes, one each 4 core
cycles from a free start (R157, R239). -/
def pairRow (s : State) (p : Fin 16) (t : StreamTag) (bg : Option Granule) (w : Work) (j : Nat) :
    Op (List Num × Option Nat) := do
  let x ← w.getCore
  match x.crustQ, bg with
  | [], some g => do
    let row ← bmatRow s p t g w (x.active.kt, x.active.nt) j
    pushRow w row
    let r ← takeRow w
    pure (r.getD [], some (Config.waitCycles s.freeCount + 4 * (j + 1)))
  | _, _ => do
    let r ← takeRow w
    pure (r.getD [], none)

/-- The waves of an FMAT at every core that has begun it, with its crust rows where it carries CRUST. -/
def fmatGo (s : State) (p : Fin 16) (t : StreamTag) (g : Granule) (bg : Option Granule) (bad : List Nat := []) :
    State × List Trap :=
  let r := onCoresOf s p t g (fun w => if bad.contains w.c.nn then pure () else fmatWaves w (descOf s p t g (fAdesc g))
    (fun j => if cOF g 0 then pairRow s p t bg w j else pure ([], none)))
  ({ r.1 with freeCount := r.1.freeCount + 1 }, r.2)

/-- The FMAT with CRUST before flight n, which a crust BMAT of that number serves. -/
def fmatOf (q : Stream) (n : Nat) : Option Flight :=
  (ahead q n).reverse.find? (fun f => cOpcode f.word = 0x21 && cOF f.word 0)

/-- The crust BMAT after flight n that still has rows to push. -/
def bmatOf (q : Stream) (n : Nat) : Option Flight :=
  q.flight.find? (fun f => decide (n < f.seq) && !f.done && isCrustBmat f.word && f.waiting)

/-- What the two commands of a crust pair meet: stops of the bench are the BMAT's, the others the FMAT's. -/
def benchTraps (es : List Trap) : List Trap := es.filter (fun e => decide (e.unit = 4))
def fmatTraps (es : List Trap) : List Trap := es.filter (fun e => decide (e.unit ≠ 4))

/-- A crust BMAT whose FMAT has begun: the bench pushes each token's row and promotion takes it (R157). DESIGN CHOICE
(assumption 73): both act on the FMAT's rectangle. A stop of the bench leaves the FMAT waiting for rows. -/
def runPair (s : State) (p : Fin 16) (t : StreamTag) (g : Granule) (f : Flight) : Effect :=
  let r := fmatGo s p t f.word (some g)
  let fe := fmatTraps r.2
  let s := if fe = [] && benchTraps r.2 ≠ [] then r.1 else trapFlight r.1 p t f fe
  { state := s, traps := benchTraps r.2, wait := .none }

/-- A crust BMAT whose FMAT has not begun pushes rows until the queue is full (R157, R240). -/
def pushRows (s : State) (p : Fin 16) (t : StreamTag) (g : Granule) (f : Flight) : Effect :=
  let held := match targetCores (s.part p) f.word with
    | c :: _ => (s.core (Fin.ofNat 64 c.1)).crustQ.length
    | [] => 0
  let k := min (mNtok g + 1) (crustRows - held)
  let r := onTargets (targetCores (s.part p) f.word) (fun c => do
    let w := workOf s p t f.word c
    let x ← w.getCore
    let tile := x.pred.pair.getD (0, 0, 0)
    Op.each (List.range k) (fun j => do
      let row ← bmatRow s p t g w (tile.1, tile.2.1) j
      pushRow w row)
    if k < mNtok g + 1 then w.waits 3 0x20 0x04 2) s
  { state := r.1, traps := r.2, wait := if k = mNtok g + 1 then .none else .push k }

/-- A crust BMAT (R157, R158). -/
def crustBmat (s : State) (p : Fin 16) (t : StreamTag) (g : Granule) (n : Nat) : Effect :=
  match fmatOf (s.stream p t) n with
  | some f => if f.wait = .crust then runPair s p t g f else pushRows s p t g f
  | none => Effect.done s

/-- BMAT: crust sums for its FMAT, or a product into AM rows; at rung 3 a crust BMAT has no effect, and one for AM 1 has no
FMAT. -/
def bmatRun (s : State) (p : Fin 16) (t : StreamTag) (g : Granule) (n : Nat) : Effect :=
  if cOF g 2 then
    if atRung3 (s.part p) t g || decide (mAmsel g ≠ 0) then Effect.done s else crustBmat s p t g n
  else
    let r := bmatWork s p t g
    { state := r.1, traps := r.2, wait := .none }

/-- What later checks find after a BMAT: its FMAT's pairing is done, or its rows' records. -/
def predictBmat (s : State) (p : Fin 16) (t : StreamTag) (g : Granule) : State :=
  if cOF g 2 then
    if isCrustBmat g && !atRung3 (s.part p) t g then s.modPart p (fun x => { x with crustWait := none }) else s
  else predictRows s (targetCores (s.part p) g) (amKeys (mAmsel g) (mAmrow g) (mNtok g))
    { kind := .bmat, value := mK0 g + mKcnt g }

def bmatCmd : StreamCmd :=
  { matches_ := fun g => cOpcode g = 0x24, reads := fun g => [mAdesc g, mBdesc g] ++ (if cOF g 2 then [mCdesc g] else []),
    writes := fun _ => [], check := bmatCheck, hold := fun _ _ _ _ => false,
    atIssue := fun s p t g => cOF g 2 && atRung3 (s.part p) t g, predict := predictBmat,
    blocked := fun s p t g n => !(cOF g 2 && atRung3 (s.part p) t g) && (benchBehind s p t n || rowsBehind (s.stream p t) n g),
    run := bmatRun }

/-! ### FMAT -/

/-- What later checks find after an FMAT (R67, R158): its rows' records, its tile, and its wait for a pair. -/
def predictFmat (s : State) (p : Fin 16) (t : StreamTag) (g : Granule) : State :=
  let keys := amKeys 0 (fAmrow g) (fNtok g)
  if atRung3 (s.part p) t g then
    let kt := ((benchTile s p g).getD (0, 0, 0)).2.1
    predictRows s (targetCores (s.part p) g) keys { kind := .bmat, value := 32 * kt + 31 }
  else
    let s := (targetCores (s.part p) g).foldl (fun s c =>
      let next := (s.core (Fin.ofNat 64 c.1)).pred.next
      let s := predictRows s [c] keys { kind := .fmat, value := (next.getD (0, 0, 0)).1 }
      s.modCore (Fin.ofNat 64 c.1) (fun x => { x with pred :=
        { active := next, shadow := none, pair := if cOF g 0 then next else x.pred.pair } })) s
    if cOF g 0 then s.modPart p (fun x => { x with crustWait := some (x.nextSeq - 1) }) else s

/-- An FMAT may not begin: a TLOAD or an FMAT stands in front of it, one waits for its crust rows, or its rows are not free
(R76, R145). -/
def fmatBlocked (s : State) (p : Fin 16) (t : StreamTag) (g : Granule) (n : Nat) : Bool :=
  let q := s.stream p t
  rowsBehind q n g ||
    (if atRung3 (s.part p) t g then benchBehind s p t n else feBehind q n || (ahead q n).any (fun f => f.wait = .crust))

/-- An FMAT that has begun goes on, or waits for its crust rows: its BMAT has not issued, or stands behind another (R157). -/
def fmatCarry (s : State) (p : Fin 16) (t : StreamTag) (g : Granule) (n : Nat) (bad : List Nat) : Effect :=
  let late := bmatOf (s.stream p t) n
  let first := match late with
    | some b => b.wait = .behind
    | none => false
  if cOF g 0 && ((s.part p).crustWait = some n || first) then { state := s, traps := [], wait := .crust }
  else
    let r := fmatGo s p t g (late.map Flight.word) bad
    match late with
    | some b =>
      if cOF g 0 then
        let s := if benchTraps r.2 = [] then setWait r.1 p t b.seq .none else trapFlight r.1 p t b (benchTraps r.2)
        { state := s, traps := fmatTraps r.2, wait := if benchTraps r.2 = [] then .none else .crust }
      else { state := r.1, traps := r.2, wait := .none }
    | none => { state := r.1, traps := r.2, wait := .none }

/-- FMAT: it begins at every core, then its waves follow at those where it did not stop (R449). -/
def fmatRun (s : State) (p : Fin 16) (t : StreamTag) (g : Granule) (n : Nat) : Effect :=
  if atRung3 (s.part p) t g then
    let r := fmatBench s p t g
    { state := r.1, traps := r.2, wait := .none }
  else
    let busy := (ahead (s.stream p t) n).any (fun f => cOpcode f.word = 0x21)
    let r := onCoresOf s p t g (fun w => fmatBegin w n busy (descOf s p t g (fAdesc g))
      (if cOF g 0 then some (descOf s p t g (fCdesc g)) else none))
    let e := fmatCarry r.1 p t g n (r.2.map Trap.core)
    if r.2 = [] then e else { e with traps := r.2 ++ e.traps, wait := .none }

def fmatCmd : StreamCmd :=
  { matches_ := fun g => cOpcode g = 0x21,
    reads := fun g => [fAdesc g], writes := fun _ => [],
    also := fun s p g => if atRung3 (s.part p) .F g then (match benchTile s p g with
      | some e => [e.1]
      | none => []) else if cOF g 0 then [fCdesc g] else [],
    check := fmatCheck, hold := fun _ _ _ _ => false, atIssue := fun _ _ _ _ => false, predict := predictFmat,
    blocked := fmatBlocked, run := fmatRun }

/-- FMAT. -/
def execFmat (p : Fin 16) (t : StreamTag) (s : State) : Host.Outcome State Fault Refusal := .next (issue fmatCmd p t s)

end Sys2Proof.Machine
end

