-- ==== Sys2Proof/Machine/Convert.lean ====
section
/-! DEFINITION. The conversion stage that STORE, VOP and LOAD share (R120 to R125, R211, R254 to R256), the crust record
it writes (R261, R284), the reports to a slot, and the evaluation of function tables (R229). -/

namespace Sys2Proof.Machine

/-! ### Results that became infinite (R127) -/

/-- A result of several operations: whether an operation made an infinity of finite operands, and the value or its trap. -/
structure Calc where
  inf : Bool
  res : Except TrapKind Num

/-- A value as it stands. -/
def Calc.val (x : Num) : Calc := { inf := false, res := .ok x }

/-- One operation on operands. -/
def Calc.op (operands : List Num) (r : Except TrapKind Num) : Calc :=
  { inf := (match r with
      | .ok v => v.isInf && !operands.any Num.isInf
      | .error _ => false), res := r }

/-- The operations that follow a result. -/
def Calc.andThen (x : Calc) (f : Num → Calc) : Calc :=
  match x.res with
  | .ok v => { inf := x.inf || (f v).inf, res := (f v).res }
  | .error _ => x

def addC (f : FloatFmt) (a b : Num) : Calc := Calc.op [a, b] (addR f a b)
def subC (f : FloatFmt) (a b : Num) : Calc := Calc.op [a, b] (subR f a b)
def mulC (f : FloatFmt) (a b : Num) : Calc := Calc.op [a, b] (mulR f a b)
def divC (f : FloatFmt) (a b : Num) : Calc := Calc.op [a, b] (divR f a b)
def rneC (f : FloatFmt) (a : Num) : Calc := Calc.op [a] (.ok (f.rne a))

/-- Places of the results that became infinite. -/
def infPlaces (rs : List Calc) : List Nat := (rs.zipIdx.filter (fun e => e.1.inf)).map (fun e => e.2)

/-- INF_SEEN of results formed together, at the first place. -/
def Work.infAt (w : Work) (unit : Nat) (tile : Nat → List Nat) (places : List Nat) : Op Unit :=
  match places with
  | [] => pure ()
  | i :: _ => w.inf unit (tile i)

/-- Results that a unit forms together (R127, R129). -/
def Work.form (w : Work) (unit : Nat) (tile : Nat → List Nat) (rs : List Calc) : Op (List Num) := do
  w.infAt unit tile (infPlaces rs)
  Op.atElem unit w.c.nn tile (Op.nanAt 0 (together (rs.zipIdx.map (fun e => wholeAt e.2 e.1.res))))

/-- Values that the lanes of VU form, 256 in a core cycle (R220, R233). -/
def Work.lanes (w : Work) (q : Nat) (rs : List Calc) : Op (List Num) := do
  let ys ← Op.map (chunks 256 ((rs.length + 255) / 256) rs) (w.form 5 (fun _ => [q, 0, 0, 0]))
  pure ys.flatten

/-! ### Function tables (R229) -/

/-- Evaluate a table; every operation is FP32 with one rounding. -/
def FuncTable.eval (f : FuncTable) (x : Num) : Calc :=
  let v := fFP32.value
  let m := fFP32
  (subC m x (v f.x0)).andThen (fun dx => (mulC m dx (v f.w)).andThen (fun u =>
    let tail := fun (value slope edge : Nat) =>
      if (v slope).isZero then Calc.val (v value)
      else (subC m x (v edge)).andThen (fun e => (mulC m (v slope) e).andThen (addC m (v value)))
    if u.lt Num.zero then tail f.loValue f.loSlope f.x0
    else if !u.lt (Num.ofInt 256) then tail f.hiValue f.hiSlope f.x1
    else
      let j := u.rat.floor
      let t := Num.ofRat (u.rat - j)
      let c := f.coeffs.getD j.toNat (0, 0, 0)
      (mulC m (fBF16.value c.2.2) t).andThen (fun a => (addC m a (fBF16.value c.2.1)).andThen (fun b =>
        (mulC m b t).andThen (fun e => addC m e (fBF16.value c.1))))))

/-- Table k of a partition, if it is loaded and of that kind (R229, R230). -/
def tableOf (x : Part) (k : Nat) (derivative : Bool) : Option FuncTable :=
  match Sparse.get none x.tables k with
  | some f => if f.derivative = derivative then some f else none
  | none => none

/-- The fields of an image (Table 9-2). -/
def tableFields (bs : List Byte) : FuncTable :=
  let w := fun (i : Nat) => leAt bs (4 * i) 4
  { derivative := decide (leAt bs 28 1 = 2), x0 := w 0, x1 := w 1, w := w 2, loValue := w 3, loSlope := w 4, hiValue := w 5,
    hiSlope := w 6, coeffs := (chunks 6 256 (bs.drop 64)).map (fun e => (leAt e 0 2, leAt e 2 2, leAt e 4 2)) }

/-- The image of a table. -/
def FuncTable.image (f : FuncTable) : List Byte :=
  [f.x0, f.x1, f.w, f.loValue, f.loSlope, f.hiValue, f.hiSlope].flatMap (leBytes 4) ++
  leBytes 36 (if f.derivative then 2 else 1) ++ f.coeffs.flatMap (fun c => leBytes 2 c.1 ++ leBytes 2 c.2.1 ++ leBytes 2 c.2.2)

/-- Tables of a core's cache (R232). -/
def cachedTables : Nat := 16

/-- A command takes up table k at a core (R232): one that is not in the core's cache comes from the function-table store,
decoded, after 24 core cycles. Which table a full cache gives up is free (assumption 75). -/
def useTable (w : Work) (k : Nat) (tbl : Option FuncTable) : Op (Option FuncTable) := do
  let s ← Op.get
  let x ← w.getCore
  match tbl with
  | none => pure none
  | some f =>
    if x.tblCache.contains k then pure (some f) else do
      w.count 5 0x18 0x04 1 24
      let out := if x.tblCache.length < cachedTables then cachedTables else Config.waitCycles s.freeCount % cachedTables
      w.modCore (fun x => { x with tblCache := k :: x.tblCache.eraseIdx out })
      Op.mod (fun s => { s with freeCount := s.freeCount + 1 })
      if arrayClean s arrTable w.c.p.val (50 * k) 50 then pure (some f) else do
        let bs ← readArray arrTable w.c.p.val (50 * k) f.image
        pure (some (tableFields bs))

/-! ### One block of the conversion stage -/

/-- The slot a conversion encodes under: its committed scale, and the channels of its crust list. -/
structure SlotUse where
  slot : Nat
  scale : Nat
  list : List Nat
  deriving DecidableEq, Repr

/-- What converting one block gives. -/
structure ConvBlock where
  raw : RawBlock
  sat : Nat
  under : Bool
  const : Bool
  full : Bool
  infs : List Nat              -- places of values that became infinite
  elems : List (Num × Nat)
  deriving DecidableEq, Repr

/-- The wide format of a target without a block scale, if it has infinities to become. -/
def wideFmt : Fmt → Option FloatFmt
  | .bf16 => some fBF16 | .fp16 => some fFP16 | .fp32 => some fFP32 | .w48 => some fW48 | .m40 => some fM40
  | _ => none

/-- Places of the finite values that the conversion makes infinite (R125, R127). -/
def newInfs (f : Fmt) (m : Nat → Rounding) (xs : List Num) : List Nat :=
  match wideFmt f with
  | some w => (xs.zipIdx.filter (fun e => !e.1.isInf && (w.value (w.encodeWide (m e.2) e.1)).isInf)).map (fun e => e.2)
  | none => []

/-- A block at a scale of its own (R211); `elems` is what the tracker of a slot sees of it. -/
def plainBlock (d : Desc) (m : Nat → Rounding) (sc : Nat) (zps : List Nat) (n : Nat) (xs : List Num)
    (elems : List (Num × Nat)) : Except Nans ConvBlock :=
  (encodeBlock d m sc zps n xs).map (fun b =>
    { raw := b.raw, sat := b.sat, under := b.under, const := false, full := false,
      infs := newInfs d.fmt m (xs.take n), elems := elems })

/-- The value that every one of some elements has, when it is finite and not zero (R254). -/
def commonValue : List Num → Option Num
  | [] => none
  | x :: xs => if !x.isZero && !x.isInf && xs.all (fun y => decide (y = x)) then some x else none

/-- A block under a slot (Table 10-3): `listed` names its elements in the crust list, which take part in no test. -/
def slotBlock (d : Desc) (m : Nat → Rounding) (u : SlotUse) (listed : List Nat) (zps : List Nat) (n : Nat)
    (xs : List Num) : Except Nans ConvBlock :=
  let live := (List.range n).filter (fun i => !listed.contains i)
  let vals := live.map (fun i => xs.getD i Num.zero)
  let elems := live.map (fun i => (xs.getD i Num.zero, zps.getD i 0))
  let size := d.fmt.blockBytes
  let whole := fun (sc : Nat) (bytes : List Byte) => ({ bytes := slice bytes 0 size, scale := sc } : RawBlock)
  if vals.all Num.isZero then
    .ok { raw := whole scZero [], sat := 0, under := false, const := false, full := false, infs := [], elems := elems }
  else match (if d.asym then commonValue vals else none) with
    | some c =>
      let code := fBF16.encodeWide .nearestEven c
      .ok { raw := whole scConst (leBytes 2 code), sat := 0, under := false, const := true, full := false,
            infs := if (fBF16.value code).isInf then live.take 1 else [], elems := [] }
    | none =>
      (allAt (fun i x =>
        if n ≤ i then .ok (⟨0, false⟩ : Enc)
        else if listed.contains i then .ok ⟨if d.asym then zps.getD i 0 else 0, false⟩
        else encodeElem d.fmt d.signed (m i) (scaleRat u.scale) (zps.getD i 0) x) 0 xs).map (fun es =>
          let codes := es.map Enc.code
          let sat := (es.filter Enc.sat).length
          let under := live.all (fun i => codeIsZero d.fmt d.signed (zps.getD i 0) (codes.getD i 0))
          { raw := { bytes := blockBytesOf d.fmt codes, scale := if under then scZero else u.scale }, sat := sat,
            under := under, const := false, full := decide (sat = live.length), infs := [], elems := elems })

/-- Convert one block whose first element is channel `ch` (R211): a slot's committed scale, or Table 8-4. Under a slot a BF16
block, which the ladder makes, reports its elements outside the list with the zero point 0 (R215, R246, assumption 35). -/
def convBlock (d : Desc) (m : Nat → Rounding) (u : Option SlotUse) (ch : Nat) (zps : List Nat) (n : Nat)
    (xs : List Num) : Except Nans ConvBlock :=
  match u, d.scaled with
  | some u, true =>
    slotBlock d m u ((List.range 32).filter (fun i => u.list.contains (ch + i))) zps n xs
  | some u, false =>
    plainBlock d m scOne zps n xs (((xs.take n).zipIdx.filter (fun e => !u.list.contains (ch + e.2))).map (fun e => (e.1, 0)))
  | none, true => plainBlock d m (tableScale d.fmt (maxMag (xs.take n))) zps n xs []
  | none, false => plainBlock d m scOne zps n xs []

/-- The blocks of a row, or of a group of rows, converted together: INF_SEEN, then the blocks or their traps. Places count
elements, `epb` to a block. -/
def Work.convert (w : Work) (unit : Nat) (tile : Nat → List Nat) (rs : List (Except Nans ConvBlock)) (epb : Nat) :
    Op (List ConvBlock) := do
  let infs := rs.zipIdx.flatMap (fun e => match e.1 with
    | .ok b => b.infs.map (fun i => epb * e.2 + i)
    | .error _ => [])
  w.infAt unit tile infs
  Op.atElem unit w.c.nn tile (Op.nanAt 0 (together (rs.zipIdx.map (fun e => fromPlace (epb * e.2) e.1))))

/-- The slot that a destination names (R244). -/
def slotUse (s : State) (d : Desc) : Option SlotUse :=
  if d.slotEn then
    let x := slotGet s d.slot
    some { slot := d.slot, scale := x.committed, list := x.crust }
  else none

/-! ### Reports (R215, R255, R259) -/

/-- Merge channel `ch` of a block into the channel table, and note its zero point (R246, R259; assumption 35). -/
def reportChannel (w : Work) (k : Nat) (ch : Nat) (z : Nat) (x : Num) : Op Unit := do
  let s ← Op.get
  let u := slotGet s k
  if ch < u.ctabLen then do
    mergeChannel w.c.p (u.ctabAddr + 8 * ch) [x]
    Op.mod (fun s => slotMod s k (fun u => { u with zps := Sparse.set 0 u.zps ch z }))
  else pure ()

/-- Report a written block to its slot, its layer and the channel table. -/
def reportConv (w : Work) (d : Desc) (ch n : Nat) (zps : List Nat) (xs : List Num) (store : Bool) (b : ConvBlock) :
    Op Unit :=
  if d.slotEn then do
    Op.mod (fun s =>
      let s := reportBlock s w.c.nn d.slot
        { elems := b.elems, sat := b.sat, full := b.full, under := b.under, const := b.const }
      match laddered (s.part w.c.p) w.g with
      | some l => if store && decide (w.t = .F) then reportLayer s w.c.p l b.sat (if b.full then 1 else 0) else s
      | none => s)
    let s ← Op.get
    if store && (slotGet s d.slot).ctabEn && !b.const then
      Op.each (List.range n) (fun i => reportChannel w d.slot (ch + i) (zps.getD i 0) (xs.getD i Num.zero))
  else pure ()

/-! ### The crust record of a destination (R261, R284) -/

/-- The destination carries a record: A8 or A4 with ABASE. -/
def hasRecord (d : Desc) : Bool := d.fmt.isAct && decide (d.abase ≠ 0)

/-- BAD_DESC and RANGE of a record that is written, over the partition's rectangle. -/
def recordChecks (s : State) (p : Fin 16) (d : Desc) : List Nat :=
  if hasRecord d then
    let x := s.part p
    let w := partW x
    let h := partH x
    let rowsEnd := d.maxIdx w h 1 d.e1 + d.maxIdx w h 2 d.e2 * (d.s2 / d.s1) + d.maxIdx w h 3 d.e3 * (d.s3 / d.s1) + 1
    let list := d.slotEn && decide (0 < (slotGet s d.slot).listn)
    failIf 5 (!auxStridesOk d) ++ failIf 6 (decide (d.abase % 64 ≠ 0) ||
      !spanOk x.mem d d.abase (d.abase + d.zplen + 256 + (if list then 128 * rowsEnd else 0)))
  else []

/-- Write LISTN and the list. -/
def writeHeader (c : Ctx) (d : Desc) (list : List Nat) : Op Unit :=
  if hasRecord d then
    writeSpace c d (d.abase + d.zplen) (leBytes 2 list.length ++ List.replicate 126 0#8 ++
      (List.range 64).flatMap (fun i => leBytes 2 (list.getD i 0xFFFF)))
  else pure ()

/-- Address of the crust values of a row of the core's slice (R284). -/
def crustAddr (c : Ctx) (d : Desc) (r : Nat × Nat × Nat) : Nat :=
  let (i1, i2, i3) := rowAt c d r
  d.abase + d.zplen + 256 + 128 * (i1 + i2 * (d.s2 / d.s1) + i3 * (d.s3 / d.s1))

/-- Write the crust values of a row for the listed channels ch .. ch + n - 1 that this core holds, and +0 past the
list. -/
def writeCrust (c : Ctx) (d : Desc) (list : List Nat) (r : Nat × Nat × Nat) (ch n : Nat) (xs : List Num) : Op Unit :=
  if hasRecord d && decide (list ≠ []) then do
    let a := crustAddr c d r
    Op.each (list.zipIdx.filter (fun e => decide (ch ≤ e.1) && decide (e.1 < ch + n))) (fun e =>
      writeSpace c d (a + 2 * e.2) (leBytes 2 (fBF16.encodeWide (roundMode d.round) (xs.getD (e.1 - ch) Num.zero))))
    if list.length < 64 then
      writeSpace c d (a + 2 * list.length) (List.replicate (2 * (64 - list.length)) 0#8)
  else pure ()

/-! ### Writing rows -/

/-- Blocks of a row as the destination stores them, as crumbs where it has them: the bytes written. -/
def writeRow (w : Work) (d : Desc) (jb : Nat) (r : Nat × Nat × Nat) (bs : List RawBlock) : Op Nat :=
  if d.crumb then do
    let sizes ← Op.map (List.range (bs.length / 8)) (fun g => do
      let n ← writeGroup w.c d (jb + 8 * g) r ((bs.drop (8 * g)).take 8)
      w.event 0x52 n
      pure (n + 16))
    pure sizes.sum
  else do
    writeBlocks w.c d jb r bs
    pure (bs.length * (d.fmt.blockBytes + (if d.scaled then 2 else 0)))

/-- Cut the elements of a row into blocks of the format. -/
def rowBlocks (d : Desc) (xs : List Num) : List (List Num × Nat) :=
  (List.range ((xs.length + d.epb - 1) / d.epb)).map (fun b =>
    (((List.range d.epb).map (fun i => xs.getD (d.epb * b + i) Num.zero)), min d.epb (xs.length - d.epb * b)))

end Sys2Proof.Machine
end

