-- ==== Sys2Proof/Machine/Store.lean ====
section
/-! DEFINITION. The store pipeline (R205 to R217): STORE in both orientations. -/

namespace Sys2Proof.Machine

/-! ### Operand fields (Table 3-6) -/

def sAmsel (g : Granule) : Nat := field g 111 110
def sAmrow (g : Granule) : Nat := field g 109 100
def sNrow (g : Granule) : Nat := field g 99 90
def sScale (g : Granule) : Bool := flag g 89
def sBias (g : Granule) : Bool := flag g 88
def sFunc (g : Granule) : Bool := flag g 87
def sConv (g : Granule) : Bool := flag g 86
def sDst (g : Granule) : Nat := field g 79 64
def sBiasd (g : Granule) : Nat := field g 63 48
def sTable (g : Granule) : Nat := field g 47 40
def sTok0 (g : Granule) : Nat := field g 39 24

/-! ### Checks -/

/-- Formats of a converting STORE (R210). -/
def storeFmts : List Fmt := [.a8, .a4, .e4m3, .e5m2, .bf16, .fp32]

/-- The destination's format fits the stages (R210). -/
def storeFmtOk (g : Granule) (d : Desc) : Bool :=
  if sConv g then storeFmts.contains d.fmt else decide (d.fmt = if sFunc g then .fp32 else .w48)

/-- The column vector of the scale and bias stages (R207). -/
def biasChecks (s : State) (p : Fin 16) (t : StreamTag) (g : Granule) : List Nat :=
  if sBias g then
    let b := descOf s p t g (sBiasd g)
    let x := s.part p
    failIf 5 (!(b.fmt = .bf16 || b.fmt = .fp32) || decide (b.e0 ≠ 255) || (sScale g && decide (b.abase = 0))) ++
    descChecks s p .source b ++
    failIf 6 (sScale g && (decide (b.abase % 64 ≠ 0) ||
      !spanOk x.mem b b.abase (b.abase + 2 * (b.maxIdx (partW x) (partH x) 0 255 + 1))))
  else []

/-- Checks of STORE. -/
def storeCheck (s : State) (p : Fin 16) (t : StreamTag) (g : Granule) : List Nat :=
  let raw := rawDesc s p t (sDst g)
  let d := descOf s p t g (sDst g)
  let col := decide (d.layout = 1)
  failIf 3 (decide (1023 < sAmrow g + sNrow g) || (sScale g && !sBias g) ||
    (sFunc g && (tableOf (s.part p) (sTable g) false).isNone) ||
    (col && (decide (sTok0 g % 32 ≠ 0) || decide ((sNrow g + 1) % 32 ≠ 0)))) ++
  failIf 5 (!storeFmtOk g d || (d.asym && !d.slotEn) || (d.slotEn && !slotDescOk s t raw d)) ++
  descChecks s p .storeDst d ++ biasChecks s p t g ++ recordChecks s p d ++
  failIf 6 (if col then decide (d.e0 < sTok0 g + sNrow g - 31) else !tokensOk d (sTok0 g) (sNrow g))

/-! ### The stages (R206 to R209) -/

/-- What a STORE works with at a core. -/
structure StoreJob where
  d : Desc
  biases : List Num
  factors : List Num
  tbl : Option FuncTable
  zps : List Nat
  use : Option SlotUse

/-- The tile coordinates of column c of an AM row (R216). -/
def storeTile (w : Work) (row c : Nat) : List Nat := [sAmsel w.g, row, c, 0]

/-- Read the column vector and the zero points. -/
def storeJob (w : Work) (d : Desc) (b : Desc) (tbl : Option FuncTable) : Op StoreJob := do
  let s ← Op.get
  let g := w.g
  let at_ := fun {α : Type} (m : Op α) => Op.atElem 6 w.c.nn (storeTile w (sAmrow g)) m
  let biases ← (if sBias g then at_ (readValues w.c b 0 8 (0, 0, 0)) else pure [])
  let fs ← (if sBias g && sScale g then at_ (readSpace w.c b (b.abase + 2 * ofs0 w.c b) 512) else pure [])
  let factors ← at_ (Op.nanAt 0 (allAt (fun _ i => fBF16.decode (leAt fs (2 * i) 2)) 0 (List.range (fs.length / 2))))
  let zps ← at_ (readZps w.c d 0 d.blocks)
  let tbl ← (if sFunc g then at_ (useTable w (sTable g) tbl) else pure none)
  pure { d := d, biases := biases, factors := factors, zps := zps, use := slotUse s d, tbl := tbl }

/-- A stage of the pipeline on the columns of a row (Table 8-3): the values that became infinite count, and the columns
that trap do so together. -/
def storeStage (w : Work) (row : Nat) (f : Nat → Num → Calc) (xs : List Num) : Op (List Num) := do
  let rs := xs.zipIdx.map (fun e => f e.2 e.1)
  w.count 4 0x48 0x04 5 (infPlaces rs).length
  w.form 6 (storeTile w row) rs

/-- The first n columns of an AM row, read and taken through the scale, bias and function stages in turn. A finite value that
an infinite factor or bias makes infinite has become so, as an entry that meets an infinite run has (Tables 8-2, 8-9). -/
def storeRow (w : Work) (j : StoreJob) (row n : Nat) : Op (List Num) := do
  let codes ← Op.at 6 w.c.nn (storeTile w row 0) (readAm w (amKey (sAmsel w.g) row) 0 256)
  let xs := (codes.take n).map fW48.value
  let xs ← (if j.factors = [] then pure xs else
    storeStage w row (fun c x => Calc.op [x] (mulR fW48 x (j.factors.getD c Num.zero))) xs)
  let xs ← (if j.biases = [] then pure xs else
    storeStage w row (fun c x => Calc.op [x] (addR fW48 x (j.biases.getD c Num.zero))) xs)
  match j.tbl with
  | none => pure xs
  | some t => do
    let ys ← storeStage w row (fun _ x => rneC fFP32 x) xs
    storeStage w row (fun _ x => t.eval x) ys

/-- The rounding of a STORE: DST's ROUND with a conversion (R210). -/
def storeRound (w : Work) (d : Desc) : Nat → Rounding := fun _ => if sConv w.g then roundMode d.round else .nearestEven

/-- The conversion stage: its infinities count. -/
def storeConvert (w : Work) (tile : Nat → List Nat) (d : Desc) (rs : List (Except Nans ConvBlock)) :
    Op (List ConvBlock) := do
  w.count 4 0x48 0x04 5 (rs.map (fun r => match r with
    | .ok b => b.infs.length
    | .error _ => 0)).sum
  w.convert 6 tile rs d.epb

/-- Count what a row or group of rows wrote (Table 8-9, Table 19-1). -/
def storeCounts (w : Work) (rows bytes : Nat) (bs : List ConvBlock) : Op Unit := do
  let sat := (bs.map ConvBlock.sat).sum
  w.count 4 0x28 0x04 1 rows
  w.count 4 0x30 0x04 2 bytes
  w.count 4 0x38 0x04 3 sat
  w.count 4 0x40 0x04 4 (bs.filter ConvBlock.under).length
  w.event 0x40 rows
  w.event 0x41 sat

/-- One AM row of a row-oriented STORE: destination row number TOK0 + i (R213). -/
def storeRowOut (w : Work) (j : StoreJob) (i : Nat) : Op Unit := do
  let d := j.d
  let row := sAmrow w.g + i
  let r := d.rowIdx (sTok0 w.g + i)
  let ch := ofs0 w.c d
  let vals ← storeRow w j row (min 256 (d.e0 + 1))
  let bs ← storeConvert w (storeTile w row) d ((rowBlocks d vals).zipIdx.map (fun e =>
    convBlock d (storeRound w d) j.use (ch + 32 * e.2) (j.zps.drop (32 * e.2)) e.1.2 e.1.1))
  let bytes ← writeRow w d 0 r (bs.map ConvBlock.raw)
  Op.each bs.zipIdx (fun e => reportConv w d (ch + 32 * e.2) (min 32 (vals.length - 32 * e.2)) (j.zps.drop (32 * e.2))
    (vals.drop (32 * e.2)) true e.1)
  writeCrust w.c d ((j.use.map SlotUse.list).getD []) r ch vals.length vals
  storeCounts w 1 bytes bs

/-- One group of 32 AM rows of a column-oriented STORE (R214, R282): every row is read, and those beyond E0 are discarded
before the stages. DESIGN CHOICE (assumption 33): the spec does not say where they are discarded, nor how a column STORE's
rows count; a discarded row neither traps nor counts. -/
def storeGroupOut (w : Work) (j : StoreJob) (i : Nat) : Op Unit := do
  let d := j.d
  let row := sAmrow w.g + 32 * i
  let first := sTok0 w.g + 32 * i
  let n := min 32 (d.e0 + 1 - first)
  let ch := ofs0 w.c d + first
  let cols := min 256 d.rows
  let rows ← Op.map (List.range n) (fun k => storeRow w j (row + k) cols)
  let _ ← Op.map (List.range' n (32 - n)) (fun k =>
    Op.at 6 w.c.nn (storeTile w (row + k) 0) (readAm w (amKey (sAmsel w.g) (row + k)) 0 256))
  let column := fun (c : Nat) => (List.range 32).map (fun k => (rows.getD k []).getD c Num.zero)
  let bs ← storeConvert w (fun e => storeTile w (row + e % 32) (e / 32)) d ((List.range cols).map (fun c =>
    convBlock d (storeRound w d) j.use ch (j.zps.drop first) n (column c)))
  let bytes ← Op.map bs.zipIdx (fun e => writeRow w d (first / 32) (d.rowIdx e.2) [e.1.raw])
  Op.each bs.zipIdx (fun e => reportConv w d ch n (j.zps.drop first) (column e.2) true e.1)
  Op.each (List.range cols) (fun c =>
    writeCrust w.c d ((j.use.map SlotUse.list).getD []) (d.rowIdx c) ch n (column c))
  storeCounts w n bytes.sum bs

/-- A STORE at one core; into device memory its output may wait for room, for free cycles (R217). -/
def storeCore (w : Work) (d b : Desc) (tbl : Option FuncTable) : Op Unit := do
  let j ← storeJob w d b tbl
  if !d.space then w.waits 4 0x50 0x04 6
  writeHeader w.c d ((j.use.map SlotUse.list).getD [])
  if d.layout = 1 then Op.each (List.range ((sNrow w.g + 1) / 32)) (storeGroupOut w j)
  else Op.each (List.range (sNrow w.g + 1)) (storeRowOut w j)

/-- A STORE at every core, under the table that stood at its issue (R231). -/
def storeRun (s : State) (p : Fin 16) (t : StreamTag) (g : Granule) (n : Nat) : Effect :=
  let tbl := tableAt s p t g n
  let r := onCoresOf s p t g (fun w => storeCore w (descOf s p t g (sDst g)) (descOf s p t g (sBiasd g)) tbl)
  { state := r.1, traps := r.2, wait := .none }

/-- A STORE may not begin: its rows are not free, or a STORE of the stream stands in front of it (R76, R206). -/
def storeBlocked (s : State) (p : Fin 16) (t : StreamTag) (g : Granule) (n : Nat) : Bool :=
  let q := s.stream p t
  rowsBehind q n g || opBehind q n 0x31

def storeCmd : StreamCmd :=
  { matches_ := fun g => cOpcode g = 0x31, reads := fun g => if sBias g then [sBiasd g] else [],
    writes := fun g => [sDst g], check := storeCheck, hold := fun _ _ _ _ => false, atIssue := fun _ _ _ _ => false,
    blocked := storeBlocked, run := storeRun }

/-- STORE. -/
def execStore (p : Fin 16) (t : StreamTag) (s : State) : Host.Outcome State Fault Refusal := .next (issue storeCmd p t s)

end Sys2Proof.Machine
end

