-- ==== Sys2Proof/Machine/Backward.lean ====
section
/-! DEFINITION. The backward engines (07): XPOSE and the transposing buffer, BDX, BDW and the gradient chest, CFLUSH. -/

namespace Sys2Proof.Machine

/-! ### Operand fields (Table 3-6) -/

def xWdesc (g : Granule) : Nat := field g 111 96
def xK0 (g : Granule) : Nat := field g 95 84
def xKcnt (g : Granule) : Nat := field g 83 72
def xN0 (g : Granule) : Nat := field g 71 60
def xNcnt (g : Granule) : Nat := field g 59 48

def dDy (g : Granule) : Nat := field g 111 96
def dTok0 (g : Granule) : Nat := field g 95 80
def dAmrow (g : Granule) : Nat := field g 79 70
def dNtok (g : Granule) : Nat := field g 69 60
def dN0 (g : Granule) : Nat := field g 59 48
def dNcnt (g : Granule) : Nat := field g 47 36

def wX (g : Granule) : Nat := field g 111 96
def wDy (g : Granule) : Nat := field g 95 80
def wTok0 (g : Granule) : Nat := field g 79 64
def wNtok (g : Granule) : Nat := field g 63 48
def wCht (g : Granule) : Nat := field g 47 44
def wChn (g : Granule) : Nat := field g 43 40
def wK0 (g : Granule) : Nat := field g 39 28
def wN0 (g : Granule) : Nat := field g 27 16

def cGdesc (g : Granule) : Nat := field g 111 96
def cNdesc (g : Granule) : Nat := field g 95 80
def cBdesc (g : Granule) : Nat := field g 79 64
def cChmask (g : Granule) : Nat := field g 63 48

/-! ### XPOSE (R176 to R179) -/

/-- Slots per bank (Table 7-4). -/
def bankSlots : Nat := 12

/-- Slots that an XPOSE fills. -/
def xSlots (g : Granule) : Nat := (xKcnt g + 1) * (xNcnt g + 1)

/-- Checks of XPOSE. -/
def xposeCheck (s : State) (p : Fin 16) (t : StreamTag) (g : Granule) : List Nat :=
  let d := descOf s p t g (xWdesc g)
  failIf 5 (!d.fmt.narrow) ++ descChecks s p .weights d ++ failIf 10 (decide (2 * bankSlots < xSlots g))

/-- The slot row of K tile kt for column n: the raw blocks that lie in the tensor, by block (R176). -/
def slotRow (c : Ctx) (d : Desc) (kt n : Nat) : Op (List (Nat × RawBlock)) :=
  if d.e1 < n then pure [] else
  Op.map (List.range (min 8 (d.blocks - 8 * kt))) (fun b => do
    let bs ← readBlocks c d (8 * kt + b) 1 (n, 0, 0)
    pure (b, bs.headD { bytes := [], scale := 0 }))

/-- Granules of TB: a slot row has two of values, and half of one of scales behind them (Table 7-4). Slots of bank 1 follow
those of bank 0. -/
def tbValue (slot n : Nat) : Nat := 2 * (256 * slot + n)
def tbScale (slot n : Nat) : Nat := 12288 + (256 * slot + n) / 2

/-- Slots lo .. hi - 1 of TB are written. -/
def clearSlots (s : State) (nn lo hi : Nat) : State :=
  clearArray (clearArray s arrTb nn (tbValue lo 0) (512 * (hi - lo))) arrTb nn (tbScale lo 0) (128 * (hi - lo))

/-- Some slots of an XPOSE as a bank: slot number i × (NCNT + 1) + j, from `lo`. DESIGN CHOICE (assumption 74): of an XPOSE
that fills both banks, both show its K0, N0 and counts, which the spec gives for bank 0 only. -/
def fillBank (w : Work) (d : Desc) (at_ lo hi : Nat) : Op TbBank := do
  let g := w.g
  let nc := xNcnt g + 1
  let rows ← Op.map ((List.range (hi - lo)).flatMap (fun i => (List.range 256).map (fun n => (i, n)))) (fun e => do
    let slot := lo + e.1
    let bs ← slotRow w.c d (xK0 g + slot / nc) (256 * (xN0 g + slot % nc) + e.2)
    pure (bs.map (fun b => (8 * (256 * e.1 + e.2) + b.1, b.2))))
  let all := rows.flatten
  Op.mod (fun s => clearSlots s w.c.nn at_ (at_ + (hi - lo)))
  pure { valid := true, k0 := xK0 g, n0 := xN0 g, kcnt := xKcnt g, ncnt := xNcnt g, fmt := wfmtCode d.fmt, kext := d.e0 + 1,
         blocks := all.map (fun e => (e.1, e.2.bytes)),
         scales := all.filterMap (fun e => if e.2.scale = 0 then none else some (e.1, e.2.scale)) }

/-- The bank that an XPOSE of up to 12 slots takes (R177). -/
def nextBank (x : Core) : Nat := if !x.tbAny || x.tbBoth then 0 else 1 - x.tbCurrent

/-- The banks that an XPOSE fills at a core. -/
def xposeBanks (x : Core) (g : Granule) : List Nat := if bankSlots < xSlots g then [0, 1] else [nextBank x]

/-- A bank of TB gets new contents, or none while it is being filled. -/
def putBank (w : Work) (bank : Nat) (b : TbBank) : Op Unit :=
  w.modCore (fun x => if bank = 0 then { x with bank0 := b } else { x with bank1 := b })

/-- XPOSE at one core: a bank is invalid while it is being filled (Table 7-12). A stop is the unit BD's, which TB feeds
(DEDUCED, assumption 28). -/
def xposeCore (w : Work) (d : Desc) : Op Unit := do
  let n := xSlots w.g
  let x ← w.getCore
  let banks := xposeBanks x w.g
  w.modCore (fun x => { x with tbReads := x.tbReads.filter (fun r => !banks.contains r.2) })
  Op.each banks (fun k => putBank w k TbBank.none)
  Op.each banks (fun k => do
    let lo := if banks.length = 2 then bankSlots * k else 0
    let b ← fillBank w d (bankSlots * k) lo (if banks.length = 2 ∧ k = 0 then bankSlots else n)
    putBank w k b)
  w.modCore (fun x => { x with tbBoth := decide (banks.length = 2), tbCurrent := if banks.length = 2 then 0 else banks.headD 0,
                               tbAny := true })
  w.count 2 0x38 0x10 3 (n * 256 * (8 * d.fmt.blockBytes + 16))

/-- XPOSE at every core. -/
def xposeRun (s : State) (p : Fin 16) (t : StreamTag) (g : Granule) : Effect :=
  let r := onCoresOf s p t g (fun w => Op.at 2 w.c.nn [0, 0, 0, 0] (xposeCore w (descOf s p t g (xWdesc g))))
  { state := r.1, traps := r.2, wait := .none }

/-- The tiles that the cores' TB will hold after an XPOSE, at issue. -/
def predictXpose (s : State) (p : Fin 16) (g : Granule) : State :=
  (targetCores (s.part p) g).foldl (fun s c => s.modCore (Fin.ofNat 64 c.1) (fun x =>
    { x with tbPred := some { k0 := xK0 g, n0 := xN0 g, kcnt := xKcnt g, ncnt := xNcnt g } })) s

/-- An XPOSE or a BDX in front of flight n has not acted. -/
def tbBehind (q : Stream) (n : Nat) : Bool :=
  (ahead q n).any (fun f => f.wait = .behind && (cOpcode f.word = 0x11 || cOpcode f.word = 0x22))

/-- An XPOSE begins once every earlier BDX has finished reading the banks it fills (R178). -/
def xposeBlocked (s : State) (p : Fin 16) (t : StreamTag) (g : Granule) (n : Nat) : Bool :=
  let q := s.stream p t
  tbBehind q n || (targetCores (s.part p) g).any (fun c =>
    let x := s.core (Fin.ofNat 64 c.1)
    x.tbReads.any (fun r => (xposeBanks x g).contains r.2 && (ahead q n).any (fun f => f.seq = r.1 && !f.done)))

def xposeCmd : StreamCmd :=
  { matches_ := fun g => cOpcode g = 0x11, reads := fun g => [xWdesc g], writes := fun _ => [], check := xposeCheck,
    hold := fun _ _ _ _ => false, atIssue := fun _ _ _ _ => false, predict := fun s p _ g => predictXpose s p g,
    blocked := xposeBlocked, run := fun s p t g _ => xposeRun s p t g }

/-- XPOSE. -/
def execXpose (p : Fin 16) (t : StreamTag) (s : State) : Host.Outcome State Fault Refusal := .next (issue xposeCmd p t s)

/-! ### BDX (R171, R180 to R182) -/

/-- The bank that describes the contents of the last XPOSE. -/
def tbShape (x : Core) : TbBank := if x.tbBoth || decide (x.tbCurrent = 0) then x.bank0 else x.bank1

/-- The bank and the slot within it of a slot number. -/
def tbSlot (x : Core) (slot : Nat) : Nat × Nat :=
  if x.tbBoth then (slot / bankSlots, slot % bankSlots) else (x.tbCurrent, slot)

/-- The weight format of a bank. -/
def TbBank.format (b : TbBank) : Fmt := if b.fmt = 0 then .w1 else if b.fmt = 1 then .wt else .w2

/-- The value bytes of slot row n. -/
def TbBank.rowBytes (b : TbBank) (slot n : Nat) : List Byte :=
  (List.range 8).flatMap (fun k => slice (Sparse.get [] b.blocks (8 * (256 * slot + n) + k)) 0 b.format.blockBytes)

/-- The scale bytes of slot row n. -/
def TbBank.rowScales (b : TbBank) (slot n : Nat) : List Byte :=
  (List.range 8).flatMap (fun k => leBytes 2 (Sparse.get 0 b.scales (8 * (256 * slot + n) + k)))

/-- Read slot row n of a bank: its eight raw blocks; the granules are decoded, of which two rows share one of scales. -/
def readSlotRow (w : Work) (bank slot n : Nat) : Op (Fmt × List RawBlock) := do
  let x ← w.getCore
  let b := if bank = 0 then x.bank0 else x.bank1
  let g := bankSlots * bank + slot
  let v ← readArray arrTb w.c.nn (tbValue g n) (b.rowBytes slot n)
  let sc ← readArray arrTb w.c.nn (tbScale g n) (b.rowScales slot (n / 2 * 2) ++ b.rowScales slot (n / 2 * 2 + 1))
  let size := b.format.blockBytes
  pure (b.format, (List.range 8).map (fun k =>
    { bytes := slice v (size * k) size, scale := leAt sc (16 * (n % 2) + 2 * k) 2 }))

/-- The weight converter on one slot row: 256 weights with their block scales; none under a scale of ZERO and beyond the
tensor (R171, R176). -/
def convertRow (f : Fmt) (kext kt : Nat) (row : List RawBlock) : Except Nans (List (Option Rat)) :=
  (together (row.zipIdx.map (fun b =>
    joinBoth (fun sc codes => (weightCodes f codes).zipIdx.map (fun e =>
      match sc with
      | .val s => if 256 * kt + 32 * b.2 + e.2 < kext then some ((signedOf 2 e.1 : Rat) * s) else none
      | _ => none)) (wholeAt 0 (decodeScale false b.1.scale)) (blockCodes f b.1.bytes)))).map List.flatten

/-- The exact sum of one run of BD at a column: a weight under a scale of ZERO adds nothing (R171, R175). -/
def bdRun (dy : List Num) (ws : List (Option Rat)) : Except TrapKind Num :=
  (dy.zip ws).foldl (fun acc e => acc.bind (fun a =>
    match e.2 with
    | some w => (e.1.mul (Num.ofRat w)).bind a.add
    | none => .ok a)) (.ok Num.zero)

/-- Checks of BDX, on the contents that TB will have (R178). -/
def bdxCheck (s : State) (p : Fin 16) (t : StreamTag) (g : Granule) : List Nat :=
  let d := descOf s p t g (dDy g)
  let cores := targetCores (s.part p) g
  let tb := fun (c : Nat × Nat × Nat) => (s.core (Fin.ofNat 64 c.1)).tbPred
  failIf 5 (!(d.fmt = .e5m2 || d.fmt = .e4m3)) ++ descChecks s p .source d ++ failIf 6 (!tokensOk d (dTok0 g) (dNtok g)) ++
  failIf 9 (cores.any (fun c => match tb c with
    | none => true
    | some b => !orderOk s [c] (amKeys 1 (dAmrow g) ((b.kcnt + 1) * (dNtok g + 1) - 1)) (cOF g 1) .bdx (dN0 g))) ++
  failIf 3 (cores.any (fun c => match tb c with
    | none => false
    | some b => decide (1024 < dAmrow g + (b.kcnt + 1) * (dNtok g + 1)) || decide (dN0 g < b.n0) ||
        decide (b.n0 + b.ncnt < dN0 g + dNcnt g)))

/-- The first n columns of a matrix of rows; d beyond the end of a row. -/
def columnsOf {α : Type} (d : α) : Nat → List (List α) → List (List α)
  | 0, _ => []
  | n + 1, rows => rows.map (fun r => r.headD d) :: columnsOf d n (rows.map List.tail)

/-- One block of BD: N tile nt, K tile number i of the buffer, every token in turn (R180, R181). -/
def bdBlock (w : Work) (d : Desc) (unit : Nat) (x : Core) (nt i : Nat) (first : Bool) : Op Unit := do
  let g := w.g
  let b := tbShape x
  let kt := b.k0 + i
  let slot := tbSlot x (i * (b.ncnt + 1) + (nt - b.n0))
  let ws ← Op.map (List.range 256) (fun n => Op.at unit w.c.nn [nt, kt, 0xFFFFFFFF, n] (do
    let row ← readSlotRow w slot.1 slot.2 n
    Op.nanAt 0 (convertRow row.1 b.kext kt row.2)))
  let cols := columnsOf none 256 ws
  Op.each (List.range (dNtok g + 1)) (fun j => do
    let tok := dTok0 g + j
    let at_ := fun {α : Type} (m : Op α) => Op.at unit w.c.nn [nt, kt, tok, 0] m
    let dy ← at_ (readValues w.c d (8 * nt) 8 (d.rowIdx tok))
    let k := amKey 1 (dAmrow g + i * (dNtok g + 1) + j)
    if cOF g 1 && first then emptyRow w k
    Op.each (List.range 16) (fun r => do
      let part := fun {α : Type} (l : List α) => (l.drop (16 * r)).take 16
      let runs ← at_ (Op.nanAt 0 (together (cols.map (fun c => wholeAt 0 (bdRun (part dy) (part c))))))
      promote w unit [nt, kt, tok, 0] k { kind := .bdx, value := dN0 g + dNcnt g } runs)
    if unit = 2 then do
      w.count 2 0x20 0x10 0 1
      w.event 0x20 1
    else do
      w.count 3 0x10 0x04 0 65536
      w.event 0x30 65536)

/-- Waits of BD (R182, R183): for the load of each block after the first, and for operands from device memory. -/
def bdWaits (w : Work) (d : Desc) (blocks : Nat) : Op Unit :=
  if d.space then w.count 2 0x40 0x10 4 ((blocks - 1) * (256 - (dNtok w.g + 1)))
  else do
    w.waits 2 0x40 0x10 4
    w.waits 2 0x48 0x10 5

/-- BDX at one core, by BD or at rung 3 by the bench (Table 10-5). -/
def bdxCore (w : Work) (d : Desc) (unit n : Nat) : Op Unit := do
  let x ← w.getCore
  let kc := (tbShape x).kcnt + 1
  w.modCore (fun x => { x with tbReads := x.tbReads ++ (if x.tbBoth then [(n, 0), (n, 1)] else [(n, x.tbCurrent)]) })
  if unit = 2 then bdWaits w d (kc * (dNcnt w.g + 1))
  Op.each (List.range (dNcnt w.g + 1)) (fun a => Op.each (List.range kc) (fun i =>
    bdBlock w d unit x (dN0 w.g + a) i (decide (a = 0))))

/-- The records that the rows of a BDX will hold, at issue. -/
def predictBdx (s : State) (p : Fin 16) (g : Granule) : State :=
  (targetCores (s.part p) g).foldl (fun s c =>
    match (s.core (Fin.ofNat 64 c.1)).tbPred with
    | some b => predictRows s [c] (amKeys 1 (dAmrow g) ((b.kcnt + 1) * (dNtok g + 1) - 1))
        { kind := .bdx, value := dN0 g + dNcnt g }
    | none => s) s

/-- A BDX begins once its XPOSE has completed, and no earlier command of the stream stands on its engine or rows (R76,
R178). -/
def bdxBlocked (s : State) (p : Fin 16) (t : StreamTag) (g : Granule) (n : Nat) : Bool :=
  let q := s.stream p t
  let xposes := (ahead q n).filter (fun f => cOpcode f.word = 0x11 && !f.done)
  decide (xposes ≠ []) || tbBehind q n || rowsBehind q n g ||
    (atRung3 (s.part p) t g && benchBehind s p t n)

/-- BDX at every core. -/
def bdxRun (s : State) (p : Fin 16) (t : StreamTag) (g : Granule) (n : Nat) : Effect :=
  let unit := if atRung3 (s.part p) t g then 4 else 2
  let r := onCoresOf s p t g (fun w => bdxCore w (descOf s p t g (dDy g)) unit n)
  { state := r.1, traps := r.2, wait := .none }

def bdxCmd : StreamCmd :=
  { matches_ := fun g => cOpcode g = 0x22, reads := fun g => [dDy g], writes := fun _ => [], check := bdxCheck,
    hold := fun _ _ _ _ => false, atIssue := fun _ _ _ _ => false, predict := fun s p _ g => predictBdx s p g,
    blocked := bdxBlocked, run := bdxRun }

/-- BDX. -/
def execBdx (p : Fin 16) (t : StreamTag) (s : State) : Host.Outcome State Fault Refusal := .next (issue bdxCmd p t s)

/-! ### The chest (R187 to R189) -/

def chestGet (x : Core) (tile : Nat) : ChestTile := Sparse.get ChestTile.empty x.chest tile
def chestSet (x : Core) (tile : Nat) (c : ChestTile) : Core := { x with chest := Sparse.set ChestTile.empty x.chest tile c }

/-- Codes of a row of a chest tile; a CLEAR tile reads +0 (R187). -/
def ChestTile.row (c : ChestTile) (r : Nat) : List Nat :=
  if c.clear then List.replicate 256 0 else Sparse.getRun 0 c.vals (256 * r) 256

/-- A flight still has to act on the chest: a CFLUSH that waits for its COLL, or a command behind it. -/
def chestPending (f : Flight) : Bool :=
  (f.wait = .direct || f.wait = .behind) && (cOpcode f.word = 0x23 || cOpcode f.word = 0x12)

/-- Flight n of opcode `op` on some chest tiles stands behind a pending one of its engine, or on one of them (R76). -/
def chestBehind (q : Stream) (n op : Nat) (tiles : List Nat) : Bool :=
  (ahead q n).any (fun f => chestPending f && (decide (cOpcode f.word = op) || (chestTiles f.word).any tiles.contains))

/-- First granule of a row of a chest tile. -/
def chestGranule (tile r : Nat) : Nat := 12288 * tile + 48 * r

/-- The codes of a row of a chest tile as its SRAM gives them; a CLEAR tile is not read. -/
def readChest (w : Work) (tile r : Nat) : Op (List Nat) := do
  let x ← w.getCore
  let c := chestGet x tile
  if c.clear then pure (List.replicate 256 0) else readCodes arrChest w.c.nn (chestGranule tile r) (c.row r)

/-- The token record that a tile will hold once the stream's earlier commands have run (R69). -/
def chestRecord (s : State) (p : Fin 16) (nn tile : Nat) : Option Nat :=
  let c := chestGet (s.core (Fin.ofNat 64 nn)) tile
  let now := if c.recValid then some c.tokEnd else none
  (s.stream p .B).flight.foldl (fun r f =>
    if chestPending f && (chestTiles f.word).contains tile && (targetCores (s.part p) f.word).any (fun e => decide (e.1 = nn)) then
      (if cOpcode f.word = 0x23 then some (wTok0 f.word + wNtok f.word + 1) else none)
    else r) now

/-! ### BDW (R173, R184 to R186) -/

/-- Checks of BDW. -/
def bdwCheck (s : State) (p : Fin 16) (t : StreamTag) (g : Granule) : List Nat :=
  let x := descOf s p t g (wX g)
  let d := descOf s p t g (wDy g)
  failIf 3 (decide (wTok0 g % 16 ≠ 0) || decide ((wNtok g + 1) % 16 ≠ 0) || decide (15 < wCht g + wChn g)) ++
  failIf 5 (!(x.fmt.isAct || (x.fmt = .bf16 && atRung3 (s.part p) t g)) || !(d.fmt = .e5m2 || d.fmt = .e4m3)) ++
  descChecks s p .xdesc x ++ descChecks s p .source d ++ (if x.fmt.isAct then crustListChecks s p x else []) ++
  failIf 6 (!tokensOk x (wTok0 g) (wNtok g) || !tokensOk d (wTok0 g) (wNtok g)) ++
  failIf 9 (!cOF g 1 && (targetCores (s.part p) g).any (fun c => (chestTiles g).any (fun tile =>
    match chestRecord s p c.1 tile with
    | some n => decide (wTok0 g < n)
    | none => false)))

/-- What BW reads of X for a group and K tile: the stored blocks of each token, the zero points, and the listed channels, each
with its place in the list and its K index (R173, R174). -/
structure XTile where
  rows : List (Nat × Nat × Nat)
  raw : List (List RawBlock)
  zps : List Nat
  listed : List (Nat × Nat)

/-- Read them; a listed channel beyond the slice's extent is +0 like its code (R501). -/
def readXTile (w : Work) (d : Desc) (crust : List Nat) (tile group kt tok0 : Nat) : Op XTile := do
  let at_ := fun {α : Type} (m : Op α) => Op.at 3 w.c.nn [tile, group, 256 * kt, 0] m
  let held := min 8 (d.blocks - 8 * kt)
  let rows := (List.range 16).map (fun i => d.rowIdx (tok0 + i))
  let raw ← at_ (Op.map rows (fun r => recallBlocks w.c d (8 * kt) held r))
  let zps ← at_ (readZps w.c d (8 * kt) held)
  let lo := ofs0 w.c d + 256 * kt
  pure { rows := rows, raw := raw, zps := zps,
         listed := (crust.zipIdx.filter (fun e => decide (lo ≤ e.1) && decide (e.1 < lo + 256))).map (fun e => (e.2, e.1 - lo)) }

/-- The values of one token's K tile: codes, then the crust values of listed channels (R173, R174, R501). -/
def tokenX (w : Work) (d : Desc) (x : XTile) (kt : Nat) (e : List RawBlock × (Nat × Nat × Nat)) : Op (List Num) := do
  let live := x.listed.filter (fun l => decide (256 * kt + l.2 ≤ d.e0))
  let crust ← Op.map live (fun l => do
    let bs ← readSpace w.c d (crustAddr w.c d e.2 + 2 * l.1) 2
    pure (l.2, leNat bs))
  let blocks := together (e.1.zipIdx.map (fun b => fromPlace (32 * b.2)
    (blockValuesAt d (x.zps.drop (32 * b.2)) (d.e0 + 1 - (256 * kt + 32 * b.2)) b.1)))
  let values := together (crust.map (fun c => (wholeAt c.1 (fBF16.decode c.2)).map (fun v => (c.1, v))))
  Op.nanAt 0 (joinBoth (fun bs vs => (List.range 256).map (fun k => match vs.find? (fun v => v.1 = k) with
    | some v => v.2
    | none => bs.flatten.getD k Num.zero)) blocks values)

/-- 16 tokens of X on one K tile, one token after another, and whether they run at half rate (R185, R186). -/
def readX (w : Work) (d : Desc) (crust : List Nat) (tile group kt tok0 : Nat) : Op (List (List Num) × Bool) := do
  let x ← readXTile w d crust tile group kt tok0
  let vals ← Op.map (x.raw.zip x.rows) (fun e =>
    Op.atElem 3 w.c.nn (fun k => [tile, group, 256 * kt + k, 0]) (tokenX w d x kt e))
  let const := d.asym && x.raw.any (fun bs => bs.any (fun b => decide (b.scale = scConst)))
  pure (vals, const || decide (x.listed ≠ []))

/-- The exact run of one cell over the tokens of a group; an error stands at its token (R175). -/
def cellRun (xs ys : List Num) : Except Nans Num :=
  (xs.zip ys).zipIdx.foldl (fun acc e => acc.bind (fun a => wholeAt e.2 ((e.1.1.mul e.1.2).bind a.add))) (.ok Num.zero)

/-- The runs of all cells of a group and tile: errors stand by token, then by row and column. -/
def groupRuns (xs dys : List (List Num)) : Except Nans (List (List Num)) :=
  let dcols := columnsOf Num.zero 256 dys
  together ((columnsOf Num.zero 256 xs).zipIdx.map (fun x => together (dcols.zipIdx.map (fun y =>
    (cellRun x.1 y.1).mapError (fun e => { e with place := 65536 * e.place + 256 * x.2 + y.2 })))))

/-- Promote a run into row r of a chest tile, and set its touched bit where some X of the run is not zero (R187, R189). -/
def chestRow (w : Work) (tile group kt r : Nat) (live : Bool) (runs : List Num) : Op Unit := do
  let place := [tile, group, 256 * kt + r, 0]
  let old ← Op.at 3 w.c.nn place (readChest w tile r)
  let rs := (old.zip runs).map (fun e => promoteEntry e.1 e.2)
  if freshEntries rs ≠ [] then w.inf 3 place
  let es ← Op.at 3 w.c.nn place (Op.nanAt 0 (together (rs.zipIdx.map (fun e => wholeAt e.2 e.1))))
  Op.mod (fun s => clearArray s arrChest w.c.nn (chestGranule tile r) 48)
  w.modCore (fun x =>
    let c := chestGet x tile
    chestSet x tile { c with
      vals := Sparse.setRun 0 c.vals (256 * r) (es.map (fun e => e.1)),
      touched := if live then c.touched ||| BitVec.ofNat 256 (2 ^ r) else c.touched })

/-- A group of 16 tokens: its runs, then their promotion into one chest tile, row by row (R185, R187, R189). -/
def chestGroup (w : Work) (tile group kt : Nat) (xs dys : List (List Num)) : Op Unit := do
  let runs ← Op.atElem 3 w.c.nn (fun i => [tile, group, 256 * kt + i % 65536 / 256, 0]) (Op.nanAt 0 (groupRuns xs dys))
  Op.each runs.zipIdx (fun e =>
    chestRow w tile group kt e.2 (xs.any (fun row => !(row.getD e.2 Num.zero).isZero)) e.1)
  w.modCore (fun x => chestSet x tile { chestGet x tile with clear := false })

/-- BDW at one core. -/
def bdwCore (w : Work) (xd dd : Desc) (rung3 : Bool) : Op Unit := do
  let g := w.g
  let tiles := chestTiles g
  if cOF g 1 then w.modCore (fun x => tiles.foldl (fun x i => chestSet x i ChestTile.empty) x)
  if !xd.space || !dd.space then w.waits 2 0x48 0x10 5
  let crust ← Op.at 3 w.c.nn [wCht g, 0, 256 * wK0 g, 0] (if hasRecord xd then readCrust w.c xd else pure [])
  Op.each (List.range ((wNtok g + 1) / 16)) (fun gi => do
    let tok := wTok0 g + 16 * gi
    let dys ← Op.map (List.range 16) (fun i => Op.at 3 w.c.nn [wCht g, gi, 256 * wK0 g, 0]
      (readValues w.c dd (8 * wN0 g) 8 (dd.rowIdx (tok + i))))
    Op.each tiles.zipIdx (fun e => do
      let kt := wK0 g + e.2
      let (xs, slow) ← readX w xd crust e.1 gi kt tok
      chestGroup w e.1 gi kt xs dys
      let half := if slow || rung3 then 16 else 0
      w.count 2 0x28 0x10 1 16
      w.count 2 0x30 0x10 2 half
      w.event 0x21 16
      w.event 0x22 half))
  w.modCore (fun x => tiles.foldl (fun x i =>
    chestSet x i { chestGet x i with recValid := true, tokEnd := wTok0 g + wNtok g + 1 }) x)

/-- BDW at every core. -/
def bdwRun (s : State) (p : Fin 16) (t : StreamTag) (g : Granule) : Effect :=
  let r := onCoresOf s p t g (fun w =>
    bdwCore w (descOf s p t g (wX g)) (descOf s p t g (wDy g)) (atRung3 (s.part p) t g))
  { state := r.1, traps := r.2, wait := .none }

def bdwCmd : StreamCmd :=
  { matches_ := fun g => cOpcode g = 0x23, reads := fun g => [wX g, wDy g], writes := fun _ => [], check := bdwCheck,
    hold := fun _ _ _ _ => false, atIssue := fun _ _ _ _ => false,
    blocked := fun s p t g n => chestBehind (s.stream p t) n 0x23 (chestTiles g),
    run := fun s p t g _ => bdwRun s p t g }

/-- BDW. -/
def execBdw (p : Fin 16) (t : StreamTag) (s : State) : Host.Outcome State Fault Refusal := .next (issue bdwCmd p t s)

/-! ### CFLUSH (R190 to R196) -/

/-- Table 7-6 and R190. -/
def cflushCheck (s : State) (p : Fin 16) (t : StreamTag) (g : Granule) : List Nat :=
  let gd := descOf s p t g (cGdesc g)
  let bd := descOf s p t g (cBdesc g)
  let nd := descOf s p t g (cNdesc g)
  let n := (chestTiles g).length
  failIf 3 (decide (cChmask g = 0)) ++
  failIf 5 (!(gd.fmt = .g8 && gd.e0 = 255 && decide (gd.e1 + 1 = 256 * n) && !gd.slotEn) ||
    !(bd.fmt = .int8 && decide (bd.e0 + 1 = 32 * n) && decide (bd.sbase = 0)) || !(nd.fmt = .w48 && decide (nd.e0 = 0))) ++
  descChecks s p .dest gd ++ descChecks s p .dest bd ++ descChecks s p .dest nd ++
  failIf 9 (cOF g 1 && (s.part p).directWait.isSome)

/-- The block scale of a flush (R191); rule 1 is the encoder's own. -/
def flushScale (xs : List Num) : Nat :=
  let a := maxMag xs
  if a = 0 then scOne else pow2Code (floorLog2 a - 14)

/-- Encode one G8 block of a chest row: under rule 2 of R191 a zero of either sign takes 0x00. -/
def flushBlock (d : Desc) (m : Nat → Rounding) (xs : List Num) : Except Nans BlockOut :=
  let ys := if maxMag xs = 0 then xs.map (fun x => if x.isZero then Num.zero else x) else xs
  encodeBlock d m (flushScale xs) [] 32 ys

/-- One row of a flushed tile: its 8 blocks with the counts, and the exact sum of the squares it emits (R194). -/
def flushRow (w : Work) (d : Desc) (tile r row : Nat) : Op (List RawBlock × Num) := do
  let s ← Op.get
  let at_ := fun {α : Type} (m : Op α) => Op.at 7 w.c.nn [tile, r, 0, 0] m
  let codes ← at_ (readChest w tile r)
  let vals := codes.map fW48.value
  let bs ← at_ (Op.nanAt 0 (together ((List.range 8).map (fun b => fromPlace (32 * b) (flushBlock d
    (roundAt s w.c w.g d 0x01 b (row, 0, 0)) ((vals.drop (32 * b)).take 32))))))
  let outs ← at_ (Op.nanAt 0 (together (bs.map (fun b => blockValues d [] b.raw))))
  let q ← at_ (Op.nan (exactRun outs.flatten outs.flatten))
  if d.round = 2 then Op.mod (fun s => countDraws s w.c.nn 256)
  w.count 2 0x50 0x10 6 1
  w.count 2 0x58 0x10 7 (bs.map BlockOut.sat).sum
  w.count 2 0x60 0x10 8 (bs.filter BlockOut.under).length
  pure (bs.map BlockOut.raw, q)

/-- Flush at one core: every row goes to `out`, then the bitmap and the norm are written, and each tile becomes CLEAR once
its last row has been read (R190 to R195). -/
def flushCore (w : Work) (gd bd nd : Desc) (out : Nat → List RawBlock → Op Unit) : Op Unit := do
  let at_ := fun (tile r : Nat) {α : Type} (m : Op α) => Op.at 7 w.c.nn [tile, r, 0, 0] m
  let norm ← Op.fold (fun norm e => do
    let x ← w.getCore
    let c := chestGet x e.1
    let norm ← Op.fold (fun norm r => do
      let (bs, q) ← flushRow w gd e.1 r (256 * e.2 + r)
      at_ e.1 r (out (256 * e.2 + r) bs)
      let sum ← at_ e.1 r (Op.nan (addR fW48 norm q))
      if sum.isInf && !norm.isInf then w.inf 7 [e.1, r, 0, 0]
      pure sum) norm (List.range 256)
    at_ e.1 255 (writeBlocks w.c bd e.2 (0, 0, 0) [{ bytes := leBytes 32 c.touched.toNat, scale := scOne }])
    w.modCore (fun x => chestSet x e.1 ChestTile.empty)
    pure norm) Num.zero (chestTiles w.g).zipIdx
  Op.at 7 w.c.nn [0, 0, 0, 0] (writeBlocks w.c nd 0 (0, 0, 0)
    [{ bytes := blockBytesOf .w48 (fW48.encodeWide .nearestEven norm :: List.replicate 31 0), scale := scOne }])

/-- CFLUSH: with DIRECT it waits for the next COLL of its stream (R196). -/
def cflushRun (s : State) (p : Fin 16) (t : StreamTag) (g : Granule) : Effect :=
  if cOF g 1 then { state := s, traps := [], wait := .direct }
  else
    let gd := descOf s p t g (cGdesc g)
    let r := onCoresOf s p t g (fun w => flushCore w gd (descOf s p t g (cBdesc g)) (descOf s p t g (cNdesc g))
      (fun row bs => writeBlocks w.c gd 0 (row, 0, 0) bs))
    { state := r.1, traps := r.2, wait := .none }

/-- What later checks find after a CFLUSH: one with DIRECT waits for its pair. -/
def predictFlush (s : State) (p : Fin 16) (g : Granule) : State :=
  if cOF g 1 then s.modPart p (fun x => { x with directWait := some (x.nextSeq - 1) }) else s

def cflushCmd : StreamCmd :=
  { matches_ := fun g => cOpcode g = 0x12, reads := fun _ => [], writes := fun g => [cGdesc g, cBdesc g, cNdesc g],
    check := cflushCheck, hold := fun _ _ _ _ => false, atIssue := fun _ _ _ _ => false,
    predict := fun s p _ g => predictFlush s p g,
    blocked := fun s p t g n => !cOF g 1 && chestBehind (s.stream p t) n 0x12 (chestTiles g),
    run := fun s p t g _ => cflushRun s p t g }

/-- CFLUSH. -/
def execCflush (p : Fin 16) (t : StreamTag) (s : State) : Host.Outcome State Fault Refusal := .next (issue cflushCmd p t s)

end Sys2Proof.Machine
end

