-- ==== Sys2Proof/Machine/Vector.lean ====
section
/-! DEFINITION. The vector unit (R220 to R232): the operations of Table 9-1, element by element and row by row, and
TBLLOAD. -/

namespace Sys2Proof.Machine

/-! ### Operand fields (Table 3-6, R223) -/

def vSrc1 (g : Granule) : Nat := field g 111 96
def vSrc2 (g : Granule) : Nat := field g 95 80
def vDst (g : Granule) : Nat := field g 79 64
def vTable (g : Granule) : Nat := field g 55 48
def vP (g : Granule) : Nat := field g 31 0
def vG (g : Granule) : Bool := flag g 32
def vWide (g : Granule) : Bool := flag g 33

/-- A row operation (R224). -/
def isRowOp (f : Nat) : Bool := decide (0x20 ≤ f) && decide (f ≤ 0x32)

/-- A normalisation (R227). -/
def isNorm (f : Nat) : Bool := f = 0x31 || f = 0x32

/-- The operation reads SRC2 (Table 9-1). -/
def usesSrc2 (g : Granule) : Bool :=
  let f := vFunc g
  (decide (1 ≤ f) && decide (f ≤ 5)) || f = 0x11 || (isNorm f && vG g)

/-- The operation takes P (Table 9-1). -/
def usesP (f : Nat) : Bool := f = 0x07 || f = 0x08 || f = 0x30 || isNorm f

/-! ### Checks -/

def vuSources : List Fmt := [.a8, .a4, .e4m3, .e5m2, .int8, .bf16, .fp16, .fp32, .w48]
def vuDests : List Fmt := [.a8, .a4, .e4m3, .e5m2, .bf16, .fp16, .fp32]

/-- Reserved PARAM bits are 0, and the named table is loaded and of the right kind. -/
def vopFieldOk (x : Part) (g : Granule) : Bool :=
  let f := vFunc g
  decide (field g 47 34 = 0) && (isRowOp f || !vWide g) && (usesP f || decide (vP g = 0)) &&
  (!(f = 0x10 || f = 0x30) || (tableOf x (vTable g) false).isSome) && (f ≠ 0x11 || (tableOf x (vTable g) true).isSome)

/-- Same extents. -/
def sameShape (a b : Desc) : Bool := a.e0 = b.e0 && a.e1 = b.e1 && a.e2 = b.e2 && a.e3 = b.e3

/-- Elements of one row of a row operation. -/
def rowLen (g : Granule) (d : Desc) : Nat := if vWide g then (d.e0 + 1) * (d.e1 + 1) else d.e0 + 1

/-- Whole rows stand at one core (R224). -/
def rowsWhole (g : Granule) (d : Desc) : Bool :=
  decide (rowLen g d ≤ 2 ^ 19) && !(d.cdx = 0 && decide (d.csx ≠ 0)) && !(d.cdy = 0 && decide (d.csy ≠ 0)) &&
  (!vWide g || (!(d.cdx = 1 && decide (d.csx ≠ 0)) && !(d.cdy = 1 && decide (d.csy ≠ 0))))

/-- The shape of the destination (R222, R224). -/
def destShapeOk (g : Granule) (a d : Desc) : Bool :=
  let f := vFunc g
  if 0x20 ≤ f ∧ f ≤ 0x23 then
    d.e0 = 0 && (if vWide g then d.e1 = 0 else d.e1 = a.e1) && d.e2 = a.e2 && d.e3 = a.e3
  else sameShape a d

/-- The shape and format of SRC2 (R222, R227). -/
def src2Ok (g : Granule) (a d b : Desc) : Bool :=
  if isNorm (vFunc g) then
    b.e0 = a.e0 && b.e1 = (if vWide g then a.e1 else 0) && b.e2 = 0 && b.e3 = 0 && (b.fmt = .bf16 || b.fmt = .fp32)
  else vuSources.contains b.fmt && (sameShape b d || (b.e0 = d.e0 && b.e1 = 0 && b.e2 = 0 && b.e3 = 0))

/-- SRC2 with its auxiliary array in place of its values: the array of β (R227). -/
def betaOf (b : Desc) : Desc := { b with vbase := b.abase }

/-- Checks of a VOP. -/
def vopCheck (s : State) (p : Fin 16) (t : StreamTag) (g : Granule) : List Nat :=
  let f := vFunc g
  let a := descOf s p t g (vSrc1 g)
  let b := descOf s p t g (vSrc2 g)
  let d := descOf s p t g (vDst g)
  let slot := slotGet s d.slot
  failIf 3 (!vopFieldOk (s.part p) g) ++
  failIf 5 (!vuSources.contains a.fmt || !vuDests.contains d.fmt || !destShapeOk g a d || (isRowOp f && !rowsWhole g a) ||
    (d.asym && !d.slotEn) || (d.slotEn && !(familyOk slot d d && decide (slot.streamOf = tagCode t))) ||
    (usesSrc2 g && !src2Ok g a d b)) ++
  descChecks s p .source a ++ descChecks s p .dest d ++
  (if usesSrc2 g then descChecks s p .source b ++ (if isNorm f then descChecks s p .source (betaOf b) else []) else [])

/-! ### Reading rows -/

/-- A source value in a lane: W48 rounds once to FP32 (R221). -/
def laneValue (f : Fmt) (x : Num) : Calc := if f = .w48 then rneC fFP32 x else Calc.val x

/-- The indices of dimensions 1 to 3 that make up row q of a row operation, or of an element operation. -/
def rowParts (wide : Bool) (d : Desc) (q : Nat) : List (Nat × Nat × Nat) :=
  if wide then (List.range (d.e1 + 1)).map (fun i => (i, q % (d.e2 + 1), q / (d.e2 + 1))) else [d.rowIdx q]

/-- The elements of some rows of a descriptor, in lane form. -/
def readLane (w : Work) (q : Nat) (d : Desc) (idx : List (Nat × Nat × Nat)) : Op (List Num) := do
  let rows ← Op.map idx (fun r => do
    let vs ← Op.at 5 w.c.nn [q, 0, 0, 0] (readValues w.c d 0 d.blocks r)
    w.lanes q ((vs.take (d.e0 + 1)).map (laneValue d.fmt)))
  pure rows.flatten

/-! ### Operations -/

/-- The sum of one lane's elements in turn (R134). -/
def laneSum : List Num → Calc
  | [] => Calc.val Num.zero
  | y :: ys => ys.foldl (fun acc z => acc.andThen (fun a => addC fFP32 a z)) (Calc.val y)

/-- Reduce by the fixed tree of R134. -/
def reduceTree (w : Work) (q : Nat) (xs : List Num) : Op Num := do
  let cs := chunks 256 (xs.length / 256 + 1) xs
  let lanes ← w.lanes q ((List.range 256).map (fun l => laneSum (cs.filterMap (fun c => (c.drop l).head?))))
  let ls ← Op.fold (fun ls n => w.lanes q (((ls.take n).zip (ls.drop n)).map (fun e => addC fFP32 e.1 e.2)))
    lanes [128, 64, 32, 16, 8, 4, 2, 1]
  pure (ls.headD Num.zero)

/-- The largest, or the smallest, element of a row. -/
def extreme (f : Num → Num → Num) : List Num → Num
  | [] => Num.zero
  | x :: xs => xs.foldl f x

/-- 1 / sqrt(s / n + eps), each step rounded (R227). -/
def normFactor (s : Num) (n : Nat) (eps : Num) : Calc :=
  (divC fFP32 s (Num.ofInt n)).andThen (fun m => (addC fFP32 m eps).andThen (fun v =>
    (Calc.op [v] (sqrtR fFP32 v)).andThen (fun r => divC fFP32 Num.one r)))

/-- One element of an element operation (Table 9-1). -/
def elemOp (f : Nat) (p : Num) (tbl : Option FuncTable) (x y : Num) : Calc :=
  let viaTable := fun (k : Num → Calc) => match tbl with
    | some t => (t.eval x).andThen k
    | none => Calc.val x
  match f with
  | 0x01 => addC fFP32 x y
  | 0x02 => subC fFP32 x y
  | 0x03 => mulC fFP32 x y
  | 0x04 => Calc.val (x.max y)
  | 0x05 => Calc.val (x.min y)
  | 0x07 => mulC fFP32 x p
  | 0x08 => addC fFP32 x p
  | 0x10 => viaTable Calc.val
  | 0x11 => viaTable (mulC fFP32 y)
  | _ => Calc.val x

/-- Each element multiplied by a factor, then scaled by γ and shifted by β where G = 1 (R227). -/
def scaleRow (w : Work) (q : Nat) (gs bs : Option (List Num)) (xs : List Num) (r : Num) : Op (List Num) :=
  w.lanes q (xs.zipIdx.map (fun e => (mulC fFP32 e.1 r).andThen (fun y => match gs, bs with
    | some g, some b => (mulC fFP32 y (g.getD e.2 Num.zero)).andThen (fun v => addC fFP32 v (b.getD e.2 Num.zero))
    | _, _ => Calc.val y)))

/-- The reduction of the squares of a row, each rounded once. -/
def sumSquares (w : Work) (q : Nat) (xs : List Num) : Op Num := do
  let ys ← w.lanes q (xs.map (fun x => mulC fFP32 x x))
  reduceTree w q ys

/-- SOFTMAX of a row (R226). -/
def softmaxRow (w : Work) (q : Nat) (p : Num) (tbl : Option FuncTable) (xs : List Num) : Op (List Num) := do
  let ys ← w.lanes q (xs.map (fun x => mulC fFP32 x p))
  let m := extreme Num.max ys
  if m = .inf true then Op.at 5 w.c.nn [q, 0, 0, 0] (Op.nan (.error .invalid)) else do
    let es ← w.lanes q (ys.map (fun y => (subC fFP32 y m).andThen (fun d => match tbl with
      | some t => t.eval d
      | none => Calc.val d)))
    let s ← reduceTree w q es
    w.lanes q (es.map (fun e => divC fFP32 e s))

/-- RMSNORM and LAYERNORM of a row (R227). -/
def normRow (w : Work) (q : Nat) (eps : Num) (gs bs : Option (List Num)) (xs : List Num) : Op (List Num) := do
  let s ← sumSquares w q xs
  let r ← w.lanes q [normFactor s xs.length eps]
  scaleRow w q gs bs xs (r.headD Num.zero)

/-- A row less its mean. -/
def centred (w : Work) (q : Nat) (xs : List Num) : Op (List Num) := do
  let t ← reduceTree w q xs
  let mu ← w.lanes q [divC fFP32 t (Num.ofInt xs.length)]
  w.lanes q (xs.map (fun x => subC fFP32 x (mu.headD Num.zero)))

/-- One row of a row operation (Table 9-1, R226, R227); `gs` and `bs` are γ and β where G = 1. -/
def rowOp (w : Work) (q f : Nat) (p : Num) (tbl : Option FuncTable) (gs bs : Option (List Num)) (xs : List Num) :
    Op (List Num) :=
  match f with
  | 0x20 => do
    let v ← reduceTree w q xs
    pure [v]
  | 0x21 => pure [extreme Num.max xs]
  | 0x22 => pure [extreme Num.min xs]
  | 0x23 => do
    let v ← sumSquares w q xs
    pure [v]
  | 0x30 => softmaxRow w q p tbl xs
  | 0x31 => normRow w q p gs bs xs
  | _ => do
    let cs ← centred w q xs
    normRow w q p gs bs cs

/-! ### A VOP at one core -/

/-- The descriptors of a VOP. -/
structure VopJob where
  a : Desc
  b : Desc
  d : Desc

/-- Convert and write one row of results to the destination, cut at its rows; reports and counts follow. -/
def vopOut (w : Work) (d : Desc) (use : Option SlotUse) (zps : List Nat) (q : Nat)
    (rows : List ((Nat × Nat × Nat) × List Num)) : Op Unit := do
  let mode := fun (_ : Nat) => roundMode d.round
  let ch := ofs0 w.c d
  let bs ← Op.map rows (fun r => w.convert 5 (fun _ => [q, 0, 0, 0]) ((rowBlocks d r.2).zipIdx.map (fun e =>
    convBlock d mode use (ch + 32 * e.2) (zps.drop (32 * e.2)) e.1.2 e.1.1)) d.epb)
  Op.each (rows.zip bs) (fun e => do
    let _ ← writeRow w d 0 e.1.1 (e.2.map ConvBlock.raw)
    Op.each e.2.zipIdx (fun b => reportConv w d (ch + 32 * b.2) 0 [] [] false b.1))
  let all := bs.flatten
  let n := (rows.map (fun r => r.2.length)).sum
  let sat := (all.map ConvBlock.sat).sum
  w.count 5 0x10 0x04 0 n
  w.count 5 0x28 0x04 3 sat
  w.count 5 0x30 0x04 4 (all.filter ConvBlock.under).length
  w.event 0x31 n
  w.event 0x41 sat

/-- P of an operation that takes it. -/
def vopParam (w : Work) (q : Nat) : Op Num := Op.at 5 w.c.nn [q, 0, 0, 0]
  (Op.nan (if usesP (vFunc w.g) then fFP32.decode (vP w.g) else .ok Num.zero))

/-- A row operation on row q. -/
def vopRow (w : Work) (j : VopJob) (use : Option SlotUse) (zps : List Nat) (tbl : Option FuncTable) (q : Nat) :
    Op Unit := do
  let g := w.g
  let f := vFunc g
  let p ← vopParam w q
  let xs ← readLane w q j.a (rowParts (vWide g) j.a q)
  let affineOn := isNorm f && vG g
  let one := rowParts (vWide g) j.b 0
  let gs ← (if affineOn then do
      let l ← readLane w q j.b one
      pure (some l) else pure none)
  let bs ← (if affineOn then do
      let l ← readLane w q (betaOf j.b) one
      pure (some l) else pure none)
  let ys ← rowOp w q f p tbl gs bs xs
  let parts := rowParts (vWide g) j.d q
  vopOut w j.d use zps q (parts.zipIdx.map (fun e => (e.1, (ys.drop ((j.d.e0 + 1) * e.2)).take (j.d.e0 + 1))))

/-- An element operation on row q. -/
def vopElems (w : Work) (j : VopJob) (use : Option SlotUse) (zps : List Nat) (tbl : Option FuncTable) (q : Nat) :
    Op Unit := do
  let g := w.g
  let p ← vopParam w q
  let xs ← readLane w q j.a [j.d.rowIdx q]
  let ys ← (if usesSrc2 g then readLane w q j.b [if sameShape j.b j.d then j.d.rowIdx q else (0, 0, 0)]
    else pure (xs.map (fun _ => Num.zero)))
  let rs ← w.lanes q ((xs.zip ys).map (fun e => elemOp (vFunc g) p tbl e.1 e.2))
  vopOut w j.d use zps q [(j.d.rowIdx q, rs)]

/-- Rows of a row operation at one core. -/
def rowCount (g : Granule) (a : Desc) : Nat := if vWide g then (a.e2 + 1) * (a.e3 + 1) else a.rows

/-- A VOP evaluates a table. -/
def vopTable (g : Granule) : Bool := [0x10, 0x11, 0x30].contains (vFunc g)

/-- A VOP at one core; with an operand in device memory it may wait, for free cycles (R233). -/
def vopCore (w : Work) (j : VopJob) (tbl : Option FuncTable) : Op Unit := do
  let s ← Op.get
  let use := slotUse s j.d
  let near := j.a.space && j.d.space && (!usesSrc2 w.g || j.b.space)
  if !near then w.waits 5 0x20 0x04 2
  let tbl ← (if vopTable w.g then Op.at 5 w.c.nn [0, 0, 0, 0] (useTable w (vTable w.g) tbl) else pure none)
  let zps ← Op.at 5 w.c.nn [0, 0, 0, 0] (readZps w.c j.d 0 j.d.blocks)
  if isRowOp (vFunc w.g) then Op.each (List.range (rowCount w.g j.a)) (vopRow w j use zps tbl)
  else Op.each (List.range j.d.rows) (vopElems w j use zps tbl)

/-- A VOP at every core, under the table that stood at its issue (R231). -/
def vopRun (s : State) (p : Fin 16) (t : StreamTag) (g : Granule) (n : Nat) : Effect :=
  let tbl := tableAt s p t g n
  let r := onCoresOf s p t g (fun w => vopCore w
    { a := descOf s p t g (vSrc1 g), b := descOf s p t g (vSrc2 g), d := descOf s p t g (vDst g) } tbl)
  { state := r.1, traps := r.2, wait := .none }

/-- The shared command of every VOP but TBLLOAD. -/
def vopCmd (f : Nat) : StreamCmd :=
  { matches_ := fun g => cOpcode g = 0x30 && vFunc g = f,
    reads := fun g => vSrc1 g :: (if usesSrc2 g then [vSrc2 g] else []), writes := fun g => [vDst g], check := vopCheck,
    hold := fun _ _ _ _ => false, atIssue := fun _ _ _ _ => false,
    blocked := fun s p t _ n => opBehind (s.stream p t) n 0x30, run := vopRun }

/-- Carry out a VOP. -/
def vop (f : Nat) (p : Fin 16) (t : StreamTag) (s : State) : Host.Outcome State Fault Refusal := .next (issue (vopCmd f) p t s)

/-- ADD. -/
def execAdd (p : Fin 16) (t : StreamTag) (s : State) : Host.Outcome State Fault Refusal := vop 0x01 p t s
/-- SUB. -/
def execSub (p : Fin 16) (t : StreamTag) (s : State) : Host.Outcome State Fault Refusal := vop 0x02 p t s
/-- MUL. -/
def execMul (p : Fin 16) (t : StreamTag) (s : State) : Host.Outcome State Fault Refusal := vop 0x03 p t s
/-- MAX. -/
def execMax (p : Fin 16) (t : StreamTag) (s : State) : Host.Outcome State Fault Refusal := vop 0x04 p t s
/-- MIN. -/
def execMin (p : Fin 16) (t : StreamTag) (s : State) : Host.Outcome State Fault Refusal := vop 0x05 p t s
/-- CVT. -/
def execCvt (p : Fin 16) (t : StreamTag) (s : State) : Host.Outcome State Fault Refusal := vop 0x06 p t s
/-- SCALE. -/
def execScale (p : Fin 16) (t : StreamTag) (s : State) : Host.Outcome State Fault Refusal := vop 0x07 p t s
/-- OFFSET. -/
def execOffset (p : Fin 16) (t : StreamTag) (s : State) : Host.Outcome State Fault Refusal := vop 0x08 p t s
/-- FUNC. -/
def execFuncVop (p : Fin 16) (t : StreamTag) (s : State) : Host.Outcome State Fault Refusal := vop 0x10 p t s
/-- DERIV. -/
def execDeriv (p : Fin 16) (t : StreamTag) (s : State) : Host.Outcome State Fault Refusal := vop 0x11 p t s
/-- RSUM. -/
def execRsum (p : Fin 16) (t : StreamTag) (s : State) : Host.Outcome State Fault Refusal := vop 0x20 p t s
/-- RMAX. -/
def execRmax (p : Fin 16) (t : StreamTag) (s : State) : Host.Outcome State Fault Refusal := vop 0x21 p t s
/-- RMIN. -/
def execRmin (p : Fin 16) (t : StreamTag) (s : State) : Host.Outcome State Fault Refusal := vop 0x22 p t s
/-- RSUMSQ. -/
def execRsumsq (p : Fin 16) (t : StreamTag) (s : State) : Host.Outcome State Fault Refusal := vop 0x23 p t s
/-- SOFTMAX. -/
def execSoftmax (p : Fin 16) (t : StreamTag) (s : State) : Host.Outcome State Fault Refusal := vop 0x30 p t s
/-- RMSNORM. -/
def execRmsnorm (p : Fin 16) (t : StreamTag) (s : State) : Host.Outcome State Fault Refusal := vop 0x31 p t s
/-- LAYERNORM. -/
def execLayernorm (p : Fin 16) (t : StreamTag) (s : State) : Host.Outcome State Fault Refusal := vop 0x32 p t s

/-! ### TBLLOAD (R228, R231) -/

/-- A finite FP32 code. -/
def fp32Finite (c : Nat) : Bool := match fFP32.decode c with
  | .ok v => !v.isInf
  | .error _ => false

/-- Every code decodes. -/
def noNan (f : FloatFmt) (cs : List Nat) : Bool := cs.all (fun c => match f.decode c with
  | .ok _ => true
  | .error _ => false)

/-- The image of Table 9-2 after its checks, in the order of R231. -/
def tableImage (bs : List Byte) : Except TrapKind FuncTable :=
  let kind := leAt bs 28 1
  let f := tableFields bs
  if !(kind = 1 || kind = 2) || !(fp32Finite f.w && Num.zero.lt (fFP32.value f.w)) || !fp32Finite f.x0 ||
    !fp32Finite f.x1 then .error .invalid
  else if (slice bs 29 35).any (fun b => decide (b ≠ 0#8)) then .error .invalid
  else if !noNan fFP32 [f.loValue, f.loSlope, f.hiValue, f.hiSlope] ||
    !noNan fBF16 (f.coeffs.flatMap (fun c => [c.1, c.2.1, c.2.2])) then .error .nanInput
  else .ok f

/-- Read the image through SRC1's slice at the south-west core of the rectangle. -/
def readTable (c : Ctx) (d : Desc) : Op FuncTable := Op.at 5 c.nn [0, 0, 0, 0] (do
  let bs ← readSpace c d (valueAddr c d 0 (0, 0, 0)) 1600
  Op.nan (tableImage bs))

/-- TBLLOAD reads and checks the image at the south-west core. -/
def tblloadRun (s : State) (p : Fin 16) (t : StreamTag) (g : Granule) : Effect :=
  match targetCores (s.part p) g with
  | [] => Effect.done s
  | c :: _ =>
    match Op.exec (readTable (ctxOf s p t c) (descOf s p t g (vSrc1 g))) s with
    | (.ok f, s) => { state := s, traps := [], wait := .table (vTable g) f }
    | (.error e, s) => { state := s, traps := [e], wait := .none }

def tblloadCmd : StreamCmd :=
  { matches_ := fun g => cOpcode g = 0x30 && vFunc g = 0x3F, reads := fun g => [vSrc1 g], writes := fun _ => [],
    check := fun s p t g =>
      let d := descOf s p t g (vSrc1 g)
      failIf 3 (decide (field g 47 33 ≠ 0) || decide (vP g ≠ 0)) ++ failIf 5 (!(d.fmt = .int8 && d.e0 = 1599)) ++
      descChecks s p .source d,
    hold := fun _ _ _ _ => false, atIssue := fun _ _ _ _ => false,
    blocked := fun s p t _ n => opBehind (s.stream p t) n 0x30, run := fun s p t g _ => tblloadRun s p t g }

/-- TBLLOAD: the table stands in the store once the command completes (R231). -/
def execTblload (p : Fin 16) (t : StreamTag) (s : State) : Host.Outcome State Fault Refusal :=
  .next (issue tblloadCmd p t s)

end Sys2Proof.Machine
end

