-- ==== Sys2Proof/Machine/Move.lean ====
section
/-! DEFINITION. LOAD (R130, R502): moves of codes as stored, and conversions between formats. -/

namespace Sys2Proof.Machine

/-! ### Operand fields (Table 3-6) -/

def lSrc (g : Granule) : Nat := field g 111 96
def lDst (g : Granule) : Nat := field g 95 80
def lOfs (g : Granule) : Nat := field g 79 48

/-- The outermost dimension of a source (R502). -/
def Desc.outer (d : Desc) : Nat := if d.e3 ≠ 0 then 3 else if d.e2 ≠ 0 then 2 else if d.e1 ≠ 0 then 1 else 0

/-- OFS along a dimension. -/
def ofsAlong (a : Desc) (ofs dim : Nat) : Nat := if a.outer = dim then ofs else 0

/-- Every element named lies within the source's extents (R502). -/
def loadFits (a d : Desc) (ofs : Nat) : Bool :=
  decide (ofsAlong a ofs 0 + d.e0 ≤ a.e0) && decide (ofsAlong a ofs 1 + d.e1 ≤ a.e1) &&
  decide (ofsAlong a ofs 2 + d.e2 ≤ a.e2) && decide (ofsAlong a ofs 3 + d.e3 ≤ a.e3)

/-- A move of one format along dimension 0 takes whole blocks, or whole groups with crumbs (R502). -/
def loadAligned (a d : Desc) (ofs : Nat) : Bool :=
  a.fmt ≠ d.fmt || decide (ofsAlong a ofs 0 % (if a.crumb || d.crumb then 256 else a.epb) = 0)

/-- Checks of LOAD. -/
def loadCheck (s : State) (p : Fin 16) (t : StreamTag) (g : Granule) : List Nat :=
  let a := descOf s p t g (lSrc g)
  let d := descOf s p t g (lDst g)
  descChecks s p .loadSrc a ++ descChecks s p .loadDst d ++ failIf 5 (!loadAligned a d (lOfs g)) ++
  failIf 6 (!loadFits a d (lOfs g))

/-- The source row of a destination row. -/
def sourceRow (a : Desc) (ofs : Nat) (r : Nat × Nat × Nat) : Nat × Nat × Nat :=
  (r.1 + ofsAlong a ofs 1, r.2.1 + ofsAlong a ofs 2, r.2.2 + ofsAlong a ofs 3)

/-! ### Moves of one format -/

/-- A crumb group moves with its scale words and its granules as stored (Table 11-9). -/
def moveGroup (c : Ctx) (a d : Desc) (ja jd : Nat) (ra rd : Nat × Nat × Nat) : Op Unit := do
  let w ← readSpace c a (scaleAddr c a ja ra) 16
  let crumb := ((List.range 8).map (fun k => leAt w (2 * k) 2 / 0x8000 * 2 ^ k)).sum
  let whole := 8 * a.fmt.blockBytes
  let size := if crumb = 0 then whole else 32 * (crumb % 16)
  if crumb ≠ 0 && (decide (crumb / 16 ≠ 8) || decide (8 ≤ crumb % 16) || decide (whole < size)) then
    malformed c a (valueAddr c a ja ra)
  else do
    let v ← readSpace c a (valueAddr c a ja ra) size
    writeSpace c d (valueAddr c d jd rd) v
    writeSpace c d (scaleAddr c d jd rd) w
    Op.mod (fun s => countCrumb s c.nn whole size (decide (crumb = 0)))

/-- One row moved as stored: crumbs as they are, or compressed, or restored; an unscaled source gives scales of 1.0. -/
def moveRow (w : Work) (a d : Desc) (j0 : Nat) (ra rd : Nat × Nat × Nat) : Op Unit :=
  if a.crumb && d.crumb then
    Op.each (List.range (d.blocks / 8)) (fun k => moveGroup w.c a d (j0 + 8 * k) (8 * k) ra rd)
  else do
    let bs ← recallBlocks w.c a j0 d.blocks ra
    let _ ← writeRow w d 0 rd bs
    pure ()

/-! ### Conversions -/

/-- A scale that the spec leaves open: a positive SC16 code that the format and the block's values determine, otherwise free
(DESIGN CHOICE, assumption 38). -/
def freeScale (d : Desc) (xs : List Num) : Nat :=
  Config.loadScale (64 * d.fmt.blockBytes + d.fmt.perBlock) (xs.map (fW48.encodeWide .nearestEven)) % 0x7F7F + 1

/-- The formats of a converting LOAD whose block scale Table 8-4 gives. -/
def tableScaled (d : Desc) : Bool := (d.fmt.isAct && d.signed) || d.fmt = .e4m3 || d.fmt = .e5m2

/-- Encode one block of a converting LOAD. -/
def loadBlock (s : State) (w : Work) (d : Desc) (jb : Nat) (r : Nat × Nat × Nat) (zps : List Nat) (n : Nat) (xs : List Num) :
    Except Nans ConvBlock :=
  let sc := if !d.scaled then scOne else if tableScaled d then tableScale d.fmt (maxMag (xs.take n)) else freeScale d (xs.take n)
  plainBlock d (roundAt s w.c w.g d 0x06 jb r) sc zps n xs []

/-- One row decoded and encoded (R120 to R125); a row that traps is not written. -/
def convertLoadRow (w : Work) (a d : Desc) (zps : List Nat) (i : Nat) : Op Unit := do
  let rd := d.rowIdx i
  let ra := sourceRow a (lOfs w.g) rd
  let o := ofsAlong a (lOfs w.g) 0
  let j0 := if a.crumb then o / 256 * 8 else o / a.epb
  let skip := o - j0 * a.epb
  let need := (skip + d.e0) / a.epb + 1
  let vs ← readValues w.c a j0 (if a.crumb then (need + 7) / 8 * 8 else need) ra
  let vals := (vs.drop skip).take (d.e0 + 1)
  let s ← Op.get
  if d.round = 2 then Op.mod (fun s => countDraws s w.c.nn vals.length)
  let bs ← w.convert 0 (fun _ => [i, 0, 0, 0]) ((rowBlocks d vals).zipIdx.map (fun e =>
    loadBlock s w d e.2 rd (zps.drop (d.epb * e.2)) e.1.2 e.1.1)) d.epb
  let _ ← writeRow w d 0 rd (bs.map ConvBlock.raw)
  pure ()

/-- LOAD at one core. -/
def loadCore (w : Work) (a d : Desc) : Op Unit :=
  if a.fmt = d.fmt then
    Op.each (List.range d.rows) (fun i =>
      let rd := d.rowIdx i
      moveRow w a d (ofsAlong a (lOfs w.g) 0 / a.epb) (sourceRow a (lOfs w.g) rd) rd)
  else do
    let zps ← readZps w.c d 0 d.blocks
    Op.each (List.range d.rows) (convertLoadRow w a d zps)

/-- LOAD at every core. -/
def loadRun (s : State) (p : Fin 16) (t : StreamTag) (g : Granule) : Effect :=
  let r := onCoresOf s p t g (fun w => loadCore w (descOf s p t g (lSrc g)) (descOf s p t g (lDst g)))
  { state := r.1, traps := r.2, wait := .none }

def loadCmd : StreamCmd :=
  { matches_ := fun g => cOpcode g = 0x10, reads := fun g => [lSrc g], writes := fun g => [lDst g], check := loadCheck,
    hold := fun _ _ _ _ => false, atIssue := fun _ _ _ _ => false,
    blocked := fun s p t _ n => opBehind (s.stream p t) n 0x10, run := fun s p t g _ => loadRun s p t g }

/-- LOAD. -/
def execLoad (p : Fin 16) (t : StreamTag) (s : State) : Host.Outcome State Fault Refusal := .next (issue loadCmd p t s)

end Sys2Proof.Machine
end

