-- ==== Sys2Proof/Machine/Update.lean ====
section
/-! DEFINITION. The update unit (12): the group table, the schedule, clipping, the recurrence, sparse touching, the
outputs of a pass, the ratio watch and UPD. -/

namespace Sys2Proof.Machine

/-! ### Operand fields (Table 3-6) -/

def uGroup (g : Granule) : Nat := field g 127 116
def uMdesc (g : Granule) : Nat := field g 111 96
def uAdesc1 (g : Granule) : Nat := field g 95 80
def uAdesc2 (g : Granule) : Nat := field g 79 64
def uGdesc (g : Granule) : Nat := field g 63 48
def uNdesc (g : Granule) : Nat := field g 47 32
def uEdesc (g : Granule) : Nat := field g 31 16

/-! ### Pages that an exchange may take (R337) -/

/-- Byte ranges that a descriptor names over a rectangle of cores and its step ring. -/
def descRanges (w h : Nat) (d : Desc) : List (Nat × Nat) :=
  (List.range w).flatMap (fun cx => (List.range h).flatMap (fun cy => (List.range (d.sring + 1)).flatMap (fun k =>
    (List.range d.rows).flatMap (fun r =>
      let (i1, i2, i3) := d.rowIdx r
      let i1 := i1 + d.coreOfs cx cy 1
      let i2 := i2 + d.coreOfs cx cy 2
      let i3 := i3 + d.coreOfs cx cy 3
      let lo := d.coreOfs cx cy 0 / d.epb
      let hi := lo + d.blocks - 1
      let v := d.vbase + k * d.vstep * 64
      let sc := d.sbase + k * d.ssstep * 64
      (v + d.valueOfs lo i1 i2 i3, d.valueOfs hi i1 i2 i3 - d.valueOfs lo i1 i2 i3 + d.fmt.blockBytes) ::
        (if d.scaled then [(sc + d.scaleOfs lo i1 i2 i3, d.scaleOfs hi i1 i2 i3 - d.scaleOfs lo i1 i2 i3 + 2)] else [])))))

/-- A byte of the range lies in a tier page whose flag is MIGRATE. -/
def touchesMigrate (m : PartMem) (r : Nat × Nat) : Bool :=
  decide (r.1 < regionBase) && (List.range ((r.1 % frameBytes + r.2 + frameBytes - 1) / frameBytes)).any (fun i =>
    decide (Sparse.get 0 m.flags (r.1 / frameBytes + i) = 0))

/-- RANGE of R337. -/
def migrateBad (m : PartMem) (w h : Nat) (d : Desc) : Bool := !d.space && (descRanges w h d).any (touchesMigrate m)

/-- n bytes lie inside tiered space, in pages whose flag is not MIGRATE (R302). -/
def fixedPages (m : PartMem) (a n : Nat) : Bool :=
  decide (a + n ≤ m.pages.length * frameBytes) && !touchesMigrate m (a, n)

/-! ### Checks at issue (R299, Table 12-1) -/

/-- The operands of a UPD with their roles. -/
def updOperands (s : State) (p : Fin 16) (t : StreamTag) (g : Granule) : List (Role × Desc) :=
  let d := fun i => descOf s p t g i
  [(.dest, d (uMdesc g)), (.dest, d (uAdesc1 g)), (.dest, d (uAdesc2 g)), (.source, d (uGdesc g)),
   (.copyDst, d (uNdesc g))] ++ (if cOF g 0 then [(.dest, d (uEdesc g))] else [])

/-- Formats and shapes of Table 12-1. -/
def updShapesOk (s : State) (p : Fin 16) (t : StreamTag) (g : Granule) : Bool :=
  let m := descOf s p t g (uMdesc g)
  let a1 := descOf s p t g (uAdesc1 g)
  let a2 := descOf s p t g (uAdesc2 g)
  let gd := descOf s p t g (uGdesc g)
  let n := descOf s p t g (uNdesc g)
  let e := descOf s p t g (uEdesc g)
  let same := fun (d : Desc) => sameShape d m
  m.fmt = .m40 && a1.fmt = .q8 && a2.fmt = .l8 && gd.fmt = .g8 && n.fmt.narrow &&
  decide ((m.e0 + 1) % 256 = 0) && decide ((m.e1 + 1) % 32 = 0) && m.e2 = 0 && m.e3 = 0 &&
  same a1 && same a2 && same gd && gd.abase ≠ 0 &&
  n.e0 = m.e1 && n.e1 = m.e0 && n.e2 = 0 && n.e3 = 0 && (!cOF g 0 || (e.fmt = .e4m3 && same e)) &&
  (updOperands s p t g).all (fun o => !o.2.space && !o.2.slotEn)

/-- Checks of UPD: no core offset applies. -/
def updCheck (s : State) (p : Fin 16) (t : StreamTag) (g : Granule) : List Nat :=
  let x := s.part p
  failIf 3 (decide (x.groups ≤ uGroup g)) ++ failIf 5 (!updShapesOk s p t g) ++
  failIf 6 (decide ((descOf s p t g (uGdesc g)).abase % 64 ≠ 0)) ++
  (updOperands s p t g).flatMap (fun o =>
    failIf 5 (!descOk 1 1 o.1 o.2) ++ failIf 6 (!rangeOk x.mem 1 1 o.2 || migrateBad x.mem 1 1 o.2))

/-! ### The group entry (R301, R302) -/

/-- The bytes of a group entry. -/
abbrev GroupEntry := List Byte

/-- Address of entry g (R301). -/
def groupAddr (x : Part) (g : Nat) : Nat := (64 * x.desc + 4095) / 4096 * 4096 + 128 * g

/-- An FP32 field of an entry. -/
def GroupEntry.fp (e : GroupEntry) (ofs : Nat) : Num := fFP32.value (leAt e ofs 4)

def GroupEntry.beta1 (e : GroupEntry) : Num := e.fp 0
def GroupEntry.beta2 (e : GroupEntry) : Num := e.fp 4
def GroupEntry.eps (e : GroupEntry) : Num := e.fp 8
def GroupEntry.acoef (e : GroupEntry) : Num := e.fp 12
def GroupEntry.bcoef (e : GroupEntry) : Num := e.fp 16
def GroupEntry.lambda (e : GroupEntry) : Num := e.fp 20
def GroupEntry.clip (e : GroupEntry) : Num := e.fp 24
def GroupEntry.qmul (e : GroupEntry) : Num := e.fp 28
def GroupEntry.soft (e : GroupEntry) : Num := e.fp 32
def GroupEntry.hard (e : GroupEntry) : Num := e.fp 36
def GroupEntry.sched (e : GroupEntry) : Nat := leAt e 40 6
def GroupEntry.schedN (e : GroupEntry) : Nat := leAt e 46 1
def GroupEntry.copyFmt (e : GroupEntry) : Nat := leAt e 47 1
def GroupEntry.norm (e : GroupEntry) : Nat := leAt e 48 6
def GroupEntry.normN (e : GroupEntry) : Nat := leAt e 54 2
def GroupEntry.bmapN (e : GroupEntry) : Nat := leAt e 56 1
def GroupEntry.flags (e : GroupEntry) : Word := BitVec.ofNat 32 (leAt e 60 4)
def GroupEntry.t (e : GroupEntry) : Nat := leAt e 64 4
def GroupEntry.tmark (e : GroupEntry) : Nat := leAt e 68 4
def GroupEntry.record (e : GroupEntry) : Word := BitVec.ofNat 32 (leAt e 88 4)
def GroupEntry.dense (e : GroupEntry) : Bool := flag e.flags 30
def GroupEntry.bias (e : GroupEntry) : Bool := flag e.flags 29
def GroupEntry.state (e : GroupEntry) : Nat := field e.flags 28 27
def GroupEntry.clipSrc (e : GroupEntry) : Nat := field e.flags 26 25
def GroupEntry.holdEn (e : GroupEntry) : Bool := flag e.flags 24
def GroupEntry.qstat (e : GroupEntry) : Bool := flag e.flags 23

/-- Bytes of one touched bitmap, and the distance of two (R300). -/
def bitmapLen (m : Desc) : Nat := ((m.e1 + 1) * (m.e0 + 1) + 2047) / 2048
def bitmapStep (m : Desc) : Nat := (bitmapLen m + 63) / 64 * 64

/-- The schedule's breakpoints. -/
def readSchedule (c : Ctx) (e : GroupEntry) : Op (List (Nat × Nat)) := do
  let bs ← readMem c.side c.p e.sched (8 * (e.schedN + 1))
  pure ((List.range (e.schedN + 1)).map (fun i => (leAt bs (8 * i) 4, leAt bs (8 * i + 4) 4)))

/-- Offsets of the FP32 fields of an entry (Table 12-2). -/
def fpFields : List Nat := (List.range 10).map (fun i => 4 * i) ++ [72, 76, 84]

/-- Breakpoints ascend strictly. -/
def ascends : List (Nat × Nat) → Bool
  | a :: b :: rest => decide (a.1 < b.1) && ascends (b :: rest)
  | _ => true

/-- A zero or positive number. -/
def notNegative (x : Num) : Bool := x.isZero || !x.isNeg

/-- The second stage of R302, but for the schedule: VALID, reserved bits, ranges and places. -/
def entryOk (m : PartMem) (e : GroupEntry) (md gd nd : Desc) : Bool :=
  let beta := fun (x : Num) => notNegative x && x.lt Num.one
  flag e.flags 31 && decide (field e.flags 22 0 = 0) && decide (e.state ≠ 3) && decide (e.clipSrc ≠ 3) &&
  decide (leAt e 57 3 = 0) && decide (leAt e 92 36 = 0) && decide (field e.record 15 4 = 0) &&
  fpFields.all (fun i => !(e.fp i).isInf) && beta e.beta1 && beta e.beta2 && notNegative e.eps &&
  notNegative e.clip && notNegative e.soft && notNegative e.hard && Num.zero.lt e.qmul &&
  decide (Fmt.ofCode e.copyFmt = nd.fmt) && decide (e.copyFmt < 3) && decide (e.sched % 64 = 0) && decide (e.norm % 64 = 0) &&
  fixedPages m e.sched (8 * (e.schedN + 1)) &&
  (e.clipSrc ≠ 1 || fixedPages m e.norm (64 * (e.normN + 1))) &&
  (e.dense || fixedPages m gd.abase (e.bmapN * bitmapStep md + bitmapLen md))

/-- The two stages of R302: the schedule of a sound entry. A schedule in a page that an exchange may take is not read
(R337). -/
def checkEntry (c : Ctx) (e : GroupEntry) (md gd nd : Desc) : Op (List (Nat × Nat)) := do
  let s ← Op.get
  let m := (s.part c.p).mem
  let len := 8 * (e.schedN + 1)
  let _ ← Op.nan (allOk (fun i => fFP32.decode (leAt e i 4)) fpFields)
  let pts ← (if inRange m e.sched len && !touchesMigrate m (e.sched, len) then readSchedule c e else pure [])
  let _ ← Op.nan (allOk (fun e : Nat × Nat => fFP32.decode e.2) pts)
  if entryOk m e md gd nd && ascends pts && pts.all (fun e => !(fFP32.value e.2).isInf) then pure pts
  else Op.stop (.nan .invalid)

/-! ### Once per UPD (R303 to R307) -/

/-- Arithmetic of the unit: results or a trap, and whether an operation made an infinity of finite operands (R127), which
stands also where a later one traps. -/
abbrev Arith (α : Type) := ExceptT TrapKind (StateM Bool) α

/-- One result. -/
def Arith.of (c : Calc) : Arith Num := ExceptT.mk (fun inf => (c.res, inf || c.inf))

/-- Every operation of the unit is rounded once to W48 (R136). -/
def Arith.add (a b : Num) : Arith Num := Arith.of (addC fW48 a b)
def Arith.sub (a b : Num) : Arith Num := Arith.of (subC fW48 a b)
def Arith.mul (a b : Num) : Arith Num := Arith.of (mulC fW48 a b)
def Arith.div (a b : Num) : Arith Num := Arith.of (divC fW48 a b)
def Arith.sqrt (a : Num) : Arith Num := Arith.of (Calc.op [a] (sqrtR fW48 a))

/-- The result or the trap, and the infinity. -/
def Arith.exec {α : Type} (m : Arith α) : Except TrapKind α × Bool := (ExceptT.run m) false

/-- The learning rate (R304). -/
def learningRate (pts : List (Nat × Nat)) (t : Nat) : Arith Num := do
  let eta := fun (i : Nat) => fFP32.value (pts.getD i (0, 0)).2
  let at_ := fun (i : Nat) => (pts.getD i (0, 0)).1
  let last := pts.length - 1
  if t ≤ at_ 0 then pure (eta 0)
  else if at_ last ≤ t then pure (eta last)
  else
    let i := ((List.range pts.length).filter (fun i => decide (at_ i ≤ t))).getLastD 0
    let num := fW48.rne (Num.ofInt ((t : Int) - at_ i))
    let den := fW48.rne (Num.ofInt ((at_ (i + 1) : Int) - at_ i))
    let f ← Arith.div num den
    let rise ← Arith.sub (eta (i + 1)) (eta i)
    let part ← Arith.mul rise f
    Arith.add (eta i) part

/-- β^t by squaring (R305). -/
def powW48 (beta : Num) (t : Nat) : Arith Num := do
  let r ← (List.range 32).foldlM (fun (e : Num × Num) j => do
    let p ← if t.testBit j then Arith.mul e.1 e.2 else pure e.1
    let q ← Arith.mul e.2 e.2
    pure (p, q)) (Num.one, beta)
  pure r.1

/-- The coefficients of the recurrence. -/
structure Coefs where
  eta : Num
  c1 : Num
  c2 : Num
  om1 : Num
  om2 : Num
  k : Num

/-- 1 - β^t under BIAS. -/
def biasTerm (e : GroupEntry) (beta : Num) (t : Nat) : Arith Num :=
  if e.bias then (do
    let q ← powW48 beta t
    Arith.sub Num.one q)
  else pure Num.one

/-- The coefficients of one UPD. -/
def coefsOf (e : GroupEntry) (pts : List (Nat × Nat)) (t : Nat) (k : Num) : Arith Coefs := do
  let eta ← learningRate pts t
  let c1 ← biasTerm e e.beta1 t
  let c2 ← biasTerm e e.beta2 t
  let om1 ← Arith.sub Num.one e.beta1
  let om2 ← Arith.sub Num.one e.beta2
  pure { eta := eta, c1 := c1, c2 := c2, om1 := om1, om2 := om2, k := k }

/-- One element: the new averages and the new weight (R307). -/
structure Elem where
  m : Num
  v : Num
  wn : Num

/-- A running average: r(r(β x) + r(om y)). -/
def average (beta om x y : Num) : Arith Num := do
  let a ← Arith.mul beta x
  let b ← Arith.mul om y
  Arith.add a b

/-- The term u of the recurrence. -/
def updateTerm (e : GroupEntry) (c : Coefs) (m v : Num) : Arith Num :=
  match e.state with
  | 0 => pure Num.zero
  | 1 => do
    let x ← Arith.div m c.c1
    Arith.mul e.acoef x
  | _ => do
    let x ← Arith.div m c.c1
    let y ← Arith.div v c.c2
    let z ← Arith.sqrt y
    let den ← Arith.add z e.eps
    let r ← Arith.div x den
    Arith.mul e.acoef r

/-- The recurrence of one element (R307). -/
def recurrence (e : GroupEntry) (c : Coefs) (g w q l : Num) : Arith Elem := do
  let g ← if c.k = Num.one then pure g else Arith.mul g c.k
  let m ← if e.state = 0 then pure Num.zero else average e.beta1 c.om1 q g
  let v ← if e.state = 2 then do
      let gg ← Arith.mul g g
      average e.beta2 c.om2 l gg
    else pure Num.zero
  let u ← updateTerm e c m v
  let bg ← Arith.mul e.bcoef g
  let ub ← Arith.add u bg
  let lw ← Arith.mul e.lambda w
  let d ← Arith.add ub lw
  let ed ← Arith.mul c.eta d
  let wn ← Arith.sub w ed
  pure { m := m, v := v, wn := wn }

/-- One element and its M40 code. -/
def elemOut (e : GroupEntry) (c : Coefs) (round : Nat) (g w q l : Num) : Except TrapKind (Elem × Nat) × Bool :=
  let r := (recurrence e c g w q l).exec
  match r.1 with
  | .ok x =>
    let code := fM40.encodeWide (roundMode round) x.wn
    (.ok (x, code), r.2 || ((fM40.value code).isInf && !x.wn.isInf))
  | .error k => (.error k, r.2)

/-! ### Panels (R298, R309) -/

/-- What a UPD works with. -/
structure UpdJob where
  w : Work
  group : Nat
  e : GroupEntry
  md : Desc
  a1 : Desc
  a2 : Desc
  gd : Desc
  nd : Desc
  ed : Option Desc
  bits : List Bool             -- touched rows by r + R·cb; all of them under DENSE

/-- INF_SEEN of a part of a UPD (R127). -/
def UpdJob.inf (j : UpdJob) (cb r i : Nat) (made : Bool) : Op Unit :=
  if made then Op.mod (fun s => noteInf s j.w.c.p j.w.t j.w.g 9 0xFF [j.group, cb, r, i]) else pure ()

/-- Run a part of a UPD at tile coordinates (R316). -/
def UpdJob.at_ (j : UpdJob) {α : Type} (cb r i : Nat) (m : Op α) : Op α := Op.at 9 0xFF [j.group, cb, r, i] m

/-- A result of the unit outside the rows of a panel. -/
def UpdJob.calc {α : Type} (j : UpdJob) (m : Arith α) : Op α := do
  j.inf 0 0 0 m.exec.2
  j.at_ 0 0 0 (Op.nan m.exec.1)

/-- Rows and column blocks. -/
def UpdJob.rowsN (j : UpdJob) : Nat := j.md.e1 + 1
def UpdJob.colsN (j : UpdJob) : Nat := (j.md.e0 + 1) / 256

/-- Row r of column block cb is touched. -/
def UpdJob.touched (j : UpdJob) (cb r : Nat) : Bool := j.e.dense || j.bits.getD (r + j.rowsN * cb) false

/-- The touched rows of a panel. -/
def UpdJob.liveRows (j : UpdJob) (cb pj : Nat) : List Nat :=
  ((List.range 32).map (fun i => 32 * pj + i)).filter (j.touched cb)

/-- The panels, with their touched rows: column blocks ascending, and rows ascending within each (DESIGN CHOICE,
assumption 40: the order shows only when a panel traps). -/
def UpdJob.panels (j : UpdJob) : List (Nat × Nat × List Nat) :=
  (List.range j.colsN).flatMap (fun cb => (List.range (j.rowsN / 32)).map (fun pj => (cb, pj, j.liveRows cb pj)))

/-- The unit of a panel (R298); one for a panel of the lower shelf is not stated. -/
def panelUnit (s : State) (j : UpdJob) (cb pj : Nat) : Nat :=
  match locate (s.part j.w.c.p).mem (valueAddr j.w.c j.md (8 * cb) (32 * pj, 0, 0)) with
  | .frame id ofs => if isLower id then (Config.freeWord s.freeCount).toNat % 4 else groupOf (id * frameBytes + ofs)
  | _ => 0

/-- Add to a count of a unit (Table 12-9). -/
def bumpUu (s : State) (u lo bit n : Nat) : State :=
  let b := 0x98000000 + 0x100 * u
  bump s (b + lo) (some (b + 4, bit)) n

/-- MM_UU_LAST (Table 12-12). -/
def setUuLast (s : State) (u p outcome group : Nat) : State :=
  setRaw s (0x98000000 + 0x100 * u + 8) (at32 28 p ||| at32 26 outcome ||| at32 0 group)

/-- 256 values of one row of a column block; a NaN names its element. -/
def UpdJob.row (j : UpdJob) (d : Desc) (cb r : Nat) : Op (List Num) :=
  Op.atElem 9 0xFF (fun i => [j.group, cb, r, i]) (readValues j.w.c d (256 / d.epb * cb) (256 / d.epb) (r, 0, 0))

/-- A touched row after the recurrence: M40 codes and the values they hold, the averages, and the row's sums. -/
structure RowOut where
  r : Nat
  codes : List Nat
  vals : List Num
  ms : List Num
  vs : List Num
  dw : Num
  ww : Num

/-- Lanes of a unit (R297). -/
def unitLanes : Nat := 64

/-- The recurrence over one touched row (R307, R312): the unit's lanes take 64 elements in a cycle. -/
def updRow (j : UpdJob) (c : Coefs) (cb r : Nat) (old : List Num) : Op RowOut := do
  let gs ← j.row j.gd cb r
  let qs ← (if j.e.state ≠ 0 then j.row j.a1 cb r else pure [])
  let ls ← (if j.e.state = 2 then j.row j.a2 cb r else pure [])
  let rs := (List.range 256).map (fun i => elemOut j.e c j.md.round (gs.getD i Num.zero) (old.getD i Num.zero)
    (qs.getD i Num.zero) (ls.getD i Num.zero))
  let es ← Op.map (chunks unitLanes (256 / unitLanes) rs).zipIdx (fun k => do
    let lo := unitLanes * k.2
    match k.1.findIdx? (fun e => e.2) with
    | some i => j.inf cb r (lo + i) true
    | none => pure ()
    Op.atElem 9 0xFF (fun i => [j.group, cb, r, i])
      (Op.nanAt lo (together (k.1.zipIdx.map (fun e => wholeAt e.2 e.1.1)))))
  let es := es.flatten
  let vals := es.map (fun e => fM40.value e.2)
  let ds ← Op.map (old.zip vals).zipIdx (fun e => j.at_ cb r e.2 (Op.nan (e.1.1.add e.1.2.neg)))
  let dw ← j.at_ cb r 0 (Op.nan (exactRun ds ds))
  let ww ← j.at_ cb r 0 (Op.nan (exactRun old old))
  pure { r := r, codes := es.map (fun e => e.2), vals := vals, ms := es.map (fun e => e.1.m), vs := es.map (fun e => e.1.v),
         dw := dw, ww := ww }

/-- A unit holds a panel in its SRAM: a disturbance that waits there meets it (R16, R319). -/
def holdPanel (j : UpdJob) (cb pj : Nat) : Op Unit := do
  let s ← Op.get
  let u := panelUnit s j cb pj
  if s.lineErrs.isEmpty then pure () else do
    let _ ← j.at_ cb (32 * pj) 0 (crossLinks [unitKey u] 1 0 (List.replicate 32 0#8))
    pure ()

/-- A UPD at the unit of a panel, on that unit's die. -/
def UpdJob.onUnit (j : UpdJob) (s : State) (cb pj : Nat) : UpdJob :=
  { j with w := { j.w with c := { j.w.c with side := .io (panelUnit s j cb pj / 2) } } }

/-- A panel's old weights and its touched rows after the recurrence. -/
def updPanel (j : UpdJob) (c : Coefs) (cb pj : Nat) (live : List Nat) : Op (List (List Num) × List RowOut) := do
  holdPanel j cb pj
  let old ← Op.map (List.range 32) (fun i => j.row j.md cb (32 * pj + i))
  let rows ← Op.map live (fun r => updRow j c cb r (old.getD (r - 32 * pj) []))
  pure (old, rows)

/-! ### Outputs (R310, R311) -/

/-- A block encoded at a scale; a trap carries the place of its first element that traps. -/
def encodeAt (j : UpdJob) (d : Desc) (m : Nat → Rounding) (sc : Nat) (place : Nat → Nat × Nat × Nat) (xs : List Num) :
    Op BlockOut :=
  Op.atElem 9 0xFF (fun i =>
    let e := place i
    [j.group, e.1, e.2.1, e.2.2]) (Op.nanAt 0 (encodeBlock d m sc [] xs.length xs))

/-- The blocks of a touched row in one output tensor. -/
def rowOut (j : UpdJob) (d : Desc) (purpose : Nat) (scale : List Num → Nat) (cb r : Nat) (xs : List Num) :
    Op (List BlockOut) := do
  let s ← Op.get
  let n := d.epb
  Op.map (List.range (256 / n)) (fun b =>
    let ys := (xs.drop (n * b)).take n
    encodeAt j d (roundAt s j.w.c j.w.g d purpose (256 / n * cb + b) (r, 0, 0)) (scale ys) (fun i => (cb, r, n * b + i)) ys)

/-- Statistic of a column of the forward copy (Table 12-5). -/
def copyStat (mean : Bool) (xs : List Num) : Rat :=
  if mean then (xs.map (fun x => ratAbs x.rat)).sum / 32 else maxMag xs

/-- Scale of a column of the forward copy: the smallest BF16 value not below rne_w48(stat × QMUL). -/
def copyScale (e : GroupEntry) (xs : List Num) : Nat :=
  match fW48.rne (Num.ofRat (copyStat e.qstat xs * e.qmul.rat)) with
  | .inf _ => 0x7F7F
  | .fin q _ => bf16Ceil q

/-- Encode a panel, and write it whole: its saturated elements. -/
def writePanel (j : UpdJob) (cb pj : Nat) (old : List (List Num)) (rows : List RowOut) : Op Nat := do
  let s ← Op.get
  let outs ← Op.map rows (fun o => do
    let q ← (if j.e.state ≠ 0 then rowOut j j.a1 0x03 (fun ys => bf16Ceil (maxMag ys / 127)) cb o.r o.ms else pure [])
    let l ← (if j.e.state = 2 then rowOut j j.a2 0x04 (fun ys => bf16Ceil (maxMag ys)) cb o.r o.vs else pure [])
    let e ← (match j.ed with
      | some ed => rowOut j ed 0 (fun ys => if ed.scaled then tableScale .e4m3 (maxMag ys) else scOne) cb o.r o.vals
      | none => pure [])
    pure (q, l, e))
  let stored := fun (i : Nat) => ((rows.find? (fun o => o.r = 32 * pj + i)).map RowOut.vals).getD (old.getD i [])
  let copies ← Op.map (List.range 256) (fun n =>
    let xs := (List.range 32).map (fun i => (stored i).getD n Num.zero)
    encodeAt j j.nd (roundAt s j.w.c j.w.g j.nd 0x05 pj (256 * cb + n, 0, 0)) (copyScale j.e xs)
      (fun i => (cb, 32 * pj + i, n)) xs)
  let at_ := fun (r : Nat) (m : Op Unit) => j.at_ cb r 0 m
  Op.each (rows.zip outs) (fun e => at_ e.1.r (do
    let row := (e.1.r, 0, 0)
    writeBlocks j.w.c j.md (8 * cb) row ((chunks 32 8 e.1.codes).map (fun cs => { bytes := blockBytesOf .m40 cs, scale := scOne }))
    if e.2.1 ≠ [] then writeBlocks j.w.c j.a1 (4 * cb) row (e.2.1.map BlockOut.raw)
    if e.2.2.1 ≠ [] then writeBlocks j.w.c j.a2 (4 * cb) row (e.2.2.1.map BlockOut.raw)
    match j.ed with
    | some ed => writeBlocks j.w.c ed (8 * cb) row (e.2.2.2.map BlockOut.raw)
    | none => pure ()))
  Op.each copies.zipIdx (fun e => at_ (32 * pj) (writeBlocks j.w.c j.nd pj (256 * cb + e.2, 0, 0) [e.1.raw]))
  pure (((outs.flatMap (fun o => o.1 ++ o.2.1 ++ o.2.2)) ++ copies).map BlockOut.sat).sum

/-! ### Passes (R312 to R315) -/

/-- The passes of a UPD. -/
inductive UpdPass where
  | norm | measure | write
  deriving DecidableEq, Repr

/-- Bytes that a pass moves for a panel with `live` touched rows: Table 12-6 for each touched parameter, and 5 bytes for each
parameter of an untouched row (R315). -/
def passBytes (j : UpdJob) (pass : UpdPass) (live : Nat) : Nat :=
  let avg := (if j.e.state ≠ 0 then 264 else 0) + (if j.e.state = 2 then 264 else 0)
  let copy := match j.ed with
    | some ed => 256 + (if ed.scaled then 16 else 0)
    | none => 0
  let rd := 32 * 1280 + live * (272 + avg)
  match pass with
  | .norm => live * 272
  | .measure => rd
  | .write => rd + live * (1280 + avg + copy + 8 * (j.nd.fmt.blockBytes + 2))

/-- Count a panel of a pass at its unit. -/
def countPanel (j : UpdJob) (pass : UpdPass) (cb pj live sat : Nat) : Op Unit :=
  Op.mod (fun s =>
    let u := panelUnit s j cb pj
    if live = 0 then (if pass = .write then bumpUu s u 0x20 2 1 else s) else
    let s := setUuLast s u j.w.c.p.val (if pass = .write then 0 else 2) j.group
    let s := bumpUu s u 0x18 1 1
    let s := bumpUu s u 0x28 3 (passBytes j pass live)
    let s := bumpUu { s with freeCount := s.freeCount + 1 } u 0x38 5 (Config.waitCycles s.freeCount)
    if pass = .write then bumpUu (bumpUu s u 0x10 0 (256 * live)) u 0x30 4 sat else s)

/-- The norm pass: the exact sum of the squares of the touched rows (R306). -/
def normPass (j : UpdJob) : Op Num :=
  Op.fold (fun acc e => do
    let s ← Op.get
    let j := j.onUnit s e.1 e.2.1
    let sum ← Op.fold (fun acc r => do
      let gs ← j.at_ e.1 r 0 (j.row j.gd e.1 r)
      let q ← j.at_ e.1 r 0 (Op.nan (exactRun gs gs))
      j.at_ e.1 r 0 (Op.nan (acc.add q))) acc e.2.2
    countPanel j .norm e.1 e.2.1 e.2.2.length 0
    pure sum) Num.zero j.panels

/-- Sums of the rows written so far: the two totals, and each row's own with its bitmap index. -/
structure Sums where
  dw : Num
  ww : Num
  rows : List (Nat × Num × Num)

/-- The measure pass or the write pass. -/
def updPass (j : UpdJob) (c : Coefs) (pass : UpdPass) : Op Sums :=
  Op.fold (fun acc e =>
    if e.2.2 = [] then do
      countPanel j pass e.1 e.2.1 0 0
      pure acc
    else do
      let s ← Op.get
      let j := j.onUnit s e.1 e.2.1
      let (old, rows) ← updPanel j c e.1 e.2.1 e.2.2
      let sat ← (if pass = .write then writePanel j e.1 e.2.1 old rows else pure 0)
      countPanel j pass e.1 e.2.1 e.2.2.length sat
      Op.fold (fun acc o => do
        let dw ← j.at_ e.1 o.r 0 (Op.nan (acc.dw.add o.dw))
        let ww ← j.at_ e.1 o.r 0 (Op.nan (acc.ww.add o.ww))
        pure { dw := dw, ww := ww, rows := acc.rows ++ [(o.r + j.rowsN * e.1, o.dw, o.ww)] }) acc rows)
    { dw := Num.zero, ww := Num.zero, rows := [] } j.panels

/-- A ratio from two exact sums (R312). -/
def ratioOf (dw ww : Num) : Arith Num := do
  let d ← Arith.of (rneC fW48 dw)
  let w ← Arith.of (rneC fW48 ww)
  if w.isZero then pure (if d.isZero then Num.zero else .inf false)
  else do
    let a ← Arith.sqrt d
    let b ← Arith.sqrt w
    Arith.div a b

/-- The largest row ratio with the lowest index on a tie (R312). -/
def bestRow (rs : List (Nat × Num)) : Num × Nat :=
  match rs with
  | [] => (Num.zero, 0)
  | r :: rest =>
    let b := rest.foldl (fun b e => if b.2.lt e.2 || (!e.2.lt b.2 && decide (e.1 < b.1)) then e else b) r
    (b.2, b.1)

/-- What a UPD writes at completion. -/
structure UpdResult where
  ratio : Num
  blockRatio : Num
  blockIndex : Nat
  soft : Bool
  hard : Bool

/-- Judge the ratios of a pass against the bounds (R313). -/
def judge (j : UpdJob) (x : Sums) : Op UpdResult := do
  let ratio ← j.calc (ratioOf x.dw x.ww)
  let rs ← Op.map x.rows (fun e => do
    let q ← j.calc (ratioOf e.2.1 e.2.2)
    pure (e.1, q))
  let b := bestRow rs
  pure { ratio := ratio, blockRatio := b.1, blockIndex := b.2, soft := !j.e.soft.isZero && j.e.soft.lt ratio,
         hard := !j.e.hard.isZero && j.e.hard.lt ratio }

/-- Post bit i of MM_UU_EVENTS: 0 CLIPPED, 1 RATIO_SOFT, 2 RATIO_HARD, 3 HELD, the last three with a trace event (R313,
Table 12-13). -/
def postUpd (p : Fin 16) (t : StreamTag) (g : Granule) (events : Nat) (s : State) (i : Nat) : State :=
  if events.testBit i then
    let s := postBit s (0x98010000 + 4 * p.val) i
    if i = 0 then s else postEvent s p t (i + 3) 0xFF (cLayer g) (cOper g) (uGroup g)
  else s

/-- Post every event of a set. -/
def postUpds (s : State) (p : Fin 16) (t : StreamTag) (g : Granule) (events : Nat) : State :=
  (List.range 4).foldl (postUpd p t g events) s

/-- T, TMARK and bytes 72 to 91 of the entry, which a UPD writes as it completes (R302, R303, R312). -/
def entryBytes (j : UpdJob) (t tmark : Nat) (n : Num) (clipped held : Bool) (r : UpdResult) : List Byte :=
  let fp := fun (x : Num) => leBytes 4 (fFP32.encodeWide .nearestEven x)
  let holds := min 0xFFFF (field j.e.record 31 16 + (if held then 1 else 0))
  let rec_ := at32 16 holds ||| bit32 3 clipped ||| bit32 2 held ||| bit32 1 r.hard ||| bit32 0 r.soft
  leBytes 4 t ++ leBytes 4 tmark ++ fp r.ratio ++ fp r.blockRatio ++ leBytes 4 r.blockIndex ++ fp n ++ leBytes 4 rec_.toNat

/-- The touched bits of all bitmaps together (R300). -/
def readBitmaps (c : Ctx) (e : GroupEntry) (md gd : Desc) : Op (List Bool) := do
  if e.dense then pure [] else do
    let maps ← Op.map (List.range (e.bmapN + 1)) (fun i => readMem c.side c.p (gd.abase + i * bitmapStep md) (bitmapLen md))
    pure ((List.range ((md.e1 + 1) * ((md.e0 + 1) / 256))).map (fun b =>
      maps.any (fun bs => (bs.getD (b / 8) 0#8).getLsbD (b % 8))))

/-- The gradient norm before the passes that update (R306): the norm list or the norm pass. -/
def gradNorm (j : UpdJob) : Op Num := do
  let at_ := fun {α : Type} (m : Op α) => j.at_ 0 0 0 m
  let n2 ← (match j.e.clipSrc with
    | 1 => do
      if j.e.clip.isZero then pure Num.zero else do
        let xs ← Op.map (List.range (j.e.normN + 1)) (fun i => at_ (do
          let bs ← readMem j.w.c.side j.w.c.p (j.e.norm + 64 * i) 6
          Op.nan (fW48.decode (leNat bs))))
        Op.fold (fun acc x => at_ (Op.nan (acc.add x))) Num.zero xs
    | 2 => normPass j
    | _ => pure Num.zero)
  if j.e.clip.isZero then pure Num.zero else j.calc (do
    let n2 ← Arith.of (rneC fW48 n2)
    Arith.sqrt n2)

/-- The state after a held UPD reads HELD at its units (Table 12-12). -/
def holdUnits (j : UpdJob) : Op Unit :=
  Op.each (j.panels.filter (fun e => decide (e.2.2 ≠ []))) (fun e =>
    Op.mod (fun s => setUuLast s (panelUnit s j e.1 e.2.1) j.w.c.p.val 1 j.group))

/-- A UPD from its begin to the end of its passes (R302 to R314): what it writes as it completes. The events of a measure
pass are posted after it, the others as the UPD completes (R313). -/
def updRun (w : Work) (md a1 a2 gd nd : Desc) (ed : Option Desc) : Op FlightWait := do
  let group := uGroup w.g
  let at_ := fun {α : Type} (m : Op α) => Op.at 9 0xFF [group, 0, 0, 0] m
  let s ← Op.get
  let e ← at_ (readMem w.c.side w.c.p (groupAddr (s.part w.c.p) group) 128)
  let pts ← at_ (checkEntry w.c e md gd nd)
  let bits ← at_ (readBitmaps w.c e md gd)
  let j : UpdJob := { w := w, group := group, e := e, md := md, a1 := a1, a2 := a2, gd := gd, nd := nd, ed := ed, bits := bits }
  let mark := (w.c.step + 1) % 2 ^ 32
  let fresh := decide (GroupEntry.tmark e ≠ mark)
  let t := if fresh then (GroupEntry.t e + 1) % 2 ^ 32 else GroupEntry.t e
  let n ← gradNorm j
  let clipped := decide (GroupEntry.clipSrc e ≠ 0) && !(GroupEntry.clip e).isZero && (GroupEntry.clip e).lt n
  let k ← (if clipped then j.calc (Arith.div (GroupEntry.clip e) n) else pure Num.one)
  let c ← j.calc (coefsOf e pts t k)
  let measure := GroupEntry.holdEn e && !(GroupEntry.hard e).isZero
  let first ← (if measure then do
      let x ← updPass j c .measure
      let r ← judge j x
      pure (some r)
    else pure none)
  let held := (first.map UpdResult.hard).getD false
  let bit := fun (i : Nat) (b : Bool) => if b then 2 ^ i else 0
  let early := (first.map (fun r => bit 1 r.soft + bit 2 r.hard + bit 3 r.hard)).getD 0
  Op.mod (fun s => postUpds s w.c.p w.t w.g early)
  if held then holdUnits j
  let r ← (if held then pure (first.getD ⟨Num.zero, Num.zero, 0, false, false⟩) else do
    let x ← updPass j c .write
    judge j x)
  Op.mod (fun s => { s with freeCount := s.freeCount + 1 })
  pure (.update (entryBytes j t (if fresh then mark else GroupEntry.tmark e) n clipped held r)
    (bit 0 clipped + (if measure then 0 else bit 1 r.soft + bit 2 r.hard)))

/-- Mark the units that finished a panel of a UPD that stopped; `old` is the state at its begin (Table 12-12). -/
def stopUnits (old s : State) (p : Fin 16) (group : Nat) : State :=
  (List.range 4).foldl (fun s u =>
    let panels := 0x98000018 + 0x100 * u
    if count s panels = count old panels then s else setUuLast s u p.val 2 group) s

/-- The context of a UPD: no core offset applies (R299); the entry, the schedule and the lists are read on the west die. -/
def updCtx (s : State) (p : Fin 16) (t : StreamTag) : Ctx := { ctxOf s p t (0, 0, 0) with side := .io 0 }

/-- The effect of UPD when it begins. -/
def updEffect (s : State) (p : Fin 16) (t : StreamTag) (g : Granule) : Effect :=
  let w : Work := { c := updCtx s p t, t := t, g := g }
  let d := fun i => descOf s p t g i
  let r := Op.exec (updRun w (d (uMdesc g)) (d (uAdesc1 g)) (d (uAdesc2 g)) (d (uGdesc g)) (d (uNdesc g))
    (if cOF g 0 then some (d (uEdesc g)) else none)) (freshRows s)
  match r.1 with
  | .ok x => { state := r.2, traps := [], wait := x }
  | .error e => { state := stopUnits s r.2 p (uGroup g), traps := [{ e with unit := 9, core := 0xFF }], wait := .none }

/-- A UPD of the same group stands in front of flight n and has not written the entry (R302). -/
def updBlocked (s : State) (p : Fin 16) (t : StreamTag) (g : Granule) (n : Nat) : Bool :=
  (ahead (s.stream p t) n).any (fun f => cOpcode f.word = 0x40 && decide (uGroup f.word = uGroup g))

/-- A UPD completes: it writes its entry and posts its events (R302, R313). -/
def finishUpd (s : State) (p : Fin 16) (t : StreamTag) (f : Flight) : State :=
  match f.wait with
  | .update entry events =>
    let group := uGroup f.word
    match Op.exec (Op.at 9 0xFF [group, 0, 0, 0] (writeMem (.io 0) p (groupAddr (s.part p) group + 64) entry)) s with
    | (.ok _, s) => completeFlight (postUpds s p t f.word events) p t f.seq
    | (.error e, s') => if e.waits then noteWait p s e else trapFlight (stopUpds s' p) p t f [e]
  | _ => completeFlight s p t f.seq

def updCmd : StreamCmd :=
  { matches_ := fun g => cOpcode g = 0x40,
    reads := fun g => [uMdesc g, uAdesc1 g, uAdesc2 g, uGdesc g],
    writes := fun g => [uMdesc g, uAdesc1 g, uAdesc2 g, uNdesc g] ++ (if cOF g 0 then [uEdesc g] else []),
    check := updCheck, hold := fun _ _ _ _ => false, atIssue := fun _ _ _ _ => false,
    blocked := updBlocked, run := fun s p t g _ => updEffect s p t g }

/-- UPD. -/
def execUpd (p : Fin 16) (t : StreamTag) (s : State) : Host.Outcome State Fault Refusal := .next (issue updCmd p t s)

end Sys2Proof.Machine
end

