-- ==== Sys2Proof/Machine/Tiers.lean ====
section
/-! DEFINITION. The tier controllers (13): MIGR and the exchanges of frames, PUB and the publication of regions, PREF and
the prefetch entries, and the region pool. -/

namespace Sys2Proof.Machine

/-! ### Pages (R333 to R336) -/

/-- Pages that hold the descriptor table or the group table (R333): they begin at page 0. -/
def tablePages (x : Part) : Nat := (groupAddr x x.groups + frameBytes - 1) / frameBytes

/-- Flag of a tier page: 0 MIGRATE, 1 PIN_UPPER, 2 PIN_LOWER. -/
def pageFlag (m : PartMem) (i : Nat) : Nat := Sparse.get 0 m.flags i

/-- The page lies on the lower shelf. -/
def pageLower (m : PartMem) (i : Nat) : Bool := isLower (m.pages.getD i 0)

/-- Stripe accesses of a page in the window. -/
def pageAccess (m : PartMem) (i : Nat) : Nat := Sparse.get 0 m.access i

/-- An exchange holds the page. -/
def pageHeld (m : PartMem) (i : Nat) : Bool := m.exch.any (fun e => e.pageA = i || e.pageB = i)

/-- The first of the pages with the largest, or the smallest, count: a tie goes to the lower page number (R334). -/
def pickPage (m : PartMem) (most : Bool) : List Nat → Option Nat
  | [] => none
  | i :: rest => some (rest.foldl (fun b j =>
      if (if most then decide (pageAccess m b < pageAccess m j) else decide (pageAccess m j < pageAccess m b)) then j else b) i)

/-- Pages on a shelf that carry MIGRATE, that no exchange holds, and that `free` allows. -/
def movable (m : PartMem) (lower : Bool) (free : Nat → Bool) : List Nat :=
  (List.range m.pages.length).filter (fun i =>
    pageLower m i = lower && decide (pageFlag m i = 0) && !pageHeld m i && free i)

/-- The partner that a named page takes (R335): the one that R334 would choose of the other shelf. -/
def partner (m : PartMem) (toLower : Bool) (free : Nat → Bool) : Option Nat :=
  pickPage m toLower (movable m toLower free)

/-- Start the exchanges of the named pages that are on the wrong shelf and that no exchange holds, as far as partners are
there. -/
def startExchanges (m : PartMem) (toLower : Bool) (free : Nat → Bool) : List Nat → PartMem
  | [] => m
  | i :: rest =>
    let m := if pageLower m i = toLower || pageHeld m i then m else
      match partner m toLower free with
      | some k => { m with exch := m.exch ++ [⟨i, k⟩] }
      | none => m
    startExchanges m toLower free rest

/-! ### MIGR (R335) -/

def gAddr (g : Granule) : Nat := field g 111 64
def gPages (g : Granule) : Nat := field g 63 32
def gShelf (g : Granule) : Nat := field g 31 30

/-- The pages that a MIGR names. -/
def migrPages (g : Granule) : List Nat := (List.range (gPages g + 1)).map (fun i => gAddr g / frameBytes + i)

/-- A page that the MIGR does not name. -/
def unnamed (g : Granule) (i : Nat) : Bool :=
  decide (i < gAddr g / frameBytes) || decide (gAddr g / frameBytes + gPages g < i)

/-- Checks of MIGR. -/
def migrCheck (s : State) (p : Fin 16) (_t : StreamTag) (g : Granule) : List Nat :=
  let x := s.part p
  let first := gAddr g / frameBytes
  let outside := decide (gAddr g % frameBytes ≠ 0) || decide (x.mem.pages.length ≤ first + gPages g)
  let toLower := decide (gShelf g = 1)
  let wrong := ((migrPages g).filter (fun i => pageLower x.mem i ≠ toLower)).length
  let room := ((List.range x.mem.pages.length).filter (fun i =>
    pageLower x.mem i = toLower && decide (pageFlag x.mem i = 0) && unnamed g i)).length
  failIf 3 (decide (1 < gShelf g)) ++ failIf 6 (outside || decide (first < tablePages x)) ++
  failIf 10 (!outside && decide (room < wrong))

/-- The named pages that now lie on their shelf take their flag; the others' exchanges start where they can. The pages
still to move are returned. -/
def advanceMigr (m : PartMem) (g : Granule) (todo : List Nat) : PartMem × List Nat :=
  let toLower := decide (gShelf g = 1)
  let done := todo.filter (fun i => pageLower m i = toLower && !pageHeld m i)
  let m := { m with flags := done.foldl (fun f i => Sparse.set 0 f i (if toLower then 2 else 1)) m.flags }
  let left := todo.filter (fun i => !done.contains i)
  (startExchanges m toLower (unnamed g) left, left)

/-- What a MIGR with pages left waits for. -/
def migrWait (left : List Nat) : FlightWait := if left = [] then .none else .migr left

def migrCmd : StreamCmd :=
  { matches_ := fun g => cOpcode g = 0x42, reads := fun _ => [], writes := fun _ => [], check := migrCheck,
    hold := fun _ _ _ _ => false, atIssue := fun _ _ _ _ => false,
    run := fun s p _ g _ =>
      let r := advanceMigr (s.part p).mem g (migrPages g)
      { state := s.modPart p (fun x => { x with mem := r.1 }), traps := [], wait := migrWait r.2 } }

/-- MIGR. -/
def execMigr (p : Fin 16) (t : StreamTag) (s : State) : Host.Outcome State Fault Refusal := .next (issue migrCmd p t s)

/-- Go on with every MIGR of a stream that still has pages to move. -/
def advanceStream (p : Fin 16) (t : StreamTag) : List Flight → State → State
  | [], s => s
  | f :: fs, s =>
    let s := match f.wait with
      | .migr todo =>
        let r := advanceMigr (s.part p).mem f.word todo
        setWait (s.modPart p (fun x => { x with mem := r.1 })) p t f.seq (migrWait r.2)
      | _ => s
    advanceStream p t fs s

/-- Go on with every MIGR of a partition. -/
def advanceMigrs (s : State) (p : Fin 16) : State :=
  [StreamTag.F, .B, .U].foldl (fun s t => advanceStream p t (s.stream p t).flight s) s

/-! ### Exchanges (R334, R336) -/

/-- AUTO_PAIRS of TR_CFG. -/
def autoPairs (s : State) : Nat := field (rawReg s 0xA0000000) 15 8

/-- The pair of partition memory m that the west or the east tier controller would exchange next, with the count of its lower
page: the most-accessed lower page behind its ports and the least-accessed upper page, where the first count exceeds twice
the second plus 16 (R334). -/
def autoPair (west : Bool) (m : PartMem) : Option (Nat × Exchange) :=
  let mine := fun (i : Nat) => decide (lowerPort (m.pages.getD i 0) < 2) = west
  match pickPage m true (movable m true mine), pickPage m false (movable m false (fun _ => true)) with
  | some a, some b => if 2 * pageAccess m b + 16 < pageAccess m a then some (pageAccess m a, ⟨a, b⟩) else none
  | _, _ => none

/-- Pages of the partition migrate by themselves: LOAD has bound the tier mode MIGRATE (R334). -/
def migrates (x : Part) : Bool := x.job.loaded && !x.mem.pin

/-- The partition whose pair goes first: the most-accessed page of all, a tie going to the lower page number and then to
the lower partition. -/
def autoChoice (west : Bool) (s : State) : Option (Fin 16 × Exchange) :=
  let cands := (List.finRange 16).filterMap (fun p =>
    if migrates (s.part p) then (autoPair west (s.part p).mem).map (fun e => (p, e)) else none)
  let before := fun (a b : Fin 16 × Nat × Exchange) =>
    decide (b.2.1 < a.2.1) || (decide (b.2.1 = a.2.1) && decide (a.2.2.pageA < b.2.2.pageA))
  (cands.head?).map (fun c =>
    let best := cands.tail.foldl (fun b e => if before e b then e else b) c
    (best.1, best.2.2))

/-- Exchanges that one tier controller starts at its window's end, as many as AUTO_PAIRS allows over all partitions. -/
def autoExchanges (west : Bool) : Nat → State → State
  | 0, s => s
  | n + 1, s =>
    match autoChoice west s with
    | some (p, e) =>
      let put := fun (m : PartMem) => { m with exch := m.exch ++ [e] }
      autoExchanges west n (s.modPart p (fun x => { x with mem := put x.mem }))
    | none => s

/-- The most-accessed lower page carries PIN_LOWER, and would have moved (R483). -/
def pinContends (m : PartMem) : Bool :=
  let lower := (List.range m.pages.length).filter (pageLower m)
  match pickPage m true lower, pickPage m false (movable m false (fun _ => true)) with
  | some a, some b => decide (pageFlag m a = 2) && decide (2 * pageAccess m b + 16 < pageAccess m a)
  | _, _ => false

/-- A partition's wish that its pinning keeps from it is counted (R483). -/
def notePin (s : State) (p : Fin 16) : State :=
  if migrates (s.part p) && pinContends (s.part p).mem then bump s (0xF0005000 + 8 * p.val) none 1 else s

/-- Counting starts again in a partition. -/
def newWindow (s : State) (p : Fin 16) : State := s.modPart p (fun x => { x with mem := { x.mem with access := [] } })

/-- AUTO_MIGRATION_WINDOW: the window's end at both tier controllers. The spec gives their choices no order, so the operand
says which of them goes first (assumption 41). -/
def execAutoMigrationWindow (eastFirst : Bool) (s : State) : Host.Outcome State Fault Refusal :=
  let n := autoPairs s
  let s := (List.finRange 16).foldl notePin s
  .next ((List.finRange 16).foldl newWindow (autoExchanges eastFirst n (autoExchanges (!eastFirst) n s)))

/-- The granules of a frame that carry a disturbance. -/
def disturbedIn (s : State) (id : Nat) : List Nat :=
  (s.errs.filter (fun e => decide (e.1 / (frameBytes / 32) = id))).map (fun e => e.1 % (frameBytes / 32))

/-- The exchange of a page reads its frame, granule by granule, and re-encodes each (R336). The first 32 granules lie on
every data channel; of the others only those with a disturbance can come out otherwise than they went in. -/
def cleanFrame (id page : Nat) : Op Unit := do
  let s ← Op.get
  Op.each (List.range 32 ++ (disturbedIn s id).filter (fun g => decide (32 ≤ g))) (fun g => do
    let d ← readGranule id (32 * g) (page * frameBytes + 32 * g)
    Op.mod (fun s => putBytes s (id * frameBytes + 32 * g) d [id * (frameBytes / 32) + g]))

/-- The upper frame of an exchange passes between the I/O dies for the groups of the other die (R13, R336): its first
granule there, and the first of the lower frame that goes the other way. -/
def crossFrames (die upper page : Nat) : Op Unit := do
  let s ← Op.get
  match ((List.range 4).map (fun i => 256 * i)).find? (fun o => decide (dieOf upper o ≠ die)) with
  | some o => do
    let d := Sparse.getRun 0#8 s.mem (upper * frameBytes + o) 32
    let dev := page * frameBytes + o
    let _ ← crossed s (crossIn (.io die) (dieOf upper o) dev) d
    let s ← Op.get
    let _ ← crossed s (crossOut (.io die) (dieOf upper o) dev) d
    pure ()
  | none => pure ()

/-- The traffic of a frame that an exchange reads, or writes (Tables 13-10, 13-16): each group holds 2,048 of its stripes. -/
def countFrame (s : State) (id : Nat) (write : Bool) : State :=
  if isLower id then countAccess s id 0 write true frameBytes
  else (List.range 4).foldl (fun s g => bump s ((if write then 0x90000110 else 0x90000108) + 0x40 * g)
    (some (0x90000104 + 0x40 * g, if write then 1 else 0)) 2048) s

/-- Give the keys of a range of n keys from `a` the values of the range from `b`, and the other way round. -/
def swapRange {α : Type} [DecidableEq α] (d : α) (m : Sparse α) (a b n : Nat) : Sparse α :=
  let of := fun (lo : Nat) => m.filter (fun e => decide (lo ≤ e.1) && decide (e.1 < lo + n))
  let rest := Sparse.clearRange (Sparse.clearRange m a n) b n
  let put := fun (m : Sparse α) (lo dst : Nat) (es : Sparse α) =>
    es.foldl (fun m e => Sparse.set d m (e.1 - lo + dst) e.2) m
  put (put rest a b (of a)) b a (of b)

/-- Exchange the contents of two frames. -/
def swapFrames (s : State) (a b : Nat) : State :=
  { s with mem := swapRange 0#8 s.mem (a * frameBytes) (b * frameBytes) frameBytes,
           errs := swapRange 0 s.errs (a * (frameBytes / 32)) (b * (frameBytes / 32)) (frameBytes / 32) }

/-- The MIGR that a page is moved for, with its stream. -/
def migrOf (x : Part) (page : Nat) : Option (StreamTag × Flight) :=
  [StreamTag.F, .B, .U].findSome? (fun t => ((x.stream t).flight.find? (fun f => match f.wait with
    | .migr todo => todo.contains page
    | _ => false)).map (fun f => (t, f)))

/-- An exchange meets an uncorrectable granule (R321): the frames stay where they are, and the MIGR, or the partition for an
automatic migration, faults. -/
def exchangeFault (s : State) (p : Fin 16) (page : Nat) (e : Trap) : State :=
  let e := { e with unit := 0xB }
  match migrOf (s.part p) page with
  | some (t, f) => trapFlight s p t f [e]
  | none => startDrain (recordFault s p { trapFault Stream.idle .F 0#256 0 e with stream := 0xFF }) p

/-- Read both frames of an exchange. -/
def readExchange (m : PartMem) (e : Exchange) : Op Unit := do
  let a := m.pages.getD e.pageA 0
  let b := m.pages.getD e.pageB 0
  Op.mod (fun s => countFrame s a false)
  cleanFrame a e.pageA
  Op.mod (fun s => countFrame s b false)
  cleanFrame b e.pageB
  if isLower a then crossFrames (lowerPort a / 2) b e.pageB else crossFrames (lowerPort b / 2) a e.pageA

/-- An exchange ends: the pages keep their contents and trade their frames, and waiting MIGRs go on (R335, R336). -/
def endExchange (p : Fin 16) (index : Nat) (s : State) : State :=
  match (s.part p).mem.exch[index]? with
  | none => s
  | some e =>
    let m := (s.part p).mem
    let a := m.pages.getD e.pageA 0
    let b := m.pages.getD e.pageB 0
    let drop := fun (m : PartMem) => { m with exch := m.exch.eraseIdx index }
    match Op.exec (readExchange m e) (s.modPart p (fun x => { x with mem := drop x.mem })) with
    | (.error t, s) => exchangeFault s p e.pageA t
    | (.ok _, s) =>
      let s := bump (countFrame (countFrame (swapFrames s a b) a true) b true) (0xA0001018 + 0x40 * p.val) none 1
      let swap := fun (m : PartMem) => { m with pages := (m.pages.set e.pageA b).set e.pageB a }
      advanceMigrs (s.modPart p (fun x => { x with mem := swap x.mem })) p

/-! ### The region pool (R339) -/

/-- A region frame that was being zeroed rejoins the pool. -/
def frameZeroed (p : Fin 16) (index : Nat) (s : State) : State :=
  match (s.part p).mem.poolZeroing[index]? with
  | none => s
  | some id =>
    (zeroFrame s id).modPart p (fun x => { x with mem := { x.mem with
      poolFree := x.mem.poolFree ++ [id], poolZeroing := x.mem.poolZeroing.eraseIdx index } })

/-- Where the tier controllers act for a stream: on the west I/O die (assumption 87), with no core offset. -/
def tierWork (s : State) (p : Fin 16) (t : StreamTag) (g : Granule) : Work :=
  { c := { p := p, nn := 0, cx := 0, cy := 0, step := (s.stream p t).step, side := .io 0, t := t }, t := t, g := g }

/-! ### PUB (R342, R343) -/

def pRegion (g : Granule) : Nat := field g 111 96
def pSrc (g : Granule) : Nat := field g 95 80
def pName (g : Granule) : Nat := field g 79 64

/-- A PUB copies when SRC differs from REGION. -/
def pubCopies (g : Granule) : Bool := decide (pSrc g ≠ pRegion g)

/-- The region slot that a PUB names. -/
def pubSlot (s : State) (p : Fin 16) (g : Granule) : Option Nat := (slotsNamed (descOf s p .U g (pRegion g))).head?

/-- Checks of PUB: no core offset applies, so both descriptors lie in SPACE 0. -/
def pubCheck (s : State) (p : Fin 16) (t : StreamTag) (g : Granule) : List Nat :=
  let x := s.part p
  let r := descOf s p t g (pRegion g)
  let a := descOf s p t g (pSrc g)
  let isOpen := match pubSlot s p g with
    | some i => decide ((Sparse.get Region.free x.mem.regions i).state = .opened)
    | none => false
  let pair := pubCopies g && !(a.fmt = r.fmt && sameShape a r)
  failIf 3 (decide (0x3FF < pName g) && decide (pName g ≠ 0xFFFF)) ++
  failIf 5 (pair || r.space || a.space || !descOk 1 1 .dest r || !descOk 1 1 .source a) ++
  failIf 6 (!isOpen || !rangeOk x.mem 1 1 r || !rangeOk x.mem 1 1 a)

/-- The copy of a PUB: codes and scales as stored (R130). -/
def pubCopy (w : Work) (a r : Desc) : Op Unit :=
  Op.each (List.range r.rows) (fun i => Op.at 0xB 0xFF [i, 0, 0, 0] (moveRow w a r 0 (r.rowIdx i) (r.rowIdx i)))

def pubCmd : StreamCmd :=
  { matches_ := fun g => cOpcode g = 0x43, reads := fun g => if pubCopies g then [pSrc g] else [],
    writes := fun g => [pRegion g], check := pubCheck, hold := fun _ _ _ _ => false, atIssue := fun _ _ _ _ => false,
    run := fun s p t g _ =>
      if pubCopies g then
        match Op.exec (pubCopy (tierWork s p t g) (descOf s p t g (pSrc g)) (descOf s p t g (pRegion g))) s with
        | (.ok _, s) => { state := s, traps := [], wait := .pub }
        | (.error e, s) => { state := s, traps := [e], wait := .none }
      else { state := s, traps := [], wait := .pub } }

/-- PUB. -/
def execPub (p : Fin 16) (t : StreamTag) (s : State) : Host.Outcome State Fault Refusal := .next (issue pubCmd p t s)

/-- A PUB that has not taken effect. -/
def pubWaits (f : Flight) : Bool := cOpcode f.word = 0x43 && (f.wait = .pub || f.wait = .behind)

/-- The partition's commands in flight go on: it runs, stops, or ends after a STOP HALT or a RELEASE (R42). -/
def goesOn (x : Part) : Bool :=
  (x.state = .running || x.state = .stopping || x.state = .stopped || x.state = .scrubbing) && !x.resetDue

/-- A command in flight of any stream, other than flight n of the U-stream, still writes the slot. -/
def slotWritten (x : Part) (n i : Nat) : Bool :=
  [x.sF, x.sB, x.sU].any (fun q => q.flight.any (fun f => !f.done && f.seq ≠ n && f.writes.contains i))

/-- Steps 3 and 4 of R342: the slot is published under a name, or retired. -/
def publish (m : PartMem) (i name : Nat) : PartMem :=
  let r := Sparse.get Region.free m.regions i
  if name = 0xFFFF then
    freeRetired { m with regions := Sparse.set Region.free m.regions i { r with state := .retired } } i
  else
    let e := Sparse.get NameEntry.zero m.names name
    let m := { m with
      regions := Sparse.set Region.free m.regions i { r with state := .published, name := name },
      names := Sparse.set NameEntry.zero m.names name ⟨e.version + 1, i + 1⟩ }
    if e.slot = 0 then m else
    let old := e.slot - 1
    freeRetired { m with regions := Sparse.modify Region.free m.regions old (fun r => { r with state := .retired }) } old

/-- PUB_PUBLISH: once no other command writes the slot, the k-th flight's PUB takes effect, after every earlier PUB of its
stream. -/
def execPubPublish (p : Fin 16) (t : StreamTag) (k : Nat) (s : State) : Host.Outcome State Fault Refusal :=
  let x := s.part p
  match (x.stream t).flight[k]? with
  | some f =>
    match f.wait, f.writes.head? with
    | .pub, some i =>
      let earlier := ((x.stream t).flight.take k).any pubWaits
      if earlier || slotWritten x f.seq i || !goesOn x then .next s
      else .next (setWait (s.modPart p (fun x => { x with mem := publish x.mem i (pName f.word) })) p t f.seq .none)
    | _, _ => .next s
  | none => .next s

/-! ### PREF (R345 to R347) -/

def qList (g : Granule) : Nat := field g 111 96
def qWin (g : Granule) : Nat := field g 95 80
def qFirst (g : Granule) : Nat := field g 79 64
def qCnt (g : Granule) : Nat := field g 63 48

/-- Every byte of the range lies in tier pages flagged PIN_UPPER. -/
def pinnedUpper (m : PartMem) (r : Nat × Nat) : Bool :=
  decide (r.1 + r.2 ≤ m.pages.length * frameBytes) &&
  (List.range ((r.1 % frameBytes + r.2 + frameBytes - 1) / frameBytes)).all (fun i =>
    decide (pageFlag m (r.1 / frameBytes + i) = 1))

/-- Checks of PREF. -/
def prefCheck (s : State) (p : Fin 16) (t : StreamTag) (g : Granule) : List Nat :=
  let x := s.part p
  let w := descOf s p t g (qWin g)
  let l := descOf s p t g (qList g)
  let winOk := w.fmt = .int8 && w.layout = 0 && !w.space && decide ((w.e0 + 1) % 256 = 0) &&
    decide (w.s1 = (w.e0 + 1) / 64) && w.e3 = 0 && decide (w.s1 * (w.e1 + 1) ≤ w.s2)
  let listOk := l.fmt = .int8 && l.layout = 0 && !l.space && decide ((l.e0 + 1) % 32 = 0) &&
    decide (32 * (qFirst g + qCnt g + 1) ≤ l.e0 + 1)
  failIf 5 (!winOk || !listOk || !descOk 1 1 .dest w || !descOk 1 1 .source l) ++
  failIf 6 (!rangeOk x.mem 1 1 w || !rangeOk x.mem 1 1 l || !(descRanges 1 1 { w with sbase := 0 }).all (pinnedUpper x.mem))

/-- One entry of a prefetch list (Table 13-7), or BAD_FIELD (R347). -/
def prefEntry (x : Part) (w : Desc) (base : Nat) (bs : List Byte) : Option PrefEntry :=
  let name := leAt bs 0 2
  let slot := leAt bs 2 2
  let minVer := leAt bs 4 4
  let len := leAt bs 12 4
  let free := leAt bs 16 2
  let full := leAt bs 18 2
  let so := fun (v : Nat) => v / 0x8000 = 0 || soInRun x (v % 4096)
  if name < 0x400 && decide (minVer ≠ 0) && decide (slot ≤ w.e2) && decide (1 ≤ len) &&
      decide (len ≤ (w.e0 + 1) * (w.e1 + 1) / 256) && free / 4096 % 8 = 0 && full / 4096 % 8 = 0 && so free && so full &&
      decide (leAt bs 24 8 = 0) then
    some { name := name, dst := base + 64 * w.s2 * slot, minVer := BitVec.ofNat 32 minVer, srcOfs := leAt bs 8 4, len := len,
           freeEn := decide (0x8000 ≤ free), freeSo := free % 4096, freeValue := BitVec.ofNat 32 (leAt bs 20 4),
           fullEn := decide (0x8000 ≤ full), fullSo := full % 4096, src := none, ver := 0#32 }
  else none

/-- Read and check every entry of a PREF. -/
def readPref (w : Work) (win list : Desc) : Op (List PrefEntry) := do
  let s ← Op.get
  let n := qCnt w.g + 1
  let bs ← readDev w.c (valueAddr w.c list 0 (0, 0, 0) + 32 * qFirst w.g) (32 * n)
  let es := (List.range n).map (fun i => prefEntry (s.part w.c.p) win (win.vAt w.c.step) (slice bs (32 * i) 32))
  if es.any Option.isNone then Op.stop (.refused 3) else pure (es.filterMap id)

/-- Entries that a partition's queue holds (R347). -/
def prefRoom : Nat := 1024

/-- Entries that are queued now are discarded before they begin: the partition halts, or is released (Table 13-9). -/
def discardsEntries (x : Part) : Bool := x.halted || x.state = .scrubbing

/-- A PREF at the tier controllers: accepted when all its entries are good and fit. -/
def acceptPref (s : State) (p : Fin 16) (t : StreamTag) (g : Granule) : Effect :=
  let w := tierWork s p t g
  match Op.exec (Op.at 0xB 0xFF [0, 0, 0, 0] (readPref w (descOf s p t g (qWin g)) (descOf s p t g (qList g)))) s with
  | (.error e, s) => { state := s, traps := [e], wait := .none }
  | (.ok es, s) =>
    if (s.part p).mem.prefQ.length + es.length ≤ prefRoom then
      Effect.done (s.modPart p (fun x => if discardsEntries x then x else { x with mem := { x.mem with prefQ := x.mem.prefQ ++ es } }))
    else { state := s, traps := [], wait := .pref }

/-- A PREF in front of flight n is not yet accepted. -/
def prefBehind (q : Stream) (n : Nat) : Bool :=
  (ahead q n).any (fun f => cOpcode f.word = 0x41 && (f.wait = .pref || f.wait = .behind))

def prefCmd : StreamCmd :=
  { matches_ := fun g => cOpcode g = 0x41, reads := fun g => [qList g], writes := fun g => [qWin g], check := prefCheck,
    hold := fun _ _ _ _ => false, atIssue := fun _ _ _ _ => false,
    blocked := fun s p t _ n => prefBehind (s.stream p t) n, run := fun s p t g _ => acceptPref s p t g }

/-- PREF. -/
def execPref (p : Fin 16) (t : StreamTag) (s : State) : Host.Outcome State Fault Refusal := .next (issue prefCmd p t s)

/-- Offer the waiting PREFs of a stream to the tier controllers, in issue order, as far as they fit. -/
def retryStream (p : Fin 16) (t : StreamTag) : List Flight → State → State
  | [], s => s
  | f :: fs, s =>
    if f.wait = .pref then
      let e := acceptPref s p t f.word
      if e.traps.any Trap.waits then e.traps.foldl (noteWait p) s else
      match e.traps, e.wait with
      | [], .pref => e.state
      | [], _ => retryStream p t fs (setWait e.state p t f.seq .none)
      | es, _ => trapFlight e.state p t f es
    else if cOpcode f.word = 0x41 && f.wait = .behind then s
    else retryStream p t fs s

/-- Offer the waiting PREFs of a partition. -/
def retryPrefs (s : State) (p : Fin 16) : State :=
  [StreamTag.F, .B, .U].foldl (fun s t => retryStream p t (s.stream p t).flight s) s

/-! ### Prefetch entries (R348) -/

/-- The entries not yet begun are discarded (Table 13-9), and PREFs that waited for room are offered again (R347). -/
def dropPrefetches (s : State) (p : Fin 16) : State :=
  retryPrefs (s.modPart p (fun x => { x with mem := { x.mem with prefQ := x.mem.prefQ.filter (fun e => e.src.isSome) } })) p

/-- Entries begin in a partition that is not frozen, draining, or without a job. -/
def prefetches (x : Part) : Bool :=
  (x.state = .running || x.state = .stopping || x.state = .stopped || x.state = .complete) && !x.draining

/-- The head entry's waits hold: its name's version, and FREE. -/
def prefReady (s : State) (x : Part) (e : PrefEntry) : Bool :=
  geSigned (Sparse.get NameEntry.zero x.mem.names e.name).version e.minVer &&
  (!e.freeEn || geSigned (soGet s e.freeSo).value e.freeValue)

/-- PREFETCH_ENTRY_START: the head entry resolves its name and takes a reference. -/
def execPrefetchEntryStart (p : Fin 16) (s : State) : Host.Outcome State Fault Refusal :=
  let x := s.part p
  match x.mem.prefQ with
  | e :: rest =>
    let n := Sparse.get NameEntry.zero x.mem.names e.name
    if prefetches x && e.src.isNone && prefReady s x e && decide (n.slot ≠ 0) then
      let m := addRef { x.mem with prefQ := { e with src := some (n.slot - 1), ver := n.version } :: rest } (n.slot - 1)
      .next (s.setPart p { x with mem := m })
    else .next s
  | [] => .next s

/-- The copy of an entry, each tier controller moving the frames behind its own ports, stripe by stripe (R348): a range
beyond the slot's window is uncorrectable. -/
def prefCopy (p : Fin 16) (e : PrefEntry) (slot : Nat) : Op Unit := do
  if regionBytes < 256 * (e.srcOfs + e.len) then Op.stop (.mem 1 5 (regionBase + slot * regionBytes) 0xFFFF)
  Op.each (List.range e.len) (fun i => do
    let s ← Op.get
    let a := regionBase + slot * regionBytes + 256 * (e.srcOfs + i)
    let die := match locate (s.part p).mem a with
      | .frame id ofs => dieOf id ofs
      | _ => 0
    let bs ← readMem (.io die) p a 256
    writeMem (.io die) p (e.dst + 256 * i) bs)

/-- The fault of a copy: its name, the version that it copied and its offset stand as coordinates. -/
def prefFault (e : PrefEntry) (t : Trap) : FaultRec :=
  let r := { FaultRec.none with
    cause := 1, stream := 0xFF, unit := 0xB, core := 0xFF, chan := 0xFFFF, tile := [e.name, e.ver.toNat, e.srcOfs, 0] }
  match t.stop with
  | .mem kind place addr chan => { r with kind := kind, place := place, addr := addr, chan := chan }
  | _ => r

/-- PREFETCH_COPY_DONE: the head entry's copy ends, with its reference and its FULL signal; PREFs that waited for room
are offered again. A copy into a page that an exchange holds is not done yet (R336). -/
def execPrefetchCopyDone (p : Fin 16) (s : State) : Host.Outcome State Fault Refusal :=
  let x := s.part p
  match x.mem.prefQ with
  | e :: rest =>
    match e.src with
    | some slot =>
      if exchanging x.mem e.dst (256 * e.len) then .next s else
      let r := Op.exec (prefCopy p e slot) s
      let s := r.2.modPart p (fun x => { x with mem := dropRef { x.mem with prefQ := rest } slot })
      match r.1 with
      | .error t => .next (startDrain (recordFault s p (prefFault e t)) p)
      | .ok _ =>
        let s := bump s (0xA0001028 + 0x40 * p.val) none (256 * e.len)
        let s := if e.fullEn then applySignal s e.fullSo .add 1#32 else s
        .next (retryPrefs s p)
    | none => .next s
  | [] => .next s

end Sys2Proof.Machine
end

