-- ==== Sys2Proof/Machine/Power.lean ====
section
/-! DEFINITION. Power caps, peak and droop, shedding, the brake, heat and coolant (17_power_heat). Readings come with
their rows. PM_PWR_STATUS stores CAP_UNATTAINABLE [31], PEAK_HOLD [28] and COOL_WARN [26]; its other fields are computed
where it is read. -/

namespace Sys2Proof.Machine

/-! ### Settings and levels -/

def pwrCfg (s : State) : Word := rawReg s 0xE0000200
def capW (s : State) : Nat := field (pwrCfg s) 11 0
def peakW (s : State) : Nat := field (pwrCfg s) 23 12
def windowS (s : State) : Nat := field (pwrCfg s) 30 27
def statusBit (s : State) (i : Nat) : Bool := flag (rawReg s 0xE0000204) i
def setStatus (s : State) (i : Nat) (b : Bool) : State := setRaw s 0xE0000204 (setBit (rawReg s 0xE0000204) i b)
def pwrEvent (s : State) (i : Nat) : State := postBit s 0xE0000224 i

/-- The classes from lowest to highest priority (Table 17-2): 0 compute, 1 memory, 2 links. -/
def classOrder (prio : Nat) : List Nat :=
  match prio with
  | 0 => [0, 1, 2]
  | 1 => [0, 2, 1]
  | 2 => [1, 0, 2]
  | 3 => [1, 2, 0]
  | 4 => [2, 0, 1]
  | _ => [2, 1, 0]

/-- The level that the throttles ask of a class: the I/O-die sensors throttle memory and links (Table 17-5). -/
def thermLevel (w : Power) (c : Nat) : Nat :=
  match c with
  | 0 => w.therm.getD 0 0
  | 1 => max (w.therm.getD 1 0) (w.therm.getD 2 0)
  | _ => w.therm.getD 1 0

/-- The level that the loops ask of a class: the highest that any asks for (R444). -/
def wantedLevel (w : Power) (c : Nat) : Nat :=
  let l := max (w.avg.getD c 0) (thermLevel w c)
  let l := if c = 0 ∧ w.droop.any id then max l 8 else l
  if w.brake then 15 else l

/-- The level of a class: PEAK_HOLD grants no release of bubbles, so a level in force stays (R433). -/
def levelOf (w : Power) (c : Nat) : Nat := max (wantedLevel w c) (w.heldLevels.getD c 0)

/-- LIMITER: which loop sets the compute level (Table 17-11); the governor where PEAK_HOLD keeps it up. -/
def limiterOf (w : Power) : Nat :=
  if levelOf w 0 = 0 then 0
  else if wantedLevel w 0 < levelOf w 0 then 5
  else if w.brake then 3
  else if w.droop.any id ∧ max (w.avg.getD 0 0) (thermLevel w 0) ≤ 8 then 4
  else if w.avg.getD 0 0 < thermLevel w 0 then 2 else 1

/-- PM_PWR_STATUS as it reads. -/
def pwrStatus (s : State) : Word :=
  let w := s.power
  (rawReg s 0xE0000204 &&& (mask32 31 31 ||| mask32 28 28 ||| mask32 26 26)) ||| bit32 30 w.brake |||
  bit32 29 (w.throttling.any id) ||| bit32 27 (w.stretch.any id) ||| at32 23 (limiterOf w) ||| at32 16 (levelOf w 0) |||
  at32 12 (levelOf w 1) ||| at32 8 (levelOf w 2)

def setPower (s : State) (f : Power → Power) : State := { s with power := f s.power }

/-! ### The average loop (R431 to R436) -/

/-- The effective cap C (R431). -/
def effectiveCap (s : State) (m : PowerReading) : Rat :=
  let cap : Rat := capW s
  let full := decide (windowS s * 1000 ≤ s.power.periods)
  let c := if full && decide (capW s < m.pWindow) then max (cap - ((m.pWindow : Rat) - cap)) (9 * cap / 10) else cap
  if statusBit s 26 then min c 800 else c

/-- Raise levels, lowest priority first, while x is above 0 (R431). -/
def raiseLevels (powers : List Nat) : List Nat → Rat × List Nat → Rat × List Nat
  | [], a => a
  | c :: cs, (x, ls) =>
    let b := ls.getD c 0
    let p := powers.getD c 0
    if 0 < x ∧ b < 15 ∧ 0 < p then
      let d := min (((16 - b : Nat) : Rat) * x / (p : Rat)).ceil.toNat (15 - b)
      raiseLevels powers cs (x - (p : Rat) * (d : Rat) / ((16 - b : Nat) : Rat), ls.set c (b + d))
    else raiseLevels powers cs (x, ls)

/-- Lower the highest-priority class that stands above 0 by 1. -/
def lowerLevel (order : List Nat) (ls : List Nat) : List Nat :=
  match order.reverse.find? (fun c => decide (0 < ls.getD c 0)) with
  | some c => ls.set c (ls.getD c 0 - 1)
  | none => ls

/-- The point below which the loop cannot go: OP3, or a pin. -/
def floorPoint (s : State) : Bool := match opPin s with
  | some n => decide (opCur s = n)
  | none => decide (opCur s = 3)

/-- The module is at its floor (R435). -/
def atFloor (s : State) : Bool := (List.range 3).all (fun c => levelOf s.power c = 15) && floorPoint s

/-- Count a run of periods, from 0 when the condition fails. -/
def runOf (n : Nat) (c : Bool) : Nat := if c then n + 1 else 0

/-- Throttle runs and their slower point (R439): `held` classes at level 4 or more for 10 periods. -/
def throttlePoint (w : Power) : Power :=
  let runs := (List.range 3).map (fun c => runOf (w.thrRun.getD c 0)
    (w.throttling.getD c false && decide (4 ≤ w.therm.getD c 0)))
  if runs.any (fun n => decide (10 ≤ n)) ∧ w.thermPoint < 3 then
    { w with thermPoint := w.thermPoint + 1, thrRun := [0, 0, 0] }
  else { w with thrRun := runs }

/-- Move the point of the average loop (R432). -/
def averagePoint (cap x : Rat) (w : Power) : Power :=
  let b := w.avg.getD 0 0
  let high := runOf w.highRun (decide (4 ≤ b))
  let low := runOf w.lowRun (decide (b = 0) && decide (x < -cap / 10))
  if 10 ≤ high ∧ w.avgPoint < 3 then { w with avgPoint := w.avgPoint + 1, highRun := 0, lowRun := low }
  else if 100 ≤ low ∧ 0 < w.avgPoint then { w with avgPoint := w.avgPoint - 1, highRun := high, lowRun := 0 }
  else { w with highRun := high, lowRun := low }

/-- Once per 1 ms period: levels, point, floor and contention counts (R431 to R436, R439, R445). -/
def averageLoop (m : PowerReading) (s : State) : State :=
  let cap : Rat := capW s
  let x := (m.p1 : Rat) - effectiveCap s m
  let order := classOrder (field (pwrCfg s) 26 24)
  let floor := atFloor s
  let r := raiseLevels m.classes order (x, s.power.avg)
  let ls := if x < -(3 * cap / 100) then lowerLevel order r.2 else r.2
  let s := setRaw s 0xE0000208 (at32 16 m.p1 ||| at32 0 m.pWindow)
  let s := (List.range 3).foldl (fun s i => setRaw s (0xE0000210 + 4 * i) (at32 0 (m.classes.getD i 0 % 4096))) s
  let s := setPower s (fun w =>
    throttlePoint (averagePoint cap x { w with avg := ls, periods := w.periods + 1,
                                               headRun := runOf w.headRun (decide (x < -(5 * cap / 100))) }))
  let s := setPower s (fun w => { w with thermDue := true })
  let s := if s.power.throttling.any id then bumpPm s 0x268 1 else s
  let s := if floor then bumpPm s 0x248 1 else s
  let s := if floor && decide (0 < r.1) then pwrEvent (setStatus s 31 true) 0 else s
  let s := match opPin s with
    | some n => if max s.power.avgPoint s.power.thermPoint ≠ n then bumpPm s 0x240 1 else s
    | none => s
  startMove s

/-- AVERAGE_LOOP. -/
def execAverageLoop (m : PowerReading) (s : State) : Host.Outcome State Fault Refusal := .next (averageLoop m s)

/-- The kept fabric port: the lowest-numbered one that is UP (Table 17-4). -/
def keptPort (s : State) : Option Nat := (List.range 12).find? (fun i => (Sparse.get Port.off s.ports i).state = .up)

/-- Entries of Table 17-4 within a class, in order. -/
def shedClass (s : State) (c : Nat) : List Nat :=
  if c = 0 then [7, 6, 5, 4, 3, 2, 1, 0]
  else if c = 2 then [11, 10, 9, 8] ++ ([23, 22, 21, 20, 19, 18, 17, 16, 15, 14, 13, 12].filter
    (fun e => keptPort s ≠ some (e - 12)))
  else []

/-- PM_SHED as it reads (Table 17-12). -/
def shedWord (s : State) : Word :=
  (s.power.shed.foldl (fun w e =>
    if e < 8 then w ||| bit32 (24 + e) true else if e < 12 then w ||| bit32 (16 + (e - 8)) true
    else w ||| bit32 (4 + (e - 12)) true) 0#32) ||| at32 0 ((keptPort s).getD 0)

/-- SHED_DOMAIN: at the floor with CAP_UNATTAINABLE the next domain is shed, classes in ascending priority (R435). -/
def shedNext (s : State) : State :=
  if statusBit s 31 && atFloor s && decide (s.power.headRun = 0) then
    let all := (classOrder (field (pwrCfg s) 26 24)).flatMap (shedClass s)
    match all.find? (fun e => !s.power.shed.contains e) with
    | some e => pwrEvent (setPower s (fun w => { w with shed := w.shed ++ [e] })) 7
    | none => s
  else s

/-- Domains of a shed entry. -/
def shedDoms (e : Nat) : List Nat :=
  if e < 8 then (List.range 8).map (fun x => 8 * e + x) else if e < 12 then [domCxl (e - 8)] else [domFabric (e - 12)]

/-- UNSHED_DOMAIN: after 100 periods of headroom one domain returns, in reverse order, the kept port first; its waiting
wake demands are served, and CAP_UNATTAINABLE clears with the last (R436, Table 17-8). -/
def unshedNext (s : State) : State :=
  let kept := (keptPort s).map (fun i => 12 + i)
  let next := match kept with
    | some e => if s.power.shed.contains e then some e else s.power.shed.getLast?
    | none => s.power.shed.getLast?
  match next with
  | some e =>
    if 100 ≤ s.power.headRun then
      let s := setPower s (fun w => { w with shed := w.shed.erase e })
      let s := if s.power.shed = [] then setStatus s 31 false else s
      demandAll s ((shedDoms e).filter (fun d => (domGet s d).want || !maySleep s d))
    else s
  | none => s

/-! ### Peak and droop (R433, R434) -/

/-- PEAK_LOOP: once per tick; it sets and clears PEAK_HOLD, which keeps the levels in force from falling, and the tick passes
(R433, Table 17-8, Table 18-2). -/
def execPeakLoop (m : PeakReading) (s : State) : Host.Outcome State Fault Refusal :=
  let s := { s with tick := s.tick + 1 }
  let s := setRaw s 0xE000020C (at32 16 m.centivolts ||| at32 0 (m.centiamps % 65536))
  let s := if s.power.brake then bumpPm s 0x258 1 else s
  let s := if (s.rises ++ s.falls).any (fun r => !r.granted) then bumpPm s 0x20 1 else s
  let s := if peakW s < m.p100us + 150 then setStatus s 28 true
    else if m.p100us + 200 < peakW s then setStatus s 28 false else s
  .next (setPower s (fun w => { w with heldLevels := if statusBit s 28 then (List.range 3).map (levelOf w) else [0, 0, 0] }))

/-- DROOP_TRIP: the die's clocks stretch, and PM_DROOP counts (R434). -/
def execDroopTrip (die : Fin 3) (s : State) : Host.Outcome State Fault Refusal :=
  .next (bumpPm (setPower s (fun w => { w with stretch := w.stretch.set die.val true })) 0x250 1)

/-- DROOP_RECOVER: the stretch ends, and so does the level of 8 (R434). -/
def execDroopRecover (die : Fin 3) (s : State) : Host.Outcome State Fault Refusal :=
  .next (setPower s (fun w => { w with stretch := w.stretch.set die.val false, droop := w.droop.set die.val false }))

/-- DROOP_STRETCH_LIMIT: a stretch of 4 µs ends and the compute level stands at 8 or more (R434). -/
def execDroopStretchLimit (die : Fin 3) (s : State) : Host.Outcome State Fault Refusal :=
  if s.power.stretch.getD die.val false then
    .next (setPower s (fun w => { w with stretch := w.stretch.set die.val false, droop := w.droop.set die.val true }))
  else .next s

/-! ### The brake (R437, R438) -/

/-- PWRBRK_ENGAGE: a low of 2 µs engages the brake, and restarts a hold. -/
def execPwrbrkEngage (s : State) : Host.Outcome State Fault Refusal :=
  let fresh := !s.power.brake
  let s := setPower s (fun w => { w with brake := true, brakeHold := false,
                                         longPosted := if fresh then false else w.longPosted })
  .next (startMove (if fresh then pwrEvent s 1 else s))

/-- PWRBRK_IGNORE: a low shorter than 2 µs only counts. -/
def execPwrbrkIgnore (s : State) : Host.Outcome State Fault Refusal := .next (bumpPm s 0x260 1)

/-- PWRBRK_HIGH: the input returns high and the hold of 100 µs runs. -/
def execPwrbrkHigh (s : State) : Host.Outcome State Fault Refusal :=
  .next (setPower s (fun w => { w with brakeHold := w.brake }))

/-- BRAKE_HOLD_END: the brake releases; the point returns to what the other loops ask for. -/
def execBrakeHoldEnd (s : State) : Host.Outcome State Fault Refusal :=
  if s.power.brake && s.power.brakeHold then
    .next (startMove (setPower s (fun w => { w with brake := false, brakeHold := false })))
  else .next s

/-- BRAKE_LONG: posted once for a brake held for 1 s. -/
def execBrakeLong (s : State) : Host.Outcome State Fault Refusal :=
  if s.power.brake && !s.power.longPosted then
    .next (pwrEvent (setPower s (fun w => { w with longPosted := true })) 2)
  else .next s

/-! ### Heat (R439 to R443) -/

def thermStatus (s : State) : Word := rawReg s 0xE0000228

/-- Power leaves a domain at once (R442). -/
def cutDomain (s : State) (d : Nat) : State :=
  let was := (domGet s d).pwr
  let s := domSet s d Dom.off
  if d < 64 ∧ was ≠ .off then loseCore s d else s

/-- The domains that a trip cuts. -/
def tripDoms : List Nat := (List.range domCount).filter tripDom

/-- Partitions that a trip resets. -/
def tripParts (s : State) : List (Fin 16) :=
  (List.finRange 16).filter (fun p => (s.part p).state ≠ .free && (s.part p).state ≠ .scrubbing)

/-- The link of CXL port x goes down (R331). -/
def cxlDown (s : State) (x : Nat) : State := if cxlState s x = 2 then postBit (setCxlState s x 3) 0xA0000004 2 else s

/-- CXL_PORT_DOWN: the port's proof run is requested (Table 18-1). -/
def execCxlPortDown (x : Fin 4) (s : State) : Host.Outcome State Fault Refusal :=
  .next (if cxlState s x.val = 2 then requestProof (cxlDown s x.val) 7 x.val else s)

/-- CXL_LINK_UP: the frames of the port answer again (R331); a port whose halves have both failed stays down. -/
def execCxlLinkUp (x : Fin 4) (s : State) : Host.Outcome State Fault Refusal :=
  .next (if (cxlState s x.val = 3 ∨ cxlState s x.val = 1) ∧ retiredHalves s x.val ≠ 3 then setCxlState s x.val 2 else s)

/-- Thermal trip (R442): power removal, partition resets, ramps abandoned, ports down, proof runs requeued. -/
def thermalTrip (s : State) (src : Nat) : State :=
  if thermalHold s then s else
  let w := thermStatus s
  let w := setField (setField (setBit w 31 true) 30 29 src) 7 0 (field w 27 20)
  let s := pwrEvent (setRaw s 0xE0000228 w) 4
  let s := (tripParts s).foldl resetPart s
  let s := sleepPlls ((List.range 4).foldl cxlDown (tripDoms.foldl cutDomain { s with rises := [], falls := [] }))
  { s with ports := (List.range 12).foldl (fun m i => Sparse.modify Port.off m i Port.stop) s.ports,
           proofs := s.proofs.map (fun r => { r with running := false }) }

/-- Hottest of a list of readings with its index. -/
def hottest (l : List Nat) : Nat × Nat :=
  l.zipIdx.foldl (fun a e => if a.1 < e.1 then e else a) (0, 0)

/-- One throttle's state after a reading: on at `hi`, off below `lo`. -/
def throttleNext (on : Bool) (v hi lo : Nat) : Bool := if hi ≤ v then true else if v < lo then false else on

/-- The throttles act on a reading (Table 17-5), and once per period each raises its level while it holds, else lowers it
(R439). -/
def throttleStep (w : Power) (m : ThermalReading) : Power :=
  let hot := [(hottest (m.junctions.take 72)).1, (hottest ((m.junctions.drop 72).take 8)).1, (hottest m.gddr).1]
  let ths := (List.range 3).map (fun c =>
    throttleNext (w.throttling.getD c false) (hot.getD c 0) (if c = 2 then 100 else 95) (if c = 2 then 97 else 92))
  let next := fun (c : Nat) => if ths.getD c false then min 15 (w.therm.getD c 0 + 1) else w.therm.getD c 0 - 1
  { w with throttling := ths, junctions := m.junctions, thermDue := false,
           therm := if w.thermDue then (List.range 3).map next else w.therm,
           hotRun := m.junctions.zipIdx.foldl (fun h e =>
             Sparse.modify 0 h e.2 (fun n => runOf n (decide (110 ≤ e.1)))) w.hotRun }

/-- The thermal point returns when no throttle holds a class. -/
def coolPoint (w : Power) : Power := if w.throttling.any id then w else { w with thermPoint := 0 }

/-- TEMP of the GDDR7 devices: TEMP_MAX of MM_GRP_STATUS_g, TEMP of MM_CH_STATUS_c (Tables 13-12, 13-13). -/
def gddrTemps (m : ThermalReading) (s : State) : State :=
  let s := (List.range 4).foldl (fun s g =>
    let t := (hottest (((List.range 9).map (fun k => 9 * g + k)).flatMap (fun c =>
      [m.gddr.getD (2 * c) 0, m.gddr.getD (2 * c + 1) 0]))).1
    setRaw s (0x90000100 + 0x40 * g) (setField (rawReg s (0x90000100 + 0x40 * g)) 7 0 (t % 256))) s
  (List.range 36).foldl (fun s c =>
    let t := max (m.gddr.getD (2 * c) 0) (m.gddr.getD (2 * c + 1) 0)
    setRaw s (0x90001000 + 0x40 * c) (setField (rawReg s (0x90001000 + 0x40 * c)) 29 22 (t % 256))) s

/-- THERMAL_SAMPLE: the readings, the throttles, and a trip after three readings in a row at 110 °C (R439, R442). -/
def thermalSample (m : ThermalReading) (s : State) : State :=
  let h := hottest m.junctions
  let was := s.power.throttling.any id
  let s := m.junctions.zipIdx.foldl (fun s e => setRaw s (0xE0000400 + 4 * e.2) (at32 0 (e.1 % 256))) s
  let s := gddrTemps m s
  let s := setRaw s 0xE0000228 (setField (setField (thermStatus s) 27 20 (h.1 % 256)) 14 8 h.2)
  let s := setPower s (fun w => coolPoint (throttleStep w m))
  let s := if !was && s.power.throttling.any id then pwrEvent s 3 else s
  let s := if s.power.hotRun.any (fun e => decide (3 ≤ e.2)) then thermalTrip s 0 else s
  startMove s

/-- COOLANT_SAMPLE: PM_COOL, and COOL_COLD for an inlet that has been below 20 °C for 1 s, 100 samples (R440). -/
def execCoolantSample (m : CoolantReading) (s : State) : Host.Outcome State Fault Refusal :=
  let s := setRaw s 0xE000022C (at32 20 (m.flow % 4096) ||| at32 8 (m.outlet % 256) ||| at32 0 (m.inlet % 256))
  let s := setPower s (fun w => { w with coldRun := runOf w.coldRun (decide (m.inlet < 20)) })
  .next (if 100 ≤ s.power.coldRun then pwrEvent s 6 else s)

/-- COOLANT_WARNING: after 1 s beyond a warning limit (R440, R441). -/
def execCoolantWarning (s : State) : Host.Outcome State Fault Refusal := .next (pwrEvent (setStatus s 26 true) 5)

/-- COOLANT_WARNING_END: every reading within limits for 1 s (R441). -/
def execCoolantWarningEnd (s : State) : Host.Outcome State Fault Refusal := .next (setStatus s 26 false)

/-- COOLANT_TRIP: after 5 s beyond a trip limit; source 1 is flow, 2 the inlet (R440, Table 17-13). -/
def coolantTrip (src : Fin 3) (s : State) : State := if src = 0 then s else thermalTrip s src.val

/-- A block waits in reset for its domain, although every source has released it. -/
def waitsDomain (s : State) (b : Nat) : Bool :=
  let x := blkGet s b
  x.inReset && sourcesClear x && !x.draining && !x.stuck && !domOn s (blkDom b)

/-- After the hold the domains that something waits for are demanded: blocks in reset, connections, lower frames (R443). -/
def demandWaiting (s : State) : State :=
  demandAll s (((allBlks.filter (waitsDomain s)).map blkDom).dedup ++
    ((List.range 16).map (fun i => 69 + i)).filter (fun d => !domOn s d && portNeeded s d))

/-- PM_THERM_CTL (R443): CLEAR ends the hold when all is cool, else BAD_REQ. -/
def writeThermCtl (s : State) (w : Word) : State :=
  let ok := thermalHold s && field w 31 16 = 0xA5C3 && flag w 0 && s.power.junctions.all (fun t => decide (t < 85)) &&
    !statusBit s 26
  if ok then demandWaiting (setRaw s 0xE0000228 (setBit (thermStatus s) 31 false)) else postBit s 0xE0000004 2

/-! ### STAT and ALERT_N outputs (R491, R492) -/

/-- STAT1 and STAT0: true is released. -/
def statPins (s : State) : Bool × Bool :=
  if s.boot.step = .off then (true, true)
  else if thermalHold s then (false, false)
  else if s.boot.step = .running then (true, false)
  else if s.boot.step = .failed then (false, true)
  else (true, true)

/-- ALERT_N: true is released. -/
def alertPin (s : State) : Bool :=
  decide (s.boot.step = .off) ||
  !(flag (pwrStatus s) 31 || flag (pwrStatus s) 30 || flag (pwrStatus s) 29 || flag (pwrStatus s) 26 || thermalHold s)

end Sys2Proof.Machine
end

