-- ==== Sys2Proof/Machine/Signatures.lean ====
section
/-! DEFINITION. The two signature verifications of R383: RSASSA-PSS with SHA-384 (RFC 8017) and SLH-DSA-SHA2-192s
(FIPS 205), with the SHA-256, SHA-512 and mask generation they rest on. PRESUMED from the standards (assumption 14). -/

namespace Sys2Proof.Machine

/-- Initial hash value of SHA-512. -/
def sha512H0 : List Nat :=
  [0x6a09e667f3bcc908, 0xbb67ae8584caa73b, 0x3c6ef372fe94f82b, 0xa54ff53a5f1d36f1,
   0x510e527fade682d1, 0x9b05688c2b3e6c1f, 0x1f83d9abfb41bd6b, 0x5be0cd19137e2179]

/-- SHA-512 of a byte string (64 bytes). -/
def sha512 (m : List Byte) : List Byte :=
  let p := shaPad m
  ((((chunks 128 (p.length / 128) p).foldl shaBlock (sha512H0.map (BitVec.ofNat 64))).map
    (fun w => beBytes 8 w.toNat))).flatten

/-- The upper 32 bits of a SHA-512 constant, which are the SHA-256 constant of the same place. -/
def upperHalf (k : Nat) : BitVec 32 := BitVec.ofNat 32 (k / 2 ^ 32)

/-- The next SHA-256 schedule word from the last sixteen, newest first. -/
def sha256NextW (ws : List (BitVec 32)) : BitVec 32 :=
  let g := fun i => ws.getD i 0#32
  let s0 := (g 14).rotateRight 7 ^^^ (g 14).rotateRight 18 ^^^ ((g 14) >>> 3)
  let s1 := (g 1).rotateRight 17 ^^^ (g 1).rotateRight 19 ^^^ ((g 1) >>> 10)
  s1 + g 6 + s0 + g 15

/-- One SHA-256 round. -/
def sha256Round (v : List (BitVec 32)) (k w : BitVec 32) : List (BitVec 32) :=
  match v with
  | [a, b, c, d, e, f, g, h] =>
    let s1 := e.rotateRight 6 ^^^ e.rotateRight 11 ^^^ e.rotateRight 25
    let t1 := h + s1 + ((e &&& f) ^^^ (~~~e &&& g)) + k + w
    let s0 := a.rotateRight 2 ^^^ a.rotateRight 13 ^^^ a.rotateRight 22
    [t1 + (s0 + ((a &&& b) ^^^ (a &&& c) ^^^ (b &&& c))), a, b, c, d + t1, e, f, g]
  | _ => v

/-- The rounds, as in `shaRounds`. -/
def sha256Rounds : List Nat → List (BitVec 32) → List (BitVec 32) → List (BitVec 32) → List (BitVec 32)
  | [], _, _, v => v
  | k :: ks, [], hist, v =>
    let w := sha256NextW hist
    sha256Rounds ks [] (w :: hist.take 15) (sha256Round v (upperHalf k) w)
  | k :: ks, w :: ws, hist, v => sha256Rounds ks ws (w :: hist.take 15) (sha256Round v (upperHalf k) w)

/-- Compress one 64-byte block. -/
def sha256Block (h : List (BitVec 32)) (blk : List Byte) : List (BitVec 32) :=
  let ws := (chunks 4 16 blk).map (fun b => BitVec.ofNat 32 (beNat b))
  List.zipWith (· + ·) h (sha256Rounds ((sha512Ka ++ sha512Kb).take 64) ws [] h)

/-- SHA-256 of a byte string (32 bytes). -/
def sha256 (m : List Byte) : List Byte :=
  let p := m ++ [0x80#8] ++ List.replicate ((55 + 64 - m.length % 64) % 64) 0#8 ++ beBytes 8 (8 * m.length)
  ((((chunks 64 (p.length / 64) p).foldl sha256Block (sha512H0.map upperHalf)).map
    (fun w => beBytes 4 w.toNat))).flatten

/-- The mask generation function MGF1 of RFC 8017 over a hash whose results have `width` bytes. -/
def maskGen (hash : List Byte → List Byte) (width : Nat) (seed : List Byte) (n : Nat) : List Byte :=
  (((List.range (n / width + 1)).map (fun i => hash (seed ++ beBytes 4 i))).flatten).take n

/-- The signature raised to the exponent 65,537 modulo n. -/
def rsaPublicOp (n s : Nat) : Nat := (List.range 16).foldl (fun x _ => x * x % n) s * s % n

/-- RSASSA-PSS verification of a message under a modulus, with SHA-384, MGF1 with SHA-384 and a 48-byte salt
(RFC 8017, sections 8.1.2 and 9.1.2). -/
def rsaVerifies (modulus msg sig : List Byte) : Bool :=
  let n := beNat modulus
  let s := beNat sig
  let bits := n.log2
  let len := (bits + 7) / 8
  let m := rsaPublicOp n s
  let em := beBytes len m
  let dbLen := len - 49
  let seed := (em.drop dbLen).take 48
  let free := 8 * len - bits
  let db := xorBytes (em.take dbLen) (maskGen sha384 48 seed dbLen)
  let dbNum := beNat db % 2 ^ (8 * dbLen - free)
  let salt := db.drop (dbLen - 48)
  decide (s < n) && decide (m < 2 ^ bits) && decide (98 ≤ len) && decide (em.getLast? = some 0xBC#8) &&
  decide (dbNum / 2 ^ 384 = 1) &&
  decide (sha384 (List.replicate 8 0#8 ++ sha384 msg ++ salt) = seed)

/-- Compressed address of FIPS 205: layer, tree, type, then the three words of the type. -/
structure SlhAdrs where
  layer : Nat
  tree : Nat
  kind : Nat
  w1 : Nat
  w2 : Nat
  w3 : Nat
  deriving DecidableEq, Repr

def SlhAdrs.bytes (a : SlhAdrs) : List Byte :=
  beBytes 1 a.layer ++ beBytes 8 a.tree ++ beBytes 1 a.kind ++ beBytes 4 a.w1 ++ beBytes 4 a.w2 ++ beBytes 4 a.w3

/-- The function F: SHA-256 over the padded seed, the address and one node. -/
def slhF (seed : List Byte) (a : SlhAdrs) (m : List Byte) : List Byte :=
  (sha256 (seed ++ List.replicate 40 0#8 ++ a.bytes ++ m)).take 24

/-- The functions H and T: SHA-512 over the padded seed, the address and several nodes. -/
def slhT (seed : List Byte) (a : SlhAdrs) (m : List Byte) : List Byte :=
  (sha512 (seed ++ List.replicate 104 0#8 ++ a.bytes ++ m)).take 24

/-- The first `n` digits of `b` bits of a byte string, most significant first. -/
def slhDigits (bs : List Byte) (b n : Nat) : List Nat :=
  let v := beNat bs
  (List.range n).map (fun i => v / 2 ^ (8 * bs.length - b * (i + 1)) % 2 ^ b)

/-- `steps` steps of a WOTS+ chain from place `i`. -/
def slhChain (seed : List Byte) (a : SlhAdrs) : Nat → Nat → List Byte → List Byte
  | 0, _, x => x
  | steps + 1, i, x => slhChain seed a steps (i + 1) (slhF seed { a with w3 := i } x)

/-- WOTS+ public key from a signature of 51 nodes of a 24-byte message. -/
def slhWots (seed : List Byte) (layer tree pair : Nat) (sig m : List Byte) : List Byte :=
  let ds := slhDigits m 4 48
  let sum := (ds.map (fun d => 15 - d)).foldl (· + ·) 0
  let all := ds ++ [sum / 256, sum / 16 % 16, sum % 16]
  let ends := List.zipWith
    (fun (i : Nat) (p : Nat × List Byte) => slhChain seed ⟨layer, tree, 0, pair, i, 0⟩ (15 - p.1) p.1 p.2)
    (List.range 51) (all.zip (chunks 24 51 sig))
  slhT seed ⟨layer, tree, 1, pair, 0, 0⟩ ends.flatten

/-- Climb a Merkle tree from node `idx` at height `h`, with the nodes of the path. -/
def slhClimb (seed : List Byte) (a : SlhAdrs) : List (List Byte) → Nat → Nat → List Byte → List Byte
  | [], _, _, node => node
  | p :: ps, h, idx, node =>
    let pair := if idx % 2 = 0 then node ++ p else p ++ node
    slhClimb seed a ps (h + 1) (idx / 2) (slhT seed { a with w2 := h + 1, w3 := idx / 2 } pair)

/-- FORS public key from the 17 secret values and paths of a signature. -/
def slhFors (seed : List Byte) (tree leaf : Nat) (sig md : List Byte) : List Byte :=
  let a : SlhAdrs := ⟨0, tree, 3, leaf, 0, 0⟩
  let roots := List.zipWith (fun (i : Nat) (p : Nat × List Byte) =>
      let idx := i * 2 ^ 14 + p.1
      slhClimb seed a (chunks 24 14 (p.2.drop 24)) 0 idx (slhF seed { a with w3 := idx } (p.2.take 24)))
    (List.range 17) ((slhDigits md 14 17).zip (chunks 360 17 sig))
  slhT seed ⟨0, tree, 4, leaf, 0, 0⟩ roots.flatten

/-- Climb the hypertree, one layer for each piece of the signature. -/
def slhHyper (seed : List Byte) : List (List Byte) → Nat → Nat → Nat → List Byte → List Byte
  | [], _, _, _, node => node
  | sig :: rest, layer, tree, leaf, node =>
    let pk := slhWots seed layer tree leaf sig node
    let root := slhClimb seed ⟨layer, tree, 2, 0, 0, 0⟩ (chunks 24 9 (sig.drop 1224)) 0 leaf pk
    slhHyper seed rest (layer + 1) (tree / 2 ^ 9) (tree % 2 ^ 9) root

/-- SLH-DSA-SHA2-192s verification of a message, pure signing with an empty context (FIPS 205, algorithm 24). -/
def slhVerifies (pk msg sig : List Byte) : Bool :=
  let seed := pk.take 24
  let root := pk.drop 24
  let r := sig.take 24
  let full := [0#8, 0#8] ++ msg
  let digest := maskGen sha512 64 (r ++ seed ++ sha512 (r ++ seed ++ root ++ full)) 39
  let tree := beNat ((digest.drop 30).take 7) % 2 ^ 54
  let leaf := beNat (digest.drop 37) % 2 ^ 9
  let node := slhFors seed tree leaf (sig.drop 24) (digest.take 30)
  decide (sig.length = 16224) && decide (slhHyper seed (chunks 1440 7 (sig.drop 6144)) 0 tree leaf node = root)

end Sys2Proof.Machine
end

