-- ==== Sys2Proof/Machine/Boot.lean ====
section
/-! DEFINITION. The module's input (20_module_electrical), boot, the configuration image, fuses, measurement, attestation
and the flash (15_startup_trust). -/

namespace Sys2Proof.Machine

/-! ### The 54 V input (R487 to R489, R498, R500) -/

/-- The module with power gone (or come): fuses, flash and the level of PRST_N stay. -/
def unpowered (s : State) (step : InputStep) : State :=
  let s := flashCut s
  { State.reset with
    pending := s.pending, wire := s.wire, freeCount := s.freeCount, input := step,
    boot := { State.reset.boot with fuses := s.boot.fuses, flash := s.boot.flash, prstLow := s.boot.prstLow } }

/-- PRECHARGE_START: P54 rises above 20 V (Table 20-4, step 1). -/
def execPrechargeStart (s : State) : Host.Outcome State Fault Refusal :=
  .next (if s.input = .off then { s with input := .charging } else s)

/-- PRECHARGE_ABORT: P54 falls below 20 V while the capacitance charges. -/
def execPrechargeAbort (s : State) : Host.Outcome State Fault Refusal :=
  .next (if s.input = .charging then { s with input := .off } else s)

/-- INPUT_GOOD: the main switch closes, the power-on source asserts and boot starts at step 1 (R489, R402); the
always-on domain runs. -/
def execInputGood (s : State) : Host.Outcome State Fault Refusal :=
  if s.input = .charging then
    let s := unpowered s .on
    let s := setRaw s 0xE0000100 (bit32 31 true)
    let s := domSet s domAlways { Dom.off with pwr := .on, clkGood := true }
    .next { s with boot := { s.boot with step := .strap } }
  else .next s

/-- UNDER_VOLTAGE: the main switch opens (R487, R489). -/
def execUnderVoltage (s : State) : Host.Outcome State Fault Refusal :=
  .next (if s.input = .on then unpowered s .off else s)

/-- OVER_VOLTAGE: the main switch opens (R487, R489). -/
def execOverVoltage (s : State) : Host.Outcome State Fault Refusal :=
  .next (if s.input = .on then unpowered s .off else s)

/-- EXTRACTION: a power-off when the main contacts break (R500). -/
def execExtraction (s : State) : Host.Outcome State Fault Refusal := .next (unpowered s .off)

/-- COOLANT_CUT: in thermal hold the module opens its switch and stays off (R498). -/
def execCoolantCut (s : State) : Host.Outcome State Fault Refusal :=
  .next (if thermalHold s && s.input = .on then unpowered s .cut else s)

/-- P54_FALLS_BELOW_20V: after a coolant cut the module may start again (R498); a charging input starts over. -/
def execP54FallsBelow20v (s : State) : Host.Outcome State Fault Refusal :=
  .next (if s.input = .cut || s.input = .charging then { s with input := .off } else s)

/-! ### SC_BOOT (Table 15-13) and failures -/

def scBoot : Nat := 0xD0000000
def setScBoot (s : State) (hi lo v : Nat) : State := setRaw s scBoot (setField (rawReg s scBoot) hi lo v)

/-- The slot being read or run: 1 is recovery. -/
def bootSlot (s : State) : Nat := field (rawReg s scBoot) 27 27

/-- The choice of the strap (R377). -/
def strapChoice (s : State) : Nat := field (rawReg s 0x4) 15 10 / 4

/-- Record a failing check of the slot. -/
def recordFail (s : State) (code : Nat) : State :=
  if bootSlot s = 0 then setScBoot s 19 16 code else setScBoot s 15 12 code

/-- BOOT_FAIL (Table 15-2, step 10). -/
def bootFail (s : State) : State :=
  let s := setScBoot s 31 28 0xF
  { s with boot := { s.boot with step := .failed } }

/-- A failed slot (Table 15-2, step 9): the recovery slot next when the strap asked for the normal one. -/
def slotFail (s : State) (code : Nat) : State :=
  let s := recordFail s code
  if bootSlot s = 0 ∧ strapChoice s < 8 then setScBoot (setScBoot s 26 26 1) 27 27 1 else bootFail s

/-! ### Measurement (R391) -/

/-- Add an entry to the chain. -/
def measure (s : State) (kind : Nat) (digest : List Byte) : State :=
  { s with boot := { s.boot with chain := s.boot.chain ++ [(kind, digest)] } }

/-- M after the entries (R391). -/
def chainValue (entries : List (Nat × List Byte)) : List Byte :=
  entries.foldl (fun m e => sha384 (m ++ leBytes 4 e.1 ++ e.2)) (List.replicate 48 0#8)

/-! ### STRAP_READ (R377, R379, R388) -/

/-- Insert into an ascending list. -/
def sortInsert (n : Nat) : List Nat → List Nat
  | [] => [n]
  | m :: ms => if n ≤ m then n :: m :: ms else m :: sortInsert n ms

/-- The median of 16 codes: the lower of the two middle ones (assumption 22). -/
def medianCode (codes : List Nat) : Nat := (codes.foldl (fun acc c => sortInsert c acc) []).getD (codes.length / 2 - 1) 0

/-- SYS_STRAP after the conversions (Table 15-12). -/
def strapWord (codes : List Nat) : Word :=
  let c := medianCode codes % 64
  bit32 31 (codes.any (fun k => decide (k / 4 ≠ c / 4))) ||| at32 10 c ||| at32 0 (c / 4)

/-- Apply the retirement records of the fuses (R388, R460). -/
def applyFuses (s : State) : State :=
  let s := s.boot.fuses.cores.foldl (fun s nn => s.modCore (Fin.ofNat 64 nn) (fun c => { c with retired := true })) s
  { s with frames := s.boot.fuses.frames.foldl (fun m f => Sparse.set 0 m f 99) s.frames,
           rowsUsed := s.boot.fuses.rows.foldl (fun m r => Sparse.modify 0 m (r / 256) (fun n => n + 1)) s.rowsUsed,
           lanesUsed := s.boot.fuses.lanes.foldl (fun m l => Sparse.modify 0 m (l / 1024) (fun n => n + 1)) s.lanesUsed }

/-- STRAP_READ: the strap is latched, the fuses are sensed, and boot goes on to step 4 (Table 15-2, steps 2 to 4). -/
def execStrapRead (codes : List Nat) (repairOk : Bool) (s : State) : Host.Outcome State Fault Refusal :=
  if s.boot.step = .strap then
    let s := setRaw s 0x4 (strapWord codes)
    let choice := strapChoice s
    let s := setScBoot s 27 27 (choice / 8)
    if repairOk then
      let s := applyFuses s
      let s := measure (measure (measure s 1 Config.romDigest) 2 (Config.fuseDigest s.boot.fuses.svn s.boot.fuses.rsaRevoked s.boot.fuses.slhRevoked)) 3 (sha384 [BitVec.ofNat 8 choice])
      .next { s with boot := { s.boot with step := .shelf } }
    else .next (bootFail (recordFail s 10))
  else .next s

/-! ### UPPER_SHELF_TRAINED (Table 15-2, step 4) -/

/-- The channel groups are up. -/
def shelfUp (s : State) : State :=
  let s := setRaw s 0xE000010C (bit32 31 true)
  let s := (List.range 4).foldl (fun s g =>
    releaseDomain (domSet (setRaw s (0x90000100 + 0x40 * g)
      (setField (setField (rawReg s (0x90000100 + 0x40 * g)) 31 30 2) 29 21 0x1FF)) (domGroup g)
      { Dom.off with pwr := .on, clkGood := true }) (domGroup g)) s
  (List.range 36).foldl (fun s c =>
    setRaw s (0x90001000 + 0x40 * c) (setField (rawReg s (0x90001000 + 0x40 * c)) 31 30 2)) s

/-- UPPER_SHELF_TRAINED: step 4 ends, once PRST_N and the watchdog have let go (R380, R490). -/
def execUpperShelfTrained (ok : Bool) (s : State) : Host.Outcome State Fault Refusal :=
  if s.boot.step = .shelf ∧ s.boot.prstLow = false ∧ s.boot.wdHeld = false then
    if ok then
      let s := setScBoot (shelfUp s) 27 27 (strapChoice s / 8)
      .next { s with boot := { s.boot with step := .image } }
    else .next (bootFail (recordFail (setScBoot s 27 27 (strapChoice s / 8)) 11))
  else .next s

/-! ### The image (R382 to R386) -/

/-- Bytes of the slot being read; erased flash reads 0xFF (assumption 23). -/
def slotBytes (s : State) (ofs n : Nat) : List Byte :=
  Sparse.getRun 0xFF#8 s.boot.flash (bootSlot s * 0x2000000 + ofs) n

def slotNum (s : State) (ofs n : Nat) : Nat := leNat (slotBytes s ofs n)

/-- The header fields of Table 15-3. -/
structure ImageHeader where
  sigOfs : Nat
  part : Nat
  minStep : Nat
  svn : Nat
  recOfs : Nat
  recLen : Nat
  fwOfs : Nat
  fwLen : Nat
  rsaSlot : Nat
  slhSlot : Nat
  deriving DecidableEq, Repr

def imageHeader (s : State) : ImageHeader :=
  { sigOfs := slotNum s 8 4, part := slotNum s 12 2, minStep := slotNum s 14 1, svn := slotNum s 15 1,
    recOfs := slotNum s 16 4, recLen := slotNum s 20 4, fwOfs := slotNum s 24 4, fwLen := slotNum s 28 4,
    rsaSlot := slotNum s 36 1, slhSlot := slotNum s 37 1 }

/-- Two areas do not overlap. -/
def apart (a n b m : Nat) : Bool := decide (n = 0) || decide (m = 0) || decide (a + n ≤ b) || decide (b + m ≤ a)

/-- BAD_LAYOUT does not hold (Table 15-4). -/
def layoutFits (h : ImageHeader) : Bool :=
  let slot := 0x2000000
  decide (h.sigOfs % 64 = 0) && decide (h.recOfs % 8 = 0) && decide (h.fwOfs % 64 = 0) &&
  decide (h.sigOfs + 17048 ≤ slot) && decide (h.recOfs + h.recLen ≤ slot) && decide (h.fwOfs + h.fwLen ≤ slot) &&
  apart 0 64 h.recOfs h.recLen && apart 0 64 h.fwOfs h.fwLen && apart 0 64 h.sigOfs 17048 &&
  apart h.recOfs h.recLen h.fwOfs h.fwLen && apart h.recOfs h.recLen h.sigOfs 17048 &&
  apart h.fwOfs h.fwLen h.sigOfs 17048

/-- Split the record area into (TYPE, value); none when the records do not fill it exactly. The value is padded to a multiple of
8 bytes (R385). -/
def splitRecords : Nat → List Byte → Option (List (Nat × List Byte))
  | 0, bs => if bs = [] then some [] else none
  | fuel + 1, bs =>
    if bs = [] then some [] else
    let len := leAt bs 2 2
    let size := 4 + (len + 7) / 8 * 8
    if bs.length < 4 ∨ bs.length < size then none
    else (splitRecords fuel (bs.drop size)).map (fun rest => (leAt bs 0 2, (bs.drop 4).take len) :: rest)

/-- Record types known to Table 15-5: 1 to 10; OWNER and HOSTNET stand exactly once, the others at most once; an
unknown type is skipped only with bit 15. -/
def recordsFit (rs : List (Nat × List Byte)) : Bool :=
  let n := fun (t : Nat) => (rs.filter (fun r => r.1 = t)).length
  n 1 = 1 && n 2 = 1 && (List.range 8).all (fun i => decide (n (i + 3) ≤ 1)) &&
  rs.all (fun r => (decide (1 ≤ r.1) && decide (r.1 ≤ 10)) || decide (0x8000 ≤ r.1))

/-- Key slot i is present and not revoked. -/
def keyUsable (present revoked i : Nat) : Bool := decide (i < 4) && present.testBit i && !revoked.testBit i

/-- The first failing check of Table 15-4 (codes in its order), with the digest D. -/
def imageCheck (s : State) : Option Nat :=
  let h := imageHeader s
  let key := slotBytes s h.sigOfs 388
  let slh := slotBytes s (h.sigOfs + 388) 48
  let d := sha384 (slotBytes s 0 h.sigOfs)
  if slotNum s 0 4 ≠ 0x3742444E ∨ slotNum s 4 2 ≠ 1 ∨ slotNum s 6 2 ≠ 64 ∨ slotNum s 38 26 ≠ 0 then some 1
  else if h.part ≠ 0xB764 ∨ 0xA1 < h.minStep then some 2
  else if !layoutFits h then some 3
  else if !keyUsable Config.rsaPresent s.boot.fuses.rsaRevoked h.rsaSlot || sha384 key ≠ Config.rsaDigest h.rsaSlot ||
    leAt key 384 4 ≠ 65537 then some 4
  else if !keyUsable Config.slhPresent s.boot.fuses.slhRevoked h.slhSlot || sha384 slh ≠ Config.slhDigest h.slhSlot then
    some 5
  else if !rsaVerifies (key.take 384) d (slotBytes s (h.sigOfs + 440) 384) then some 6
  else if !slhVerifies slh d (slotBytes s (h.sigOfs + 824) 16224) then some 7
  else if h.svn < s.boot.fuses.svn then some 8
  else match splitRecords (h.recLen / 4 + 1) (slotBytes s h.recOfs h.recLen) with
    | some rs => if recordsFit rs then none else some 9
    | none => some 9

/-- Value of a record, if the image holds it. -/
def recordOf (s : State) (t : Nat) : Option (List Byte) := (s.boot.records.find? (fun r => r.1 = t)).map (fun r => r.2)

/-- LEAVEN policy (R387): true is OWNER_ONLY. -/
def ownerOnly (s : State) : Bool := match recordOf s 8 with
  | some v => decide (leNat v = 1)
  | none => false

/-- The register fields that a record sets, with their ranges (Table 15-5, R386): address, top and low bit, least and greatest
value. HOSTNET sets HP_CFG; FABRIC FB_CFG and FB_TIMER; POWER PM_PWR_CFG; PARTDEF the two watchdog periods; MEMORY MM_CFG and
TR_CFG; LOCKS the LOCK bits. -/
def recordFields : Nat → List (Nat × Nat × Nat × Nat × Nat)
  | 2 => [(0xC0000000, 15, 0, 0, 65535), (0xC0000000, 19, 18, 0, 2), (0xC0000000, 28, 20, 16, 248)]
  | 3 => [(0xB0000000, 15, 0, 0, 65535), (0xB0000000, 24, 16, 16, 256), (0xB0000004, 15, 0, 0, 65535),
          (0xB0000004, 31, 16, 1, 65535)]
  | 6 => [(0xE0000200, 30, 27, 1, 10), (0xE0000200, 26, 24, 0, 5), (0xE0000200, 23, 12, 1000, 2400),
          (0xE0000200, 11, 0, 800, 1800)]
  | 7 => [(0xF0000004, 19, 0, 1, 600000), (0xF0000008, 19, 0, 1, 600000)]
  | 9 => [(0x90000000, 15, 8, 1, 255), (0x90000000, 1, 0, 0, 3), (0xA0000000, 15, 8, 0, 255), (0xA0000000, 7, 0, 1, 255)]
  | 10 => [0x90000000, 0xB0000000, 0xC0000000, 0xE0000000, 0xE0000200, 0xF0000004].map (fun a => (a, 31, 31, 0, 1))
  | _ => []

/-- One field takes what the firmware writes for it; none when the value is out of range. -/
def applyField (ws : List (Nat × Nat)) (acc : Option State) (f : Nat × Nat × Nat × Nat × Nat) : Option State :=
  match acc, ws.find? (fun w => w.1 = f.1) with
  | some s, some w =>
    let v := w.2 / 2 ^ f.2.2.1 % 2 ^ (f.2.1 + 1 - f.2.2.1)
    if f.2.2.2.1 ≤ v ∧ v ≤ f.2.2.2.2 then some (setRaw s f.1 (setField (rawReg s f.1) f.2.1 f.2.2.1 v)) else none
  | acc, _ => acc

/-- Apply the record of type t, if the image holds one: the fields that Table 15-5 gives it take the values the firmware
finds in it. -/
def applyRecord (rs : List (Nat × List Byte)) (acc : Option State) (t : Nat) : Option State :=
  match acc, rs.find? (fun r => r.1 = t) with
  | some s, some r => match Config.recordWrites t r.2 with
    | some ws => (recordFields t).foldl (applyField ws) (some s)
    | none => none
  | acc, _ => acc

/-- The firmware's range check and the application of the records (R386), the LOCK bits last. None when a value is out of
range. -/
def applyRecords (s : State) (rs : List (Nat × List Byte)) : Option State :=
  let owner := ((rs.find? (fun r => r.1 = 1)).map (fun r => r.2)).getD []
  let leaven := ((rs.find? (fun r => r.1 = 8)).map (fun r => leNat r.2)).getD 0
  if owner.length ≠ 48 ∨ 1 < leaven then none
  else [2, 3, 4, 5, 6, 7, 9, 10].foldl (applyRecord rs) (some { s with boot := { s.boot with records := rs, owner := owner } })

/-- Ports that the CXL record enables. -/
def cxlPorts (s : State) : List Nat :=
  match recordOf s 5 with
  | some cfg => (List.range 4).filter (Config.cxlEnabled cfg)
  | none => []

/-- Frames that the devices behind port x could hold. -/
def deviceFrames (s : State) (devs : List CxlDevice) (x : Nat) : Nat :=
  if (cxlPorts s).contains x then ((devs.filter (fun d => d.port.val = x)).map (fun d => d.bytes / 2359296)).sum else 0

/-- Frames of CXL port x (R330): the lower shelf holds at most 4,194,304, and the lower ports come first (DESIGN CHOICE,
assumption 85). -/
def cxlFrames (s : State) (devs : List CxlDevice) (x : Nat) : Nat :=
  min (deviceFrames s devs x) (4194304 - ((List.range x).map (deviceFrames s devs)).sum)

/-- CXL enumeration of start-up: status and frames of each enabled port with devices (R329, R330); the reference clock of
every enabled port runs (R494). -/
def enumerateCxl (s : State) (devs : List CxlDevice) : State :=
  let s := { s with boot := { s.boot with refClks := cxlPorts s } }
  (cxlPorts s).foldl (fun s x =>
    match devs.filter (fun d => d.port.val = x) with
    | [] => s
    | d :: ds =>
      let w := at32 29 (if thermalHold s || retiredHalves s x = 3 then 3 else 2) ||| at32 27 (d.speed % 4) ||| at32 22 (d.width % 32) ||| bit32 21 (decide (d.width = 8)) |||
        bit32 20 d.switched ||| at32 16 (min (ds.length + 1) 8)
      let s := setRaw (setRaw s (0xA0000100 + 0x40 * x) w) (0xA0000104 + 0x40 * x) (BitVec.ofNat 32 (cxlFrames s devs x))
      if thermalHold s then s else domSet s (domCxl x) { Dom.off with pwr := .on, clkGood := true }) s

/-- The domains that start-up brings up (R380, Table 14-3): the I/O-die bases run; H1's mode is fixed; the domains of the
fabric and host ports ask the governor for their wake, and their ports train when they have it. Cores and the compute-die
base stay asleep until they are needed. -/
def bringUp (s : State) : State :=
  let s := { s with boot := { s.boot with h1Mode := field (rawReg s 0xC0000000) 19 18 } }
  let s := [4, 5, 6, 7].foldl (fun s d => setRaw s (0xE0000100 + 4 * d) (bit32 31 true)) s
  let s := if thermalHold s then s else
    [85, 86].foldl (fun s d => domSet s d { Dom.off with pwr := .on, clkGood := true }) s
  let s := { s with blks := (allBlks.filter (fun b => (blkPorts b).isEmpty)).foldl (fun m b => Sparse.modify Blk.reset m b (fun x =>
      if sourcesClear x then { x with inReset := false, widest := 0 } else x)) s.blks }
  ((List.range 12).map domFabric ++ [87, 88]).foldl demandWake s

/-- IMAGE_READ_DONE: the image is checked; on success the firmware starts and applies the records, on failure boot falls
back or fails (R380, R384 to R386). The operand is what CXL enumeration finds. -/
def execImageReadDone (cxl : List CxlDevice) (s : State) : Host.Outcome State Fault Refusal :=
  if s.boot.step = .image then
    match imageCheck s with
    | some code => .next (slotFail s code)
    | none =>
      let h := imageHeader s
      let area := slotBytes s h.recOfs h.recLen
      let rs := (splitRecords (h.recLen / 4 + 1) area).getD []
      let m := measure (measure s 4 (sha384 (slotBytes s 0 h.sigOfs))) 5 (sha384 area)
      match applyRecords m rs with
      | none => .next (slotFail m 9)
      | some s =>
        let s := setScBoot (setScBoot (setScBoot s 11 6 h.svn) 5 4 h.rsaSlot) 3 2 h.slhSlot
        let s := setScBoot s 31 28 2
        let s := bringUp (enumerateCxl s cxl)
        .next { s with boot := { s.boot with step := .running, wdStart := s.tick } }
  else .next s

/-- Build the attestation report (Table 15-8): N entries, then the digests of the public keys and both signatures. -/
def reportOf (s : State) : List Byte :=
  let n := s.boot.chain.length
  let service := ((List.finRange 64).filter (fun c => !(s.core c).retired)).map (fun c => 2 ^ c.val)
  let head := leBytes 4 0x4142444E ++ leBytes 2 1 ++ leBytes 2 n ++ leBytes 4 (rawReg s 0).toNat ++
    slice s.boot.request 0 4 ++ leBytes 8 Config.moduleSerial ++ leBytes 4 Config.packageSerial ++
    leBytes 8 Config.lot ++ leBytes 1 (Config.die % 32) ++ leBytes 1 (Config.die / 32) ++
    leBytes 1 (Config.die / 8192) ++ leBytes 1 0 ++ leBytes 8 service.sum ++ slice s.boot.request 4 48 ++ chainValue s.boot.chain
  let body := head ++ s.boot.chain.flatMap (fun e => leBytes 4 e.1 ++ leBytes 12 0 ++ slice e.2 0 48) ++
    sha384 Config.rsaPublic ++ sha384 Config.slhPublic
  let d := sha384 body
  body ++ slice (Config.rsaSign d) 0 384 ++ slice (Config.slhSign d) 0 16224

/-- SC_ATTEST_CTL bits (Table 15-15). -/
def attCtl : Nat := 0xD0000100

/-- KEYS_READY: the identity keys are derived; a report that waited for them begins (R390, R393, Table 15-10). -/
def execKeysReady (s : State) : Host.Outcome State Fault Refusal :=
  if s.boot.step = .running then
    let s := setScBoot s 25 25 1
    .next (setRaw s attCtl (setBit (rawReg s attCtl) 28 false))
  else .next s

/-- ATTEST_DONE: the report is built and signed, DONE and LEN set (R393). -/
def execAttestDone (s : State) : Host.Outcome State Fault Refusal :=
  let w := rawReg s attCtl
  if flag w 30 && !flag w 28 then
    let s := setRaw s attCtl (setField (setBit (setBit w 30 false) 29 true) 14 0 (16848 + 64 * s.boot.chain.length))
    .next { s with boot := { s.boot with report := reportOf s } }
  else .next s

/-- A write of SC_ATTEST_CTL: DONE clears by 1 and by nothing else (R5); START begins a report unless one is being built
(R393). -/
def writeAttestCtl (s : State) (v : Word) : State :=
  let w := rawReg s attCtl
  let w := if flag v 29 then setBit w 29 false else w
  if flag v 31 && !flag w 30 then
    let nonce := (List.range 12).flatMap (fun i => leBytes 4 (rawReg s (0xD0000104 + 4 * i)).toNat)
    let request := leBytes 4 (rawReg s scBoot).toNat ++ nonce
    let s := setRaw s attCtl (setBit (setBit w 30 true) 28 (!flag (rawReg s scBoot) 25))
    { s with boot := { s.boot with request := request, report := [] } }
  else setRaw s attCtl w

/-! ### Fuses (R389) -/

/-- A key slot that verified the booted image. -/
def bootedWith (s : State) (hi lo k : Nat) : Bool := field (rawReg s scBoot) hi lo = k

/-- A write of SC_FUSE_CMD (Table 15-14): the status of the access, and the state after. -/
def writeFuseCmd (s : State) (v : Word) : State × Nat :=
  let fuse := fun (f : Fuses → Fuses) => { s with boot := { s.boot with fuses := f s.boot.fuses } }
  let k := field v 1 0
  let burn := fun (m : Nat) => m ||| 2 ^ k
  if field v 31 16 ≠ 0x5EC0 then (s, 0)
  else match field v 7 4 with
    | 1 => (fuse (fun f => { f with svn := max f.svn (field (rawReg s scBoot) 11 6) }), 0)
    | 2 => if bootedWith s 5 4 k then (s, 1) else (fuse (fun f => { f with rsaRevoked := burn f.rsaRevoked }), 0)
    | 3 => if bootedWith s 3 2 k then (s, 1) else (fuse (fun f => { f with slhRevoked := burn f.slhRevoked }), 0)
    | _ => (s, 0)

/-! ### The flash (R397) -/

def flashCtl : Nat := 0xD0000200

/-- A START is refused: the recovery slot is writable only while the module runs from it. -/
def flashDenied (s : State) (v : Word) : Bool := field v 25 24 ≠ 0 && flag v 23 && bootSlot s = 0

/-- Flash offset that an operation acts on: PROGRAM and READ take an aligned 256 bytes, ERASE an aligned 64 KiB. -/
def flashPlace (s : State) (v : Word) : Nat :=
  let unit := if field v 25 24 = 2 then 0x10000 else 256
  field v 23 23 * 0x2000000 + field (rawReg s 0xD0000204) 24 0 / unit * unit

/-- The 256 bytes of SC_FLASH_DATA. -/
def flashWindow (s : State) : List Byte :=
  (List.range 64).flatMap (fun i => leBytes 4 (rawReg s (0xD0000300 + 4 * i)).toNat)

/-- A write of SC_FLASH_CTL (Table 15-16): its status, and the state after. OP and SLOT take the value written; START is
ignored while BUSY (Table 15-10). -/
def writeFlashCtl (s : State) (v : Word) : State × Nat :=
  let w := rawReg s flashCtl
  let w := if flag v 29 then setBit w 29 false else w
  let w := setField (setBit w 23 (flag v 23)) 25 24 (field v 25 24)
  if flag w 30 || !flag v 31 || decide (field v 25 24 = 3) then (setRaw s flashCtl w, 0)
  else if flashDenied s v then (setRaw s flashCtl w, 1)
  else
    let s := setRaw s flashCtl (setBit w 30 true)
    ({ s with boot := { s.boot with flashOp := some { op := field v 25 24, place := flashPlace s v, bytes := flashWindow s } } }, 0)

/-- What a finished operation leaves: READ fills the window, PROGRAM writes its bytes, ERASE clears the sector. -/
def flashEffect (s : State) (o : FlashOp) : State :=
  match o.op with
  | 0 =>
    let bs := Sparse.getRun 0xFF#8 s.boot.flash o.place 256
    (List.range 64).foldl (fun s i => setRaw s (0xD0000300 + 4 * i) (BitVec.ofNat 32 (leAt bs (4 * i) 4))) s
  | 1 => { s with boot := { s.boot with flash := Sparse.setRun 0xFF#8 s.boot.flash o.place o.bytes } }
  | _ => { s with boot := { s.boot with flash := Sparse.clearRange s.boot.flash o.place 0x10000 } }

/-- FLASH_OP_DONE: the flash ends the operation, or reports a failure (R397). -/
def execFlashOpDone (ok : Bool) (s : State) : Host.Outcome State Fault Refusal :=
  match s.boot.flashOp with
  | none => .next s
  | some o =>
    let w := rawReg s flashCtl
    let s := setRaw s flashCtl (setBit (if ok then w else setBit w 29 true) 30 false)
    let s := { s with boot := { s.boot with flashOp := none } }
    .next (if ok then flashEffect s o else s)

end Sys2Proof.Machine
end

