-- ==== Sys2Proof/Machine/Transport.lean ====
section
/-! DEFINITION. Polsil connections and sessions (R360 to R367, R394, R395): breaking and closing them, their handshakes,
acknowledgement, retransmission and timers, and the Ethernet ports beneath (R352 to R355). -/

namespace Sys2Proof.Machine

/-! ### Who waits on a connection (R363) -/

/-- The partition of a connection. -/
def Link.owner (l : Link) : Fin 16 := Fin.ofNat 16 l.part

/-- The flight of number n in stream t. -/
def flightOf (x : Part) (t : StreamTag) (n : Nat) : Option Flight := (x.stream t).flight.find? (fun f => f.seq = n)

/-- The communicator of a number, if it is set. -/
def commOf (x : Part) (k : Nat) : Option Comm := Sparse.get none x.comms k

/-- Connections of a communicator besides the own rank's place. -/
def Comm.peers (c : Comm) : List Nat := ((List.range c.size).filter (fun r => r ≠ c.rank)).map (fun r => c.conns.getD r 0)

/-- Commands in flight that wait on local connection n: signals, SENDs, RECVs and COLLs. -/
def linkWaiters (x : Part) (l : Link) : List (StreamTag × Nat) :=
  (l.sigs ++ l.sends ++ l.recvs).map (fun w => (w.stream, w.seq)) ++
  (x.colls.filter (fun c => ((commOf x c.comm).map (fun k => k.peers.contains l.conn)).getD false)).map
    (fun c => (c.stream, c.seq))

/-- A command stops as if refused with BAD_FIELD because its connection broke: its stream reads REFUSED, and the
partition freezes with KIND 0x5 (R363, Table 18-2). -/
def stopWaiter (p : Fin 16) (conn chan : Nat) (s : State) (w : StreamTag × Nat) : State :=
  match flightOf (s.part p) w.1 w.2 with
  | some f =>
    let r := { cmdFault (s.stream p w.1) w.1 f.word f.pc with
                 cause := 3, kind := 5, unit := 0xC, tile := [conn, 0, 0, 0], chan := chan }
    freeze (s.modStream p w.1 (fun q => { q with state := .refused, refuse := 3 })) p r
  | none => s

/-- A command of a partition under RELEASE that waits on a connection ends: there is nothing left to fault (R41, R42). -/
def endWaiter (p : Fin 16) (s : State) (w : StreamTag × Nat) : State :=
  match flightOf (s.part p) w.1 w.2 with
  | some f => dropFlight (s.modPart p (fun x => { x with colls := x.colls.filter (fun c => c.seq ≠ w.2) })) p w.1 f
  | none => s

/-- Commands that wait on a connection stop, in a partition that runs, or end. -/
def stopWaiters (s : State) (l : Link) : State :=
  let p := l.owner
  let x := s.part p
  if x.state = .running ∨ x.state = .stopping then
    (linkWaiters x l).foldl (stopWaiter p l.conn (0x100 + l.port)) s
  else if x.state = .scrubbing then (linkWaiters x l).foldl (endWaiter p) s
  else s

/-- A link let go: its index takes the next generation. -/
def freeLink (l : Link) : Link := { Link.free with gen := (l.gen + 1) % 65536 }

/-- REASON codes of Table 14-16. -/
def reasonTimeout : Nat := 1
def reasonRetry : Nat := 2
def reasonRevoked : Nat := 3
def reasonColl : Nat := 4
def reasonSend : Nat := 5
def reasonAuth : Nat := 6

/-- Break a connection: it sends nothing further and the commands that wait on it stop; a broken session closes (R363). -/
def breakLink (s : State) (e : Endpoint) (reason : Nat) : State :=
  let l := linkGet s e
  if linkLive l then
    match e with
    | .sess _ => linkSet s e (freeLink l)
    | .conn _ =>
      stopWaiters (linkSet s e { l with state := .broken, reason := reason, unacked := [], ahead := [], msg := none, rts := [],
                                        sigs := [], sends := [], recvs := [], parts := [] }) l
  else s

/-- A connection or session closes and its index is free again; commands that wait on it stop as on a break. -/
def closeLink (s : State) (e : Endpoint) : State :=
  let l := linkGet s e
  let s := linkSet s e (freeLink l)
  match e with
  | .sess _ => s
  | .conn _ => if linkLive l then stopWaiters s l else s

/-- A remote signal for a connection that a RELEASE has revoked is rejected with NO_PARTITION (R98, Table 14-11); the
connection itself sends nothing further (assumption 77). -/
def rejectRevoked (s : State) (e : Endpoint) (m : RxMsg) : State :=
  let l := linkGet s e
  let f : TxFrame :=
    { op := 0x18, flags := flFirst + flLast, psn := l.psnTx, payload := [], sent := true, rexmit := 0,
      ext := some (granule32 (leBytes 4 6 ++ leBytes 4 m.psn ++ leBytes 4 (leAt m.ext 0 2))) }
  if portCarries s l.port then
    handOver (linkSet s e { l with psnTx := (l.psnTx + 1) % psnMod }) l.port 0 [wireOf s e l f]
  else s

/-! ### Handshakes (R361, R394); the layouts of OPEN and OPEN_ACK are the model's (assumption 20) -/

/-- A received OPEN or OPEN_ACK, as its extension gives it. -/
structure Hello where
  session : Bool
  a : Nat                      -- LEVEL, or the target partition
  b : Nat                      -- PART, or the target CONN
  part : Nat
  idx : Nat
  gen : Nat
  maxLen : Nat
  soBase : Nat
  soCount : Nat
  conn : Nat
  nonce : List Byte
  deriving DecidableEq, Repr

def helloOf (ext : List Byte) : Hello :=
  { session := leAt ext 0 1 = 0, a := leAt ext 1 1, b := leAt ext 2 1, part := leAt ext 3 1, idx := leAt ext 4 2,
    gen := leAt ext 6 2, maxLen := leAt ext 8 2, soBase := leAt ext 10 1, soCount := leAt ext 11 1,
    conn := leAt ext 12 1, nonce := slice ext 16 16 }

/-- The extension that this end sends. -/
def helloBytes (h : Hello) : List Byte :=
  leBytes 1 (if h.session then 0 else 1) ++ leBytes 1 h.a ++ leBytes 1 h.b ++ leBytes 1 h.part ++ leBytes 2 h.idx ++
  leBytes 2 h.gen ++ leBytes 2 h.maxLen ++ leBytes 1 h.soBase ++ leBytes 1 h.soCount ++ leBytes 1 h.conn ++
  leBytes 3 0 ++ slice h.nonce 0 16

/-- What this end of a connection says of itself. -/
def ownHello (s : State) (e : Endpoint) : Hello :=
  let l := linkGet s e
  let x := s.part l.owner
  match e with
  | .sess _ => { session := true, a := (match l.level with | .owner => 0 | _ => 1), b := l.part, part := 0,
                 idx := endpointCode e, gen := l.gen, maxLen := portMaxLen s l.port, soBase := 0, soCount := 0, conn := 0,
                 nonce := l.nonceOwn }
  | .conn _ => { session := false, a := l.peerPart, b := l.peerConn, part := l.part, idx := endpointCode e, gen := l.gen,
                 maxLen := portMaxLen s l.port, soBase := x.soBase, soCount := x.soCount, conn := l.conn,
                 nonce := l.nonceOwn }

/-- Take a nonce that the spec leaves open. -/
def takeNonce (s : State) : List Byte × State :=
  (slice (Config.nonce s.freeCount) 0 16, { s with freeCount := s.freeCount + 1 })

/-- The proof of this end: the tag over its own nonce and the peer's. -/
def proofOf (l : Link) : List Byte := hmac384 l.key (l.nonceOwn ++ l.noncePeer)

/-- Send OPEN_ACK with a tag. -/
def sendOpenAck (s : State) (e : Endpoint) (tag : List Byte) : State :=
  sendFrame s e 0x03 (flFirst + flLast) (some (helloBytes (ownHello s e))) [slice tag 0 32, slice tag 32 32]

/-- Take the peer's side of a handshake into a link. -/
def takePeer (l : Link) (h : Hello) (own : Nat) (nonce : List Byte) : Link :=
  { l with peerIdx := h.idx, peerGen := h.gen, peerSoBase := h.soBase, peerSoCount := h.soCount, noncePeer := nonce,
           maxLen := min own h.maxLen }

/-- Sessions that are opening (R395). -/
def openingSessions (s : State) : Nat := (s.sess.filter (fun e => e.2.state = .opening)).length

/-- The lowest free session. -/
def freeSession (s : State) : Option (Fin 64) := (List.finRange 64).find? (fun n => (linkGet s (.sess n)).state = .free)

/-- The credential that keys a session: none where no answer is drawn (R39, R394). -/
def sessionCredential (s : State) (level part : Nat) : Option (List Byte) :=
  let c := if level = 0 then s.boot.owner else if level = 1 ∧ part < 16 then (s.part (Fin.ofNat 16 part)).credential else []
  if c = [] then none else some c

/-- The session key (R394). -/
def sessionKey (c : List Byte) (level part : Nat) (nh nd : List Byte) : List Byte :=
  hmac384 c (ascii "BIULONE-SESSION" ++ leBytes 1 level ++ leBytes 1 part ++ nh ++ nd)

/-- Answer an OPEN that reaches no endpoint: a REJECT without a trailer (Table 14-7). -/
def rejectOpen (s : State) (h : Hello) (code psn status : Nat) : State :=
  let w : WireFrame :=
    { port := code, service := portService s code, vlan := portVlan s code, prio := Config.priority (imageRecord s 4) false % 8,
      dconn := h.idx, dgen := h.gen, op := 0x18, flags := flFirst + flLast + flExt, psn := 0, ack := 0,
      climit := 0, slimit := 0, sack := 0, ext := some (granule32 (leBytes 4 status ++ leBytes 4 psn)), payload := [], tag := [] }
  handOver s code 0 [w]

/-- What an earlier session of this number captured, half wrote or still waits for is forgotten. -/
def forgetCaptures (s : State) (n : Fin 64) : State :=
  let other := fun (e : Nat × Nat) => decide (e.1 / 2 ^ 32 ≠ n.val)
  { s with caps := s.caps.filter other, heldHi := s.heldHi.filter other, accs := s.accs.filter (fun h => h.who ≠ .session n) }

/-- A host opens a session (R394, R395). -/
def openSession (s : State) (code : Nat) (m : RxMsg) (h : Hello) : State :=
  match sessionCredential s h.a h.b with
  | none => s
  | some c =>
    let again := s.sess.any (fun e => e.2.state = .opening && e.2.noncePeer = h.nonce && decide (e.2.port = code))
    if again || decide (16 ≤ openingSessions s) then s else
    match freeSession s with
    | none => rejectOpen s h code m.psn 0xA
    | some n =>
      let e := Endpoint.sess n
      let (nd, s) := takeNonce (forgetCaptures s n)
      let key := sessionKey c h.a h.b h.nonce nd
      let l := { linkGet s e with
        state := .opening, level := if h.a = 0 then .owner else .tenant (Fin.ofNat 16 h.b), part := h.b, port := code,
        key := key, nonceOwn := nd, psnRx := (m.psn + 1) % psnMod, peerClimit := m.climit, peerSlimit := m.slimit }
      sendOpenAck (linkSet s e (takePeer l h (portMaxLen s code) h.nonce)) e (hmac384 key (ascii "B7"))

/-- The responder's connection that an OPEN names: CONN_SET has made it ready on this port for this peer (R361). -/
def respondent (s : State) (code : Nat) (h : Hello) : Option Endpoint :=
  (s.conns.find? (fun e => e.2.state = .opening && !e.2.initiator && decide (e.2.part = h.a) && decide (e.2.conn = h.b) &&
    decide (e.2.port = code) && decide (e.2.peerPart = h.part) && decide (e.2.peerConn = h.conn) &&
    decide (e.2.noncePeer = []))).map (fun e => .conn (Fin.ofNat 2048 e.1))

/-- A peer opens a connection: OPEN_ACK carries the responder's proof (R361). -/
def openLink (s : State) (e : Endpoint) (m : RxMsg) (h : Hello) : State :=
  let (nd, s) := takeNonce s
  let l := { linkGet s e with nonceOwn := nd, psnRx := (m.psn + 1) % psnMod, peerClimit := m.climit, peerSlimit := m.slimit }
  let l := takePeer l h (portMaxLen s l.port) h.nonce
  sendOpenAck (linkSet s e l) e (proofOf l)

/-- The tag of an OPEN_ACK proves the peer: over its nonce, then this end's. -/
def provesPeer (l : Link) (m : RxMsg) : Bool :=
  let nonce := if l.initiator then (helloOf m.ext).nonce else l.noncePeer
  slice m.payload.flatten 0 48 = hmac384 l.key (nonce ++ l.nonceOwn)

/-- OPEN_ACK takes effect: an initiator takes its peer's side, opens, and proves itself in turn; a responder opens. -/
def openAckEffect (s : State) (e : Endpoint) (m : RxMsg) : State :=
  let l := linkGet s e
  if l.state ≠ .opening then s
  else if l.initiator then
    let h := helloOf m.ext
    let l := { takePeer l h (portMaxLen s l.port) h.nonce with state := .opened }
    sendOpenAck (linkSet s e l) e (proofOf l)
  else linkSet s e { l with state := .opened }

/-- The initiator sends OPEN (R361): to no endpoint's index, 0xFFF. -/
def sendOpen (s : State) (e : Endpoint) : State :=
  let (nd, s) := takeNonce s
  let s := linkMod s e (fun l => { l with nonceOwn := nd, peerIdx := 0xFFF, peerGen := 0 })
  sendFrame s e 0x02 (flFirst + flLast) (some (helloBytes (ownHello s e))) []

/-! ### Acknowledgement and credit (R365 to R367) -/

/-- a is before b in modulo-2^32 order. -/
def psnLt (a b : Nat) : Bool := a ≠ b && psnLe a b

/-- The PSNs that a SACK shows missing while a later frame has arrived (R366). -/
def sackMissing (ack sack : Nat) : List Nat :=
  ((List.range 32).filter (fun j => (j = 0 || !sack.testBit (j - 1)) &&
    (List.range 32).any (fun i => decide (j ≤ i) && sack.testBit i))).map (fun j => (ack + j) % psnMod)

/-- Signal limits compare modulo 2^16. -/
def slimitLe (a b : Nat) : Bool := decide ((b + 65536 - a) % 65536 < 32768)

/-- The credits and the acknowledgement that a header carries: acknowledged frames leave, missing ones go again once, and
what waited for credit goes. -/
def takeCredit (s : State) (e : Endpoint) (m : RxMsg) : State :=
  let l := linkGet s e
  let ackOk := psnLe m.ack l.psnTx
  let kept := if ackOk then l.unacked.filter (fun f => !psnLt f.psn m.ack) else l.unacked
  let l' := { l with unacked := kept, rto := if kept.length < l.unacked.length then 0 else l.rto,
                     peerClimit := if psnLe l.peerClimit m.climit then m.climit else l.peerClimit,
                     peerSlimit := if slimitLe l.peerSlimit m.slimit then m.slimit else l.peerSlimit }
  let miss := (sackMissing m.ack m.sack).filter (fun n => kept.any (fun f => f.psn = n && f.rexmit = 0))
  pump (resend (linkSet s e l') e miss) e

/-- Commands whose frames are acknowledged: a remote SIG (R99), and a SEND whose data has gone (R373). -/
def settleAcks (s : State) (e : Endpoint) (ack : Nat) : State :=
  let l := linkGet s e
  let p := l.owner
  let done := (l.sigs ++ l.sends).filter (fun w => w.matched && psnLt w.psn ack)
  let keep := fun (ws : List LinkWait) => ws.filter (fun w => !(w.matched && psnLt w.psn ack))
  done.foldl (fun s w => setWait s p w.stream w.seq .none)
    (linkSet s e { l with sigs := keep l.sigs, sends := keep l.sends })

/-- An ACK in the header of a frame of the window. A frame that was sent again carries a later ACK than its place in the order
of PSNs gives (R366), and a REJECT sent before that ACK may still wait: the ACK takes effect once no frame is known to be
missing (R99; assumption 76). -/
def noteAck (s : State) (e : Endpoint) (ack : Nat) : State :=
  let l := linkGet s e
  let seen := if psnLe l.ackSeen ack then ack else l.ackSeen
  let s := linkSet s e { l with ackSeen := seen }
  if l.ahead = [] then settleAcks s e seen else s

/-- ACK_TIMER: frames that came since the last acknowledgement are acknowledged (R365). -/
def execAckTimer (e : Endpoint) (s : State) : Host.Outcome State Fault Refusal :=
  .next (if 0 < (linkGet s e).sinceAck then sendAck s e else s)

/-- RETRANSMIT_TIMEOUT: the oldest unacknowledged frame goes again; at its 32nd retransmission the connection breaks
(R363, R366). -/
def execRetransmitTimeout (e : Endpoint) (s : State) : Host.Outcome State Fault Refusal :=
  let l := linkGet s e
  match l.unacked.filter (fun f => f.sent) with
  | [] => .next s
  | f :: _ =>
    if !linkLive l then .next s
    else
      let s := resend (linkSet s e { l with rto := l.rto + 1 }) e [f.psn]
      .next (if (linkGet s e).unacked.any (fun f => decide (32 ≤ f.rexmit)) then breakLink s e reasonRetry else s)

/-- CONN_TIMEOUT: no acknowledgement has advanced for the timeout (R363). -/
def execConnTimeout (e : Endpoint) (s : State) : Host.Outcome State Fault Refusal :=
  .next (if (linkGet s e).unacked = [] then s else breakLink s e reasonTimeout)

/-- SESSION_OPEN_TIMEOUT: an opening session without a verified frame is freed (R395). -/
def execSessionOpenTimeout (n : Fin 64) (s : State) : Host.Outcome State Fault Refusal :=
  .next (if (linkGet s (.sess n)).state = .opening then linkMod s (.sess n) freeLink else s)

/-! ### Ports (R353, R355) -/

/-- The endpoints of a port. -/
def portLinks (s : State) (code : Nat) : List Endpoint :=
  (s.conns.filter (fun e => decide (e.2.port = code))).map (fun e => .conn (Fin.ofNat 2048 e.1)) ++
  (s.sess.filter (fun e => decide (e.2.port = code))).map (fun e => .sess (Fin.ofNat 64 e.1))

/-- Let what waits on a port go. -/
def pumpPort (s : State) (i : Nat) : State := (portLinks s (codeOfPort i)).foldl pump s

/-- Change the state of a port that is in one of `olds`. -/
def movePort (s : State) (i : Nat) (olds : List PortState) (new : PortState) : State :=
  if olds.contains (portGet s i).state && !(portGet s i).dead && portExists s i then portMod s i (fun x => { x with state := new }) else s

/-- LINK_TRAINED (Table 14-3, step 2). -/
def execLinkTrained (port : Fin 20) (s : State) : Host.Outcome State Fault Refusal :=
  .next (movePort s port.val [.training, .failed] .locking)

/-- LINK_TRAINING_TIMEOUT: training starts over (Table 14-3, step 2). -/
def execLinkTrainingTimeout (port : Fin 20) (s : State) : Host.Outcome State Fault Refusal :=
  .next (movePort s port.val [.training] .training)

/-- FEC_LOCK: the port is UP, and frames that waited go (Table 14-3, step 3). -/
def execFecLock (port : Fin 20) (s : State) : Host.Outcome State Fault Refusal :=
  .next (if (portGet s port.val).state = .locking then pumpPort (movePort s port.val [.locking] .up) port.val else s)

/-- FEC_LOCK_TIMEOUT: back to training (Table 14-3, step 3). -/
def execFecLockTimeout (port : Fin 20) (s : State) : Host.Outcome State Fault Refusal :=
  .next (movePort s port.val [.locking] .training)

/-- Ticks of 10 s: a tick is 1 µs (R12). -/
def flapWindow : Nat := 10000000

/-- LINK_DOWN: a flap is recorded; the third within 10 s holds the port (Table 14-3, steps 4 and 5). -/
def execLinkDown (port : Fin 20) (s : State) : Host.Outcome State Fault Refusal :=
  let x := portGet s port.val
  if x.state = .up then
    let flaps := s.tick :: x.flaps.filter (fun t => decide (s.tick < t + flapWindow))
    .next (portSet s port.val { x with state := if 3 ≤ flaps.length then .held else .training, flaps := flaps, pfcRx := false, pfcCtl := false })
  else .next s

/-- HOLD_DOWN_END: training starts again (Table 14-3, step 6). -/
def execHoldDownEnd (port : Fin 20) (s : State) : Host.Outcome State Fault Refusal :=
  .next (movePort s port.val [.held] .training)

/-- PORT_FAILED: 60 s in training; it keeps retrying (R355). -/
def execPortFailed (port : Fin 20) (s : State) : Host.Outcome State Fault Refusal :=
  .next (movePort s port.val [.training] .failed)

/-- A frame of another protocol is received on a port that passes frames. -/
def hearOther (s : State) (i : Nat) : State :=
  if portCarries s (codeOfPort i) then
    bumpPort (bumpPort s i 1 1) i 3 (Config.frameOverhead (codeOfPort i))
  else s

/-- Set or end the pause of a class on a port. -/
def pauseClass (x : Port) (control on : Bool) : Port := if control then { x with pfcCtl := on } else { x with pfcRx := on }

/-- PFC_PAUSE: honoured for a class where the image enables it (Tables 14-2, 15-5, R358). -/
def execPfcPause (c : PortClass) (s : State) : Host.Outcome State Fault Refusal :=
  let heard := hearOther s c.port.val
  if portCarries s (codeOfPort c.port.val) && Config.pfcEnabled (imageRecord s 4) (!c.control) then
    .next (portMod heard c.port.val (fun x => pauseClass x c.control true))
  else .next heard

/-- PFC_PAUSE_EXPIRY: the class may send again. -/
def execPfcPauseExpiry (c : PortClass) (s : State) : Host.Outcome State Fault Refusal :=
  let x := portGet s c.port.val
  .next (if (if c.control then x.pfcCtl else x.pfcRx) then
    pumpPort (portSet s c.port.val (pauseClass x c.control false)) c.port.val else s)

/-- PAUSE_FRAME: an IEEE 802.3x pause is discarded and counted as a received frame (Table 14-2). -/
def execPauseFrame (port : Fin 20) (s : State) : Host.Outcome State Fault Refusal := .next (hearOther s port.val)

/-- A request for the port's own address: host ports answer it (Table 14-2). -/
def answerOther (s : State) (i : Nat) : State :=
  let s' := hearOther s i
  if 12 ≤ i ∧ portCarries s (codeOfPort i) then
    bumpPort (bumpPort s' i 0 1) i 2 (Config.frameOverhead (codeOfPort i))
  else s'

/-- ARP_REQUEST. -/
def execArpRequest (port : Fin 20) (s : State) : Host.Outcome State Fault Refusal := .next (answerOther s port.val)

/-- NEIGHBOR_SOLICITATION. -/
def execNeighborSolicitation (port : Fin 20) (s : State) : Host.Outcome State Fault Refusal :=
  .next (answerOther s port.val)

/-- ICMP_ECHO. -/
def execIcmpEcho (port : Fin 20) (s : State) : Host.Outcome State Fault Refusal := .next (answerOther s port.val)

end Sys2Proof.Machine
end

