-- ==== Sys2Proof/Machine/Fabric.lean ====
section
/-! DEFINITION. What streams do over connections: SEND and RECV (R373), and COLL with its segments (R369 to R372); and what
their frames do where they arrive. Loaves are cut as R286 gives; the extension layouts are the model's (assumption 20). -/

namespace Sys2Proof.Machine

/-- A command of stream t at a port takes no core offset, and acts on the I/O die of the port (R14). -/
def portCtx (s : State) (p : Fin 16) (t : StreamTag) (port : Nat) : Ctx :=
  { p := p, nn := 0, cx := 0, cy := 0, step := (s.stream p t).step, side := .io (portDie port), t := t }

/-! ### Loaves (R286) -/

/-- Blocks of a full loaf: 256 value bytes. -/
def loafBlocks (f : Fmt) : Nat := 256 / f.blockBytes

/-- Bytes of a block with its scale word. -/
def loafBytes (f : Fmt) (scaled : Bool) : Nat := f.blockBytes + (if scaled then 2 else 0)

/-- Blocks packed into loaves: value bytes, then the scale words of the same blocks. -/
def packLoaves (f : Fmt) (scaled : Bool) (bs : List (List Byte × Nat)) : List Byte :=
  let n := loafBlocks f
  ((chunks n ((bs.length + n - 1) / n) bs).map (fun l =>
    (l.map (fun b => b.1)).flatten ++ (if scaled then (l.map (fun b => leBytes 2 b.2)).flatten else []))).flatten

/-- n blocks read back from loaves (with fuel for the loaves). -/
def unpackLoaves (f : Fmt) (scaled : Bool) : Nat → Nat → List Byte → List (List Byte × Nat)
  | 0, _, _ => []
  | fuel + 1, n, bytes =>
    let k := min n (loafBlocks f)
    let bl := f.blockBytes
    let here := (List.range k).map (fun i =>
      (slice bytes (bl * i) bl, if scaled then leAt bytes (bl * k + 2 * i) 2 else scOne))
    if k = 0 then [] else here ++ unpackLoaves f scaled fuel (n - k) (bytes.drop (k * loafBytes f scaled))

/-- Bytes of a tensor as loaves. -/
def loafTotal (d : Desc) : Nat := d.rows * d.blocks * loafBytes d.fmt d.scaled

/-- Blocks of a frame of up to `maxLen` granules: as many full loaves as fit (R286, R371). -/
def segBlocks (f : Fmt) (scaled : Bool) (maxLen : Nat) : Nat :=
  32 * maxLen / (loafBlocks f * loafBytes f scaled) * loafBlocks f

/-- Blocks lo .. lo + n - 1 of a tensor with `row` blocks to a row, cut into frames of at most `per` blocks: a loaf holds
blocks of one row, and a frame loaves of one row (R286, assumption 48). Each run is (first block, blocks). -/
def frameRuns (row per : Nat) : Nat → Nat → Nat → List (Nat × Nat)
  | 0, _, _ => []
  | fuel + 1, lo, n =>
    if n = 0 then [] else
    let k := min n (min per (row - lo % row))
    (lo, k) :: frameRuns row per fuel (lo + k) (n - k)

/-- Place of block k of a tensor: its number in the row, and the row. -/
def blockPlace (d : Desc) (k : Nat) : Nat × (Nat × Nat × Nat) := (k % d.blocks, d.rowIdx (k / d.blocks))

/-- Blocks lo .. lo + n - 1 of a source; a block that a CFLUSH with DIRECT handed over is taken from there (R196). -/
def readRun (c : Ctx) (d : Desc) (lo n : Nat) : Op (List (List Byte × Nat)) := do
  let s ← Op.get
  let handed := (s.part c.p).handed
  Op.map (List.range n) (fun i => do
    let (jb, r) := blockPlace d (lo + i)
    let h := Sparse.get ([], 0) handed (valueAddr c d jb r)
    if h.1 = [] then do
      let bs ← readBlocks c d jb 1 r
      pure ((bs.map (fun b => (b.bytes, b.scale))).headD ([], 0))
    else pure h)

/-- Write one block of a destination. -/
def writeBlock (c : Ctx) (d : Desc) (k : Nat) (b : List Byte × Nat) : Op Unit :=
  let (jb, r) := blockPlace d k
  writeBlocks c d jb r [{ bytes := b.1, scale := b.2 }]

/-- The FMT code of a format (Table 3-8). -/
def fmtCode (f : Fmt) : Nat :=
  [Fmt.w1, .wt, .w2, .a8, .a4, .e4m3, .e5m2, .int8, .bf16, .fp16, .fp32, .w48, .m40, .g8, .q8].idxOf f

/-! ### SEND and RECV (R373) -/

def nConn (g : Granule) : Nat := field g 127 120
def nSrc (g : Granule) : Nat := field g 111 96
def nTag (g : Granule) : Nat := field g 95 64

/-- Direct: TAG bit 31. -/
def directTag (tag : Nat) : Bool := decide (2 ^ 31 ≤ tag)

/-- Extension of SEND_RTS and SEND_CTS. -/
def tagExt (tag total : Nat) : List Byte := granule32 (leBytes 4 tag ++ leBytes 8 total)

/-- Checks of SEND and RECV: the connection is open, the tensor lies in partition memory. -/
def sendCheck (role : Role) (s : State) (p : Fin 16) (t : StreamTag) (g : Granule) : List Nat :=
  let d := descOf s p t g (nSrc g)
  failIf 3 (!connOpen s p (nConn g)) ++ failIf 5 (d.space || !descOk 1 1 role d) ++
  failIf 6 (!rangeOk (s.part p).mem 1 1 d)

/-- The endpoint of a command's connection. -/
def nEndpoint (s : State) (p : Fin 16) (g : Granule) : Endpoint := (connEndpoint (s.part p) (nConn g)).getD (.conn 0)

/-- Extension of SEND_DATA: TAG, byte offset, total bytes; then the format and the number of blocks, which R130 and R287 need
where the frame arrives (assumption 48). -/
def sentExt (tag ofs total : Nat) (d : Desc) (n : Nat) : List Byte :=
  granule32 (leBytes 4 tag ++ leBytes 8 ofs ++ leBytes 8 total ++ leBytes 1 (fmtCode d.fmt) ++
    leBytes 1 ((if d.signed then 1 else 0) + (if d.scaled then 2 else 0)) ++ leBytes 2 n)

/-- Send the data of a SEND in frames of whole loaves, of at most the connection's MAX_LEN (R287). -/
def sendTensor (s : State) (e : Endpoint) (tag : Nat) (d : Desc) (bs : List (List Byte × Nat)) : State :=
  let runs := frameRuns d.blocks (segBlocks d.fmt d.scaled (linkGet s e).maxLen) bs.length 0 bs.length
  let each := loafBytes d.fmt d.scaled
  runs.zipIdx.foldl (fun s r =>
    let fl := (if r.2 = 0 then flFirst else 0) + (if r.2 + 1 = runs.length then flLast else 0)
    sendFrame s e 0x14 fl (some (sentExt tag (each * r.1.1) (each * bs.length) d r.1.2))
      (granulesOf (packLoaves d.fmt d.scaled ((bs.drop r.1.1).take r.1.2)))) s

/-- The entry of a command that waits on its connection. -/
def linkWait (t : StreamTag) (n tag total psn : Nat) (matched : Bool) : LinkWait :=
  { stream := t, seq := n, tag := tag, total := total, got := 0, psn := psn, matched := matched, cts := matched }

/-- The data of a SEND goes; the PSN of its last frame, for whose acknowledgement it then waits. -/
def sendGo (s : State) (p : Fin 16) (t : StreamTag) (g : Granule) : Except Trap Nat × State :=
  let e := nEndpoint s p g
  let d := descOf s p t g (nSrc g)
  match Op.exec (Op.at 0xC 0xFF [0, 0, 0, 0] (readRun (portCtx s p t (linkGet s e).port) d 0 (d.rows * d.blocks))) s with
  | (.error x, s) => (.error x, s)
  | (.ok bs, s) =>
    let s := sendTensor s e (nTag g) d bs
    (.ok (((linkGet s e).psnTx + psnMod - 1) % psnMod), s)

/-- SEND: a direct one, and a matched one that SEND_CTS lets go, send their data; a matched one asks first (R373). -/
def sendRun (s : State) (p : Fin 16) (t : StreamTag) (g : Granule) (n : Nat) : Effect :=
  let e := nEndpoint s p g
  let total := loafTotal (descOf s p t g (nSrc g))
  let asked := (linkGet s e).sends.find? (fun w => w.stream = t && w.seq = n)
  if directTag (nTag g) || asked.isSome then
    match sendGo s p t g with
    | (.error x, s) => { state := linkMod s e (fun l => { l with sends := l.sends.filter (fun w => !(w.stream = t && w.seq = n)) }),
                         traps := [x], wait := .none }
    | (.ok psn, s) =>
      let w := linkWait t n (nTag g) total psn true
      { state := linkMod s e (fun l => { l with sends := l.sends.filter (fun w => !(w.stream = t && w.seq = n)) ++ [w] }),
        traps := [], wait := .sendAck 0 }
  else
    let w := linkWait t n (nTag g) total (linkGet s e).psnTx false
    let s := linkMod s e (fun l => { l with sends := l.sends ++ [w] })
    { state := sendFrame s e 0x16 (flFirst + flLast) (some (tagExt (nTag g) total)) [], traps := [], wait := .sendCts }

def sendCmd : StreamCmd :=
  { matches_ := fun g => cOpcode g = 0x51, reads := fun g => [nSrc g], writes := fun _ => [], check := sendCheck .source,
    hold := fun _ _ _ _ => false, atIssue := fun _ _ _ _ => false, run := sendRun }

/-- SEND. -/
def execSend (p : Fin 16) (t : StreamTag) (s : State) : Host.Outcome State Fault Refusal := .next (issue sendCmd p t s)

/-- A RECV and a SEND meet: equal totals let the data go, others break the connection (R373). -/
def meetSend (s : State) (e : Endpoint) (w : LinkWait) (total psn : Nat) : State :=
  if w.total = total then
    let mark := fun (l : Link) => { l with recvs := l.recvs.map (fun r => if r = w then { r with matched := true } else r) }
    sendFrame (linkMod s e mark) e 0x17 (flFirst + flLast) (some (tagExt w.tag total)) []
  else breakLink (sendReject s e psn 9 w.tag) e reasonSend

/-- RECV at issue: it takes the oldest request of its tag, if one waits. -/
def recvRun (s : State) (p : Fin 16) (t : StreamTag) (g : Granule) (n : Nat) : Effect :=
  let e := nEndpoint s p g
  let w := linkWait t n (nTag g) (loafTotal (descOf s p t g (nSrc g))) 0 false
  let l := linkGet s e
  let s := linkSet s e { l with recvs := l.recvs ++ [w] }
  match l.rts.find? (fun r => r.1 = nTag g) with
  | none => { state := s, traps := [], wait := .recvData }
  | some r =>
    if w.total = r.2.1 then
      { state := meetSend (linkMod s e (fun l => { l with rts := l.rts.erase r })) e w r.2.1 r.2.2, traps := [],
        wait := .recvData }
    else
      let s := linkMod s e (fun l => { l with recvs := l.recvs.erase w })
      { state := breakLink (sendReject s e r.2.2 9 w.tag) e reasonSend, traps := [brokenConn s p (nConn g)], wait := .none }

def recvCmd : StreamCmd :=
  { matches_ := fun g => cOpcode g = 0x52, reads := fun _ => [], writes := fun g => [nSrc g], check := sendCheck .dest,
    hold := fun _ _ _ _ => false, atIssue := fun _ _ _ _ => false, run := recvRun }

/-- RECV. -/
def execRecv (p : Fin 16) (t : StreamTag) (s : State) : Host.Outcome State Fault Refusal := .next (issue recvCmd p t s)

/-- SEND_RTS takes effect: the oldest RECV of its tag answers it, or it waits. -/
def sendRtsEffect (s : State) (e : Endpoint) (m : RxMsg) : State :=
  let tag := leAt m.ext 0 4
  let total := leAt m.ext 4 8
  let l := linkGet s e
  match l.recvs.find? (fun w => !w.matched && w.tag = tag) with
  | some w => meetSend s e w total m.psn
  | none => linkSet s e { l with rts := l.rts ++ [(tag, total, m.psn)] }

/-- SEND_CTS takes effect: the oldest matched SEND of its tag may send its data. -/
def sendCtsEffect (s : State) (e : Endpoint) (m : RxMsg) : State :=
  let l := linkGet s e
  match l.sends.find? (fun w => !w.cts && w.tag = leAt m.ext 0 4) with
  | none => s
  | some w =>
    let put := fun (r : LinkWait) => if r = w then { r with cts := true } else r
    setWait (linkSet s e { l with sends := l.sends.map put }) l.owner w.stream w.seq .behind

/-- The partition takes transfers: ADMITTED to FAULTED (R98). -/
def takesPeers (x : Part) : Bool := decide (1 ≤ x.state.code) && decide (x.state.code ≤ 7)

/-- The descriptor that a direct SEND names, read from the table in memory, and its checks as a destination (Table 3-1);
a status of Table 14-7. -/
def directDest (s : State) (p : Fin 16) (tag total : Nat) : Except Nat Desc :=
  let x := s.part p
  let i := tag % 65536
  if !takesPeers x then .error 6
  else if x.desc ≤ i then .error 9
  else match (Op.exec (readMem .compute p (64 * i) 64) s).1 with
    | .error _ => .error 0xD
    | .ok bs =>
      let d := Desc.ofBits (BitVec.ofNat 512 (leNat bs))
      if d.space || !descOk 1 1 .dest d || (d.slotEn && !slotInRun x d.slot) then .error 9
      else if !rangeOk x.mem 1 1 d || regionChecks x true d ≠ [] || loafTotal d ≠ total then .error 8
      else .ok d

/-- Step counter by which a direct SEND takes the receiver's ring: that of the F-stream. -/
def directStep (s : State) (p : Fin 16) : Nat := (s.part p).sF.step

/-- A frame of SEND_DATA as its extension gives it: first block, format, SIGNED, and its blocks. -/
def sentOf (m : RxMsg) : SentBlocks :=
  let fc := leAt m.ext 20 1
  let f := Fmt.ofCode fc
  let bits := leAt m.ext 21 1
  let scaled := bits.testBit 1
  let n := leAt m.ext 22 2
  { tag := leAt m.ext 0 4, fmt := fc, signed := bits.testBit 0, first := leAt m.ext 4 8 / loafBytes f scaled,
    blocks := unpackLoaves f scaled n n m.payload.flatten }

/-- Blocks of the destination's own format are written as they come, uninterpreted (R130); others wait for the rest. -/
def placeBlocks (c : Ctx) (e : Endpoint) (d : Desc) (b : SentBlocks) : Op Unit :=
  if b.fmt = fmtCode d.fmt then
    Op.each (b.blocks.zipIdx) (fun x => if b.first + x.2 < d.rows * d.blocks then writeBlock c d (b.first + x.2) x.1 else pure ())
  else Op.mod (fun s => linkMod s e (fun l => { l with parts := l.parts ++ [b] }))

/-- The element values of a tensor that came in another format, in order (R130). Its zero points do not travel: they are
free. -/
def sentValues (parts : List SentBlocks) : Except Nans (List Num) :=
  (together (parts.map (fun b =>
    let d := { Desc.ofBits 0#512 with fmt := Fmt.ofCode b.fmt, signed := b.signed }
    fromPlace (d.epb * b.first) ((together (b.blocks.zipIdx.map (fun x =>
      let zps := (List.range d.epb).map (fun i => Config.sentZero b.tag (d.epb * (b.first + x.2) + i) % 256)
      fromPlace (d.epb * x.2) (blockValues d zps { bytes := x.1.1, scale := x.1.2 })))).map List.flatten)))).map List.flatten

/-- Write element values into a tensor, row by row, under its ROUND, as a converting LOAD does (R130, assumption 48). -/
def writeSent (w : Work) (d : Desc) (vals : List Num) : Op Unit := do
  let zps ← readZps w.c d 0 d.blocks
  Op.each (List.range d.rows) (fun i => do
    let s ← Op.get
    let row := (vals.drop ((d.e0 + 1) * i)).take (d.e0 + 1)
    let bs ← Op.nanAt 0 (together ((rowBlocks d row).zipIdx.map (fun e => fromPlace (d.epb * e.2)
      (loadBlock s w d e.2 (d.rowIdx i) (zps.drop (d.epb * e.2)) e.1.2 e.1.1))))
    writeBlocks w.c d 0 (d.rowIdx i) (bs.map ConvBlock.raw))

/-- The parts of a tag that have come are interpreted and written (R130). -/
def convertSent (w : Work) (e : Endpoint) (tag : Nat) (d : Desc) : Op Unit := do
  let s ← Op.get
  let parts := (linkGet s e).parts.filter (fun b => b.tag = tag)
  Op.mod (fun s => linkMod s e (fun l => { l with parts := l.parts.filter (fun b => b.tag ≠ tag) }))
  if parts = [] then pure () else Op.at 0xC 0xFF [0, 0, 0, 0] (do
    let vals ← Op.nanAt 0 (sentValues parts)
    writeSent w d vals)

/-- The work of a received SEND: through the descriptor of RECV flight f, or, direct, with the F-stream's step. -/
def recvWork (s : State) (p : Fin 16) (t : StreamTag) (g : Granule) (port : Nat) : Work :=
  { c := portCtx s p t port, t := t, g := g }

/-- The RECV that takes a frame's data: matched, of its tag, with bytes still to come. -/
def recvOf (s : State) (l : Link) (tag : Nat) : Option (LinkWait × Flight) :=
  (l.recvs.find? (fun w => w.matched && w.tag = tag && decide (w.got < w.total))).bind (fun w =>
    (flightOf (s.part l.owner) w.stream w.seq).map (fun f => (w, f)))

/-- A RECV meets its own stop. -/
def trapRecv (s : State) (e : Endpoint) (w : LinkWait) (f : Flight) (x : Trap) : State :=
  trapFlight (linkMod s e (fun l => { l with recvs := l.recvs.erase w })) (linkGet s e).owner w.stream f [x]

/-- SEND_DATA is placed as it arrives (R364): through a RECV's descriptor, or the one that a direct SEND names. None where
its place waits (R336, R339): the frame is not taken, and its sender sends it again (assumption 78). -/
def placeSendData (s : State) (e : Endpoint) (m : RxMsg) : Option (State × Nat) :=
  let l := linkGet s e
  let p := l.owner
  let b := sentOf m
  if directTag b.tag then
    match directDest s p b.tag (leAt m.ext 12 8) with
    | .error st => some (s, st)
    | .ok d =>
      match Op.exec (placeBlocks (portCtx s p .F l.port) e d b) (freshRows s) with
      | (.ok _, s) => some (s, 0)
      | (.error x, s) => if x.waits then none else some (s, 0xD)
  else
    match recvOf s l b.tag with
    | none => some (s, 0)
    | some (w, f) =>
      if goesOn (s.part p) then
        match Op.exec (Op.at 0xC 0xFF [0, 0, 0, 0] (placeBlocks (portCtx s p w.stream l.port) e
            (descOf s p w.stream f.word (nSrc f.word)) b)) (freshRows s) with
        | (.ok _, s) => some (s, 0)
        | (.error x, s') => if x.waits then none else some (trapRecv s' e w f x, 0)
      else some (s, 0)

/-- SEND_DATA takes effect: a RECV whose bytes have all come is done, once they are converted where the formats differ; a
direct SEND that failed is rejected (R130, R373). -/
def sendDataEffect (s : State) (e : Endpoint) (m : RxMsg) : State :=
  let l := linkGet s e
  let p := l.owner
  let b := sentOf m
  if m.st ≠ 0 then sendReject s e m.psn m.st (b.tag % 65536)
  else if directTag b.tag then
    if m.flags.testBit 1 then
      match directDest s p b.tag (leAt m.ext 12 8) with
      | .error _ => s
      | .ok d =>
        match Op.exec (convertSent (recvWork s p .F 0#256 l.port) e b.tag d) (freshRows s) with
        | (.ok _, s) => s
        | (.error _, s) => sendReject s e m.psn 9 (b.tag % 65536)
    else s
  else
    match recvOf s l b.tag with
    | none => s
    | some (w, f) =>
      let n := b.blocks.length * loafBytes (Fmt.ofCode b.fmt) ((leAt m.ext 21 1).testBit 1)
      if w.total ≤ w.got + n then
        match Op.exec (convertSent (recvWork s p w.stream f.word l.port) e b.tag (descOf s p w.stream f.word (nSrc f.word)))
            (freshRows s) with
        | (.ok _, s) => setWait (linkMod s e (fun l => { l with recvs := l.recvs.erase w })) p w.stream w.seq .none
        | (.error x, s) => trapRecv s e w f x
      else linkSet s e { l with recvs := l.recvs.map (fun r => if r = w then { r with got := r.got + n } else r) }

/-! ### COLL (R369 to R372) -/

def kComm (g : Granule) : Nat := field g 127 120
def kKind (g : Granule) : Nat := field g 119 116
def kRop (g : Granule) : Nat := field g 115 112
def kSrc (g : Granule) : Nat := field g 111 96
def kDst (g : Granule) : Nat := field g 95 80

/-- Elements of a tensor. -/
def Desc.elems (d : Desc) : Nat := (d.e0 + 1) * d.rows

/-- First element of chunk c of E elements among n ranks (R371). -/
def chunkLo (elems n c : Nat) : Nat := c * (elems / 256) / n * 256

/-- Elements of a rank's chunk. -/
def chunkLen (elems n c : Nat) : Nat := chunkLo elems n (c + 1) - chunkLo elems n c

/-- The E of a COLL: of DST for an all-gather, else of SRC (Table 14-10). -/
def collElems (kind : Nat) (a d : Desc) : Nat := if kind = 1 then d.elems else a.elems

/-- Formats of a reduction (Table 14-10). -/
def reduceFmt (f : Fmt) : Bool := [Fmt.g8, .e4m3, .e5m2, .bf16, .fp32, .w48].contains f

/-- Table 14-10; a chunk holds whole blocks, so rows do too. -/
def collShapesOk (k : Comm) (kind : Nat) (a d : Desc) : Bool :=
  let e := collElems kind a d
  let own := chunkLen e k.size k.rank
  decide (e % 256 = 0) && a.fmt = d.fmt && (kind = 1 || reduceFmt a.fmt) && (kind ≠ 1 || a.scaled == d.scaled) &&
  decide ((a.e0 + 1) % a.epb = 0) && decide ((d.e0 + 1) % d.epb = 0) && !a.space && !d.space &&
  (match kind with
   | 0 => decide (d.elems = own)
   | 1 => decide (a.elems = own)
   | _ => decide (d.elems = e))

/-- Every connection of a communicator is open (R363). -/
def commOpen (s : State) (p : Fin 16) (k : Comm) : Bool := k.peers.all (connOpen s p)

/-- The CFLUSH with DIRECT that waits for the next COLL of the stream (Table 7-7). -/
def waitingFlush (x : Part) (t : StreamTag) : Option Flight :=
  match x.directWait with
  | some n => if t = .B then flightOf x .B n else none
  | none => none

/-- The CFLUSH whose output COLL n of the stream takes (R196). -/
def flushOf (q : Stream) (n : Nat) : Option Flight := (ahead q n).find? (fun f => f.wait = .direct)

/-- Checks of COLL. -/
def collCheck (s : State) (p : Fin 16) (t : StreamTag) (g : Granule) : List Nat :=
  let x := s.part p
  let a := descOf s p t g (kSrc g)
  let d := descOf s p t g (kDst g)
  let pair := match waitingFlush x t with
    | some f => decide (kKind g = 1) || decide (cGdesc f.word ≠ kSrc g)
    | none => false
  let shapes := match commOf x (kComm g) with
    | some k => collShapesOk k (kKind g) a d
    | none => true
  let ready := ((commOf x (kComm g)).map (commOpen s p)).getD false
  failIf 3 (decide (2 < kKind g) || decide (2 < kRop g) || !ready || pair) ++
  failIf 5 (!shapes || !descOk 1 1 .source a || !descOk 1 1 .dest d) ++
  failIf 6 (!rangeOk x.mem 1 1 a || !rangeOk x.mem 1 1 d || migrateBad x.mem 1 1 a || migrateBad x.mem 1 1 d)

/-- Extension of COLL_DATA: what R370 compares, the rank that sends, the chunk, the segment's number in it; then whether the
blocks have scales, the first block in the whole result, and the number of blocks (assumption 20). -/
def collExt (c : Coll) (d : Desc) (rank chunk seg first n : Nat) : List Byte :=
  granule32 (leBytes 1 c.comm ++ leBytes 1 c.kind ++ leBytes 1 c.rop ++ leBytes 1 (fmtCode d.fmt) ++
    leBytes 4 c.number ++ leBytes 4 c.elems ++ leBytes 2 rank ++ leBytes 2 chunk ++ leBytes 4 seg ++
    leBytes 4 (if d.scaled then 1 else 0) ++ leBytes 4 first ++ leBytes 4 n)

/-- Send blocks `unit`, `unit + 1`, … of the whole to a rank, segment by segment: they stand from block `at_` on in tensor d,
whose rows bound the loaves (R286, R371). -/
def sendChunk (s : State) (e : Endpoint) (c : Coll) (d : Desc) (rank chunk unit at_ : Nat) (bs : List (List Byte × Nat)) :
    State :=
  let runs := frameRuns d.blocks (segBlocks d.fmt d.scaled (linkGet s e).maxLen) bs.length at_ bs.length
  runs.zipIdx.foldl (fun s r =>
    let lo := r.1.1 - at_
    let fl := (if r.2 = 0 then flFirst else 0) + (if r.2 + 1 = runs.length then flLast else 0)
    sendFrame s e 0x15 fl (some (collExt c d rank chunk r.2 (unit + lo) r.1.2))
      (granulesOf (packLoaves d.fmt d.scaled ((bs.drop lo).take r.1.2)))) s

/-- The endpoint by which a communicator reaches a rank. -/
def peerEndpoint (s : State) (p : Fin 16) (k : Comm) (r : Nat) : Option Endpoint := connEndpoint (s.part p) (k.conns.getD r 0)

/-- The port of a rank; the own rank works at the port of the first of its peers. -/
def peerPort (s : State) (p : Fin 16) (k : Comm) (r : Nat) : Nat :=
  let r := if r = k.rank then (if r = 0 then 1 else 0) else r
  ((peerEndpoint s p k r).map (fun e => (linkGet s e).port)).getD 0

/-- Send a rank's blocks to every other rank. -/
def sendPeers (s : State) (p : Fin 16) (k : Comm) (f : State → Endpoint → Nat → State) : State :=
  ((List.range k.size).filter (fun r => r ≠ k.rank)).foldl (fun s r =>
    match peerEndpoint s p k r with
    | some e => f s e r
    | none => s) s

/-- The segment is of collective `number` of communicator `comm`. -/
def CollSeg.of (g : CollSeg) (comm number : Nat) : Bool := g.comm = comm && g.number = number

/-- The segment agrees with the COLL (R370). -/
def CollSeg.agrees (g : CollSeg) (kind rop fmt elems : Nat) : Bool :=
  g.kind = kind && g.rop = rop && g.fmt = fmt && g.elems = elems

/-- Block k as rank r contributes it, or as its owner encoded it. -/
def heldBlock (segs : List CollSeg) (comm number : Nat) (gather : Bool) (src : Option Nat) (k : Nat) :
    Option (List Byte × Nat) :=
  segs.findSome? (fun g =>
    if g.of comm number && (g.gather == gather) && ((src.map (fun r => decide (g.src = r))).getD true) && decide (g.unit ≤ k)
    then g.blocks[k - g.unit]? else none)

/-- Combine two values of a reduction (R135). -/
def combine (rop : Nat) (a b : Num) : Except TrapKind Num :=
  match rop with
  | 0 => addR fW48 a b
  | 1 => .ok (a.max b)
  | _ => .ok (a.min b)

/-- The contributions to one element combined in rank order. -/
def combineRanks (rop : Nat) : List Num → Except TrapKind Num
  | [] => .ok Num.zero
  | x :: xs => xs.foldlM (combine rop) x

/-- The contributions to n elements, each element for itself. -/
def combineAll (rop n : Nat) (ranks : List (List Num)) : Except Nans (List Num) :=
  together ((columnsOf Num.zero n ranks).zipIdx.map (fun e => wholeAt e.2 (combineRanks rop e.1)))

/-- Encode a block of the result under DST's ROUND: the scale by R191, or Table 8-4 for E4M3; the draws of purpose 0x02 at
the element's index in the whole result (R371). -/
def encodeResult (s : State) (c : Ctx) (g : Granule) (d : Desc) (k : Nat) (xs : List Num) : Except Nans BlockOut :=
  let mode := fun (i : Nat) => if d.round = 2 then Rounding.stoch (drawOf s c g 0x02 (d.epb * k + i)) else roundMode d.round
  if d.fmt = .g8 ∨ (d.fmt = .e5m2 ∧ d.scaled) then flushBlock d mode xs
  else encodeBlock d mode (if d.scaled then tableScale d.fmt (maxMag xs) else scOne) [] d.epb xs

/-- The parts of a COLL in flight that its word and communicator give. -/
structure CollJob where
  p : Fin 16
  c : Coll
  k : Comm
  a : Desc
  d : Desc

def collJob (s : State) (p : Fin 16) (c : Coll) (k : Comm) : CollJob :=
  { p := p, c := c, k := k, a := descOf s p c.stream c.word (kSrc c.word), d := descOf s p c.stream c.word (kDst c.word) }

/-- Where the engine works for rank r: the I/O die of its port, with the STEP of the issue. -/
def CollJob.ctx (j : CollJob) (s : State) (r : Nat) : Ctx :=
  { portCtx s j.p j.c.stream (peerPort s j.p j.k r) with step := j.c.step }

/-- What a stop of the engine names: communicator, number and block. -/
def CollJob.at_ {α : Type} (j : CollJob) (k : Nat) (m : Op α) : Op α := Op.at 8 0xFF [j.c.comm, j.c.number, k, 0] m

/-- First block of rank r's chunk. -/
def CollJob.lo (j : CollJob) (r : Nat) : Nat := chunkLo j.c.elems j.k.size r / j.a.epb

/-- The rank whose chunk holds block k. -/
def CollJob.owner (j : CollJob) (k : Nat) : Nat := ((List.range j.k.size).find? (fun r => decide (k < j.lo (r + 1)))).getD 0

/-- The blocks of the own chunk. -/
def CollJob.own (j : CollJob) : List Nat :=
  (List.range (j.lo (j.k.rank + 1) - j.lo j.k.rank)).map (fun i => j.lo j.k.rank + i)

/-- The blocks that the own DST holds at the end (Table 14-10). -/
def CollJob.wanted (j : CollJob) : List Nat := if j.c.kind = 0 then j.own else List.range (j.lo j.k.size)

/-- The place in DST of block k of the whole. -/
def CollJob.dstBlock (j : CollJob) (k : Nat) : Nat := if j.c.kind = 0 then k - j.lo j.k.rank else k

/-- The half of the collective engine at rank r's port, whose buffers hold its segments, takes part: its wrapper is open, and
a disturbance that waits in its SRAM meets a granule (R14, R16, R319). -/
def CollJob.half (j : CollJob) (r : Nat) : Op Unit := do
  let s ← Op.get
  let h := portDie (peerPort s j.p j.k r)
  if wrapperClosed s (0x2C20 + h) then Op.stop (.mem 3 0 0 0xFFFF) else do
    let _ ← crossed s (crossLinks [halfKey h] 1 0) (List.replicate 32 0#8)
    pure ()

/-- The elements of a result that an infinity first stands in: some contribution made none (R127). -/
def freshResults (xs : List (List Num)) (v out : List Num) : List Nat :=
  ((columnsOf Num.zero v.length xs).zip (v.zip out)).zipIdx.filterMap (fun e =>
    if (e.1.2.1.isInf || e.1.2.2.isInf) && !e.1.1.any Num.isInf then some e.2 else none)

/-- Form block k of the own chunk, when every rank's contribution is there. -/
def formBlock (j : CollJob) (segs : List CollSeg) (k : Nat) : Op (Option (List Byte × Nat)) :=
  match (List.range j.k.size).mapM (fun r => heldBlock segs j.c.comm j.c.number false (some r) k) with
  | none => pure none
  | some bs => do
    Op.each (List.range j.k.size) j.half
    let xs ← Op.nanAt 0 (together (bs.map (fun b => blockValues j.a [] { bytes := b.1, scale := b.2 })))
    let v ← Op.nanAt 0 (combineAll j.c.rop j.a.epb xs)
    let s ← Op.get
    let o ← Op.nanAt 0 (encodeResult s (j.ctx s j.k.rank) j.c.word j.d k v)
    let out ← Op.nanAt 0 (blockValues j.d [] o.raw)
    if freshResults xs v out ≠ [] then
      Op.mod (fun s => noteInf s j.p j.c.stream j.c.word 8 0xFF [j.c.comm, j.c.number, k, 0])
    pure (some (o.raw.bytes, o.raw.scale))

/-- Block k of the result as it can be had now: of the own chunk by the reduction, of other chunks as received. -/
def gainBlock (j : CollJob) (segs : List CollSeg) (k : Nat) : Op (Option (List Byte × Nat)) :=
  if j.own.contains k && j.c.kind ≠ 1 then formBlock j segs k
  else match heldBlock segs j.c.comm j.c.number true none k with
    | none => pure none
    | some b => do
      j.half (j.owner k)
      pure (some b)

/-- The blocks of the result that can be had now, written to DST. -/
def gainBlocks (j : CollJob) (segs : List CollSeg) : Op (List (Nat × (List Byte × Nat))) := do
  let got ← Op.map (j.wanted.filter (fun k => !j.c.got.contains k)) (fun k => j.at_ k (do
    match ← gainBlock j segs k with
    | some b => do
      let s ← Op.get
      writeBlock (j.ctx s (j.owner k)) j.d (j.dstBlock k) b
      pure [(k, b)]
    | none => pure []))
  pure got.flatten

/-- Keep a COLL among the partition's. -/
def putColl (s : State) (p : Fin 16) (c : Coll) : State :=
  s.modPart p (fun x => { x with colls := x.colls.map (fun b => if b.seq = c.seq then c else b) })

/-- Let go of a COLL and its buffers. -/
def dropColl (s : State) (p : Fin 16) (c : Coll) : State :=
  s.modPart p (fun x => { x with colls := x.colls.filter (fun b => b.seq ≠ c.seq),
                                 segs := x.segs.filter (fun g => !g.of c.comm c.number) })

/-- Add segments to the partition's buffers. -/
def addSegs (s : State) (p : Fin 16) (gs : List CollSeg) : State := s.modPart p (fun x => { x with segs := x.segs ++ gs })

/-- A run of blocks as a segment. -/
def CollJob.seg (j : CollJob) (src unit : Nat) (gather : Bool) (bs : List (List Byte × Nat)) : CollSeg :=
  { comm := j.c.comm, number := j.c.number, src := src, gather := gather, kind := j.c.kind, rop := j.c.rop,
    fmt := fmtCode j.d.fmt, elems := j.c.elems, unit := unit, blocks := bs }

/-- Send the own encoded chunk to every other rank, once it is whole. -/
def sendOwn (j : CollJob) (c : Coll) (s : State) : State × Coll :=
  if c.kind ≠ 0 && !c.sent && j.own.all c.got.contains then
    let lo := j.lo j.k.rank
    let bs := j.own.filterMap (heldBlock (s.part j.p).segs c.comm c.number true (some j.k.rank))
    let d := if c.kind = 1 then j.a else j.d
    (sendPeers s j.p j.k (fun s e _ => sendChunk s e c d j.k.rank j.k.rank lo (if c.kind = 1 then 0 else lo) bs),
     { c with sent := true })
  else (s, c)

/-- Carry a COLL on: write what can be had, send the own chunk once it is whole, and tell whether DST is complete. -/
def advanceColl (s : State) (p : Fin 16) (c : Coll) (k : Comm) : State × List Trap × Bool :=
  let j := collJob s p c k
  match Op.exec (gainBlocks j (s.part p).segs) (freshRows s) with
  | (.error t, s) => (s, [t], false)
  | (.ok new, s) =>
    let own := new.filter (fun b => j.own.contains b.1 && decide (c.kind ≠ 1))
    let s := addSegs s p (own.map (fun b => j.seg k.rank b.1 true [b.2]))
    let (s, c) := sendOwn j { c with got := c.got ++ new.map (fun b => b.1) } s
    (putColl s p c, [], j.wanted.all c.got.contains)

/-- The blocks lo .. lo + n - 1 of SRC, read at rank r's port. -/
def CollJob.read (j : CollJob) (r lo n : Nat) : Op (List (List Byte × Nat)) := j.at_ 0 (do
  let s ← Op.get
  readRun (j.ctx s r) j.a lo n)

/-- Contributions and the own part of a COLL as it begins. -/
def startColl (j : CollJob) : Op Unit :=
  if j.c.kind = 1 then do
    let bs ← j.read j.k.rank 0 j.own.length
    Op.mod (fun s => addSegs s j.p [j.seg j.k.rank (j.lo j.k.rank) true bs])
  else do
    let parts ← Op.map (List.range j.k.size) (fun r => j.read r (j.lo r) (j.lo (r + 1) - j.lo r))
    Op.mod (fun s => addSegs s j.p [j.seg j.k.rank (j.lo j.k.rank) false (parts.getD j.k.rank [])])
    Op.mod (fun s => sendPeers s j.p j.k (fun s e r => sendChunk s e j.c j.a j.k.rank r (j.lo r) (j.lo r) (parts.getD r [])))

/-- A flushed row's blocks are handed over (R196). -/
def handBlocks (w : Work) (gd : Desc) (row : Nat) (bs : List RawBlock) : Op Unit :=
  Op.mod (fun s => s.modPart w.c.p (fun x => { x with handed := bs.zipIdx.foldl (fun m b =>
    Sparse.set ([], 0) m (valueAddr w.c gd b.2 (row, 0, 0)) (b.1.bytes, b.1.scale)) x.handed }))

/-- Run the CFLUSH that hands its output to a COLL (R196). -/
def runDirect (s : State) (p : Fin 16) (f : Flight) : State × List Trap :=
  let g := f.word
  let gd := descOf s p .B g (cGdesc g)
  onCoresOf (s.modPart p (fun x => { x with handed := [] })) p .B g (fun w =>
    flushCore w gd (descOf s p .B g (cBdesc g)) (descOf s p .B g (cNdesc g)) (handBlocks w gd))

/-- FMT of the operands of a COLL in flight. -/
def collFmtCode (s : State) (p : Fin 16) (c : Coll) : Nat := fmtCode (descOf s p c.stream c.word (kDst c.word)).fmt

/-- Segments that came before this COLL and disagree with it. -/
def badEarly (s : State) (p : Fin 16) (c : Coll) (k : Comm) : List CollSeg :=
  let fmt := collFmtCode s p c
  (s.part p).segs.filter (fun g => g.of c.comm c.number && !g.agrees c.kind c.rop fmt c.elems && g.src ≠ k.rank)

/-- They break their connections (R370). -/
def breakEarly (s : State) (p : Fin 16) (c : Coll) (k : Comm) : State :=
  (badEarly s p c k).foldl (fun s g => match peerEndpoint s p k g.src with
    | some e => breakLink s e reasonColl
    | none => s) s

/-- What later checks find after a COLL: its number on the communicator (R370), and no CFLUSH that waits for a pair. -/
def predictColl (s : State) (p : Fin 16) (t : StreamTag) (g : Granule) : State :=
  match commOf (s.part p) (kComm g) with
  | none => s
  | some k =>
    let c : Coll :=
      { comm := kComm g, number := k.count, kind := kKind g, rop := kRop g,
        elems := collElems (kKind g) (descOf s p t g (kSrc g)) (descOf s p t g (kDst g)), stream := t,
        seq := (s.part p).nextSeq - 1, step := (s.stream p t).step, word := g, sent := false, got := [] }
    s.modPart p (fun x => { x with comms := Sparse.set none x.comms (kComm g) (some { k with count := k.count + 1 }),
                                   colls := x.colls ++ [c],
                                   directWait := if t = .B then none else x.directWait })

/-- A COLL stands behind one that has not begun, or its CFLUSH behind a command on its chest tiles. -/
def collBlocked (s : State) (p : Fin 16) (t : StreamTag) (_g : Granule) (n : Nat) : Bool :=
  let q := s.stream p t
  opBehind q n 0x50 || (match flushOf q n with
    | some f => chestBehind q f.seq 0x12 (chestTiles f.word)
    | none => false)

/-- A COLL begins: its contributions go, and what has come of the others is used. -/
def beginColl (s : State) (p : Fin 16) (c : Coll) (k : Comm) : Effect :=
  let stop := fun (s : State) (ts : List Trap) => { state := dropColl s p c, traps := ts, wait := FlightWait.none : Effect }
  match badEarly s p c k with
  | b :: _ =>
    stop (breakEarly s p c k) [brokenConn s p (k.conns.getD b.src 0)]
  | [] =>
    match Op.exec (startColl (collJob s p c k)) (freshRows s) with
    | (.error e, s) => stop s [e]
    | (.ok _, s) =>
      match advanceColl (s.modPart p (fun x => { x with handed := [] })) p c k with
      | (s, [], true) => stop s []
      | (s, [], false) => { state := s, traps := [], wait := .coll }
      | (s, ts, _) => stop s ts

/-- COLL: its CFLUSH with DIRECT runs first, and where that stops, the COLL ends without completing (R196, R449). -/
def collRun (s : State) (p : Fin 16) (t : StreamTag) (_g : Granule) (n : Nat) : Effect :=
  match (s.part p).colls.find? (fun c => c.seq = n) with
  | none => Effect.done s
  | some c =>
    match commOf (s.part p) c.comm with
    | none => Effect.done s
    | some k =>
      match flushOf (s.stream p t) n with
      | none => beginColl s p c k
      | some f =>
        match runDirect s p f with
        | (s, []) => beginColl (setWait s p .B f.seq .none) p c k
        | (s, ts) =>
          if ts.any Trap.waits then { state := s, traps := ts, wait := .none }
          else { state := dropColl (trapFlight s p .B f ts) p c, traps := [], wait := .ended }

/-- COLLs in flight in a stream: the fifth waits (R372). -/
def collHold (s : State) (p : Fin 16) (t : StreamTag) (_g : Granule) : Bool :=
  decide (4 ≤ ((s.part p).colls.filter (fun c => c.stream = t)).length)

def collCmd : StreamCmd :=
  { matches_ := fun g => cOpcode g = 0x50, reads := fun g => [kSrc g], writes := fun g => [kDst g], check := collCheck,
    hold := collHold, atIssue := fun _ _ _ _ => false, predict := predictColl, blocked := collBlocked, run := collRun }

/-- A COLL in flight after new segments: it completes, stops, or goes on waiting. -/
def resumeColl (p : Fin 16) (s : State) (c : Coll) : State :=
  match commOf (s.part p) c.comm, flightOf (s.part p) c.stream c.seq with
  | some k, some f =>
    if f.wait = .coll then
      match advanceColl s p c k with
      | (s, [], true) => setWait (dropColl s p c) p c.stream c.seq .none
      | (s, [], false) => s
      | (s', ts, _) =>
        if ts.any Trap.waits then ts.foldl (noteWait p) s else trapFlight (dropColl s' p c) p c.stream f ts
    else s
  | _, _ => s

/-- A COLL_DATA frame as a segment (R371). -/
def segOf (k : Comm) (m : RxMsg) : CollSeg :=
  let f := Fmt.ofCode (leAt m.ext 3 1)
  let n := leAt m.ext 28 4
  { comm := leAt m.ext 0 1, number := leAt m.ext 4 4, src := leAt m.ext 12 2, gather := leAt m.ext 14 2 ≠ k.rank,
    kind := leAt m.ext 1 1, rop := leAt m.ext 2 1, fmt := leAt m.ext 3 1, elems := leAt m.ext 8 4, unit := leAt m.ext 24 4,
    blocks := unpackLoaves f (leAt m.ext 20 4 = 1) n n m.payload.flatten }

/-- COLL_DATA is placed in a buffer as it arrives, unless it disagrees with its COLL, or with the first frame that came
before it (R370, R372). -/
def placeCollData (s : State) (e : Endpoint) (m : RxMsg) : State × Nat :=
  let l := linkGet s e
  let p := l.owner
  let x := s.part p
  if !takesPeers x then (s, 6) else
  match commOf x (leAt m.ext 0 1) with
  | none => (s, 9)
  | some k =>
    let g := segOf k m
    if k.conns.getD g.src 0 ≠ l.conn ∨ k.size ≤ g.src ∨ g.src = k.rank then (s, 9) else
    match x.colls.find? (fun c => c.comm = g.comm && c.number = g.number) with
    | some c => if g.agrees c.kind c.rop (collFmtCode s p c) c.elems then (addSegs s p [g], 0) else (s, 9)
    | none =>
      if g.number < k.count then (s, 0)
      else if x.segs.any (fun b => b.of g.comm g.number && !b.agrees g.kind g.rop g.fmt g.elems) then (s, 9)
      else (addSegs s p [g], 0)

/-- COLL_DATA takes effect: its COLL goes on, or the frame is rejected and the connection breaks (R370). -/
def collDataEffect (s : State) (e : Endpoint) (m : RxMsg) : State :=
  let p := (linkGet s e).owner
  if m.st ≠ 0 then breakLink (sendReject s e m.psn m.st 0) e reasonColl
  else
    match (s.part p).colls.find? (fun c => c.comm = leAt m.ext 0 1 && c.number = leAt m.ext 4 4) with
    | some c => if goesOn (s.part p) then resumeColl p s c else s
    | none => s

/-! ### Remote signals (R98, R99) -/

/-- The check of a remote signal where it arrives: a status of Table 14-7. -/
def signalStatus (s : State) (part rso : Nat) : Nat :=
  let x := s.part (Fin.ofNat 16 part)
  if 16 ≤ part ∨ !takesPeers x then 6 else if soInRun x rso then 0 else 7

/-- Apply a remote signal: ROP as Table 3-4 gives. -/
def applyRemote (s : State) (rso rop amount : Nat) : State :=
  match rop with
  | 1 => applySignal s rso .add (BitVec.ofNat 32 amount)
  | 2 => applySignal s rso .set (BitVec.ofNat 32 amount)
  | _ => s

/-- SIGNAL of a connection takes effect: applied, or rejected; its credit returns either way (R97, R98). -/
def signalEffect (s : State) (e : Endpoint) (m : RxMsg) : State :=
  let l := linkGet s e
  let part := leAt m.ext 3 1
  let st := if part = l.part then signalStatus s part (leAt m.ext 0 2) else 6
  let s := linkSet s e { l with gotSig := (l.gotSig + 1) % 65536 }
  if st = 0 then applyRemote s (leAt m.ext 0 2) (leAt m.ext 2 1) (leAt m.ext 4 4) else sendReject s e m.psn st (leAt m.ext 0 2)

/-- REJECT codes of SQ_STREAM_WAIT_FAULT (Table 4-8); the table has none for the other statuses, so those are free. -/
def rejectCode (s : State) (st : Nat) : Nat :=
  if st = 6 then 1 else if st = 7 then 2 else (Config.freeWord s.freeCount).toNat % 16

/-- A rejected signal or direct SEND faults its stream (R99, R373). -/
def rejectWaiter (s : State) (e : Endpoint) (w : LinkWait) (st obj : Nat) : State :=
  let l := linkGet s e
  let p := l.owner
  match flightOf (s.part p) w.stream w.seq with
  | some f =>
    let code := rejectCode s st
    let s := { s with freeCount := s.freeCount + 1 }
    let s := s.modStream p w.stream (fun q =>
      { q with state := .faulted, waitFault := at32 28 2 ||| at32 24 code ||| at32 0 (obj % 4096) })
    let r := { cmdFault (s.stream p w.stream) w.stream f.word f.pc with
                 cause := 3, kind := 4, unit := 0xC, tile := [obj, 0, 0, 0], chan := 0x100 + l.port }
    freeze s p r
  | none => s

/-- REJECT of a connection takes effect. -/
def rejectEffect (s : State) (e : Endpoint) (m : RxMsg) : State :=
  let st := leAt m.ext 0 4
  let psn := leAt m.ext 4 4
  let obj := leAt m.ext 8 4
  let l := linkGet s e
  match l.sigs.find? (fun w => w.psn = psn) with
  | some w => rejectWaiter (linkSet s e { l with sigs := l.sigs.erase w }) e w st obj
  | none =>
    match l.sends.find? (fun w => w.matched && directTag w.tag && psnLe psn w.psn) with
    | some w => rejectWaiter (linkSet s e { l with sends := l.sends.erase w }) e w st obj
    | none =>
      if l.sends.any (fun w => !w.matched && w.psn = psn) then breakLink s e reasonSend
      else breakLink s e reasonColl

end Sys2Proof.Machine
end

