-- ==== Sys2Proof/Machine/Engines.lean ====
section
/-! DEFINITION. Commands that were issued and could not begin or go on, offered again when what they wait for has changed
(R76, R145, R157, R336, R339, R449): after a command completes or ends, after a crust BMAT, a COLL or a page exchange, and
after a frame of a connection. -/

namespace Sys2Proof.Machine

/-- The row of a command word; one of the vector bench carries its function. -/
def cmdOf (g : Granule) : StreamCmd :=
  match cOpcode g with
  | 0x01 => markCmd
  | 0x02 => waitCmd
  | 0x03 => sigCmd
  | 0x04 => fenceCmd
  | 0x05 => stepCmd
  | 0x10 => loadCmd
  | 0x11 => xposeCmd
  | 0x12 => cflushCmd
  | 0x20 => tloadCmd
  | 0x21 => fmatCmd
  | 0x22 => bdxCmd
  | 0x23 => bdwCmd
  | 0x24 => bmatCmd
  | 0x30 => if vFunc g = 0x3F then tblloadCmd else vopCmd (vFunc g)
  | 0x31 => storeCmd
  | 0x40 => updCmd
  | 0x41 => prefCmd
  | 0x42 => migrCmd
  | 0x43 => pubCmd
  | 0x50 => collCmd
  | 0x51 => sendCmd
  | 0x52 => recvCmd
  | _ => endCmd

/-- A flight that has not begun is offered again: it begins, stops, or goes on waiting. -/
def offer (p : Fin 16) (t : StreamTag) (s : State) (f : Flight) : State :=
  let e := (cmdOf f.word).begin_ s p t f.word f.seq
  match e.traps with
  | [] => e.state.modStream p t (fun q => { q with flight := q.flight.map (fun b =>
      if b.seq = f.seq then { b with wait := e.wait, wrote := b.wrote ++ wroteOf e } else b) })
  | es => trapFlight e.state p t f es

/-- Flight n of a stream after a change: one that has ended leaves, one that has not begun is offered again. -/
def settleFlight (p : Fin 16) (t : StreamTag) (s : State) (n : Nat) : State :=
  match flightOf (s.part p) t n with
  | some f =>
    match f.wait with
    | .ended => dropFlight s p t f
    | .behind => offer p t s f
    | _ => s
  | none => s

/-- What the flights of a stream wait for. -/
def streamWaits (q : Stream) : List (Nat × FlightWait) := q.flight.map (fun f => (f.seq, f.wait))

/-- Settle a stream in issue order, again while something changes (with fuel for the passes). -/
def settleStream (p : Fin 16) (t : StreamTag) : Nat → State → State
  | 0, s => s
  | fuel + 1, s =>
    let next := ((s.stream p t).flight.map Flight.seq).foldl (settleFlight p t) s
    if streamWaits (next.stream p t) = streamWaits (s.stream p t) then next else settleStream p t fuel next

/-- COLLs whose command has ended give up their buffers (R372). -/
def sweepColls (s : State) (p : Fin 16) : State :=
  ((s.part p).colls.filter (fun c => (flightOf (s.part p) c.stream c.seq).isNone)).foldl (fun s c => dropColl s p c) s

/-- A core lets its draining bank go once every FMAT before the swap has completed or ended (R146). -/
def releaseBanks (s : State) (p : Fin 16) : State :=
  let fmats := ((s.part p).sF.flight.filter (fun f => cOpcode f.word = 0x21 && !f.done)).map Flight.seq
  (partCores (s.part p)).foldl (fun s nn => s.modCore (Fin.ofNat 64 nn) (fun x => match x.draining with
    | some (n, _) => if fmats.any (fun k => decide (k < n)) then x else { x with draining := none }
    | none => x)) s

/-- Forget what a connection holds for a flight that ended. -/
def dropWaiter (s : State) (p : Fin 16) (t : StreamTag) (n : Nat) : State :=
  (s.part p).connMap.foldl (fun s i => linkMod s (.conn (Fin.ofNat 2048 i)) (fun l =>
    let keep := fun (ws : List LinkWait) => ws.filter (fun w => !(w.stream = t && w.seq = n))
    { l with sends := keep l.sends, recvs := keep l.recvs })) s

/-- A flight waits on another party, or for a partner that will not issue any more (R42): a matched SEND, a RECV, a COLL, a
CFLUSH with DIRECT; and, DESIGN CHOICE (assumption 79), an FMAT with CRUST whose BMAT has not issued. -/
def waitsOnOther (x : Part) (f : Flight) : Bool :=
  match f.wait with
  | .sendCts => true
  | .recvData => true
  | .coll => true
  | .direct => x.directWait = some f.seq
  | .crust => x.crustWait = some f.seq
  | _ => false

/-- Such a flight ends without completing (R42). -/
def endWait (p : Fin 16) (t : StreamTag) (s : State) (n : Nat) : State :=
  match flightOf (s.part p) t n with
  | some f =>
    if waitsOnOther (s.part p) f then
      let s := s.modPart p (fun x => { x with
        directWait := if x.directWait = some n then none else x.directWait,
        crustWait := if x.crustWait = some n then none else x.crustWait })
      dropFlight (dropWaiter s p t n) p t f
    else s
  | none => s

/-- In a partition that a HALT stops, every flight that waits on another party ends, then or when it reaches that wait. -/
def endWaits (s : State) (p : Fin 16) : State :=
  if (s.part p).halted then
    [StreamTag.F, .B, .U].foldl (fun s t => ((s.stream p t).flight.map Flight.seq).foldl (endWait p t) s) s
  else s

/-- One pass over everything of a partition that waits. -/
def settleOnce (p : Fin 16) (s : State) : State :=
  let s := [StreamTag.F, .B, .U].foldl (fun s t => settleStream p t ((s.stream p t).flight.length + 1) s) s
  endWaits ((s.part p).colls.foldl (resumeColl p) s) p

/-- Everything of a partition that waits is offered again; after a HALT twice, for what stood behind a flight that ended. -/
def settle (p : Fin 16) (s : State) : State :=
  if goesOn (s.part p) then
    let s := settleOnce p s
    let s := if (s.part p).halted then settleOnce p s else s
    releaseBanks (sweepColls s p) p
  else s

/-- HALT takes effect: nothing further issues, prefetch entries not begun are discarded, and the commands that wait on another
party end (R42, Table 13-9). -/
def haltPart (s : State) (p : Fin 16) : State :=
  settle p (dropPrefetches (s.modPart p (fun x => { x with halted := true, stopTarget := none })) p)

/-- A flight or a COLL of the partition waits. -/
def anyWaits (x : Part) : Bool :=
  !x.colls.isEmpty || [x.sF, x.sB, x.sU].any (fun q => q.flight.any (fun f => f.wait = .behind))

/-- Everything that waits is offered again, in every partition. -/
def settleAll (s : State) : State :=
  ((List.finRange 16).filter (fun p => anyWaits (s.part p))).foldl (fun s p => settle p s) s

/-- BMAT. -/
def execBmat (p : Fin 16) (t : StreamTag) (s : State) : Host.Outcome State Fault Refusal :=
  .next (settle p (issue bmatCmd p t s))

/-- COLL. -/
def execColl (p : Fin 16) (t : StreamTag) (s : State) : Host.Outcome State Fault Refusal :=
  .next (settle p (issue collCmd p t s))

/-- COMMAND_COMPLETE: the operand is a place in the stream's flights; one that cannot complete yet stays (R57). -/
def execCommandComplete (p : Fin 16) (t : StreamTag) (k : Nat) (s : State) : Host.Outcome State Fault Refusal :=
  match (s.stream p t).flight[k]? with
  | some f =>
    if canComplete (s.part p) f then .next (settle p (finishUpd (installTable s p f) p t f)) else .next s
  | none => .next s

/-- FRAME_ZEROED: a frame is free again, and a write that waited for one goes on (R339). -/
def execFrameZeroed (p : Fin 16) (index : Nat) (s : State) : Host.Outcome State Fault Refusal :=
  .next (settle p (frameZeroed p index s))

end Sys2Proof.Machine
end

