-- ==== Sys2Proof/Machine/Verbs.lean ====
section
/-! DEFINITION. The job life cycle (02_jobs_partitions): the job verbs with their records, intake queues and effects, and the
steps by which ADMIT, STOP and RELEASE end; CONN_SET and COMM_SET (R361, R369). -/

namespace Sys2Proof.Machine

/-! ### Records (Tables 14-8, 14-9) -/

/-- Bytes lo .. lo + n - 1 are zero. -/
def zeroAt (bs : List Byte) (lo n : Nat) : Bool := leAt bs lo n = 0

/-- Layer entry i of an ADMIT record. -/
def layerAt (bs : List Byte) (i : Nat) : LayerEntry :=
  let o := 80 + 16 * i
  { tokens := leAt bs o 4, k := leAt bs (o + 4) 4, startA8 := leAt bs (o + 8) 1 = 1, ceiling := leAt bs (o + 9) 1,
    coexist := leAt bs (o + 10) 2 }

/-- A layer entry lies in its ranges (R43). -/
def layerFits (bs : List Byte) (i : Nat) : Bool :=
  let o := 80 + 16 * i
  let e := layerAt bs i
  decide (leAt bs (o + 8) 1 ≤ 1) && decide (e.ceiling ≤ 3) && decide (startRung e ≤ e.ceiling) && decide (e.tokens ≠ 0) &&
  decide (e.k ≠ 0) && decide (e.coexist ≠ 0) && zeroAt bs (o + 12) 4

/-- The ADMIT record; none where a field breaks its range (R43). `mask` is what hides the credential (R396). -/
def parseAdmit (bs mask : List Byte) : Option AdmitRecord :=
  let n := leAt bs 28 2
  let r : AdmitRecord :=
    { part := leAt bs 0 1, shape := leAt bs 1 1, origin := leAt bs 2 1, u := leAt bs 4 4, lT := leAt bs 8 4,
      lR := leAt bs 12 4, soBase := leAt bs 16 1, soCount := leAt bs 17 1, slotBase := leAt bs 18 1,
      slotCount := leAt bs 19 1, desc := leAt bs 20 4, groups := leAt bs 24 2 + 1, conns := leAt bs 26 1 + 1,
      credential := xorBytes (slice bs 32 48) mask, layers := (List.range n).map (layerAt bs) }
  if r.part ≤ 15 ∧ r.shape ≤ 4 ∧ r.origin ≤ 63 ∧ r.soBase + r.soCount ≤ 63 ∧ r.slotCount ≤ 15 ∧ r.slotBase + r.slotCount ≤ 63 ∧
      1 ≤ r.desc ∧ r.desc ≤ 65536 ∧ r.groups ≤ 4096 ∧ 1 ≤ n ∧ n ≤ 1024 ∧ 80 + 16 * n ≤ bs.length ∧
      (List.range n).all (layerFits bs) ∧ zeroAt bs 3 1 ∧ zeroAt bs 27 1 ∧ zeroAt bs 30 2 ∧
      zeroAt bs (80 + 16 * n) (bs.length - (80 + 16 * n)) then some r
  else none

/-- The LOAD record; none where it breaks Table 14-9. -/
def parseLoad (bs : List Byte) : Option LoadRecord :=
  let mode := leAt bs 16 4
  let r : LoadRecord :=
    { part := leAt bs 0 1, seed := leAt bs 8 8, skip := mode.testBit 0, tierMode := if mode.testBit 1 then 1 else 0,
      wdRelaxed := mode.testBit 2, fEntry := leAt bs 24 6, bEntry := leAt bs 32 6, uEntry := leAt bs 40 6 }
  if r.part ≤ 15 ∧ 46 ≤ bs.length ∧ zeroAt bs 1 7 ∧ mode < 8 ∧ zeroAt bs 20 4 ∧ zeroAt bs 30 2 ∧ zeroAt bs 38 2 ∧
      zeroAt bs 46 (bs.length - 46) ∧ r.fEntry % 32 = 0 ∧ r.bEntry % 32 = 0 ∧ r.uEntry % 32 = 0 then some r
  else none

/-! ### What ADMIT checks and reserves (R35, R43, R47, Table 2-6) -/

/-- Pages of 2 MiB that hold n bytes. -/
def pagesOf (n : Nat) : Nat := (n + frameBytes - 1) / frameBytes

/-- Twice the value bytes of an element at a rung (Table 10-4). -/
def rungHalfBytes (r : Nat) : Nat := if r = 0 then 1 else if r = 3 then 4 else 2

/-- Twice the saved bytes of a layer at its ceiling, over its coexisting micro-batches (R47). -/
def savedHalves (e : LayerEntry) : Nat :=
  e.tokens * (e.k * rungHalfBytes e.ceiling + 2 * (2 * ((e.k + 31) / 32) + 128)) * e.coexist

/-- The descriptor table and the saved-activation pool in pages (R47). -/
def poolPages (r : AdmitRecord) : Nat := pagesOf (64 * r.desc) + pagesOf (((r.layers.map savedHalves).sum + 1) / 2)

/-- The lowest n free frames from id `lo` on, among `fuel` frames. -/
def freeFrames (m : Sparse Nat) : Nat → Nat → Nat → List Nat
  | _, _, 0 => []
  | 0, _, _ => []
  | fuel + 1, lo, n + 1 =>
    if Sparse.get 0 m lo = 0 then lo :: freeFrames m fuel (lo + 1) n else freeFrames m fuel (lo + 1) (n + 1)

/-- Frames that a partition can be given on the upper shelf (R324). -/
def upperFrames : Nat := 130048

/-- Frames behind CXL port x (Table 13-18). -/
def portFrames (s : State) (x : Nat) : Nat := (rawReg s (0xA0000104 + 0x40 * x)).toNat

/-- n free lower frames, port by port. -/
def freeLower (s : State) (n : Nat) : List Nat :=
  ((List.range 4).foldl (fun (acc : List Nat) x =>
    acc ++ freeFrames s.frames (portFrames s x) (lowerBase + x * 2 ^ 24) (n - acc.length)) [])

/-- Module connection indices that no partition holds. -/
def freeConns (s : State) (n : Nat) : List Nat :=
  let held := (List.range 16).flatMap (fun p => (s.part (Fin.ofNat 16 p)).connMap)
  ((List.range 2048).filter (fun c => !held.contains c)).take n

/-- The first cause of Table 2-6 that applies, as a status. -/
def admitCode (s : State) (r : AdmitRecord) : Option Nat :=
  let cores := (rectCores r.origin 0 0 (shapeW r.shape) (shapeH r.shape)).map (fun c => c.1)
  if r.origin % 8 % shapeW r.shape ≠ 0 ∨ r.origin / 8 % shapeH r.shape ≠ 0 then some 0x10
  else if cores.any (fun nn => (s.core (Fin.ofNat 64 nn)).retired || decide (corePart s nn < 16)) then some 0x11
  else if (List.range (r.soCount + 1)).any (fun i => (Sparse.get SoBlock.free s.soBlk (r.soBase + i)).alloc) then some 0x12
  else if (List.range (r.slotCount + 1)).any (fun i => decide (Sparse.get 0 s.slotBlk (r.slotBase + i) ≠ 0)) then some 0x13
  else if (freeConns s r.conns).length < r.conns then some 0x14
  else if r.u < poolPages r then some 0x15
  else if (freeFrames s.frames upperFrames 0 r.u).length < r.u ∨ (freeLower s (r.lT + r.lR)).length < r.lT + r.lR then
    some 0x16
  else none

/-- Give frames to a partition. -/
def holdFrames (s : State) (p : Fin 16) (ids : List Nat) : State :=
  { s with frames := ids.foldl (fun m f => Sparse.set 0 m f (1 + p.val)) s.frames }

/-- Reserve what an ADMIT record names: the partition's number, its runs, frames and connections; zeroing begins (R35, R48).
The credential and the layers are in force only once the partition is ADMITTED (R39, R253). -/
def reserve (s : State) (p : Fin 16) (r : AdmitRecord) : State :=
  let upper := freeFrames s.frames upperFrames 0 r.u
  let lower := freeLower s (r.lT + r.lR)
  let conns := freeConns s r.conns
  let s := holdFrames s p (upper ++ lower)
  let s := { s with
    soBlk := (List.range (r.soCount + 1)).foldl (fun m i => Sparse.set SoBlock.free m (r.soBase + i) ⟨true, false, p.val⟩) s.soBlk,
    slotBlk := (List.range (r.slotCount + 1)).foldl (fun m i => Sparse.set 0 m (r.slotBase + i) (1 + p.val)) s.slotBlk }
  let mem := { PartMem.none with u := r.u, lT := r.lT, lR := r.lR, pages := upper ++ lower.take r.lT,
                                 poolZeroing := lower.drop r.lT }
  s.modPart p (fun x => { x with
    admitting := true, shape := r.shape, origin := r.origin, soBase := r.soBase, soCount := r.soCount,
    slotBase := r.slotBase, slotCount := r.slotCount, desc := r.desc, groups := r.groups, conns := r.conns,
    connMap := conns, mem := mem })

/-- The registers that ADMIT and RELEASE return to reset: QS (R252), the trace (R478), and the always-on set (R481). -/
def clearPartRegs (s : State) (p : Fin 16) : State :=
  resetRange (resetRange (resetRange s (qsReg p.val 0) 0x1000) (sqReg p.val 0x310) 0x20) (0xF0004000 + 0x100 * p.val) 0x100

/-- The slots of a partition's run. -/
def partSlots (x : Part) : List Nat := (List.range ((x.slotCount + 1) * 256)).map (fun i => x.slotBase * 256 + i)

/-- Slots of a run back at their reset values. -/
def clearScaleSlots (s : State) (x : Part) : State :=
  { s with slots := Sparse.clearRange s.slots (x.slotBase * 256) ((x.slotCount + 1) * 256) }

/-- ADMIT is done: every tiered page is zero, slots and objects are reset, the credential is in force (R48, Table 2-5). -/
def finishAdmit (s : State) (p : Fin 16) : State :=
  let s := (s.part p).mem.pages.foldl zeroFrame s
  let s := clearPartRegs (clearScaleSlots (resetObjects s p false) (s.part p)) p
  let x := s.part p
  let x := match x.active.map VerbReq.verb with
    | some (.admission r) => { x with credential := r.credential, layerTable := r.layers }
    | _ => x
  let x := startLayers x
  let s := s.setPart p { x with admitting := false, state := .admitted, job := Job.none, comms := [], active := none }
  match x.active with
  | some v => answer s v.reply 0
  | none => s

/-- The partition whose ADMIT is being carried out. -/
def admittingPart (s : State) : Option (Fin 16) := (List.finRange 16).find? (fun p => (s.part p).admitting)

/-- ADMIT_DONE: zeroing ends (R48). -/
def execAdmitDone (s : State) : Host.Outcome State Fault Refusal :=
  .next (match admittingPart s with
    | some p => finishAdmit s p
    | none => s)

/-! ### LOAD (Table 2-5) -/

/-- LOAD acts on a slot (R252). -/
def loadSlot (x : Slot) : Slot :=
  { x with histA := [], histB := [], sat := 0, fullsat := 0, under := 0, constb := 0, lastSat := 0, lastFullsat := 0,
           lastUnder := 0, lastConstb := 0, pinHeld := 0, statA := 0, statB := 0, listn := 0, list := [], committed := x.init }

/-- The allocation flags that LOAD sets: PIN_UPPER where the descriptor table or the group table lies (R333). -/
def loadFlags (x : Part) : Sparse Nat :=
  let groups := (64 * x.desc + 4095) / 4096 * 4096
  let n := pagesOf (groups + 128 * x.groups)
  Sparse.setRun 0 [] 0 (List.replicate (min n x.mem.pages.length) 1)

/-- The counts of communicators start over (R370). -/
def loadComms (x : Part) : Sparse (Option Comm) :=
  x.comms.map (fun e => (e.1, e.2.map (fun c => { c with count := 0 })))

/-- A stream bound to its entry. -/
def boundStream (pc : Nat) : Stream := { Stream.idle with pc := pc }

/-- The seed that a LOAD binds (R387). -/
def loadSeed (s : State) (x : Part) (tenant : Bool) (seed : Nat) : Nat :=
  if tenant && ownerOnly s then x.job.seed else seed

/-- LOAD takes effect: seed, modes and entries are bound; sequencers, objects and step counters reset; memory stays. -/
def loadPart (s : State) (p : Fin 16) (tenant : Bool) (r : LoadRecord) : State :=
  let s := dropLinkWaits (resetObjects (clearTrace (resetCounters (clearEngines s p) p) p) p true) p
  let x := s.part p
  let s := { s with slots := (partSlots x).foldl (fun m n => Sparse.modify Slot.reset m n loadSlot) s.slots }
  let s := resetRange (resetRange s (0x98010000 + 4 * p.val) 4) (qsReg p.val 0xC) 4
  let counts := [0x18, 0x20, 0x28].foldl (fun m o => Sparse.set 0 m (0xA0001000 + 0x40 * p.val + o) 0) s.counts
  let s := { s with counts := Sparse.set 0 counts (0xF0005000 + 8 * p.val) 0 }
  let x := startLayers (idleStreams x)
  s.setPart p { x with
    state := .loaded, faultCause := 0, record := FaultRec.none, tables := [],
    job := { seed := loadSeed s x tenant r.seed, skip := r.skip, wdRelaxed := r.wdRelaxed, fEntry := r.fEntry,
             bEntry := r.bEntry, uEntry := r.uEntry, loaded := true },
    sF := boundStream r.fEntry, sB := boundStream r.bEntry, sU := boundStream r.uEntry, comms := loadComms x,
    mem := { x.mem with pin := r.tierMode = 1, flags := loadFlags x, access := [] } }

/-! ### START (R41) -/

/-- A stream that starts or resumes: its descriptors are read anew (R73). -/
def startStream (q : Stream) : Stream :=
  match q.state with
  | .done => q
  | _ => { q with state := .running, descCache := [] }

/-- The partition runs: all three sequencers start together, and START is answered. -/
def beginRun (s : State) (p : Fin 16) : State :=
  let x := s.part p
  let s := s.setPart p { x with state := .running, starting := false, halted := false, resumable := false, stopTarget := none,
                                sF := startStream x.sF, sB := startStream x.sB, sU := startStream x.sU, active := none }
  let s := [StreamTag.F, .B, .U].foldl (fun s t => arrive s p t) s
  match x.active with
  | some v => answer s v.reply 0
  | none => s

/-- Every core of the partition is on. -/
def coresOn (s : State) (x : Part) : Bool := (partCores x).all (domOn s)

/-- START takes effect: the cores wake through the governor; the run begins when all are on. -/
def startPart (s : State) (p : Fin 16) : State :=
  if coresOn s (s.part p) then beginRun s p
  else demandAll (s.modPart p (fun x => { x with starting := true })) (domBase :: partCores (s.part p))

/-- A START that waited for its cores begins its run (after a ramp). -/
def resumeStart (s : State) (p : Fin 16) : State :=
  if (s.part p).starting && coresOn s (s.part p) then beginRun s p else s

/-! ### STOP and RELEASE (R41, R42, R49, R82) -/

/-- STOP BOUNDARY takes effect: the target lies one above the highest step counter (R82). -/
def stopAtBoundary (s : State) (p : Fin 16) : State :=
  s.modPart p (fun x =>
    { x with state := .stopping, stopMode := .boundary,
             stopTarget := some (max x.sF.step (max x.sB.step x.sU.step) + 1) })

/-- A stream that stops. -/
def stoppedStream (q : Stream) : Stream :=
  match q.state with
  | .running => { q with state := .stopped }
  | _ => q

/-- A stream neither issues nor will: at the boundary, or at END. -/
def atRest (q : Stream) : Bool := q.state = .stopped || q.state = .done

/-- The streams have stopped: at their boundary, or with nothing in flight after a HALT. -/
def streamsStopped (x : Part) : Bool :=
  decide (partInflight x = 0) && !x.draining && (x.halted || (atRest x.sF && atRest x.sB && atRest x.sU))

/-- STOP_DONE: the partition reads STOPPED and the STOP is answered (R41). -/
def execStopDone (p : Fin 16) (s : State) : Host.Outcome State Fault Refusal :=
  let x := s.part p
  if x.state = .stopping ∧ streamsStopped x then
    .next (answerStop (s.setPart p { x with
      state := .stopped, resumable := !x.halted, stopTarget := none,
      sF := stoppedStream x.sF, sB := stoppedStream x.sB, sU := stoppedStream x.sU }) p)
  else .next s

/-- Sessions keyed from the partition's credential close with REVOKED (R39): the model sends a REJECT of that status, then
CLOSE. -/
def revokeSessions (s : State) (p : Fin 16) : State :=
  (List.finRange 64).foldl (fun s n =>
    let e := Endpoint.sess n
    let l := linkGet s e
    if l.state ≠ .free && decide (l.level = .tenant p) then
      closeLink (sendFrame (sendReject s e l.psnRx 5 0) e 0x04 (flFirst + flLast) none []) e
    else s) s

/-- The partition's connections break with REVOKED (R363, Table 14-11). -/
def revokeConns (s : State) (p : Fin 16) : State :=
  (s.part p).connMap.foldl (fun s i => breakLink s (.conn (Fin.ofNat 2048 i)) reasonRevoked) s

/-- Mark the partition's sync-object blocks as held by the scrub (Table 4-7). -/
def scrubBlocks (s : State) (x : Part) : State :=
  { s with soBlk := (List.range (x.soCount + 1)).foldl (fun m i =>
      Sparse.modify SoBlock.free m (x.soBase + i) (fun b => { b with scrub := true })) s.soBlk }

/-- RELEASE takes effect: a HALT where streams run, sessions and connections revoked, then the scrub (R39, R41, R49). -/
def releasePart (s : State) (p : Fin 16) : State :=
  let runs := (s.part p).state = .running || (s.part p).state = .stopping
  let s := if runs then haltPart s p else dropPrefetches (s.modPart p idleStreams) p
  let s := answerStop (revokeSessions s p) p
  let s := s.modPart p (fun x => { x with state := .scrubbing, draining := false, credential := [], record := FaultRec.none,
                                          faultCause := 0 })
  scrubBlocks (settle p (resetRange (revokeConns s p) (0x98010000 + 4 * p.val) 4)) (s.part p)

/-- Every frame a partition holds. -/
def heldFrames (m : PartMem) : List Nat :=
  m.pages ++ m.poolFree ++ m.poolZeroing ++ m.regions.flatMap (fun e => e.2.frames.map (fun f => f.2 - 1))

/-- Give a frame back; a retired one stays retired. -/
def giveFrame (s : State) (id : Nat) : State :=
  let s := zeroFrame s id
  if Sparse.get 0 s.frames id = 99 then s else { s with frames := Sparse.set 0 s.frames id 0 }

/-- The core store and the counters of a released core are cleared (R49). -/
def scrubCore (s : State) (nn : Nat) : State :=
  let s := (clearCoreRegs s nn).modCore (Fin.ofNat 64 nn) clearCore
  let s := resetRange (resetRange s (coreReg 8 nn 0x1000) 0x200) (0x68000000 + 0x100 * nn) 0x100
  { s with store := Sparse.clearRange s.store (nn * storeBytes) storeBytes,
           storeErrs := Sparse.clearRange s.storeErrs (nn * storeBytes / 32) (storeBytes / 32) }

/-- The scrub has ended: everything that the partition held is clear and free, and RELEASE is answered (R49). Its connections
stay broken with REVOKED until a CONN_SET (R98, assumption 77). -/
def finishScrub (s : State) (p : Fin 16) : State :=
  let x := s.part p
  let s := (heldFrames x.mem).foldl giveFrame s
  let s := (partCores x).foldl scrubCore s
  let s := clearPartRegs (clearScaleSlots (resetObjects (clearTrace s p) p false) x) p
  let s := { s with
    soBlk := (List.range (x.soCount + 1)).foldl (fun m i => Sparse.set SoBlock.free m (x.soBase + i) SoBlock.free) s.soBlk,
    slotBlk := (List.range (x.slotCount + 1)).foldl (fun m i => Sparse.set 0 m (x.slotBase + i) 0) s.slotBlk }
  let s := s.setPart p { Part.free with queue := x.queue }
  match x.active with
  | some v => answer s v.reply 0
  | none => s

/-- SCRUB_DONE: not while commands of the HALT, prefetch copies or page exchanges remain (Table 13-9), nor in thermal hold
(R443). -/
def scrubDone (p : Fin 16) (s : State) : State :=
  let x := s.part p
  if x.state = .scrubbing ∧ partInflight x = 0 ∧ x.mem.prefQ = [] ∧ x.mem.exch = [] ∧ thermalHold s = false then finishScrub s p else s

/-! ### Intake (R41, R44) -/

/-- The partition that an ADMIT names. -/
def JobVerb.admits : JobVerb → Option Nat
  | .admission r => some r.part
  | .malformed true part => some part
  | _ => none

/-- A verb of the partition is being carried out, or an ADMIT of it waits at the module. -/
def verbBusy (s : State) (p : Fin 16) : Bool :=
  let x := s.part p
  x.active.isSome || decide (x.stopWaiting ≠ []) ||
  s.admits.any (fun v => v.verb.admits = some p.val)

/-- LOAD and RELEASE wait for a capture of the partition to end (Table 18-7). -/
def dumpHolds (s : State) (p : Fin 16) (v : JobVerb) : Bool :=
  decide (s.dump.busy = some p) && (match v with
    | .load _ => true
    | .release => true
    | _ => false)

/-- LOAD is accepted in the state (Table 2-5). -/
def loadAllowed (st : PartState) : Bool :=
  st = .admitted || st = .loaded || st = .stopped || st = .complete || st = .faulted

/-- The verb is being carried out. -/
def carry (s : State) (p : Fin 16) (v : VerbReq) : State := s.modPart p (fun x => { x with active := some v })

/-- A verb takes effect, or is answered BAD_STATE and the like. A LOAD's sender counts under the leaven policy. DESIGN CHOICE
(assumption 80): a record that breaks its table is answered BAD_RECORD also in a state that refuses the verb. -/
def verbEffect (s : State) (p : Fin 16) (v : VerbReq) : State :=
  let x := s.part p
  let bad := answer s v.reply 4
  match v.verb with
  | .admission r =>
    if x.state ≠ .free ∨ thermalHold s then bad
    else match admitCode s r with
      | some code => answer s v.reply code
      | none => carry (reserve s p r) p v
  | .load r =>
    if !loadAllowed x.state || thermalHold s then bad
    else if v.tenant && ownerOnly s && decide (r.seed ≠ 0) then answer s v.reply 1
    else answer (loadPart s p v.tenant r) v.reply 0
  | .malformed _ _ => answer s v.reply 9
  | .start =>
    if !(x.state = .loaded || (x.state = .stopped && x.resumable)) || thermalHold s then bad
    else startPart (carry s p v) p
  | .stop false =>
    if x.state ≠ .running then bad
    else stopAtBoundary (s.modPart p (fun x => { x with stopWaiting := x.stopWaiting ++ [v.reply] })) p
  | .stop true =>
    if x.state ≠ .running ∧ x.state ≠ .stopping then bad
    else
      haltPart (s.modPart p (fun x => { x with state := .stopping, stopMode := .halt,
                                               stopWaiting := x.stopWaiting ++ [v.reply] })) p
  | .release =>
    if x.state = .free ∨ x.state = .scrubbing then bad else releasePart (carry s p v) p

/-- An ADMIT at the module: one at a time, with a queue of 16 (R44). -/
def admitIntake (s : State) (p : Fin 16) (v : VerbReq) : State :=
  if (admittingPart s).isSome || decide (s.admits ≠ []) then
    if 16 ≤ s.admits.length then answer s v.reply 11 else { s with admits := s.admits ++ [v] }
  else verbEffect s p v

/-- A verb waits in its partition's queue of 8 (R44). -/
def enqueueVerb (s : State) (p : Fin 16) (v : VerbReq) : State :=
  if 8 ≤ (s.part p).queue.length then answer s v.reply 11
  else s.modPart p (fun x => { x with queue := x.queue ++ [v] })

/-- A STOP HALT during a BOUNDARY stop, and a RELEASE during a stop, do not wait (R44). -/
def takesAtOnce (s : State) (p : Fin 16) (v : JobVerb) : Bool :=
  decide ((s.part p).stopWaiting ≠ []) && (s.part p).active.isNone && (match v with
    | .stop true => decide ((s.part p).stopMode = .boundary)
    | .release => true
    | _ => false)

/-- A verb complete at the intake (R44). -/
def verbIntake (s : State) (p : Fin 16) (v : VerbReq) : State :=
  if takesAtOnce s p v.verb && !dumpHolds s p v.verb then verbEffect s p v
  else if verbBusy s p || decide ((s.part p).queue ≠ []) || dumpHolds s p v.verb then enqueueVerb s p v
  else if v.verb.admits.isSome then admitIntake s p v
  else verbEffect s p v

/-- VERB_DEQUEUE: the verb at the head of a partition's queue, or of the module's, takes effect (R44). -/
def execVerbDequeue (q : Option (Fin 16)) (s : State) : Host.Outcome State Fault Refusal :=
  match q with
  | some p =>
    match (s.part p).queue with
    | [] => .next s
    | v :: rest =>
      if verbBusy s p || dumpHolds s p v.verb then .next s
      else
        let s := s.modPart p (fun x => { x with queue := rest })
        .next (if v.verb.admits.isSome then admitIntake s p v else verbEffect s p v)
  | none =>
    match s.admits with
    | [] => .next s
    | v :: rest =>
      if (admittingPart s).isSome then .next s
      else .next (verbEffect { s with admits := rest } (Fin.ofNat 16 (v.verb.admits.getD 0)) v)

/-! ### CONN_SET (R361, R362) and COMM_SET (R369); the layouts are the model's (assumption 20) -/

/-- The port codes of Table 14-16. -/
def portCodeOk (c : Nat) : Bool := decide (c < 12) || (decide (16 ≤ c) && decide (c < 24)) || c = 31

/-- OPEN_ONLY is accepted: on a fabric port, when the image allows it (R362). -/
def openOnlyOk (s : State) (port : Nat) : Bool :=
  decide (port < 12) && Config.openOnly (imageRecord s 3)

/-- The domain of a port code; none for the loop. -/
def portDom (c : Nat) : Option Nat :=
  if c < 12 then some (domFabric c) else if 16 ≤ c ∧ c < 24 then some (domHost ((c - 16) / 4)) else none

/-- CONN_SET: its status, and the state after. `mask` hides the secret (R396). -/
def connSet (s : State) (bs mask : List Byte) : State × Nat :=
  let p : Fin 16 := Fin.ofNat 16 (leAt bs 0 1)
  let conn := leAt bs 1 1
  let port := leAt bs 2 1
  let x := s.part p
  if bs.length ≠ 64 ∨ 15 < leAt bs 0 1 ∨ !portCodeOk port ∨ 1 < leAt bs 3 1 ∨ 1 < leAt bs 4 1 ∨ 15 < leAt bs 5 1 then (s, 9)
  else if x.state = .free then (s, 6)
  else if x.state = .scrubbing then (s, 4)
  else if (leAt bs 4 1 = 1 ∧ !openOnlyOk s port) ∨ mgmtOnly s port then (s, 1)
  else match connEndpoint x conn with
    | none => (s, 0xA)
    | some e =>
      let old := linkGet s e
      let s := if linkLive old then sendFrame s e 0x04 (flFirst + flLast) none [] else s
      let s := if old.state = .free then s else closeLink s e
      let l := { linkGet s e with
        state := .opening, part := p.val, conn := conn, port := port, initiator := leAt bs 3 1 = 0,
        authFull := leAt bs 4 1 = 0, peerPart := leAt bs 5 1, peerConn := leAt bs 6 1, peerAddr := slice bs 7 25,
        key := xorBytes (slice bs 32 32) mask, maxLen := portMaxLen s port }
      let s := linkSet s e l
      let s := match portDom port with
        | some d => if domOn s d then s else demandWake s d
        | none => s
      (if l.initiator then sendOpen s e else s, 0)

/-- COMM_SET: its status, and the state after (R369). -/
def commSet (s : State) (bs : List Byte) : State × Nat :=
  let p : Fin 16 := Fin.ofNat 16 (leAt bs 0 1)
  let n := leAt bs 2 2
  let rank := leAt bs 4 2
  let conns := (List.range n).map (fun i => leAt bs (32 + i) 1)
  let x := s.part p
  if 15 < leAt bs 0 1 ∨ n < 2 ∨ 256 < n ∨ n ≤ rank ∨ bs.length < 32 + n ∨ !zeroAt bs 6 26 ∨
      (List.range n).any (fun r => decide (r ≠ rank) && decide (x.connMap.length ≤ conns.getD r 0)) then
    (s, if 15 < leAt bs 0 1 ∨ x.state ≠ .free then 9 else 6)
  else if x.state = .free then (s, 6)
  else if x.state = .scrubbing ∨ x.state = .running ∨ x.state = .stopping then (s, 4)
  else
    let comms := Sparse.set none x.comms (leAt bs 1 1) (some { size := n, rank := rank, conns := conns, count := 0 })
    (s.modPart p (fun x => { x with comms := comms }), 0)

end Sys2Proof.Machine
end

