-- ==== Sys2Proof/Machine/Regmap.lean ====
section
/-! DEFINITION. The register map: what every register of control space reads, subsystem by subsystem (Tables 2-8, 3-12,
4-4, 6-11, 7-10, 8-9, 9-5, 10-10, 12-9, 13-10, 13-16, 14-12, 15-11, 16-11, 17-9, 18-8, 19-2, 19-8 to 19-10). `none` is an
address that no register occupies (R10). -/

namespace Sys2Proof.Machine

/-! ### Words of wider quantities (R9) -/

/-- Word i of a quantity. -/
def wordOf (v i : Nat) : Word := BitVec.ofNat 32 (v / 2 ^ (32 * i))

/-- The n counts whose LO, HI pairs begin at offset lo. -/
def countPair (s : State) (base lo n ofs : Nat) : Option Word :=
  if lo ≤ ofs ∧ ofs < lo + 8 * n then
    some (wordOf (count s (base + lo + (ofs - lo) / 8 * 8)) ((ofs - lo) % 8 / 4))
  else none

/-- A list of offsets with what each reads. -/
def regRow (ofs : Nat) (rows : List (Nat × Word)) : Option Word := (rows.find? (fun r => r.1 = ofs)).map (fun r => r.2)

/-! ### What the engines of a core hold -/

/-- The commands with opcode `op` that are issued, not complete, and act on core nn, in the order of the streams. -/
def coreCmds (s : State) (nn op : Nat) : List (StreamTag × Flight) :=
  let p := corePart s nn
  if 16 ≤ p then [] else
  let x := s.part (Fin.ofNat 16 p)
  [StreamTag.F, .B, .U].flatMap (fun t => ((x.stream t).flight.filter (fun f =>
    !f.done && cOpcode f.word = op && (targetCores x f.word).any (fun c => c.1 = nn))).map (fun f => (t, f)))

/-- The oldest of them that has begun, else the oldest. -/
def coreCmd (s : State) (nn op : Nat) : Option (StreamTag × Flight) :=
  let cs := coreCmds s nn op
  (cs.find? (fun e => !e.2.waiting)) <|> cs.head?

/-- One of them is at work: it has begun and waits for no other command. -/
def holds (s : State) (nn op : Nat) : Bool := (coreCmds s nn op).any (fun e => !e.2.waiting && e.2.wait ≠ .direct)

/-- The command of the core waits for another's part. -/
def cmdWaits (s : State) (nn op : Nat) (w : FlightWait) : Bool := (coreCmds s nn op).any (fun e => decide (e.2.wait = w))

/-- What status register `a` shows of work whose course in time is open: it differs from one read to the next (assumption
81). -/
def progress (s : State) (a : Nat) : Word := Config.progress s.freeCount a

/-- The bits hi to lo of what is open, while `work` goes on; else 0. -/
def open_ (s : State) (a : Nat) (work : Bool) (hi lo : Nat) : Word := if work then progress s a &&& mask32 hi lo else 0#32

/-- Table 6-13. -/
def tileWord (x : FeTile) (valid : Bool) : Word :=
  at32 20 x.kt ||| at32 8 x.nt ||| at32 6 x.wfmt ||| bit32 5 valid

/-- The mode word of the partition that holds core nn has skipping on (R151). -/
def skipOn (s : State) (nn : Nat) : Bool :=
  let p := corePart s nn
  decide (p < 16) && (s.part (Fin.ofNat 16 p)).job.skip

/-- Table 6-12: an engine holds work from a command's beginning to its completion; how far it is, is open (assumption 81).
DESIGN CHOICE (assumption 81): an FMAT that waits for its crust rows shows CRUST_WAIT and DRAINING, from its beginning on. -/
def feStatus (s : State) (nn : Nat) : Word :=
  let a := coreReg 1 nn 0
  let x := s.core (Fin.ofNat 64 nn)
  let loading := holds s nn 0x20
  let work := holds s nn 0x21
  let waits := cmdWaits s nn 0x21 .crust
  bit32 31 loading ||| open_ s a work 30 30 ||| (if waits then bit32 29 true else open_ s a work 29 29) |||
  bit32 28 (x.shadow.valid && !loading) ||| bit32 27 x.active.valid ||| bit32 26 x.maskValid ||| bit32 25 waits |||
  open_ s a work 24 24 ||| at32 17 x.crustQ.length ||| open_ s a work 16 12 ||| bit32 11 (skipOn s nn) |||
  (if loading then BitVec.ofNat 32 ((progress s a).toNat % 257) else rawReg s a &&& mask32 8 0)

/-- FE registers (Table 6-11). -/
def readFe (s : State) (nn ofs : Nat) : Option Word :=
  let x := s.core (Fin.ofNat 64 nn)
  match ofs with
  | 0x0 => some (feStatus s nn)
  | 0x4 => some (tileWord x.active x.active.valid)
  | 0x8 => some (tileWord x.shadow (x.shadow.valid && !holds s nn 0x20))
  | 0xC => some (rawReg s (coreReg 1 nn 0xC))
  | _ => countPair s (coreReg 1 nn 0) 0x10 8 ofs

/-- One of some tiles, by what is open. -/
def openTile (s : State) (a : Nat) (tiles : List Nat) : Nat := tiles.getD ((progress s a).toNat / 256 % (max 1 tiles.length)) 0

/-- The chest tiles of the command at work with opcode `op`. -/
def tilesOf (s : State) (nn op : Nat) : List Nat :=
  ((coreCmds s nn op).find? (fun e => !e.2.waiting)).elim [] (fun e => chestTiles e.2.word)

/-- A BDX is at work on BD: not one of rung 3, which the bench carries out (Table 10-5). -/
def bdWorks (s : State) (nn : Nat) : Bool :=
  (coreCmds s nn 0x22).any (fun e => !e.2.waiting && !atRung3 (s.part (Fin.ofNat 16 (corePart s nn))) e.1 e.2.word)

/-- Table 7-11; how far a command is, is open (assumption 81). -/
def bkStatus (s : State) (nn : Nat) : Word :=
  let a := coreReg 2 nn 0
  let bd := bdWorks s nn
  let bw := holds s nn 0x23
  let flush := holds s nn 0x12
  bit32 31 (holds s nn 0x11) ||| open_ s a bd 30 30 ||| bit32 29 bd ||| bit32 28 bw ||| bit32 27 flush |||
  open_ s a bw 26 26 ||| open_ s a (bd || bw) 25 25 ||| bit32 24 (cmdWaits s nn 0x12 .direct) |||
  (if bw then at32 20 (openTile s a (tilesOf s nn 0x23)) else 0#32) |||
  (if flush then at32 16 (openTile s a (tilesOf s nn 0x12)) else 0#32)

/-- Table 7-12: a bank is valid once the XPOSE that fills it has completed. -/
def tbShapeWord (s : State) (nn : Nat) : Word :=
  let x := s.core (Fin.ofNat 64 nn)
  let filling := ((coreCmds s nn 0x11).filter (fun e => !e.2.waiting)).length
  let whole := fun (k : Nat) => decide (filling = 0) || (decide (filling = 1) && !x.tbBoth && decide (x.tbCurrent ≠ k))
  let one := fun (b : TbBank) (lo : Nat) => at32 (lo + 5) (b.ncnt % 32) ||| at32 lo (b.kcnt % 32)
  one x.bank1 22 ||| one x.bank0 12 ||| bit32 3 (!x.tbBoth && decide (x.tbCurrent = 1)) ||| bit32 2 x.tbBoth |||
  bit32 1 (x.bank1.valid && whole 1) ||| bit32 0 (x.bank0.valid && whole 0)

/-- Table 7-13. -/
def tbBase (b : TbBank) : Word := at32 20 b.k0 ||| at32 8 b.n0

/-- Table 7-15. -/
def chestWord (x : ChestTile) : Word :=
  bit32 31 x.clear ||| bit32 30 x.recValid |||
  at32 17 ((List.range 256).filter (fun i => x.touched.getLsbD i)).length ||| at32 0 (x.tokEnd % 2 ^ 17)

/-- BK registers (Table 7-10). -/
def readBk (s : State) (nn ofs : Nat) : Option Word :=
  let x := s.core (Fin.ofNat 64 nn)
  match ofs with
  | 0x0 => some (bkStatus s nn)
  | 0x4 => some (tbShapeWord s nn)
  | 0x8 => some (tbBase x.bank0)
  | 0xC => some (tbBase x.bank1)
  | 0x10 => some (rawReg s (coreReg 2 nn 0x10))
  | _ =>
    if 0x80 ≤ ofs ∧ ofs < 0xC0 then some (chestWord (Sparse.get ChestTile.empty x.chest ((ofs - 0x80) / 4)))
    else countPair s (coreReg 2 nn 0) 0x20 9 ofs

/-- The commands that the bench of a core carries out: its BMATs, and at rung 3 the FMATs and BDXs (Table 10-5). -/
def benchCmds (s : State) (nn : Nat) : List (StreamTag × Flight) :=
  let x := s.part (Fin.ofNat 16 (corePart s nn))
  coreCmds s nn 0x24 ++ (coreCmds s nn 0x21 ++ coreCmds s nn 0x22).filter (fun e => atRung3 x e.1 e.2.word)

/-- Table 9-7; how far a command is, is open (assumption 81). -/
def buStatus (s : State) (nn : Nat) : Word :=
  let a := coreReg 3 nn 0
  match (benchCmds s nn).filter (fun e => e.2.wait ≠ .behind) with
  | [] => 0#32
  | (t, f) :: _ =>
    let g := f.word
    let bmat := decide (cOpcode g = 0x24)
    let am := if bmat then mAmsel g % 2 else if cOpcode g = 0x22 then 1 else 0
    let full := match f.wait with
      | .push _ => true
      | _ => false
    bit32 31 true ||| bit32 30 (bmat && cOF g 2) ||| bit32 29 (bmat && cOF g 0) |||
    (if full then bit32 28 true else open_ s a (isCrustBmat g) 28 28) ||| open_ s a true 27 27 ||| bit32 26 (t = .B) |||
    at32 25 am ||| open_ s a true 4 0

/-- BU registers (Table 9-5). -/
def readBu (s : State) (nn ofs : Nat) : Option Word :=
  match ofs with
  | 0x0 => some (buStatus s nn)
  | 0x4 => some (rawReg s (coreReg 3 nn 4))
  | _ => countPair s (coreReg 3 nn 0) 0x10 4 ofs

/-- A promotion into AM `am` may be in progress: a command that writes it is at work. -/
def promotes (s : State) (nn am : Nat) : Bool :=
  [0x21, 0x22, 0x24].any (fun op => (coreCmds s nn op).any (fun e => e.2.wait ≠ .behind &&
    ((amSpan e.2.word).map (fun r => r.1)) = some am))

/-- Table 8-10: the next row of a STORE that has not begun is its first; how far others are is open (assumption 81). -/
def aoStatus (s : State) (nn : Nat) : Word :=
  let a := coreReg 4 nn 0
  let store := match coreCmd s nn 0x31 with
    | none => 0#32
    | some (t, f) =>
      let column := (descOf s (Fin.ofNat 16 (corePart s nn)) t f.word (sDst f.word)).layout = 1
      bit32 31 true ||| at32 30 (amsel f.word % 2) ||| bit32 29 (t = .B) |||
      (if f.waiting then at32 14 (field f.word 109 100)
       else open_ s a column 28 28 ||| open_ s a true 27 27 ||| open_ s a true 23 14)
  store ||| open_ s a (promotes s nn 0 || promotes s nn 1) 26 26 ||| open_ s a (promotes s nn 0) 25 25 |||
  open_ s a (promotes s nn 1) 24 24

/-- Table 8-13, for the row that AO_REC_SEL names. -/
def aoRec (s : State) (nn : Nat) : Word :=
  let sel := rawReg s (coreReg 4 nn 8)
  let r := Sparse.get AmRow.none (s.core (Fin.ofNat 64 nn)).am (1024 * field sel 31 31 + field sel 9 0)
  bit32 31 r.empty ||| at32 29 r.rcd.kind.code ||| at32 0 (r.rcd.value % 2 ^ 17)

/-- AO registers (Table 8-9). -/
def readAo (s : State) (nn ofs : Nat) : Option Word :=
  match ofs with
  | 0x0 => some (aoStatus s nn)
  | 0x4 => some (rawReg s (coreReg 4 nn 4))
  | 0x8 => some (rawReg s (coreReg 4 nn 8))
  | 0xC => some (aoRec s nn)
  | _ => countPair s (coreReg 4 nn 0) 0x20 8 ofs

/-- Table 9-6; the waits and the pass of a VOP that has begun are open (assumption 81). -/
def vuStatus (s : State) (nn : Nat) : Word :=
  let a := coreReg 5 nn 0
  match coreCmd s nn 0x30 with
  | none => 0#32
  | some (t, f) =>
    let work := !f.waiting
    bit32 31 true ||| bit32 30 (vFunc f.word = 0x3F) ||| open_ s a work 29 28 |||
    (if work && isRowOp (vFunc f.word) then at32 26 ((progress s a).toNat / 2 ^ 26 % 3) else 0#32) |||
    at32 24 (tagCode t) ||| at32 8 (vFunc f.word) ||| at32 0 (field f.word 55 48)

/-- VU registers (Table 9-5). -/
def readVu (s : State) (nn ofs : Nat) : Option Word :=
  match ofs with
  | 0x0 => some (vuStatus s nn)
  | 0x4 => some (rawReg s (coreReg 5 nn 4))
  | _ => countPair s (coreReg 5 nn 0) 0x10 5 ofs

/-- The programmable counters of core nn (Table 19-2); offset 0x18 is reserved. -/
def readCnt (s : State) (nn ofs : Nat) : Option Word :=
  let a := cntBase nn (ofs / 0x20)
  match ofs % 0x20 with
  | 0x0 => some (rawReg s a)
  | 0x4 => some (rawReg s (a + 4))
  | k => countPair s a 8 2 k

/-- Counts of the crumb packer in NC (Table 11-10). -/
def readNc (s : State) (nn ofs : Nat) : Option Word :=
  if 0x1000 ≤ ofs ∧ ofs < 0x1200 then readCnt s nn (ofs - 0x1000)
  else if ofs = 0x400 then some (rawReg s (coreReg 8 nn 0x400)) else countPair s (coreReg 8 nn 0) 0x408 4 ofs

/-! ### SQ (Tables 3-12, 4-4, 19-8) -/

/-- A head command waits for a free place: the in-flight limit, SERIAL, signal credits, the COLL limit, or a TBLLOAD. -/
def waitsSlot (s : State) (p : Fin 16) (t : StreamTag) (g : Granule) : Bool :=
  let q := s.stream p t
  decide (32 ≤ inflight q) || serialHeld q g || tableHeld q g ||
  (cOpcode g = 0x03 && cOF g 0 && sigCreditOut s p (sigConn g)) || (cOpcode g = 0x50 && collHold s p t g)

/-- STATE of Table 3-13. DESIGN CHOICE (assumption 82): a command that waits for its layer's rung, which the table names
nowhere, shows WAIT_STEP (3). -/
def streamCode (s : State) (p : Fin 16) (t : StreamTag) : Nat :=
  let q := s.stream p t
  match q.state with
  | .idle => 0
  | .stopped => 5
  | .done => 6
  | .refused => 7
  | .faulted => 8
  | .running => match q.head with
    | none => 1
    | some g =>
      if !q.waitMet then 2
      else if stepHeld (s.part p) t g || rungHeld (s.part p) t g then 3
      else if waitsSlot s p t g then 4 else 1

/-- Table 3-13; a stream that a freeze met while it waited keeps WAIT_SO (R450). -/
def streamStatus (s : State) (p : Fin 16) (t : StreamTag) : Word :=
  let q := s.stream p t
  let c := streamCode s p t
  let so := match q.head with
    | some g => if c = 2 ∨ (c = 8 ∧ q.waitMet = false ∧ (s.part p).frozen) then cWaitSo g else 0
    | none => 0
  at32 28 c ||| at32 24 q.refuse ||| bit32 23 q.loop.isSome ||| at32 17 (inflight q) ||| at32 0 so

/-- Per-stream registers (Tables 3-12, 4-8). -/
def readStream (s : State) (p : Fin 16) (t : StreamTag) (ofs : Nat) : Option Word :=
  let q := s.stream p t
  regRow ofs
    [(0x0, streamStatus s p t), (0x4, wordOf q.pc 0), (0x8, wordOf (q.pc % wrap48) 1), (0xC, wordOf q.step 0),
     (0x10, wordOf (q.loop.getD 0) 0), (0x14, at32 16 q.layer ||| at32 0 q.oper), (0x18, wordOf q.issued 0),
     (0x1C, wordOf q.issued 1), (0x20, q.waitFault)]

/-- Registers of partition p in SQ; those of its sequencers read 0 while it is FREE. -/
def readSq (s : State) (p : Fin 16) (ofs : Nat) : Option Word :=
  let x := s.part p
  let live := fun (w : Word) => if x.state = .free then 0#32 else w
  match ofs / 0x100 with
  | 0 => (readStream s p .F ofs).map live
  | 1 => (readStream s p .B (ofs - 0x100)).map live
  | 2 => (readStream s p .U (ofs - 0x200)).map live
  | 3 =>
    if ofs = 0x300 then some (live (at32 0 x.desc))
    else if ofs = 0x310 ∨ ofs = 0x314 ∨ ofs = 0x318 ∨ ofs = 0x31C then some (rawReg s (sqReg p.val ofs))
    else countPair s (sqReg p.val 0) 0x320 2 ofs
  | _ => none

/-- Streams of the owning partition held on object n (Table 4-6). -/
def soWaiters (s : State) (n : Nat) : Nat :=
  match soOwner s n with
  | some p => ([StreamTag.F, .B, .U].filter (fun t =>
      streamCode s p t = 2 && waitsOn (s.stream p t) n)).length
  | none => 0

/-- Sync objects and their blocks (Tables 4-5 to 4-7). -/
def readSo (s : State) (ofs : Nat) : Option Word :=
  let n := (ofs - 0x200000) / 8
  let b := (ofs - 0x300000) / 4
  if 0x200000 ≤ ofs ∧ n < 4096 then
    let o := soGet s n
    if ofs % 8 = 0 then some o.value
    else some (at32 16 o.epoch.toNat ||| bit32 15 o.wrap ||| at32 0 (soWaiters s n))
  else if 0x300000 ≤ ofs ∧ b < 64 then
    let o := Sparse.get SoBlock.free s.soBlk b
    some (bit32 31 o.alloc ||| bit32 30 o.scrub ||| at32 24 (if o.alloc then o.part else 0))
  else none

/-! ### QS (Table 10-10) -/

/-- QS_SLOT_SEL names a slot of the run. -/
def slotSel (s : State) (p : Fin 16) : Option Nat :=
  let n := field (rawReg s (qsReg p.val 0x10)) 13 0
  if (s.part p).state ≠ .free && slotInRun (s.part p) n then some n else none

/-- QS_LAYER_SEL names an entry of the layer table. -/
def layerSel (s : State) (p : Fin 16) : Option Nat :=
  let n := field (rawReg s (qsReg p.val 0x200)) 9 0
  if n < (s.part p).layerTable.length then some n else none

/-- The slot window. -/
def readSlot (x : Slot) (ofs : Nat) : Option Word :=
  if 0x80 ≤ ofs ∧ ofs < 0x100 then
    let i := (ofs - 0x80) / 4
    some (at32 16 (Sparse.get 0 x.list (2 * i + 1)) ||| at32 0 (Sparse.get 0 x.list (2 * i)))
  else if 0x100 ≤ ofs ∧ ofs < 0x180 then
    some (BitVec.ofNat 32 (Sparse.get 0 (if ofs % 8 = 0 then x.histA else x.histB) ((ofs - 0x100) / 8)))
  else regRow ofs
    [(0x14, x.cfg), (0x18, at32 16 x.committed ||| at32 0 x.next), (0x1C, at32 16 x.init ||| at32 0 x.pinScale),
     (0x20, x.ctabLo), (0x24, x.ctabHi), (0x28, wordOf x.sat 0), (0x2C, wordOf x.fullsat 0), (0x30, wordOf x.under 0),
     (0x34, wordOf x.constb 0), (0x38, wordOf x.lastSat 0), (0x3C, wordOf x.lastFullsat 0), (0x40, wordOf x.pinHeld 0),
     (0x44, wordOf x.listn 0)]

/-- Table 10-17. -/
def layerWord (x : Part) (l : Nat) : Word :=
  let y := layerGet x l
  let e := x.layerTable.getD l { tokens := 0, k := 0, startA8 := false, ceiling := 0, coexist := 0 }
  at32 30 y.rungCur ||| at32 28 y.rungPrev ||| at32 26 (startRung e) ||| at32 24 e.ceiling ||| bit32 23 y.exhausted |||
  bit32 22 y.triggered

/-- The layer window. -/
def readLayer (s : State) (p : Fin 16) (ofs : Nat) : Option Word :=
  let of := fun (f : Nat → Word) => some (((layerSel s p).map f).getD 0#32)
  match ofs with
  | 0x204 => of (layerWord (s.part p))
  | 0x208 => of (fun l => wordOf (layerGet (s.part p) l).sat 0)
  | 0x20C => of (fun l => wordOf (layerGet (s.part p) l).fullsat 0)
  | _ => none

/-- What the QS registers of a partition that is FREE or SCRUBBING show: their reset values (R253). -/
def qsView (s : State) (p : Fin 16) : State :=
  let x := s.part p
  if x.state = .free ∨ x.state = .scrubbing then
    (resetRange { s with slots := Sparse.clearRange s.slots (x.slotBase * 256) ((x.slotCount + 1) * 256) }
      (qsReg p.val 0) 0x1000).setPart p { startLayers x with job := Job.none }
  else s

/-- Offsets of the slot window. -/
def inSlotWindow (ofs : Nat) : Bool := decide (0x14 ≤ ofs) && decide (ofs < 0x180)

/-- QS registers of a partition. -/
def readQs (s : State) (p : Fin 16) (ofs : Nat) : Option Word :=
  let s := qsView s p
  let raw := fun (o : Nat) => rawReg s (qsReg p.val o)
  if inSlotWindow ofs then
    (readSlot Slot.reset ofs).map (fun _ =>
      ((slotSel s p).bind (fun n => readSlot (Sparse.get Slot.reset s.slots n) ofs)).getD 0#32)
  else match ofs with
    | 0x0 => some (at32 20 (s.part p).layerTable.length ||| (raw 0 &&& mask32 19 9))
    | 0x300 => some (wordOf (s.part p).job.seed 0)
    | 0x304 => some (wordOf (s.part p).job.seed 1)
    | _ =>
      if [0x4, 0x8, 0xC, 0x10, 0x200, 0x308, 0x30C].contains ofs then some (raw ofs) else readLayer s p ofs

/-! ### MM, UU and TR (Tables 12-9, 13-10, 13-16) -/

/-- STATE of a channel or port block: its domain sleeps or its PLL failed, it comes up, or it is up (Tables 13-13, 13-14). -/
def shelfState (s : State) (b : Nat) : Nat :=
  let d := domGet s (blkDom b)
  if domFailed s (blkDom b) then 3
  else if d.pwr = .on then (if (blkGet s b).inReset then 1 else 2)
  else if d.pendingOn || d.pwr = .waking then 1 else 0

/-- Table 13-13: a group is in the state of its channels that are furthest. -/
def groupWord (s : State) (g : Nat) : Word :=
  let chans := (List.range 9).map (fun i => shelfState s (0x2400 + 9 * g + i))
  let st := if chans.contains 2 then 2 else if chans.contains 1 then 1 else chans.headD 0
  at32 30 st ||| at32 21 (((List.range 9).filter (fun i => chans.getD i 0 = 2)).map (fun i => 2 ^ i)).sum |||
  (rawReg s (0x90000100 + 0x40 * g) &&& mask32 7 0)

/-- Table 13-14. -/
def chanWord (s : State) (c : Nat) : Word :=
  at32 30 (shelfState s (0x2400 + c)) ||| (rawReg s (0x90001000 + 0x40 * c) &&& mask32 29 20)

/-- The UPDs that have begun and are not complete: partition and group. -/
def updsHeld (s : State) : List (Nat × Nat) :=
  (List.finRange 16).flatMap (fun p => ((s.part p).sU.flight.filter (fun f => !f.done && cOpcode f.word = 0x40 && !f.waiting)).map
    (fun f => (p.val, uGroup f.word)))

/-- Table 12-10: which panel a unit holds while UPDs are in flight, if any, and how far it is, is open (assumption 81). -/
def uuStatus (s : State) (a : Nat) : Word :=
  let us := updsHeld s
  let w := progress s a
  if us = [] || !flag w 31 then 0#32 else
  let u := us.getD (w.toNat % us.length) (0, 0)
  bit32 31 true ||| at32 29 (1 + w.toNat / 4096 % 3) ||| (w &&& mask32 28 28) ||| at32 24 u.1 ||| at32 12 (u.2 % 4096)

/-- MM registers. -/
def readMm (s : State) (ofs : Nat) : Option Word :=
  let base := 0x90000000
  if ofs = 0 ∨ ofs = 4 then some (rawReg s (base + ofs))
  else if 0x100 ≤ ofs ∧ ofs < 0x200 then
    let o := ofs % 0x40
    if o = 0 then some (groupWord s ((ofs - 0x100) / 0x40))
    else if o = 4 then some (rawReg s (base + ofs)) else countPair s (base + ofs / 0x40 * 0x40) 8 4 o
  else if 0x1000 ≤ ofs ∧ ofs < 0x1900 then
    let o := ofs % 0x40
    if o = 0 then some (chanWord s ((ofs - 0x1000) / 0x40))
    else if o = 4 then some (rawReg s (base + ofs)) else countPair s (base + ofs / 0x40 * 0x40) 8 3 o
  else if 0x8000000 ≤ ofs ∧ ofs < 0x8000400 then
    let o := ofs % 0x100
    if o = 0 then some (uuStatus s (base + ofs))
    else if o = 4 ∨ o = 8 then some (rawReg s (base + ofs)) else countPair s (base + ofs / 0x100 * 0x100) 0x10 6 o
  else if 0x8010000 ≤ ofs ∧ ofs < 0x8010040 then some (rawReg s (base + ofs))
  else none

/-- SHELF, PORT and FRAME of Table 13-20 for a frame. -/
def frameWord (id : Nat) : Word :=
  if isLower id then at32 30 2 ||| at32 25 (lowerPort id) ||| at32 0 ((id - lowerBase) % 2 ^ 24 % 2 ^ 23)
  else at32 30 1 ||| at32 0 id

/-- Table 13-20, for the page that TR_PAGE_SEL names. -/
def pageWord (s : State) : Word :=
  let sel := rawReg s 0xA0002000
  let x := s.part (Fin.ofNat 16 (field sel 31 28))
  let page := field sel 26 0
  if x.state = .free then 0#32
  else if page * frameBytes < regionBase then
    match x.mem.pages[page]? with
    | some id => frameWord id ||| at32 28 (pageFlag x.mem page) ||| bit32 27 (pageHeld x.mem page)
    | none => 0#32
  else
    let a := page * frameBytes - regionBase
    let v := Sparse.get 0 (Sparse.get Region.free x.mem.regions (a / regionBytes)).frames (a % regionBytes / frameBytes)
    if 1024 ≤ a / regionBytes then 0#32
    else if v = 0 then at32 28 3 else frameWord (v - 1) ||| at32 28 3

/-- STATE of Table 13-21. -/
def RegionState.code : RegionState → Nat
  | .free => 0 | .opened => 1 | .published => 2 | .retired => 3

/-- The partition that a selector names; none while it is FREE (R351). -/
def selPart (s : State) (sel : Word) : Option Part :=
  let x := s.part (Fin.ofNat 16 (field sel 31 28))
  if x.state = .free then none else some x

/-- The region window (Table 13-21). -/
def readRegion (s : State) (ofs : Nat) : Word :=
  let sel := rawReg s 0xA0002008
  match selPart s sel with
  | none => 0#32
  | some x =>
    let r := Sparse.get Region.free x.mem.regions (field sel 9 0)
    if ofs = 0x200C then at32 29 r.state.code ||| at32 16 (r.name % 1024) ||| at32 0 (min r.refs 0xFFFF)
    else at32 0 (r.frames.length % 65536)

/-- The name window. -/
def readName (s : State) (ofs : Nat) : Word :=
  let sel := rawReg s 0xA0002014
  match selPart s sel with
  | none => 0#32
  | some x =>
    let n := Sparse.get NameEntry.zero x.mem.names (field sel 9 0)
    if ofs = 0x2018 then n.version else if n.slot = 0 then 0#32 else bit32 31 true ||| at32 0 (n.slot - 1)

/-- TR_PART registers of partition p (Tables 13-16, 13-19). -/
def readTrPart (s : State) (p : Fin 16) (o : Nat) : Option Word :=
  let m := (s.part p).mem
  match o with
  | 0x0 => some (bit32 31 m.pin ||| at32 0 m.prefQ.length)
  | 0x4 => some (at32 0 m.u)
  | 0x8 => some (at32 0 m.lT)
  | 0xC => some (at32 0 m.lR)
  | 0x10 => some (at32 0 m.poolFree.length)
  | _ => countPair s (0xA0001000 + 0x40 * p.val) 0x18 3 o

/-- Table 13-18: STATE of an enumerated port follows its domain and its block. -/
def tierPortWord (s : State) (x : Nat) : Word :=
  let w := rawReg s (0xA0000100 + 0x40 * x)
  if portUp s x then
    let st := match shelfState s (0x2800 + x) with
      | 3 => 4
      | 1 => 1
      | 2 => 2
      | _ => 3
    setField w 31 29 st
  else w

/-- TR registers. -/
def readTr (s : State) (ofs : Nat) : Option Word :=
  let base := 0xA0000000
  if ofs = 0 ∨ ofs = 4 then some (rawReg s (base + ofs))
  else if 0x100 ≤ ofs ∧ ofs < 0x200 then
    let o := ofs % 0x40
    if o = 0 then some (tierPortWord s ((ofs - 0x100) / 0x40))
    else if o = 4 ∨ o = 8 then some (rawReg s (base + ofs)) else countPair s (base + ofs / 0x40 * 0x40) 0x10 3 o
  else if 0x1000 ≤ ofs ∧ ofs < 0x1400 then readTrPart s (Fin.ofNat 16 ((ofs - 0x1000) / 0x40)) (ofs % 0x40)
  else regRow ofs
    [(0x2000, rawReg s (base + 0x2000)), (0x2004, pageWord s), (0x2008, rawReg s (base + 0x2008)),
     (0x200C, readRegion s 0x200C), (0x2010, readRegion s 0x2010), (0x2014, rawReg s (base + 0x2014)),
     (0x2018, readName s 0x2018), (0x201C, readName s 0x201C)]

/-! ### FB and HP (Table 14-12) -/

/-- Flaps of a port in the last 10 s. -/
def flapsNow (s : State) (x : Port) : Nat := min 3 (x.flaps.filter (fun t => decide (s.tick < t + flapWindow))).length

/-- Milliseconds of hold-down left: it lasts 1 s from the third flap (Table 14-3). -/
def holdMs (s : State) (x : Port) : Nat :=
  if x.state = .held then 1000 - (s.tick - x.flaps.headD s.tick) / 1000 else 0

/-- Table 14-15 of a fabric port; when it sends PFC is open (R358, assumption 45). -/
def fbPortStatus (s : State) (i : Nat) : Word :=
  let x := portGet s i
  at32 29 x.state.code ||| at32 25 (if x.state = .up then 0xF else 0) ||| bit32 24 (x.pfcRx || x.pfcCtl) |||
  open_ s (portBase i) (x.state = .up) 23 23 ||| at32 21 (flapsNow s x) ||| at32 11 (holdMs s x)

/-- Table 14-15 of a host port: the most advanced of its sub-ports gives STATE. -/
def hpPortStatus (s : State) (h : Nat) : Word :=
  let subs := (List.range 4).map (fun k => portGet s (12 + 4 * h + k))
  let up := (List.range 4).filter (fun k => (subs.getD k Port.off).state = .up)
  let order := [PortState.up, .held, .training, .locking, .failed, .off]
  let st := (order.find? (fun c => subs.any (fun x => x.state = c))).getD .off
  at32 29 st.code ||| at32 25 ((up.map (subLanes (breakout s h))).sum % 16) ||| bit32 24 (subs.any (fun x => x.pfcRx || x.pfcCtl)) |||
  open_ s (0xC0000200 + 0x80 * h) (st = .up) 23 23 |||
  at32 21 (min 3 ((subs.map (flapsNow s)).foldl max 0)) ||| at32 11 ((subs.map (holdMs s)).foldl max 0) |||
  at32 7 ((up.map (fun k => 2 ^ k)).sum)

/-- Table 14-16, for the connection that FB_CONN_SEL names. -/
def readConn (s : State) (ofs : Nat) : Word :=
  let l := linkGet s (.conn (Fin.ofNat 2048 (field (rawReg s 0xB0001000) 10 0)))
  match ofs with
  | 0x1004 => at32 29 l.state.code ||| at32 25 l.part ||| at32 17 l.conn ||| at32 12 l.port ||| at32 8 l.reason ||| bit32 7 l.authFull
  | 0x1008 => wordOf l.psnTx 0
  | _ => wordOf l.psnRx 0

/-- FB_COLL_p: the own contribution of a COLL takes no buffer. -/
def collWord (s : State) (p : Fin 16) : Word :=
  let x := s.part p
  at32 28 (min 12 x.colls.length) ||| at32 20 (min 128 (segsHeld x))

/-- A port set. -/
def readPortSet (s : State) (base : Nat) (status : Word) (o : Nat) : Option Word :=
  match o with
  | 0x0 => some status
  | 0x4 => some (rawReg s (base + 4))
  | _ => countPair s base 8 10 o

/-- FB registers. -/
def readFb (s : State) (ofs : Nat) : Option Word :=
  if ofs = 0 ∨ ofs = 4 ∨ ofs = 0x1000 then some (rawReg s (0xB0000000 + ofs))
  else if 0x100 ≤ ofs ∧ ofs < 0x700 then
    let i := (ofs - 0x100) / 0x80
    readPortSet s (portBase i) (fbPortStatus s i) (ofs % 0x80)
  else if ofs = 0x1004 ∨ ofs = 0x1008 ∨ ofs = 0x100C then some (readConn s ofs)
  else if 0x2000 ≤ ofs ∧ ofs < 0x2040 then some (collWord s (Fin.ofNat 16 ((ofs - 0x2000) / 4)))
  else none

/-- Table 2-8. -/
def partWord (x : Part) : Word :=
  if x.state = .free then 0#32
  else
    at32 28 x.faultCause ||| at32 22 x.soCount ||| at32 16 x.soBase ||| at32 14 x.stopMode.code ||| at32 8 x.origin |||
    at32 4 x.shape ||| at32 0 x.state.code

/-- Table 14-18, for the session that HP_SESS_SEL names. -/
def sessWord (s : State) : Word :=
  let l := linkGet s (.sess (Fin.ofNat 64 (field (rawReg s 0xC0001000) 5 0)))
  let tenant := match l.level with
    | .tenant _ => true
    | _ => false
  at32 30 (l.state.code % 4) ||| bit32 29 tenant ||| at32 25 (if tenant then l.part else 0) ||| at32 20 l.port

/-- HP registers. -/
def readHp (s : State) (ofs : Nat) : Option Word :=
  if ofs = 0 then some (setField (rawReg s 0xC0000000) 17 16 (breakout s 0))
  else if 0x100 ≤ ofs ∧ ofs < 0x140 then some (partWord (s.part (Fin.ofNat 16 ((ofs - 0x100) / 4))))
  else if 0x200 ≤ ofs ∧ ofs < 0x300 then
    let h := (ofs - 0x200) / 0x80
    readPortSet s (0xC0000200 + 0x80 * h) (hpPortStatus s h) (ofs % 0x80)
  else if ofs = 0x1000 then some (rawReg s 0xC0001000)
  else if ofs = 0x1004 then some (sessWord s)
  else none

/-! ### SC (Table 15-11) -/

/-- Little-endian word i of a byte string. -/
def byteWord (bs : List Byte) (i : Nat) : Word := BitVec.ofNat 32 (leAt bs (4 * i) 4)

/-- Bytes of the longest report (R391, R392). -/
def reportBytes : Nat := 16848 + 64 * 32

/-- A word of the report window; what it shows without a finished report is not stated. -/
def attestWord (s : State) (i : Nat) : Word :=
  if flag (rawReg s attCtl) 30 || decide (s.boot.report.length ≤ 4 * i) then Config.staleReport i
  else byteWord s.boot.report i

/-- A word of the identity keys; what it shows before KEYS_READY is not stated. -/
def idKeyWord (s : State) (i : Nat) : Word :=
  if flag (rawReg s scBoot) 25 then byteWord (slice Config.rsaPublic 0 388 ++ slice Config.slhPublic 0 48) i
  else Config.earlyKey i

/-- SC registers. -/
def readSc (s : State) (ofs : Nat) : Option Word :=
  let f := s.boot.fuses
  if 0x104 ≤ ofs ∧ ofs < 0x134 then some (rawReg s (0xD0000000 + ofs))
  else if 0x180 ≤ ofs ∧ ofs < 0x1B0 then some (byteWord (chainValue s.boot.chain) ((ofs - 0x180) / 4))
  else if 0x300 ≤ ofs ∧ ofs < 0x400 then some (rawReg s (0xD0000000 + ofs))
  else if 0x10000 ≤ ofs ∧ ofs < 0x10000 + reportBytes then some (attestWord s ((ofs - 0x10000) / 4))
  else if 0x20000 ≤ ofs ∧ ofs < 0x20000 + 436 then some (idKeyWord s ((ofs - 0x20000) / 4))
  else regRow ofs
    [(0x0, rawReg s scBoot), (0x4, at32 0 (min f.svn 64)),
     (0x8, at32 0 (Config.rsaPresent % 16) ||| at32 4 (Config.slhPresent % 16) ||| at32 8 (f.rsaRevoked % 16) |||
       at32 12 (f.slhRevoked % 16)),
     (0xC, 0#32), (0x10, wordOf Config.lot 0), (0x14, wordOf Config.lot 1), (0x18, at32 0 (Config.die % 2 ^ 21)),
     (0x1C, wordOf Config.packageSerial 0), (0x20, wordOf Config.moduleSerial 0), (0x24, wordOf Config.moduleSerial 1),
     (0x100, rawReg s attCtl), (0x200, rawReg s flashCtl), (0x204, rawReg s 0xD0000204)]

/-! ### PM (Tables 16-11, 17-9) -/

/-- Table 16-15. -/
def blkWord (s : State) (b : Nat) : Word :=
  let x := blkGet s b
  let d := domGet s (blkDom b)
  bit32 31 x.soft ||| bit32 30 (blkDrains s b) ||| at32 22 x.drainTo ||| at32 20 d.pwr.code ||| bit32 19 d.retain |||
  bit32 18 d.pendingOn ||| bit32 17 x.inReset ||| bit32 16 x.heldClk ||| bit32 15 x.err ||| bit32 14 d.clkGood |||
  bit32 13 x.module ||| bit32 12 x.part ||| bit32 11 x.soft ||| bit32 10 x.draining

/-- PM registers that only store. -/
def pmStored : List Nat :=
  [0x0, 0x4, 0x8, 0x18, 0x1C, 0x200, 0x208, 0x20C, 0x210, 0x214, 0x218, 0x224, 0x228, 0x22C]

/-- PM registers. -/
def readPm (s : State) (ofs : Nat) : Option Word :=
  if 0x100000 ≤ ofs ∧ ofs < 0x110000 then
    let b := (ofs - 0x100000) / 4
    if blkExists b then some (blkWord s b) else none
  else if 0x100 ≤ ofs ∧ ofs < 0x120 then some (rawReg s (0xE0000000 + ofs))
  else if 0x400 ≤ ofs ∧ ofs < 0x540 then some (rawReg s (0xE0000000 + ofs))
  else if pmStored.contains ofs then some (rawReg s (0xE0000000 + ofs))
  else if [0xC, 0x10, 0x14, 0x230].contains ofs then some 0#32
  else if ofs = 0x204 then some (pwrStatus s)
  else if ofs = 0x220 then some (shedWord s)
  else (countPair s 0xE0000000 0x20 4 ofs).or (countPair s 0xE0000000 0x240 6 ofs)

/-! ### SYS and DB (Tables 18-8, 19-9, 19-10) -/

/-- The 64 bytes of a fault record (Table 18-2). -/
def FaultRec.bytes (r : FaultRec) : List Byte :=
  leBytes 1 r.cause ++ leBytes 1 r.kind ++ leBytes 1 r.stream ++ leBytes 1 r.unit ++ leBytes 2 r.layer ++ leBytes 2 r.oper ++
  leBytes 1 r.core ++ leBytes 1 r.place ++ leBytes 1 r.refuse ++ leBytes 1 0 ++ leBytes 4 r.step ++ leBytes 8 r.pc ++
  (List.range 4).flatMap (fun i => leBytes 4 (r.tile.getD i 0)) ++ leBytes 8 r.addr ++ leBytes 2 r.chan ++ leBytes 2 0 ++
  leBytes 4 r.further ++ leBytes 8 r.tick

/-- A GDDR7 channel is marked WEAK. -/
def anyWeak (s : State) : Bool := (List.range 36).any (fun c => flag (rawReg s (0x90001000 + 0x40 * c)) 20)

/-- Table 18-9: DEGRADED is stored where a spare ran out, and set while a channel is WEAK. -/
def sysStatus (s : State) : Word :=
  bit32 31 (flag (rawReg s 0x8) 31 || anyWeak s) |||
  at32 0 ((List.finRange 64).filter (fun c => !(s.core c).retired)).length

/-- Table 18-10: PART reads the held dump's partition. -/
def dumpCtl (s : State) : Word :=
  let w := rawReg s 0xF000000C
  let part := match s.dump.held with
    | some p => p.val
    | none => field w 27 24
  bit32 29 s.dump.busy.isSome ||| bit32 28 s.dump.held.isSome ||| at32 24 part ||| (w &&& mask32 23 22)

/-- SYS registers. -/
def readSys (s : State) (ofs : Nat) : Option Word :=
  if ofs = 0 ∨ ofs = 4 then some (rawReg s ofs) else if ofs = 8 then some (sysStatus s) else countPair s 0 0xC 1 ofs

/-- The hottest core sensor of a partition (R481). -/
def partHottest (s : State) (p : Fin 16) : Nat :=
  let x := s.part p
  if x.state = .free then 0 else ((partCores x).map (fun nn => field (rawReg s (0xE0000400 + 4 * nn)) 7 0)).foldl max 0

/-- The always-on set (Table 19-10); the power estimate of R481 is not stated. -/
def readAlways (s : State) (p : Fin 16) (o : Nat) : Option Word :=
  match o with
  | 0x0 => some (rawReg s (0xF0004000 + 0x100 * p.val) &&& mask32 31 16)
  | 0x40 => some (at32 0 ((Config.powerEstimate s.tick p.val) % 65536) ||| at32 16 (partHottest s p % 256))
  | _ => countPair s (0xF0004000 + 0x100 * p.val) 8 7 o

/-- Bandwidth monitor m (Table 19-9). -/
def readMon (s : State) (m o : Nat) : Option Word :=
  let a := 0xF0002000 + 0x20 * m
  match o with
  | 0x0 => some (rawReg s a)
  | 0x4 => some (rawReg s (a + 4))
  | 0x18 => some (rawReg s (a + 0x18))
  | _ => countPair s a 8 2 o

/-- DB module registers. -/
def readDb (s : State) (ofs : Nat) : Option Word :=
  if 0x1000 ≤ ofs ∧ ofs < 0x1400 then
    let x := s.part (Fin.ofNat 16 ((ofs - 0x1000) / 0x40))
    some (if x.state = .free then 0#32 else byteWord x.record.bytes (ofs % 0x40 / 4))
  else if 0x2000 ≤ ofs ∧ ofs < 0x2700 then readMon s ((ofs - 0x2000) / 0x20) (ofs % 0x20)
  else if 0x4000 ≤ ofs ∧ ofs < 0x5000 then readAlways s (Fin.ofNat 16 ((ofs - 0x4000) / 0x100)) (ofs % 0x100)
  else if 0x5000 ≤ ofs ∧ ofs < 0x5080 then countPair s 0xF0000000 0x5000 16 ofs
  else if ofs = 0xC then some (dumpCtl s)
  else if ofs = 0x10 then some (at32 0 (s.dump.len / 256))
  else if [0x0, 0x4, 0x8, 0x14, 0x18].contains ofs then some (rawReg s (0xF0000000 + ofs))
  else countPair s 0xF0000000 0x20 3 ofs

/-! ### The whole of control space (R24, R25) -/

/-- Registers of core nn in a per-core subsystem; none of a retired core (R10). -/
def readCore (s : State) (code nn ofs : Nat) : Option Word :=
  if (s.core (Fin.ofNat 64 nn)).retired || decide (64 ≤ nn) then none
  else match code with
    | 1 => readFe s nn ofs
    | 2 => readBk s nn ofs
    | 3 => readBu s nn ofs
    | 4 => readAo s nn ofs
    | 5 => readVu s nn ofs
    | _ => readNc s nn ofs

/-- QS registers of core nn. -/
def readQsCore (s : State) (nn ofs : Nat) : Option Word :=
  if (s.core (Fin.ofNat 64 nn)).retired then none else countPair s (0x68000000 + 0x100 * nn) 0 2 ofs

/-- What a control address reads; none where no register sits (R10). -/
def readReg (s : State) (a : Nat) : Option Word :=
  let code := a / 0x10000000
  let ofs := a % 0x10000000
  if a % 4 ≠ 0 then none
  else match code with
    | 0 => readSys s ofs
    | 6 =>
      if ofs < 0x10000 then readQs s (Fin.ofNat 16 (ofs / 0x1000)) (ofs % 0x1000)
      else if 0x8000000 ≤ ofs ∧ ofs < 0x8004000 then readQsCore s ((ofs - 0x8000000) / 0x100) (ofs % 0x100)
      else none
    | 7 =>
      if 0x100000 ≤ ofs ∧ ofs < 0x110000 then readSq s (Fin.ofNat 16 ((ofs - 0x100000) / 0x1000)) (ofs % 0x1000)
      else readSo s ofs
    | 9 => readMm s ofs
    | 10 => readTr s ofs
    | 11 => readFb s ofs
    | 12 => readHp s ofs
    | 13 => readSc s ofs
    | 14 => readPm s ofs
    | 15 => readDb s ofs
    | c => readCore s c (ofs / 0x400000) (ofs % 0x400000)

end Sys2Proof.Machine
end

