-- ==== Sys2Proof/Machine/Access.lean ====
section
/-! DEFINITION. Control accesses: who may reach which register (R37, R38), what stops an access (R10, R26, R27, R436, R443),
captured quantities (R9, R102, R471, R480), and what a write does in every register (R5 to R8 and the register tables). -/

namespace Sys2Proof.Machine

/-! ### Requesters -/

/-- The number under which a requester's captures are kept. -/
def whoCode : Requester → Nat
  | .session n => n.val
  | .firmware => 64

/-- The level of a requester: an open session's, or the firmware's while it runs; none where no access can be made. -/
def requesterLevel (s : State) (who : Requester) : Option Level :=
  match who with
  | .session n => if (linkGet s (.sess n)).state = .opened then some (linkGet s (.sess n)).level else none
  | .firmware => if s.boot.step = .running then some .firmware else none

/-- The access is the device owner's. -/
def fromOwner (s : State) (who : Requester) : Bool := requesterLevel s who = some .owner

/-! ### Scope of a partition owner (Table 2-3, R38) -/

/-- Core nn belongs to the partition. -/
def ownCore (s : State) (p : Fin 16) (nn : Nat) : Bool := decide (corePart s nn = p.val)

/-- Scope in QS: the slot and layer windows only while their selectors name what is the partition's (R274). -/
def qsScope (s : State) (p : Fin 16) (ofs : Nat) : Bool :=
  if ofs < 0x10000 then
    decide (ofs / 0x1000 = p.val) &&
    (!inSlotWindow (ofs % 0x1000) || (slotSel s p).isSome) &&
    (!(decide (0x204 ≤ ofs % 0x1000) && decide (ofs % 0x1000 < 0x210)) || (layerSel s p).isSome)
  else decide (0x8000000 ≤ ofs) && ownCore s p ((ofs - 0x8000000) / 0x100)

/-- Scope in SQ: its own sequencers and the objects of its run. -/
def sqScope (s : State) (p : Fin 16) (ofs : Nat) : Bool :=
  if ofs < 0x200000 then decide ((ofs - 0x100000) / 0x1000 = p.val)
  else decide (ofs < 0x300000) && soInRun (s.part p) ((ofs - 0x200000) / 8)

/-- The address lies in the scope of a partition owner. -/
def inScope (s : State) (p : Fin 16) (a : Nat) : Bool :=
  let ofs := a % 0x10000000
  match a / 0x10000000 with
  | 0 => ofs = 0
  | 6 => qsScope s p ofs
  | 7 => sqScope s p ofs
  | 12 => decide (ofs = 0x100 + 4 * p.val)
  | 15 => decide (ofs / 0x100 = 0x40 + p.val)
  | c => ((decide (1 ≤ c) && decide (c ≤ 5)) || c = 8) && ownCore s p (ofs / 0x400000)

/-! ### What stops an access -/

/-- An access goes, completes at once without effect, or waits for a domain to wake. -/
inductive Gate where
  | go
  | stop (status : Nat)
  | sleep (dom : Nat)
  deriving DecidableEq, Repr

/-- Domains that keep power in thermal hold (R442). -/
def keptDom (d : Nat) : Bool := !tripDoms.contains d

/-- The state of the block that an address reaches: thermal hold, reset, shedding, sleep. The reset controller itself always
answers (R407). DESIGN CHOICE (assumption 83): a block that is both held in reset (R27) and in a shed domain (R26) answers
IN_RESET. A domain whose PLL has failed cannot wake, and its blocks answer IN_RESET (R421, Table 16-4, step 5). -/
def blkGate (s : State) (a : Nat) : Gate :=
  match blkOf a with
  | none => .go
  | some b =>
    let d := blkDom b
    if b = 0x3800 then .go
    else if thermalHold s && !keptDom d then .stop 3
    else if (blkGet s b).inReset then .stop 3
    else if isShed s d then .stop 0xC
    else if domOn s d then .go
    else if domFailed s d then .stop 3 else .sleep d

/-- What meets an access (Tables 2-3, 2-7, 14-7). -/
def gateOf (s : State) (level : Level) (a : Nat) : Gate :=
  match level with
  | .tenant p =>
    if (s.part p).state = .scrubbing then .stop 4
    else if inScope s p a && (readReg s a).isSome then blkGate s a else .stop 1
  | _ => if (readReg s a).isSome then blkGate s a else .stop 2

/-! ### Captured quantities -/

/-- Number of the count whose LO word has this offset, among n counts from offset lo. -/
def loIndex (lo n ofs : Nat) : Option Nat :=
  if lo ≤ ofs ∧ ofs < lo + 8 * n ∧ (ofs - lo) % 8 = 0 then some ((ofs - lo) / 8) else none

/-- A 48-bit count with LO at this address: some, with the register and bit that its wrap sets, if there is one. -/
def countLo (a : Nat) : Option (Option (Nat × Nat)) :=
  let ofs := a % 0x10000000
  let core := ofs % 0x400000
  let base := a - core
  let with_ := fun (r : Option Nat) (ovf : Nat) => r.map (fun i => some (ovf, i))
  let bare := fun (r : Option Nat) => r.map (fun _ => (none : Option (Nat × Nat)))
  match a / 0x10000000 with
  | 0 => bare (loIndex 0xC 1 ofs)
  | 1 => with_ (loIndex 0x10 8 core) (base + 0xC)
  | 2 => with_ (loIndex 0x20 9 core) (base + 0x10)
  | 3 => with_ (loIndex 0x10 4 core) (base + 4)
  | 4 => with_ (loIndex 0x20 8 core) (base + 4)
  | 5 => with_ (loIndex 0x10 5 core) (base + 4)
  | 6 => if 0x8000000 ≤ ofs then bare (loIndex 0 2 (ofs % 0x100)) else none
  | 7 => if ofs % 0x1000 < 0x300 then none else bare (loIndex 0x320 2 (ofs % 0x1000))
  | 8 =>
    if 0x1000 ≤ core then (if core % 0x20 = 8 then some (some (a - 4, 15)) else bare (loIndex 0x10 1 (core % 0x20)))
    else with_ (loIndex 0x408 4 core) (base + 0x400)
  | 9 =>
    if 0x8000000 ≤ ofs then with_ (loIndex 0x10 6 (ofs % 0x100)) (a - ofs % 0x100 + 4)
    else if 0x1000 ≤ ofs then with_ (loIndex 8 3 (ofs % 0x40)) (a - ofs % 0x40 + 4)
    else with_ (loIndex 8 4 (ofs % 0x40)) (a - ofs % 0x40 + 4)
  | 10 =>
    if ofs < 0x1000 then with_ (loIndex 0x10 3 (ofs % 0x40)) (a - ofs % 0x40 + 8) else bare (loIndex 0x18 3 (ofs % 0x40))
  | 11 => if ofs < 0x1000 then with_ (loIndex 8 10 (ofs % 0x80)) (a - ofs % 0x80 + 4) else none
  | 12 => if ofs < 0x1000 then with_ (loIndex 8 10 (ofs % 0x80)) (a - ofs % 0x80 + 4) else none
  | 14 => bare ((loIndex 0x20 4 ofs).or (loIndex 0x240 6 ofs))
  | 15 =>
    if ofs < 0x2000 then bare (loIndex 0x20 3 ofs)
    else if ofs < 0x4000 then bare (loIndex 8 2 (ofs % 0x20))
    else if ofs < 0x5000 then bare (loIndex 8 7 (ofs % 0x100)) else bare (loIndex 0x5000 16 ofs)
  | _ => none

/-- The registers that a read of this address captures, with the bits captured in each. -/
def capturedBy (a : Nat) : List (Nat × Word) :=
  let all := 0xFFFFFFFF#32
  let ofs := a % 0x10000000
  let c := a / 0x10000000
  if c = 8 ∧ 0x1000 ≤ ofs % 0x400000 ∧ ofs % 0x20 = 8 then [(a + 4, all), (a - 4, mask32 31 15)]
  else if c = 15 ∧ 0x2000 ≤ ofs ∧ ofs < 0x2700 then
    (if ofs % 0x20 = 8 then [(a + 4, all), (a + 8, all), (a + 0xC, all), (a - 4, mask32 31 16)] else [])
  else if c = 15 ∧ 0x1000 ≤ ofs ∧ ofs < 0x1400 then
    (if ofs % 0x40 = 0x10 ∨ ofs % 0x40 = 0x28 ∨ ofs % 0x40 = 0x38 then [(a + 4, all)] else [])
  else if c = 13 ∧ (ofs = 0x104 ∨ ofs = 0x180) then (List.range 11).map (fun i => (a + 4 + 4 * i, all))
  else if c = 7 ∧ 0x200000 ≤ ofs ∧ ofs < 0x300000 then (if ofs % 8 = 0 then [(a + 4, mask32 31 16)] else [])
  else if c = 7 ∧ ofs / 0x100000 = 1 ∧ ofs % 0x1000 < 0x300 then
    (if ofs % 0x100 = 4 ∨ ofs % 0x100 = 0x18 then [(a + 4, all)] else [])
  else if c = 7 ∧ ofs / 0x100000 = 1 ∧ ofs % 0x1000 = 0x314 then [(a + 4, mask32 15 0)]
  else if c = 6 ∧ ofs < 0x10000 then
    (if ofs % 0x1000 = 0x300 then [(a + 4, all)] else if ofs % 0x1000 = 0x20 then [(a + 4, mask32 15 0)] else [])
  else if (countLo a).isSome then [(a + 4, all)] else []

/-- Key of a captured register. -/
def capKey (who : Requester) (a : Nat) : Nat := whoCode who * 2 ^ 32 + a

/-- The mask under which a register is captured: where its captor takes only some bits. -/
def capMask (a : Nat) : Word :=
  let ofs := a % 0x10000000
  let c := a / 0x10000000
  if c = 8 ∧ 0x1000 ≤ ofs % 0x400000 ∧ ofs % 0x20 = 4 then mask32 31 15
  else if c = 15 ∧ 0x2000 ≤ ofs ∧ ofs < 0x2700 ∧ ofs % 0x20 = 4 then mask32 31 16
  else if c = 7 ∧ 0x200000 ≤ ofs ∧ ofs < 0x300000 then mask32 31 16
  else if c = 7 ∧ ofs % 0x1000 = 0x318 then mask32 15 0
  else if c = 6 ∧ ofs % 0x1000 = 0x24 then mask32 15 0 else 0xFFFFFFFF#32

/-- SQ_SO_INFO gives its captured EPOCH once (R102). -/
def capOnce (a : Nat) : Bool := decide (a / 0x100000 = 0x702)

/-- A read that goes: its value, and the captures it makes and uses (R9). Each read takes a free value of its own for what the
registers show of an engine's progress (assumption 81). -/
def doRead (s : State) (who : Requester) (a : Nat) : Word × State :=
  let w := (readReg s a).getD 0#32
  let c := Sparse.get 0 s.caps (capKey who a)
  let v := if c = 0 then w else merge32 w (capMask a) (BitVec.ofNat 32 (c - 1))
  let caps := if capOnce a then Sparse.set 0 s.caps (capKey who a) 0 else s.caps
  let caps := (capturedBy a).foldl (fun m e =>
    Sparse.set 0 m (capKey who e.1) (((readReg s e.1).getD 0#32 &&& e.2).toNat + 1)) caps
  (v, { s with caps := caps, freeCount := s.freeCount + 1 })

/-! ### Writes: the access types (R5 to R7) -/

/-- The bits of `m` take the value written. -/
def putBits (s : State) (a : Nat) (m v : Word) : State := setRaw s a (merge32 (rawReg s a) m v)

/-- W1C: the ones written clear their bits. -/
def clearBits (s : State) (a : Nat) (m v : Word) : State := setRaw s a (rawReg s a &&& ~~~(v &&& m))

/-- A field takes its value if it is in range, else it stays. -/
def putField (s : State) (a hi lo : Nat) (v : Word) (ok : Nat → Bool) : State :=
  if ok (field v hi lo) then putBits s a (mask32 hi lo) v else s

/-- A field with a range, whose refused values set a bit of an event register. -/
def putChecked (s : State) (a hi lo : Nat) (v : Word) (ok : Nat → Bool) (ev bit : Nat) : State :=
  if ok (field v hi lo) then putBits s a (mask32 hi lo) v else postBit s ev bit

/-- A register whose writable fields are all RWL under the LOCK bit of `lockReg` (R6). -/
def lockedWrite (s : State) (lockReg : Nat) (f : State → State) : State :=
  if flag (rawReg s lockReg) 31 then bump s 0xC none 1 else f s

/-- Bits n - 1 .. 0. -/
def low (n : Nat) : Word := mask32 (n - 1) 0

/-! ### Writes by subsystem -/

/-- Registers of a core. -/
def writeCore (s : State) (code nn ofs : Nat) (v : Word) : State :=
  let a := coreReg code nn ofs
  match code, ofs with
  | 1, 0xC => clearBits s a (low 8) v
  | 2, 0x10 => clearBits s a (low 9) v
  | 3, 0x4 => clearBits s a (low 4) v
  | 4, 0x4 => clearBits s a (low 8) v
  | 4, 0x8 => putBits s a (mask32 31 31 ||| low 10) v
  | 5, 0x4 => clearBits s a (low 5) v
  | 8, 0x400 => clearBits s a (low 4) v
  | _, _ => s

/-- Event codes of Table 19-1. -/
def eventCodes : List Nat :=
  [0x01, 0x02, 0x03, 0x04, 0x10, 0x11, 0x12, 0x13, 0x20, 0x21, 0x22, 0x30, 0x31, 0x40, 0x41, 0x50, 0x51, 0x52, 0x60]

/-- Object n may take samples of core nn's counters: it lies in the run of the core's partition (Table 19-4). -/
def sampleSoOk (s : State) (nn n : Nat) : Bool :=
  let p := corePart s nn
  decide (p < 16) && soInRun (s.part (Fin.ofNat 16 p)) n

/-- Set a half of a 48-bit quantity. -/
def setHalf (s : State) (lo : Nat) (high : Bool) (v : Word) : State :=
  let w := count s lo
  let n := if high then v.toNat % 65536 * 2 ^ 32 + w % 2 ^ 32 else w / 2 ^ 32 * 2 ^ 32 + v.toNat
  { s with counts := Sparse.set 0 s.counts lo n }

/-- DB_CNT_LO completes a write of the 48-bit VALUE with the held high part (R470). -/
def completeCounter (s : State) (who : Requester) (nn j : Nat) (v : Word) : State :=
  let a := cntBase nn j
  let key := capKey who (a + 0xC)
  let held := Sparse.get 0 s.heldHi key
  let high := if held = 0 then count s (a + 8) / 2 ^ 32 else (held - 1) % 65536
  let s := { s with heldHi := Sparse.set 0 s.heldHi key 0, counts := Sparse.set 0 s.counts (a + 8) (high * 2 ^ 32 + v.toNat) }
  setRaw s (a + 4) (setField (rawReg s (a + 4)) 31 16 ((field (rawReg s (a + 4)) 31 16 + 1) % 65536))

/-- The programmable counters (Tables 19-2 to 19-4). -/
def writeCnt (s : State) (who : Requester) (nn ofs : Nat) (v : Word) : State :=
  let j := ofs / 0x20
  let a := cntBase nn j
  match ofs % 0x20 with
  | 0x0 => putField (putBits s a (mask32 31 24 ||| low 16) v) a 23 16 v (fun c => eventCodes.contains c)
  | 0x4 => putField (clearBits s (a + 4) (mask32 15 15) v) (a + 4) 11 0 v (sampleSoOk s nn)
  | 0x8 => completeCounter s who nn j v
  | 0xC => { s with heldHi := Sparse.set 0 s.heldHi (capKey who (a + 0xC)) (v.toNat + 1) }
  | 0x10 => setHalf s (a + 0x10) false v
  | 0x14 => setHalf s (a + 0x10) true v
  | _ => s

/-- The partition's trace registers (R478). -/
def writeTrace (s : State) (p : Fin 16) (ofs : Nat) (v : Word) : State :=
  let a := sqReg p.val ofs
  let x := s.part p
  let idle := !(x.state = .running || x.state = .stopping)
  let base := field (rawReg s (sqReg p.val 0x318)) 15 0 * 2 ^ 32 + (rawReg s (sqReg p.val 0x314)).toNat
  let size := field (rawReg s (sqReg p.val 0x31C)) 15 0 * 4096
  let fits := decide (base + size ≤ x.mem.pages.length * frameBytes)
  match ofs with
  | 0x310 => putField (putBits s a (mask32 31 27) v) a 26 26 v (fun d => d = 0 || fits)
  | 0x314 => if idle then putBits s a (mask32 31 12) v else s
  | 0x318 => if idle then putBits s a (low 16) v else s
  | 0x31C => if idle then putField s a 15 0 v (fun n => n ≠ 0) else s
  | _ => s

/-- SQ: the trace registers, and WRAP of a sync object. -/
def writeSq (s : State) (ofs : Nat) (v : Word) : State :=
  if 0x100000 ≤ ofs ∧ ofs < 0x110000 then writeTrace s (Fin.ofNat 16 ((ofs - 0x100000) / 0x1000)) (ofs % 0x1000) v
  else if 0x200000 ≤ ofs ∧ ofs < 0x208000 ∧ ofs % 8 = 4 then
    let n := (ofs - 0x200000) / 8
    let o := soGet s n
    soSet s n { o with wrap := o.wrap && !flag v 15 }
  else s

/-! ### Writes of QS (R251, R253, R274) -/

/-- A positive finite SC16 code (R251). -/
def scaleOk (n : Nat) : Bool := decide (1 ≤ n) && decide (n ≤ 0x7F7F)

/-- +0 or a positive finite FP32 value (R251). -/
def histOk (n : Nat) : Bool := decide (n < 0x7F800000)

/-- BAD_WRITE (Table 10-12). -/
def badQs (s : State) (p : Fin 16) : State := postBit s (qsReg p.val 4) 3

/-- Put a slot back, with BAD_WRITE when a field was refused. -/
def putSlot (s : State) (p : Fin 16) (n : Nat) (x : Slot) (bad : Bool) : State :=
  let s := { s with slots := Sparse.set Slot.reset s.slots n x }
  if bad then badQs s p else s

/-- Table 10-14, field by field: a reserved STREAM and a CRUST_N above 64 are refused. -/
def slotCfg (old v : Word) : Word × Bool :=
  let badStream := decide (field v 29 28 = 3)
  let badCrust := decide (64 < field v 18 12)
  let m := mask32 31 1
  let m := if badStream then m &&& ~~~(mask32 29 28) else m
  let m := if badCrust then m &&& ~~~(mask32 18 12) else m
  (merge32 old m v, badStream || badCrust)

/-- Offsets of the slot window that accept writes: the slot state of Table 10-1, which R253 protects. -/
def slotGuarded (ofs : Nat) : Bool := [0x14, 0x18, 0x1C, 0x20, 0x24, 0x44].contains ofs || decide (0x80 ≤ ofs)

/-- One write of the slot window: the slot after it, and whether a value was refused. -/
def slotWrite (x : Slot) (ofs : Nat) (v : Word) : Slot × Bool :=
  match ofs with
  | 0x14 => ({ x with cfg := (slotCfg x.cfg v).1 }, (slotCfg x.cfg v).2)
  | 0x18 => if scaleOk (field v 31 16) then ({ x with committed := field v 31 16 }, false) else (x, true)
  | 0x1C =>
    let a := scaleOk (field v 31 16)
    let b := scaleOk (field v 15 0)
    ({ x with init := if a then field v 31 16 else x.init, pinScale := if b then field v 15 0 else x.pinScale }, !(a && b))
  | 0x20 => ({ x with ctabLo := v &&& mask32 31 6 }, false)
  | 0x24 => ({ x with ctabHi := v }, false)
  | 0x44 => if field v 6 0 ≤ 64 then ({ x with listn := field v 6 0 }, false) else (x, true)
  | _ =>
    if 0x80 ≤ ofs ∧ ofs < 0x100 then
      let i := 2 * ((ofs - 0x80) / 4)
      ({ x with list := Sparse.set 0 (Sparse.set 0 x.list i (field v 15 0)) (i + 1) (field v 31 16) }, false)
    else if 0x100 ≤ ofs ∧ ofs < 0x180 then
      let k := (ofs - 0x100) / 8
      if !histOk v.toNat then (x, true)
      else if ofs % 8 = 0 then ({ x with histA := Sparse.set 0 x.histA k v.toNat }, false)
      else ({ x with histB := Sparse.set 0 x.histB k v.toNat }, false)
    else (x, false)

/-- A write of QS_LAYER: RUNG_CUR between START and CEIL. -/
def writeLayer (s : State) (p : Fin 16) (v : Word) : State :=
  match layerSel s p with
  | none => s
  | some l =>
    let x := s.part p
    let e := x.layerTable.getD l { tokens := 0, k := 0, startA8 := false, ceiling := 0, coexist := 0 }
    let r := field v 31 30
    if startRung e ≤ r ∧ r ≤ e.ceiling then
      let layers := Sparse.modify Layer.zero x.layers l (fun y => { y with rungCur := r })
      s.setPart p { x with layers := layers }
    else badQs s p

/-- QS registers of a partition. -/
def writeQs (s : State) (p : Fin 16) (ofs : Nat) (v : Word) : State :=
  let x := s.part p
  let a := qsReg p.val ofs
  let runs := x.state = .running || x.state = .stopping
  if x.state = .free ∨ x.state = .scrubbing then s
  else if inSlotWindow ofs then
    match slotSel s p with
    | none => s
    | some n =>
      if runs && slotGuarded ofs then badQs s p
      else
        let r := slotWrite (Sparse.get Slot.reset s.slots n) ofs v
        putSlot s p n r.1 r.2
  else match ofs with
    | 0x4 => clearBits s a (low 4) v
    | 0x8 => setRaw s a v
    | 0x10 => putBits s a (low 14) v
    | 0x200 => putBits s a (low 10) v
    | 0x204 => if runs && (layerSel s p).isSome then badQs s p else writeLayer s p v
    | 0x308 => if runs then badQs s p else setRaw s a v
    | _ => s

/-! ### Writes of MM, TR, FB and HP -/

/-- MM registers (Tables 13-10 to 13-15, 12-9). -/
def writeMm (s : State) (ofs : Nat) (v : Word) : State :=
  let a := 0x90000000 + ofs
  if ofs = 0 then
    lockedWrite s a (fun s => putField (putBits s a (mask32 31 31 ||| low 2) v) a 15 8 v (fun h => h ≠ 0))
  else if ofs = 4 then clearBits s a (low 3) v
  else if 0x100 ≤ ofs ∧ ofs < 0x200 ∧ ofs % 0x40 = 4 then clearBits s a (low 4) v
  else if 0x1000 ≤ ofs ∧ ofs < 0x1900 ∧ ofs % 0x40 = 4 then clearBits s a (low 3) v
  else if 0x8000000 ≤ ofs ∧ ofs < 0x8000400 ∧ ofs % 0x100 = 4 then clearBits s a (low 6) v
  else if 0x8010000 ≤ ofs ∧ ofs < 0x8010040 then clearBits s a (low 4) v
  else s

/-- TR registers (Tables 13-16, 13-17). -/
def writeTr (s : State) (ofs : Nat) (v : Word) : State :=
  let a := 0xA0000000 + ofs
  match ofs with
  | 0x0 => putField (putBits s a (mask32 15 8) v) a 7 0 v (fun n => n ≠ 0)
  | 0x4 => clearBits s a (low 3) v
  | 0x2000 => putBits s a (mask32 31 28 ||| low 27) v
  | 0x2008 => putBits s a (mask32 31 28 ||| low 10) v
  | 0x2014 => putBits s a (mask32 31 28 ||| low 10) v
  | _ => if 0x100 ≤ ofs ∧ ofs < 0x200 ∧ ofs % 0x40 = 8 then clearBits s a (low 3) v else s

/-- FB registers (Tables 14-12 to 14-14). -/
def writeFb (s : State) (ofs : Nat) (v : Word) : State :=
  let a := 0xB0000000 + ofs
  match ofs with
  | 0x0 => lockedWrite s a (fun s =>
      putField (putBits s a (mask32 31 31 ||| low 16) v) a 24 16 v (fun n => decide (16 ≤ n) && decide (n ≤ 256)))
  | 0x4 => lockedWrite s 0xB0000000 (fun s => putField (putBits s a (low 16) v) a 31 16 v (fun n => n ≠ 0))
  | 0x1000 => putBits s a (low 11) v
  | _ => if 0x100 ≤ ofs ∧ ofs < 0x700 ∧ ofs % 0x80 = 4 then clearBits s a (low 10) v else s

/-- HP registers (Tables 14-12, 14-17). -/
def writeHp (s : State) (ofs : Nat) (v : Word) : State :=
  let a := 0xC0000000 + ofs
  match ofs with
  | 0x0 => lockedWrite s a (fun s =>
      let s := putField (putBits s a (mask32 31 31 ||| low 16) v) a 19 18 v (fun n => n ≠ 3)
      putField s a 28 20 v (fun n => decide (16 ≤ n) && decide (n ≤ 248)))
  | 0x1000 => putBits s a (low 6) v
  | _ => if 0x200 ≤ ofs ∧ ofs < 0x300 ∧ ofs % 0x80 = 4 then clearBits s a (low 10) v else s

/-! ### Writes of SC -/

/-- SC registers (Table 15-11): the state after and the status. Fuses and flash are the device owner's (R389, R397). -/
def writeSc (s : State) (owner : Bool) (ofs : Nat) (v : Word) : State × Nat :=
  let a := 0xD0000000 + ofs
  if ofs = 0xC then (if owner then writeFuseCmd s v else (s, 1))
  else if ofs = 0x100 then (writeAttestCtl s v, 0)
  else if ofs = 0x200 then (if owner || !flag v 31 then writeFlashCtl s v else (s, 1))
  else if 0x104 ≤ ofs ∧ ofs < 0x134 then (setRaw s a v, 0)
  else if ofs = 0x204 then (putBits s a (low 25) v, 0)
  else if 0x300 ≤ ofs ∧ ofs < 0x400 then (setRaw s a v, 0)
  else (s, 0)

/-! ### Writes of PM -/

/-- BAD_REQ of PM_EVENTS. -/
def badReq (s : State) : State := postBit s 0xE0000004 2

/-- PM_CFG (Table 16-12). -/
def writePmCfg (s : State) (v : Word) : State :=
  let a := 0xE0000000
  lockedWrite s a (fun s =>
    let s := putField (putBits s a (mask32 31 30) v) a 23 8 v (fun n => decide (100 ≤ n))
    putField s a 4 0 v (fun n => decide (5 ≤ n) && decide (n ≤ 18)))

/-- PM_PWR_CFG (Tables 17-2, 17-10): a write of CAP or WINDOW restarts P_W (R428). -/
def writePwrCfg (s : State) (v : Word) : State :=
  let a := 0xE0000200
  let within := fun (lo hi n : Nat) => decide (lo ≤ n) && decide (n ≤ hi)
  lockedWrite s a (fun s =>
    let s := putBits s a (mask32 31 31) v
    let s := putChecked s a 30 27 v (within 1 10) 0xE0000004 2
    let s := putChecked s a 26 24 v (within 0 5) 0xE0000004 2
    let s := putChecked s a 23 12 v (within 1000 2400) 0xE0000004 2
    let s := putChecked s a 11 0 v (within 800 1800) 0xE0000004 2
    setPower s (fun w => { w with periods := 0 }))

/-- PM_WDOG_KICK (R404). -/
def kickWatchdog (s : State) (v : Word) : State :=
  if v = 0x00C35AA5#32 then { s with boot := { s.boot with wdStart := s.tick } } else s

/-- PM_REMOTE_RESET: a device-owner session asks for a reset (R405). -/
def askRemoteReset (s : State) (who : Requester) (v : Word) : State :=
  if fromOwner s who && decide (field v 15 0 = 0xA5C3) then { s with boot := { s.boot with remoteDue := true } } else s

/-- PM_PART_RESET (R406); it waits while a dump of the partition is captured (Table 18-7). -/
def askPartReset (s : State) (v : Word) : State :=
  let p : Fin 16 := Fin.ofNat 16 (field v 3 0)
  if field v 31 16 ≠ 0xA5C3 then s
  else if (s.part p).state = .free ∨ (s.part p).state = .scrubbing then badReq s
  else if s.dump.busy = some p then s.modPart p (fun x => { x with resetDue := true })
  else partitionReset s p

/-- PM_OP (R419, R420). -/
def writeOp (s : State) (v : Word) : State := startMove (putBits s 0xE0000018 (mask32 31 29) v)

/-- PM_BLK_b (Table 16-15): MODE and DRAIN_TO, RST_ERR, then the source. -/
def writeBlk (s : State) (b : Nat) (v : Word) : State :=
  let s := blkMod s b (fun x => { x with
    mode := if flag v 30 = classDrain b then none else some (flag v 30), drainTo := field v 29 22, err := x.err && !flag v 15 })
  setSoft s b (flag v 31)

/-- PM registers. -/
def writePm (s : State) (who : Requester) (ofs : Nat) (v : Word) : State :=
  let a := 0xE0000000 + ofs
  if 0x100000 ≤ ofs then writeBlk s ((ofs - 0x100000) / 4) v
  else match ofs with
    | 0x0 => writePmCfg s v
    | 0x4 => clearBits s a (low 3) v
    | 0xC => kickWatchdog s v
    | 0x10 => askRemoteReset s who v
    | 0x14 => askPartReset s v
    | 0x18 => writeOp s v
    | 0x200 => writePwrCfg s v
    | 0x224 => clearBits s a (low 8) v
    | 0x230 => if fromOwner s who then writeThermCtl s v else badReq s
    | _ => s

/-! ### Writes of DB -/

/-- BAD_WRITE of DB_EVENTS. -/
def badDb (s : State) : State := postBit s 0xF0000000 6

/-- A watchdog period from 1 ms to 600 s (R454). -/
def periodOk (n : Nat) : Bool := decide (1 ≤ n) && decide (n ≤ 600000)

/-- START of DB_DUMP_CTL: a FAULTED partition is captured; a capture finds the area free, or is lost (R462). -/
def askDump (s : State) : State :=
  let p : Fin 16 := Fin.ofNat 16 (field (rawReg s 0xF000000C) 27 24)
  if (s.part p).state = .faulted then startDump s p else badDb s

/-- RELEASE of DB_DUMP_CTL: the held dump is discarded (R464). -/
def dropDump (s : State) : State :=
  if s.dump.held.isSome then { s with dump := { s.dump with held := none, len := 0, data := [] } } else s

/-- DB_DUMP_CTL (Table 18-10); a reserved DEPTH leaves the field. -/
def writeDumpCtl (s : State) (v : Word) : State :=
  let a := 0xF000000C
  let s := putField (putBits s a (mask32 27 24) v) a 23 22 v (fun d => d ≠ 3)
  let s := if flag v 30 then dropDump s else s
  if flag v 31 then askDump s else s

/-- DB_MON_CFG (R479): a write of WINDOW advances EPOCH. -/
def writeMonCfg (s : State) (m : Nat) (v : Word) : State :=
  let a := 0xF0002000 + 0x20 * m
  let s := putBits s a (mask32 31 26) v
  if 1 ≤ field v 19 0 ∧ field v 19 0 ≤ 1000000 then
    let s := putBits s a (low 20) v
    setRaw s (a + 4) (at32 16 ((field (rawReg s (a + 4)) 31 16 + 1) % 65536))
  else s

/-- DB module registers. -/
def writeDb (s : State) (ofs : Nat) (v : Word) : State :=
  let a := 0xF0000000 + ofs
  if ofs = 0 then clearBits s a (low 7) v
  else if ofs = 4 then
    lockedWrite s a (fun s => putChecked (putBits s a (mask32 31 31) v) a 19 0 v periodOk 0xF0000000 6)
  else if ofs = 8 then lockedWrite s 0xF0000004 (fun s => putChecked s a 19 0 v periodOk 0xF0000000 6)
  else if ofs = 0xC then writeDumpCtl s v
  else if 0x2000 ≤ ofs ∧ ofs < 0x2700 then
    (if ofs % 0x20 = 0 then writeMonCfg s ((ofs - 0x2000) / 0x20) v else if ofs % 0x20 = 0x18 then setRaw s a v else s)
  else s

/-! ### Accesses -/

/-- A write that goes: the state after and its status. -/
def doWrite (s : State) (who : Requester) (a : Nat) (v : Word) : State × Nat :=
  let ofs := a % 0x10000000
  let core := ofs % 0x400000
  match a / 0x10000000 with
  | 6 => (if ofs < 0x10000 then writeQs s (Fin.ofNat 16 (ofs / 0x1000)) (ofs % 0x1000) v else s, 0)
  | 7 => (writeSq s ofs v, 0)
  | 9 => (writeMm s ofs v, 0)
  | 10 => (writeTr s ofs v, 0)
  | 11 => (writeFb s ofs v, 0)
  | 12 => (writeHp s ofs v, 0)
  | 13 => writeSc s (fromOwner s who) ofs v
  | 14 => (writePm s who ofs v, 0)
  | 15 => (writeDb s ofs v, 0)
  | 0 => (s, 0)
  | c => (if c = 8 ∧ 0x1000 ≤ core then writeCnt s who (ofs / 0x400000) (core - 0x1000) v
          else writeCore s c (ofs / 0x400000) core v, 0)

/-- An access of a requester is held: a later one of the same requester waits behind it (R28). -/
def waitsBehind (s : State) (who : Requester) : Bool := s.accs.any (fun h => h.who = who)

/-- Hold an access until its domain is on (R26). -/
def holdAcc (s : State) (h : HeldAcc) (dom : Option Nat) : State :=
  let s := { s with accs := s.accs ++ [h] }
  match dom with
  | some d => demandWake s d
  | none => s

/-- A control write of a requester. -/
def ctlWrite (s : State) (who : Requester) (addr value : Word) : State :=
  match requesterLevel s who with
  | none => s
  | some level =>
    let h : HeldAcc := { who := who, frame := none, addr := addr, value := value, done := [] }
    if waitsBehind s who then holdAcc s h none
    else match gateOf s level addr.toNat with
      | .go => (doWrite s who addr.toNat value).1
      | .stop _ => s
      | .sleep d => holdAcc s h (some d)

/-! ### Answers of REG_READ, REG_WRITE and COUNTER_READ; their layouts are the model's beyond Table 19-5 (assumption 20) -/

/-- Accesses that a frame asks for: (address, value) pairs, or the addresses of COUNTER_READ. -/
def accessesOf (m : RxMsg) : List (Word × Word) :=
  let bytes := m.payload.flatten
  let word := fun (i : Nat) => BitVec.ofNat 32 (leAt bytes (4 * i) 4)
  if m.op = 0x23 then (List.range (leAt m.ext 0 2)).map (fun i => (word i, 0#32))
  else (List.range (4 * m.payload.length)).map (fun i => (word (2 * i), word (2 * i + 1)))

/-- EPOCH that an address has (Tables 19-4, 19-9, 19-10, R102). -/
def epochOf (s : State) (a : Nat) : Nat :=
  let ofs := a % 0x10000000
  let info := fun (b : Nat) => field ((readReg s b).getD 0#32) 31 16
  if (countLo a).isSome ∧ a / 0x10000000 = 8 ∧ 0x1000 ≤ ofs % 0x400000 then info (a - a % 0x20 + 4)
  else if a / 0x10000000 = 15 ∧ 0x2000 ≤ ofs ∧ ofs < 0x2700 ∧ (countLo a).isSome then info (a - a % 0x20 + 4)
  else if a / 0x10000000 = 15 ∧ 0x4000 ≤ ofs ∧ ofs < 0x5000 then info (a - a % 0x100)
  else if a / 0x100000 = 0x702 ∧ a % 8 = 0 then info (a + 4) else 0

/-- The count has wrapped. -/
def wrapped (s : State) (a : Nat) : Bool :=
  match countLo a with
  | some (some (r, i)) => flag (rawReg s r) i
  | _ => false

/-- An entry of Table 19-5. -/
def counterEntry (s : State) (a status : Nat) (low : Word) : List Byte :=
  let value := if status = 0 ∧ (countLo a).isSome then count s a else low.toNat
  leBytes 6 value ++ leBytes 2 (if status = 0 then epochOf s a else 0) ++ leBytes 2 status ++
  leBytes 1 (if status = 0 ∧ wrapped s a then 1 else 0) ++ leBytes 1 0 ++ leBytes 4 s.tick

/-- The bytes that answer one access. -/
def entryOf (s : State) (op a status : Nat) (w : Word) : List Byte :=
  if op = 0x23 then counterEntry s a status w else leBytes 4 w.toNat ++ leBytes 4 status

/-- One access of a frame that goes. -/
def doAccess (s : State) (who : Requester) (op a : Nat) (v : Word) : List Byte × State :=
  if op = 0x21 then
    let r := doWrite s who a v
    (entryOf s op a r.2 v, r.1)
  else
    let r := doRead s who a
    (entryOf s op a 0 r.1, r.2)

/-- Make the accesses of a frame in order until one must wait: the entries so far, the state, and the domain it waits for. -/
def runAccesses (who : Requester) (op : Nat) :
    List (Word × Word) → List (List Byte) → State → List (List Byte) × State × Option (Nat × Word × Word)
  | [], done, s => (done, s, none)
  | (a, v) :: rest, done, s =>
    match requesterLevel s who with
    | none => (done, s, none)
    | some level =>
      match gateOf s level a.toNat with
      | .stop st => runAccesses who op rest (done ++ [entryOf s op a.toNat st 0#32]) s
      | .go =>
        let r := doAccess s who op a.toNat v
        runAccesses who op rest (done ++ [r.1]) r.2
      | .sleep d => (done, s, some (d, a, v))

/-- Frames of n granules with an extension; FIRST and LAST mark the message. -/
def sendGranules (s : State) (e : Endpoint) (op : Nat) (ext : Nat → List Byte) (bytes : List Byte) : State :=
  let size := 32 * max 1 (linkGet s e).maxLen
  let n := max 1 ((bytes.length + size - 1) / size)
  (List.range n).foldl (fun s i =>
    let fl := (if i = 0 then flFirst else 0) + (if i + 1 = n then flLast else 0)
    sendFrame s e op fl (some (granule32 (ext (size * i)))) (granulesOf ((bytes.drop (size * i)).take size))) s

/-- Answer a frame of accesses: REG_DATA, or READ_DATA and VERB_STATUS (R368, R473). -/
def answerAccesses (s : State) (n : Fin 64) (m : RxMsg) (done : List (List Byte)) : State :=
  let e := Endpoint.sess n
  if m.op = 0x23 then sendStatus (sendGranules s e 0x12 (fun o => leBytes 6 o) done.flatten) e m.psn 0
  else sendGranules s e 0x22 (fun _ => leBytes 4 m.psn) done.flatten

/-- Carry a frame's accesses on from those already made. -/
def stepAccesses (s : State) (n : Fin 64) (m : RxMsg) (done : List (List Byte)) : State :=
  let who := Requester.session n
  let r := runAccesses who m.op ((accessesOf m).drop done.length) done s
  match r.2.2 with
  | none => answerAccesses r.2.1 n m r.1
  | some (d, a, v) => holdAcc r.2.1 { who := who, frame := some m, addr := a, value := v, done := r.1 } (some d)

/-- A frame of accesses takes effect. -/
def frameAccesses (s : State) (n : Fin 64) (m : RxMsg) : State := stepAccesses s n m []

/-! ### Held accesses go on -/

/-- Try a held access again; one that still waits is kept in its place. -/
def retryAcc (s : State) (h : HeldAcc) : State :=
  if waitsBehind s h.who then { s with accs := s.accs ++ [h] }
  else match h.frame, h.who with
    | some m, .session n => stepAccesses s n m h.done
    | _, _ => ctlWrite s h.who h.addr h.value

/-- After a wake, a shed or a trip every held access is tried in order (R26, R28). -/
def retryAccs (s : State) : State := s.accs.foldl retryAcc { s with accs := [] }

/-! ### Rows that are writes of one register -/

/-- PM_WDOG_KICK. -/
def execPmWdogKick (who : Requester) (value : Word) (s : State) : Host.Outcome State Fault Refusal :=
  .next (ctlWrite s who 0xE000000C#32 value)

/-- PM_REMOTE_RESET. -/
def execPmRemoteReset (who : Requester) (value : Word) (s : State) : Host.Outcome State Fault Refusal :=
  .next (ctlWrite s who 0xE0000010#32 value)

/-- PARTITION_RESET: PM_PART_RESET with PART p. -/
def execPartitionReset (who : Requester) (p : Fin 16) (value : Word) (s : State) : Host.Outcome State Fault Refusal :=
  .next (ctlWrite s who 0xE0000014#32 (setField value 3 0 p.val))

/-- BLOCK_RESET_SET: PM_BLK_b with RST = 1. -/
def execBlockResetSet (who : Requester) (b : Nat) (value : Word) (s : State) : Host.Outcome State Fault Refusal :=
  .next (ctlWrite s who (BitVec.ofNat 32 (0xE0100000 + 4 * b)) (setBit value 31 true))

/-- BLOCK_RESET_CLEAR: PM_BLK_b with RST = 0. -/
def execBlockResetClear (who : Requester) (b : Nat) (value : Word) (s : State) : Host.Outcome State Fault Refusal :=
  .next (ctlWrite s who (BitVec.ofNat 32 (0xE0100000 + 4 * b)) (setBit value 31 false))

/-- PM_OP. -/
def execPmOp (who : Requester) (value : Word) (s : State) : Host.Outcome State Fault Refusal :=
  .next (ctlWrite s who 0xE0000018#32 value)

/-- PM_THERM_CTL. -/
def execPmThermCtl (who : Requester) (value : Word) (s : State) : Host.Outcome State Fault Refusal :=
  .next (ctlWrite s who 0xE0000230#32 value)

/-- DUMP_START: DB_DUMP_CTL with START = 1 and RELEASE = 0. -/
def execDumpStart (who : Requester) (value : Word) (s : State) : Host.Outcome State Fault Refusal :=
  .next (ctlWrite s who 0xF000000C#32 (setBit (setBit value 31 true) 30 false))

/-- DUMP_RELEASE: DB_DUMP_CTL with RELEASE = 1 and START = 0. -/
def execDumpRelease (who : Requester) (value : Word) (s : State) : Host.Outcome State Fault Refusal :=
  .next (ctlWrite s who 0xF000000C#32 (setBit (setBit value 31 false) 30 true))

/-- DB_CNT_WRITE: a write of a programmable counter's register. -/
def execDbCntWrite (who : Requester) (addr : Word) (value : Word) (s : State) : Host.Outcome State Fault Refusal :=
  let ofs := addr.toNat % 0x400000
  .next (if addr.toNat / 0x10000000 = 8 ∧ 0x1000 ≤ ofs ∧ ofs < 0x1200 then ctlWrite s who addr value else s)

/-- DB_MON_CFG: a write of a bandwidth monitor's configuration. -/
def execDbMonCfg (who : Requester) (addr : Word) (value : Word) (s : State) : Host.Outcome State Fault Refusal :=
  .next (if 0xF0002000 ≤ addr.toNat ∧ addr.toNat < 0xF0002700 ∧ addr.toNat % 0x20 = 0 then ctlWrite s who addr value else s)

/-- ATTEST_START: SC_ATTEST_CTL with START = 1. -/
def execAttestStart (who : Requester) (value : Word) (s : State) : Host.Outcome State Fault Refusal :=
  .next (ctlWrite s who 0xD0000100#32 (setBit value 31 true))

/-- SC_FLASH_CTL with START = 1 and an operation. -/
def flashStart (op : Nat) (value : Word) : Word := setField (setBit value 31 true) 25 24 op

/-- FLASH_READ. -/
def execFlashRead (who : Requester) (value : Word) (s : State) : Host.Outcome State Fault Refusal :=
  .next (ctlWrite s who 0xD0000200#32 (flashStart 0 value))

/-- FLASH_PROGRAM. -/
def execFlashProgram (who : Requester) (value : Word) (s : State) : Host.Outcome State Fault Refusal :=
  .next (ctlWrite s who 0xD0000200#32 (flashStart 1 value))

/-- FLASH_ERASE. -/
def execFlashErase (who : Requester) (value : Word) (s : State) : Host.Outcome State Fault Refusal :=
  .next (ctlWrite s who 0xD0000200#32 (flashStart 2 value))

/-- COMMIT_SVN: SC_FUSE_CMD with OP 1. -/
def execCommitSvn (who : Requester) (value : Word) (s : State) : Host.Outcome State Fault Refusal :=
  .next (ctlWrite s who 0xD000000C#32 (setField value 7 4 1))

/-- REVOKE_RSA: SC_FUSE_CMD with OP 2 and a key slot. -/
def execRevokeRsa (who : Requester) (k : Fin 4) (value : Word) (s : State) : Host.Outcome State Fault Refusal :=
  .next (ctlWrite s who 0xD000000C#32 (setField (setField value 7 4 2) 1 0 k.val))

/-- REVOKE_SLH: SC_FUSE_CMD with OP 3 and a key slot. -/
def execRevokeSlh (who : Requester) (k : Fin 4) (value : Word) (s : State) : Host.Outcome State Fault Refusal :=
  .next (ctlWrite s who 0xD000000C#32 (setField (setField value 7 4 3) 1 0 k.val))

/-- CONTROL_WRITE: a control write of any register. -/
def execControlWrite (who : Requester) (addr : Word) (value : Word) (s : State) : Host.Outcome State Fault Refusal :=
  .next (ctlWrite s who addr value)

end Sys2Proof.Machine
end

