-- ==== Sys2Proof/Machine/Receive.lean ====
section
/-! DEFINITION. Receiving Polsil frames (R354, R356 to R368, R374): decoding and discarding, the endpoint and its tag, the
receive window, placement on arrival and effect in PSN order; host reads, writes and signals of partition memory. -/

namespace Sys2Proof.Machine

/-! ### Decoding a frame (R356, R359) -/

/-- Granules decoded under correct-1, with the number that needed correction; none when one is uncorrectable. -/
def decodeGranules : List (List Byte) → Option (List (List Byte) × Nat)
  | [] => some ([], 0)
  | g :: gs =>
    match c256Decode .correct1 g, decodeGranules gs with
    | .clean d, some r => some (d :: r.1, r.2)
    | .corrected d, some r => some (d :: r.1, r.2 + 1)
    | _, _ => none

/-- Granules that a header asks for: itself, an extension, the payload and a trailer. -/
def granulesWanted (h : List Byte) : Nat :=
  let flags := leAt h 2 2
  1 + (if flags.testBit 2 then 1 else 0) + leAt h 22 2 + (if flags.testBit 3 then 2 else 0)

/-- The granules of a frame without the padding behind them; none when one is missing or uncorrectable. -/
def frameGranules (gs : List (List Byte)) : Option (List (List Byte) × Nat) :=
  match decodeGranules (gs.take 1) with
  | some ([h], _) =>
    let n := granulesWanted h
    if gs.length < n then none else decodeGranules (gs.take n)
  | _ => none

/-- The fields of a frame's granules (Table 14-4). -/
def msgOf (gs : List (List Byte)) : RxMsg :=
  let h := gs.headD []
  let flags := leAt h 2 2
  let e := if flags.testBit 2 then 1 else 0
  { op := leAt h 1 1, flags := flags, dconn := leAt h 4 2, dgen := leAt h 6 2, psn := leAt h 8 4, ack := leAt h 12 4,
    climit := leAt h 16 4, slimit := leAt h 20 2, sack := leAt h 24 4, ext := ((gs.drop 1).take e).flatten,
    payload := (gs.drop (1 + e)).take (leAt h 22 2), st := 0 }

/-- The trailer's tag is right under a key (R374). -/
def tagged (key : List Byte) (gs : List (List Byte)) (m : RxMsg) : Bool :=
  let n := gs.length - 2
  m.flags.testBit 3 && decide (slice (gs.drop n).flatten 0 48 = trailerTag key (gs.take n).flatten m.psn)

/-- Add to count j of the port of a code; the loop has no counts. -/
def countPort (s : State) (code j n : Nat) : State :=
  match portOfCode code with
  | some i => bumpPort s i j n
  | none => s

/-- Ask for a proof run of the port of a code (R359): fabric ports are 0 to 11, host port h is 12 + h. -/
def provePort (s : State) (code : Nat) : State :=
  match portOfCode code with
  | some i => requestProof s 6 (if i < 12 then i else 12 + (i - 12) / 4)
  | none => s

/-! ### Endpoints -/

/-- The endpoint that DCONN names; none for the firmware, OPEN's index and reserved values (Table 14-4). -/
def endpointOf (d : Nat) : Option Endpoint :=
  if d < 0x800 then some (.conn (Fin.ofNat 2048 d)) else if d < 0x840 then some (.sess (Fin.ofNat 64 d)) else none

/-- An OPEN arrives (R361, R394, R395). -/
def hearOpen (s : State) (code : Nat) (gs : List (List Byte)) (m : RxMsg) : State :=
  let h := helloOf m.ext
  if portMaxLen s code < m.payload.length then countPort s code 8 1
  else if h.session then openSession s code m h
  else if mgmtOnly s code then rejectOpen s h code m.psn 1
  else match respondent s code h with
    | none => s
    | some e =>
      let l := linkGet s e
      if l.authFull && !tagged l.key gs m then countPort s code 8 1 else openLink s e m h

/-- A frame fails its trailer check: at the sixteenth the connection breaks (R362). -/
def failAuth (s : State) (e : Endpoint) : State :=
  let s := linkMod s e (fun l => { l with authFails := l.authFails + 1 })
  if isSession e || decide ((linkGet s e).authFails < 16) then s else breakLink s e reasonAuth

/-! ### Host reads and writes of partition memory (R321, R341, R368) -/

/-- What stops a host read or write of n bytes at an address of partition number `part`: a status of Table 14-7, 0 for
none. -/
def hostStatus (s : State) (level : Level) (part a n : Nat) (write : Bool) : Nat :=
  let x := s.part (Fin.ofNat 16 part)
  let slot := Sparse.get Region.free x.mem.regions ((a - regionBase) / regionBytes)
  let other := match level with
    | .tenant p => decide (p.val ≠ part)
    | _ => false
  if other then 1
  else if 16 ≤ part ∨ x.state = .free then 6
  else if x.state = .scrubbing then 4
  else if !inRange x.mem a n then 8
  else if regionBase ≤ a then
    match slot.state with
    | .free => if write then 0 else 4
    | .opened => 0
    | .published => if write then 4 else 0
    | .retired => 4
  else 0

/-- The status of a stop inside a host read or write. -/
def stopStatus (t : Trap) : Nat :=
  match t.stop with
  | .mem _ _ _ _ => 0xD
  | _ => 8

/-- Write bytes stripe by stripe: a stripe that stops is not written, the others are (R321). None when one must wait, for a
page exchange or a zeroed frame (R336, R339). -/
def hostWrite (side : Side) (p : Fin 16) (a : Nat) (bytes : List Byte) : List (Nat × Nat) → State → Option (State × Nat)
  | [], s => some (s, 0)
  | st :: rest, s =>
    let one : Op Unit := do
      awaitPages p st.1 st.2
      awaitFrame p st.1
      writeStripe side p st.1 ((bytes.drop (st.1 - a)).take st.2)
    match Op.exec one s with
    | (.ok _, s) => hostWrite side p a bytes rest s
    | (.error t, s) =>
      if t.waits then none
      else (hostWrite side p a bytes rest s).map (fun r => (r.1, stopStatus t))

/-- Read granule by granule up to the first that cannot be had: the bytes, whether all came, and the state. -/
def hostGranules (side : Side) (id ofs a : Nat) : List (Nat × Nat) → State → List Byte × Bool × State
  | [], s => ([], true, s)
  | g :: rest, s =>
    let one : Op (List Byte) := do
      let d ← readGranule id (g.1 / 32 * 32) (a + (g.1 - ofs))
      crossed s (crossIn side (dieOf id ofs) (a + (g.1 - ofs))) d
    match Op.exec one s with
    | (.ok d, s) =>
      let r := hostGranules side id ofs a rest s
      ((d.drop (g.1 % 32)).take g.2 ++ r.1, r.2)
    | (.error _, s) => ([], false, s)

/-- Read bytes stripe by stripe up to the first granule that cannot be had. -/
def hostRead (side : Side) (p : Fin 16) : List (Nat × Nat) → State → List Byte × Bool × State
  | [], s => ([], true, s)
  | st :: rest, s =>
    let here := match locate (s.part p).mem st.1 with
      | .frame id ofs =>
        hostGranules side id ofs st.1 (granules ofs st.2) (countPage (countAccess s id ofs false true st.2) p st.1)
      | _ => (List.replicate st.2 0#8, true, s)
    if here.2.1 then
      let r := hostRead side p rest here.2.2
      (here.1 ++ r.1, r.2)
    else here

/-- A frame of a host WRITE is placed (R364): its status, or none where it must wait. The extension holds the address at bytes
0 to 5 and the partition at byte 6 (Table 14-6). -/
def placeWrite (s : State) (n : Fin 64) (m : RxMsg) : Option (State × Nat) :=
  let l := linkGet s (.sess n)
  let a := leAt m.ext 0 6
  let part := leAt m.ext 6 1
  let bytes := m.payload.flatten
  if mgmtOnly s l.port then some (s, 1) else
  match hostStatus s l.level part a bytes.length true with
  | 0 => hostWrite (.io (portDie l.port)) (Fin.ofNat 16 part) a bytes (stripes a bytes.length) s
  | st => some (s, st)

/-- Largest length of a READ or a DUMP_READ in granules. -/
def readMax : Nat := 2 ^ 20

/-- A host READ: READ_DATA frames, then VERB_STATUS (R321, R368). -/
def hostReadVerb (s : State) (n : Fin 64) (v : PartialMsg) : State :=
  let e := Endpoint.sess n
  let a := leAt v.ext 0 6
  let part := leAt v.ext 6 1
  let len := leAt v.ext 8 4
  if len = 0 ∨ readMax < len then sendStatus s e v.psn 9 else
  match hostStatus s (linkGet s e).level part a (32 * len) false with
  | 0 =>
    let r := hostRead (.io (portDie (linkGet s e).port)) (Fin.ofNat 16 part) (stripes a (32 * len)) s
    let s := r.2.2
    let s := if r.1 = [] then s else sendGranules s e 0x12 (fun o => leBytes 6 (a + o)) r.1
    sendStatus s e v.psn (if r.2.1 then 0 else 0xD)
  | st => sendStatus s e v.psn st

/-- A host SIGNAL (R98, R99): applied, or answered with the rejection code. -/
def hostSignal (s : State) (n : Fin 64) (v : PartialMsg) : State :=
  let e := Endpoint.sess n
  let l := linkGet s e
  let part := leAt v.ext 3 1
  let rso := leAt v.ext 0 2
  let other := match l.level with
    | .tenant p => decide (p.val ≠ part)
    | _ => false
  let st := if other then 1 else if 2 < leAt v.ext 2 1 then 9 else signalStatus s part rso
  let s := if st = 0 then applyRemote s rso (leAt v.ext 2 1) (leAt v.ext 4 4) else s
  sendStatus s e v.psn st

/-! ### The verbs of a session (Table 14-6) -/

/-- DUMP_READ (R464). -/
def dumpReadVerb (s : State) (n : Fin 64) (v : PartialMsg) : State :=
  let e := Endpoint.sess n
  let ofs := 256 * leAt v.ext 0 4
  let len := leAt v.ext 4 4
  if s.dump.held.isNone then sendStatus s e v.psn 4
  else if len = 0 ∨ readMax < len then sendStatus s e v.psn 9
  else if s.dump.len < ofs + 32 * len then sendStatus s e v.psn 8
  else
    sendStatus (sendGranules s e 0x12 (fun o => leBytes 6 (ofs + o)) (Sparse.getRun 0#8 s.dump.data ofs (32 * len))) e v.psn 0

/-- The verb comes from a sender that Table 14-6 does not name for it. -/
def verbDenied (s : State) (n : Fin 64) (v : PartialMsg) : Bool :=
  let l := linkGet s (.sess n)
  let owner := l.level = .owner
  let of_ := fun (part : Nat) => match l.level with
    | .tenant p => decide (p.val = part)
    | _ => owner
  let record := leAt v.payload.flatten 0 1
  match v.op with
  | 0x10 => mgmtOnly s l.port | 0x11 => mgmtOnly s l.port | 0x13 => mgmtOnly s l.port
  | 0x20 => false | 0x21 => false | 0x23 => false
  | 0x24 => !owner | 0x30 => !owner | 0x34 => !owner
  | 0x25 => !of_ record | 0x26 => !of_ record | 0x31 => !of_ record
  | 0x32 => !of_ (leAt v.ext 0 1) | 0x33 => !of_ (leAt v.ext 0 1)
  | _ => true

/-- A mask of R396 under the session's key. -/
def hideMask (key : List Byte) (label : String) (psn : Nat) : List Byte := hmac384 key (ascii label ++ leBytes 4 psn)

/-- A job verb on a partition goes to its intake, a record that breaks its table too (R44); a partition number past 15 names no
intake and is BAD_RECORD at once. -/
def jobVerb (s : State) (n : Fin 64) (psn part : Nat) (j : JobVerb) : State :=
  let e := Endpoint.sess n
  let l := linkGet s e
  if part < 16 then
    verbIntake s (Fin.ofNat 16 part) { verb := j, reply := ⟨n, l.gen, psn⟩, tenant := decide (l.level ≠ .owner) }
  else sendStatus s e psn 9

/-- The job verb that a whole message spells, with its partition number; none for the other verbs. -/
def jobOf (key bytes : List Byte) (v : PartialMsg) : Option (Nat × JobVerb) :=
  let record := leAt bytes 0 1
  let target := leAt v.ext 0 1
  match v.op with
  | 0x30 => some (record, match parseAdmit bytes (hideMask key "ADMIT-CRED" v.psn) with
    | some r => .admission r
    | none => .malformed true record)
  | 0x31 => some (record, match parseLoad bytes with
    | some r => .load r
    | none => .malformed false record)
  | 0x32 => some (target, .start)
  | 0x33 => some (target, match leAt v.ext 1 1 with
    | 0 => .stop false
    | 1 => .stop true
    | _ => .malformed false target)
  | 0x34 => some (target, .release)
  | _ => none

/-- A verb whose message is whole takes effect. -/
def sessionVerb (s : State) (n : Fin 64) (v : PartialMsg) : State :=
  let e := Endpoint.sess n
  let key := (linkGet s e).key
  let bytes := v.payload.flatten
  if verbDenied s n v then sendReject s e v.psn 1 0
  else match jobOf key bytes v with
  | some j => jobVerb s n v.psn j.1 j.2
  | none => match v.op with
    | 0x10 => sendStatus s e v.psn v.status
    | 0x11 => hostReadVerb s n v
    | 0x13 => hostSignal s n v
    | 0x24 => dumpReadVerb s n v
    | 0x25 =>
      let r := connSet s bytes (hideMask key "CONN-SECRET" v.psn)
      sendStatus r.1 e v.psn r.2
    | 0x26 =>
      let r := commSet s bytes
      sendStatus r.1 e v.psn r.2
    | _ =>
      frameAccesses s n { op := v.op, flags := 0, dconn := 0, dgen := 0, psn := v.psn, ack := 0, climit := 0, slimit := 0,
                          sack := 0, ext := v.ext, payload := v.payload, st := 0 }

/-- A frame of a verb joins its message; a frame that continues none begins one. The placed data of WRITE is not kept. -/
def joinMsg (old : Option PartialMsg) (m : RxMsg) : PartialMsg :=
  let data := if m.op = 0x10 then [] else m.payload
  let new : PartialMsg := { op := m.op, psn := m.psn, status := m.st, ext := m.ext, payload := data }
  match old with
  | none => new
  | some v =>
    if m.flags.testBit 0 || decide (v.op ≠ m.op) then new
    else { v with status := if v.status = 0 then m.st else v.status, payload := v.payload ++ data }

/-- CLOSE: CLOSE_ACK answers, and the index is free again. -/
def closeEffect (s : State) (e : Endpoint) : State := closeLink (sendFrame s e 0x05 (flFirst + flLast) none []) e

/-- The effect of a session's frame. -/
def sessionEffect (s : State) (n : Fin 64) (m : RxMsg) : State :=
  let e := Endpoint.sess n
  match m.op with
  | 0x03 => s
  | 0x04 => closeEffect s e
  | 0x05 => closeLink s e
  | 0x18 => s
  | _ =>
    let s := if m.op = 0x13 then linkMod s e (fun l => { l with gotSig := (l.gotSig + 1) % 65536 }) else s
    let v := joinMsg (linkGet s e).msg m
    if m.flags.testBit 1 then sessionVerb (linkMod s e (fun l => { l with msg := none })) n v
    else linkMod s e (fun l => { l with msg := some v })

/-- The effect of a connection's frame; a management-only port takes none but a CLOSE (R354). -/
def connEffect (s : State) (e : Endpoint) (m : RxMsg) : State :=
  if mgmtOnly s (linkGet s e).port && decide (m.op ≠ 0x04) && decide (m.op ≠ 0x05) then sendReject s e m.psn 1 0 else
  match m.op with
  | 0x03 => openAckEffect s e m
  | 0x04 => closeEffect s e
  | 0x05 => closeLink s e
  | 0x13 => signalEffect s e m
  | 0x14 => sendDataEffect s e m
  | 0x15 => collDataEffect s e m
  | 0x16 => sendRtsEffect s e m
  | 0x17 => sendCtsEffect s e m
  | 0x18 => rejectEffect s e m
  | _ => sendReject s e m.psn 1 0

/-- The effect of a frame (R364). -/
def frameEffect (s : State) (e : Endpoint) (m : RxMsg) : State :=
  match e with
  | .sess n => sessionEffect s n m
  | .conn _ => connEffect s e m

/-- The payload of a data frame is placed when it arrives (R364): the state and the frame's status, or none where its place
waits (assumption 78). -/
def placeFrame (s : State) (e : Endpoint) (m : RxMsg) : Option (State × Nat) :=
  match e with
  | .sess n => if m.op = 0x10 then placeWrite s n m else some (s, 0)
  | .conn _ =>
    if mgmtOnly s (linkGet s e).port then some (s, 1)
    else if m.op = 0x14 then placeSendData s e m
    else if m.op = 0x15 then some (placeCollData s e m) else some (s, 0)

/-! ### The receive window (R364, R365) -/

/-- A host READ whose bytes meet a page that is being exchanged waits for the exchange (R336). -/
def readWaits (s : State) (e : Endpoint) (m : RxMsg) : Bool :=
  let v := joinMsg (linkGet s e).msg m
  let part := leAt v.ext 6 1
  m.op = 0x11 && m.flags.testBit 1 && decide (part < 16) &&
    exchanging (s.part (Fin.ofNat 16 part)).mem (leAt v.ext 0 6) (32 * leAt v.ext 8 4)

/-- A session whose control access is held, or whose next frame is a READ that waits, takes no frame until then (R28). -/
def heldUp (s : State) (e : Endpoint) (m : RxMsg) : Bool :=
  match e with
  | .sess n => waitsBehind s (.session n) || readWaits s e m
  | .conn _ => false

/-- What a partition's commands wait for may have come with a frame of its connection. -/
def settleLink (s : State) (e : Endpoint) (p : Fin 16) : State :=
  match e with
  | .conn _ => settle p s
  | .sess _ => s

/-- One frame takes its effect, and the acknowledgement in its header after it. -/
def takeFrameEffect (s : State) (e : Endpoint) (m : RxMsg) : State :=
  let l := linkGet s e
  let s := linkSet s e { l with psnRx := (l.psnRx + 1) % psnMod, ahead := l.ahead.filter (fun b => b.psn ≠ m.psn) }
  let s := frameEffect s e m
  settleLink (if (linkGet s e).gen = l.gen then noteAck s e m.ack else s) e l.owner

/-- Apply the effects of the frames at hand in PSN order. -/
def deliver (e : Endpoint) : Nat → State → State
  | 0, s => s
  | fuel + 1, s =>
    match (linkGet s e).ahead.find? (fun m => m.psn = (linkGet s e).psnRx) with
    | none => s
    | some m => if heldUp s e m then s else deliver e fuel (takeFrameEffect s e m)

/-- Apply what waits on an endpoint. -/
def deliverAll (s : State) (e : Endpoint) : State := deliver e ((linkGet s e).ahead.length) s

/-- Frames of the receive window. -/
def rxWindow : Nat := 1024

/-- A frame that was placed joins those that wait for their turn; an ACK goes when one of the events of R365 asks for it. -/
def joinWindow (s : State) (e : Endpoint) (m : RxMsg) (late : Bool) (st : Nat) : State :=
  let gen := (linkGet s e).gen
  let s := linkMod s e (fun l =>
    { l with ahead := l.ahead ++ [{ m with st := st }], sinceAck := l.sinceAck + 1,
             gotGran := if creditFree m.op then l.gotGran else (l.gotGran + m.payload.length) % psnMod })
  let s := deliverAll s e
  let l := linkGet s e
  let due := late || m.flags.testBit 4 || decide (8 ≤ l.sinceAck)
  if due && decide (l.gen = gen) && decide (0 < l.sinceAck) then sendAck s e else s

/-- A frame that has passed its endpoint's checks meets the window: a repeated one only refreshes the acknowledgement, one
outside is dropped, and counted of a session (R374); another is placed and joins the window; one whose place waits is not taken. -/
def windowFrame (s : State) (e : Endpoint) (m : RxMsg) : State :=
  let l := linkGet s e
  let d := (m.psn + psnMod - l.psnRx) % psnMod
  if 2 ^ 31 ≤ d ∨ l.ahead.any (fun b => b.psn = m.psn) then sendAck s e
  else if rxWindow ≤ d then (if isSession e then countPort s l.port 8 1 else s)
  else
    let s := takeCredit s e m
    match placeFrame s e m with
    | some r => joinWindow r.1 e m (decide (d ≠ 0)) r.2
    | none => s

/-- An ACK frame: credits at once, completions when no earlier frame is missing. -/
def ackArrives (s : State) (e : Endpoint) (m : RxMsg) : State :=
  let s := takeCredit s e m
  settleLink (if m.psn = (linkGet s e).psnRx then noteAck s e m.ack else s) e (linkGet s e).owner

/-- A connection that is opening takes acknowledgements and the peer's OPEN_ACK with its proof. -/
def openingTakes (l : Link) (m : RxMsg) : Bool := decide (m.op = 0x01) || (decide (m.op = 0x03) && provesPeer l m)

/-- A frame for an endpoint: generation, port, size, trailer and handshake are checked (R357, R362, R374, R394). -/
def hearLink (s : State) (code : Nat) (e : Endpoint) (gs : List (List Byte)) (m : RxMsg) : State :=
  let l := linkGet s e
  if decide (m.dgen ≠ l.gen) || decide (l.port ≠ code) then s
  else if l.state = .broken ∧ l.reason = reasonRevoked ∧ m.op = 0x13 then
    (if l.authFull && !tagged l.key gs m then countPort s code 8 1 else rejectRevoked s e m)
  else if !linkLive l then s
  else if l.maxLen < m.payload.length then countPort s code 8 1
  else if (isSession e || l.authFull) && !tagged l.key gs m then failAuth (countPort s code 8 1) e
  else if !isSession e && decide (l.state = .opening) && !openingTakes l m then
    if m.op = 0x03 then countPort s code 8 1 else s
  else
    let s := if isSession e && decide (l.state = .opening) then linkSet s e { l with state := .opened } else s
    if m.op = 0x01 then ackArrives s e m else windowFrame s e m

/-- A frame whose granules are whole: VERSION and DCONN name what takes it; another VERSION and a reserved DCONN are counted
(Table 14-4). -/
def hearMsg (s : State) (code : Nat) (gs : List (List Byte)) (m : RxMsg) : State :=
  if leAt (gs.headD []) 0 1 ≠ 1 then countPort s code 8 1
  else if m.dconn = 0xFFF ∧ m.op = 0x02 then hearOpen s code gs m
  else match endpointOf m.dconn with
    | some e => hearLink s code e gs m
    | none => if m.dconn = 0x840 then s else countPort s code 8 1

/-- The frame is counted as received, with its bytes and the FEC codewords before it (Table 14-12). -/
def countRx (s : State) (code : Nat) (f : RxFrame) : State :=
  countPort (countPort (countPort (countPort s code 1 1) code 3 f.head.bytes) code 5 f.head.fecFixed) code 6 f.head.fecLost

/-- What stands around the granules is as the port takes it (R353, R356, Table 14-2); the loop has no Ethernet. -/
def headOk (s : State) (code : Nat) (h : RxHead) : Bool :=
  code = 31 || (decide (h.vlan = portVlan s code) && decide (h.service = portService s code) && decide (h.bytes ≤ 9416) &&
    (h.plain || !hostCode code))

/-- A frame arrives at a port (R359). `mine` says whether an intact frame is the one that the row names. -/
def hear (f : RxFrame) (mine : RxMsg → Bool) (s : State) : State :=
  let code := codeOfPort f.port.val
  if !portCarries s code then s
  else if !f.fcsOk then provePort (countPort (countRx s code f) code 4 1) code
  else if !headOk s code f.head then countRx s code f
  else match frameGranules f.granules with
    | none => provePort (countPort (countRx s code f) code 8 1) code
    | some (gs, fixed) =>
      let m := msgOf gs
      if !mine m then s
      else
        let s := countRx s code f
        let s := if 0 < fixed then provePort (countPort s code 7 fixed) code else s
        hearMsg s code gs m

/-! ### The rows -/

/-- The verbs that have a row of their own. -/
def rowOps : List Nat :=
  [0x01, 0x02, 0x03, 0x04, 0x05, 0x10, 0x11, 0x13, 0x14, 0x15, 0x16, 0x17, 0x18, 0x20, 0x21, 0x23, 0x24, 0x25, 0x26, 0x30,
   0x31, 0x32, 0x33, 0x34]

/-- An intact frame of a row carries its verb; a verb without a row, which R368 rejects, may come under any. -/
def rowTakes (op : Nat) (m : RxMsg) : Bool := decide (m.op = op) || !rowOps.contains m.op

/-- A frame of verb `op` arrives. -/
def hearVerb (op : Nat) (f : RxFrame) (s : State) : State := hear f (rowTakes op) s

/-- ACK. -/
def execAckFrame (f : RxFrame) (s : State) : Host.Outcome State Fault Refusal := .next (hearVerb 0x01 f s)

/-- OPEN. -/
def execOpenConn (f : RxFrame) (s : State) : Host.Outcome State Fault Refusal := .next (hearVerb 0x02 f s)

/-- OPEN_ACK. -/
def execOpenAck (f : RxFrame) (s : State) : Host.Outcome State Fault Refusal := .next (hearVerb 0x03 f s)

/-- CLOSE. -/
def execCloseConn (f : RxFrame) (s : State) : Host.Outcome State Fault Refusal := .next (hearVerb 0x04 f s)

/-- CLOSE_ACK. -/
def execCloseAck (f : RxFrame) (s : State) : Host.Outcome State Fault Refusal := .next (hearVerb 0x05 f s)

/-- WRITE. -/
def execRemoteWrite (f : RxFrame) (s : State) : Host.Outcome State Fault Refusal := .next (hearVerb 0x10 f s)

/-- READ. -/
def execRemoteRead (f : RxFrame) (s : State) : Host.Outcome State Fault Refusal := .next (hearVerb 0x11 f s)

/-- SIGNAL. -/
def execRemoteSignal (f : RxFrame) (s : State) : Host.Outcome State Fault Refusal := .next (hearVerb 0x13 f s)

/-- SEND_DATA. -/
def execSendData (f : RxFrame) (s : State) : Host.Outcome State Fault Refusal := .next (hearVerb 0x14 f s)

/-- COLL_DATA. -/
def execCollData (f : RxFrame) (s : State) : Host.Outcome State Fault Refusal := .next (hearVerb 0x15 f s)

/-- SEND_RTS. -/
def execSendRts (f : RxFrame) (s : State) : Host.Outcome State Fault Refusal := .next (hearVerb 0x16 f s)

/-- SEND_CTS. -/
def execSendCts (f : RxFrame) (s : State) : Host.Outcome State Fault Refusal := .next (hearVerb 0x17 f s)

/-- REJECT. -/
def execRejectFrame (f : RxFrame) (s : State) : Host.Outcome State Fault Refusal := .next (hearVerb 0x18 f s)

/-- REG_READ. -/
def execRegRead (f : RxFrame) (s : State) : Host.Outcome State Fault Refusal := .next (hearVerb 0x20 f s)

/-- REG_WRITE. -/
def execRegWrite (f : RxFrame) (s : State) : Host.Outcome State Fault Refusal := .next (hearVerb 0x21 f s)

/-- COUNTER_READ. -/
def execCounterRead (f : RxFrame) (s : State) : Host.Outcome State Fault Refusal := .next (hearVerb 0x23 f s)

/-- DUMP_READ. -/
def execDumpRead (f : RxFrame) (s : State) : Host.Outcome State Fault Refusal := .next (hearVerb 0x24 f s)

/-- CONN_SET. -/
def execConnSet (f : RxFrame) (s : State) : Host.Outcome State Fault Refusal := .next (hearVerb 0x25 f s)

/-- COMM_SET. -/
def execCommSet (f : RxFrame) (s : State) : Host.Outcome State Fault Refusal := .next (hearVerb 0x26 f s)

/-- ADMIT. -/
def execAdmitVerb (f : RxFrame) (s : State) : Host.Outcome State Fault Refusal := .next (hearVerb 0x30 f s)

/-- LOAD, the verb. -/
def execLoadVerb (f : RxFrame) (s : State) : Host.Outcome State Fault Refusal := .next (hearVerb 0x31 f s)

/-- START. -/
def execStartVerb (f : RxFrame) (s : State) : Host.Outcome State Fault Refusal := .next (hearVerb 0x32 f s)

/-- A STOP frame whose mode byte is, or is not, that of HALT. -/
def stopTakes (halt : Bool) (m : RxMsg) : Bool :=
  if m.op = 0x33 then decide (leAt m.ext 1 1 = 1) == halt else !rowOps.contains m.op

/-- STOP, mode BOUNDARY. -/
def execStopBoundary (f : RxFrame) (s : State) : Host.Outcome State Fault Refusal := .next (hear f (stopTakes false) s)

/-- STOP, mode HALT. -/
def execStopHalt (f : RxFrame) (s : State) : Host.Outcome State Fault Refusal := .next (hear f (stopTakes true) s)

/-- RELEASE. -/
def execRelease (f : RxFrame) (s : State) : Host.Outcome State Fault Refusal := .next (hearVerb 0x34 f s)

/-! ### What held accesses release -/

/-- Sessions with frames that wait for their turn. -/
def waitingSessions (s : State) : List Endpoint :=
  (s.sess.filter (fun e => e.2.ahead ≠ [])).map (fun e => .sess (Fin.ofNat 64 e.1))

/-- Held accesses are tried again, and the sessions that waited behind them go on (R26, R28). -/
def resumeAccs (s : State) : State :=
  let s := retryAccs s
  (waitingSessions s).foldl deliverAll s

/-- EXCHANGE_DONE: the pages trade their frames, and what waited for them goes on (R335, R336). -/
def execExchangeDone (p : Fin 16) (index : Nat) (s : State) : Host.Outcome State Fault Refusal :=
  let s := settle p (endExchange p index s)
  .next ((waitingSessions s).foldl deliverAll s)

/-- PLL_LOCK_FAIL: FAIL sets; blocks that wait for the PLL stay in reset, and an access that waits for one of their domains
completes with IN_RESET (R26, R421). -/
def execPllLockFail (d : Fin 8) (s : State) : Host.Outcome State Fault Refusal := .next (resumeAccs (pllFail d.val s))

/-- RAMP_DONE: domains are on or off, STARTs that waited for their cores begin, held accesses are made (R26, R415, R424). -/
def execRampDone (fall : Bool) (index : Nat) (s : State) : Host.Outcome State Fault Refusal :=
  let s := (List.finRange 16).foldl resumeStart (rampDone s fall index)
  .next (resumeAccs (if fall then s else settleAll s))

/-- SHED_DOMAIN: an access that waits for a domain now shed completes with SHED (R436). -/
def execShedDomain (s : State) : Host.Outcome State Fault Refusal := .next (resumeAccs (shedNext s))

/-- UNSHED_DOMAIN: what waited for the domain goes on where it has not gone to sleep (R436). -/
def execUnshedDomain (s : State) : Host.Outcome State Fault Refusal :=
  .next (resumeAccs (settleAll ((List.range 12).foldl pumpPort (unshedNext s))))

/-- THERMAL_SAMPLE: an access that waits for a domain that a trip cut completes with IN_RESET (R443). -/
def execThermalSample (m : ThermalReading) (s : State) : Host.Outcome State Fault Refusal :=
  .next (resumeAccs (thermalSample m s))

/-- COOLANT_TRIP. -/
def execCoolantTrip (src : Fin 3) (s : State) : Host.Outcome State Fault Refusal := .next (resumeAccs (coolantTrip src s))

end Sys2Proof.Machine
end

