-- ==== Sys2Proof/Machine/Dump.lean ====
section
/-! DEFINITION. The hang dump (R462 to R464, Table 18-5) and the bandwidth monitors' windows (R479). Where the spec gives a
section's contents but no layout, Config.dumpLayout stands for the layout. -/

namespace Sys2Proof.Machine

/-! ### Sections -/

/-- Round up to a 256-byte boundary. -/
def up256 (n : Nat) : Nat := (n + 255) / 256 * 256

/-- n bytes of an item in a layout that the spec leaves open. -/
def openItem (sec n : Nat) (words : List Nat) : List Byte := (List.range n).map (Config.dumpLayout sec words)

/-- Commands issued and not complete, oldest first. -/
def openFlights (q : Stream) : List Flight := (q.flight.filter (fun f => !f.done)).take 32

/-- Streams section of one stream: 1,280 bytes. -/
def dumpStream (s : State) (p : Fin 16) (t : StreamTag) : List Byte :=
  let regs := (List.range 9).flatMap (fun i => leBytes 4 ((readStream s p t (4 * i)).getD 0#32).toNat)
  let cmds := (openFlights (s.stream p t)).flatMap (fun f => leBytes 32 f.word.toNat ++ openItem 3 4 [f.seq, f.pc])
  slice (regs ++ cmds) 0 1280

/-- Sync objects of the run: 8 bytes each. -/
def dumpObjects (s : State) (x : Part) : List Byte :=
  (List.range ((x.soCount + 1) * 64)).flatMap (fun i =>
    let o := soGet s (x.soBase * 64 + i)
    leBytes 4 o.value.toNat ++ leBytes 4 (o.epoch.toNat * 2 ^ 16 + (if o.wrap then 2 ^ 15 else 0)))

/-- Registers of core nn, in the order of Table 18-5: (address, value). -/
def coreRegWords (s : State) (nn : Nat) : List Nat :=
  let win := fun (base n : Nat) => (List.range n).flatMap (fun i =>
    match readReg s (base + 4 * i) with
    | some w => [base + 4 * i, w.toNat]
    | none => [])
  win (coreReg 1 nn 0) 256 ++ win (coreReg 2 nn 0) 256 ++ win (coreReg 4 nn 0) 256 ++ win (coreReg 5 nn 0) 256 ++
  win (coreReg 3 nn 0) 256 ++ win (coreReg 8 nn 0) 512 ++ win (0x68000000 + 0x100 * nn) 64 ++ win (coreReg 8 nn 0x1000) 128

/-- Core registers of the partition: 4 KiB per core. -/
def dumpCoreRegs (s : State) (x : Part) : List Byte := (partCores x).flatMap (fun nn => openItem 5 4096 (coreRegWords s nn))

/-- The words of a slot. -/
def slotWords (x : Slot) : List Nat := (List.range 91).map (fun i => ((readSlot x (0x14 + 4 * i)).getD 0#32).toNat)

/-- Scales section: 256 bytes per slot, 4 per layer entry. -/
def dumpScales (s : State) (x : Part) : List Byte :=
  (partSlots x).flatMap (fun n => openItem 6 256 (slotWords (Sparse.get Slot.reset s.slots n))) ++
  (List.range x.layerTable.length).flatMap (fun l => leBytes 4 (layerWord x l).toNat)

/-- The trace ring, oldest record first. -/
def dumpTrace (x : Part) : List Byte := x.ring.reverse.flatMap TraceRec.bytes

/-- Put bytes at an offset of a section. -/
def putAt (m : Sparse Byte) (ofs : Nat) (bs : List Byte) : Sparse Byte := Sparse.setRun 0#8 m ofs bs

/-- Bytes of AM and the chest of one core as stored, with 8 KiB for their flags and records. -/
def sramBytes : Nat := 9 * 2 ^ 20 + 8192

/-- Flags and records of a core's AM rows and chest tiles. -/
def sramFlags (x : Core) : List Nat :=
  (List.range 2048).flatMap (fun r =>
    let row := Sparse.get AmRow.none x.am r
    [if row.empty then 1 else 0, row.rcd.kind.code, row.rcd.value]) ++
  (List.range 16).flatMap (fun i =>
    let t := Sparse.get ChestTile.empty x.chest i
    [if t.clear then 1 else 0, if t.recValid then 1 else 0, t.tokEnd, t.touched.toNat])

/-- AM 0, AM 1 and the chest of a core: W48 codes of 6 bytes, row by row, then the flags. -/
def putSram (m : Sparse Byte) (ofs : Nat) (x : Core) : Sparse Byte :=
  let am := x.am.foldl (fun m r =>
    r.2.vals.foldl (fun m e => putAt m (ofs + (r.1 * 256 + e.1) * 6) (leBytes 6 e.2)) m) m
  let ch := x.chest.foldl (fun m t =>
    t.2.vals.foldl (fun m e => putAt m (ofs + 3 * 2 ^ 20 + (t.1 * 65536 + e.1) * 6) (leBytes 6 e.2)) m) am
  putAt ch (ofs + 9 * 2 ^ 20) (openItem 8 8192 (sramFlags x))

/-- Bytes of TB and the core store of one core. -/
def deepBytes : Nat := 17 * 2 ^ 19

/-- One bank of TB (Table 7-4): slot rows of 80 bytes, the blocks first and the scales at 64. -/
def dumpBank (m : Sparse Byte) (ofs : Nat) (b : TbBank) : Sparse Byte :=
  let m := b.blocks.foldl (fun m e => putAt m (ofs + e.1 / 8 * 80 + e.1 % 8 * e.2.length) e.2) m
  b.scales.foldl (fun m e => putAt m (ofs + e.1 / 8 * 80 + 64 + e.1 % 8 * 2) (leBytes 2 e.2)) m

/-- The directory of TB. -/
def bankWords (b : TbBank) : List Nat := [if b.valid then 1 else 0, b.k0, b.n0, b.kcnt, b.ncnt, b.fmt]

/-- TB and core store of core nn. -/
def putDeep (s : State) (m : Sparse Byte) (ofs nn : Nat) : Sparse Byte :=
  let x := s.core (Fin.ofNat 64 nn)
  let m := dumpBank (dumpBank m ofs x.bank0) (ofs + 12 * 20480) x.bank1
  let m := putAt m (ofs + 24 * 20480) (openItem 9 32768 (bankWords x.bank0 ++ bankWords x.bank1))
  (s.store.filter (fun e => decide (nn * storeBytes ≤ e.1) && decide (e.1 < (nn + 1) * storeBytes))).foldl (fun m e =>
    putAt m (ofs + 2 ^ 19 + (e.1 - nn * storeBytes)) [e.2]) m

/-- DEPTH of the capture: DEPTH 2 needs a partition of up to 32 cores (R463). -/
def dumpDepth (s : State) (x : Part) : Nat := if s.dump.depth = 2 ∧ 32 < (partCores x).length then 1 else s.dump.depth

/-- Lengths of the sections in bytes, in the table's order; the SRAM sections are 0 where the depth leaves them out. -/
def sectionLens (s : State) (p : Fin 16) : List Nat :=
  let x := s.part p
  let cores := (partCores x).length
  let d := dumpDepth s x
  [256, 64, 3 * 1280, 512 * (x.soCount + 1), 4096 * cores, 256 * (partSlots x).length + 4 * x.layerTable.length,
   32 * x.ring.length, if 1 ≤ d then sramBytes * cores else 0, if 2 ≤ d then deepBytes * cores else 0]

/-- Offset of section i: each begins on a 256-byte boundary (R463). -/
def sectionOfs (lens : List Nat) (i : Nat) : Nat := ((lens.take i).map up256).sum

/-- The header. -/
def dumpHeader (s : State) (p : Fin 16) : List Byte :=
  let x := s.part p
  let lens := sectionLens s p
  leBytes 4 0x4442444E ++ leBytes 2 1 ++ leBytes 1 p.val ++ leBytes 1 x.shape ++ leBytes 1 x.origin ++
  leBytes 1 (dumpDepth s x) ++ leBytes 6 0 ++ leBytes 8 s.tick ++
  (List.range 9).flatMap (fun i => leBytes 8 (sectionOfs lens i) ++ leBytes 8 (lens.getD i 0))

/-- The bytes of a dump. -/
def dumpBytes (s : State) (p : Fin 16) : Sparse Byte :=
  let x := s.part p
  let lens := sectionLens s p
  let at_ := sectionOfs lens
  let d := dumpDepth s x
  let m := putAt [] 0 (dumpHeader s p)
  let m := putAt m (at_ 1) x.record.bytes
  let m := putAt m (at_ 2) (dumpStream s p .F ++ dumpStream s p .B ++ dumpStream s p .U)
  let m := putAt m (at_ 3) (dumpObjects s x)
  let m := putAt m (at_ 4) (dumpCoreRegs s x)
  let m := putAt m (at_ 5) (dumpScales s x)
  let m := putAt m (at_ 6) (dumpTrace x)
  let m := if 1 ≤ d then (partCores x).zipIdx.foldl (fun m c =>
      putSram m (at_ 7 + sramBytes * c.2) (s.core (Fin.ofNat 64 c.1))) m else m
  if 2 ≤ d then (partCores x).zipIdx.foldl (fun m c => putDeep s m (at_ 8 + deepBytes * c.2) c.1) m else m

/-- DUMP_CAPTURE_DONE: the dump is held and DUMP_READY sets; a partition reset that waited takes effect (R462, Table
18-7). -/
def execDumpCaptureDone (s : State) : Host.Outcome State Fault Refusal :=
  match s.dump.busy with
  | some p =>
    let len := sectionOfs (sectionLens s p) 9
    let s := postBit { s with dump := { s.dump with busy := none, held := some p, len := len, data := dumpBytes s p } } 0xF0000000 4
    .next (if (s.part p).resetDue then partitionReset s p else s)
  | none => .next s

/-! ### Bandwidth monitors (R479) -/

/-- MONITOR_WINDOW_END: the window's counts become readable, and EPOCH advances. -/
def execMonitorWindowEnd (m : Fin 64) (rx : Nat) (tx : Nat) (s : State) : Host.Outcome State Fault Refusal :=
  let a := 0xF0002000 + 0x20 * m.val
  if m.val < 56 ∧ flag (rawReg s a) 31 then
    let counts := Sparse.set 0 (Sparse.set 0 s.counts (a + 8) (rx % wrap48)) (a + 0x10) (tx % wrap48)
    let epoch := (field (rawReg s (a + 4)) 31 16 + 1) % 65536
    .next (setRaw { s with counts := counts } (a + 4) (at32 16 epoch))
  else .next s

end Sys2Proof.Machine
end

