-- ==== Sys2Proof/Machine/Proofs.lean ====
section
/-! DEFINITION. Proof runs, retirement and the patrol (R327, R328, R455 to R460). -/

namespace Sys2Proof.Machine

/-! ### Running proof runs (R455) -/

/-- What at most one proof run may hold at a time: a core, a channel group, a CXL port, a port, a link. -/
def proofUnit (kind index : Nat) : Nat × Nat :=
  match kind with
  | 0 => (0, index / 512)
  | 1 => (1, index % 4)
  | 2 => (1, index / 9)
  | 3 => (2, lowerPort index)
  | 7 => (2, index)
  | k => (k, index)

/-- The resource is at the head of the queue, and may be tested now. -/
def mayProve (s : State) (kind index : Nat) : Bool :=
  let runs := s.proofs.filter (fun r => r.running)
  (match s.proofs.find? (fun r => !r.running) with
   | some r => decide (r.kind = kind) && decide (r.index = index)
   | none => false) &&
  decide (runs.length < 8) && runs.all (fun r => decide (proofUnit r.kind r.index ≠ proofUnit kind index)) && !thermalHold s

/-- PROOF_RUN_START: the run of the resource at the head of the queue starts (R455). -/
def execProofRunStart (kind : Nat) (index : Nat) (s : State) : Host.Outcome State Fault Refusal :=
  .next (if mayProve s kind index then
    { s with proofs := s.proofs.map (fun r => if r.kind = kind ∧ r.index = index then { r with running := true } else r) }
  else s)

/-! ### Retirement (R458 to R460) -/

/-- Bits of DB_EVENTS (Table 18-8). -/
def dbEvent (s : State) (i : Nat) : State := postBit s 0xF0000000 i

/-- A resource runs without a spare (Table 18-9). -/
def degrade (s : State) : State := setRaw s 0x8 (setBit (rawReg s 0x8) 31 true)

/-- Change the fuses. -/
def burn (s : State) (f : Fuses → Fuses) : State := { s with boot := { s.boot with fuses := f s.boot.fuses } }

/-- Burn one record of a kind that holds `cap` of them; beyond that it lasts until power-on, and RETIRE_FULL sets (R460). -/
def burnIn (s : State) (cap : Nat) (get : Fuses → List Nat) (set : Fuses → List Nat → Fuses) (v : Nat) : State :=
  if (get s.boot.fuses).length < cap then burn s (fun f => set f (get f ++ [v])) else dbEvent s 3

def burnFrame (s : State) (id : Nat) : State := burnIn s 1024 Fuses.frames (fun f l => { f with frames := l }) id
def burnRow (s : State) (r : Nat) : State := burnIn s 4096 Fuses.rows (fun f l => { f with rows := l }) r
def burnLane (s : State) (l : Nat) : State := burnIn s 64 Fuses.lanes (fun f k => { f with lanes := k }) l

/-- A core leaves service: powered off, never placed again, and burned (R460). -/
def coreOut (s : State) (nn : Nat) : State :=
  let s := (loseCore (domSet s nn Dom.off) nn).modCore (Fin.ofNat 64 nn) (fun c => { c with retired := true })
  burnIn s 64 Fuses.cores (fun f l => { f with cores := l }) nn

/-- Cores whose partition has nothing left in flight leave service. -/
def coresOut (s : State) : State :=
  let ready := fun (r : ProofReq) => decide (r.kind = 8) && (decide (16 ≤ corePart s r.index) ||
    decide (partInflight (s.part (Fin.ofNat 16 (corePart s r.index))) = 0))
  let done := s.retire.filter ready
  done.foldl (fun s r => coreOut s r.index) { s with retire := s.retire.filter (fun r => !ready r) }

/-- Retire a core (Table 18-4, R45, R460): a partition that runs drains with cause 0x4; one admitted and idle reads
FAULTED at once. -/
def retireCore (s : State) (nn : Nat) : State :=
  if (s.core (Fin.ofNat 64 nn)).retired || s.retire.any (fun r => r.kind = 8 && r.index = nn) then s
  else
    let p : Fin 16 := Fin.ofNat 16 (corePart s nn)
    let st := (s.part p).state
    let r := { FaultRec.none with cause := 4, stream := 0xFF, core := nn, chan := 0xFFFF }
    let s := { s with retire := s.retire ++ [{ kind := 8, index := nn, count := 0, running := false }] }
    if 16 ≤ corePart s nn ∨ st = .scrubbing then coresOut s
    else if st = .running ∨ st = .stopping then startDrain (recordFault s p r) p
    else coresOut ((recordFault s p r).modPart p enterFaulted)

/-- The firmware's spare frames (R324). -/
def spareFrames : List Nat := (List.range 256).map (fun i => 130432 + i)

/-- A frame leaves service. -/
def frameOut (s : State) (id : Nat) : State := burnFrame { s with frames := Sparse.set 0 s.frames id 99 } id

/-- An owned frame moves to another. -/
def startMoveFrame (s : State) (kind id new holder : Nat) : State :=
  { s with frames := Sparse.set 0 s.frames new holder,
           retire := s.retire ++ [{ kind := kind, index := id, count := new, running := false }] }

/-- Retire a frame of either shelf (Table 18-4): one that nobody owns at once, an owned one when its contents have moved. -/
def retireFrame (s : State) (id : Nat) : State :=
  let v := Sparse.get 0 s.frames id
  if v = 99 ∨ s.retire.any (fun r => (r.kind = 1 || r.kind = 3) && r.index = id) then s
  else if v = 0 then frameOut s id
  else if isLower id then
    match freeLower s 1 with
    | new :: _ => startMoveFrame s 3 id new v
    | [] => degrade (dbEvent s 2)
  else match spareFrames.find? (fun f => Sparse.get 0 s.frames f = 0) with
    | some new => startMoveFrame s 1 id new 98
    | none => degrade (dbEvent s 3)

/-- Spare rows of an SRAM bank. -/
def spareRows : Nat := 8

/-- Retire one failing row of an SRAM bank; the banks of the cores come first (assumption 66). -/
def retireRow (bank : Nat) (s : State) (row : Nat) : State :=
  if Sparse.get 0 s.rowsUsed bank < spareRows then
    burnRow { s with rowsUsed := Sparse.modify 0 s.rowsUsed bank (fun n => n + 1),
                     retire := s.retire ++ [{ kind := 0, index := bank * 256 + row, count := 0, running := false }] }
      (bank * 256 + row)
  else if bank / 512 < 64 then retireCore s (bank / 512)
  else degrade (dbEvent s 1)

/-- Retire the failing lanes of a die-to-die link; a lane is its direction × 1024 plus its number. -/
def retireLanes (s : State) (link : Nat) (lanes : List Nat) : State :=
  let dir := fun (d : Nat) => (lanes.filter (fun l => l / 1024 = d)).length
  let used := fun (d : Nat) => Sparse.get 0 s.lanesUsed (2 * link + d)
  if used 0 + dir 0 ≤ 4 ∧ used 1 + dir 1 ≤ 4 then
    let add := fun (m : Sparse Nat) (d : Nat) => Sparse.set 0 m (2 * link + d) (used d + dir d)
    let s := { s with lanesUsed := add (add s.lanesUsed 0) 1,
                      retire := s.retire ++ [{ kind := 5, index := link, count := 0, running := false }] }
    lanes.foldl (fun s l => burnLane s (2 * link * 1024 + l)) s
  else degrade s

/-- The core that a failing mesh link retires: links 9·y + i, i = 0 to 8, lie along row y from its west edge, and
72 + 8·y + x joins rows y and y + 1. -/
def meshCore (link : Nat) : Nat :=
  if link < 72 then link / 9 * 8 + min (link % 9) 7 else (link - 72) + 8

/-- Retire a port: a fabric port fails until power-on; a host port trains as four sub-ports without the failing lanes'. -/
def retirePort (s : State) (i : Nat) (lanes : List Nat) : State :=
  if i < 12 then portMod s i (fun x => { x with dead := true }.stop)
  else
    let base := 12 + 4 * (i - 12)
    let s := lanes.foldl (fun s l => portMod s (base + l % 4) (fun x => { x with dead := true })) s
    (List.range 4).foldl (fun s k => portMod s (base + k) Port.train) s

/-- Retire half of a CXL port, or both: the link trains as x8, or is down (Table 18-4). -/
def retireCxl (s : State) (x : Nat) (halves : List Nat) : State :=
  let a := 0xA0000100 + 0x40 * x
  let gone := Nat.lor (retiredHalves s x) ((if halves.contains 0 then 1 else 0) + (if halves.contains 1 then 2 else 0))
  let s := { s with lanesUsed := Sparse.set 0 s.lanesUsed (8 + x) gone }
  if gone = 3 then cxlDown s x
  else setRaw s a (setField (setField (rawReg s a) 31 29 1) 26 22 8)

/-- A lasting verdict retires the failing parts of its resource. -/
def retireRes (s : State) (kind index : Nat) (failing : List Nat) : State :=
  match kind with
  | 0 => failing.foldl (retireRow index) s
  | 1 => retireFrame s (index / 4)
  | 2 =>
    let s := failing.foldl retireFrame s
    if 64 < failing.length then degrade (postBit s (0x90001000 + 0x40 * index) 20) else s
  | 3 => retireFrame s index
  | 4 => retireCore s (meshCore index)
  | 5 => retireLanes s index failing
  | 6 => retirePort s index failing
  | _ => retireCxl s index failing

/-! ### Verdicts (R457) -/

/-- Ticks of 24 hours (R12). -/
def dayTicks : Nat := 86400000000

/-- KIND and INDEX of Table 18-11; an SRAM bank of a core is nn × 256 + bank, one outside the cores counts as of core 64. -/
def proofCode (kind index : Nat) : Nat × Nat :=
  match kind with
  | 0 => (1, if index < 512 * 64 then index / 512 * 256 + index % 512 else 64 * 256 + (index - 512 * 64))
  | 1 => (2, index / 4)
  | 2 => (9, index)
  | 3 => (3, (index - lowerBase) % 2 ^ 24)
  | 6 => if index < 12 then (6, index) else (7, index - 12)
  | 7 => (8, index)
  | k => (k, index)

/-- PROOF_RUN_DONE: the verdict, its count and record; the third transient one within 24 hours is turned into lasting, and
a lasting one retires what failed (R457, R458). -/
def execProofRunDone (kind : Nat) (index : Nat) (lasting : Bool) (failing : List Nat) (s : State) :
    Host.Outcome State Fault Refusal :=
  let mine := fun (r : ProofReq) => decide (r.kind = kind) && decide (r.index = index)
  if s.proofs.any (fun r => mine r && r.running) then
    let key := kind * 2 ^ 56 + index
    let recent := (Sparse.get [] s.transients key).filter (fun t => decide (s.tick < t + dayTicks))
    let ticks := if lasting then recent else s.tick :: recent
    let verdict := if lasting then 2 else if 3 ≤ ticks.length then 3 else 1
    let s := { s with proofs := s.proofs.filter (fun r => !mine r), transients := Sparse.set [] s.transients key ticks }
    let s := bump s (if verdict = 1 then 0xF0000020 else 0xF0000028) none 1
    let code := proofCode kind index
    let s := setRaw s 0xF0000014 (at32 28 code.1 ||| at32 26 verdict ||| at32 0 (code.2 % 2 ^ 24))
    .next (if verdict = 1 then s else retireRes s kind index failing)
  else .next s

/-! ### Moves (R459) -/

/-- The disturbance of a granule whose check bytes decode as uncorrectable under either policy. -/
def poison : Nat := 0xFFFFFFFF * 2 ^ 256

/-- Copy a granule that carries a disturbance: a corrected one arrives clean, an uncorrectable one stays uncorrectable. -/
def movedMask (s : State) (id key : Nat) : Nat :=
  match decodeGranule (shelfPolicy s id) (Sparse.getRun 0#8 s.mem (32 * key) 32) (Sparse.get 0 s.errs key) with
  | .uncorrectable => poison
  | _ => 0

/-- The bytes of a granule as they are copied. -/
def movedBytes (s : State) (id key : Nat) : List Byte :=
  let data := Sparse.getRun 0#8 s.mem (32 * key) 32
  match decodeGranule (shelfPolicy s id) data (Sparse.get 0 s.errs key) with
  | .corrected d => d
  | _ => data

/-- The contents of a frame go to another. -/
def copyFrame (s : State) (id new : Nat) : State :=
  let lo := id * frameBytes
  let dst := new * frameBytes
  let bad := (disturbedIn s id).map (fun g => lo / 32 + g)
  let mem := (s.mem.filter (fun e => decide (lo ≤ e.1) && decide (e.1 < lo + frameBytes))).foldl (fun m e =>
    Sparse.set 0#8 m (dst + (e.1 - lo)) e.2) (Sparse.clearRange s.mem dst frameBytes)
  let mem := bad.foldl (fun m k => Sparse.setRun 0#8 m (dst + (32 * k - lo)) (movedBytes s id k)) mem
  let errs := bad.foldl (fun m k => Sparse.set 0 m (dst / 32 + (k - lo / 32)) (movedMask s id k))
    (Sparse.clearRange s.errs (dst / 32) (frameBytes / 32))
  { s with mem := mem, errs := errs }

/-- The frame stands for another wherever its partition held that. -/
def replaceFrame (id new : Nat) (m : PartMem) : PartMem :=
  let put := fun (f : Nat) => if f = id then new else f
  { m with pages := m.pages.map put, poolFree := m.poolFree.map put, poolZeroing := m.poolZeroing.map put,
           regions := m.regions.map (fun e =>
             (e.1, { e.2 with frames := e.2.frames.map (fun f => (f.1, put (f.2 - 1) + 1)) })) }

/-- A partition holds the frame. -/
def holdsFrame (s : State) (id : Nat) : Option (Fin 16) :=
  (List.finRange 16).find? (fun p => (heldFrames (s.part p).mem).contains id)

/-- An exchange holds the page of the frame (Table 18-7). -/
def frameExchanging (s : State) (id : Nat) : Bool :=
  (List.finRange 16).any (fun p => (s.part p).mem.exch.any (fun e =>
    (s.part p).mem.pages.getD e.pageA 0 = id || (s.part p).mem.pages.getD e.pageB 0 = id))

/-- The move of a frame ends: its owner has the new frame, and the old one leaves service. A frame that its partition gave
up meanwhile just leaves service. -/
def moveFrameDone (s : State) (id new : Nat) : State :=
  match holdsFrame s id with
  | some p => frameOut ((copyFrame s id new).modPart p (fun x => { x with mem := replaceFrame id new x.mem })) id
  | none => frameOut { s with frames := Sparse.set 0 s.frames new 0 } id

/-- The disturbance of a granule after its row is copied decoded: gone where it is corrected, lasting where it is not. The code
is linear, so the disturbance alone decides. -/
def copiedMask (mask : Nat) : Nat :=
  match decodeGranule .correct1 (List.replicate 32 0#8) mask with
  | .clean _ => mask
  | .corrected d => leNat (d ++ c256Check d)
  | .uncorrectable => poison

/-- The array, the owner and the first granule of an SRAM bank (assumption 66). -/
def bankPlace (bank : Nat) : Nat × Nat × Nat :=
  let b := bank % 512
  let outer := bank - 512 * 64
  if bank < 512 * 64 then
    if b < 128 then (0, bank / 512, 2048 * b)
    else if b < 176 then (arrAm, bank / 512, 2048 * (b - 128))
    else if b < 272 then (arrChest, bank / 512, 2048 * (b - 176))
    else (arrTb, bank / 512, 2048 * (b - 272))
  else if outer < 64 then (arrDesc, outer, 0)
  else (arrTable, (outer - 64) / 8, 2048 * ((outer - 64) % 8))

/-- The eight granules of a replaced row arrive decoded (R459). -/
def moveRowDone (s : State) (bank row : Nat) : State :=
  let place := bankPlace bank
  let copy := fun (lo : Nat) (m : Sparse Nat) =>
    (List.range 8).foldl (fun m i => Sparse.set 0 m (lo + i) (copiedMask (Sparse.get 0 m (lo + i)))) m
  let first := place.2.2 + 8 * row
  if place.1 = 0 then { s with storeErrs := copy (place.2.1 * storeBytes / 32 + first) s.storeErrs }
  else { s with sramErrs := copy (sramKey place.1 place.2.1 first) s.sramErrs }

/-- RETIRE_MOVE_DONE: the copy of a row or a frame ends (R459); a frame whose page is being exchanged waits (Table 18-7). -/
def execRetireMoveDone (index : Nat) (s : State) : Host.Outcome State Fault Refusal :=
  match s.retire[index]? with
  | some r =>
    let rest := { s with retire := s.retire.eraseIdx index }
    if r.kind = 0 then .next (moveRowDone rest (r.index / 256) (r.index % 256))
    else if (r.kind = 1 ∨ r.kind = 3) ∧ frameExchanging s r.index = false then .next (moveFrameDone rest r.index r.count)
    else .next s
  | none => .next s

/-- LANE_SPARING_DONE: the spares carry the lanes' traffic, and the link goes on (Table 18-4). -/
def execLaneSparingDone (link : Fin 2) (s : State) : Host.Outcome State Fault Refusal :=
  .next { s with retire := s.retire.filter (fun r => r.kind ≠ 5 ∨ r.index ≠ link.val) }

/-- PARTITION_DRAIN_DONE: the partition enters FAULTED, and its cores that are to be retired leave service (R449, R460). -/
def execPartitionDrainDone (p : Fin 16) (s : State) : Host.Outcome State Fault Refusal := .next (coresOut (drainDone p s))

/-- SCRUB_DONE: the partition is FREE, and its cores that are to be retired leave service (R49, Table 18-7). -/
def execScrubDone (p : Fin 16) (s : State) : Host.Outcome State Fault Refusal := .next (coresOut (scrubDone p s))

/-! ### The patrol (R327, R328) -/

/-- Stripes of a channel group (R324, R325). -/
def groupStripes : Nat := 2 ^ 28

/-- Shelf address of a local stripe of a group (R325). -/
def stripeAddr (g loc : Nat) : Nat :=
  let s := 4 * loc
  256 * (s + Nat.xor g (Nat.xor (s / 2 ^ 10 % 4) (Nat.xor (s / 2 ^ 20 % 4) (s / 2 ^ 28 % 4))))

/-- A mask meets what a table of disturbances holds at a key. -/
def addMask (m : Sparse Nat) (key mask : Nat) : Sparse Nat := Sparse.set 0 m key (Nat.xor (Sparse.get 0 m key) mask)

/-- A disturbance falls; `a` is the shelf address of the stripe that the patrol reads. -/
def disturb (a : Nat) (s : State) (u : Upset) : State :=
  let mask := u.flip.toNat * 2 ^ (8 * (u.pos % 36))
  match u.place with
  | .stripe => { s with errs := addMask s.errs (a / 32 + u.granule % 8) mask }
  | .lower => { s with errs := addMask s.errs (lowerBase * (frameBytes / 32) + u.granule) mask }
  | .poison => { s with errs := Sparse.set 0 s.errs (lowerBase * (frameBytes / 32) + u.granule) (2 ^ 288) }
  | .sram array owner =>
    if array = 0 then { s with storeErrs := addMask s.storeErrs (owner % 64 * (storeBytes / 32) + u.granule) mask }
    else { s with sramErrs := addMask s.sramErrs (sramKey array owner u.granule) mask }
  | .line key => { s with lineErrs := addMask s.lineErrs key mask }
  | .burst c tries => { s with lineErrs := Sparse.set 0 s.lineErrs (burstKey (c % 36)) (mask + min tries 3 * 2 ^ 288) }

/-- The device address at which a partition sees a byte of a frame: a tier page, or a page of a region slot. -/
def deviceAddr (m : PartMem) (id ofs : Nat) : Option Nat :=
  match m.pages.findIdx? (fun f => f = id) with
  | some i => some (i * frameBytes + ofs)
  | none => m.regions.findSome? (fun e => (e.2.frames.find? (fun f => f.2 = id + 1)).map (fun f =>
      regionBase + e.1 * regionBytes + f.1 * frameBytes + ofs))

/-- The owner of a frame with an uncorrectable granule faults, if it has one (R327). -/
def faultOwner (s : State) (id ofs : Nat) : State :=
  match holdsFrame s id with
  | some p =>
    let r := { FaultRec.none with cause := 1, kind := 1, stream := 0xFF, core := 0xFF, place := 4,
                                  addr := (deviceAddr (s.part p).mem id ofs).getD 0, chan := chanCode id ofs }
    if (s.part p).state = .scrubbing then s else startDrain (recordFault s p r) p
  | none => s

/-- The patrol reads one granule over its channel. -/
def patrolGranule (a : Nat) (s : State) (i : Nat) : State :=
  let key := a + 32 * i
  let id := key / frameBytes
  let ofs := key % frameBytes
  let burst := Op.exec (burstMask id ofs) s
  let s := burst.2
  let mask := Nat.xor (Sparse.get 0 s.errs (key / 32)) (burst.1.toOption.getD 0)
  match decodeGranule (shelfPolicy s id) (Sparse.getRun 0#8 s.mem key 32) mask with
  | .clean d => putBytes s key d [key / 32]
  | .corrected d => noteCorrected (putBytes s key d [key / 32]) id ofs
  | .uncorrectable => faultOwner (noteUncorrectable s id ofs) id ofs

/-- Passes that every group has finished. -/
def passesDone (s : State) : Nat :=
  ((List.range 4).map (fun g => Sparse.get 0 s.patrol g / groupStripes)).foldl min (Sparse.get 0 s.patrol 0 / groupStripes)

/-- A group ends its pass: the channel proof runs of correct-1/detect-3, and of WEAK channels under either policy. -/
def passEnd (s : State) (g : Nat) : State :=
  (List.range 9).foldl (fun s i =>
    let c := 9 * g + i
    if flag (rawReg s 0x90000000) 1 || flag (rawReg s (0x90001000 + 0x40 * c)) 20 then requestProof s 2 c else s) s

/-- Group g reads its next stripe, if the patrol runs and the group is on. -/
def patrolStripe (g : Fin 4) (a : Nat) (s : State) : State :=
  if flag (rawReg s 0x90000000) 0 && domOn s (domGroup g.val) then
    let n := Sparse.get 0 s.patrol g.val
    let was := passesDone s
    let s := (List.range 8).foldl (patrolGranule a) s
    let b := 0x40 * g.val
    let s := bump { s with patrol := Sparse.set 0 s.patrol g.val (n + 1) } (0x90000120 + b) (some (0x90000104 + b, 3)) 1
    let s := if (n + 1) % groupStripes = 0 then passEnd s g.val else s
    if was < passesDone s then postBit s 0x90000004 2 else s
  else s

/-- PATROL_READ: disturbances fall, and group g reads its next stripe as they leave it. The row is the one that carries
disturbances, of whatever place (DESIGN CHOICE, assumption 86). -/
def execPatrolRead (g : Fin 4) (upset : List Upset) (s : State) : Host.Outcome State Fault Refusal :=
  let a := stripeAddr g.val (Sparse.get 0 s.patrol g.val % groupStripes)
  .next (patrolStripe g a (upset.foldl (disturb a) s))

end Sys2Proof.Machine
end

