-- ==== Sys2Proof/Machine/Dispatch.lean ====
section
/-! DEFINITION. One arm per command: its meaning's name, or a refusal by name. -/

namespace Sys2Proof.Machine

def exec (i : Instr) (s : State) : Host.Outcome State Fault Refusal :=
  match i with
  | .prechargeStart => Sys2Proof.Machine.execPrechargeStart s
  | .prechargeAbort => Sys2Proof.Machine.execPrechargeAbort s
  | .inputGood => Sys2Proof.Machine.execInputGood s
  | .underVoltage => Sys2Proof.Machine.execUnderVoltage s
  | .overVoltage => Sys2Proof.Machine.execOverVoltage s
  | .extraction => Sys2Proof.Machine.execExtraction s
  | .coolantCut => Sys2Proof.Machine.execCoolantCut s
  | .strapRead codes repairOk => Sys2Proof.Machine.execStrapRead codes repairOk s
  | .imageReadDone cxl => Sys2Proof.Machine.execImageReadDone cxl s
  | .keysReady => Sys2Proof.Machine.execKeysReady s
  | .prstNAssert => Sys2Proof.Machine.execPrstNAssert s
  | .prstNRelease => Sys2Proof.Machine.execPrstNRelease s
  | .prstGlitch => Sys2Proof.Machine.execPrstGlitch s
  | .pmWdogKick who value => Sys2Proof.Machine.execPmWdogKick who value s
  | .moduleWatchdogExpiry => Sys2Proof.Machine.execModuleWatchdogExpiry s
  | .moduleWatchdogRelease => Sys2Proof.Machine.execModuleWatchdogRelease s
  | .pmRemoteReset who value => Sys2Proof.Machine.execPmRemoteReset who value s
  | .remoteResetAssert => Sys2Proof.Machine.execRemoteResetAssert s
  | .partitionReset who p value => Sys2Proof.Machine.execPartitionReset who p value s
  | .blockResetSet who b value => Sys2Proof.Machine.execBlockResetSet who b value s
  | .blockResetClear who b value => Sys2Proof.Machine.execBlockResetClear who b value s
  | .drainIdle b => Sys2Proof.Machine.execDrainIdle b s
  | .drainTimeout b => Sys2Proof.Machine.execDrainTimeout b s
  | .rstHeldClkExpiry b => Sys2Proof.Machine.execRstHeldClkExpiry b s
  | .pllLock d => Sys2Proof.Machine.execPllLock d s
  | .pllLockFail d => Sys2Proof.Machine.execPllLockFail d s
  | .governorGrant fall => Sys2Proof.Machine.execGovernorGrant fall s
  | .rampDone fall index => Sys2Proof.Machine.execRampDone fall index s
  | .idleSleep dom => Sys2Proof.Machine.execIdleSleep dom s
  | .powerStopDone dom => Sys2Proof.Machine.execPowerStopDone dom s
  | .pmOp who value => Sys2Proof.Machine.execPmOp who value s
  | .opMoveDone => Sys2Proof.Machine.execOpMoveDone s
  | .stateMismatch b count => Sys2Proof.Machine.execStateMismatch b count s
  | .averageLoop m => Sys2Proof.Machine.execAverageLoop m s
  | .shedDomain => Sys2Proof.Machine.execShedDomain s
  | .unshedDomain => Sys2Proof.Machine.execUnshedDomain s
  | .peakLoop m => Sys2Proof.Machine.execPeakLoop m s
  | .droopTrip die => Sys2Proof.Machine.execDroopTrip die s
  | .droopRecover die => Sys2Proof.Machine.execDroopRecover die s
  | .droopStretchLimit die => Sys2Proof.Machine.execDroopStretchLimit die s
  | .pwrbrkEngage => Sys2Proof.Machine.execPwrbrkEngage s
  | .pwrbrkIgnore => Sys2Proof.Machine.execPwrbrkIgnore s
  | .pwrbrkHigh => Sys2Proof.Machine.execPwrbrkHigh s
  | .brakeHoldEnd => Sys2Proof.Machine.execBrakeHoldEnd s
  | .brakeLong => Sys2Proof.Machine.execBrakeLong s
  | .thermalSample m => Sys2Proof.Machine.execThermalSample m s
  | .coolantSample m => Sys2Proof.Machine.execCoolantSample m s
  | .coolantWarning => Sys2Proof.Machine.execCoolantWarning s
  | .coolantWarningEnd => Sys2Proof.Machine.execCoolantWarningEnd s
  | .coolantTrip src => Sys2Proof.Machine.execCoolantTrip src s
  | .pmThermCtl who value => Sys2Proof.Machine.execPmThermCtl who value s
  | .linkTrained port => Sys2Proof.Machine.execLinkTrained port s
  | .linkTrainingTimeout port => Sys2Proof.Machine.execLinkTrainingTimeout port s
  | .fecLock port => Sys2Proof.Machine.execFecLock port s
  | .fecLockTimeout port => Sys2Proof.Machine.execFecLockTimeout port s
  | .linkDown port => Sys2Proof.Machine.execLinkDown port s
  | .holdDownEnd port => Sys2Proof.Machine.execHoldDownEnd port s
  | .portFailed port => Sys2Proof.Machine.execPortFailed port s
  | .cxlPortDown x => Sys2Proof.Machine.execCxlPortDown x s
  | .ackFrame f => Sys2Proof.Machine.execAckFrame f s
  | .openConn f => Sys2Proof.Machine.execOpenConn f s
  | .openAck f => Sys2Proof.Machine.execOpenAck f s
  | .closeConn f => Sys2Proof.Machine.execCloseConn f s
  | .closeAck f => Sys2Proof.Machine.execCloseAck f s
  | .remoteWrite f => Sys2Proof.Machine.execRemoteWrite f s
  | .remoteRead f => Sys2Proof.Machine.execRemoteRead f s
  | .remoteSignal f => Sys2Proof.Machine.execRemoteSignal f s
  | .sendData f => Sys2Proof.Machine.execSendData f s
  | .collData f => Sys2Proof.Machine.execCollData f s
  | .sendRts f => Sys2Proof.Machine.execSendRts f s
  | .sendCts f => Sys2Proof.Machine.execSendCts f s
  | .rejectFrame f => Sys2Proof.Machine.execRejectFrame f s
  | .regRead f => Sys2Proof.Machine.execRegRead f s
  | .regWrite f => Sys2Proof.Machine.execRegWrite f s
  | .counterRead f => Sys2Proof.Machine.execCounterRead f s
  | .dumpRead f => Sys2Proof.Machine.execDumpRead f s
  | .connSet f => Sys2Proof.Machine.execConnSet f s
  | .commSet f => Sys2Proof.Machine.execCommSet f s
  | .admitVerb f => Sys2Proof.Machine.execAdmitVerb f s
  | .admitDone => Sys2Proof.Machine.execAdmitDone s
  | .loadVerb f => Sys2Proof.Machine.execLoadVerb f s
  | .startVerb f => Sys2Proof.Machine.execStartVerb f s
  | .stopBoundary f => Sys2Proof.Machine.execStopBoundary f s
  | .stopHalt f => Sys2Proof.Machine.execStopHalt f s
  | .stopDone p => Sys2Proof.Machine.execStopDone p s
  | .release f => Sys2Proof.Machine.execRelease f s
  | .scrubDone p => Sys2Proof.Machine.execScrubDone p s
  | .verbDequeue q => Sys2Proof.Machine.execVerbDequeue q s
  | .ackTimer e => Sys2Proof.Machine.execAckTimer e s
  | .retransmitTimeout e => Sys2Proof.Machine.execRetransmitTimeout e s
  | .connTimeout e => Sys2Proof.Machine.execConnTimeout e s
  | .sessionOpenTimeout n => Sys2Proof.Machine.execSessionOpenTimeout n s
  | .pfcPause c => Sys2Proof.Machine.execPfcPause c s
  | .pauseFrame port => Sys2Proof.Machine.execPauseFrame port s
  | .arpRequest port => Sys2Proof.Machine.execArpRequest port s
  | .neighborSolicitation port => Sys2Proof.Machine.execNeighborSolicitation port s
  | .icmpEcho port => Sys2Proof.Machine.execIcmpEcho port s
  | .mark p t => Sys2Proof.Machine.execMark p t s
  | .wait p t => Sys2Proof.Machine.execWait p t s
  | .sig p t => Sys2Proof.Machine.execSig p t s
  | .fence p t => Sys2Proof.Machine.execFence p t s
  | .step p t => Sys2Proof.Machine.execStep p t s
  | .endStream p t => Sys2Proof.Machine.execEndStream p t s
  | .load p t => Sys2Proof.Machine.execLoad p t s
  | .xpose p t => Sys2Proof.Machine.execXpose p t s
  | .cflush p t => Sys2Proof.Machine.execCflush p t s
  | .tload p t => Sys2Proof.Machine.execTload p t s
  | .fmat p t => Sys2Proof.Machine.execFmat p t s
  | .bdx p t => Sys2Proof.Machine.execBdx p t s
  | .bdw p t => Sys2Proof.Machine.execBdw p t s
  | .bmat p t => Sys2Proof.Machine.execBmat p t s
  | .store p t => Sys2Proof.Machine.execStore p t s
  | .add p t => Sys2Proof.Machine.execAdd p t s
  | .sub p t => Sys2Proof.Machine.execSub p t s
  | .mul p t => Sys2Proof.Machine.execMul p t s
  | .max p t => Sys2Proof.Machine.execMax p t s
  | .min p t => Sys2Proof.Machine.execMin p t s
  | .cvt p t => Sys2Proof.Machine.execCvt p t s
  | .scale p t => Sys2Proof.Machine.execScale p t s
  | .offset p t => Sys2Proof.Machine.execOffset p t s
  | .funcVop p t => Sys2Proof.Machine.execFuncVop p t s
  | .deriv p t => Sys2Proof.Machine.execDeriv p t s
  | .rsum p t => Sys2Proof.Machine.execRsum p t s
  | .rmax p t => Sys2Proof.Machine.execRmax p t s
  | .rmin p t => Sys2Proof.Machine.execRmin p t s
  | .rsumsq p t => Sys2Proof.Machine.execRsumsq p t s
  | .softmax p t => Sys2Proof.Machine.execSoftmax p t s
  | .rmsnorm p t => Sys2Proof.Machine.execRmsnorm p t s
  | .layernorm p t => Sys2Proof.Machine.execLayernorm p t s
  | .tblload p t => Sys2Proof.Machine.execTblload p t s
  | .upd p t => Sys2Proof.Machine.execUpd p t s
  | .pref p t => Sys2Proof.Machine.execPref p t s
  | .migr p t => Sys2Proof.Machine.execMigr p t s
  | .pub p t => Sys2Proof.Machine.execPub p t s
  | .pubPublish p t k => Sys2Proof.Machine.execPubPublish p t k s
  | .coll p t => Sys2Proof.Machine.execColl p t s
  | .send p t => Sys2Proof.Machine.execSend p t s
  | .recv p t => Sys2Proof.Machine.execRecv p t s
  | .commandComplete p t k => Sys2Proof.Machine.execCommandComplete p t k s
  | .waitTimeout p t => Sys2Proof.Machine.execWaitTimeout p t s
  | .progressWatchdogExpiry p t => Sys2Proof.Machine.execProgressWatchdogExpiry p t s
  | .partitionDrainDone p => Sys2Proof.Machine.execPartitionDrainDone p s
  | .dumpStart who value => Sys2Proof.Machine.execDumpStart who value s
  | .dumpCaptureDone => Sys2Proof.Machine.execDumpCaptureDone s
  | .dumpRelease who value => Sys2Proof.Machine.execDumpRelease who value s
  | .patrolRead g upset => Sys2Proof.Machine.execPatrolRead g upset s
  | .proofRunStart kind index => Sys2Proof.Machine.execProofRunStart kind index s
  | .proofRunDone kind index lasting failing => Sys2Proof.Machine.execProofRunDone kind index lasting failing s
  | .retireMoveDone index => Sys2Proof.Machine.execRetireMoveDone index s
  | .autoMigrationWindow eastFirst => Sys2Proof.Machine.execAutoMigrationWindow eastFirst s
  | .exchangeDone p index => Sys2Proof.Machine.execExchangeDone p index s
  | .frameZeroed p index => Sys2Proof.Machine.execFrameZeroed p index s
  | .prefetchEntryStart p => Sys2Proof.Machine.execPrefetchEntryStart p s
  | .prefetchCopyDone p => Sys2Proof.Machine.execPrefetchCopyDone p s
  | .counterWrap core j => Sys2Proof.Machine.execCounterWrap core j s
  | .dbCntWrite who addr value => Sys2Proof.Machine.execDbCntWrite who addr value s
  | .monitorWindowEnd m rx tx => Sys2Proof.Machine.execMonitorWindowEnd m rx tx s
  | .dbMonCfg who addr value => Sys2Proof.Machine.execDbMonCfg who addr value s
  | .attestStart who value => Sys2Proof.Machine.execAttestStart who value s
  | .attestDone => Sys2Proof.Machine.execAttestDone s
  | .flashRead who value => Sys2Proof.Machine.execFlashRead who value s
  | .flashProgram who value => Sys2Proof.Machine.execFlashProgram who value s
  | .flashErase who value => Sys2Proof.Machine.execFlashErase who value s
  | .flashOpDone ok => Sys2Proof.Machine.execFlashOpDone ok s
  | .commitSvn who value => Sys2Proof.Machine.execCommitSvn who value s
  | .revokeRsa who k value => Sys2Proof.Machine.execRevokeRsa who k value s
  | .revokeSlh who k value => Sys2Proof.Machine.execRevokeSlh who k value s
  | .controlWrite who addr value => Sys2Proof.Machine.execControlWrite who addr value s
  | .cxlLinkUp x => Sys2Proof.Machine.execCxlLinkUp x s
  | .pfcPauseExpiry c => Sys2Proof.Machine.execPfcPauseExpiry c s
  | .upperShelfTrained ok => Sys2Proof.Machine.execUpperShelfTrained ok s
  | .laneSparingDone link => Sys2Proof.Machine.execLaneSparingDone link s
  | .p54FallsBelow20v => Sys2Proof.Machine.execP54FallsBelow20v s

end Sys2Proof.Machine
end

