-- ==== Sys2Proof/Safety.lean ====
section
/-! DEFINITION. What counts as a safe step, in the terms that statements use: the one form in which memory and every
numbered collection are held, the direction in which what is burned into the part may move, and what no command may do
to the queue. -/

namespace Sys2Proof.Machine

/-- Every set bit of `a` is set in `b`. -/
def bitsKept (a b : Nat) : Prop := a &&& b = a

/-- The fuses only ever gain: the SVN thermometer does not fall, no revocation is undone and no retirement record is
lost (R389, R460). -/
structure FusesKept (a b : Fuses) : Prop where
  svn : a.svn ≤ b.svn
  rsa : bitsKept a.rsaRevoked b.rsaRevoked
  slh : bitsKept a.slhRevoked b.slhRevoked
  cores : ∀ x ∈ a.cores, x ∈ b.cores
  frames : ∀ x ∈ a.frames, x ∈ b.frames
  lanes : ∀ x ∈ a.lanes, x ∈ b.lanes
  rows : ∀ x ∈ a.rows, x ∈ b.rows

/-- The memories and the disturbances on them are in their one canonical form: the shelves, the core stores,
the other arrays, the links and the flash. -/
def Memory.wf (s : State) : Bool :=
  Sparse.wf 0#8 s.mem && Sparse.wf 0 s.errs && Sparse.wf 0#8 s.store && Sparse.wf 0 s.storeErrs &&
  Sparse.wf 0 s.sramErrs && Sparse.wf 0 s.lineErrs && Sparse.wf 0xFF#8 s.boot.flash

/-- Every numbered collection of the state is in its one canonical form. -/
structure State.Canonical (s : State) : Prop where
  regs : Sparse.wfBy resetWord 0 s.regs = true
  counts : Sparse.wf 0 s.counts = true
  caps : Sparse.wf 0 s.caps = true
  mem : Sparse.wf 0#8 s.mem = true
  store : Sparse.wf 0#8 s.store = true
  errs : Sparse.wf 0 s.errs = true
  storeErrs : Sparse.wf 0 s.storeErrs = true
  sramErrs : Sparse.wf 0 s.sramErrs = true
  lineErrs : Sparse.wf 0 s.lineErrs = true
  frames : Sparse.wf 0 s.frames = true
  so : Sparse.wf SyncObj.zero s.so = true
  soBlk : Sparse.wf SoBlock.free s.soBlk = true
  slotBlk : Sparse.wf 0 s.slotBlk = true
  slots : Sparse.wf Slot.reset s.slots = true
  transients : Sparse.wf [] s.transients = true
  rowsUsed : Sparse.wf 0 s.rowsUsed = true
  lanesUsed : Sparse.wf 0 s.lanesUsed = true
  patrol : Sparse.wf 0 s.patrol = true
  conns : Sparse.wf Link.free s.conns = true
  sess : Sparse.wf Link.free s.sess = true
  ports : Sparse.wf Port.off s.ports = true
  heldHi : Sparse.wf 0 s.heldHi = true
  flash : Sparse.wf 0xFF#8 s.boot.flash = true
  doms : Sparse.wf Dom.off s.doms = true
  blks : Sparse.wf Blk.reset s.blks = true

end Sys2Proof.Machine
end

