-- ==== Sys2Proof/Certificates/Slice0/Obligations.lean ====
section
/-! DEFINITION. The statements for the provers, and the few words they share. -/

namespace Sys2Proof.Machine

/-- Nothing of the state differs but stored registers, and of these only the ones at the addresses given. -/
def OnlyRegs (s t : State) (as : List Nat) : Prop :=
  t = { s with regs := t.regs } ∧ ∀ a, a ∉ as → rawReg t a = rawReg s a

/-- Power is gone from every domain: what is neither burned nor in the flash is lost (R487, R489, R402), the flash keeps
every byte outside a slot that was being written (Table 15-10), and the pin PRST_N its level. -/
structure PoweredOff (s t : State) (x : InputStep) : Prop where
  rest : t = { State.reset with pending := s.pending, wire := s.wire, freeCount := t.freeCount, input := x,
                                boot := { State.reset.boot with fuses := s.boot.fuses, flash := t.boot.flash,
                                                                prstLow := s.boot.prstLow } }
  flash : s.boot.flashOp = none → t.boot.flash = s.boot.flash
  slots : ∀ o, s.boot.flashOp = some o → ∀ a, a / 0x2000000 ≠ o.place / 0x2000000 →
    Sparse.get 0xFF#8 t.boot.flash a = Sparse.get 0xFF#8 s.boot.flash a
  regs : ∀ a, rawReg t a = resetWord a
  counts : ∀ a, count t a = 0
  parts : ∀ p, t.part p = Part.free
  cores : ∀ c, t.core c = Core.reset
  doms : ∀ d, domGet t d = Dom.off

/-- Nothing of the partition waits to be offered again: no command of it stands behind another or has ended, and no COLL is
in flight. -/
structure Settled (x : Part) : Prop where
  flights : ∀ t, ∀ f ∈ (x.stream t).flight, f.wait ≠ .behind ∧ f.wait ≠ .ended
  colls : x.colls = []

/-- Nothing waits for a wake or for an earlier access: no control access is held, no session's frame waits behind one, no
START waits for cores, and no command waits at a wrapper. -/
structure Quiet (s : State) : Prop where
  accs : s.accs = []
  sess : ∀ e ∈ s.sess, e.2.ahead = []
  starts : ∀ p, (s.part p).starting = false
  waits : ∀ p, anyWaits (s.part p) = false

end Sys2Proof.Machine

open Sys2Proof Sys2Proof.Machine

/-! ### The queue and the whole machine -/

/-- One step carries out the command at the front of the queue on the state with the queue's rest. -/
def Obligations.StepRunsFrontCommand : Prop :=
  ∀ (c : Instr) (rest : List Instr) (s : State), s.pending = c :: rest → step s = exec c { s with pending := rest }

/-! ### Input, boot, fuses and flash (15, 20) -/

/-- R487, R489, R498, R500: what each event of the 54 V input does, in the state in which it can occur; a loss of power
leaves the fuses and the flash and nothing else of the module, and INPUT_GOOD starts boot at step 1 with the power-on
cause. -/
def Obligations.InputPowerSequence : Prop :=
  ∀ s : State, s.Canonical →
    (s.input = .off → (∃ t, Sys2Proof.Machine.exec .prechargeStart s = .next t ∧ (t = { s with input := .charging }))) ∧
    (s.input = .charging → (∃ t, Sys2Proof.Machine.exec .prechargeAbort s = .next t ∧ (t = { s with input := .off }))) ∧
    (s.input = .charging → (∃ t, Sys2Proof.Machine.exec .inputGood s = .next t ∧ (∃ u, PoweredOff s u .on ∧
      t = { domSet (setRaw u 0xE0000100 0x80000000#32) domAlways { Dom.off with pwr := .on, clkGood := true } with
            boot := { u.boot with step := .strap } } ∧
      t.input = .on ∧ t.boot.step = .strap ∧ t.boot.fuses = s.boot.fuses ∧ (domGet t domAlways).pwr = .on ∧
      field (rawReg t 0xE0000008) 31 28 = 1 ∧ clkLocked t 0 = true))) ∧
    (s.input = .on → (∃ t, Sys2Proof.Machine.exec .underVoltage s = .next t ∧ (PoweredOff s t .off))) ∧
    (s.input = .on → (∃ t, Sys2Proof.Machine.exec .overVoltage s = .next t ∧ (PoweredOff s t .off))) ∧
    (∃ t, Sys2Proof.Machine.exec .extraction s = .next t ∧ (PoweredOff s t .off)) ∧
    (thermalHold s = true ∧ s.input = .on → (∃ t, Sys2Proof.Machine.exec .coolantCut s = .next t ∧ (PoweredOff s t .cut))) ∧
    (s.input = .cut ∨ s.input = .charging → (∃ t, Sys2Proof.Machine.exec .p54FallsBelow20v s = .next t ∧ (t = { s with input := .off })))

/-- R377, R379, R388 and Table 15-2, steps 2 to 10: each row takes boot from the step that waits for it to the next, or to the
recovery slot, or to BOOT_FAIL. -/
def Obligations.BootSequence : Prop :=
  ∀ (s : State) (codes : List Nat) (cxl : List CxlDevice) (rs : List (Nat × List Byte)) (u : State) (code : Nat),
    s.Canonical →
    (s.boot.step = .strap → (∃ t, Sys2Proof.Machine.exec (.strapRead codes true) s = .next t ∧ (
      t.boot.step = .shelf ∧ rawReg t 0x4 = strapWord codes ∧
      field (rawReg t scBoot) 27 27 = medianCode codes % 64 / 4 / 8 ∧
      (t.boot.chain.map (fun e => e.1)) = (s.boot.chain.map (fun e => e.1)) ++ [1, 2, 3] ∧
      ∀ nn : Fin 64, nn.val ∈ s.boot.fuses.cores → (t.core nn).retired = true))) ∧
    (s.boot.step = .strap → (∃ t, Sys2Proof.Machine.exec (.strapRead codes false) s = .next t ∧ (
      t.boot.step = .failed ∧ field (rawReg t scBoot) 31 28 = 0xF))) ∧
    (s.boot.step = .shelf → s.boot.prstLow = false → s.boot.wdHeld = false →
      (∃ t, Sys2Proof.Machine.exec (.upperShelfTrained true) s = .next t ∧ (t.boot.step = .image)) ∧
      (∃ t, Sys2Proof.Machine.exec (.upperShelfTrained false) s = .next t ∧ (t.boot.step = .failed))) ∧
    (s.boot.step = .image → imageCheck s = some code →
      (∃ t, Sys2Proof.Machine.exec (.imageReadDone cxl) s = .next t ∧ (t.boot.fuses = s.boot.fuses ∧
        if bootSlot s = 0 ∧ strapChoice s < 8 then t.boot.step = .image ∧ bootSlot t = 1 ∧ field (rawReg t scBoot) 19 16 = code % 16
        else t.boot.step = .failed))) ∧
    (s.boot.step = .image → imageCheck s = none →
      rs = (splitRecords ((imageHeader s).recLen / 4 + 1)
        (slotBytes s (imageHeader s).recOfs (imageHeader s).recLen)).getD [] →
      u = measure (measure s 4 (sha384 (slotBytes s 0 (imageHeader s).sigOfs))) 5
        (sha384 (slotBytes s (imageHeader s).recOfs (imageHeader s).recLen)) →
      ((applyRecords u rs).isSome = true →
        (∃ t, Sys2Proof.Machine.exec (.imageReadDone cxl) s = .next t ∧ (
          t.boot.step = .running ∧ t.boot.records = rs ∧ t.boot.chain = u.boot.chain ∧ t.boot.wdStart = s.tick))) ∧
      ((applyRecords u rs).isSome = false →
        (∃ t, Sys2Proof.Machine.exec (.imageReadDone cxl) s = .next t ∧ (t.boot.fuses = s.boot.fuses ∧
          if bootSlot s = 0 ∧ strapChoice s < 8 then t.boot.step = .image ∧ bootSlot t = 1 ∧ field (rawReg t scBoot) 19 16 = 9
          else t.boot.step = .failed)))) ∧
    (s.boot.step = .running → (∃ t, Sys2Proof.Machine.exec .keysReady s = .next t ∧ (
      OnlyRegs s t [scBoot, attCtl] ∧ flag (rawReg t scBoot) 25 = true ∧ flag (rawReg t attCtl) 28 = false)))

/-! ### Resets (16) -/

/-- What a width-3 source leaves of s, with its code for PM_RST_CAUSE (Table 16-1, R402, R410): the kept registers, the
fuses and the queue stay, everything that its blocks hold returns to reset, and boot goes on at step 4. -/
structure WideReset (s t : State) (cause : Nat) : Prop where
  step : t.boot.step = .shelf
  fuses : t.boot.fuses = s.boot.fuses
  flash : t.boot.flash = s.boot.flash
  chain : t.boot.chain = s.boot.chain.take 3
  pending : t.pending = s.pending
  cause : field (rawReg t 0xE0000008) 31 28 = cause
  resets : field (rawReg t 0xE0000008) 15 0 = min (field (rawReg s 0xE0000008) 15 0 + 1) 0xFFFF
  kept : ∀ a, keptReg a = true → a ≠ 0xE0000008 → rawReg t a = rawReg s a
  cleared : ∀ a, keptReg a = false → a ≠ 0xE0000204 → rawReg t a = resetWord a
  counts : ∀ a, count t a = 0
  parts : ∀ p, t.part p = Part.free
  cores : ∀ c, t.core c = clearCore (s.core c)
  doms : ∀ d, d ≠ domAlways → domGet t d = Dom.off
  always : (domGet t domAlways).pwr = .on
  blks : ∀ b, blkGet t b = Blk.reset
  links : ∀ e, linkGet t e = Link.free
  ports : ∀ i, portGet t i = (portGet s i).stop
  objects : t.so = [] ∧ t.slots = [] ∧ t.soBlk = [] ∧ t.slotBlk = []
  queues : t.accs = [] ∧ t.admits = [] ∧ t.rises = [] ∧ t.falls = [] ∧ t.proofs = [] ∧ t.retire = []

/-- R402 to R405: the glitch count, the reset pin, the module watchdog and the remote reset, each asserting and
releasing. -/
def Obligations.WideResetSources : Prop :=
  ∀ s : State, s.Canonical →
    (∃ t, Sys2Proof.Machine.exec .prstGlitch s = .next t ∧ (t = { s with counts := t.counts } ∧
      ∀ a, count t a = if a = 0xE0000038 then (count s a + 1) % 2 ^ 48 else count s a)) ∧
    (booted s = true → (∃ t, Sys2Proof.Machine.exec .prstNAssert s = .next t ∧ (WideReset (flashCut s) t 2 ∧ t.boot.prstLow = true))) ∧
    (booted s = false → (∃ t, Sys2Proof.Machine.exec .prstNAssert s = .next t ∧ (t = { s with boot := { s.boot with prstLow := true } }))) ∧
    (∃ t, Sys2Proof.Machine.exec .prstNRelease s = .next t ∧ (t = { s with boot := { s.boot with prstLow := false } })) ∧
    (flag (rawReg s 0xE0000000) 30 = true → booted s = true →
      (∃ t, Sys2Proof.Machine.exec .moduleWatchdogExpiry s = .next t ∧ (WideReset s t 3 ∧ t.boot.wdHeld = true))) ∧
    (∃ t, Sys2Proof.Machine.exec .moduleWatchdogRelease s = .next t ∧ (t = { s with boot := { s.boot with wdHeld := false } })) ∧
    (s.boot.remoteDue = true → (∃ t, Sys2Proof.Machine.exec .remoteResetAssert s = .next t ∧ (WideReset s t 4)))

/-- A control access of the requester to the address meets nothing that stops it or makes it wait. -/
structure AccessGoes (s : State) (who : Requester) (level : Level) (a : Nat) : Prop where
  lvl : requesterLevel s who = some level
  first : waitsBehind s who = false
  gate : gateOf s level a = .go

/-- R26, R28, R10: a control write that nothing stops takes its effect; one that a status stops leaves everything; one to a
block that sleeps is held and its domain is asked to wake, and one behind it waits its turn. -/
def Obligations.ControlWriteOutcome : Prop :=
  ∀ (s : State) (who : Requester) (level : Level) (a v : Word),
    (AccessGoes s who level a.toNat → (∃ t, Sys2Proof.Machine.exec (.controlWrite who a v) s = .next t ∧ (t = (doWrite s who a.toNat v).1))) ∧
    (requesterLevel s who = none → (∃ t, Sys2Proof.Machine.exec (.controlWrite who a v) s = .next t ∧ (t = s))) ∧
    (requesterLevel s who = some level → waitsBehind s who = true →
      (∃ t, Sys2Proof.Machine.exec (.controlWrite who a v) s = .next t ∧ (t = { s with accs := s.accs ++ [⟨who, none, a, v, []⟩] }))) ∧
    (requesterLevel s who = some level → waitsBehind s who = false →
      (∀ st, gateOf s level a.toNat = .stop st → (∃ t, Sys2Proof.Machine.exec (.controlWrite who a v) s = .next t ∧ (t = s))) ∧
      (∀ d, gateOf s level a.toNat = .sleep d → (∃ t, Sys2Proof.Machine.exec (.controlWrite who a v) s = .next t ∧ (
        t = demandWake { s with accs := s.accs ++ [⟨who, none, a, v, []⟩] } d))))

/-- R404 to R406, R443: the register rows of the reset controller. That a partition reset reads ADMITTED at once is the
model's choice (assumption 72). -/
def Obligations.ResetRequests : Prop :=
  ∀ (s : State) (who : Requester) (level : Level) (v : Word) (p : Fin 16), s.Canonical →
    (AccessGoes s who level 0xE000000C →
      (∃ t, Sys2Proof.Machine.exec (.pmWdogKick who v) s = .next t ∧ (
        t = if v = 0x00C35AA5#32 then { s with boot := { s.boot with wdStart := s.tick } } else s))) ∧
    (AccessGoes s who level 0xE0000010 →
      (∃ t, Sys2Proof.Machine.exec (.pmRemoteReset who v) s = .next t ∧ (
        t = if level = .owner ∧ field v 15 0 = 0xA5C3 then { s with boot := { s.boot with remoteDue := true } } else s))) ∧
    (AccessGoes s who level 0xE0000014 → field v 31 16 = 0xA5C3 →
      ((s.part p).state = .free ∨ (s.part p).state = .scrubbing →
        (∃ t, Sys2Proof.Machine.exec (.partitionReset who p v) s = .next t ∧ (
          OnlyRegs s t [0xE0000004] ∧ flag (rawReg t 0xE0000004) 2 = true))) ∧
      ((s.part p).state ≠ .free → (s.part p).state ≠ .scrubbing → s.dump.busy = some p →
        (∃ t, Sys2Proof.Machine.exec (.partitionReset who p v) s = .next t ∧ (t = s.modPart p (fun x => { x with resetDue := true })))) ∧
      ((s.part p).state ≠ .free → (s.part p).state ≠ .scrubbing → s.dump.busy ≠ some p →
        (∃ t, Sys2Proof.Machine.exec (.partitionReset who p v) s = .next t ∧ (
          t = Machine.partitionReset s p ∧ (t.part p).state = .admitted ∧ (t.part p).shape = (s.part p).shape ∧
          (t.part p).connMap = (s.part p).connMap ∧ (∀ st, (t.part p).stream st = Stream.idle) ∧
          ((∀ e ∈ (s.part p).mem.prefQ, e.src = none) → t.mem = s.mem)))))

/-- R407 to R409, R411, R412: a block's software source, in mode ISOLATE and in mode DRAIN, and the events that end a
drain or a wait for the clock. -/
def Obligations.BlockResets : Prop :=
  ∀ (s : State) (who : Requester) (level : Level) (b : Nat) (v : Word) (x : Blk), s.Canonical → blkExists b = true →
    x = { blkGet s b with mode := (if flag v 30 = classDrain b then none else some (flag v 30)), drainTo := field v 29 22,
                          err := (blkGet s b).err && !flag v 15 } →
    (AccessGoes s who level (0xE0100000 + 4 * b) → (blkGet s b).soft = false → (blkGet s b).draining = false →
      (blkGet s b).inReset = false →
      (flag v 30 = true ∧ field v 29 22 ≠ 0 →
        (∃ t, Sys2Proof.Machine.exec (.blockResetSet who b v) s = .next t ∧ (blkGet t b = { x with soft := true, draining := true } ∧
          (∀ c, c ≠ b → blkGet t c = blkGet s c) ∧ t = { s with blks := t.blks }))) ∧
      (flag v 30 = false →
        (∃ t, Sys2Proof.Machine.exec (.blockResetSet who b v) s = .next t ∧ ((blkGet t b).inReset = true ∧ (blkGet t b).soft = true ∧
          (blkGet t b).iso = true ∧
          t = resetBlock (faultOnReset (blkSet s b
            { x with soft := true, inReset := true, iso := true, draining := false, stuck := false, heldClk := false,
                     widest := max x.widest 1 }) b) b)))) ∧
    (AccessGoes s who level (0xE0100000 + 4 * b) → (blkGet s b).soft = true → (blkGet s b).inReset = true →
      sourcesClear { blkGet s b with soft := false } = true → (blkGet s b).draining = false → (blkGet s b).widest ≠ 2 →
      (domGet s (blkDom b)).pwr = .on → (domGet s (blkDom b)).clkGood = true →
      (∃ t, Sys2Proof.Machine.exec (.blockResetClear who b v) s = .next t ∧ ((blkGet t b).inReset = false ∧ (blkGet t b).soft = false ∧
        (∀ c, c ≠ b → blkGet t c = blkGet s c) ∧ t = { s with blks := t.blks, ports := t.ports } ∧
        (∀ i, i ∉ blkPorts b → portGet t i = portGet s i) ∧
        (∀ i ∈ blkPorts b, portExists s i = true → (portGet s i).state = .off → portGet t i = (portGet s i).train)))) ∧
    ((blkGet s b).draining = true →
      (∃ t, Sys2Proof.Machine.exec (.drainIdle b) s = .next t ∧ (t = endDrain s b false ∧
        ((blkGet s b).soft = true → (blkGet t b).inReset = true ∧ (blkGet t b).iso = false))) ∧
      (∃ t, Sys2Proof.Machine.exec (.drainTimeout b) s = .next t ∧ (
        ((blkGet s b).soft = true → (blkGet t b).inReset = true ∧ (blkGet t b).iso = true) ∧
        (b ≠ 0x3800 → count t 0xE0000028 = (count s 0xE0000028 + 1) % 2 ^ 48 ∧
          rawReg t 0xE000001C = BitVec.ofNat 32 b ∧ flag (rawReg t 0xE0000004) 1 = true)))) ∧
    ((blkGet s b).heldClk = true →
      (∃ t, Sys2Proof.Machine.exec (.rstHeldClkExpiry b) s = .next t ∧ ((blkGet t b).heldClk = false ∧ (blkGet t b).err = true ∧
        OnlyRegs { s with blks := t.blks } t [0xE0000004] ∧ flag (rawReg t 0xE0000004) 0 = true)))

/-! ### Fuses, flash and attestation (15) -/

/-- R389: SC_FUSE_CMD. COMMIT_SVN raises the fused SVN to that of the booted image; REVOKE sets the bit of a key slot, and
is refused for a slot that verified the booted image. Nothing else of the state changes. -/
def Obligations.FuseCommands : Prop :=
  ∀ (s : State) (who : Requester) (v : Word) (k : Fin 4), AccessGoes s who .owner 0xD000000C → field v 31 16 = 0x5EC0 →
    (∃ t, Sys2Proof.Machine.exec (.commitSvn who v) s = .next t ∧ (
      t = { s with boot := { s.boot with fuses := { s.boot.fuses with
        svn := Nat.max s.boot.fuses.svn (field (rawReg s 0xD0000000) 11 6) } } })) ∧
    (field (rawReg s 0xD0000000) 5 4 ≠ k.val → (∃ t, Sys2Proof.Machine.exec (.revokeRsa who k v) s = .next t ∧ (
      t = { s with boot := { s.boot with fuses := { s.boot.fuses with
        rsaRevoked := s.boot.fuses.rsaRevoked ||| 2 ^ k.val } } }))) ∧
    (field (rawReg s 0xD0000000) 3 2 ≠ k.val → (∃ t, Sys2Proof.Machine.exec (.revokeSlh who k v) s = .next t ∧ (
      t = { s with boot := { s.boot with fuses := { s.boot.fuses with
        slhRevoked := s.boot.fuses.slhRevoked ||| 2 ^ k.val } } }))) ∧
    (field (rawReg s 0xD0000000) 5 4 = k.val → (∃ t, Sys2Proof.Machine.exec (.revokeRsa who k v) s = .next t ∧ (t = s)) ∧
      (doWrite s who 0xD000000C (setField (setField v 7 4 2) 1 0 k.val)).2 = 1) ∧
    (field (rawReg s 0xD0000000) 3 2 = k.val → (∃ t, Sys2Proof.Machine.exec (.revokeSlh who k v) s = .next t ∧ (t = s)) ∧
      (doWrite s who 0xD000000C (setField (setField v 7 4 3) 1 0 k.val)).2 = 1)

/-- The flash operation `op` has started: BUSY is set, and the operation holds the place of SLOT and SC_FLASH_ADDR, aligned to
`unit` bytes, and the bytes of the window (R397; that they are those of the START is the model's choice, assumption 84). -/
structure FlashStarted (s t : State) (op : Nat) (slot : Bool) (unit : Nat) : Prop where
  frame : OnlyRegs { s with boot := t.boot } t [0xD0000200]
  busy : flag (rawReg t 0xD0000200) 30 = true
  kind : field (rawReg t 0xD0000200) 25 24 = op
  into : flag (rawReg t 0xD0000200) 23 = slot
  boot : t.boot = { s.boot with flashOp := t.boot.flashOp }
  operation : t.boot.flashOp = some
    { op := op, bytes := flashWindow s,
      place := (if slot then 0x2000000 else 0) + field (rawReg s 0xD0000204) 24 0 / unit * unit }

/-- R397, Table 15-16: a START of a flash operation by the device owner sets BUSY and the operation, unless the slot is
the recovery slot, the operation writes and the module does not run from it; then nothing starts. -/
def Obligations.FlashStarts : Prop :=
  ∀ (s : State) (who : Requester) (v : Word), s.Canonical → AccessGoes s who .owner 0xD0000200 →
    flag (rawReg s 0xD0000200) 30 = false →
    (∃ t, Sys2Proof.Machine.exec (.flashRead who v) s = .next t ∧ (FlashStarted s t 0 (flag v 23) 256)) ∧
    (flag v 23 = false ∨ bootSlot s = 1 →
      (∃ t, Sys2Proof.Machine.exec (.flashProgram who v) s = .next t ∧ (FlashStarted s t 1 (flag v 23) 256)) ∧
      (∃ t, Sys2Proof.Machine.exec (.flashErase who v) s = .next t ∧ (FlashStarted s t 2 (flag v 23) 0x10000))) ∧
    (flag v 23 = true ∧ bootSlot s = 0 →
      (∃ t, Sys2Proof.Machine.exec (.flashProgram who v) s = .next t ∧ (OnlyRegs s t [0xD0000200] ∧ flag (rawReg t 0xD0000200) 30 = false)) ∧
      (∃ t, Sys2Proof.Machine.exec (.flashErase who v) s = .next t ∧ (OnlyRegs s t [0xD0000200] ∧ flag (rawReg t 0xD0000200) 30 = false)))

/-- R397, Table 15-16: the operation ends. PROGRAM writes its bytes at its place, ERASE leaves its 64 KiB sector erased, READ
fills the window with 256 bytes; a failed operation writes nothing and sets ERR. No other byte of the flash changes. -/
def Obligations.FlashOperationEnds : Prop :=
  ∀ (s : State) (o : FlashOp) (a : Nat), s.Canonical →
    (s.boot.flashOp = some o →
      (∃ t, Sys2Proof.Machine.exec (.flashOpDone false) s = .next t ∧ (
        OnlyRegs { s with boot := { s.boot with flashOp := none } } t [0xD0000200] ∧
        flag (rawReg t 0xD0000200) 30 = false ∧ flag (rawReg t 0xD0000200) 29 = true)) ∧
      (o.op = 0 → (∃ t, Sys2Proof.Machine.exec (.flashOpDone true) s = .next t ∧ (
        t = { s with regs := t.regs, boot := { s.boot with flashOp := none } } ∧ flag (rawReg t 0xD0000200) 30 = false ∧
        (∀ i, i < 64 → rawReg t (0xD0000300 + 4 * i) =
          BitVec.ofNat 32 (leAt (Sparse.getRun 0xFF#8 s.boot.flash o.place 256) (4 * i) 4)) ∧
        (a ≠ 0xD0000200 → a < 0xD0000300 ∨ 0xD0000400 ≤ a → rawReg t a = rawReg s a)))) ∧
      (o.op = 1 → (∃ t, Sys2Proof.Machine.exec (.flashOpDone true) s = .next t ∧ (
        OnlyRegs { s with boot := { s.boot with flash := t.boot.flash, flashOp := none } } t [0xD0000200] ∧
        flag (rawReg t 0xD0000200) 30 = false ∧
        Sparse.get 0xFF#8 t.boot.flash a =
          if o.place ≤ a ∧ a < o.place + o.bytes.length then o.bytes.getD (a - o.place) 0#8
          else Sparse.get 0xFF#8 s.boot.flash a))) ∧
      (o.op = 2 → (∃ t, Sys2Proof.Machine.exec (.flashOpDone true) s = .next t ∧ (
        OnlyRegs { s with boot := { s.boot with flash := t.boot.flash, flashOp := none } } t [0xD0000200] ∧
        flag (rawReg t 0xD0000200) 30 = false ∧
        Sparse.get 0xFF#8 t.boot.flash a =
          if o.place ≤ a ∧ a < o.place + 0x10000 then 0xFF#8 else Sparse.get 0xFF#8 s.boot.flash a)))) ∧
    (s.boot.flashOp = none → ∀ ok, (∃ t, Sys2Proof.Machine.exec (.flashOpDone ok) s = .next t ∧ (t = s)))

/-- R393: a START sets BUSY unless a report is being built, and takes SC_BOOT and the nonce as they stand; the report's end
clears BUSY, sets DONE and gives LEN; a START while BUSY builds no second report. -/
def Obligations.Attestation : Prop :=
  ∀ (s : State) (who : Requester) (level : Level) (v : Word), s.Canonical →
    (AccessGoes s who level 0xD0000100 → flag (rawReg s 0xD0000100) 30 = false →
      (∃ t, Sys2Proof.Machine.exec (.attestStart who v) s = .next t ∧ (OnlyRegs { s with boot := t.boot } t [0xD0000100] ∧
        flag (rawReg t 0xD0000100) 30 = true ∧ flag (rawReg t 0xD0000100) 29 = (flag (rawReg s 0xD0000100) 29 && !flag v 29) ∧
        flag (rawReg t 0xD0000100) 28 = !flag (rawReg s 0xD0000000) 25 ∧
        t.boot = { s.boot with report := [], request := leBytes 4 (rawReg s 0xD0000000).toNat ++
          (List.range 12).flatMap (fun i => leBytes 4 (rawReg s (0xD0000104 + 4 * i)).toNat) }))) ∧
    (AccessGoes s who level 0xD0000100 → flag (rawReg s 0xD0000100) 30 = true →
      (∃ t, Sys2Proof.Machine.exec (.attestStart who v) s = .next t ∧ (OnlyRegs s t [0xD0000100] ∧ flag (rawReg t 0xD0000100) 30 = true))) ∧
    (flag (rawReg s 0xD0000100) 30 = true → flag (rawReg s 0xD0000100) 28 = false →
      (∃ t, Sys2Proof.Machine.exec .attestDone s = .next t ∧ (OnlyRegs { s with boot := { s.boot with report := reportOf s } } t [0xD0000100] ∧
        flag (rawReg t 0xD0000100) 30 = false ∧ flag (rawReg t 0xD0000100) 29 = true ∧
        field (rawReg t 0xD0000100) 14 0 = (16848 + 64 * s.boot.chain.length) % 2 ^ 15)))

/-! ### Dumps, counters and monitors (18, 19) -/

/-- R462, R464: DB_DUMP_CTL.START asks for a dump of a FAULTED partition; the capture ends with the dump held; RELEASE
discards it; a START that finds the area taken is lost. -/
def Obligations.HangDump : Prop :=
  ∀ (s : State) (who : Requester) (level : Level) (v : Word) (p : Fin 16), s.Canonical →
    (AccessGoes s who level 0xF000000C → field v 27 24 = p.val → (s.part p).state = .faulted →
      (s.dump.busy = none → s.dump.held = none → (∃ t, Sys2Proof.Machine.exec (.dumpStart who v) s = .next t ∧ (
        t.dump = { s.dump with busy := some p, depth := field (rawReg t 0xF000000C) 23 22 } ∧
        OnlyRegs { s with dump := t.dump } t [0xF000000C]))) ∧
      (s.dump.held.isSome = true ∨ s.dump.busy.isSome = true → (∃ t, Sys2Proof.Machine.exec (.dumpStart who v) s = .next t ∧ (
        OnlyRegs s t [0xF000000C, 0xF0000000] ∧ flag (rawReg t 0xF0000000) 5 = true)))) ∧
    (s.dump.busy = some p → (s.part p).resetDue = false → (∃ t, Sys2Proof.Machine.exec .dumpCaptureDone s = .next t ∧ (
      t.dump.busy = none ∧ t.dump.held = some p ∧ t.dump.data = dumpBytes s p ∧
      t.dump.len = sectionOfs (sectionLens s p) 9 ∧ OnlyRegs { s with dump := t.dump } t [0xF0000000] ∧
      flag (rawReg t 0xF0000000) 4 = true))) ∧
    (AccessGoes s who level 0xF000000C → s.dump.held = some p → (∃ t, Sys2Proof.Machine.exec (.dumpRelease who v) s = .next t ∧ (
      t.dump.held = none ∧ t.dump.data = [] ∧ OnlyRegs { s with dump := t.dump } t [0xF000000C])))

/-- R467, R470, R474: a counter that wraps sets OVF and continues from 0, or from RELOAD with SAMPLE; a write of DB_CNT_HI
is held, and the write of DB_CNT_LO sets all 48 bits and advances EPOCH. -/
def Obligations.CoreCounters : Prop :=
  ∀ (s : State) (who : Requester) (level : Level) (nn : Fin 64) (j : Fin 16) (v : Word) (h : Nat), s.Canonical →
    (counterRuns s nn j = true → flag (rawReg s (cntBase nn j)) 30 = false →
      (∃ t, Sys2Proof.Machine.exec (.counterWrap nn j) s = .next t ∧ (count t (cntBase nn j + 8) = 0 ∧
        OnlyRegs { s with counts := t.counts, freeCount := t.freeCount } t [cntBase nn j + 4] ∧
        flag (rawReg t (cntBase nn j + 4)) 15 = true))) ∧
    (counterRuns s nn j = true → flag (rawReg s (cntBase nn j)) 30 = true →
      (∃ t, Sys2Proof.Machine.exec (.counterWrap nn j) s = .next t ∧ (
        count t (cntBase nn j + 8) = count s (cntBase nn j + 0x10) % 2 ^ 48 ∧ flag (rawReg t (cntBase nn j + 4)) 15 = true))) ∧
    (AccessGoes s who level (cntBase nn j + 0xC) →
      (∃ t, Sys2Proof.Machine.exec (.dbCntWrite who (BitVec.ofNat 32 (cntBase nn j + 0xC)) v) s = .next t ∧ (
        Sparse.get 0 t.heldHi (capKey who (cntBase nn j + 0xC)) = v.toNat + 1 ∧ t = { s with heldHi := t.heldHi }))) ∧
    (AccessGoes s who level (cntBase nn j + 8) →
      Sparse.get 0 s.heldHi (capKey who (cntBase nn j + 0xC)) = h + 1 →
      (∃ t, Sys2Proof.Machine.exec (.dbCntWrite who (BitVec.ofNat 32 (cntBase nn j + 8)) v) s = .next t ∧ (
        count t (cntBase nn j + 8) = h % 2 ^ 16 * 2 ^ 32 + v.toNat ∧
        field (rawReg t (cntBase nn j + 4)) 31 16 = (field (rawReg s (cntBase nn j + 4)) 31 16 + 1) % 2 ^ 16 ∧
        Sparse.get 0 t.heldHi (capKey who (cntBase nn j + 0xC)) = 0)))

/-- R479: a write of a monitor's WINDOW from 1 to 1,000,000 sets it and advances EPOCH; the end of a window makes its
counts readable and advances EPOCH. Only the monitor's registers and counts change. -/
def Obligations.BandwidthMonitors : Prop :=
  ∀ (s : State) (who : Requester) (level : Level) (m : Fin 64) (v : Word) (rx tx : Nat), s.Canonical → m.val < 56 →
    (AccessGoes s who level (0xF0002000 + 0x20 * m.val) → 1 ≤ field v 19 0 → field v 19 0 ≤ 1000000 →
      (∃ t, Sys2Proof.Machine.exec (.dbMonCfg who (BitVec.ofNat 32 (0xF0002000 + 0x20 * m.val)) v) s = .next t ∧ (
        OnlyRegs s t [0xF0002000 + 0x20 * m.val, 0xF0002004 + 0x20 * m.val] ∧
        field (rawReg t (0xF0002000 + 0x20 * m.val)) 19 0 = field v 19 0 ∧
        flag (rawReg t (0xF0002000 + 0x20 * m.val)) 31 = flag v 31 ∧
        field (rawReg t (0xF0002004 + 0x20 * m.val)) 31 16 = (field (rawReg s (0xF0002004 + 0x20 * m.val)) 31 16 + 1) % 2 ^ 16))) ∧
    (flag (rawReg s (0xF0002000 + 0x20 * m.val)) 31 = true →
      (∃ t, Sys2Proof.Machine.exec (.monitorWindowEnd m rx tx) s = .next t ∧ (
        OnlyRegs { s with counts := t.counts } t [0xF0002004 + 0x20 * m.val] ∧
        count t (0xF0002008 + 0x20 * m.val) = rx % 2 ^ 48 ∧ count t (0xF0002010 + 0x20 * m.val) = tx % 2 ^ 48 ∧
        field (rawReg t (0xF0002004 + 0x20 * m.val)) 31 16 = (field (rawReg s (0xF0002004 + 0x20 * m.val)) 31 16 + 1) % 2 ^ 16)))

/-! ### Domains, clocks and the governor (16) -/

/-- R415, R416, R418, R424: a domain that may sleep begins to stop through a falling ramp; a stop that completes leaves it
OFF, or takes the demand that was latched; the governor grants the first request of a queue, no rise under PEAK_HOLD; a
rising ramp ends with its domain on. -/
def Obligations.DomainPower : Prop :=
  ∀ (s : State) (d i : Nat) (r : Ramp) (rs : List Ramp), s.Canonical →
    (domOn s d = true → maySleep s d = true → (∃ t, Sys2Proof.Machine.exec (.idleSleep d) s = .next t ∧ (
      (domGet t d).pwr = .stopping ∧ (∀ e, e ≠ d → domGet t e = domGet s e) ∧
      t = { s with doms := t.doms, falls := s.falls ++ [⟨[d], false, false⟩] }))) ∧
    ((domGet s d).pwr = .stopping → s.falls.all (fun r => !r.doms.contains d) = true →
      ((domGet s d).pendingOn = false → (∃ t, Sys2Proof.Machine.exec (.powerStopDone d) s = .next t ∧ ((domGet t d).pwr = .off ∧
        (domGet t d).clkGood = false ∧ (domGet t d).retain = retains s d ∧ (∀ e, e ≠ d → domGet t e = domGet s e)))) ∧
      ((domGet s d).pendingOn = true → thermalHold s = false → isShed s d = false → (∃ t, Sys2Proof.Machine.exec (.powerStopDone d) s = .next t ∧ (
        (domGet t d).pwr = .waking ∧ (domGet t d).pendingOn = false)))) ∧
    (s.rises = r :: rs → r.granted = false → flag (rawReg s 0xE0000204) 28 = false →
      (∃ t, Sys2Proof.Machine.exec (.governorGrant false) s = .next t ∧ (t = { s with rises := { r with granted := true } :: rs }))) ∧
    (flag (rawReg s 0xE0000204) 28 = true → (∃ t, Sys2Proof.Machine.exec (.governorGrant false) s = .next t ∧ (t = s))) ∧
    (s.falls = r :: rs → r.granted = false →
      (∃ t, Sys2Proof.Machine.exec (.governorGrant true) s = .next t ∧ (t = { s with falls := { r with granted := true } :: rs }))) ∧
    (Quiet s → s.falls[i]? = some r → r.granted = true → r.opMove = false →
      (∃ t, Sys2Proof.Machine.exec (.rampDone true i) s = .next t ∧ (t = { s with falls := s.falls.eraseIdx i }))) ∧
    (Quiet s → s.rises[i]? = some r → r.granted = true → r.opMove = false → r.doms = [d] →
      (∃ t, Sys2Proof.Machine.exec (.rampDone false i) s = .next t ∧ ((domGet t d).pwr = .on ∧ (domGet t d).clkGood = true ∧
        t.falls = s.falls ∧ t.mem = s.mem ∧ t.parts = s.parts)))

/-- R419 to R421, R461: a PLL locks or fails; PM_OP pins the operating point, and a move ends with its target in force; a
mismatch of the management view is posted, recorded and counted. -/
def Obligations.ClocksAndOperatingPoint : Prop :=
  ∀ (s : State) (c : Fin 8) (who : Requester) (level : Level) (v : Word) (b n : Nat), s.Canonical →
    (∃ t, Sys2Proof.Machine.exec (.pllLock c) s = .next t ∧ (clkLocked t c.val = true ∧ flag (rawReg t (0xE0000100 + 4 * c.val)) 30 = false ∧
      OnlyRegs { s with doms := t.doms, rises := t.rises } t [0xE0000100 + 4 * c.val])) ∧
    (Quiet s → (∃ t, Sys2Proof.Machine.exec (.pllLockFail c) s = .next t ∧ (OnlyRegs { s with blks := t.blks } t [0xE0000100 + 4 * c.val] ∧
      flag (rawReg t (0xE0000100 + 4 * c.val)) 30 = true ∧
      (b ∈ allBlks → waitsPll s c.val b = true → (blkGet t b).inReset = true ∧ (blkGet t b).heldClk = true)))) ∧
    (AccessGoes s who level 0xE0000018 → (∃ t, Sys2Proof.Machine.exec (.pmOp who v) s = .next t ∧ (
      OnlyRegs { s with power := t.power, rises := t.rises } t [0xE0000018] ∧
      field (rawReg t 0xE0000018) 31 29 = field v 31 29 ∧
      (s.power.brake = false → flag v 31 = true → opMoving s = false → field v 30 29 ≠ opCur s →
        opMoving t = true ∧ opTarget t = field v 30 29)))) ∧
    (opMoving s = true → moveGranted s = true → (∃ t, Sys2Proof.Machine.exec .opMoveDone s = .next t ∧ (opCur t = opTarget s ∧
      OnlyRegs { s with power := t.power, rises := t.rises } t [0xE0000018]))) ∧
    (blkExists b = true → (∃ t, Sys2Proof.Machine.exec (.stateMismatch b n) s = .next t ∧ (
      flag (rawReg t 0xF0000000) 0 = true ∧ rawReg t 0xF0000018 = BitVec.ofNat 32 b ∧
      count t 0xF0000030 = (count s 0xF0000030 + 1) % 2 ^ 48 ∧
      OnlyRegs { s with doms := t.doms, counts := t.counts } t [0xF0000000, 0xF0000018] ∧
      (∀ d, d ≠ blkDom b → domGet t d = domGet s d))))

/-! ### Power and heat (17) -/

/-- R431, R432: one period of the average loop. Above the cap levels rise, lowest priority first; below it by more than 3 %
of CAP one level falls; between them every level stays. -/
def Obligations.AverageLoop : Prop :=
  ∀ (s : State) (m : PowerReading) (x : Rat) (order : List Nat), s.Canonical →
    x = (m.p1 : Rat) - effectiveCap s m → order = classOrder (field (pwrCfg s) 26 24) →
    (∃ t, Sys2Proof.Machine.exec (.averageLoop m) s = .next t ∧ (
      rawReg t 0xE0000208 = (at32 16 m.p1 ||| at32 0 m.pWindow) ∧ t.power.periods = s.power.periods + 1 ∧
      (0 < x → t.power.avg = (raiseLevels m.classes order (x, s.power.avg)).2) ∧
      (x ≤ 0 → -(3 * (capW s : Rat) / 100) ≤ x → t.power.avg = s.power.avg) ∧
      (x < -(3 * (capW s : Rat) / 100) → t.power.avg = lowerLevel order s.power.avg) ∧
      t = { s with regs := t.regs, counts := t.counts, power := t.power, rises := t.rises }))

/-- R435, R436: at the floor with CAP_UNATTAINABLE the next domain is shed, and nothing is shed away from it; after 100
periods of headroom the domain shed last returns, the kept port first, and CAP_UNATTAINABLE clears with the last one. -/
def Obligations.Shedding : Prop :=
  ∀ (s : State) (e k : Nat), s.Canonical → Quiet s →
    (statusBit s 31 = true → atFloor s = true → s.power.headRun = 0 →
      ((classOrder (field (pwrCfg s) 26 24)).flatMap (shedClass s)).find? (fun k => !s.power.shed.contains k) = some e →
      (∃ t, Sys2Proof.Machine.exec .shedDomain s = .next t ∧ (t.power.shed = s.power.shed ++ [e] ∧ flag (rawReg t 0xE0000224) 7 = true ∧
        OnlyRegs { s with power := t.power } t [0xE0000224]))) ∧
    (statusBit s 31 = false ∨ atFloor s = false → (∃ t, Sys2Proof.Machine.exec .shedDomain s = .next t ∧ (t = s))) ∧
    ((∀ k, keptPort s = some k → 12 + k ∉ s.power.shed) → s.power.shed.getLast? = some e → 100 ≤ s.power.headRun →
      (∃ t, Sys2Proof.Machine.exec .unshedDomain s = .next t ∧ (t.power.shed = s.power.shed.erase e ∧
        (s.power.shed = [e] → statusBit t 31 = false) ∧ t.mem = s.mem ∧ t.parts = s.parts))) ∧
    (keptPort s = some k → 12 + k ∈ s.power.shed → 100 ≤ s.power.headRun →
      (∃ t, Sys2Proof.Machine.exec .unshedDomain s = .next t ∧ (t.power.shed = s.power.shed.erase (12 + k) ∧
        (s.power.shed = [12 + k] → statusBit t 31 = false) ∧ t.mem = s.mem ∧ t.parts = s.parts))) ∧
    (s.power.headRun < 100 → (∃ t, Sys2Proof.Machine.exec .unshedDomain s = .next t ∧ (t.mem = s.mem ∧ t.parts = s.parts ∧ t.power = s.power)))

/-- R433, R434: PEAK_HOLD by the margins of 150 W and 200 W at every tick, under which no level falls; a droop trip is
counted and stretches its die's clocks; a droop that outlasts the stretch holds the compute level at 8 or more until the
supply recovers. -/
def Obligations.PeakAndDroop : Prop :=
  ∀ (s : State) (m : PeakReading) (die : Fin 3) (k : Fin 3), s.Canonical → s.power.stretch.length = 3 → s.power.droop.length = 3 →
    (∃ t, Sys2Proof.Machine.exec (.peakLoop m) s = .next t ∧ (t.tick = s.tick + 1 ∧
      statusBit t 28 = (if peakW s < m.p100us + 150 then true else if m.p100us + 200 < peakW s then false
        else statusBit s 28) ∧
      rawReg t 0xE000020C = (at32 16 m.centivolts ||| at32 0 (m.centiamps % 65536)) ∧
      OnlyRegs { s with tick := t.tick, counts := t.counts, power := t.power } t [0xE0000204, 0xE000020C] ∧
      t.power = { s.power with heldLevels := t.power.heldLevels } ∧
      levelOf t.power k.val = (if statusBit t 28 then levelOf s.power k.val else wantedLevel s.power k.val) ∧
      count t 0xE0000020 = (if (s.rises ++ s.falls).any (fun r => !r.granted) then (count s 0xE0000020 + 1) % 2 ^ 48
        else count s 0xE0000020))) ∧
    (∃ t, Sys2Proof.Machine.exec (.droopTrip die) s = .next t ∧ (t.power.stretch.getD die.val false = true ∧
      count t 0xE0000250 = (count s 0xE0000250 + 1) % 2 ^ 48 ∧ t = { s with power := t.power, counts := t.counts })) ∧
    (s.power.stretch.getD die.val false = true → (∃ t, Sys2Proof.Machine.exec (.droopStretchLimit die) s = .next t ∧ (
      t.power.stretch.getD die.val false = false ∧ 8 ≤ levelOf t.power 0 ∧ t = { s with power := t.power }))) ∧
    (∃ t, Sys2Proof.Machine.exec (.droopRecover die) s = .next t ∧ (t.power.stretch.getD die.val false = false ∧
      t.power.droop.getD die.val false = false ∧ t = { s with power := t.power }))

/-- R437, R438: the brake engages and asks for OP3 with every class at level 15; a short low only counts; the brake
releases after its hold; a brake held for 1 s is posted once. -/
def Obligations.EmergencyBrake : Prop :=
  ∀ (s : State) (k : Fin 3), s.Canonical →
    (∃ t, Sys2Proof.Machine.exec .pwrbrkEngage s = .next t ∧ (t.power.brake = true ∧ t.power.brakeHold = false ∧ wantedLevel t.power k.val = 15 ∧
      15 ≤ levelOf t.power k.val ∧
      wantedPoint t = 3 ∧ (s.power.brake = false → flag (rawReg t 0xE0000224) 1 = true) ∧
      OnlyRegs { s with power := t.power, rises := t.rises } t [0xE0000224, 0xE0000018])) ∧
    (∃ t, Sys2Proof.Machine.exec .pwrbrkIgnore s = .next t ∧ (count t 0xE0000260 = (count s 0xE0000260 + 1) % 2 ^ 48 ∧
      t = { s with counts := t.counts })) ∧
    (∃ t, Sys2Proof.Machine.exec .pwrbrkHigh s = .next t ∧ (t.power.brakeHold = s.power.brake ∧ t = { s with power := t.power })) ∧
    (s.power.brake = true → s.power.brakeHold = true → (∃ t, Sys2Proof.Machine.exec .brakeHoldEnd s = .next t ∧ (t.power.brake = false ∧
      OnlyRegs { s with power := t.power, rises := t.rises } t [0xE0000018]))) ∧
    (s.power.brake = true → s.power.longPosted = false → (∃ t, Sys2Proof.Machine.exec .brakeLong s = .next t ∧ (flag (rawReg t 0xE0000224) 2 = true ∧
      t.power.longPosted = true ∧ OnlyRegs { s with power := t.power } t [0xE0000224])))

/-- R439 to R443, R331: a thermal sample that trips nothing and one that trips, the coolant's readings and warning, the
coolant trip with its hold, the end of the hold, and the links of the CXL ports. -/
def Obligations.HeatAndCoolant : Prop :=
  ∀ (s : State) (m : ThermalReading) (k : CoolantReading) (src : Fin 3) (x : Fin 4) (d : Nat) (who : Requester) (v : Word),
    s.Canonical → Quiet s →
    ((throttleStep s.power m).hotRun.any (fun e => decide (3 ≤ e.2)) = false →
      (∃ t, Sys2Proof.Machine.exec (.thermalSample m) s = .next t ∧ (t.power.junctions = m.junctions ∧
        t.power.therm = (throttleStep s.power m).therm ∧ t.power.throttling = (throttleStep s.power m).throttling ∧
        t = { s with regs := t.regs, power := t.power, rises := t.rises }))) ∧
    ((throttleStep s.power m).hotRun.any (fun e => decide (3 ≤ e.2)) = true → thermalHold s = false →
      (∃ t, Sys2Proof.Machine.exec (.thermalSample m) s = .next t ∧ (thermalHold t = true ∧ field (rawReg t 0xE0000228) 30 29 = 0 ∧
        flag (rawReg t 0xE0000224) 4 = true ∧ (d ∈ tripDoms → domGet t d = Dom.off)))) ∧
    (∃ t, Sys2Proof.Machine.exec (.coolantSample k) s = .next t ∧ (OnlyRegs { s with power := t.power } t [0xE000022C, 0xE0000224] ∧
      t.power = { s.power with coldRun := if k.inlet < 20 then s.power.coldRun + 1 else 0 } ∧
      rawReg t 0xE000022C = (at32 20 (k.flow % 4096) ||| at32 8 (k.outlet % 256) ||| at32 0 (k.inlet % 256)) ∧
      (k.inlet < 20 → 99 ≤ s.power.coldRun → flag (rawReg t 0xE0000224) 6 = true))) ∧
    (∃ t, Sys2Proof.Machine.exec .coolantWarning s = .next t ∧ (OnlyRegs s t [0xE0000204, 0xE0000224] ∧ statusBit t 26 = true ∧
      flag (rawReg t 0xE0000224) 5 = true)) ∧
    (∃ t, Sys2Proof.Machine.exec .coolantWarningEnd s = .next t ∧ (OnlyRegs s t [0xE0000204] ∧ statusBit t 26 = false)) ∧
    (src ≠ 0 → thermalHold s = false → (∃ t, Sys2Proof.Machine.exec (.coolantTrip src) s = .next t ∧ (thermalHold t = true ∧
      field (rawReg t 0xE0000228) 30 29 = src.val ∧ flag (rawReg t 0xE0000224) 4 = true ∧
      (d ∈ tripDoms → domGet t d = Dom.off) ∧ t.rises = [] ∧ t.falls = []))) ∧
    (AccessGoes s who .owner 0xE0000230 → thermalHold s = true → field v 31 16 = 0xA5C3 → flag v 0 = true →
      s.power.junctions.all (fun t => decide (t < 85)) = true → statusBit s 26 = false →
      (∃ t, Sys2Proof.Machine.exec (.pmThermCtl who v) s = .next t ∧ (thermalHold t = false ∧
        OnlyRegs { s with doms := t.doms, rises := t.rises, counts := t.counts } t [0xE0000228]))) ∧
    (cxlState s x.val = 2 → (∃ t, Sys2Proof.Machine.exec (.cxlPortDown x) s = .next t ∧ (cxlState t x.val = 3 ∧ flag (rawReg t 0xA0000004) 2 = true ∧
      OnlyRegs { s with proofs := t.proofs } t [0xA0000004, 0xA0000100 + 0x40 * x.val]))) ∧
    (cxlState s x.val = 3 ∨ cxlState s x.val = 1 → retiredHalves s x.val ≠ 3 → (∃ t, Sys2Proof.Machine.exec (.cxlLinkUp x) s = .next t ∧ (
      cxlState t x.val = 2 ∧ OnlyRegs s t [0xA0000100 + 0x40 * x.val])))

/-- R441: while a coolant warning holds, COOL_WARN reads 1 and the average loop uses the lower of C and 800 W; the warning
ends when every reading has been within limits for 1 s. -/
def Obligations.CoolantWarningCap : Prop :=
  ∀ (s : State) (m : PowerReading), s.Canonical →
    (∃ t, Sys2Proof.Machine.exec .coolantWarning s = .next t ∧ (flag (pwrStatus t) 26 = true ∧
      effectiveCap t m = min (effectiveCap (setStatus t 26 false) m) 800)) ∧
    (statusBit s 26 = true → flag (pwrStatus s) 26 = true ∧
      effectiveCap s m = min (effectiveCap (setStatus s 26 false) m) 800) ∧
    (∃ t, Sys2Proof.Machine.exec .coolantWarningEnd s = .next t ∧ (statusBit t 26 = false ∧ t = setStatus s 26 false))

/-- R492: ALERT_N of a powered module is low while PM_PWR_STATUS holds CAP_UNATTAINABLE, BRAKE, THROTTLE or COOL_WARN, or
while PM_THERM_STATUS.TRIP is set, and released otherwise; that of an unpowered one is released. -/
def Obligations.AlertOutput : Prop :=
  ∀ s : State,
    (s.boot.step ≠ .off → (alertPin s = false ↔ flag (pwrStatus s) 31 = true ∨ flag (pwrStatus s) 30 = true ∨
      flag (pwrStatus s) 29 = true ∨ flag (pwrStatus s) 26 = true ∨ flag (thermStatus s) 31 = true)) ∧
    (s.boot.step = .off → alertPin s = true)

/-! ### Proof runs, retirement and the patrol (13, 18) -/

/-- R455, R457, Table 18-11: the run of the resource at the head of the queue starts; a run that passes is a transient
verdict and leaves the resource in service; a run that fails is a lasting one; each is counted, recorded and leaves the
queue. -/
def Obligations.ProofRuns : Prop :=
  ∀ (s : State) (r : ProofReq) (failing : List Nat), s.Canonical → (∀ q ∈ s.proofs, q.kind = r.kind → q.index = r.index → q = r) →
    (r ∈ s.proofs → mayProve s r.kind r.index = true → (∃ t, Sys2Proof.Machine.exec (.proofRunStart r.kind r.index) s = .next t ∧ (
      { r with running := true } ∈ t.proofs ∧ t.proofs.length = s.proofs.length ∧ t = { s with proofs := t.proofs }))) ∧
    (r ∈ s.proofs → r.running = true → Sparse.get [] s.transients (r.kind * 2 ^ 56 + r.index) = [] →
      (∃ t, Sys2Proof.Machine.exec (.proofRunDone r.kind r.index false failing) s = .next t ∧ (
        t.proofs = s.proofs.filter (fun q => !(decide (q.kind = r.kind) && decide (q.index = r.index))) ∧
        Sparse.get [] t.transients (r.kind * 2 ^ 56 + r.index) = [s.tick] ∧
        count t 0xF0000020 = (count s 0xF0000020 + 1) % 2 ^ 48 ∧ field (rawReg t 0xF0000014) 27 26 = 1 ∧
        t.frames = s.frames ∧ t.cores = s.cores ∧ t.boot = s.boot ∧ t.parts = s.parts))) ∧
    (r ∈ s.proofs → r.running = true → (∃ t, Sys2Proof.Machine.exec (.proofRunDone r.kind r.index true failing) s = .next t ∧ (
      ∃ u, t = retireRes u r.kind r.index failing ∧ OnlyRegs { s with proofs := u.proofs, transients := u.transients, counts := u.counts } u [0xF0000014] ∧
        count u 0xF0000028 = (count s 0xF0000028 + 1) % 2 ^ 48 ∧ field (rawReg u 0xF0000014) 27 26 = 2 ∧
        u.proofs = s.proofs.filter (fun q => !(decide (q.kind = r.kind) && decide (q.index = r.index))))))

/-- R459, R460, Table 18-4: the move of a frame ends with its contents in the new frame, the new frame in its partition's
place of the old and the old one retired and burned; a replaced row ends its wait with its granules decoded; spare lanes carry
their link. -/
def Obligations.RetirementMoves : Prop :=
  ∀ (s : State) (i : Nat) (r : ProofReq) (p : Fin 16) (ofs a : Nat) (link : Fin 2), s.Canonical → s.retire[i]? = some r →
    (r.kind = 1 ∨ r.kind = 3 → frameExchanging s r.index = false → holdsFrame s r.index = some p → r.index ≠ r.count →
      disturbedIn s r.index = [] → (∃ t, Sys2Proof.Machine.exec (.retireMoveDone i) s = .next t ∧ (
        Sparse.get 0 t.frames r.index = 99 ∧ t.retire = s.retire.eraseIdx i ∧
        (t.part p).mem.pages = (s.part p).mem.pages.map (fun f => if f = r.index then r.count else f) ∧
        (s.boot.fuses.frames.length < 1024 → t.boot.fuses.frames = s.boot.fuses.frames ++ [r.index]) ∧
        (ofs < frameBytes → Sparse.get 0#8 t.mem (r.count * frameBytes + ofs) = Sparse.get 0#8 s.mem (r.index * frameBytes + ofs)) ∧
        (a < r.count * frameBytes ∨ (r.count + 1) * frameBytes ≤ a → Sparse.get 0#8 t.mem a = Sparse.get 0#8 s.mem a)))) ∧
    (r.kind = 0 → (∃ t, Sys2Proof.Machine.exec (.retireMoveDone i) s = .next t ∧ (t.retire = s.retire.eraseIdx i ∧
      t = { s with retire := t.retire, storeErrs := t.storeErrs, sramErrs := t.sramErrs } ∧
      ((bankPlace (r.index / 256)).1 = 0 → ∀ n, n < 8 → ∀ key,
        key = (bankPlace (r.index / 256)).2.1 * storeBytes / 32 + ((bankPlace (r.index / 256)).2.2 + 8 * (r.index % 256)) + n →
        Sparse.get 0 t.storeErrs key = copiedMask (Sparse.get 0 s.storeErrs key))))) ∧
    (∃ t, Sys2Proof.Machine.exec (.laneSparingDone link) s = .next t ∧ ((∀ q ∈ t.retire, q.kind = 5 → q.index ≠ link.val) ∧
      t.retire = s.retire.filter (fun q => q.kind ≠ 5 ∨ q.index ≠ link.val) ∧ t = { s with retire := t.retire }))

/-- R327: with PATROL_EN a group reads its next stripe and counts it; a stripe without a disturbance changes no byte,
faults no partition and requests nothing within a pass. -/
def Obligations.Patrol : Prop :=
  ∀ (s : State) (g : Fin 4) (ups : List Upset) (n : Nat), s.Canonical → flag (rawReg s 0x90000000) 0 = true →
    domOn s (domGroup g.val) = true → n = Sparse.get 0 s.patrol g.val →
    (∃ t, Sys2Proof.Machine.exec (.patrolRead g ups) s = .next t ∧ (Sparse.get 0 t.patrol g.val = n + 1 ∧
      count t (0x90000120 + 0x40 * g.val) = (count s (0x90000120 + 0x40 * g.val) + 1) % 2 ^ 48 ∧ t.frames = s.frames)) ∧
    (ups = [] → (∀ i, i < 8 → Sparse.get 0 s.errs (stripeAddr g.val (n % groupStripes) / 32 + i) = 0) →
      (∀ c, c < 36 → Sparse.get 0 s.lineErrs (burstKey c) = 0) →
      (∃ t, Sys2Proof.Machine.exec (.patrolRead g ups) s = .next t ∧ (t.mem = s.mem ∧ t.errs = s.errs ∧ t.parts = s.parts ∧
        ((n + 1) % groupStripes ≠ 0 → t.proofs = s.proofs))))

/-! ### Ports and connections (14) -/

/-- Port i alone has changed, to x. -/
def PortMoved (s t : State) (i : Nat) (x : Port) : Prop :=
  portGet t i = x ∧ (∀ j, j ≠ i → portGet t j = portGet s j) ∧ t = { s with ports := t.ports }

/-- R355, Table 14-3: bring-up of a port, its flaps and its hold-down, for a port that exists and is in service. -/
def Obligations.PortBringUp : Prop :=
  ∀ (s : State) (i : Fin 20) (x : Port) (flaps : List Nat), s.Canonical → x = portGet s i.val →
    (x.dead = false → portExists s i.val = true →
      (x.state = .training ∨ x.state = .failed → (∃ t, Sys2Proof.Machine.exec (.linkTrained i) s = .next t ∧ (PortMoved s t i.val { x with state := .locking }))) ∧
      (x.state = .training → (∃ t, Sys2Proof.Machine.exec (.linkTrainingTimeout i) s = .next t ∧ (PortMoved s t i.val x))) ∧
      (x.state = .locking → (∃ t, Sys2Proof.Machine.exec (.fecLock i) s = .next t ∧ (portGet t i.val = { x with state := .up } ∧
        (∀ j, j ≠ i.val → portGet t j = portGet s j) ∧ t.mem = s.mem ∧ t.parts = s.parts))) ∧
      (x.state = .locking → (∃ t, Sys2Proof.Machine.exec (.fecLockTimeout i) s = .next t ∧ (PortMoved s t i.val { x with state := .training }))) ∧
      (x.state = .held → (∃ t, Sys2Proof.Machine.exec (.holdDownEnd i) s = .next t ∧ (PortMoved s t i.val { x with state := .training }))) ∧
      (x.state = .training → (∃ t, Sys2Proof.Machine.exec (.portFailed i) s = .next t ∧ (PortMoved s t i.val { x with state := .failed })))) ∧
    (x.state = .up → flaps = s.tick :: x.flaps.filter (fun k => decide (s.tick < k + 10000000)) →
      (∃ t, Sys2Proof.Machine.exec (.linkDown i) s = .next t ∧ (PortMoved s t i.val
        { x with state := (if 3 ≤ flaps.length then .held else .training), flaps := flaps, pfcRx := false, pfcCtl := false })))

/-- R353, R358, Table 14-2: a port that is UP counts what other protocols send it; a priority pause holds its class where the
image enables it, until it expires; a host port answers requests for its own address. -/
def Obligations.OtherProtocols : Prop :=
  ∀ (s : State) (i : Fin 20) (ctl : Bool) (x : Port) (rx : Nat), s.Canonical → x = portGet s i.val → x.state = .up →
    rx = portBase i.val + 0x10 →
    (∃ t, Sys2Proof.Machine.exec (.pfcPause ⟨i, ctl⟩) s = .next t ∧ (count t rx = (count s rx + 1) % 2 ^ 48 ∧
      portGet t i.val = (if Config.pfcEnabled (imageRecord s 4) (!ctl) then pauseClass x ctl true else x) ∧
      t = { s with counts := t.counts, regs := t.regs, ports := t.ports })) ∧
    ((if ctl then x.pfcCtl else x.pfcRx) = true → (∃ t, Sys2Proof.Machine.exec (.pfcPauseExpiry ⟨i, ctl⟩) s = .next t ∧ (
      portGet t i.val = pauseClass x ctl false ∧ t.mem = s.mem ∧ t.parts = s.parts))) ∧
    (∃ t, Sys2Proof.Machine.exec (.pauseFrame i) s = .next t ∧ (count t rx = (count s rx + 1) % 2 ^ 48 ∧
      t = { s with counts := t.counts, regs := t.regs })) ∧
    (∀ c ∈ [Instr.arpRequest i, Instr.neighborSolicitation i, Instr.icmpEcho i],
      (∃ t, Sys2Proof.Machine.exec c s = .next t ∧ (count t rx = (count s rx + 1) % 2 ^ 48 ∧
        count t (portBase i.val + 8) =
          (if 12 ≤ i.val then (count s (portBase i.val + 8) + 1) % 2 ^ 48 else count s (portBase i.val + 8)) ∧
        t = { s with counts := t.counts, regs := t.regs })))

/-- R363, R365, R366, R395: the acknowledgement timer sends an ACK that names the next frame expected; the oldest
unacknowledged frame goes again, and its 32nd retransmission breaks the connection; a connection without progress breaks
with reason 1; a session that never verified a frame is free again under the next generation. -/
def Obligations.TransportTimers : Prop :=
  ∀ (s : State) (e : Endpoint) (n : Fin 64) (f : TxFrame) (fs : List TxFrame), s.Canonical →
    (linkLive (linkGet s e) = true → portCarries s (linkGet s e).port = true → 0 < (linkGet s e).sinceAck →
      (∃ t, Sys2Proof.Machine.exec (.ackTimer e) s = .next t ∧ (∃ w, t.wire = w :: s.wire ∧ w.op = 1 ∧ w.ack = (linkGet s e).psnRx ∧
        w.dconn = (linkGet s e).peerIdx ∧ linkGet t e = { linkGet s e with sinceAck := 0 } ∧ t.parts = s.parts))) ∧
    (linkLive (linkGet s e) = true → portCarries s (linkGet s e).port = true → (linkGet s e).unacked = f :: fs →
      f.sent = true → (∀ g ∈ fs, g.psn ≠ f.psn) →
      (f.rexmit < 31 → (∀ g ∈ fs, g.rexmit < 32) → (∃ t, Sys2Proof.Machine.exec (.retransmitTimeout e) s = .next t ∧ (
        ∃ w, t.wire = w :: s.wire ∧ w.op = f.op ∧ w.psn = f.psn ∧ w.payload = f.payload ∧
          (linkGet t e).unacked = { f with rexmit := f.rexmit + 1 } :: fs ∧ (linkGet t e).state = (linkGet s e).state))) ∧
      (f.rexmit = 31 → (∃ t, Sys2Proof.Machine.exec (.retransmitTimeout e) s = .next t ∧ (
        (linkGet t e).state = if isSession e then .free else .broken)))) ∧
    (linkLive (linkGet s e) = true → (linkGet s e).unacked = f :: fs → (∃ t, Sys2Proof.Machine.exec (.connTimeout e) s = .next t ∧ (
      (isSession e = false → (linkGet t e).state = .broken ∧ (linkGet t e).reason = 1 ∧ (linkGet t e).unacked = []) ∧
      (isSession e = true → (linkGet t e).state = .free ∧ (linkGet t e).gen = ((linkGet s e).gen + 1) % 2 ^ 16)))) ∧
    ((linkGet s (.sess n)).state = .opening → (∃ t, Sys2Proof.Machine.exec (.sessionOpenTimeout n) s = .next t ∧ (
      (linkGet t (.sess n)).state = .free ∧ (linkGet t (.sess n)).gen = ((linkGet s (.sess n)).gen + 1) % 2 ^ 16 ∧
      t = { s with sess := t.sess })))

/-! ### Frames (14) -/

/-- The frame f, intact on a port that is UP, brings the message m to the endpoint e in its turn: e is open, or is a
connection that opens and takes m; what stands around its granules, the generation, the port, the size and the tag are right;
a connection's port takes its verbs; and nothing waits before m, nor does m itself. -/
structure Brings (s : State) (f : RxFrame) (e : Endpoint) (m : RxMsg) : Prop where
  carries : portCarries s (codeOfPort f.port.val) = true
  fcs : f.fcsOk = true
  head : headOk s (codeOfPort f.port.val) f.head = true
  whole : ∃ gs, frameGranules f.granules = some (gs, 0) ∧ msgOf gs = m ∧ leAt (gs.headD []) 0 1 = 1 ∧
    ((isSession e || (linkGet s e).authFull) = true → tagged (linkGet s e).key gs m = true)
  names : m.dconn ≠ 0xFFF ∧ endpointOf m.dconn = some e
  opened : (linkGet s e).state = .opened ∨
    (isSession e = false ∧ (linkGet s e).state = .opening ∧ openingTakes (linkGet s e) m = true)
  plain : isSession e = false → mgmtOnly s (linkGet s e).port = false
  gen : m.dgen = (linkGet s e).gen
  port : (linkGet s e).port = codeOfPort f.port.val
  size : m.payload.length ≤ (linkGet s e).maxLen
  turn : m.psn = (linkGet s e).psnRx
  first : (linkGet s e).ahead = []
  free : heldUp s e m = false

/-- The frame is counted, and its credits are taken (R366, R367). -/
def heard (s : State) (f : RxFrame) (e : Endpoint) (m : RxMsg) : State :=
  takeCredit (countRx s (codeOfPort f.port.val) f) e m

/-- The state in which the effect of m comes: the frame is counted, its credits and its acknowledgement are taken, its
payload is placed and its sequence number is passed; and m with the status of its placement (R364 to R367). None where its
place waits (assumption 78). -/
def atTurn (s : State) (f : RxFrame) (e : Endpoint) (m : RxMsg) : Option (State × RxMsg) :=
  (placeFrame (heard s f e m) e m).map (fun r =>
    let m' := { m with st := r.2 }
    let got := fun (l : Link) => if creditFree m.op then l.gotGran else (l.gotGran + m.payload.length) % psnMod
    let u := linkMod r.1 e (fun l => { l with ahead := l.ahead ++ [m'], sinceAck := l.sinceAck + 1, gotGran := got l })
    (linkMod u e (fun l => { l with psnRx := (l.psnRx + 1) % psnMod, ahead := l.ahead.filter (fun b => b.psn ≠ m.psn) }), m'))

/-- What follows the effect v of m on an endpoint whose generation was g and whose partition was p: what m acknowledges
completes, what waited for it goes on, and m is acknowledged at once when it asks for it or is the eighth (R365). -/
def afterFrame (g : Nat) (p : Fin 16) (e : Endpoint) (m : RxMsg) (v : State) : State :=
  let w := settleLink (if (linkGet v e).gen = g then noteAck v e m.ack else v) e p
  if (m.flags.testBit 4 = true ∨ 8 ≤ (linkGet w e).sinceAck) ∧ (linkGet w e).gen = g ∧ 0 < (linkGet w e).sinceAck then
    sendAck w e
  else w

/-- R360 to R367, R372, R373: a frame that its connection takes in its turn has the effect of its verb, once. -/
def Obligations.ConnectionFrames : Prop :=
  ∀ (s u : State) (f : RxFrame) (c : Fin 2048) (m m' : RxMsg) (e : Endpoint) (p : Fin 16), s.Canonical → e = .conn c →
    Brings s f e m → p = (linkGet s e).owner →
    (m.op = 0x01 → (∃ t, Sys2Proof.Machine.exec (.ackFrame f) s = .next t ∧ (t = settle p (noteAck (heard s f e m) e m.ack)))) ∧
    (m.op = 0x03 → (∃ t, Sys2Proof.Machine.exec (.openAck f) s = .next t ∧ (∃ a, atTurn s f e m = some a ∧
      t = afterFrame m.dgen p e m (openAckEffect a.1 e a.2) ∧
      ((linkGet s e).state = .opening → (linkGet (openAckEffect a.1 e a.2) e).state = .opened)))) ∧
    (m.op = 0x04 → (∃ t, Sys2Proof.Machine.exec (.closeConn f) s = .next t ∧ (∃ a, atTurn s f e m = some a ∧
      t = afterFrame m.dgen p e m (closeEffect a.1 e) ∧
      (linkGet (closeEffect a.1 e) e).state = .free ∧ (linkGet (closeEffect a.1 e) e).gen = (m.dgen + 1) % 2 ^ 16))) ∧
    (m.op = 0x05 → (∃ t, Sys2Proof.Machine.exec (.closeAck f) s = .next t ∧ (∃ a, atTurn s f e m = some a ∧
      t = afterFrame m.dgen p e m (closeLink a.1 e) ∧
      (linkGet (closeLink a.1 e) e).state = .free ∧ (linkGet (closeLink a.1 e) e).gen = (m.dgen + 1) % 2 ^ 16))) ∧
    (m.op = 0x13 → (∃ t, Sys2Proof.Machine.exec (.remoteSignal f) s = .next t ∧ (∃ a, atTurn s f e m = some a ∧
      t = afterFrame m.dgen p e m (signalEffect a.1 e a.2)))) ∧
    (m.op = 0x14 → atTurn s f e m = some (u, m') → (∃ t, Sys2Proof.Machine.exec (.sendData f) s = .next t ∧ (
      t = afterFrame m.dgen p e m (sendDataEffect u e m')))) ∧
    (m.op = 0x14 → atTurn s f e m = none → (∃ t, Sys2Proof.Machine.exec (.sendData f) s = .next t ∧ (t = heard s f e m))) ∧
    (m.op = 0x15 → (∃ t, Sys2Proof.Machine.exec (.collData f) s = .next t ∧ (∃ a, atTurn s f e m = some a ∧
      t = afterFrame m.dgen p e m (collDataEffect a.1 e a.2)))) ∧
    (m.op = 0x16 → (∃ t, Sys2Proof.Machine.exec (.sendRts f) s = .next t ∧ (∃ a, atTurn s f e m = some a ∧
      t = afterFrame m.dgen p e m (sendRtsEffect a.1 e a.2)))) ∧
    (m.op = 0x17 → (∃ t, Sys2Proof.Machine.exec (.sendCts f) s = .next t ∧ (∃ a, atTurn s f e m = some a ∧
      t = afterFrame m.dgen p e m (sendCtsEffect a.1 e a.2)))) ∧
    (m.op = 0x18 → (∃ t, Sys2Proof.Machine.exec (.rejectFrame f) s = .next t ∧ (∃ a, atTurn s f e m = some a ∧
      t = afterFrame m.dgen p e m (rejectEffect a.1 e a.2))))

/-- R87, R97, R98: a SIGNAL of a connection to an object of its partition's run is applied, ADD or SET, and its credit
returns; one outside the run is rejected and changes no object. -/
def Obligations.RemoteSignals : Prop :=
  ∀ (s : State) (f : RxFrame) (c : Fin 2048) (m : RxMsg) (k : Nat) (o : SyncObj) (e : Endpoint) (p : Fin 16), s.Canonical →
    e = .conn c → p = (linkGet s e).owner →
    Brings s f e m → m.op = 0x13 → (linkGet s e).state = .opened → k = leAt m.ext 0 2 → o = soGet s k →
    leAt m.ext 3 1 = (linkGet s e).part →
    (signalStatus s (leAt m.ext 3 1) k = 0 → (∃ t, Sys2Proof.Machine.exec (.remoteSignal f) s = .next t ∧ (∃ v, t = afterFrame m.dgen p e m v ∧
      (leAt m.ext 2 1 = 1 → soGet v k = o.apply .add (BitVec.ofNat 32 (leAt m.ext 4 4))) ∧
      (leAt m.ext 2 1 = 2 → soGet v k = o.apply .set (BitVec.ofNat 32 (leAt m.ext 4 4))) ∧
      (∀ i, i ≠ k → soGet v i = soGet s i) ∧
      (linkGet v e).gotSig = ((linkGet s e).gotSig + 1) % 2 ^ 16 ∧
      (Settled (s.part p) → (s.part p).halted = false → t.so = v.so)))) ∧
    (signalStatus s (leAt m.ext 3 1) k ≠ 0 → (∃ t, Sys2Proof.Machine.exec (.remoteSignal f) s = .next t ∧ (∃ v, t = afterFrame m.dgen p e m v ∧
      v.so = s.so ∧ (linkGet v e).gotSig = ((linkGet s e).gotSig + 1) % 2 ^ 16 ∧
      (Settled (s.part p) → (s.part p).halted = false → t.so = v.so))))

/-- The message m is one whole verb of the session n, which may send it (Table 14-6). -/
structure WholeVerb (s : State) (f : RxFrame) (n : Fin 64) (m : RxMsg) : Prop where
  brings : Brings s f (.sess n) m
  first : m.flags.testBit 0 = true
  last : m.flags.testBit 1 = true
  allowed : verbDenied s n ⟨m.op, m.psn, 0, m.ext, m.payload⟩ = false

/-- The state in which a verb takes effect, and the verb: no part of its message is kept, and a SIGNAL is counted. -/
def verbTurn (s : State) (f : RxFrame) (n : Fin 64) (m : RxMsg) : Option (State × PartialMsg) :=
  (atTurn s f (.sess n) m).map (fun a =>
    (linkMod a.1 (.sess n) (fun l =>
      { l with msg := none, gotSig := if m.op = 0x13 then (l.gotSig + 1) % 65536 else l.gotSig }), joinMsg none a.2))

/-- R98, R321, R341, R361, R368, R369, R464, R473: the verbs of a session that are not job verbs. A WRITE is answered with
the status of its placement, READ and DUMP_READ by their data, and a frame of accesses by the accesses it names; a SIGNAL is
applied; CONN_SET and COMM_SET answer their status after they have acted. -/
def Obligations.SessionVerbs : Prop :=
  ∀ (s : State) (f : RxFrame) (n : Fin 64) (m : RxMsg) (u : State) (v : PartialMsg) (e : Endpoint) (p : Fin 16)
    (bs : List Byte), s.Canonical → WholeVerb s f n m → verbTurn s f n m = some (u, v) → e = .sess n →
    p = (linkGet s e).owner → bs = v.payload.flatten →
    (m.op = 0x10 → (∃ t, Sys2Proof.Machine.exec (.remoteWrite f) s = .next t ∧ (t = afterFrame m.dgen p e m (sendStatus u e m.psn v.status)))) ∧
    (m.op = 0x11 → (∃ t, Sys2Proof.Machine.exec (.remoteRead f) s = .next t ∧ (t = afterFrame m.dgen p e m (hostReadVerb u n v)))) ∧
    (m.op = 0x13 → (∃ t, Sys2Proof.Machine.exec (.remoteSignal f) s = .next t ∧ (t = afterFrame m.dgen p e m (hostSignal u n v)))) ∧
    (m.op = 0x24 → (∃ t, Sys2Proof.Machine.exec (.dumpRead f) s = .next t ∧ (t = afterFrame m.dgen p e m (dumpReadVerb u n v)))) ∧
    (m.op = 0x25 → (∃ t, Sys2Proof.Machine.exec (.connSet f) s = .next t ∧ (t = afterFrame m.dgen p e m
      (sendStatus (connSet u bs (hideMask (linkGet u e).key "CONN-SECRET" m.psn)).1 e m.psn
        (connSet u bs (hideMask (linkGet u e).key "CONN-SECRET" m.psn)).2)))) ∧
    (m.op = 0x26 → (∃ t, Sys2Proof.Machine.exec (.commSet f) s = .next t ∧ (
      t = afterFrame m.dgen p e m (sendStatus (commSet u bs).1 e m.psn (commSet u bs).2)))) ∧
    (m.op = 0x20 → (∃ t, Sys2Proof.Machine.exec (.regRead f) s = .next t ∧ (t = afterFrame m.dgen p e m
      (frameAccesses u n ⟨m.op, 0, 0, 0, m.psn, 0, 0, 0, 0, m.ext, m.payload, 0⟩)))) ∧
    (m.op = 0x21 → (∃ t, Sys2Proof.Machine.exec (.regWrite f) s = .next t ∧ (t = afterFrame m.dgen p e m
      (frameAccesses u n ⟨m.op, 0, 0, 0, m.psn, 0, 0, 0, 0, m.ext, m.payload, 0⟩)))) ∧
    (m.op = 0x23 → (∃ t, Sys2Proof.Machine.exec (.counterRead f) s = .next t ∧ (t = afterFrame m.dgen p e m
      (frameAccesses u n ⟨m.op, 0, 0, 0, m.psn, 0, 0, 0, 0, m.ext, m.payload, 0⟩))))

/-- Nothing keeps a verb of Pp from taking effect when it arrives (R44, R443, Table 18-7). -/
structure VerbFree (s : State) (p : Fin 16) : Prop where
  active : (s.part p).active = none
  stops : (s.part p).stopWaiting = []
  queue : (s.part p).queue = []
  admits : s.admits = []
  admitting : admittingPart s = none
  dump : s.dump.busy ≠ some p
  hold : thermalHold s = false

/-- R41 to R44, R48, R49, R82, Table 2-5: what the job verbs of the device owner do to their partition, in the states that
accept them. -/
def Obligations.JobVerbs : Prop :=
  ∀ (s : State) (f : RxFrame) (n : Fin 64) (m : RxMsg) (p : Fin 16) (r : AdmitRecord) (l : LoadRecord) (k : Nat),
    s.Canonical → WholeVerb s f n m → (linkGet s (.sess n)).level = .owner → VerbFree s p →
    (m.op = 0x30 → parseAdmit m.payload.flatten (hideMask (linkGet s (.sess n)).key "ADMIT-CRED" m.psn) = some r →
      r.part = p.val → leAt m.payload.flatten 0 1 = p.val → (s.part p).state = .free → admitCode s r = none →
      (∃ t, Sys2Proof.Machine.exec (.admitVerb f) s = .next t ∧ ((t.part p).admitting = true ∧ (t.part p).state = .free ∧ (t.part p).shape = r.shape ∧
        (t.part p).origin = r.origin ∧ (t.part p).connMap = freeConns s r.conns ∧
        (t.part p).active = some ⟨.admission r, ⟨n, m.dgen, m.psn⟩, false⟩ ∧
        (t.part p).mem.pages = freeFrames s.frames upperFrames 0 r.u ++ (freeLower s (r.lT + r.lR)).take r.lT ∧
        (∀ id ∈ (t.part p).mem.pages, Sparse.get 0 t.frames id = 1 + p.val)))) ∧
    (m.op = 0x31 → parseLoad m.payload.flatten = some l → leAt m.payload.flatten 0 1 = p.val →
      loadAllowed (s.part p).state = true →
      (∃ t, Sys2Proof.Machine.exec (.loadVerb f) s = .next t ∧ ((t.part p).state = .loaded ∧ (t.part p).job.seed = l.seed ∧
        (t.part p).sF = boundStream l.fEntry ∧ (t.part p).sB = boundStream l.bEntry ∧ (t.part p).sU = boundStream l.uEntry ∧
        (t.part p).faultCause = 0 ∧ t.mem = s.mem ∧
        (k < 64 * ((s.part p).soCount + 1) → soGet t ((s.part p).soBase * 64 + k) =
          ⟨0, (soGet s ((s.part p).soBase * 64 + k)).epoch + 1, false⟩)))) ∧
    (m.op = 0x32 → leAt m.ext 0 1 = p.val →
      ((s.part p).state = .loaded ∨ ((s.part p).state = .stopped ∧ (s.part p).resumable = true)) →
      (coresOn s (s.part p) = false → (∃ t, Sys2Proof.Machine.exec (.startVerb f) s = .next t ∧ ((t.part p).starting = true ∧
        (t.part p).state = (s.part p).state))) ∧
      (coresOn s (s.part p) = true → (∃ t, Sys2Proof.Machine.exec (.startVerb f) s = .next t ∧ (∃ a, verbTurn s f n m = some a ∧
        t = afterFrame m.dgen (linkGet s (.sess n)).owner (.sess n) m
          (beginRun (carry a.1 p ⟨.start, ⟨n, m.dgen, m.psn⟩, false⟩) p))))) ∧
    (m.op = 0x33 → leAt m.ext 0 1 = p.val → leAt m.ext 1 1 = 0 → (s.part p).state = .running →
      (∃ t, Sys2Proof.Machine.exec (.stopBoundary f) s = .next t ∧ ((t.part p).state = .stopping ∧ (t.part p).stopMode = .boundary ∧
        (t.part p).stopTarget = some (max (s.part p).sF.step (max (s.part p).sB.step (s.part p).sU.step) + 1)))) ∧
    (m.op = 0x33 → leAt m.ext 0 1 = p.val → leAt m.ext 1 1 = 1 → (s.part p).state = .running → Settled (s.part p) →
      (∀ st, ∀ q ∈ ((s.part p).stream st).flight, q.wait ≠ .pref) →
      (∃ t, Sys2Proof.Machine.exec (.stopHalt f) s = .next t ∧ ((t.part p).state = .stopping ∧ (t.part p).stopMode = .halt ∧
        (t.part p).halted = true ∧ (t.part p).mem.prefQ = (s.part p).mem.prefQ.filter (fun q => q.src.isSome)))) ∧
    (m.op = 0x34 → leAt m.ext 0 1 = p.val → (s.part p).state ≠ .free → (s.part p).state ≠ .scrubbing →
      ((s.part p).state ≠ .running → (s.part p).state ≠ .stopping →
        (∃ t, Sys2Proof.Machine.exec (.release f) s = .next t ∧ ((t.part p).state = .scrubbing ∧ (t.part p).credential = [] ∧
          (∀ st, (t.part p).stream st = Stream.idle)))) ∧
      ((s.part p).state = .running ∨ (s.part p).state = .stopping → Settled (s.part p) →
        (∀ st, ∀ q ∈ ((s.part p).stream st).flight, q.wait ≠ .pref) →
        (∃ t, Sys2Proof.Machine.exec (.release f) s = .next t ∧ ((t.part p).state = .scrubbing ∧ (t.part p).credential = [] ∧
          (t.part p).halted = true))))

/-- R39, R41, R44, R48, R49: the ends of job verbs. Zeroing ends with every tiered page zero, the partition ADMITTED and its
credential in force; a STOP whose streams have stopped leaves it STOPPED, resumable after a boundary; the scrub ends with the
partition FREE and its frames given back; a queued verb takes effect when none is being carried out. -/
def Obligations.JobVerbEnds : Prop :=
  ∀ (s : State) (p : Fin 16) (id ofs : Nat) (v : VerbReq) (rest : List VerbReq) (r : AdmitRecord), s.Canonical →
    (admittingPart s = some p → id ∈ (s.part p).mem.pages → ofs < frameBytes →
      (∃ t, Sys2Proof.Machine.exec .admitDone s = .next t ∧ ((t.part p).state = .admitted ∧ (t.part p).admitting = false ∧
        Sparse.get 0#8 t.mem (id * frameBytes + ofs) = 0 ∧
        ((s.part p).active = some v → v.verb = .admission r →
          (t.part p).credential = r.credential ∧ (t.part p).layerTable = r.layers)))) ∧
    ((s.part p).state = .stopping → streamsStopped (s.part p) = true → (∃ t, Sys2Proof.Machine.exec (.stopDone p) s = .next t ∧ (
      (t.part p).state = .stopped ∧ (t.part p).resumable = !(s.part p).halted ∧ (t.part p).stopWaiting = []))) ∧
    ((s.part p).state = .scrubbing → partInflight (s.part p) = 0 → (s.part p).mem.prefQ = [] → (s.part p).mem.exch = [] →
      thermalHold s = false → (∃ t, Sys2Proof.Machine.exec (.scrubDone p) s = .next t ∧ (
      t.part p = { Part.free with queue := (s.part p).queue } ∧
      (id ∈ heldFrames (s.part p).mem → Sparse.get 0 s.frames id ≠ 99 → Sparse.get 0 t.frames id = 0)))) ∧
    ((s.part p).queue = v :: rest → verbBusy s p = false → dumpHolds s p v.verb = false →
      (v.verb.admits = none → (∃ t, Sys2Proof.Machine.exec (.verbDequeue (some p)) s = .next t ∧ (
        t = verbEffect (s.modPart p (fun x => { x with queue := rest })) p v))) ∧
      (v.verb.admits.isSome = true → (∃ t, Sys2Proof.Machine.exec (.verbDequeue (some p)) s = .next t ∧ (
        t = admitIntake (s.modPart p (fun x => { x with queue := rest })) p v)))) ∧
    (s.admits = v :: rest → admittingPart s = none → v.verb.admits = some p.val →
      (∃ t, Sys2Proof.Machine.exec (.verbDequeue none) s = .next t ∧ (t = verbEffect { s with admits := rest } p v)))

/-- R39, R361, R394, R395: an OPEN of a host whose credential the B7 holds takes the lowest free session, under a key derived
from the credential, the level and both nonces; an OPEN of a peer to a connection that CONN_SET has made ready is answered
under the connection's key. -/
def Obligations.SessionOpens : Prop :=
  ∀ (s : State) (f : RxFrame) (gs : List (List Byte)) (m : RxMsg) (h : Hello) (c nd : List Byte) (n : Fin 64) (e : Endpoint)
    (code : Nat),
    s.Canonical → code = codeOfPort f.port.val → portCarries s code = true → f.fcsOk = true → headOk s code f.head = true →
    frameGranules f.granules = some (gs, 0) → m = msgOf gs → leAt (gs.headD []) 0 1 = 1 → m.dconn = 0xFFF → m.op = 0x02 →
    h = helloOf m.ext → m.payload.length ≤ portMaxLen s code → nd = slice (Config.nonce s.freeCount) 0 16 →
    (h.session = true → sessionCredential s h.a h.b = some c → (∀ e ∈ s.sess, e.2.state ≠ .opening) → freeSession s = some n →
      (∃ t, Sys2Proof.Machine.exec (.openConn f) s = .next t ∧ ((linkGet t (.sess n)).state = .opening ∧ (linkGet t (.sess n)).port = code ∧
        (linkGet t (.sess n)).key = hmac384 c (ascii "BIULONE-SESSION" ++ leBytes 1 h.a ++ leBytes 1 h.b ++ h.nonce ++ nd) ∧
        (linkGet t (.sess n)).level = (if h.a = 0 then .owner else .tenant (Fin.ofNat 16 h.b)) ∧
        (linkGet t (.sess n)).psnRx = (m.psn + 1) % 2 ^ 32 ∧ t.freeCount = s.freeCount + 1 ∧ t.parts = s.parts))) ∧
    (h.session = false → mgmtOnly s code = false → respondent s code h = some e →
      ((linkGet s e).authFull = true → tagged (linkGet s e).key gs m = true) →
      (∃ t, Sys2Proof.Machine.exec (.openConn f) s = .next t ∧ ((linkGet t e).state = (linkGet s e).state ∧ (linkGet t e).key = (linkGet s e).key ∧
        (linkGet t e).nonceOwn = nd ∧ (linkGet t e).noncePeer = h.nonce ∧ (linkGet t e).peerIdx = h.idx ∧
        (linkGet t e).peerGen = h.gen ∧ (linkGet t e).psnRx = (m.psn + 1) % 2 ^ 32 ∧
        t.freeCount = s.freeCount + 1 ∧ t.parts = s.parts)))


/-! ### Streams: issue, refusal, completion (03, 04, 18) -/

/-- The head of stream t of Pp is command g, of the row of c: its stream may issue, its wait holds, and its opcode and its
function are known. -/
structure Offered (c : StreamCmd) (s : State) (p : Fin 16) (t : StreamTag) (g : Granule) : Prop where
  can : canIssue s p t = true
  head : (s.stream p t).head = some g
  waits : waitPending (s.stream p t) g = false
  known : opcodeKnown (cOpcode g) = true
  func : ¬(cOpcode g = 0x30 ∧ (!vopFuncs.contains (vFunc g)) = true)
  row : c.matches_ g = true

/-- Its turn has come: nothing of R56 holds it, and it passes the checks that come before any descriptor. -/
structure AtHead (c : StreamCmd) (s : State) (p : Fin 16) (t : StreamTag) (g : Granule) : Prop extends Offered c s p t g where
  free : (held (s.part p) t g && !pairBad (s.part p) t g) = false
  early : earlyChecks (s.part p) t g = []

/-- Every further code of Table 3-1 that the command fails, once its descriptors are fetched. -/
def failedChecks (c : StreamCmd) (s : State) (p : Fin 16) (t : StreamTag) (g : Granule) : List Nat :=
  commonChecks s p t g (c.descs s p g) ++
  ((c.reads g ++ c.also s p g).flatMap (fun i => regionChecks (s.part p) false (descOf s p t g i)) ++
    (c.writes g).flatMap (fun i => regionChecks (s.part p) true (descOf s p t g i))) ++ c.check s p t g

/-- The command's descriptors are fetched, which leaves u. -/
def Fetched (c : StreamCmd) (s : State) (p : Fin 16) (t : StreamTag) (g : Granule) (u : State) : Prop :=
  Op.exec (Op.each (c.descs s p g) (fetchDesc p t (c.descs s p g))) s = (.ok (), u)

/-- The command issues: nothing of Table 3-1 fails, and nothing holds it. -/
structure Ready (c : StreamCmd) (s : State) (p : Fin 16) (t : StreamTag) (g : Granule) (u : State) : Prop where
  atHead : AtHead c s p t g
  fetched : Fetched c s p t g u
  passes : failedChecks c u p t g = []
  goes : c.hold u p t g = false

/-- The state in which the effect of a command that issued in u is due: what later checks will find is in place. -/
def dueState (c : StreamCmd) (u : State) (p : Fin 16) (t : StreamTag) (g : Granule) : State :=
  c.predict (issueHead c u p t g) p t g

/-- The effect of command g of row c, which issues in state u; one that cannot begin yet changes nothing and waits. -/
def effectOf (c : StreamCmd) (u : State) (p : Fin 16) (t : StreamTag) (g : Granule) : Effect :=
  c.begin_ (dueState c u p t g) p t g (u.part p).nextSeq

/-- The command issues and begins at once: its cores take commands, and no earlier flight stands in front of it. -/
structure Begins (c : StreamCmd) (s : State) (p : Fin 16) (t : StreamTag) (g : Granule) (u : State) : Prop where
  ready : Ready c s p t g u
  near : awayCores (dueState c u p t g) p g = []
  first : c.blocked (dueState c u p t g) p t g (u.part p).nextSeq = false

/-- What a command leaves that issued with effect e and met no stop: the stream has passed it, its effect is in place, and
it is in flight with what it waits for; the next command stands at the head of the stream. -/
structure Issued (c : StreamCmd) (s u : State) (p : Fin 16) (t : StreamTag) (g : Granule) (e : Effect) (v : State) : Prop where
  outcome : v = issueEnd c u p t g e
  passed : ((issueHead c u p t g).stream p t).pc = (s.stream p t).pc + 32
  pc : (v.stream p t).pc = (e.state.stream p t).pc
  counted : ((issueHead c u p t g).stream p t).issued = ((s.stream p t).issued + 1) % 2 ^ 48
  cores : v.cores = e.state.cores
  store : v.store = e.state.store
  slots : v.slots = e.state.slots
  mem : cTrace g = false → v.mem = e.state.mem
  flight : c.atIssue u p t g = false → issuedFlight c u p t g e ∈ (v.stream p t).flight

/-- The vector operations with their codes (Table 9-1). -/
def vectorRows (p : Fin 16) (t : StreamTag) : List (Instr × Nat) :=
  [(.add p t, 0x01), (.sub p t, 0x02), (.mul p t, 0x03), (.max p t, 0x04), (.min p t, 0x05), (.cvt p t, 0x06),
   (.scale p t, 0x07), (.offset p t, 0x08), (.funcVop p t, 0x10), (.deriv p t, 0x11), (.rsum p t, 0x20), (.rmax p t, 0x21),
   (.rmin p t, 0x22), (.rsumsq p t, 0x23), (.softmax p t, 0x30), (.rmsnorm p t, 0x31), (.layernorm p t, 0x32)]

/-- The rows of a sequencer that nothing follows at once, with the command that each takes: its own commands but END, and
those of the engines, the tiers and the connections but BMAT and COLL. -/
def plainRows (p : Fin 16) (t : StreamTag) : List (Instr × StreamCmd) :=
  [(.mark p t, markCmd), (.wait p t, waitCmd), (.sig p t, sigCmd), (.fence p t, fenceCmd), (.step p t, stepCmd),
   (.load p t, loadCmd), (.xpose p t, xposeCmd), (.cflush p t, cflushCmd), (.tload p t, tloadCmd), (.fmat p t, fmatCmd),
   (.bdx p t, bdxCmd), (.bdw p t, bdwCmd), (.store p t, storeCmd), (.tblload p t, tblloadCmd), (.upd p t, updCmd),
   (.pref p t, prefCmd), (.migr p t, migrCmd), (.pub p t, pubCmd), (.send p t, sendCmd), (.recv p t, recvCmd)]

/-- The rows that a sequencer carries out: the command that each takes, and what follows it at once, whatever comes of it
(after a BMAT or a COLL, what waited for it goes on). END, which may also complete the partition, has a statement of its
own. -/
def streamRows (p : Fin 16) (t : StreamTag) : List (Instr × StreamCmd × (State → State)) :=
  (plainRows p t).map (fun r => (r.1, r.2, id)) ++ (vectorRows p t).map (fun r => (r.1, vopCmd r.2, id)) ++
    [(.bmat p t, bmatCmd, settle p), (.coll p t, collCmd, settle p)]

/-- A command was refused with a code (R59): its stream reads REFUSED and keeps its PC, and its partition is FAULTED. -/
structure RefusedWith (s u v : State) (p : Fin 16) (t : StreamTag) (code : Nat) : Prop where
  state : (v.stream p t).state = .refused
  refuse : (v.stream p t).refuse = code
  pc : (v.stream p t).pc = (s.stream p t).pc
  part : (v.part p).state = .faulted
  mem : v.mem = u.mem
  cores : v.cores = s.cores
  record : (s.part p).record.cause = 0 →
    (v.part p).record.cause = 3 ∧ (v.part p).record.kind = 3 ∧ (v.part p).record.refuse = code

/-- R56, R58, R59: a stream row does nothing while its stream may not issue, while its command's wait does not hold, or while
the command is held; a stream that cannot read its command, and a command that fails a check of Table 3-1, is refused with
the first code that applies, before any descriptor is fetched where the check needs none. -/
def Obligations.StreamRowsHeldAndRefused : Prop :=
  ∀ (s u : State) (p : Fin 16) (t : StreamTag) (g : Granule) (code : Nat), ∀ r ∈ streamRows p t,
    (canIssue s p t = false → (∃ v, Sys2Proof.Machine.exec r.1 s = .next v ∧ (v = r.2.2 s))) ∧
    (canIssue s p t = true → (s.stream p t).head = none → (∃ v, Sys2Proof.Machine.exec r.1 s = .next v ∧ (RefusedWith s s v p t 6))) ∧
    (canIssue s p t = true → (s.stream p t).head = some g → waitPending (s.stream p t) g = true →
      (∃ v, Sys2Proof.Machine.exec r.1 s = .next v ∧ (v = r.2.2 s))) ∧
    (canIssue s p t = true → (s.stream p t).head = some g → waitPending (s.stream p t) g = false →
      opcodeKnown (cOpcode g) = false → (∃ v, Sys2Proof.Machine.exec r.1 s = .next v ∧ (RefusedWith s s v p t 1))) ∧
    (canIssue s p t = true → (s.stream p t).head = some g → waitPending (s.stream p t) g = false → cOpcode g = 0x30 →
      vopFuncs.contains (vFunc g) = false → (∃ v, Sys2Proof.Machine.exec r.1 s = .next v ∧ (RefusedWith s s v p t 3))) ∧
    (Offered r.2.1 s p t g → (held (s.part p) t g && !pairBad (s.part p) t g) = true →
      (∃ v, Sys2Proof.Machine.exec r.1 s = .next v ∧ (v = r.2.2 s))) ∧
    (Offered r.2.1 s p t g → (held (s.part p) t g && !pairBad (s.part p) t g) = false →
      firstCode (earlyChecks (s.part p) t g) = some code → (∃ v, Sys2Proof.Machine.exec r.1 s = .next v ∧ (RefusedWith s s v p t code))) ∧
    (AtHead r.2.1 s p t g → Fetched r.2.1 s p t g u → firstCode (failedChecks r.2.1 u p t g) = some code →
      (∃ v, Sys2Proof.Machine.exec r.1 s = .next v ∧ (RefusedWith s u v p t code))) ∧
    (AtHead r.2.1 s p t g → Fetched r.2.1 s p t g u → failedChecks r.2.1 u p t g = [] → r.2.1.hold u p t g = true →
      (∃ v, Sys2Proof.Machine.exec r.1 s = .next v ∧ (v = r.2.2 u)))

/-- R128, R449: a command that meets a stop inside its effect never completes; its stream reads FAULTED, the partition
drains, and the first stop is recorded. -/
def Obligations.StreamRowsTrap : Prop :=
  ∀ (s u : State) (p : Fin 16) (t : StreamTag) (g : Granule) (e : Effect) (x : Trap) (xs : List Trap) (k : TrapKind),
    ∀ r ∈ streamRows p t, Ready r.2.1 s p t g u → e = effectOf r.2.1 u p t g →
    e.traps = x :: xs → x.stop = .nan k → ((e.state.part p).state = .running ∨ (e.state.part p).state = .stopping) →
    (∃ v, Sys2Proof.Machine.exec r.1 s = .next v ∧ (∃ w, v = r.2.2 w ∧ (w.stream p t).state = .faulted ∧ (w.part p).draining = true ∧
      w.mem = e.state.mem ∧ w.cores = e.state.cores ∧ (w.stream p t).flight = (e.state.stream p t).flight ∧
      ((e.state.part p).record.cause = 0 → (w.part p).record.cause = 2 ∧ (w.part p).record.kind = k.code)))

/-- R65, R73, R78 to R83, R97, R99, R475: what MARK, WAIT, FENCE, SIG, STEP and END do when they issue. -/
def Obligations.ControlCommands : Prop :=
  ∀ (s u : State) (p : Fin 16) (t : StreamTag) (g : Granule) (e : Endpoint), s.Canonical →
    (Ready markCmd s p t g u → (∃ v, Sys2Proof.Machine.exec (.mark p t) s = .next v ∧ ((v.stream p t).pc = (s.stream p t).pc + 32 ∧
      (v.stream p t).issued = ((s.stream p t).issued + 1) % 2 ^ 48 ∧
      (v.stream p t).marker = (if markKind g = 1 then markValue g else if markKind g = 2 then 0 else (s.stream p t).marker)))) ∧
    (Ready waitCmd s p t g u → (∃ v, Sys2Proof.Machine.exec (.wait p t) s = .next v ∧ ((v.stream p t).pc = (s.stream p t).pc + 32 ∧
      (v.stream p t).issued = ((s.stream p t).issued + 1) % 2 ^ 48 ∧ v.cores = s.cores ∧ v.slots = s.slots ∧
      (flag (rawReg s (sqReg p 0x310)) 31 = false → v.mem = s.mem)))) ∧
    (Ready fenceCmd s p t g u → (∃ v, Sys2Proof.Machine.exec (.fence p t) s = .next v ∧ ((v.stream p t).pc = (s.stream p t).pc + 32 ∧
      (v.stream p t).descCache = if cOF g 0 then [] else (s.stream p t).descCache))) ∧
    (Ready sigCmd s p t g u → cOF g 0 = false → (∃ v, Sys2Proof.Machine.exec (.sig p t) s = .next v ∧ ((v.stream p t).pc = (s.stream p t).pc + 32 ∧
      ∃ f ∈ (v.stream p t).flight, f.word = g ∧ f.done = false ∧ f.wait = .none))) ∧
    (Begins sigCmd s p t g u → cOF g 0 = true → connEndpoint (s.part p) (sigConn g) = some e →
      (∃ v, Sys2Proof.Machine.exec (.sig p t) s = .next v ∧ ((v.stream p t).pc = (s.stream p t).pc + 32 ∧
        (linkGet v e).sentSig = ((linkGet s e).sentSig + 1) % 2 ^ 16 ∧
        (linkGet v e).psnTx = ((linkGet s e).psnTx + 1) % 2 ^ 32 ∧
        ∃ f ∈ (v.stream p t).flight, f.word = g ∧ f.done = false ∧ f.wait = .sigAck))) ∧
    (Ready sigCmd s p t g u → cOF g 0 = true →
      sigBlocked (dueState sigCmd u p t g) p t g (u.part p).nextSeq = true → (∃ v, Sys2Proof.Machine.exec (.sig p t) s = .next v ∧ (
        v.conns = s.conns ∧ ∃ f ∈ (v.stream p t).flight, f.word = g ∧ f.done = false ∧ f.wait = .behind))) ∧
    (Ready stepCmd s p t g u → (stepRun (freshRows (dueState stepCmd u p t g)) p t g).traps = [] →
      (∃ v, Sys2Proof.Machine.exec (.step p t) s = .next v ∧ ((v.stream p t).step = ((s.stream p t).step + 1) % 2 ^ 32 ∧
        (v.stream p t).pc = if cOF g 0 = true ∧ (s.stream p t).loop.getD (stepCount g) ≠ 0 then stepLoop g
          else (s.stream p t).pc + 32))) ∧
    (Ready endCmd s p t g u → (∃ v, Sys2Proof.Machine.exec (.endStream p t) s = .next v ∧ ((v.stream p t).state = .done ∧
      ((∀ r, r ≠ t → (s.stream p r).state = .done) → (v.part p).state = .complete))))

/-- The engine commands that move operands and multiply, each with what follows it at once and the work it does (06 to 08,
11, 12). -/
def engineRows (p : Fin 16) (t : StreamTag) (g : Granule) :
    List (Instr × StreamCmd × (State → State) × (State → Nat → Effect)) :=
  [(.tload p t, tloadCmd, id, fun s _ => tloadRun s p t g), (.fmat p t, fmatCmd, id, fun s n => fmatRun s p t g n),
   (.bdx p t, bdxCmd, id, fun s n => bdxRun s p t g n), (.bdw p t, bdwCmd, id, fun s _ => bdwRun s p t g),
   (.bmat p t, bmatCmd, settle p, fun s n => bmatRun s p t g n), (.store p t, storeCmd, id, fun s n => storeRun s p t g n),
   (.cflush p t, cflushCmd, id, fun s _ => cflushRun s p t g), (.xpose p t, xposeCmd, id, fun s _ => xposeRun s p t g),
   (.load p t, loadCmd, id, fun s _ => loadRun s p t g), (.upd p t, updCmd, id, fun s _ => updEffect s p t g)]

/-- R84, R131, R142, R176, R181, R185, R190, R206, R236, R307, R502: a command of the engines that issues, begins and meets
no stop does its work at every core it names, once, and is then in flight until it completes. -/
def Obligations.EngineCommands : Prop :=
  ∀ (s u : State) (p : Fin 16) (t : StreamTag) (g : Granule) (e : Effect), s.Canonical → ∀ r ∈ engineRows p t g,
    Begins r.2.1 s p t g u → e = r.2.2.2 (freshRows (dueState r.2.1 u p t g)) (u.part p).nextSeq → e.traps = [] →
    (∃ v, Sys2Proof.Machine.exec r.1 s = .next v ∧ (∃ w, v = r.2.2.1 w ∧ Issued r.2.1 s u p t g e w))

/-- R220 to R231: a vector operation that issues, begins and meets no stop is done at each core of its command, from SRC1 and
SRC2 to DST, under the function table of its issue; no row of an accumulator memory changes. -/
def Obligations.VectorCommands : Prop :=
  ∀ (s u b : State) (p : Fin 16) (t : StreamTag) (g : Granule) (q : State × List Trap), s.Canonical → ∀ r ∈ vectorRows p t,
    Begins (vopCmd r.2) s p t g u → b = freshRows (dueState (vopCmd r.2) u p t g) →
    q = onCoresOf b p t g (fun w => vopCore w
      { a := descOf b p t g (vSrc1 g), b := descOf b p t g (vSrc2 g), d := descOf b p t g (vDst g) }
      (tableAt b p t g (u.part p).nextSeq)) → q.2 = [] →
    (∃ v, Sys2Proof.Machine.exec r.1 s = .next v ∧ (Issued (vopCmd r.2) s u p t g ⟨q.1, [], .none⟩ v ∧
      ∀ k : Fin 64, (v.core k).am = (s.core k).am))

/-- R231, R302: TBLLOAD puts nothing in the table store before it completes; as it completes, its table is in the store. A
UPD writes its group entry as it completes, and then posts CLIPPED. -/
def Obligations.WorkAtCompletion : Prop :=
  ∀ (s u : State) (p : Fin 16) (t : StreamTag) (g : Granule) (k : Nat) (x : FuncTable) (f : Flight) (entry : List Byte)
    (clipped : Bool), s.Canonical →
    (Ready tblloadCmd s p t g u → (effectOf tblloadCmd u p t g).traps = [] → (∃ v, Sys2Proof.Machine.exec (.tblload p t) s = .next v ∧ (
      Issued tblloadCmd s u p t g (effectOf tblloadCmd u p t g) v ∧ (v.part p).tables = (s.part p).tables))) ∧
    (Settled (s.part p) → (s.part p).halted = false → (s.stream p t).flight = [f] → f.done = false →
      ((s.part p).state = .running ∨ (s.part p).state = .stopping) →
      (f.wait = .table k x → (∃ v, Sys2Proof.Machine.exec (.commandComplete p t 0) s = .next v ∧ (
        Sparse.get none (v.part p).tables k = some x ∧ (v.stream p t).flight = []))) ∧
      (f.wait = .update entry (if clipped then 1 else 0) → sigOf f.word = none → cTrace f.word = false →
        Op.exec (Op.at 9 0xFF [uGroup f.word, 0, 0, 0]
          (writeMem (.io 0) p (groupAddr (s.part p) (uGroup f.word) + 64) entry)) s = (.ok (), u) →
        flag (rawReg u (sqReg p 0x310)) 31 = false →
        (∃ v, Sys2Proof.Machine.exec (.commandComplete p t 0) s = .next v ∧ (v.mem = u.mem ∧ (v.stream p t).flight = [] ∧
          (clipped = true → flag (rawReg v (0x98010000 + 4 * p.val)) 0 = true)))))

/-! ### Collectives, tiers, regions and prefetch (12 to 14) -/

/-- R335, R342, R347, R371, R373: the commands that move data between pages, region slots and modules: each that issues and
meets no stop has started what it asks for, and waits for the rest. -/
def Obligations.TransferCommands : Prop :=
  ∀ (s u : State) (p : Fin 16) (t : StreamTag) (g : Granule) (e : Effect), s.Canonical →
    (Ready migrCmd s p t g u → (∃ v, Sys2Proof.Machine.exec (.migr p t) s = .next v ∧ (Issued migrCmd s u p t g (effectOf migrCmd u p t g) v ∧
      (effectOf migrCmd u p t g).wait = migrWait (advanceMigr ((issueHead migrCmd u p t g).part p).mem g (migrPages g)).2))) ∧
    (Ready pubCmd s p t g u → pubCopies g = false → (∃ v, Sys2Proof.Machine.exec (.pub p t) s = .next v ∧ (
      Issued pubCmd s u p t g ⟨freshRows (issueHead pubCmd u p t g), [], .pub⟩ v))) ∧
    (Ready pubCmd s p t g u → e = pubCmd.run (freshRows (issueHead pubCmd u p t g)) p t g (u.part p).nextSeq →
      e.traps = [] → (∃ v, Sys2Proof.Machine.exec (.pub p t) s = .next v ∧ (Issued pubCmd s u p t g e v ∧ e.wait = .pub))) ∧
    (Begins prefCmd s p t g u → e = acceptPref (freshRows (issueHead prefCmd u p t g)) p t g → e.traps = [] →
      (∃ v, Sys2Proof.Machine.exec (.pref p t) s = .next v ∧ (Issued prefCmd s u p t g e v))) ∧
    (∀ r ∈ [(Instr.coll p t, collCmd, settle p, collRun), (.send p t, sendCmd, id, sendRun), (.recv p t, recvCmd, id, recvRun)],
      Begins r.2.1 s p t g u → e = r.2.2.2 (freshRows (dueState r.2.1 u p t g)) p t g (u.part p).nextSeq → e.traps = [] →
      (∃ v, Sys2Proof.Machine.exec r.1 s = .next v ∧ (v = r.2.2.1 (issueEnd r.2.1 u p t g e) ∧
        ((issueHead r.2.1 u p t g).stream p t).pc = (s.stream p t).pc + 32)))

/-- R334, R336, R339, R342, R344: what the tier controllers and the region slots do in their own time. An exchange of two
undisturbed frames gives each page the other's frame and each frame the other's contents; a window's end restarts the
counting, and starts exchanges only where a job migrates; a zeroed frame joins the pool; a PUB that nothing writes any more
publishes its slot under the next version. -/
def Obligations.TierEvents : Prop :=
  ∀ (s : State) (p : Fin 16) (t : StreamTag) (i k id a b ofs slot name : Nat) (e : Exchange) (f : Flight) (east : Bool), s.Canonical →
    (∃ v, Sys2Proof.Machine.exec (.autoMigrationWindow east) s = .next v ∧ (v.mem = s.mem ∧ ∀ q, (v.part q).mem.access = [] ∧
      (v.part q).mem.pages = (s.part q).mem.pages ∧
      (migrates (s.part q) = false → (v.part q).mem.exch = (s.part q).mem.exch))) ∧
    (Settled (s.part p) → (s.part p).halted = false → (∀ y ∈ s.sess, y.2.ahead = []) →
      (s.part p).mem.exch[i]? = some e → a = (s.part p).mem.pages.getD e.pageA 0 → b = (s.part p).mem.pages.getD e.pageB 0 →
      a ≠ b → disturbedIn s a = [] → disturbedIn s b = [] → s.lineErrs = [] →
      (∀ id, id = a ∨ id = b → ∀ o, wrapperClosed s (memBlk id o) = false) → (isLower a = true → portUp s (lowerPort a) = true) →
      (isLower b = true → portUp s (lowerPort b) = true) → ofs < frameBytes →
      (∃ v, Sys2Proof.Machine.exec (.exchangeDone p i) s = .next v ∧ (
        (v.part p).mem.pages = ((s.part p).mem.pages.set e.pageA b).set e.pageB a ∧
        Sparse.get 0#8 v.mem (b * frameBytes + ofs) = Sparse.get 0#8 s.mem (a * frameBytes + ofs) ∧
        Sparse.get 0#8 v.mem (a * frameBytes + ofs) = Sparse.get 0#8 s.mem (b * frameBytes + ofs) ∧
        (k / frameBytes ≠ a → k / frameBytes ≠ b → Sparse.get 0#8 v.mem k = Sparse.get 0#8 s.mem k) ∧
        count v (0xA0001018 + 0x40 * p.val) = (count s (0xA0001018 + 0x40 * p.val) + 1) % 2 ^ 48))) ∧
    (Settled (s.part p) → (s.part p).halted = false → (s.part p).mem.poolZeroing[i]? = some id → ofs < frameBytes →
      (∃ v, Sys2Proof.Machine.exec (.frameZeroed p i) s = .next v ∧ ((v.part p).mem.poolFree = (s.part p).mem.poolFree ++ [id] ∧
        (v.part p).mem.poolZeroing = (s.part p).mem.poolZeroing.eraseIdx i ∧
        Sparse.get 0#8 v.mem (id * frameBytes + ofs) = 0 ∧
        (k / frameBytes ≠ id → Sparse.get 0#8 v.mem k = Sparse.get 0#8 s.mem k)))) ∧
    ((s.stream p t).flight[i]? = some f → f.wait = .pub → f.writes.head? = some slot → name = pName f.word → name ≠ 0xFFFF →
      ((s.stream p t).flight.take i).any pubWaits = false → slotWritten (s.part p) f.seq slot = false →
      goesOn (s.part p) = true →
      (∃ v, Sys2Proof.Machine.exec (.pubPublish p t i) s = .next v ∧ (
        (Sparse.get NameEntry.zero (v.part p).mem.names name).version =
          (Sparse.get NameEntry.zero (s.part p).mem.names name).version + 1 ∧
        (Sparse.get NameEntry.zero (v.part p).mem.names name).slot = slot + 1 ∧ v.mem = s.mem)))

/-- R348: a prefetch entry whose waits hold resolves its name to the slot and the version in force; its copy ends with the
entry gone, its bytes counted and its FULL signal given; while an exchange holds a page of its window, it goes on. -/
def Obligations.PrefetchEntries : Prop :=
  ∀ (s u : State) (p : Fin 16) (e : PrefEntry) (rest : List PrefEntry) (y : NameEntry) (n slot : Nat), s.Canonical →
    (s.part p).mem.prefQ = e :: rest → y = Sparse.get NameEntry.zero (s.part p).mem.names e.name →
    (prefetches (s.part p) = true → e.src = none → prefReady s (s.part p) e = true → y.slot = n + 1 →
      (∃ v, Sys2Proof.Machine.exec (.prefetchEntryStart p) s = .next v ∧ (
        (v.part p).mem.prefQ = { e with src := some n, ver := y.version } :: rest ∧ v.mem = s.mem))) ∧
    (e.src = some slot → exchanging (s.part p).mem e.dst (256 * e.len) = true →
      (∃ v, Sys2Proof.Machine.exec (.prefetchCopyDone p) s = .next v ∧ (v = s))) ∧
    (e.src = some slot → exchanging (s.part p).mem e.dst (256 * e.len) = false → Op.exec (prefCopy p e slot) s = (.ok (), u) →
      (∀ r, ∀ f ∈ ((s.part p).stream r).flight, f.wait ≠ .pref) →
      (∃ v, Sys2Proof.Machine.exec (.prefetchCopyDone p) s = .next v ∧ ((v.part p).mem.prefQ = rest ∧ v.mem = u.mem ∧
        count v (0xA0001028 + 0x40 * p.val) = (count u (0xA0001028 + 0x40 * p.val) + 256 * e.len) % 2 ^ 48 ∧
        (e.fullEn = true → (soGet v e.fullSo).value = (soGet s e.fullSo).value + 1))))

/-! ### Completion, timers and drains (03, 04, 18) -/

/-- R57, R62, R87, R91: a command that completes leaves the flights of its stream and applies its signal; behind an earlier
command of its stream that still has a signal to give, its signal waits. -/
def Obligations.CompletionAndSignals : Prop :=
  ∀ (s : State) (p : Fin 16) (t : StreamTag) (f h : Flight) (op : SigOp), s.Canonical →
    Settled (s.part p) → (s.part p).halted = false →
    canComplete (s.part p) f = true → f.wait = .none → f.mute = false → sigOf f.word = some op → cTrace f.word = false →
    ((s.stream p t).flight = [f] → (∃ v, Sys2Proof.Machine.exec (.commandComplete p t 0) s = .next v ∧ ((v.stream p t).flight = [] ∧
      soGet v (cSigSo f.word) = (soGet s (cSigSo f.word)).apply op (cSigAmount f.word) ∧
      (∀ i, i ≠ cSigSo f.word → soGet v i = soGet s i) ∧ v.mem = s.mem ∧ v.regs = s.regs ∧ v.store = s.store ∧
      ∀ k, v.core k = { s.core k with draining := (v.core k).draining }))) ∧
    ((s.stream p t).flight = [h, f] → h.done = false → h.mute = false → (sigOf h.word).isSome = true → h.seq ≠ f.seq →
      (∃ v, Sys2Proof.Machine.exec (.commandComplete p t 1) s = .next v ∧ (v.so = s.so ∧ (v.stream p t).flight = [h, { f with done := true }])))

/-- R96, R449, R450, R453: a WAIT that times out and a stream without progress freeze their partition with cause 0x3, but a
STOP HALT has stopped the timer of a WAIT; a drain ends with the partition FAULTED by the cause recorded. -/
def Obligations.TimeoutsAndDrains : Prop :=
  ∀ (s : State) (p : Fin 16) (t : StreamTag) (g : Granule), s.Canonical →
    ((s.part p).record.cause = 0 → timedWait (s.stream p t) = some g → timersRun (s.part p) t = true →
      (s.part p).halted = false → (s.stream p t).state = .running →
      (∃ v, Sys2Proof.Machine.exec (.waitTimeout p t) s = .next v ∧ ((v.stream p t).state = .faulted ∧ (v.part p).state = .faulted ∧
        (v.part p).faultCause = 3 ∧ (v.part p).record.kind = 2 ∧ field (v.stream p t).waitFault 11 0 = cWaitSo g % 2 ^ 12 ∧
        v.mem = s.mem))) ∧
    ((s.part p).halted = true → (∃ v, Sys2Proof.Machine.exec (.waitTimeout p t) s = .next v ∧ (v = s))) ∧
    ((s.part p).record.cause = 0 → timersRun (s.part p) t = true → (∃ v, Sys2Proof.Machine.exec (.progressWatchdogExpiry p t) s = .next v ∧ (
      (v.part p).state = .faulted ∧ (v.part p).faultCause = 3 ∧ (v.part p).record.kind = 1 ∧
      (v.stream p t).state = .faulted ∧ v.mem = s.mem))) ∧
    ((s.part p).draining = true → partInflight (s.part p) = 0 → (∃ v, Sys2Proof.Machine.exec (.partitionDrainDone p) s = .next v ∧ (
      (v.part p).state = .faulted ∧ (v.part p).draining = false ∧ (v.part p).faultCause = (s.part p).record.cause ∧ v.mem = s.mem)))

/-! ### Memory and numbers (01, 13) -/

/-- R326: bytes written to tiered pages of a partition, when nothing stops the write, read back as written through the frames
of their pages, where no link carries a disturbance; where no granule does either, no other byte of the shelves changes. -/
def Obligations.TierWritesLand : Prop :=
  ∀ (s u : State) (side : Side) (p : Fin 16) (a i k : Nat) (bs : List Byte), s.Canonical → s.lineErrs = [] →
    (s.part p).mem.pages.Nodup →
    a + bs.length ≤ (s.part p).mem.pages.length * frameBytes → (s.part p).mem.pages.length * frameBytes ≤ regionBase →
    Op.exec (writeMem side p a bs) s = (.ok (), u) →
    (i < bs.length → ∃ id, locate (s.part p).mem (a + i) = .frame id ((a + i) % frameBytes) ∧
      Sparse.get 0#8 u.mem (id * frameBytes + (a + i) % frameBytes) = bs.getD i 0#8) ∧
    ((∀ j, j < bs.length → ∀ id, locate (s.part p).mem (a + j) = .frame id ((a + j) % frameBytes) →
        k ≠ id * frameBytes + (a + j) % frameBytes) →
      (∀ g, Sparse.get 0 s.errs g = 0) → Sparse.get 0#8 u.mem k = Sparse.get 0#8 s.mem k)

/-! ### Sync objects, signals and the end of a stream (03, 04) -/

/-- R83: END issues after every earlier command of its stream has completed; the stream then reads DONE, and when all three
streams read DONE the partition enters COMPLETE. -/
def Obligations.EndOfStream : Prop :=
  ∀ (s u : State) (p : Fin 16) (t : StreamTag) (g : Granule),
    (Offered endCmd s p t g → pairBad (s.part p) t g = false → (∃ f ∈ (s.stream p t).flight, f.done = false) →
      (∃ v, Sys2Proof.Machine.exec (.endStream p t) s = .next v ∧ (v = s))) ∧
    (Ready endCmd s p t g u → (∀ f ∈ (s.stream p t).flight, f.done = true) ∧
      (∃ v, Sys2Proof.Machine.exec (.endStream p t) s = .next v ∧ ((v.stream p t).state = .done ∧
        ((∀ r, r ≠ t → (s.stream p r).state = .done) → (v.part p).state = .complete) ∧
        ((∃ r, r ≠ t ∧ (s.stream p r).state ≠ .done) → (v.part p).state = (s.part p).state))))

/-- R87: an ADD acts modulo 2^32 on the value of its object, for every object; one whose true sum reaches 2^32 sets WRAP,
which no signal clears; EPOCH and every other object stay. -/
def Obligations.SyncObjectAdd : Prop :=
  ∀ (s : State) (n m : Nat) (op : SigOp) (amount : Word), s.Canonical → n < 0x1000 →
    (soGet (applySignal s n .add amount) n).value.toNat = ((soGet s n).value.toNat + amount.toNat) % 2 ^ 32 ∧
    (2 ^ 32 ≤ (soGet s n).value.toNat + amount.toNat → (soGet (applySignal s n .add amount) n).wrap = true) ∧
    ((soGet s n).value.toNat + amount.toNat < 2 ^ 32 →
      (soGet (applySignal s n .add amount) n).wrap = (soGet s n).wrap) ∧
    (soGet (applySignal s n .add amount) n).epoch = (soGet s n).epoch ∧
    ((soGet s m).wrap = true → (soGet (applySignal s n op amount) m).wrap = true) ∧
    (m ≠ n → soGet (applySignal s n op amount) m = soGet s m)

/-- R94: a head command that waits on an object, in a partition that is not frozen (R450), sees the value of an operation that
satisfies its wait, and stays satisfied whatever operation comes next. -/
def Obligations.WaitsObserveValues : Prop :=
  ∀ (s : State) (p : Fin 16) (t : StreamTag) (g : Granule) (n m : Nat) (op op' : SigOp) (amount amount' : Word),
    soOwner s n = some p → (s.part p).frozen = false → (s.stream p t).head = some g → waitsOn (s.stream p t) n = true →
    condHolds (cWaitCond g) ((soGet s n).apply op amount).value (cWaitValue g) = true →
    ((applySignal s n op amount).stream p t).waitMet = true ∧
    ((applySignal (applySignal s n op amount) m op' amount').stream p t).waitMet = true

/-- The flight carries a signal that it will give. -/
def signals (f : Flight) : Bool := (sigOf f.word).isSome && !f.mute

/-- R62: when the k-th command in flight of a stream completes, the signals given are those of completed commands, no
signal is given before that of an earlier signalling command of the stream, and no other object changes. -/
def Obligations.SignalsInIssueOrder : Prop :=
  ∀ (s : State) (p : Fin 16) (t : StreamTag) (k : Nat) (f : Flight) (old : List Flight),
    Settled (s.part p) → (s.part p).halted = false → (s.stream p t).flight[k]? = some f → canComplete (s.part p) f = true →
    (∀ entry events, f.wait ≠ .update entry events) → cTrace f.word = false →
    old = (s.stream p t).flight.map (fun q => if q.seq = f.seq then { q with done := true } else q) →
    ((s.stream p t).flight.map Flight.seq).Nodup →
    (∃ v, Sys2Proof.Machine.exec (.commandComplete p t k) s = .next v ∧ (∃ given : List Flight,
      given.Sublist old ∧ (∀ q ∈ given, q.done = true ∧ signals q = true) ∧ v.so = (given.foldl applyFlight s).so ∧
      (∀ (i j : Nat) (q e : Flight), old[j]? = some q → q ∈ given → i < j → old[i]? = some e → signals e = true → e ∈ given) ∧
      (v.stream p t).flight = old.filter (fun q => !q.done || (signals q && !given.contains q))))

/-! ### The Cloile code and the number formats (05, 13) -/

/-- Number of bytes of a pattern that are not zero. -/
def weight (e : List Byte) : Nat := (e.filter (fun b => b ≠ 0#8)).length

/-- The stored granule of 32 data bytes, disturbed by an error pattern of 36 bytes. -/
def disturbed (data err : List Byte) : List Byte := List.zipWith (· ^^^ ·) (data ++ c256Check data) err

/-- R320: under either policy an error in one byte of the 36 is corrected. -/
def Obligations.C256CorrectsOneByte : Prop :=
  ∀ (pol : Policy) (data err : List Byte), data.length = 32 → err.length = 36 →
    (weight err = 0 → c256Decode pol (disturbed data err) = .clean data) ∧
    (weight err = 1 → c256Decode pol (disturbed data err) = .corrected data)

/-- R320: the minimum distance is 5 bytes. Under correct-2 every error in at most 2 bytes is corrected, and one in 3 or 4
bytes is detected when no correction of 2 or fewer bytes explains it; under correct-1/detect-3 every error in 1 byte is
corrected, and every error in 2 or 3 bytes is detected. -/
def Obligations.C256Distance : Prop :=
  ∀ (data other err : List Byte), data.length = 32 → other.length = 32 → err.length = 36 →
    (data ≠ other → 5 ≤ weight (List.zipWith (· ^^^ ·) (data ++ c256Check data) (other ++ c256Check other))) ∧
    (∃ a b : List Byte, a.length = 32 ∧ b.length = 32 ∧
      weight (List.zipWith (· ^^^ ·) (a ++ c256Check a) (b ++ c256Check b)) = 5) ∧
    (weight err = 1 ∨ weight err = 2 → c256Decode .correct2 (disturbed data err) = .corrected data) ∧
    (weight err = 3 ∨ weight err = 4 →
      (∀ e : List Byte, e.length = 36 → weight e ≤ 2 →
        c256Syns (List.zipWith (· ^^^ ·) (disturbed data err) e) ≠ [0#8, 0#8, 0#8, 0#8]) →
      c256Decode .correct2 (disturbed data err) = .uncorrectable) ∧
    (weight err = 1 → c256Decode .correct1 (disturbed data err) = .corrected data) ∧
    (weight err = 2 ∨ weight err = 3 → c256Decode .correct1 (disturbed data err) = .uncorrectable)

/-- R116, R120, Table 5-5: a code of a floating-point format that is no NaN decodes to a value whose encoding, under every
rounding and draw, is the code itself: no bit is dropped, and no subnormal is flushed. -/
def Obligations.NumberCodesRoundTrip : Prop :=
  ∀ f ∈ [fE4M3, fE5M2, fFP16, fBF16, fFP32, fM40, fW48], ∀ (m : Rounding) (code : Nat) (v : Machine.Num), code < 2 * f.signBit →
    f.decode code = .ok v → f.encodeWide m v = code

/-- R120, R122: the three roundings of an exact quotient to an integer. -/
def Obligations.RoundingToIntegers : Prop :=
  ∀ (x : Rat) (d : Nat),
    (∀ k : Int, ratAbs (x - roundInt .nearestEven x) ≤ ratAbs (x - k)) ∧
    (ratAbs (x - roundInt .nearestEven x) = 1 / 2 → roundInt .nearestEven x % 2 = 0) ∧
    (ratAbs (roundInt .towardZero x) ≤ ratAbs x ∧ ratAbs (x - roundInt .towardZero x) < 1) ∧
    (x = x.floor → roundInt (.stoch d) x = x.floor) ∧
    (x ≠ x.floor → roundInt (.stoch d) x =
      if (d : Int) < ((x - x.floor) * ((2 ^ 24 : Nat) : Rat)).floor then x.floor + 1 else x.floor)

/-! ### Reset, the queue and what every step keeps -/

/-- With no command waiting, the block idles (the model's choice, assumption 1). -/
def Obligations.EmptyQueueIdles : Prop := ∀ s : State, s.pending = [] → step s = .next s

/-- Reset (R487, Tables 2-4, 16-12, 16-13 and the other register tables): no power, no command waiting, no job, every core
and every stored register at its reset value, every count 0, and the canonical form holds. The fuses, the flash and the
memories that no rule gives a content are the model's choice (assumptions 4 and 5). -/
def Obligations.ResetState : Prop :=
  State.reset.Canonical ∧ State.reset.pending = [] ∧ State.reset.input = .off ∧ State.reset.boot.step = .off ∧
  (∀ p, State.reset.part p = Part.free) ∧ (∀ c, State.reset.core c = Core.reset) ∧ (∀ a, count State.reset a = 0) ∧
  (∀ n, soGet State.reset n = SyncObj.zero) ∧
  (∀ r ∈ [(0x00000000, 0xB764A100), (0x90000000, 0x00000C01), (0xA0000000, 0x00001001), (0xB0000000, 0x010088B5),
    (0xB0000004, 0x07D04040), (0xC0000000, 0x0E00BA5E), (0xE0000000, 0x40271012), (0xE0000008, 0x10000000),
    (0xE0000200, 0x10960708), (0xF0000004, 0x00000064), (0xF0000008, 0x0000EA60), (0xF000000C, 0x00400000)],
    rawReg State.reset r.1 = BitVec.ofNat 32 r.2)

/-- Every command answers a next state, from every state and with every operand, and leaves the queue as it is; so a step
takes exactly the command at the front. -/
def Obligations.EveryCommandAnswers : Prop :=
  (∀ (i : Instr) (s : State), ∃ t, exec i s = .next t ∧ t.pending = s.pending) ∧
  ∀ s : State, ∃ t, step s = .next t ∧ t.pending = s.pending.tail

/-- Every step keeps memory and every numbered collection in the one canonical form. -/
def Obligations.StepKeepsCanonicalForm : Prop :=
  ∀ s t : State, s.Canonical → step s = .next t → t.Canonical

/-- R389, R460: each burn is permanent, whatever a step carries out. The fused SVN never falls, no revocation is undone, and no
retirement record is lost. -/
def Obligations.StepKeepsFuses : Prop :=
  ∀ s t : State, step s = .next t → FusesKept s.boot.fuses t.boot.fuses
end

