-- ==== Sys2Proof/Laws/Bits.lean ====
section
/-! SUPPORT. What reading a bit or a field of a 32-bit word gives after a bit or a field of it was set. -/

namespace Sys2Proof.Machine

theorem flag_mask32 (hi lo i : Nat) : flag (mask32 hi lo) i = (decide (i < 32) && decide (lo ≤ i) && decide (i ≤ hi)) := by
  unfold flag mask32
  rw [BitVec.getLsbD_ofNat, Nat.testBit_mul_two_pow, Nat.testBit_two_pow_sub_one]
  rw [Bool.eq_iff_iff]
  simp only [Bool.and_eq_true, decide_eq_true_eq]
  omega

theorem flag_at32 (lo v i : Nat) : flag (at32 lo v) i = (decide (i < 32) && decide (lo ≤ i) && v.testBit (i - lo)) := by
  unfold flag at32
  rw [BitVec.getLsbD_ofNat, Nat.testBit_mul_two_pow]
  simp only [Bool.and_assoc]

theorem flag_bit32 (k : Nat) (b : Bool) (i : Nat) : flag (bit32 k b) i = (b && decide (i = k) && decide (i < 32)) := by
  unfold flag bit32
  cases b
  · simp
  · simp only [if_true, BitVec.getLsbD_ofNat, Nat.testBit_two_pow, Bool.true_and]
    rw [Bool.and_comm]
    congr 1
    exact decide_eq_decide.mpr eq_comm

theorem flag_merge32 (w m v : Word) (i : Nat) (h : i < 32) :
    flag (merge32 w m v) i = if flag m i then flag v i else flag w i := by
  unfold flag merge32
  rw [BitVec.getLsbD_or, BitVec.getLsbD_and, BitVec.getLsbD_and, BitVec.getLsbD_not]
  by_cases hm : m.getLsbD i = true
  · rw [if_pos hm, hm]; simp
  · rw [if_neg hm, Bool.eq_false_iff.mpr hm]; simp [h]

theorem flag_setBit (w : Word) (k : Nat) (b : Bool) (i : Nat) (h : i < 32) :
    flag (setBit w k b) i = if i = k then b else flag w i := by
  unfold setBit
  rw [flag_merge32 _ _ _ _ h, flag_mask32, flag_bit32]
  simp only [h, decide_true, Bool.true_and, Bool.and_true]
  by_cases hk : i = k
  · subst hk; simp
  · rw [if_neg hk, if_neg]
    simp only [Bool.and_eq_true, decide_eq_true_eq]
    omega

theorem flag_setField (w : Word) (hi lo v i : Nat) (h : i < 32) :
    flag (setField w hi lo v) i = if lo ≤ i ∧ i ≤ hi then v.testBit (i - lo) else flag w i := by
  unfold setField
  rw [flag_merge32 _ _ _ _ h, flag_mask32, flag_at32]
  simp only [h, decide_true, Bool.true_and, Bool.and_eq_true, decide_eq_true_eq]
  by_cases hr : lo ≤ i ∧ i ≤ hi
  · rw [if_pos hr, if_pos hr]; simp [hr.1]
  · rw [if_neg hr, if_neg hr]

theorem testBit_field (w : Word) (hi lo i : Nat) :
    (field w hi lo).testBit i = (decide (i < hi + 1 - lo) && flag w (lo + i)) := by
  unfold field flag
  rw [Nat.testBit_mod_two_pow, Nat.testBit_shiftRight]
  rfl

/-- A field reads what was put into it, cut to its width. -/
theorem field_setField_same (w : Word) {hi lo : Nat} (v : Nat) (h : hi < 32) :
    field (setField w hi lo v) hi lo = v % 2 ^ (hi + 1 - lo) := by
  apply Nat.eq_of_testBit_eq
  intro i
  rw [testBit_field, Nat.testBit_mod_two_pow]
  by_cases hi' : i < hi + 1 - lo
  · rw [flag_setField _ _ _ _ _ (by omega), if_pos (by omega)]
    simp [hi']
  · simp [hi']

/-- A field that does not meet the one set reads as before. -/
theorem field_setField_ne (w : Word) {hi lo hi' lo' : Nat} (v : Nat) (h : hi < 32) (hd : hi < lo' ∨ hi' < lo) :
    field (setField w hi' lo' v) hi lo = field w hi lo := by
  apply Nat.eq_of_testBit_eq
  intro i
  rw [testBit_field, testBit_field]
  by_cases hi2 : i < hi + 1 - lo
  · rw [flag_setField _ _ _ _ _ (by omega), if_neg (by omega)]
  · simp [hi2]

/-- A field that does not hold the bit set reads as before. -/
theorem field_setBit_ne (w : Word) {hi lo k : Nat} (b : Bool) (h : hi < 32) (hd : k < lo ∨ hi < k) :
    field (setBit w k b) hi lo = field w hi lo := by
  apply Nat.eq_of_testBit_eq
  intro i
  rw [testBit_field, testBit_field]
  by_cases hi2 : i < hi + 1 - lo
  · rw [flag_setBit _ _ _ _ (by omega), if_neg (by omega)]
  · simp [hi2]

theorem flag_setField_ne (w : Word) {hi lo i : Nat} (v : Nat) (h : i < 32) (hd : i < lo ∨ hi < i) :
    flag (setField w hi lo v) i = flag w i := by rw [flag_setField _ _ _ _ _ h, if_neg (by omega)]

end Sys2Proof.Machine
end

