-- ==== Sys2Proof/Laws/Sparse.lean ====
section
/-! SUPPORT. The laws of sparse data: a read after a write gives the value written, a write leaves every other key alone,
every operation keeps the canonical form, and equal contents in that form are equal data. -/

namespace Sys2Proof.Machine

variable {α : Type} [DecidableEq α] {f : Nat → α} {d : α}

/-! ### Where the default depends on the key -/

theorem Sparse.wfBy_mono {m : Sparse α} {lo lo' : Nat} (h : lo' ≤ lo) (hm : Sparse.wfBy f lo m = true) :
    Sparse.wfBy f lo' m = true := by
  cases m with
  | nil => rfl
  | cons e rest =>
    obtain ⟨k, v⟩ := e
    simp only [Sparse.wfBy, Bool.and_eq_true, decide_eq_true_eq] at hm ⊢
    exact ⟨⟨by omega, hm.1.2⟩, hm.2⟩

/-- Below the lowest listed key everything reads as the default. -/
theorem Sparse.get_below {m : Sparse α} {lo k : Nat} (hm : Sparse.wfBy f lo m = true) (h : k < lo) :
    Sparse.get d m k = d := by
  cases m with
  | nil => rfl
  | cons e rest =>
    obtain ⟨k', v⟩ := e
    simp only [Sparse.wfBy, Bool.and_eq_true, decide_eq_true_eq] at hm
    rw [Sparse.get, if_neg (by omega), if_pos (by omega)]

theorem Sparse.set_wfBy {m : Sparse α} {lo k : Nat} (v : α) (hm : Sparse.wfBy f lo m = true) (h : lo ≤ k) :
    Sparse.wfBy f lo (Sparse.set (f k) m k v) = true := by
  induction m generalizing lo with
  | nil => by_cases hv : v = f k <;> simp [Sparse.set, Sparse.wfBy, hv, h]
  | cons e rest ih =>
    obtain ⟨k', v'⟩ := e
    simp only [Sparse.wfBy, Bool.and_eq_true, decide_eq_true_eq] at hm
    obtain ⟨⟨hlo, hne⟩, hr⟩ := hm
    rw [Sparse.set]
    split
    · split
      · simp [Sparse.wfBy, hlo, hne, hr]
      · rename_i hk hv
        simp only [Sparse.wfBy, Bool.and_eq_true, decide_eq_true_eq]
        exact ⟨⟨h, hv⟩, ⟨by omega, hne⟩, hr⟩
    · split
      · split
        · exact Sparse.wfBy_mono (by omega) hr
        · rename_i hk he hv
          simp only [Sparse.wfBy, Bool.and_eq_true, decide_eq_true_eq]
          exact ⟨⟨h, hv⟩, he ▸ hr⟩
      · simp only [Sparse.wfBy, Bool.and_eq_true, decide_eq_true_eq]
        exact ⟨⟨hlo, hne⟩, ih hr (by omega)⟩

/-- What a filter leaves is in canonical form. -/
theorem Sparse.filter_wfBy {m : Sparse α} {lo : Nat} (g : Nat × α → Bool) (hm : Sparse.wfBy f lo m = true) :
    Sparse.wfBy f lo (m.filter g) = true := by
  induction m generalizing lo with
  | nil => rfl
  | cons e rest ih =>
    obtain ⟨k', v'⟩ := e
    simp only [Sparse.wfBy, Bool.and_eq_true, decide_eq_true_eq] at hm
    rw [List.filter_cons]
    split
    · simp only [Sparse.wfBy, Bool.and_eq_true, decide_eq_true_eq]
      exact ⟨hm.1, ih hm.2⟩
    · exact Sparse.wfBy_mono (by omega) (ih hm.2)

/-- A read after a write, by key. -/
theorem Sparse.get_set_by {m : Sparse α} {lo : Nat} (k : Nat) (v : α) (hm : Sparse.wfBy f lo m = true) (j : Nat) :
    Sparse.get (f j) (Sparse.set (f k) m k v) j = if j = k then v else Sparse.get (f j) m j := by
  induction m generalizing lo with
  | nil =>
    by_cases hv : v = f k
    · rw [Sparse.set, if_pos hv, Sparse.get]
      split
      · rename_i h; rw [h, hv]
      · rfl
    · simp only [Sparse.set, if_neg hv, Sparse.get]
      split <;> [rfl; (split <;> rfl)]
  | cons e rest ih =>
    obtain ⟨k', v'⟩ := e
    simp only [Sparse.wfBy, Bool.and_eq_true, decide_eq_true_eq] at hm
    obtain ⟨⟨hlo, hne⟩, hr⟩ := hm
    rw [Sparse.set]
    split
    · split
      · rename_i hk hv
        by_cases hj : j = k
        · rw [if_pos hj, Sparse.get, if_neg (by omega), if_pos (by omega), hv, hj]
        · rw [if_neg hj]
      · by_cases hj : j = k
        · rw [if_pos hj, Sparse.get, if_pos hj]
        · rw [if_neg hj, Sparse.get, if_neg hj]
          split
          · rw [Sparse.get, if_neg (by omega), if_pos (by omega)]
          · rfl
    · split
      · rename_i hk he
        subst he
        split
        · rename_i hv
          by_cases hj : j = k
          · rw [if_pos hj, Sparse.get_below hr (by omega), hv, hj]
          · rw [if_neg hj, Sparse.get, if_neg hj]
            split
            · exact Sparse.get_below hr (by omega)
            · rfl
        · by_cases hj : j = k
          · rw [if_pos hj, Sparse.get, if_pos hj]
          · rw [if_neg hj, Sparse.get, Sparse.get, if_neg hj, if_neg hj]
      · rename_i hk he
        rw [Sparse.get, Sparse.get]
        by_cases h1 : j = k'
        · rw [if_pos h1, if_pos h1, if_neg (by omega)]
        · rw [if_neg h1, if_neg h1]
          by_cases h2 : j < k'
          · rw [if_pos h2, if_pos h2, if_neg (by omega)]
          · rw [if_neg h2, if_neg h2]
            exact ih hr

theorem Sparse.get_filter_by {m : Sparse α} {lo : Nat} (g : Nat → Bool) (hm : Sparse.wfBy f lo m = true) (j : Nat) :
    Sparse.get d (m.filter (fun e => g e.1)) j = if g j then Sparse.get d m j else d := by
  induction m generalizing lo with
  | nil => simp [Sparse.get]
  | cons e rest ih =>
    obtain ⟨k', v'⟩ := e
    simp only [Sparse.wfBy, Bool.and_eq_true, decide_eq_true_eq] at hm
    rw [List.filter_cons]
    split
    · rename_i hf
      simp only at hf
      rw [Sparse.get, Sparse.get]
      by_cases h1 : j = k'
      · rw [if_pos h1, if_pos h1, h1, if_pos hf]
      · rw [if_neg h1, if_neg h1]
        by_cases h2 : j < k'
        · rw [if_pos h2, if_pos h2]; split <;> rfl
        · rw [if_neg h2, if_neg h2]; exact ih hm.2
    · rename_i hf
      simp only at hf
      rw [ih hm.2, Sparse.get]
      by_cases h1 : j = k'
      · rw [h1, if_neg hf, if_neg hf]
      · rw [if_neg h1]
        by_cases h2 : j < k'
        · rw [if_pos h2, Sparse.get_below hm.2 (by omega)]
        · rw [if_neg h2]

/-- Clearing a range puts its keys back to the default and leaves the others. -/
theorem Sparse.get_clearRange_by {m : Sparse α} (lo n : Nat) (hm : Sparse.wfBy f 0 m = true) (j : Nat) :
    Sparse.get d (Sparse.clearRange m lo n) j = if j < lo ∨ lo + n ≤ j then Sparse.get d m j else d := by
  have h := Sparse.get_filter_by (d := d) (fun k => decide (k < lo) || decide (lo + n ≤ k)) hm j
  simp only [Bool.or_eq_true, decide_eq_true_eq] at h
  exact h

theorem Sparse.ext_by {a b : Sparse α} {lo : Nat} (ha : Sparse.wfBy f lo a = true) (hb : Sparse.wfBy f lo b = true)
    (h : ∀ k, Sparse.get (f k) a k = Sparse.get (f k) b k) : a = b := by
  induction a generalizing b lo with
  | nil =>
    cases b with
    | nil => rfl
    | cons e rest =>
      obtain ⟨k, v⟩ := e
      simp only [Sparse.wfBy, Bool.and_eq_true, decide_eq_true_eq] at hb
      exact absurd (by simpa [Sparse.get] using (h k).symm) hb.1.2
  | cons e rest ih =>
    obtain ⟨k, v⟩ := e
    simp only [Sparse.wfBy, Bool.and_eq_true, decide_eq_true_eq] at ha
    cases b with
    | nil => exact absurd (by simpa [Sparse.get] using h k) ha.1.2
    | cons e' rest' =>
      obtain ⟨k', v'⟩ := e'
      simp only [Sparse.wfBy, Bool.and_eq_true, decide_eq_true_eq] at hb
      have hk : k = k' := by
        have h1 := h k
        have h2 := h k'
        rw [Sparse.get, if_pos rfl, Sparse.get] at h1
        rw [Sparse.get, Sparse.get, if_pos rfl] at h2
        by_contra hne
        rw [if_neg hne] at h1
        rw [if_neg (Ne.symm hne)] at h2
        by_cases hlt : k < k'
        · rw [if_pos hlt] at h1; exact ha.1.2 h1
        · rw [if_pos (by omega)] at h2; exact hb.1.2 h2.symm
      subst hk
      have hv : v = v' := by simpa [Sparse.get] using h k
      subst hv
      rw [ih ha.2 hb.2]
      intro j
      have hj := h j
      rw [Sparse.get, Sparse.get] at hj
      by_cases h1 : j ≤ k
      · rw [Sparse.get_below ha.2 (by omega), Sparse.get_below hb.2 (by omega)]
      · rwa [if_neg (by omega), if_neg (by omega), if_neg (by omega), if_neg (by omega)] at hj

theorem Sparse.set_wf' {m : Sparse α} (k : Nat) (v : α) (hm : Sparse.wfBy f 0 m = true) :
    Sparse.wfBy f 0 (Sparse.set (f k) m k v) = true := Sparse.set_wfBy v hm (Nat.zero_le k)

/-! ### One default for every key -/

theorem Sparse.nil_wf : Sparse.wf d [] = true := rfl

/-- A write keeps the canonical form. -/
theorem Sparse.set_wf {m : Sparse α} (k : Nat) (v : α) (hm : Sparse.wf d m = true) :
    Sparse.wf d (Sparse.set d m k v) = true := Sparse.set_wfBy v hm (Nat.zero_le k)

theorem Sparse.modify_wf {m : Sparse α} (k : Nat) (g : α → α) (hm : Sparse.wf d m = true) :
    Sparse.wf d (Sparse.modify d m k g) = true := Sparse.set_wf k _ hm

/-- A run of writes keeps the canonical form. -/
theorem Sparse.setRun_wf {m : Sparse α} (k : Nat) (vs : List α) (hm : Sparse.wf d m = true) :
    Sparse.wf d (Sparse.setRun d m k vs) = true := by
  induction vs generalizing m k with
  | nil => exact hm
  | cons v vs ih => exact ih (k + 1) (Sparse.set_wf k v hm)

theorem Sparse.filter_wf {m : Sparse α} (g : Nat × α → Bool) (hm : Sparse.wf d m = true) :
    Sparse.wf d (m.filter g) = true := Sparse.filter_wfBy g hm

theorem Sparse.clearRange_wf {m : Sparse α} (lo n : Nat) (hm : Sparse.wf d m = true) :
    Sparse.wf d (Sparse.clearRange m lo n) = true := Sparse.filter_wfBy _ hm

theorem Sparse.clearRange_wfBy {m : Sparse α} (lo n : Nat) (hm : Sparse.wfBy f 0 m = true) :
    Sparse.wfBy f 0 (Sparse.clearRange m lo n) = true := Sparse.filter_wfBy _ hm

theorem Sparse.ite_wf {a b : Sparse α} {c : Prop} [Decidable c] (ha : Sparse.wf d a = true) (hb : Sparse.wf d b = true) :
    Sparse.wf d (if c then a else b) = true := by split <;> assumption

/-- A fold of steps that each keep the canonical form keeps it. -/
theorem Sparse.foldl_wf {β : Type} (g : Sparse α → β → Sparse α)
    (hg : ∀ m b, Sparse.wf d m = true → Sparse.wf d (g m b) = true) (l : List β) {m : Sparse α}
    (hm : Sparse.wf d m = true) : Sparse.wf d (l.foldl g m) = true := by
  induction l generalizing m with
  | nil => exact hm
  | cons b l ih => exact ih (hg m b hm)

/-- A read after a write. -/
theorem Sparse.get_set {m : Sparse α} (k : Nat) (v : α) (hm : Sparse.wf d m = true) (j : Nat) :
    Sparse.get d (Sparse.set d m k v) j = if j = k then v else Sparse.get d m j :=
  Sparse.get_set_by (f := fun _ => d) k v hm j

theorem Sparse.get_set_same {m : Sparse α} (k : Nat) (v : α) (hm : Sparse.wf d m = true) :
    Sparse.get d (Sparse.set d m k v) k = v := by rw [Sparse.get_set k v hm, if_pos rfl]

theorem Sparse.get_set_ne {m : Sparse α} {k j : Nat} (v : α) (hm : Sparse.wf d m = true) (h : j ≠ k) :
    Sparse.get d (Sparse.set d m k v) j = Sparse.get d m j := by rw [Sparse.get_set k v hm, if_neg h]

/-- A run of writes changes only the keys of the run. -/
theorem Sparse.get_setRun {m : Sparse α} (k : Nat) (vs : List α) (hm : Sparse.wf d m = true) (j : Nat) :
    Sparse.get d (Sparse.setRun d m k vs) j =
      if k ≤ j ∧ j < k + vs.length then vs.getD (j - k) d else Sparse.get d m j := by
  induction vs generalizing m k with
  | nil => rw [if_neg (by simp)]; rfl
  | cons v vs ih =>
    rw [Sparse.setRun, ih (k + 1) (Sparse.set_wf k v hm)]
    by_cases hj : j = k
    · subst hj
      rw [if_neg (by omega), if_pos (by simp), Sparse.get_set_same _ _ hm]
      simp
    · rw [Sparse.get_set_ne v hm hj]
      by_cases h : k + 1 ≤ j ∧ j < k + 1 + vs.length
      · rw [if_pos h, if_pos (by simp only [List.length_cons]; omega)]
        obtain ⟨i, rfl⟩ : ∃ i, j = k + 1 + i := ⟨j - (k + 1), by omega⟩
        rw [show k + 1 + i - (k + 1) = i by omega, show k + 1 + i - k = i + 1 by omega, List.getD_cons_succ]
      · rw [if_neg h, if_neg (by simp only [List.length_cons]; omega)]

/-- Clearing a range puts its keys back to the default and leaves the others. -/
theorem Sparse.get_clearRange {m : Sparse α} (lo n : Nat) (hm : Sparse.wf d m = true) (j : Nat) :
    Sparse.get d (Sparse.clearRange m lo n) j = if j < lo ∨ lo + n ≤ j then Sparse.get d m j else d :=
  Sparse.get_clearRange_by lo n hm j

/-- Equal contents in canonical form are equal data. -/
theorem Sparse.ext {a b : Sparse α} (ha : Sparse.wf d a = true) (hb : Sparse.wf d b = true)
    (h : ∀ k, Sparse.get d a k = Sparse.get d b k) : a = b := Sparse.ext_by ha hb h

omit [DecidableEq α] in
/-- A run reads alike where every key of it does. -/
theorem Sparse.getRun_congr {a b : Sparse α} (k n : Nat)
    (h : ∀ j, k ≤ j → j < k + n → Sparse.get d a j = Sparse.get d b j) :
    Sparse.getRun d a k n = Sparse.getRun d b k n := by
  induction n generalizing k with
  | zero => rfl
  | succ n ih =>
    rw [Sparse.getRun, Sparse.getRun, h k (Nat.le_refl k) (by omega), ih (k + 1) (fun j h1 h2 => h j (by omega) (by omega))]

/-- Reading a run after writing it gives what was written. -/
theorem Sparse.getRun_setRun {m : Sparse α} (k : Nat) (vs : List α) (hm : Sparse.wf d m = true) :
    Sparse.getRun d (Sparse.setRun d m k vs) k vs.length = vs := by
  induction vs generalizing m k with
  | nil => rfl
  | cons v vs ih =>
    rw [List.length_cons, Sparse.getRun, Sparse.get_setRun _ _ hm, if_pos (by simp)]
    simp only [Nat.sub_self, List.getD_cons_zero, List.cons.injEq, true_and]
    rw [Sparse.setRun, ih (k + 1) (Sparse.set_wf k v hm)]

end Sys2Proof.Machine
end

