-- ==== Sys2Proof/Laws/State.lean ====
section
/-! SUPPORT. What each update of State leaves and gives: one lemma per field per update, so that no proof unfolds a record
update. -/

namespace Sys2Proof.Machine

/-! ### setPart -/

@[simp] theorem State.setPart_pending (s : State) (p : Fin 16) (x : Part) : (s.setPart p x).pending = s.pending := rfl
@[simp] theorem State.setPart_regs (s : State) (p : Fin 16) (x : Part) : (s.setPart p x).regs = s.regs := rfl
@[simp] theorem State.setPart_counts (s : State) (p : Fin 16) (x : Part) : (s.setPart p x).counts = s.counts := rfl
@[simp] theorem State.setPart_caps (s : State) (p : Fin 16) (x : Part) : (s.setPart p x).caps = s.caps := rfl
@[simp] theorem State.setPart_mem (s : State) (p : Fin 16) (x : Part) : (s.setPart p x).mem = s.mem := rfl
@[simp] theorem State.setPart_store (s : State) (p : Fin 16) (x : Part) : (s.setPart p x).store = s.store := rfl
@[simp] theorem State.setPart_errs (s : State) (p : Fin 16) (x : Part) : (s.setPart p x).errs = s.errs := rfl
@[simp] theorem State.setPart_storeErrs (s : State) (p : Fin 16) (x : Part) : (s.setPart p x).storeErrs = s.storeErrs := rfl
@[simp] theorem State.setPart_sramErrs (s : State) (p : Fin 16) (x : Part) : (s.setPart p x).sramErrs = s.sramErrs := rfl
@[simp] theorem State.setPart_lineErrs (s : State) (p : Fin 16) (x : Part) : (s.setPart p x).lineErrs = s.lineErrs := rfl
@[simp] theorem State.setPart_frames (s : State) (p : Fin 16) (x : Part) : (s.setPart p x).frames = s.frames := rfl
@[simp] theorem State.setPart_cores (s : State) (p : Fin 16) (x : Part) : (s.setPart p x).cores = s.cores := rfl
@[simp] theorem State.setPart_so (s : State) (p : Fin 16) (x : Part) : (s.setPart p x).so = s.so := rfl
@[simp] theorem State.setPart_soBlk (s : State) (p : Fin 16) (x : Part) : (s.setPart p x).soBlk = s.soBlk := rfl
@[simp] theorem State.setPart_slotBlk (s : State) (p : Fin 16) (x : Part) : (s.setPart p x).slotBlk = s.slotBlk := rfl
@[simp] theorem State.setPart_slots (s : State) (p : Fin 16) (x : Part) : (s.setPart p x).slots = s.slots := rfl
@[simp] theorem State.setPart_proofs (s : State) (p : Fin 16) (x : Part) : (s.setPart p x).proofs = s.proofs := rfl
@[simp] theorem State.setPart_transients (s : State) (p : Fin 16) (x : Part) : (s.setPart p x).transients = s.transients := rfl
@[simp] theorem State.setPart_retire (s : State) (p : Fin 16) (x : Part) : (s.setPart p x).retire = s.retire := rfl
@[simp] theorem State.setPart_rowsUsed (s : State) (p : Fin 16) (x : Part) : (s.setPart p x).rowsUsed = s.rowsUsed := rfl
@[simp] theorem State.setPart_lanesUsed (s : State) (p : Fin 16) (x : Part) : (s.setPart p x).lanesUsed = s.lanesUsed := rfl
@[simp] theorem State.setPart_patrol (s : State) (p : Fin 16) (x : Part) : (s.setPart p x).patrol = s.patrol := rfl
@[simp] theorem State.setPart_dump (s : State) (p : Fin 16) (x : Part) : (s.setPart p x).dump = s.dump := rfl
@[simp] theorem State.setPart_conns (s : State) (p : Fin 16) (x : Part) : (s.setPart p x).conns = s.conns := rfl
@[simp] theorem State.setPart_sess (s : State) (p : Fin 16) (x : Part) : (s.setPart p x).sess = s.sess := rfl
@[simp] theorem State.setPart_wire (s : State) (p : Fin 16) (x : Part) : (s.setPart p x).wire = s.wire := rfl
@[simp] theorem State.setPart_ports (s : State) (p : Fin 16) (x : Part) : (s.setPart p x).ports = s.ports := rfl
@[simp] theorem State.setPart_accs (s : State) (p : Fin 16) (x : Part) : (s.setPart p x).accs = s.accs := rfl
@[simp] theorem State.setPart_heldHi (s : State) (p : Fin 16) (x : Part) : (s.setPart p x).heldHi = s.heldHi := rfl
@[simp] theorem State.setPart_admits (s : State) (p : Fin 16) (x : Part) : (s.setPart p x).admits = s.admits := rfl
@[simp] theorem State.setPart_boot (s : State) (p : Fin 16) (x : Part) : (s.setPart p x).boot = s.boot := rfl
@[simp] theorem State.setPart_doms (s : State) (p : Fin 16) (x : Part) : (s.setPart p x).doms = s.doms := rfl
@[simp] theorem State.setPart_blks (s : State) (p : Fin 16) (x : Part) : (s.setPart p x).blks = s.blks := rfl
@[simp] theorem State.setPart_rises (s : State) (p : Fin 16) (x : Part) : (s.setPart p x).rises = s.rises := rfl
@[simp] theorem State.setPart_falls (s : State) (p : Fin 16) (x : Part) : (s.setPart p x).falls = s.falls := rfl
@[simp] theorem State.setPart_power (s : State) (p : Fin 16) (x : Part) : (s.setPart p x).power = s.power := rfl
@[simp] theorem State.setPart_input (s : State) (p : Fin 16) (x : Part) : (s.setPart p x).input = s.input := rfl
@[simp] theorem State.setPart_rowRuns (s : State) (p : Fin 16) (x : Part) : (s.setPart p x).rowRuns = s.rowRuns := rfl
@[simp] theorem State.setPart_freeCount (s : State) (p : Fin 16) (x : Part) : (s.setPart p x).freeCount = s.freeCount := rfl
@[simp] theorem State.setPart_tick (s : State) (p : Fin 16) (x : Part) : (s.setPart p x).tick = s.tick := rfl
@[simp] theorem State.setPart_core (s : State) (p : Fin 16) (x : Part) (c : Fin 64) : (s.setPart p x).core c = s.core c := rfl
@[simp] theorem rawReg_setPart (s : State) (p : Fin 16) (x : Part) (r : Nat) : rawReg (s.setPart p x) r = rawReg s r := rfl

/-! ### modPart -/

@[simp] theorem State.modPart_pending (s : State) (p : Fin 16) (f : Part → Part) : (s.modPart p f).pending = s.pending := rfl
@[simp] theorem State.modPart_regs (s : State) (p : Fin 16) (f : Part → Part) : (s.modPart p f).regs = s.regs := rfl
@[simp] theorem State.modPart_counts (s : State) (p : Fin 16) (f : Part → Part) : (s.modPart p f).counts = s.counts := rfl
@[simp] theorem State.modPart_caps (s : State) (p : Fin 16) (f : Part → Part) : (s.modPart p f).caps = s.caps := rfl
@[simp] theorem State.modPart_mem (s : State) (p : Fin 16) (f : Part → Part) : (s.modPart p f).mem = s.mem := rfl
@[simp] theorem State.modPart_store (s : State) (p : Fin 16) (f : Part → Part) : (s.modPart p f).store = s.store := rfl
@[simp] theorem State.modPart_errs (s : State) (p : Fin 16) (f : Part → Part) : (s.modPart p f).errs = s.errs := rfl
@[simp] theorem State.modPart_storeErrs (s : State) (p : Fin 16) (f : Part → Part) : (s.modPart p f).storeErrs = s.storeErrs := rfl
@[simp] theorem State.modPart_sramErrs (s : State) (p : Fin 16) (f : Part → Part) : (s.modPart p f).sramErrs = s.sramErrs := rfl
@[simp] theorem State.modPart_lineErrs (s : State) (p : Fin 16) (f : Part → Part) : (s.modPart p f).lineErrs = s.lineErrs := rfl
@[simp] theorem State.modPart_frames (s : State) (p : Fin 16) (f : Part → Part) : (s.modPart p f).frames = s.frames := rfl
@[simp] theorem State.modPart_cores (s : State) (p : Fin 16) (f : Part → Part) : (s.modPart p f).cores = s.cores := rfl
@[simp] theorem State.modPart_so (s : State) (p : Fin 16) (f : Part → Part) : (s.modPart p f).so = s.so := rfl
@[simp] theorem State.modPart_soBlk (s : State) (p : Fin 16) (f : Part → Part) : (s.modPart p f).soBlk = s.soBlk := rfl
@[simp] theorem State.modPart_slotBlk (s : State) (p : Fin 16) (f : Part → Part) : (s.modPart p f).slotBlk = s.slotBlk := rfl
@[simp] theorem State.modPart_slots (s : State) (p : Fin 16) (f : Part → Part) : (s.modPart p f).slots = s.slots := rfl
@[simp] theorem State.modPart_proofs (s : State) (p : Fin 16) (f : Part → Part) : (s.modPart p f).proofs = s.proofs := rfl
@[simp] theorem State.modPart_transients (s : State) (p : Fin 16) (f : Part → Part) : (s.modPart p f).transients = s.transients := rfl
@[simp] theorem State.modPart_retire (s : State) (p : Fin 16) (f : Part → Part) : (s.modPart p f).retire = s.retire := rfl
@[simp] theorem State.modPart_rowsUsed (s : State) (p : Fin 16) (f : Part → Part) : (s.modPart p f).rowsUsed = s.rowsUsed := rfl
@[simp] theorem State.modPart_lanesUsed (s : State) (p : Fin 16) (f : Part → Part) : (s.modPart p f).lanesUsed = s.lanesUsed := rfl
@[simp] theorem State.modPart_patrol (s : State) (p : Fin 16) (f : Part → Part) : (s.modPart p f).patrol = s.patrol := rfl
@[simp] theorem State.modPart_dump (s : State) (p : Fin 16) (f : Part → Part) : (s.modPart p f).dump = s.dump := rfl
@[simp] theorem State.modPart_conns (s : State) (p : Fin 16) (f : Part → Part) : (s.modPart p f).conns = s.conns := rfl
@[simp] theorem State.modPart_sess (s : State) (p : Fin 16) (f : Part → Part) : (s.modPart p f).sess = s.sess := rfl
@[simp] theorem State.modPart_wire (s : State) (p : Fin 16) (f : Part → Part) : (s.modPart p f).wire = s.wire := rfl
@[simp] theorem State.modPart_ports (s : State) (p : Fin 16) (f : Part → Part) : (s.modPart p f).ports = s.ports := rfl
@[simp] theorem State.modPart_accs (s : State) (p : Fin 16) (f : Part → Part) : (s.modPart p f).accs = s.accs := rfl
@[simp] theorem State.modPart_heldHi (s : State) (p : Fin 16) (f : Part → Part) : (s.modPart p f).heldHi = s.heldHi := rfl
@[simp] theorem State.modPart_admits (s : State) (p : Fin 16) (f : Part → Part) : (s.modPart p f).admits = s.admits := rfl
@[simp] theorem State.modPart_boot (s : State) (p : Fin 16) (f : Part → Part) : (s.modPart p f).boot = s.boot := rfl
@[simp] theorem State.modPart_doms (s : State) (p : Fin 16) (f : Part → Part) : (s.modPart p f).doms = s.doms := rfl
@[simp] theorem State.modPart_blks (s : State) (p : Fin 16) (f : Part → Part) : (s.modPart p f).blks = s.blks := rfl
@[simp] theorem State.modPart_rises (s : State) (p : Fin 16) (f : Part → Part) : (s.modPart p f).rises = s.rises := rfl
@[simp] theorem State.modPart_falls (s : State) (p : Fin 16) (f : Part → Part) : (s.modPart p f).falls = s.falls := rfl
@[simp] theorem State.modPart_power (s : State) (p : Fin 16) (f : Part → Part) : (s.modPart p f).power = s.power := rfl
@[simp] theorem State.modPart_input (s : State) (p : Fin 16) (f : Part → Part) : (s.modPart p f).input = s.input := rfl
@[simp] theorem State.modPart_rowRuns (s : State) (p : Fin 16) (f : Part → Part) : (s.modPart p f).rowRuns = s.rowRuns := rfl
@[simp] theorem State.modPart_freeCount (s : State) (p : Fin 16) (f : Part → Part) : (s.modPart p f).freeCount = s.freeCount := rfl
@[simp] theorem State.modPart_tick (s : State) (p : Fin 16) (f : Part → Part) : (s.modPart p f).tick = s.tick := rfl
@[simp] theorem State.modPart_core (s : State) (p : Fin 16) (f : Part → Part) (c : Fin 64) : (s.modPart p f).core c = s.core c := rfl
@[simp] theorem rawReg_modPart (s : State) (p : Fin 16) (f : Part → Part) (r : Nat) : rawReg (s.modPart p f) r = rawReg s r := rfl

/-! ### setCore -/

@[simp] theorem State.setCore_pending (s : State) (c : Fin 64) (x : Core) : (s.setCore c x).pending = s.pending := rfl
@[simp] theorem State.setCore_regs (s : State) (c : Fin 64) (x : Core) : (s.setCore c x).regs = s.regs := rfl
@[simp] theorem State.setCore_counts (s : State) (c : Fin 64) (x : Core) : (s.setCore c x).counts = s.counts := rfl
@[simp] theorem State.setCore_caps (s : State) (c : Fin 64) (x : Core) : (s.setCore c x).caps = s.caps := rfl
@[simp] theorem State.setCore_mem (s : State) (c : Fin 64) (x : Core) : (s.setCore c x).mem = s.mem := rfl
@[simp] theorem State.setCore_store (s : State) (c : Fin 64) (x : Core) : (s.setCore c x).store = s.store := rfl
@[simp] theorem State.setCore_errs (s : State) (c : Fin 64) (x : Core) : (s.setCore c x).errs = s.errs := rfl
@[simp] theorem State.setCore_storeErrs (s : State) (c : Fin 64) (x : Core) : (s.setCore c x).storeErrs = s.storeErrs := rfl
@[simp] theorem State.setCore_sramErrs (s : State) (c : Fin 64) (x : Core) : (s.setCore c x).sramErrs = s.sramErrs := rfl
@[simp] theorem State.setCore_lineErrs (s : State) (c : Fin 64) (x : Core) : (s.setCore c x).lineErrs = s.lineErrs := rfl
@[simp] theorem State.setCore_frames (s : State) (c : Fin 64) (x : Core) : (s.setCore c x).frames = s.frames := rfl
@[simp] theorem State.setCore_parts (s : State) (c : Fin 64) (x : Core) : (s.setCore c x).parts = s.parts := rfl
@[simp] theorem State.setCore_so (s : State) (c : Fin 64) (x : Core) : (s.setCore c x).so = s.so := rfl
@[simp] theorem State.setCore_soBlk (s : State) (c : Fin 64) (x : Core) : (s.setCore c x).soBlk = s.soBlk := rfl
@[simp] theorem State.setCore_slotBlk (s : State) (c : Fin 64) (x : Core) : (s.setCore c x).slotBlk = s.slotBlk := rfl
@[simp] theorem State.setCore_slots (s : State) (c : Fin 64) (x : Core) : (s.setCore c x).slots = s.slots := rfl
@[simp] theorem State.setCore_proofs (s : State) (c : Fin 64) (x : Core) : (s.setCore c x).proofs = s.proofs := rfl
@[simp] theorem State.setCore_transients (s : State) (c : Fin 64) (x : Core) : (s.setCore c x).transients = s.transients := rfl
@[simp] theorem State.setCore_retire (s : State) (c : Fin 64) (x : Core) : (s.setCore c x).retire = s.retire := rfl
@[simp] theorem State.setCore_rowsUsed (s : State) (c : Fin 64) (x : Core) : (s.setCore c x).rowsUsed = s.rowsUsed := rfl
@[simp] theorem State.setCore_lanesUsed (s : State) (c : Fin 64) (x : Core) : (s.setCore c x).lanesUsed = s.lanesUsed := rfl
@[simp] theorem State.setCore_patrol (s : State) (c : Fin 64) (x : Core) : (s.setCore c x).patrol = s.patrol := rfl
@[simp] theorem State.setCore_dump (s : State) (c : Fin 64) (x : Core) : (s.setCore c x).dump = s.dump := rfl
@[simp] theorem State.setCore_conns (s : State) (c : Fin 64) (x : Core) : (s.setCore c x).conns = s.conns := rfl
@[simp] theorem State.setCore_sess (s : State) (c : Fin 64) (x : Core) : (s.setCore c x).sess = s.sess := rfl
@[simp] theorem State.setCore_wire (s : State) (c : Fin 64) (x : Core) : (s.setCore c x).wire = s.wire := rfl
@[simp] theorem State.setCore_ports (s : State) (c : Fin 64) (x : Core) : (s.setCore c x).ports = s.ports := rfl
@[simp] theorem State.setCore_accs (s : State) (c : Fin 64) (x : Core) : (s.setCore c x).accs = s.accs := rfl
@[simp] theorem State.setCore_heldHi (s : State) (c : Fin 64) (x : Core) : (s.setCore c x).heldHi = s.heldHi := rfl
@[simp] theorem State.setCore_admits (s : State) (c : Fin 64) (x : Core) : (s.setCore c x).admits = s.admits := rfl
@[simp] theorem State.setCore_boot (s : State) (c : Fin 64) (x : Core) : (s.setCore c x).boot = s.boot := rfl
@[simp] theorem State.setCore_doms (s : State) (c : Fin 64) (x : Core) : (s.setCore c x).doms = s.doms := rfl
@[simp] theorem State.setCore_blks (s : State) (c : Fin 64) (x : Core) : (s.setCore c x).blks = s.blks := rfl
@[simp] theorem State.setCore_rises (s : State) (c : Fin 64) (x : Core) : (s.setCore c x).rises = s.rises := rfl
@[simp] theorem State.setCore_falls (s : State) (c : Fin 64) (x : Core) : (s.setCore c x).falls = s.falls := rfl
@[simp] theorem State.setCore_power (s : State) (c : Fin 64) (x : Core) : (s.setCore c x).power = s.power := rfl
@[simp] theorem State.setCore_input (s : State) (c : Fin 64) (x : Core) : (s.setCore c x).input = s.input := rfl
@[simp] theorem State.setCore_rowRuns (s : State) (c : Fin 64) (x : Core) : (s.setCore c x).rowRuns = s.rowRuns := rfl
@[simp] theorem State.setCore_freeCount (s : State) (c : Fin 64) (x : Core) : (s.setCore c x).freeCount = s.freeCount := rfl
@[simp] theorem State.setCore_tick (s : State) (c : Fin 64) (x : Core) : (s.setCore c x).tick = s.tick := rfl
@[simp] theorem State.setCore_part (s : State) (c : Fin 64) (x : Core) (p : Fin 16) : (s.setCore c x).part p = s.part p := rfl
@[simp] theorem rawReg_setCore (s : State) (c : Fin 64) (x : Core) (r : Nat) : rawReg (s.setCore c x) r = rawReg s r := rfl

/-! ### modCore -/

@[simp] theorem State.modCore_pending (s : State) (c : Fin 64) (f : Core → Core) : (s.modCore c f).pending = s.pending := rfl
@[simp] theorem State.modCore_regs (s : State) (c : Fin 64) (f : Core → Core) : (s.modCore c f).regs = s.regs := rfl
@[simp] theorem State.modCore_counts (s : State) (c : Fin 64) (f : Core → Core) : (s.modCore c f).counts = s.counts := rfl
@[simp] theorem State.modCore_caps (s : State) (c : Fin 64) (f : Core → Core) : (s.modCore c f).caps = s.caps := rfl
@[simp] theorem State.modCore_mem (s : State) (c : Fin 64) (f : Core → Core) : (s.modCore c f).mem = s.mem := rfl
@[simp] theorem State.modCore_store (s : State) (c : Fin 64) (f : Core → Core) : (s.modCore c f).store = s.store := rfl
@[simp] theorem State.modCore_errs (s : State) (c : Fin 64) (f : Core → Core) : (s.modCore c f).errs = s.errs := rfl
@[simp] theorem State.modCore_storeErrs (s : State) (c : Fin 64) (f : Core → Core) : (s.modCore c f).storeErrs = s.storeErrs := rfl
@[simp] theorem State.modCore_sramErrs (s : State) (c : Fin 64) (f : Core → Core) : (s.modCore c f).sramErrs = s.sramErrs := rfl
@[simp] theorem State.modCore_lineErrs (s : State) (c : Fin 64) (f : Core → Core) : (s.modCore c f).lineErrs = s.lineErrs := rfl
@[simp] theorem State.modCore_frames (s : State) (c : Fin 64) (f : Core → Core) : (s.modCore c f).frames = s.frames := rfl
@[simp] theorem State.modCore_parts (s : State) (c : Fin 64) (f : Core → Core) : (s.modCore c f).parts = s.parts := rfl
@[simp] theorem State.modCore_so (s : State) (c : Fin 64) (f : Core → Core) : (s.modCore c f).so = s.so := rfl
@[simp] theorem State.modCore_soBlk (s : State) (c : Fin 64) (f : Core → Core) : (s.modCore c f).soBlk = s.soBlk := rfl
@[simp] theorem State.modCore_slotBlk (s : State) (c : Fin 64) (f : Core → Core) : (s.modCore c f).slotBlk = s.slotBlk := rfl
@[simp] theorem State.modCore_slots (s : State) (c : Fin 64) (f : Core → Core) : (s.modCore c f).slots = s.slots := rfl
@[simp] theorem State.modCore_proofs (s : State) (c : Fin 64) (f : Core → Core) : (s.modCore c f).proofs = s.proofs := rfl
@[simp] theorem State.modCore_transients (s : State) (c : Fin 64) (f : Core → Core) : (s.modCore c f).transients = s.transients := rfl
@[simp] theorem State.modCore_retire (s : State) (c : Fin 64) (f : Core → Core) : (s.modCore c f).retire = s.retire := rfl
@[simp] theorem State.modCore_rowsUsed (s : State) (c : Fin 64) (f : Core → Core) : (s.modCore c f).rowsUsed = s.rowsUsed := rfl
@[simp] theorem State.modCore_lanesUsed (s : State) (c : Fin 64) (f : Core → Core) : (s.modCore c f).lanesUsed = s.lanesUsed := rfl
@[simp] theorem State.modCore_patrol (s : State) (c : Fin 64) (f : Core → Core) : (s.modCore c f).patrol = s.patrol := rfl
@[simp] theorem State.modCore_dump (s : State) (c : Fin 64) (f : Core → Core) : (s.modCore c f).dump = s.dump := rfl
@[simp] theorem State.modCore_conns (s : State) (c : Fin 64) (f : Core → Core) : (s.modCore c f).conns = s.conns := rfl
@[simp] theorem State.modCore_sess (s : State) (c : Fin 64) (f : Core → Core) : (s.modCore c f).sess = s.sess := rfl
@[simp] theorem State.modCore_wire (s : State) (c : Fin 64) (f : Core → Core) : (s.modCore c f).wire = s.wire := rfl
@[simp] theorem State.modCore_ports (s : State) (c : Fin 64) (f : Core → Core) : (s.modCore c f).ports = s.ports := rfl
@[simp] theorem State.modCore_accs (s : State) (c : Fin 64) (f : Core → Core) : (s.modCore c f).accs = s.accs := rfl
@[simp] theorem State.modCore_heldHi (s : State) (c : Fin 64) (f : Core → Core) : (s.modCore c f).heldHi = s.heldHi := rfl
@[simp] theorem State.modCore_admits (s : State) (c : Fin 64) (f : Core → Core) : (s.modCore c f).admits = s.admits := rfl
@[simp] theorem State.modCore_boot (s : State) (c : Fin 64) (f : Core → Core) : (s.modCore c f).boot = s.boot := rfl
@[simp] theorem State.modCore_doms (s : State) (c : Fin 64) (f : Core → Core) : (s.modCore c f).doms = s.doms := rfl
@[simp] theorem State.modCore_blks (s : State) (c : Fin 64) (f : Core → Core) : (s.modCore c f).blks = s.blks := rfl
@[simp] theorem State.modCore_rises (s : State) (c : Fin 64) (f : Core → Core) : (s.modCore c f).rises = s.rises := rfl
@[simp] theorem State.modCore_falls (s : State) (c : Fin 64) (f : Core → Core) : (s.modCore c f).falls = s.falls := rfl
@[simp] theorem State.modCore_power (s : State) (c : Fin 64) (f : Core → Core) : (s.modCore c f).power = s.power := rfl
@[simp] theorem State.modCore_input (s : State) (c : Fin 64) (f : Core → Core) : (s.modCore c f).input = s.input := rfl
@[simp] theorem State.modCore_rowRuns (s : State) (c : Fin 64) (f : Core → Core) : (s.modCore c f).rowRuns = s.rowRuns := rfl
@[simp] theorem State.modCore_freeCount (s : State) (c : Fin 64) (f : Core → Core) : (s.modCore c f).freeCount = s.freeCount := rfl
@[simp] theorem State.modCore_tick (s : State) (c : Fin 64) (f : Core → Core) : (s.modCore c f).tick = s.tick := rfl
@[simp] theorem State.modCore_part (s : State) (c : Fin 64) (f : Core → Core) (p : Fin 16) : (s.modCore c f).part p = s.part p := rfl
@[simp] theorem rawReg_modCore (s : State) (c : Fin 64) (f : Core → Core) (r : Nat) : rawReg (s.modCore c f) r = rawReg s r := rfl

/-! ### setStream -/

@[simp] theorem State.setStream_pending (s : State) (p : Fin 16) (t : StreamTag) (q : Stream) : (s.setStream p t q).pending = s.pending := rfl
@[simp] theorem State.setStream_regs (s : State) (p : Fin 16) (t : StreamTag) (q : Stream) : (s.setStream p t q).regs = s.regs := rfl
@[simp] theorem State.setStream_counts (s : State) (p : Fin 16) (t : StreamTag) (q : Stream) : (s.setStream p t q).counts = s.counts := rfl
@[simp] theorem State.setStream_caps (s : State) (p : Fin 16) (t : StreamTag) (q : Stream) : (s.setStream p t q).caps = s.caps := rfl
@[simp] theorem State.setStream_mem (s : State) (p : Fin 16) (t : StreamTag) (q : Stream) : (s.setStream p t q).mem = s.mem := rfl
@[simp] theorem State.setStream_store (s : State) (p : Fin 16) (t : StreamTag) (q : Stream) : (s.setStream p t q).store = s.store := rfl
@[simp] theorem State.setStream_errs (s : State) (p : Fin 16) (t : StreamTag) (q : Stream) : (s.setStream p t q).errs = s.errs := rfl
@[simp] theorem State.setStream_storeErrs (s : State) (p : Fin 16) (t : StreamTag) (q : Stream) : (s.setStream p t q).storeErrs = s.storeErrs := rfl
@[simp] theorem State.setStream_sramErrs (s : State) (p : Fin 16) (t : StreamTag) (q : Stream) : (s.setStream p t q).sramErrs = s.sramErrs := rfl
@[simp] theorem State.setStream_lineErrs (s : State) (p : Fin 16) (t : StreamTag) (q : Stream) : (s.setStream p t q).lineErrs = s.lineErrs := rfl
@[simp] theorem State.setStream_frames (s : State) (p : Fin 16) (t : StreamTag) (q : Stream) : (s.setStream p t q).frames = s.frames := rfl
@[simp] theorem State.setStream_cores (s : State) (p : Fin 16) (t : StreamTag) (q : Stream) : (s.setStream p t q).cores = s.cores := rfl
@[simp] theorem State.setStream_so (s : State) (p : Fin 16) (t : StreamTag) (q : Stream) : (s.setStream p t q).so = s.so := rfl
@[simp] theorem State.setStream_soBlk (s : State) (p : Fin 16) (t : StreamTag) (q : Stream) : (s.setStream p t q).soBlk = s.soBlk := rfl
@[simp] theorem State.setStream_slotBlk (s : State) (p : Fin 16) (t : StreamTag) (q : Stream) : (s.setStream p t q).slotBlk = s.slotBlk := rfl
@[simp] theorem State.setStream_slots (s : State) (p : Fin 16) (t : StreamTag) (q : Stream) : (s.setStream p t q).slots = s.slots := rfl
@[simp] theorem State.setStream_proofs (s : State) (p : Fin 16) (t : StreamTag) (q : Stream) : (s.setStream p t q).proofs = s.proofs := rfl
@[simp] theorem State.setStream_transients (s : State) (p : Fin 16) (t : StreamTag) (q : Stream) : (s.setStream p t q).transients = s.transients := rfl
@[simp] theorem State.setStream_retire (s : State) (p : Fin 16) (t : StreamTag) (q : Stream) : (s.setStream p t q).retire = s.retire := rfl
@[simp] theorem State.setStream_rowsUsed (s : State) (p : Fin 16) (t : StreamTag) (q : Stream) : (s.setStream p t q).rowsUsed = s.rowsUsed := rfl
@[simp] theorem State.setStream_lanesUsed (s : State) (p : Fin 16) (t : StreamTag) (q : Stream) : (s.setStream p t q).lanesUsed = s.lanesUsed := rfl
@[simp] theorem State.setStream_patrol (s : State) (p : Fin 16) (t : StreamTag) (q : Stream) : (s.setStream p t q).patrol = s.patrol := rfl
@[simp] theorem State.setStream_dump (s : State) (p : Fin 16) (t : StreamTag) (q : Stream) : (s.setStream p t q).dump = s.dump := rfl
@[simp] theorem State.setStream_conns (s : State) (p : Fin 16) (t : StreamTag) (q : Stream) : (s.setStream p t q).conns = s.conns := rfl
@[simp] theorem State.setStream_sess (s : State) (p : Fin 16) (t : StreamTag) (q : Stream) : (s.setStream p t q).sess = s.sess := rfl
@[simp] theorem State.setStream_wire (s : State) (p : Fin 16) (t : StreamTag) (q : Stream) : (s.setStream p t q).wire = s.wire := rfl
@[simp] theorem State.setStream_ports (s : State) (p : Fin 16) (t : StreamTag) (q : Stream) : (s.setStream p t q).ports = s.ports := rfl
@[simp] theorem State.setStream_accs (s : State) (p : Fin 16) (t : StreamTag) (q : Stream) : (s.setStream p t q).accs = s.accs := rfl
@[simp] theorem State.setStream_heldHi (s : State) (p : Fin 16) (t : StreamTag) (q : Stream) : (s.setStream p t q).heldHi = s.heldHi := rfl
@[simp] theorem State.setStream_admits (s : State) (p : Fin 16) (t : StreamTag) (q : Stream) : (s.setStream p t q).admits = s.admits := rfl
@[simp] theorem State.setStream_boot (s : State) (p : Fin 16) (t : StreamTag) (q : Stream) : (s.setStream p t q).boot = s.boot := rfl
@[simp] theorem State.setStream_doms (s : State) (p : Fin 16) (t : StreamTag) (q : Stream) : (s.setStream p t q).doms = s.doms := rfl
@[simp] theorem State.setStream_blks (s : State) (p : Fin 16) (t : StreamTag) (q : Stream) : (s.setStream p t q).blks = s.blks := rfl
@[simp] theorem State.setStream_rises (s : State) (p : Fin 16) (t : StreamTag) (q : Stream) : (s.setStream p t q).rises = s.rises := rfl
@[simp] theorem State.setStream_falls (s : State) (p : Fin 16) (t : StreamTag) (q : Stream) : (s.setStream p t q).falls = s.falls := rfl
@[simp] theorem State.setStream_power (s : State) (p : Fin 16) (t : StreamTag) (q : Stream) : (s.setStream p t q).power = s.power := rfl
@[simp] theorem State.setStream_input (s : State) (p : Fin 16) (t : StreamTag) (q : Stream) : (s.setStream p t q).input = s.input := rfl
@[simp] theorem State.setStream_rowRuns (s : State) (p : Fin 16) (t : StreamTag) (q : Stream) : (s.setStream p t q).rowRuns = s.rowRuns := rfl
@[simp] theorem State.setStream_freeCount (s : State) (p : Fin 16) (t : StreamTag) (q : Stream) : (s.setStream p t q).freeCount = s.freeCount := rfl
@[simp] theorem State.setStream_tick (s : State) (p : Fin 16) (t : StreamTag) (q : Stream) : (s.setStream p t q).tick = s.tick := rfl
@[simp] theorem State.setStream_core (s : State) (p : Fin 16) (t : StreamTag) (q : Stream) (c : Fin 64) : (s.setStream p t q).core c = s.core c := rfl
@[simp] theorem rawReg_setStream (s : State) (p : Fin 16) (t : StreamTag) (q : Stream) (r : Nat) : rawReg (s.setStream p t q) r = rawReg s r := rfl

/-! ### modStream -/

@[simp] theorem State.modStream_pending (s : State) (p : Fin 16) (t : StreamTag) (f : Stream → Stream) : (s.modStream p t f).pending = s.pending := rfl
@[simp] theorem State.modStream_regs (s : State) (p : Fin 16) (t : StreamTag) (f : Stream → Stream) : (s.modStream p t f).regs = s.regs := rfl
@[simp] theorem State.modStream_counts (s : State) (p : Fin 16) (t : StreamTag) (f : Stream → Stream) : (s.modStream p t f).counts = s.counts := rfl
@[simp] theorem State.modStream_caps (s : State) (p : Fin 16) (t : StreamTag) (f : Stream → Stream) : (s.modStream p t f).caps = s.caps := rfl
@[simp] theorem State.modStream_mem (s : State) (p : Fin 16) (t : StreamTag) (f : Stream → Stream) : (s.modStream p t f).mem = s.mem := rfl
@[simp] theorem State.modStream_store (s : State) (p : Fin 16) (t : StreamTag) (f : Stream → Stream) : (s.modStream p t f).store = s.store := rfl
@[simp] theorem State.modStream_errs (s : State) (p : Fin 16) (t : StreamTag) (f : Stream → Stream) : (s.modStream p t f).errs = s.errs := rfl
@[simp] theorem State.modStream_storeErrs (s : State) (p : Fin 16) (t : StreamTag) (f : Stream → Stream) : (s.modStream p t f).storeErrs = s.storeErrs := rfl
@[simp] theorem State.modStream_sramErrs (s : State) (p : Fin 16) (t : StreamTag) (f : Stream → Stream) : (s.modStream p t f).sramErrs = s.sramErrs := rfl
@[simp] theorem State.modStream_lineErrs (s : State) (p : Fin 16) (t : StreamTag) (f : Stream → Stream) : (s.modStream p t f).lineErrs = s.lineErrs := rfl
@[simp] theorem State.modStream_frames (s : State) (p : Fin 16) (t : StreamTag) (f : Stream → Stream) : (s.modStream p t f).frames = s.frames := rfl
@[simp] theorem State.modStream_cores (s : State) (p : Fin 16) (t : StreamTag) (f : Stream → Stream) : (s.modStream p t f).cores = s.cores := rfl
@[simp] theorem State.modStream_so (s : State) (p : Fin 16) (t : StreamTag) (f : Stream → Stream) : (s.modStream p t f).so = s.so := rfl
@[simp] theorem State.modStream_soBlk (s : State) (p : Fin 16) (t : StreamTag) (f : Stream → Stream) : (s.modStream p t f).soBlk = s.soBlk := rfl
@[simp] theorem State.modStream_slotBlk (s : State) (p : Fin 16) (t : StreamTag) (f : Stream → Stream) : (s.modStream p t f).slotBlk = s.slotBlk := rfl
@[simp] theorem State.modStream_slots (s : State) (p : Fin 16) (t : StreamTag) (f : Stream → Stream) : (s.modStream p t f).slots = s.slots := rfl
@[simp] theorem State.modStream_proofs (s : State) (p : Fin 16) (t : StreamTag) (f : Stream → Stream) : (s.modStream p t f).proofs = s.proofs := rfl
@[simp] theorem State.modStream_transients (s : State) (p : Fin 16) (t : StreamTag) (f : Stream → Stream) : (s.modStream p t f).transients = s.transients := rfl
@[simp] theorem State.modStream_retire (s : State) (p : Fin 16) (t : StreamTag) (f : Stream → Stream) : (s.modStream p t f).retire = s.retire := rfl
@[simp] theorem State.modStream_rowsUsed (s : State) (p : Fin 16) (t : StreamTag) (f : Stream → Stream) : (s.modStream p t f).rowsUsed = s.rowsUsed := rfl
@[simp] theorem State.modStream_lanesUsed (s : State) (p : Fin 16) (t : StreamTag) (f : Stream → Stream) : (s.modStream p t f).lanesUsed = s.lanesUsed := rfl
@[simp] theorem State.modStream_patrol (s : State) (p : Fin 16) (t : StreamTag) (f : Stream → Stream) : (s.modStream p t f).patrol = s.patrol := rfl
@[simp] theorem State.modStream_dump (s : State) (p : Fin 16) (t : StreamTag) (f : Stream → Stream) : (s.modStream p t f).dump = s.dump := rfl
@[simp] theorem State.modStream_conns (s : State) (p : Fin 16) (t : StreamTag) (f : Stream → Stream) : (s.modStream p t f).conns = s.conns := rfl
@[simp] theorem State.modStream_sess (s : State) (p : Fin 16) (t : StreamTag) (f : Stream → Stream) : (s.modStream p t f).sess = s.sess := rfl
@[simp] theorem State.modStream_wire (s : State) (p : Fin 16) (t : StreamTag) (f : Stream → Stream) : (s.modStream p t f).wire = s.wire := rfl
@[simp] theorem State.modStream_ports (s : State) (p : Fin 16) (t : StreamTag) (f : Stream → Stream) : (s.modStream p t f).ports = s.ports := rfl
@[simp] theorem State.modStream_accs (s : State) (p : Fin 16) (t : StreamTag) (f : Stream → Stream) : (s.modStream p t f).accs = s.accs := rfl
@[simp] theorem State.modStream_heldHi (s : State) (p : Fin 16) (t : StreamTag) (f : Stream → Stream) : (s.modStream p t f).heldHi = s.heldHi := rfl
@[simp] theorem State.modStream_admits (s : State) (p : Fin 16) (t : StreamTag) (f : Stream → Stream) : (s.modStream p t f).admits = s.admits := rfl
@[simp] theorem State.modStream_boot (s : State) (p : Fin 16) (t : StreamTag) (f : Stream → Stream) : (s.modStream p t f).boot = s.boot := rfl
@[simp] theorem State.modStream_doms (s : State) (p : Fin 16) (t : StreamTag) (f : Stream → Stream) : (s.modStream p t f).doms = s.doms := rfl
@[simp] theorem State.modStream_blks (s : State) (p : Fin 16) (t : StreamTag) (f : Stream → Stream) : (s.modStream p t f).blks = s.blks := rfl
@[simp] theorem State.modStream_rises (s : State) (p : Fin 16) (t : StreamTag) (f : Stream → Stream) : (s.modStream p t f).rises = s.rises := rfl
@[simp] theorem State.modStream_falls (s : State) (p : Fin 16) (t : StreamTag) (f : Stream → Stream) : (s.modStream p t f).falls = s.falls := rfl
@[simp] theorem State.modStream_power (s : State) (p : Fin 16) (t : StreamTag) (f : Stream → Stream) : (s.modStream p t f).power = s.power := rfl
@[simp] theorem State.modStream_input (s : State) (p : Fin 16) (t : StreamTag) (f : Stream → Stream) : (s.modStream p t f).input = s.input := rfl
@[simp] theorem State.modStream_rowRuns (s : State) (p : Fin 16) (t : StreamTag) (f : Stream → Stream) : (s.modStream p t f).rowRuns = s.rowRuns := rfl
@[simp] theorem State.modStream_freeCount (s : State) (p : Fin 16) (t : StreamTag) (f : Stream → Stream) : (s.modStream p t f).freeCount = s.freeCount := rfl
@[simp] theorem State.modStream_tick (s : State) (p : Fin 16) (t : StreamTag) (f : Stream → Stream) : (s.modStream p t f).tick = s.tick := rfl
@[simp] theorem State.modStream_core (s : State) (p : Fin 16) (t : StreamTag) (f : Stream → Stream) (c : Fin 64) : (s.modStream p t f).core c = s.core c := rfl
@[simp] theorem rawReg_modStream (s : State) (p : Fin 16) (t : StreamTag) (f : Stream → Stream) (r : Nat) : rawReg (s.modStream p t f) r = rawReg s r := rfl

/-! ### Partitions, cores and streams after an update -/

@[simp] theorem State.part_setPart_same (s : State) (p : Fin 16) (x : Part) : (s.setPart p x).part p = x := by
  simp [State.part, State.setPart]

theorem State.part_setPart (s : State) (p q : Fin 16) (x : Part) :
    (s.setPart p x).part q = if q = p then x else s.part q := by
  unfold State.part State.setPart
  by_cases h : q = p
  · subst h; simp
  · rw [if_neg h]
    simp only [Fin.getElem_fin, Vector.getElem_set]
    rw [if_neg (fun e => h (Fin.ext e.symm))]

theorem State.part_setPart_ne (s : State) {p q : Fin 16} (x : Part) (h : q ≠ p) : (s.setPart p x).part q = s.part q := by
  rw [State.part_setPart, if_neg h]

@[simp] theorem State.part_modPart_same (s : State) (p : Fin 16) (f : Part → Part) : (s.modPart p f).part p = f (s.part p) :=
  State.part_setPart_same s p _

theorem State.part_modPart_ne (s : State) {p q : Fin 16} (f : Part → Part) (h : q ≠ p) :
    (s.modPart p f).part q = s.part q := State.part_setPart_ne s _ h

@[simp] theorem State.core_setCore_same (s : State) (c : Fin 64) (x : Core) : (s.setCore c x).core c = x := by
  simp [State.core, State.setCore]

theorem State.core_setCore (s : State) (c d : Fin 64) (x : Core) :
    (s.setCore c x).core d = if d = c then x else s.core d := by
  unfold State.core State.setCore
  by_cases h : d = c
  · subst h; simp
  · rw [if_neg h]
    simp only [Fin.getElem_fin, Vector.getElem_set]
    rw [if_neg (fun e => h (Fin.ext e.symm))]

theorem State.core_setCore_ne (s : State) {c d : Fin 64} (x : Core) (h : d ≠ c) : (s.setCore c x).core d = s.core d := by
  rw [State.core_setCore, if_neg h]

@[simp] theorem State.core_modCore_same (s : State) (c : Fin 64) (f : Core → Core) : (s.modCore c f).core c = f (s.core c) :=
  State.core_setCore_same s c _

theorem State.core_modCore_ne (s : State) {c d : Fin 64} (f : Core → Core) (h : d ≠ c) :
    (s.modCore c f).core d = s.core d := State.core_setCore_ne s _ h

@[simp] theorem Part.stream_setStream_same (x : Part) (t : StreamTag) (q : Stream) : (x.setStream t q).stream t = q := by
  cases t <;> rfl

theorem Part.stream_setStream_ne (x : Part) {t u : StreamTag} (q : Stream) (h : u ≠ t) :
    (x.setStream t q).stream u = x.stream u := by
  cases t <;> cases u <;> first | rfl | exact absurd rfl h

@[simp] theorem State.stream_setStream_same (s : State) (p : Fin 16) (t : StreamTag) (q : Stream) :
    (s.setStream p t q).stream p t = q := by
  simp [State.stream, State.setStream]

@[simp] theorem State.stream_modStream_same (s : State) (p : Fin 16) (t : StreamTag) (f : Stream → Stream) :
    (s.modStream p t f).stream p t = f (s.stream p t) := State.stream_setStream_same s p t _

theorem State.stream_modStream_ne (s : State) {p p' : Fin 16} {t t' : StreamTag} (f : Stream → Stream)
    (h : p' ≠ p ∨ t' ≠ t) : (s.modStream p t f).stream p' t' = s.stream p' t' := by
  unfold State.modStream State.setStream State.stream
  by_cases hp : p' = p
  · subst hp
    rw [State.part_modPart_same]
    exact Part.stream_setStream_ne _ _ (h.resolve_left (fun e => e rfl))
  · rw [State.part_modPart_ne _ _ hp]

end Sys2Proof.Machine
end

