-- ==== Sys2Proof/Laws/Regs.lean ====
section
/-! SUPPORT. What the operations on stored registers and counts do: a read after a write, what a count gains, what a reset
of a range leaves. Each needs only that the state's collections are in canonical form. -/

namespace Sys2Proof.Machine

variable {s : State}

/-- A register after a write of another or of itself. -/
theorem rawReg_setRaw (h : s.Canonical) (a : Nat) (w : Word) (b : Nat) :
    rawReg (setRaw s a w) b = if b = a then w else rawReg s b := Sparse.get_set_by (f := resetWord) a w h.regs b

theorem rawReg_setRaw_same (h : s.Canonical) (a : Nat) (w : Word) : rawReg (setRaw s a w) a = w := by
  rw [rawReg_setRaw h, if_pos rfl]

theorem rawReg_setRaw_ne (h : s.Canonical) {a b : Nat} (w : Word) (hab : b ≠ a) :
    rawReg (setRaw s a w) b = rawReg s b := by rw [rawReg_setRaw h, if_neg hab]

/-- A write of a register leaves everything else of the state. -/
theorem setRaw_frame (a : Nat) (w : Word) : setRaw s a w = { s with regs := (setRaw s a w).regs } := rfl

theorem postBit_frame (a i : Nat) : postBit s a i = { s with regs := (postBit s a i).regs } := rfl

theorem rawReg_postBit (h : s.Canonical) (a i b : Nat) :
    rawReg (postBit s a i) b = if b = a then setBit (rawReg s a) i true else rawReg s b := rawReg_setRaw h a _ b

/-- A 48-bit count after it has counted n events. -/
theorem count_bump (h : s.Canonical) (lo : Nat) (ovf : Option (Nat × Nat)) (n b : Nat) :
    count (bump s lo ovf n) b = if b = lo then (count s lo + n) % wrap48 else count s b := by
  have key : Sparse.get 0 (Sparse.set 0 s.counts lo ((count s lo + n) % wrap48)) b =
      if b = lo then (count s lo + n) % wrap48 else count s b := Sparse.get_set lo _ h.counts b
  unfold bump
  cases ovf <;> exact key

/-- A count writes nothing but itself and, when it wraps, its overflow register. -/
theorem bump_frame (lo : Nat) (ovf : Option (Nat × Nat)) (n : Nat) :
    bump s lo ovf n = { s with regs := (bump s lo ovf n).regs, counts := (bump s lo ovf n).counts } := by
  unfold bump
  cases ovf <;> rfl

/-- A count that does not wrap leaves every register. -/
theorem rawReg_bump {lo n : Nat} (ovf : Option (Nat × Nat)) (hn : count s lo + n < wrap48) (b : Nat) :
    rawReg (bump s lo ovf n) b = rawReg s b := by
  unfold bump
  cases ovf with
  | none => rfl
  | some o => simp only [if_neg (show ¬wrap48 ≤ count s lo + n by omega)]; rfl

/-- A reset of a range returns its registers to their reset values and leaves the others. -/
theorem rawReg_resetRange (h : s.Canonical) (lo n b : Nat) :
    rawReg (resetRange s lo n) b = if b < lo ∨ lo + n ≤ b then rawReg s b else resetWord b :=
  Sparse.get_clearRange_by lo n h.regs b

theorem count_resetRange (h : s.Canonical) (lo n b : Nat) :
    count (resetRange s lo n) b = if b < lo ∨ lo + n ≤ b then count s b else 0 :=
  Sparse.get_clearRange lo n h.counts b

end Sys2Proof.Machine
end

