-- ==== Sys2Proof/Laws/Frames.lean ====
section
/-! SUPPORT. What the setters of registers, domains and blocks leave, field by field, and what the readers see through
them: no proof unfolds a record update for it. -/

namespace Sys2Proof.Machine

variable (s : State)

@[simp] theorem setRaw_pending (a : Nat) (w : Word) : (setRaw s a w).pending = s.pending := rfl
@[simp] theorem setRaw_counts (a : Nat) (w : Word) : (setRaw s a w).counts = s.counts := rfl
@[simp] theorem setRaw_caps (a : Nat) (w : Word) : (setRaw s a w).caps = s.caps := rfl
@[simp] theorem setRaw_mem (a : Nat) (w : Word) : (setRaw s a w).mem = s.mem := rfl
@[simp] theorem setRaw_store (a : Nat) (w : Word) : (setRaw s a w).store = s.store := rfl
@[simp] theorem setRaw_errs (a : Nat) (w : Word) : (setRaw s a w).errs = s.errs := rfl
@[simp] theorem setRaw_storeErrs (a : Nat) (w : Word) : (setRaw s a w).storeErrs = s.storeErrs := rfl
@[simp] theorem setRaw_sramErrs (a : Nat) (w : Word) : (setRaw s a w).sramErrs = s.sramErrs := rfl
@[simp] theorem setRaw_lineErrs (a : Nat) (w : Word) : (setRaw s a w).lineErrs = s.lineErrs := rfl
@[simp] theorem setRaw_frames (a : Nat) (w : Word) : (setRaw s a w).frames = s.frames := rfl
@[simp] theorem setRaw_parts (a : Nat) (w : Word) : (setRaw s a w).parts = s.parts := rfl
@[simp] theorem setRaw_cores (a : Nat) (w : Word) : (setRaw s a w).cores = s.cores := rfl
@[simp] theorem setRaw_so (a : Nat) (w : Word) : (setRaw s a w).so = s.so := rfl
@[simp] theorem setRaw_soBlk (a : Nat) (w : Word) : (setRaw s a w).soBlk = s.soBlk := rfl
@[simp] theorem setRaw_slotBlk (a : Nat) (w : Word) : (setRaw s a w).slotBlk = s.slotBlk := rfl
@[simp] theorem setRaw_slots (a : Nat) (w : Word) : (setRaw s a w).slots = s.slots := rfl
@[simp] theorem setRaw_proofs (a : Nat) (w : Word) : (setRaw s a w).proofs = s.proofs := rfl
@[simp] theorem setRaw_transients (a : Nat) (w : Word) : (setRaw s a w).transients = s.transients := rfl
@[simp] theorem setRaw_retire (a : Nat) (w : Word) : (setRaw s a w).retire = s.retire := rfl
@[simp] theorem setRaw_rowsUsed (a : Nat) (w : Word) : (setRaw s a w).rowsUsed = s.rowsUsed := rfl
@[simp] theorem setRaw_lanesUsed (a : Nat) (w : Word) : (setRaw s a w).lanesUsed = s.lanesUsed := rfl
@[simp] theorem setRaw_patrol (a : Nat) (w : Word) : (setRaw s a w).patrol = s.patrol := rfl
@[simp] theorem setRaw_dump (a : Nat) (w : Word) : (setRaw s a w).dump = s.dump := rfl
@[simp] theorem setRaw_conns (a : Nat) (w : Word) : (setRaw s a w).conns = s.conns := rfl
@[simp] theorem setRaw_sess (a : Nat) (w : Word) : (setRaw s a w).sess = s.sess := rfl
@[simp] theorem setRaw_wire (a : Nat) (w : Word) : (setRaw s a w).wire = s.wire := rfl
@[simp] theorem setRaw_ports (a : Nat) (w : Word) : (setRaw s a w).ports = s.ports := rfl
@[simp] theorem setRaw_accs (a : Nat) (w : Word) : (setRaw s a w).accs = s.accs := rfl
@[simp] theorem setRaw_heldHi (a : Nat) (w : Word) : (setRaw s a w).heldHi = s.heldHi := rfl
@[simp] theorem setRaw_admits (a : Nat) (w : Word) : (setRaw s a w).admits = s.admits := rfl
@[simp] theorem setRaw_boot (a : Nat) (w : Word) : (setRaw s a w).boot = s.boot := rfl
@[simp] theorem setRaw_doms (a : Nat) (w : Word) : (setRaw s a w).doms = s.doms := rfl
@[simp] theorem setRaw_blks (a : Nat) (w : Word) : (setRaw s a w).blks = s.blks := rfl
@[simp] theorem setRaw_rises (a : Nat) (w : Word) : (setRaw s a w).rises = s.rises := rfl
@[simp] theorem setRaw_falls (a : Nat) (w : Word) : (setRaw s a w).falls = s.falls := rfl
@[simp] theorem setRaw_power (a : Nat) (w : Word) : (setRaw s a w).power = s.power := rfl
@[simp] theorem setRaw_input (a : Nat) (w : Word) : (setRaw s a w).input = s.input := rfl
@[simp] theorem setRaw_rowRuns (a : Nat) (w : Word) : (setRaw s a w).rowRuns = s.rowRuns := rfl
@[simp] theorem setRaw_freeCount (a : Nat) (w : Word) : (setRaw s a w).freeCount = s.freeCount := rfl
@[simp] theorem setRaw_tick (a : Nat) (w : Word) : (setRaw s a w).tick = s.tick := rfl

@[simp] theorem domSet_pending (d : Nat) (x : Dom) : (domSet s d x).pending = s.pending := rfl
@[simp] theorem domSet_regs (d : Nat) (x : Dom) : (domSet s d x).regs = s.regs := rfl
@[simp] theorem domSet_counts (d : Nat) (x : Dom) : (domSet s d x).counts = s.counts := rfl
@[simp] theorem domSet_caps (d : Nat) (x : Dom) : (domSet s d x).caps = s.caps := rfl
@[simp] theorem domSet_mem (d : Nat) (x : Dom) : (domSet s d x).mem = s.mem := rfl
@[simp] theorem domSet_store (d : Nat) (x : Dom) : (domSet s d x).store = s.store := rfl
@[simp] theorem domSet_errs (d : Nat) (x : Dom) : (domSet s d x).errs = s.errs := rfl
@[simp] theorem domSet_storeErrs (d : Nat) (x : Dom) : (domSet s d x).storeErrs = s.storeErrs := rfl
@[simp] theorem domSet_sramErrs (d : Nat) (x : Dom) : (domSet s d x).sramErrs = s.sramErrs := rfl
@[simp] theorem domSet_lineErrs (d : Nat) (x : Dom) : (domSet s d x).lineErrs = s.lineErrs := rfl
@[simp] theorem domSet_frames (d : Nat) (x : Dom) : (domSet s d x).frames = s.frames := rfl
@[simp] theorem domSet_parts (d : Nat) (x : Dom) : (domSet s d x).parts = s.parts := rfl
@[simp] theorem domSet_cores (d : Nat) (x : Dom) : (domSet s d x).cores = s.cores := rfl
@[simp] theorem domSet_so (d : Nat) (x : Dom) : (domSet s d x).so = s.so := rfl
@[simp] theorem domSet_soBlk (d : Nat) (x : Dom) : (domSet s d x).soBlk = s.soBlk := rfl
@[simp] theorem domSet_slotBlk (d : Nat) (x : Dom) : (domSet s d x).slotBlk = s.slotBlk := rfl
@[simp] theorem domSet_slots (d : Nat) (x : Dom) : (domSet s d x).slots = s.slots := rfl
@[simp] theorem domSet_proofs (d : Nat) (x : Dom) : (domSet s d x).proofs = s.proofs := rfl
@[simp] theorem domSet_transients (d : Nat) (x : Dom) : (domSet s d x).transients = s.transients := rfl
@[simp] theorem domSet_retire (d : Nat) (x : Dom) : (domSet s d x).retire = s.retire := rfl
@[simp] theorem domSet_rowsUsed (d : Nat) (x : Dom) : (domSet s d x).rowsUsed = s.rowsUsed := rfl
@[simp] theorem domSet_lanesUsed (d : Nat) (x : Dom) : (domSet s d x).lanesUsed = s.lanesUsed := rfl
@[simp] theorem domSet_patrol (d : Nat) (x : Dom) : (domSet s d x).patrol = s.patrol := rfl
@[simp] theorem domSet_dump (d : Nat) (x : Dom) : (domSet s d x).dump = s.dump := rfl
@[simp] theorem domSet_conns (d : Nat) (x : Dom) : (domSet s d x).conns = s.conns := rfl
@[simp] theorem domSet_sess (d : Nat) (x : Dom) : (domSet s d x).sess = s.sess := rfl
@[simp] theorem domSet_wire (d : Nat) (x : Dom) : (domSet s d x).wire = s.wire := rfl
@[simp] theorem domSet_ports (d : Nat) (x : Dom) : (domSet s d x).ports = s.ports := rfl
@[simp] theorem domSet_accs (d : Nat) (x : Dom) : (domSet s d x).accs = s.accs := rfl
@[simp] theorem domSet_heldHi (d : Nat) (x : Dom) : (domSet s d x).heldHi = s.heldHi := rfl
@[simp] theorem domSet_admits (d : Nat) (x : Dom) : (domSet s d x).admits = s.admits := rfl
@[simp] theorem domSet_boot (d : Nat) (x : Dom) : (domSet s d x).boot = s.boot := rfl
@[simp] theorem domSet_blks (d : Nat) (x : Dom) : (domSet s d x).blks = s.blks := rfl
@[simp] theorem domSet_rises (d : Nat) (x : Dom) : (domSet s d x).rises = s.rises := rfl
@[simp] theorem domSet_falls (d : Nat) (x : Dom) : (domSet s d x).falls = s.falls := rfl
@[simp] theorem domSet_power (d : Nat) (x : Dom) : (domSet s d x).power = s.power := rfl
@[simp] theorem domSet_input (d : Nat) (x : Dom) : (domSet s d x).input = s.input := rfl
@[simp] theorem domSet_rowRuns (d : Nat) (x : Dom) : (domSet s d x).rowRuns = s.rowRuns := rfl
@[simp] theorem domSet_freeCount (d : Nat) (x : Dom) : (domSet s d x).freeCount = s.freeCount := rfl
@[simp] theorem domSet_tick (d : Nat) (x : Dom) : (domSet s d x).tick = s.tick := rfl

@[simp] theorem blkSet_pending (b : Nat) (x : Blk) : (blkSet s b x).pending = s.pending := rfl
@[simp] theorem blkSet_regs (b : Nat) (x : Blk) : (blkSet s b x).regs = s.regs := rfl
@[simp] theorem blkSet_counts (b : Nat) (x : Blk) : (blkSet s b x).counts = s.counts := rfl
@[simp] theorem blkSet_caps (b : Nat) (x : Blk) : (blkSet s b x).caps = s.caps := rfl
@[simp] theorem blkSet_mem (b : Nat) (x : Blk) : (blkSet s b x).mem = s.mem := rfl
@[simp] theorem blkSet_store (b : Nat) (x : Blk) : (blkSet s b x).store = s.store := rfl
@[simp] theorem blkSet_errs (b : Nat) (x : Blk) : (blkSet s b x).errs = s.errs := rfl
@[simp] theorem blkSet_storeErrs (b : Nat) (x : Blk) : (blkSet s b x).storeErrs = s.storeErrs := rfl
@[simp] theorem blkSet_sramErrs (b : Nat) (x : Blk) : (blkSet s b x).sramErrs = s.sramErrs := rfl
@[simp] theorem blkSet_lineErrs (b : Nat) (x : Blk) : (blkSet s b x).lineErrs = s.lineErrs := rfl
@[simp] theorem blkSet_frames (b : Nat) (x : Blk) : (blkSet s b x).frames = s.frames := rfl
@[simp] theorem blkSet_parts (b : Nat) (x : Blk) : (blkSet s b x).parts = s.parts := rfl
@[simp] theorem blkSet_cores (b : Nat) (x : Blk) : (blkSet s b x).cores = s.cores := rfl
@[simp] theorem blkSet_so (b : Nat) (x : Blk) : (blkSet s b x).so = s.so := rfl
@[simp] theorem blkSet_soBlk (b : Nat) (x : Blk) : (blkSet s b x).soBlk = s.soBlk := rfl
@[simp] theorem blkSet_slotBlk (b : Nat) (x : Blk) : (blkSet s b x).slotBlk = s.slotBlk := rfl
@[simp] theorem blkSet_slots (b : Nat) (x : Blk) : (blkSet s b x).slots = s.slots := rfl
@[simp] theorem blkSet_proofs (b : Nat) (x : Blk) : (blkSet s b x).proofs = s.proofs := rfl
@[simp] theorem blkSet_transients (b : Nat) (x : Blk) : (blkSet s b x).transients = s.transients := rfl
@[simp] theorem blkSet_retire (b : Nat) (x : Blk) : (blkSet s b x).retire = s.retire := rfl
@[simp] theorem blkSet_rowsUsed (b : Nat) (x : Blk) : (blkSet s b x).rowsUsed = s.rowsUsed := rfl
@[simp] theorem blkSet_lanesUsed (b : Nat) (x : Blk) : (blkSet s b x).lanesUsed = s.lanesUsed := rfl
@[simp] theorem blkSet_patrol (b : Nat) (x : Blk) : (blkSet s b x).patrol = s.patrol := rfl
@[simp] theorem blkSet_dump (b : Nat) (x : Blk) : (blkSet s b x).dump = s.dump := rfl
@[simp] theorem blkSet_conns (b : Nat) (x : Blk) : (blkSet s b x).conns = s.conns := rfl
@[simp] theorem blkSet_sess (b : Nat) (x : Blk) : (blkSet s b x).sess = s.sess := rfl
@[simp] theorem blkSet_wire (b : Nat) (x : Blk) : (blkSet s b x).wire = s.wire := rfl
@[simp] theorem blkSet_ports (b : Nat) (x : Blk) : (blkSet s b x).ports = s.ports := rfl
@[simp] theorem blkSet_accs (b : Nat) (x : Blk) : (blkSet s b x).accs = s.accs := rfl
@[simp] theorem blkSet_heldHi (b : Nat) (x : Blk) : (blkSet s b x).heldHi = s.heldHi := rfl
@[simp] theorem blkSet_admits (b : Nat) (x : Blk) : (blkSet s b x).admits = s.admits := rfl
@[simp] theorem blkSet_boot (b : Nat) (x : Blk) : (blkSet s b x).boot = s.boot := rfl
@[simp] theorem blkSet_doms (b : Nat) (x : Blk) : (blkSet s b x).doms = s.doms := rfl
@[simp] theorem blkSet_rises (b : Nat) (x : Blk) : (blkSet s b x).rises = s.rises := rfl
@[simp] theorem blkSet_falls (b : Nat) (x : Blk) : (blkSet s b x).falls = s.falls := rfl
@[simp] theorem blkSet_power (b : Nat) (x : Blk) : (blkSet s b x).power = s.power := rfl
@[simp] theorem blkSet_input (b : Nat) (x : Blk) : (blkSet s b x).input = s.input := rfl
@[simp] theorem blkSet_rowRuns (b : Nat) (x : Blk) : (blkSet s b x).rowRuns = s.rowRuns := rfl
@[simp] theorem blkSet_freeCount (b : Nat) (x : Blk) : (blkSet s b x).freeCount = s.freeCount := rfl
@[simp] theorem blkSet_tick (b : Nat) (x : Blk) : (blkSet s b x).tick = s.tick := rfl

@[simp] theorem rawReg_domSet (d : Nat) (x : Dom) (a : Nat) : rawReg (domSet s d x) a = rawReg s a := rfl
@[simp] theorem rawReg_blkSet (b : Nat) (x : Blk) (a : Nat) : rawReg (blkSet s b x) a = rawReg s a := rfl
@[simp] theorem count_setRaw (a : Nat) (w : Word) (c : Nat) : count (setRaw s a w) c = count s c := rfl
@[simp] theorem count_domSet (d : Nat) (x : Dom) (a : Nat) : count (domSet s d x) a = count s a := rfl
@[simp] theorem count_blkSet (b : Nat) (x : Blk) (a : Nat) : count (blkSet s b x) a = count s a := rfl
@[simp] theorem domGet_setRaw (a : Nat) (w : Word) (i : Nat) : domGet (setRaw s a w) i = domGet s i := rfl
@[simp] theorem domGet_blkSet (b : Nat) (x : Blk) (i : Nat) : domGet (blkSet s b x) i = domGet s i := rfl
@[simp] theorem blkGet_setRaw (a : Nat) (w : Word) (i : Nat) : blkGet (setRaw s a w) i = blkGet s i := rfl
@[simp] theorem blkGet_domSet (d : Nat) (x : Dom) (i : Nat) : blkGet (domSet s d x) i = blkGet s i := rfl
@[simp] theorem part_setRaw (a : Nat) (w : Word) (p : Fin 16) : State.part (setRaw s a w) p = State.part s p := rfl
@[simp] theorem part_domSet (d : Nat) (x : Dom) (p : Fin 16) : State.part (domSet s d x) p = State.part s p := rfl
@[simp] theorem part_blkSet (b : Nat) (x : Blk) (p : Fin 16) : State.part (blkSet s b x) p = State.part s p := rfl
@[simp] theorem core_setRaw (a : Nat) (w : Word) (c : Fin 64) : State.core (setRaw s a w) c = State.core s c := rfl
@[simp] theorem core_domSet (d : Nat) (x : Dom) (c : Fin 64) : State.core (domSet s d x) c = State.core s c := rfl
@[simp] theorem core_blkSet (b : Nat) (x : Blk) (c : Fin 64) : State.core (blkSet s b x) c = State.core s c := rfl
@[simp] theorem portGet_setRaw (a : Nat) (w : Word) (i : Nat) : portGet (setRaw s a w) i = portGet s i := rfl
@[simp] theorem portGet_domSet (d : Nat) (x : Dom) (i : Nat) : portGet (domSet s d x) i = portGet s i := rfl
@[simp] theorem portGet_blkSet (b : Nat) (x : Blk) (i : Nat) : portGet (blkSet s b x) i = portGet s i := rfl

/-! Readers of a state written out field by field. -/

variable {pending regs counts caps mem store errs storeErrs sramErrs lineErrs frames parts cores so soBlk slotBlk slots proofs transients retire rowsUsed lanesUsed patrol dump conns sess wire ports accs heldHi admits boot doms blks rises falls power input rowRuns } {freeCount tick : Nat}

theorem rawReg_mk (a : Nat) :
    rawReg (State.mk pending regs counts caps mem store errs storeErrs sramErrs lineErrs frames parts cores so soBlk slotBlk slots proofs transients retire rowsUsed lanesUsed patrol dump conns sess wire ports accs heldHi admits boot doms blks rises falls power input rowRuns freeCount tick) a = Sparse.get (resetWord a) regs a := rfl
theorem rawReg_fold (a : Nat) : Sparse.get (resetWord a) s.regs a = rawReg s a := rfl
theorem count_mk (a : Nat) :
    count (State.mk pending regs counts caps mem store errs storeErrs sramErrs lineErrs frames parts cores so soBlk slotBlk slots proofs transients retire rowsUsed lanesUsed patrol dump conns sess wire ports accs heldHi admits boot doms blks rises falls power input rowRuns freeCount tick) a = Sparse.get 0 counts a := rfl
theorem count_fold (a : Nat) : Sparse.get 0 s.counts a = count s a := rfl
theorem domGet_mk (i : Nat) :
    domGet (State.mk pending regs counts caps mem store errs storeErrs sramErrs lineErrs frames parts cores so soBlk slotBlk slots proofs transients retire rowsUsed lanesUsed patrol dump conns sess wire ports accs heldHi admits boot doms blks rises falls power input rowRuns freeCount tick) i = Sparse.get Dom.off doms i := rfl
theorem domGet_fold (i : Nat) : Sparse.get Dom.off s.doms i = domGet s i := rfl
theorem blkGet_mk (i : Nat) :
    blkGet (State.mk pending regs counts caps mem store errs storeErrs sramErrs lineErrs frames parts cores so soBlk slotBlk slots proofs transients retire rowsUsed lanesUsed patrol dump conns sess wire ports accs heldHi admits boot doms blks rises falls power input rowRuns freeCount tick) i = Sparse.get Blk.reset blks i := rfl
theorem blkGet_fold (i : Nat) : Sparse.get Blk.reset s.blks i = blkGet s i := rfl
theorem part_mk (p : Fin 16) :
    State.part (State.mk pending regs counts caps mem store errs storeErrs sramErrs lineErrs frames parts cores so soBlk slotBlk slots proofs transients retire rowsUsed lanesUsed patrol dump conns sess wire ports accs heldHi admits boot doms blks rises falls power input rowRuns freeCount tick) p = parts[p] := rfl
theorem part_fold (p : Fin 16) : s.parts[p] = State.part s p := rfl
theorem core_mk (c : Fin 64) :
    State.core (State.mk pending regs counts caps mem store errs storeErrs sramErrs lineErrs frames parts cores so soBlk slotBlk slots proofs transients retire rowsUsed lanesUsed patrol dump conns sess wire ports accs heldHi admits boot doms blks rises falls power input rowRuns freeCount tick) c = cores[c] := rfl
theorem core_fold (c : Fin 64) : s.cores[c] = State.core s c := rfl
theorem portGet_mk (i : Nat) :
    portGet (State.mk pending regs counts caps mem store errs storeErrs sramErrs lineErrs frames parts cores so soBlk slotBlk slots proofs transients retire rowsUsed lanesUsed patrol dump conns sess wire ports accs heldHi admits boot doms blks rises falls power input rowRuns freeCount tick) i = Sparse.get Port.off ports i := rfl
theorem portGet_fold (i : Nat) : Sparse.get Port.off s.ports i = portGet s i := rfl

/-! Reads after writes. -/

variable {s}

theorem domGet_domSet (h : s.Canonical) (d : Nat) (x : Dom) (i : Nat) :
    domGet (domSet s d x) i = if i = d then x else domGet s i := Sparse.get_set d x h.doms i

theorem blkGet_blkSet (h : s.Canonical) (b : Nat) (x : Blk) (i : Nat) :
    blkGet (blkSet s b x) i = if i = b then x else blkGet s i := Sparse.get_set b x h.blks i

theorem setRaw_canonical (h : s.Canonical) (a : Nat) (w : Word) : (setRaw s a w).Canonical :=
  ⟨Sparse.set_wfBy w h.regs (Nat.zero_le a), h.counts, h.caps, h.mem, h.store, h.errs, h.storeErrs, h.sramErrs, h.lineErrs, h.frames, h.so, h.soBlk,
    h.slotBlk, h.slots, h.transients, h.rowsUsed, h.lanesUsed, h.patrol, h.conns, h.sess, h.ports, h.heldHi, h.flash, h.doms,
    h.blks⟩

theorem domSet_canonical (h : s.Canonical) (d : Nat) (x : Dom) : (domSet s d x).Canonical :=
  ⟨h.regs, h.counts, h.caps, h.mem, h.store, h.errs, h.storeErrs, h.sramErrs, h.lineErrs, h.frames, h.so, h.soBlk,
    h.slotBlk, h.slots, h.transients, h.rowsUsed, h.lanesUsed, h.patrol, h.conns, h.sess, h.ports, h.heldHi, h.flash,
    Sparse.set_wf d x h.doms, h.blks⟩

theorem blkSet_canonical (h : s.Canonical) (b : Nat) (x : Blk) : (blkSet s b x).Canonical :=
  ⟨h.regs, h.counts, h.caps, h.mem, h.store, h.errs, h.storeErrs, h.sramErrs, h.lineErrs, h.frames, h.so, h.soBlk,
    h.slotBlk, h.slots, h.transients, h.rowsUsed, h.lanesUsed, h.patrol, h.conns, h.sess, h.ports, h.heldHi, h.flash, h.doms,
    Sparse.set_wf b x h.blks⟩

end Sys2Proof.Machine
end

