-- ==== Sys2Proof/Laws/Kept.lean ====
section
/-! SUPPORT. What every operation of the model keeps, as one relation between the state before and after: the queue, the
fuses' direction, the canonical form of every numbered collection, and the count of free values taken. -/

namespace Sys2Proof.Machine

theorem bitsKept.refl (a : Nat) : bitsKept a a := Nat.and_self a

theorem bitsKept.trans {a b c : Nat} (h : bitsKept a b) (h' : bitsKept b c) : bitsKept a c := by
  unfold bitsKept at *
  rw [← h, Nat.and_assoc, h', h]

theorem FusesKept.refl (a : Fuses) : FusesKept a a :=
  ⟨Nat.le_refl _, bitsKept.refl _, bitsKept.refl _, fun _ h => h, fun _ h => h, fun _ h => h, fun _ h => h⟩

theorem FusesKept.trans {a b c : Fuses} (h : FusesKept a b) (h' : FusesKept b c) : FusesKept a c :=
  ⟨Nat.le_trans h.svn h'.svn, h.rsa.trans h'.rsa, h.slh.trans h'.slh, fun x i => h'.cores x (h.cores x i),
    fun x i => h'.frames x (h.frames x i), fun x i => h'.lanes x (h.lanes x i), fun x i => h'.rows x (h.rows x i)⟩

/-- What every command keeps of the state it starts from. -/
structure Kept (a b : State) : Prop where
  pending : b.pending = a.pending
  fuses : FusesKept a.boot.fuses b.boot.fuses
  free : a.freeCount ≤ b.freeCount
  canonical : a.Canonical → b.Canonical

theorem Kept.refl (s : State) : Kept s s := ⟨rfl, FusesKept.refl _, Nat.le_refl _, id⟩

theorem Kept.trans {a b c : State} (h : Kept a b) (h' : Kept b c) : Kept a c :=
  ⟨h'.pending.trans h.pending, h.fuses.trans h'.fuses, Nat.le_trans h.free h'.free, h'.canonical ∘ h.canonical⟩

/-- A state made from another keeps what it must when its fuses, its count of free values and its collections do. -/
theorem Kept.put {s0 s t : State} (h : Kept s0 s) (hp : t.pending = s.pending) (hf : FusesKept s.boot.fuses t.boot.fuses)
    (hn : s.freeCount ≤ t.freeCount) (hc : s.Canonical → t.Canonical) : Kept s0 t :=
  h.trans ⟨hp, hf, hn, hc⟩

/-- The same where the queue, the fuses and the count of free values stand. -/
theorem Kept.upd {s0 s t : State} (h : Kept s0 s)
    (hs : t.pending = s.pending ∧ t.boot.fuses = s.boot.fuses ∧ t.freeCount = s.freeCount)
    (hc : s.Canonical → t.Canonical) : Kept s0 t :=
  h.put hs.1 (hs.2.1 ▸ FusesKept.refl _) (Nat.le_of_eq hs.2.2.symm) hc

/-- The same where free values were taken. -/
theorem Kept.draw {s0 s t : State} (k : Nat) (h : Kept s0 s)
    (hs : t.pending = s.pending ∧ t.boot.fuses = s.boot.fuses ∧ t.freeCount = s.freeCount + k)
    (hc : s.Canonical → t.Canonical) : Kept s0 t :=
  h.put hs.1 (hs.2.1 ▸ FusesKept.refl _) (hs.2.2 ▸ Nat.le_add_right _ _) hc

/-- Free values were taken. -/
theorem Kept.free' {s0 s : State} (k : Nat) (h : Kept s0 s) : Kept s0 { s with freeCount := s.freeCount + k } :=
  h.draw k ⟨rfl, rfl, rfl⟩ (fun c => { c with regs := c.regs })

/-- A record update that writes none of the numbered collections. -/
theorem Kept.plain {s0 s : State} {parts cores proofs retire dump wire accs admits rises falls power input rowRuns tick}
    (h : Kept s0 s) :
    Kept s0 (State.mk s.pending s.regs s.counts s.caps s.mem s.store s.errs s.storeErrs s.sramErrs s.lineErrs s.frames parts cores s.so s.soBlk
      s.slotBlk s.slots proofs s.transients retire s.rowsUsed s.lanesUsed s.patrol dump s.conns s.sess wire s.ports accs
      s.heldHi admits s.boot s.doms s.blks rises falls power input rowRuns s.freeCount tick) :=
  h.upd ⟨rfl, rfl, rfl⟩ (fun c => { c with regs := c.regs })

/-! One collection written, for an update that stands within another expression. -/

theorem Kept.counts {s0 s : State} {counts : Sparse Nat} (h : Kept s0 s) (hw : s.Canonical → Sparse.wf 0 counts = true) :
    Kept s0 { s with counts := counts } :=
  h.upd ⟨rfl, rfl, rfl⟩ (fun c => { c with counts := hw c })

theorem Kept.frames {s0 s : State} {frames : Sparse Nat} (h : Kept s0 s) (hw : s.Canonical → Sparse.wf 0 frames = true) :
    Kept s0 { s with frames := frames } :=
  h.upd ⟨rfl, rfl, rfl⟩ (fun c => { c with frames := hw c })

theorem Kept.rowsUsed {s0 s : State} {rowsUsed : Sparse Nat} (h : Kept s0 s) (hw : s.Canonical → Sparse.wf 0 rowsUsed = true) :
    Kept s0 { s with rowsUsed := rowsUsed } :=
  h.upd ⟨rfl, rfl, rfl⟩ (fun c => { c with rowsUsed := hw c })

theorem Kept.slots {s0 s : State} {slots : Sparse Slot} (h : Kept s0 s) (hw : s.Canonical → Sparse.wf Slot.reset slots = true) :
    Kept s0 { s with slots := slots } :=
  h.upd ⟨rfl, rfl, rfl⟩ (fun c => { c with slots := hw c })

theorem Kept.so {s0 s : State} {so : Sparse SyncObj} (h : Kept s0 s) (hw : s.Canonical → Sparse.wf SyncObj.zero so = true) :
    Kept s0 { s with so := so } :=
  h.upd ⟨rfl, rfl, rfl⟩ (fun c => { c with so := hw c })

theorem Kept.blks {s0 s : State} {blks : Sparse Blk} (h : Kept s0 s) (hw : s.Canonical → Sparse.wf Blk.reset blks = true) :
    Kept s0 { s with blks := blks } :=
  h.upd ⟨rfl, rfl, rfl⟩ (fun c => { c with blks := hw c })

/-! ### Taking an expression apart -/

theorem Kept.ite {s0 a b : State} {c : Prop} [Decidable c] (h1 : Kept s0 a) (h2 : Kept s0 b) :
    Kept s0 (if c then a else b) := by split <;> assumption

theorem Kept.iteFst {s0 : State} {α : Type} {a b : State × α} {c : Prop} [Decidable c] (h1 : Kept s0 a.1) (h2 : Kept s0 b.1) :
    Kept s0 (if c then a else b).1 := by split <;> assumption

theorem Kept.iteSnd {s0 : State} {α : Type} {a b : α × State} {c : Prop} [Decidable c] (h1 : Kept s0 a.2) (h2 : Kept s0 b.2) :
    Kept s0 (if c then a else b).2 := by split <;> assumption

theorem Kept.pairFst {s0 s : State} {α : Type} {x : α} (h : Kept s0 s) : Kept s0 (s, x).1 := h

theorem Kept.pairSnd {s0 s : State} {α : Type} {x : α} (h : Kept s0 s) : Kept s0 (x, s).2 := h

theorem Kept.of_fst {s0 s : State} {α : Type} {e : State × α} {x : α} (he : e = (s, x)) (h : Kept s0 e.1) : Kept s0 s := by
  rw [he] at h; exact h

theorem Kept.of_snd {s0 s : State} {α : Type} {e : α × State} {x : α} (he : e = (x, s)) (h : Kept s0 e.2) : Kept s0 s := by
  rw [he] at h; exact h

theorem Kept.foldl {s0 s : State} {β : Type} {f : State → β → State} {l : List β} (h : Kept s0 s)
    (hf : ∀ s b, Kept s0 s → Kept s0 (f s b)) : Kept s0 (l.foldl f s) := by
  induction l generalizing s with
  | nil => exact h
  | cons b l ih => exact ih (hf s b h)

theorem Kept.foldlFst {s0 : State} {α β : Type} {f : State × α → β → State × α} {l : List β} {x : State × α}
    (h : Kept s0 x.1) (hf : ∀ x b, Kept s0 x.1 → Kept s0 (f x b).1) : Kept s0 (l.foldl f x).1 := by
  induction l generalizing x with
  | nil => exact h
  | cons b l ih => exact ih (hf x b h)

theorem Kept.foldlSnd {s0 : State} {α β : Type} {f : α × State → β → α × State} {l : List β} {x : α × State}
    (h : Kept s0 x.2) (hf : ∀ x b, Kept s0 x.2 → Kept s0 (f x b).2) : Kept s0 (l.foldl f x).2 := by
  induction l generalizing x with
  | nil => exact h
  | cons b l ih => exact ih (hf x b h)

theorem Kept.ite21 {s0 : State} {α β : Type} {a b : α × State × β} {c : Prop} [Decidable c] (h1 : Kept s0 a.2.1)
    (h2 : Kept s0 b.2.1) : Kept s0 (if c then a else b).2.1 := by split <;> assumption

theorem Kept.ite22 {s0 : State} {α β : Type} {a b : α × β × State} {c : Prop} [Decidable c] (h1 : Kept s0 a.2.2)
    (h2 : Kept s0 b.2.2) : Kept s0 (if c then a else b).2.2 := by split <;> assumption

theorem Kept.pair21 {s0 s : State} {α β : Type} {x : α} {y : β} (h : Kept s0 s) : Kept s0 (x, s, y).2.1 := h

theorem Kept.pair22 {s0 s : State} {α β : Type} {x : α} {y : β} (h : Kept s0 s) : Kept s0 (x, y, s).2.2 := h

/-! ### Work with stops -/

/-- Work that keeps what it must, whether it ends or stops. -/
def OpKept {α : Type} (m : Op α) : Prop := ∀ s0 s, Kept s0 s → Kept s0 (Op.exec m s).2

theorem OpKept.pure {α : Type} (a : α) : OpKept (Pure.pure a : Op α) := fun _ _ h => h

theorem OpKept.throw {α : Type} (t : Trap) : OpKept (throw t : Op α) := fun _ _ h => h

theorem OpKept.bind {α β : Type} {m : Op α} {f : α → Op β} (hm : OpKept m) (hf : ∀ a, OpKept (f a)) :
    OpKept (m >>= f) := by
  intro s0 s h
  have h1 := hm s0 s h
  show Kept s0 (Op.exec (m >>= f) s).2
  have : Op.exec (m >>= f) s = match Op.exec m s with
      | (.ok a, s) => Op.exec (f a) s
      | (.error e, s) => (.error e, s) := by
    simp only [Op.exec, ExceptT.run, Bind.bind, ExceptT.bind, ExceptT.mk, StateT.bind]
    show ExceptT.bindCont f _ _ = _
    cases hx : (m s) with
    | mk r s' => cases r <;> rfl
  rw [this]
  split
  · rename_i a s' he
    rw [he] at h1
    exact hf a s0 s' h1
  · rename_i e s' he
    rw [he] at h1
    exact h1

theorem OpKept.ite {α : Type} {a b : Op α} {c : Prop} [Decidable c] (h1 : OpKept a) (h2 : OpKept b) :
    OpKept (if c then a else b) := by split <;> assumption

theorem OpKept.get : OpKept Op.get := fun _ _ h => h

theorem OpKept.mod {f : State → State} (hf : ∀ s0 s, Kept s0 s → Kept s0 (f s)) : OpKept (Op.mod f) :=
  fun s0 s h => hf s0 s h

theorem OpKept.stop {α : Type} (st : Stop) : OpKept (Op.stop st : Op α) := fun _ _ h => h

theorem OpKept.tryCatch {α : Type} {m : Op α} {f : Trap → Op α} (hm : OpKept m) (hf : ∀ t, OpKept (f t)) :
    OpKept (MonadExcept.tryCatch m f) := by
  intro s0 s h
  have h1 := hm s0 s h
  have : Op.exec (MonadExcept.tryCatch m f) s = match Op.exec m s with
      | (.ok a, s) => (.ok a, s)
      | (.error e, s) => Op.exec (f e) s := by
    show (ExceptT.tryCatch m f) s = match m s with
      | (.ok a, s) => (.ok a, s)
      | (.error e, s) => f e s
    simp only [ExceptT.tryCatch, ExceptT.mk, Bind.bind, StateT.bind]
    cases hx : (m s) with
    | mk r s' => cases r <;> rfl
  rw [this]
  split
  · rename_i a s' he
    rw [he] at h1
    exact h1
  · rename_i e s' he
    rw [he] at h1
    exact hf e s0 s' h1

theorem OpKept.nan {α : Type} (e : Except TrapKind α) : OpKept (Op.nan e) := by
  cases e <;> exact fun _ _ h => h

theorem OpKept.nanAt {α : Type} (base : Nat) (e : Except Nans α) : OpKept (Op.nanAt base e) := by
  cases e <;> exact fun _ _ h => h

theorem OpKept.at {α : Type} {unit core : Nat} {tile : List Nat} {m : Op α} (hm : OpKept m) :
    OpKept (Op.at unit core tile m) := OpKept.tryCatch hm (fun _ => OpKept.throw _)

theorem OpKept.atElem {α : Type} {unit core : Nat} {tile : Nat → List Nat} {m : Op α} (hm : OpKept m) :
    OpKept (Op.atElem unit core tile m) := OpKept.tryCatch hm (fun _ => OpKept.throw _)

theorem OpKept.each {α : Type} {l : List α} {f : α → Op Unit} (hf : ∀ a, OpKept (f a)) : OpKept (Op.each l f) := by
  induction l with
  | nil => exact OpKept.pure _
  | cons a l ih => exact OpKept.bind (hf a) (fun _ => ih)

theorem OpKept.map {α β : Type} {l : List α} {f : α → Op β} (hf : ∀ a, OpKept (f a)) : OpKept (Op.map l f) := by
  induction l with
  | nil => exact OpKept.pure _
  | cons a l ih => exact OpKept.bind (hf a) (fun _ => OpKept.bind ih (fun _ => OpKept.pure _))

theorem OpKept.fold {α β : Type} {l : List α} {f : β → α → Op β} {b : β} (hf : ∀ b a, OpKept (f b a)) :
    OpKept (Op.fold f b l) := by
  induction l generalizing b with
  | nil => exact OpKept.pure _
  | cons a l ih => exact OpKept.bind (hf b a) (fun _ => ih)

theorem Kept.of_exec {s0 s s' : State} {α : Type} {m : Op α} {r : Except Trap α} (he : Op.exec m s = (r, s'))
    (hm : OpKept m) (h : Kept s0 s) : Kept s0 s' := Kept.of_snd he (hm s0 s h)

theorem Op.exec_kept {s0 s : State} {α : Type} {m : Op α} (hm : OpKept m) (h : Kept s0 s) : Kept s0 (Op.exec m s).2 :=
  hm s0 s h

theorem Op.after_kept {s0 s : State} {α : Type} {m : Op α} (hm : OpKept m) (h : Kept s0 s) : Kept s0 (Op.after m s) := hm s0 s h

/-! ### A command's answer -/

/-- The command answers a next state that keeps what it must. -/
def OutKept (s0 : State) (o : Host.Outcome State Fault Refusal) : Prop := ∃ t, o = .next t ∧ Kept s0 t

theorem OutKept.next {s0 t : State} (h : Kept s0 t) : OutKept s0 (.next t) := ⟨t, rfl, h⟩

theorem OutKept.ite {s0 : State} {a b : Host.Outcome State Fault Refusal} {c : Prop} [Decidable c] (h1 : OutKept s0 a)
    (h2 : OutKept s0 b) : OutKept s0 (if c then a else b) := by split <;> assumption

end Sys2Proof.Machine
end

