-- ==== Sys2Proof/Laws/KeptState.lean ====
section
/-! SUPPORT. What the operations of Machine/State.lean keep (Laws/Kept.lean): one lemma each, cited by the lemmas of what calls
them. -/

namespace Sys2Proof.Machine

set_option maxRecDepth 4000

theorem State.setPart_kept {s0 : State} {s : State} (hs : Kept s0 s) (p : Fin 16) (x : Part) :
    Kept s0 (State.setPart s p x) := by
  unfold State.setPart
  exact Kept.plain (hs)

theorem State.modPart_kept {s0 : State} {s : State} (hs : Kept s0 s) (p : Fin 16) (f : Part → Part) :
    Kept s0 (State.modPart s p f) := by
  unfold State.modPart
  exact State.setPart_kept (hs) _ _

theorem State.setCore_kept {s0 : State} {s : State} (hs : Kept s0 s) (c : Fin 64) (x : Core) :
    Kept s0 (State.setCore s c x) := by
  unfold State.setCore
  exact Kept.plain (hs)

theorem State.modCore_kept {s0 : State} {s : State} (hs : Kept s0 s) (c : Fin 64) (f : Core → Core) :
    Kept s0 (State.modCore s c f) := by
  unfold State.modCore
  exact State.setCore_kept (hs) _ _

theorem State.setStream_kept {s0 : State} {s : State} (hs : Kept s0 s) (p : Fin 16) (t : StreamTag) (q : Stream) :
    Kept s0 (State.setStream s p t q) := by
  unfold State.setStream
  exact State.modPart_kept (hs) _ _

theorem State.modStream_kept {s0 : State} {s : State} (hs : Kept s0 s) (p : Fin 16) (t : StreamTag) (f : Stream → Stream) :
    Kept s0 (State.modStream s p t f) := by
  unfold State.modStream
  exact State.setStream_kept (hs) _ _ _

end Sys2Proof.Machine
end

