-- ==== Sys2Proof/Laws/KeptRegs.lean ====
section
/-! SUPPORT. What the operations of Machine/Regs.lean keep (Laws/Kept.lean): one lemma each, cited by the lemmas of what calls
them. -/

namespace Sys2Proof.Machine

set_option maxRecDepth 4000

theorem setRaw_kept {s0 : State} {s : State} (hs : Kept s0 s) (a : ℕ) (w : Word) :
    Kept s0 (setRaw s a w) := by
  unfold setRaw
  exact Kept.upd (hs) ⟨rfl, rfl, rfl⟩ (fun c => { c with regs := Sparse.set_wf' _ _ c.regs })

theorem postBit_kept {s0 : State} {s : State} (hs : Kept s0 s) (a : ℕ) (i : ℕ) :
    Kept s0 (postBit s a i) := by
  unfold postBit
  exact setRaw_kept (hs) _ _

theorem bump_kept {s0 : State} {s : State} (hs : Kept s0 s) (lo : ℕ) (ovf : Option (ℕ × ℕ)) (n : ℕ) :
    Kept s0 (bump s lo ovf n) := by
  refine Kept.upd hs ⟨rfl, rfl, rfl⟩ (fun c => { c with regs := ?_, counts := Sparse.set_wf _ _ c.counts })
  unfold bump
  dsimp only
  split
  · split
    · exact Sparse.set_wf' _ _ c.regs
    · exact c.regs
  · exact c.regs

theorem resetRange_kept {s0 : State} {s : State} (hs : Kept s0 s) (lo : ℕ) (n : ℕ) :
    Kept s0 (resetRange s lo n) := by
  unfold resetRange
  exact Kept.upd (hs) ⟨rfl, rfl, rfl⟩ (fun c => { c with regs := Sparse.clearRange_wfBy _ _ c.regs, counts := Sparse.clearRange_wf _ _ c.counts })

theorem bumpCore_kept {s0 : State} {s : State} (hs : Kept s0 s) (code : ℕ) (nn : ℕ) (lo : ℕ) (ovf : ℕ) (i : ℕ) (n : ℕ) :
    Kept s0 (bumpCore s code nn lo ovf i n) := by
  unfold bumpCore
  exact bump_kept (hs) _ _ _

end Sys2Proof.Machine
end

