-- ==== Sys2Proof/Laws/KeptDomains.lean ====
section
/-! SUPPORT. What the operations of Machine/Domains.lean keep (Laws/Kept.lean): one lemma each, cited by the lemmas of what calls
them. -/

namespace Sys2Proof.Machine

set_option maxRecDepth 4000

theorem domSet_kept {s0 : State} {s : State} (hs : Kept s0 s) (d : ℕ) (x : Dom) :
    Kept s0 (domSet s d x) := by
  unfold domSet
  exact Kept.upd (hs) ⟨rfl, rfl, rfl⟩ (fun c => { c with doms := Sparse.set_wf _ _ c.doms })

theorem domMod_kept {s0 : State} {s : State} (hs : Kept s0 s) (d : ℕ) (f : Dom → Dom) :
    Kept s0 (domMod s d f) := by
  unfold domMod
  exact domSet_kept (hs) _ _

theorem blkSet_kept {s0 : State} {s : State} (hs : Kept s0 s) (b : ℕ) (x : Blk) :
    Kept s0 (blkSet s b x) := by
  unfold blkSet
  exact Kept.upd (hs) ⟨rfl, rfl, rfl⟩ (fun c => { c with blks := Sparse.set_wf _ _ c.blks })

theorem blkMod_kept {s0 : State} {s : State} (hs : Kept s0 s) (b : ℕ) (f : Blk → Blk) :
    Kept s0 (blkMod s b f) := by
  unfold blkMod
  exact blkSet_kept (hs) _ _

theorem demandOne_kept {s0 : State} {s : State} (hs : Kept s0 s) (d : ℕ) :
    Kept s0 (demandOne s d).1 := by
  unfold demandOne
  extract_lets -merge -useContext -underBinder +onlyGivenNames x1
  refine Kept.iteFst ?_ ?_
  · refine Kept.pairFst ?_
    exact hs
  · refine Kept.iteFst ?_ ?_
    · refine Kept.pairFst ?_
      exact domSet_kept (hs) _ _
    · split
      · extract_lets -merge -useContext -underBinder +onlyGivenNames s2
        have h3 : Kept s0 s2 := by
          exact bump_kept (hs) _ _ _
        clear_value s2
        extract_lets -merge -useContext -underBinder +onlyGivenNames ready4
        refine Kept.pairFst ?_
        exact domSet_kept (h3) _ _
      · refine Kept.pairFst ?_
        exact domSet_kept (hs) _ _
      · refine Kept.pairFst ?_
        exact hs

theorem demandAll_kept {s0 : State} {s : State} (hs : Kept s0 s) (ds : List ℕ) :
    Kept s0 (demandAll s ds) := by
  unfold demandAll
  extract_lets -merge -useContext -underBinder +onlyGivenNames r1
  have h2 : Kept s0 r1.1 := by
    refine Kept.foldlFst ?_ (fun a6 b7 h3 => ?_)
    · refine Kept.pairFst ?_
      exact hs
    · extract_lets -merge -useContext -underBinder +onlyGivenNames x4
      have h5 : Kept s0 x4.1 := by
        exact demandOne_kept (h3) _
      clear_value x4
      refine Kept.pairFst ?_
      exact h5
  clear_value r1
  refine Kept.ite ?_ ?_
  · exact h2
  · extract_lets -merge -useContext -underBinder +onlyGivenNames y8
    have h9 : Kept s0 y8 := by
      exact h2
    clear_value y8
    exact Kept.plain (h9)

theorem demandWake_kept {s0 : State} {s : State} (hs : Kept s0 s) (d : ℕ) :
    Kept s0 (demandWake s d) := by
  unfold demandWake
  exact demandAll_kept (hs) _

end Sys2Proof.Machine
end

