-- ==== Sys2Proof/Laws/KeptLinks.lean ====
section
/-! SUPPORT. What the operations of Machine/Links.lean keep (Laws/Kept.lean): one lemma each, cited by the lemmas of what calls
them. -/

namespace Sys2Proof.Machine

set_option maxRecDepth 4000

theorem linkSet_kept {s0 : State} {s : State} (hs : Kept s0 s) (e : Endpoint) (l : Link) :
    Kept s0 (linkSet s e l) := by
  unfold linkSet
  split
  · exact Kept.upd (hs) ⟨rfl, rfl, rfl⟩ (fun c => { c with conns := Sparse.set_wf _ _ c.conns })
  · exact Kept.upd (hs) ⟨rfl, rfl, rfl⟩ (fun c => { c with sess := Sparse.set_wf _ _ c.sess })

theorem linkMod_kept {s0 : State} {s : State} (hs : Kept s0 s) (e : Endpoint) (f : Link → Link) :
    Kept s0 (linkMod s e f) := by
  unfold linkMod
  exact linkSet_kept (hs) _ _

theorem bumpPort_kept {s0 : State} {s : State} (hs : Kept s0 s) (i : ℕ) (j : ℕ) (n : ℕ) :
    Kept s0 (bumpPort s i j n) := by
  unfold bumpPort
  exact bump_kept (hs) _ _ _

theorem portSet_kept {s0 : State} {s : State} (hs : Kept s0 s) (i : ℕ) (x : Port) :
    Kept s0 (portSet s i x) := by
  unfold portSet
  exact Kept.upd (hs) ⟨rfl, rfl, rfl⟩ (fun c => { c with ports := Sparse.set_wf _ _ c.ports })

theorem portMod_kept {s0 : State} {s : State} (hs : Kept s0 s) (i : ℕ) (f : Port → Port) :
    Kept s0 (portMod s i f) := by
  unfold portMod
  exact portSet_kept (hs) _ _

theorem handOver_kept {s0 : State} {s : State} (hs : Kept s0 s) (code : ℕ) (again : ℕ) (ws : List WireFrame) :
    Kept s0 (handOver s code again ws) := by
  unfold handOver
  extract_lets -merge -useContext -underBinder +onlyGivenNames s1
  have h2 : Kept s0 s1 := by
    exact Kept.plain (hs)
  clear_value s1
  split
  · extract_lets -merge -useContext -underBinder +onlyGivenNames bytes3
    exact bumpPort_kept (bumpPort_kept (bumpPort_kept (h2) _ _ _) _ _ _) _ _ _
  · exact h2

theorem pump_kept {s0 : State} {s : State} (hs : Kept s0 s) (e : Endpoint) :
    Kept s0 (pump s e) := by
  unfold pump
  extract_lets -merge -useContext -underBinder +onlyGivenNames l1
  refine Kept.ite ?_ ?_
  · extract_lets -merge -useContext -underBinder +onlyGivenNames r2
    exact handOver_kept (linkSet_kept (hs) _ _) _ _ _
  · exact hs

theorem sendFrame_kept {s0 : State} {s : State} (hs : Kept s0 s) (e : Endpoint) (op : ℕ) (flags : ℕ) (ext : Option (List Byte)) (payload : List (List Byte)) :
    Kept s0 (sendFrame s e op flags ext payload) := by
  unfold sendFrame
  extract_lets -merge -useContext -underBinder +onlyGivenNames l1
  refine Kept.ite ?_ ?_
  · extract_lets -merge -useContext -underBinder +onlyGivenNames f2
    exact pump_kept (linkSet_kept (hs) _ _) _
  · exact hs

theorem sendAck_kept {s0 : State} {s : State} (hs : Kept s0 s) (e : Endpoint) :
    Kept s0 (sendAck s e) := by
  unfold sendAck
  extract_lets -merge -useContext -underBinder +onlyGivenNames l1
  refine Kept.ite ?_ ?_
  · extract_lets -merge -useContext -underBinder +onlyGivenNames f2
    exact handOver_kept (linkSet_kept (hs) _ _) _ _ _
  · exact hs

theorem resend_kept {s0 : State} {s : State} (hs : Kept s0 s) (e : Endpoint) (ps : List ℕ) :
    Kept s0 (resend s e ps) := by
  unfold resend
  extract_lets -merge -useContext -underBinder +onlyGivenNames l1
  extract_lets -merge -useContext -underBinder +onlyGivenNames again2
  refine Kept.ite ?_ ?_
  · exact hs
  · extract_lets -merge -useContext -underBinder +onlyGivenNames fs3
    exact handOver_kept (linkSet_kept (hs) _ _) _ _ _

theorem sendStatus_kept {s0 : State} {s : State} (hs : Kept s0 s) (e : Endpoint) (psn : ℕ) (status : ℕ) :
    Kept s0 (sendStatus s e psn status) := by
  unfold sendStatus
  exact sendFrame_kept (hs) _ _ _ _ _

theorem sendReject_kept {s0 : State} {s : State} (hs : Kept s0 s) (e : Endpoint) (psn : ℕ) (status : ℕ) (obj : ℕ) :
    Kept s0 (sendReject s e psn status obj) := by
  unfold sendReject
  exact sendFrame_kept (hs) _ _ _ _ _

theorem answer_kept {s0 : State} {s : State} (hs : Kept s0 s) (r : ReplyTo) (status : ℕ) :
    Kept s0 (answer s r status) := by
  unfold answer
  refine Kept.ite ?_ ?_
  · exact sendStatus_kept (hs) _ _ _
  · exact hs

theorem answerStops_kept {s0 : State} {s : State} (hs : Kept s0 s) (p : Fin 16) (status : ℕ) :
    Kept s0 (answerStops s p status) := by
  unfold answerStops
  refine Kept.foldl ?_ (fun a2 b3 h1 => ?_)
  · exact State.modPart_kept (hs) _ _
  · exact answer_kept (h1) _ _

theorem answerStop_kept {s0 : State} {s : State} (hs : Kept s0 s) (p : Fin 16) :
    Kept s0 (answerStop s p) := by
  unfold answerStop
  exact answerStops_kept (hs) _ _

end Sys2Proof.Machine
end

