-- ==== Sys2Proof/Laws/KeptOps.lean ====
section
/-! SUPPORT. What the operations of Machine/Ops.lean keep (Laws/Kept.lean): one lemma each, cited by the lemmas of what calls
them. -/

namespace Sys2Proof.Machine

set_option maxRecDepth 4000

theorem requestProof_kept {s0 : State} {s : State} (hs : Kept s0 s) (kind : ℕ) (index : ℕ) :
    Kept s0 (requestProof s kind index) := by
  unfold requestProof
  refine Kept.ite ?_ ?_
  · exact hs
  · refine Kept.ite ?_ ?_
    · exact Kept.plain (hs)
    · exact Kept.plain (hs)

theorem noteCorrected_kept {s0 : State} {s : State} (hs : Kept s0 s) (id : ℕ) (ofs : ℕ) :
    Kept s0 (noteCorrected s id ofs) := by
  unfold noteCorrected
  refine Kept.ite ?_ ?_
  · exact requestProof_kept (hs) _ _
  · extract_lets -merge -useContext -underBinder +onlyGivenNames a1
    extract_lets -merge -useContext -underBinder +onlyGivenNames c2
    extract_lets -merge -useContext -underBinder +onlyGivenNames s3
    have h4 : Kept s0 s3 := by
      exact bump_kept (hs) _ _ _
    clear_value s3
    exact requestProof_kept (postBit_kept (h4) _ _) _ _

theorem noteUncorrectable_kept {s0 : State} {s : State} (hs : Kept s0 s) (id : ℕ) (ofs : ℕ) :
    Kept s0 (noteUncorrectable s id ofs) := by
  unfold noteUncorrectable
  refine Kept.ite ?_ ?_
  · extract_lets -merge -useContext -underBinder +onlyGivenNames x1
    extract_lets -merge -useContext -underBinder +onlyGivenNames s2
    have h3 : Kept s0 s2 := by
      exact bump_kept (hs) _ _ _
    clear_value s2
    exact requestProof_kept (postBit_kept (h3) _ _) _ _
  · extract_lets -merge -useContext -underBinder +onlyGivenNames a4
    extract_lets -merge -useContext -underBinder +onlyGivenNames c5
    extract_lets -merge -useContext -underBinder +onlyGivenNames s6
    have h7 : Kept s0 s6 := by
      exact bump_kept (hs) _ _ _
    clear_value s6
    exact requestProof_kept (postBit_kept (h7) _ _) _ _

theorem proveLines_kept {s0 : State} {s : State} (hs : Kept s0 s) (ks : List ℕ) :
    Kept s0 (proveLines s ks) := by
  unfold proveLines
  exact Kept.foldl hs (fun a1 b2 h3 => (requestProof_kept h3 _ _))

theorem crossLinks_kept (keys : List ℕ) (place : ℕ) (dev : ℕ) (data : List Byte) :
    OpKept (crossLinks keys place dev data) := by
  unfold crossLinks
  refine OpKept.bind ?_ (fun x1 => ?_)
  · exact OpKept.get
  · extract_lets -merge -useContext -underBinder +onlyGivenNames bad2
    refine OpKept.ite ?_ ?_
    · exact OpKept.pure _
    · refine OpKept.bind ?_ (fun x3 => ?_)
      · refine OpKept.mod (fun s0 s h4 => ?_)
        refine Kept.upd (h4) ⟨rfl, rfl, rfl⟩ (fun c => { c with lineErrs := Sparse.foldl_wf _ (fun _ _ hm0 => (Sparse.set_wf _ _ hm0)) _ c.lineErrs })
      · split
        · exact OpKept.pure _
        · exact OpKept.bind (OpKept.mod (fun s0 s h6 => (proveLines_kept h6 _))) (fun x5 => (OpKept.pure _))
        · exact OpKept.bind (OpKept.mod (fun s0 s h8 => (proveLines_kept h8 _))) (fun x7 => (OpKept.stop _))

theorem crossIn_kept (side : Side) (die : ℕ) (dev : ℕ) (data : List Byte) :
    OpKept (crossIn side die dev data) := by
  unfold crossIn
  split
  · exact OpKept.bind (crossLinks_kept _ _ _ _) (fun x1 => (crossLinks_kept _ _ _ _))
  · exact crossLinks_kept _ _ _ _
  · exact OpKept.ite (OpKept.pure _) (OpKept.bind (crossLinks_kept _ _ _ _) (fun x2 => (crossLinks_kept _ _ _ _)))

theorem crossOut_kept (side : Side) (die : ℕ) (dev : ℕ) (data : List Byte) :
    OpKept (crossOut side die dev data) := by
  unfold crossOut
  split
  · exact OpKept.bind (crossLinks_kept _ _ _ _) (fun x1 => (crossLinks_kept _ _ _ _))
  · exact crossLinks_kept _ _ _ _
  · exact OpKept.ite (OpKept.pure _) (OpKept.bind (crossLinks_kept _ _ _ _) (fun x2 => (crossLinks_kept _ _ _ _)))

theorem crossed_kept (s : State) (cross : List Byte → Op (List Byte)) (hc : ∀ d, OpKept (cross d)) (data : List Byte) :
    OpKept (crossed s cross data) := by
  unfold crossed
  exact OpKept.ite (OpKept.pure _) (hc _)

theorem notePort_kept {s0 : State} {s : State} (hs : Kept s0 s) (id : ℕ) (ofs : ℕ) (poison : Bool) :
    Kept s0 (notePort s id ofs poison) := by
  unfold notePort
  extract_lets -merge -useContext -underBinder +onlyGivenNames x1
  refine Kept.ite ?_ ?_
  · extract_lets -merge -useContext -underBinder +onlyGivenNames s2
    have h3 : Kept s0 (s2) := by
      unfold s2
      exact bump_kept hs _ _ _
    clear_value s2
    exact requestProof_kept (postBit_kept h3 _ _) _ _
  · exact noteUncorrectable_kept hs _ _

theorem burstMask_kept (id : ℕ) (ofs : ℕ) :
    OpKept (burstMask id ofs) := by
  unfold burstMask
  refine OpKept.bind ?_ (fun x1 => ?_)
  · exact OpKept.get
  · extract_lets -merge -useContext -underBinder +onlyGivenNames c2
    extract_lets -merge -useContext -underBinder +onlyGivenNames v3
    refine OpKept.ite ?_ ?_
    · exact OpKept.pure _
    · extract_lets -merge -useContext -underBinder +onlyGivenNames tries4
      refine OpKept.bind ?_ (fun x5 => ?_)
      · refine OpKept.mod (fun s0 s h6 => ?_)
        refine bump_kept ?_ _ _ _
        refine Kept.upd (h6) ⟨rfl, rfl, rfl⟩ (fun c => { c with lineErrs := Sparse.set_wf _ _ c.lineErrs })
      · exact OpKept.ite (OpKept.pure _) (OpKept.bind (OpKept.mod (fun s0 s h8 => (requestProof_kept h8 _ _))) (fun x7 => (OpKept.pure _)))

theorem readGranule_kept (id : ℕ) (ofs : ℕ) (dev : ℕ) :
    OpKept (readGranule id ofs dev) := by
  unfold readGranule
  refine OpKept.bind ?_ (fun x1 => ?_)
  · exact OpKept.get
  · extract_lets -merge -useContext -underBinder +onlyGivenNames key2
    extract_lets -merge -useContext -underBinder +onlyGivenNames mask3
    refine OpKept.ite ?_ ?_
    · exact OpKept.bind (OpKept.mod (fun s0 s h5 => (notePort_kept h5 _ _ _))) (fun x4 => (OpKept.stop _))
    · refine OpKept.ite ?_ ?_
      · exact OpKept.stop _
      · refine OpKept.bind ?_ (fun x6 => ?_)
        · exact burstMask_kept _ _
        · split
          · exact OpKept.pure _
          · exact OpKept.bind (OpKept.mod (fun s0 s h8 => (noteCorrected_kept h8 _ _))) (fun x7 => (OpKept.pure _))
          · exact OpKept.bind (OpKept.mod (fun s0 s h10 => (noteUncorrectable_kept h10 _ _))) (fun x9 => (OpKept.stop _))

theorem countAccess_kept {s0 : State} {s : State} (hs : Kept s0 s) (id : ℕ) (ofs : ℕ) (write : Bool) (whole : Bool) (n : ℕ) :
    Kept s0 (countAccess s id ofs write whole n) := by
  unfold countAccess
  refine Kept.ite ?_ ?_
  · extract_lets -merge -useContext -underBinder +onlyGivenNames x1
    extract_lets -merge -useContext -underBinder +onlyGivenNames s2
    have h3 : Kept s0 s2 := by
      refine Kept.ite ?_ ?_
      · exact hs
      · exact demandWake_kept (hs) _
    clear_value s2
    refine Kept.ite ?_ ?_
    · exact bump_kept (h3) _ _ _
    · exact bump_kept (h3) _ _ _
  · extract_lets -merge -useContext -underBinder +onlyGivenNames g4
    extract_lets -merge -useContext -underBinder +onlyGivenNames s5
    have h6 : Kept s0 s5 := by
      refine Kept.ite ?_ ?_
      · exact hs
      · exact demandWake_kept (hs) _
    clear_value s5
    extract_lets -merge -useContext -underBinder +onlyGivenNames ovf7
    refine Kept.ite ?_ ?_
    · refine Kept.ite ?_ ?_
      · exact bump_kept (h6) _ _ _
      · exact bump_kept (h6) _ _ _
    · exact bump_kept (h6) _ _ _

theorem countPage_kept {s0 : State} {s : State} (hs : Kept s0 s) (p : Fin 16) (a : ℕ) :
    Kept s0 (countPage s p a) := by
  unfold countPage
  refine Kept.ite ?_ ?_
  · extract_lets -merge -useContext -underBinder +onlyGivenNames add1
    exact State.modPart_kept (hs) _ _
  · exact hs

theorem readStripe_kept (side : Side) (p : Fin 16) (a : ℕ) (n : ℕ) :
    OpKept (readStripe side p a n) := by
  unfold readStripe
  refine OpKept.bind ?_ (fun x1 => ?_)
  · exact OpKept.get
  · split
    · exact OpKept.stop _
    · exact OpKept.pure _
    · refine OpKept.bind ?_ (fun x2 => ?_)
      · exact OpKept.mod (fun s0 s h3 => (countPage_kept (countAccess_kept h3 _ _ _ _ _) _ _))
      · refine OpKept.bind ?_ (fun x4 => ?_)
        · refine OpKept.map (fun x5 => ?_)
          extract_lets -merge -useContext -underBinder +onlyGivenNames dev6
          refine OpKept.bind ?_ (fun x7 => ?_)
          · exact readGranule_kept _ _ _
          · refine OpKept.bind ?_ (fun x8 => ?_)
            · refine crossed_kept _ _ ?_ _
              intro x9
              exact crossIn_kept _ _ _ _
            · exact OpKept.pure _
        · exact OpKept.pure _

theorem readMem_kept (side : Side) (p : Fin 16) (a : ℕ) (n : ℕ) :
    OpKept (readMem side p a n) := by
  unfold readMem
  exact OpKept.bind (OpKept.map (fun x2 => (readStripe_kept _ _ _ _))) (fun x1 => (OpKept.pure _))

theorem zeroMem_kept {s0 : State} {s : State} (hs : Kept s0 s) (lo : ℕ) (n : ℕ) :
    Kept s0 (zeroMem s lo n) := by
  unfold zeroMem
  exact Kept.upd (hs) ⟨rfl, rfl, rfl⟩ (fun c => { c with mem := Sparse.clearRange_wf _ _ c.mem, errs := Sparse.clearRange_wf _ _ c.errs })

theorem zeroFrame_kept {s0 : State} {s : State} (hs : Kept s0 s) (id : ℕ) :
    Kept s0 (zeroFrame s id) := by
  unfold zeroFrame
  exact zeroMem_kept (hs) _ _

theorem openPage_kept (p : Fin 16) (a : ℕ) :
    OpKept (openPage p a) := by
  unfold openPage
  refine OpKept.bind ?_ (fun x1 => ?_)
  · exact OpKept.mod (fun s0 s h2 => (State.modPart_kept h2 _ _))
  · refine OpKept.bind ?_ (fun x3 => ?_)
    · exact OpKept.get
    · extract_lets -merge -useContext -underBinder +onlyGivenNames m4
      split
      · exact OpKept.mod (fun s0 s h5 => (State.modPart_kept h5 _ _))
      · split
        · exact OpKept.mod (fun s0 s h6 => (State.modPart_kept (zeroFrame_kept (postBit_kept h6 _ _) _) _ _))
        · exact OpKept.stop _

theorem putBytes_kept {s0 : State} {s : State} (hs : Kept s0 s) (key : ℕ) (bytes : List Byte) (clear : List ℕ) :
    Kept s0 (putBytes s key bytes clear) := by
  unfold putBytes
  exact Kept.upd (hs) ⟨rfl, rfl, rfl⟩ (fun c => { c with mem := Sparse.setRun_wf _ _ c.mem, errs := Sparse.foldl_wf _ (fun _ _ hm => (Sparse.set_wf _ _ hm)) _ c.errs })

theorem writeStripe_kept (side : Side) (p : Fin 16) (a : ℕ) (bytes : List Byte) :
    OpKept (writeStripe side p a bytes) := by
  unfold writeStripe
  refine OpKept.bind ?_ (fun x1 => ?_)
  · exact OpKept.get
  · extract_lets -merge -useContext -underBinder +onlyGivenNames __do_jp_Sys2ProofMachineOps2625777389_hygCtx_hyg352
    have h3 : ∀ a1, OpKept (__do_jp_Sys2ProofMachineOps2625777389_hygCtx_hyg352 a1) := by
      intro v4
      unfold __do_jp_Sys2ProofMachineOps2625777389_hygCtx_hyg352
      refine OpKept.bind ?_ (fun x5 => ?_)
      · exact OpKept.get
      · split
        · extract_lets -merge -useContext -underBinder +onlyGivenNames gs6
          refine OpKept.bind ?_ (fun x7 => ?_)
          · refine OpKept.map (fun x8 => ?_)
            extract_lets -merge -useContext -underBinder +onlyGivenNames dev9
            refine OpKept.bind ?_ (fun x10 => ?_)
            · refine crossed_kept _ _ ?_ _
              intro x11
              exact crossOut_kept _ _ _ _
            · extract_lets -merge -useContext -underBinder +onlyGivenNames new12
              exact OpKept.ite (OpKept.ite (OpKept.bind (OpKept.mod (fun s0 s h14 => (noteUncorrectable_kept h14 _ _))) (fun x13 => (OpKept.stop _))) (OpKept.ite (OpKept.stop _) (OpKept.pure _))) (OpKept.bind (readGranule_kept _ _ _) (fun x15 => (OpKept.pure _)))
          · extract_lets -merge -useContext -underBinder +onlyGivenNames key16
            exact OpKept.mod (fun s0 s h17 => (countPage_kept (countAccess_kept (putBytes_kept h17 _ _ _) _ _ _ _ _) _ _))
        · exact OpKept.pure _
    clear_value __do_jp_Sys2ProofMachineOps2625777389_hygCtx_hyg352
    split
    · exact OpKept.bind (OpKept.stop _) (fun x18 => (h3 _))
    · exact OpKept.bind (openPage_kept _ _) (fun x19 => (h3 _))
    · exact h3 _

theorem writeMem_kept (side : Side) (p : Fin 16) (a : ℕ) (bytes : List Byte) :
    OpKept (writeMem side p a bytes) := by
  unfold writeMem
  exact OpKept.each (fun x1 => (writeStripe_kept _ _ _ _))

theorem clearArray_kept {s0 : State} {s : State} (hs : Kept s0 s) (array : ℕ) (owner : ℕ) (lo : ℕ) (n : ℕ) :
    Kept s0 (clearArray s array owner lo n) := by
  unfold clearArray
  refine Kept.upd (hs) ⟨rfl, rfl, rfl⟩ (fun c => { c with sramErrs := Sparse.clearRange_wf _ _ c.sramErrs })

end Sys2Proof.Machine
end

