-- ==== Sys2Proof/Laws/KeptFlags.lean ====
section
/-! SUPPORT. What the operations of Machine/Flags.lean keep (Laws/Kept.lean): one lemma each, cited by the lemmas of what calls
them. -/

namespace Sys2Proof.Machine

set_option maxRecDepth 4000

theorem drainOne_kept {s0 : State} {s : State} (hs : Kept s0 s) (p : Fin 16) (r : TraceRec) :
    Kept s0 (drainOne p s r) := by
  unfold drainOne
  exact Op.after_kept (writeMem_kept _ _ _ _) (State.modPart_kept hs _ _)

theorem drainOn_kept {s0 : State} {s : State} (hs : Kept s0 s) (p : Fin 16) :
    Kept s0 (drainOn p s) := by
  unfold drainOn
  extract_lets x k u v
  have hv : Kept s0 v := Kept.foldl (State.setPart_kept (Kept.free' 1 hs) _ _) (fun _ _ h => drainOne_kept h _ _)
  exact Kept.ite (drainOne_kept (State.modPart_kept hv _ _) _ _) hv

theorem queueRecord_kept {s0 : State} {s : State} (hs : Kept s0 s) (p : Fin 16) (r : TraceRec) :
    Kept s0 (queueRecord p s r) := by
  unfold queueRecord
  extract_lets -merge -useContext -underBinder +onlyGivenNames q1
  exact Kept.ite (State.modPart_kept hs _ _) (bump_kept (State.modPart_kept hs _ _) _ _ _)

theorem putTrace_kept {s0 : State} {s : State} (hs : Kept s0 s) (p : Fin 16) (r : TraceRec) :
    Kept s0 (putTrace s p r) := by
  unfold putTrace
  extract_lets -merge -useContext -underBinder +onlyGivenNames cfg1
  refine Kept.ite ?_ ?_
  · extract_lets -merge -useContext -underBinder +onlyGivenNames r2
    extract_lets -merge -useContext -underBinder +onlyGivenNames s3
    have h4 : Kept s0 (s3) := by
      unfold s3
      exact State.modPart_kept hs _ _
    clear_value s3
    extract_lets -merge -useContext -underBinder +onlyGivenNames s5
    have h6 : Kept s0 (s5) := by
      unfold s5
      exact bump_kept h4 _ _ _
    clear_value s5
    exact Kept.ite (drainOn_kept (queueRecord_kept h6 _ _) _) h6
  · exact hs

theorem postEvent_kept {s0 : State} {s : State} (hs : Kept s0 s) (p : Fin 16) (t : StreamTag) (code : ℕ) (core : ℕ) (layer : ℕ) (oper : ℕ) (data : ℕ) :
    Kept s0 (postEvent s p t code core layer oper data) := by
  unfold postEvent
  exact putTrace_kept (hs) _ _

theorem noteInf_kept {s0 : State} {s : State} (hs : Kept s0 s) (p : Fin 16) (t : StreamTag) (g : Granule) (unit : ℕ) (core : ℕ) (tile : List ℕ) :
    Kept s0 (noteInf s p t g unit core tile) := by
  unfold noteInf
  refine Kept.ite ?_ ?_
  · exact hs
  · extract_lets -merge -useContext -underBinder +onlyGivenNames q1
    exact putTrace_kept (State.modPart_kept hs _ _) _ _

theorem soSet_kept {s0 : State} {s : State} (hs : Kept s0 s) (n : ℕ) (x : SyncObj) :
    Kept s0 (soSet s n x) := by
  unfold soSet
  exact Kept.upd (hs) ⟨rfl, rfl, rfl⟩ (fun c => { c with so := Sparse.set_wf _ _ c.so })

theorem applySignal_kept {s0 : State} {s : State} (hs : Kept s0 s) (n : ℕ) (op : SigOp) (amount : Word) :
    Kept s0 (applySignal s n op amount) := by
  unfold applySignal
  extract_lets -merge -useContext -underBinder +onlyGivenNames x1
  extract_lets -merge -useContext -underBinder +onlyGivenNames s2
  have h3 : Kept s0 s2 := by
    exact soSet_kept (hs) _ _
  clear_value s2
  split
  · exact State.modPart_kept (h3) _ _
  · exact h3

theorem recordFault_kept {s0 : State} {s : State} (hs : Kept s0 s) (p : Fin 16) (r : FaultRec) :
    Kept s0 (recordFault s p r) := by
  unfold recordFault
  exact State.modPart_kept hs _ _

theorem moreFaults_kept {s0 : State} {s : State} (hs : Kept s0 s) (p : Fin 16) (n : ℕ) :
    Kept s0 (moreFaults s p n) := by
  unfold moreFaults
  exact State.modPart_kept hs _ _

theorem startDrain_kept {s0 : State} {s : State} (hs : Kept s0 s) (p : Fin 16) :
    Kept s0 (startDrain s p) := by
  unfold startDrain
  exact State.modPart_kept (hs) _ _

theorem stopStream_kept {s0 : State} {s : State} (hs : Kept s0 s) (p : Fin 16) (t : StreamTag) :
    Kept s0 (stopStream s p t) := by
  unfold stopStream
  exact State.modStream_kept (hs) _ _ _

theorem startDump_kept {s0 : State} {s : State} (hs : Kept s0 s) (p : Fin 16) :
    Kept s0 (startDump s p) := by
  unfold startDump
  refine Kept.ite ?_ ?_
  · exact postBit_kept (hs) _ _
  · exact Kept.plain (hs)

theorem stopUpds_kept {s0 : State} {s : State} (hs : Kept s0 s) (p : Fin 16) :
    Kept s0 (stopUpds s p) := by
  unfold stopUpds
  extract_lets -merge -useContext -underBinder +onlyGivenNames groups1
  refine Kept.foldl ?_ (fun a2 b3 h4 => ?_)
  · exact hs
  · extract_lets -merge -useContext -underBinder +onlyGivenNames a5
    extract_lets -merge -useContext -underBinder +onlyGivenNames w6
    exact Kept.ite (setRaw_kept h4 _ _) h4

theorem freeze_kept {s0 : State} {s : State} (hs : Kept s0 s) (p : Fin 16) (r : FaultRec) :
    Kept s0 (freeze s p r) := by
  unfold freeze
  extract_lets -merge -useContext -underBinder +onlyGivenNames s1
  have h2 : Kept s0 (s1) := by
    unfold s1
    exact stopUpds_kept (recordFault_kept hs _ _) _
  clear_value s1
  extract_lets -merge -useContext -underBinder +onlyGivenNames x3
  exact Kept.ite (answerStop_kept (startDump_kept (State.setPart_kept h2 _ _) _) _) h2

theorem trapCommand_kept {s0 : State} {s : State} (hs : Kept s0 s) (p : Fin 16) (t : StreamTag) (g : Granule) (pc : ℕ) (es : List Trap) :
    Kept s0 (trapCommand s p t g pc es) := by
  unfold trapCommand
  split
  · exact hs
  · extract_lets -merge -useContext -underBinder +onlyGivenNames q1
    split
    · extract_lets -merge -useContext -underBinder +onlyGivenNames s2
      have h3 : Kept s0 (s2) := by
        unfold s2
        exact State.modStream_kept hs _ _ _
      clear_value s2
      exact freeze_kept h3 _ _
    · exact freeze_kept (State.modStream_kept hs _ _ _) _ _
    · extract_lets -merge -useContext -underBinder +onlyGivenNames s4
      have h5 : Kept s0 (s4) := by
        unfold s4
        exact Kept.foldl hs (fun a6 b7 h8 => (moreFaults_kept (recordFault_kept h8 _ _) _ _))
      clear_value s4
      exact startDrain_kept (stopStream_kept h5 _ _) _

end Sys2Proof.Machine
end

