-- ==== Sys2Proof/Laws/KeptCounters.lean ====
section
/-! SUPPORT. What the operations of Machine/Counters.lean keep (Laws/Kept.lean): one lemma each, cited by the lemmas of what calls
them. -/

namespace Sys2Proof.Machine

set_option maxRecDepth 4000

theorem wrapCounter_kept {s0 : State} {s : State} (hs : Kept s0 s) (p : Option (Fin 16)) (t : Option StreamTag) (nn : ℕ) (j : ℕ) :
    Kept s0 (wrapCounter s p t nn j) := by
  unfold wrapCounter
  extract_lets -merge -useContext -underBinder +onlyGivenNames a1
  extract_lets -merge -useContext -underBinder +onlyGivenNames ctl2
  extract_lets -merge -useContext -underBinder +onlyGivenNames s3
  have h4 : Kept s0 (s3) := by
    unfold s3
    exact postBit_kept hs _ _
  clear_value s3
  split
  · refine Kept.ite ?_ ?_
    · extract_lets -merge -useContext -underBinder +onlyGivenNames s5
      have h6 : Kept s0 (s5) := by
        unfold s5
        exact putTrace_kept h4 _ _
      clear_value s5
      extract_lets -merge -useContext -underBinder +onlyGivenNames so7
      exact Kept.ite (applySignal_kept h6 _ _ _) h6
    · exact h4
  · exact h4

theorem addCounter_kept {s0 : State} {s : State} (h : Kept s0 s) (p : Option (Fin 16)) (t : Option StreamTag) (nn : ℕ)
    (j : ℕ) (fuel : ℕ) (v : ℕ) : Kept s0 (addCounter p t nn j fuel v s) := by
  induction fuel generalizing v s with
  | zero =>
    rw [addCounter]
    exact Kept.upd h ⟨rfl, rfl, rfl⟩ (fun c => { c with counts := Sparse.set_wf _ _ c.counts })
  | succ fuel ih =>
    rw [addCounter]
    refine Kept.ite ?_ (ih (wrapCounter_kept h _ _ _ _) _)
    exact Kept.upd h ⟨rfl, rfl, rfl⟩ (fun c => { c with counts := Sparse.set_wf _ _ c.counts })

theorem countEvent_kept {s0 : State} {s : State} (hs : Kept s0 s) (p : Fin 16) (t : StreamTag) (layer : ℕ) (code : ℕ) (nn : ℕ) (n : ℕ) :
    Kept s0 (countEvent s p t layer code nn n) := by
  unfold countEvent
  exact Kept.foldl hs (fun a1 b2 h3 => (Kept.ite (addCounter_kept h3 _ _ _ _ _ _) h3))

theorem countCore_kept {s0 : State} {s : State} (hs : Kept s0 s) (nn : ℕ) (code : ℕ) (n : ℕ) :
    Kept s0 (countCore s nn code n) := by
  unfold countCore
  exact Kept.foldl hs (fun _ _ h => Kept.ite (addCounter_kept h _ _ _ _ _ _) h)

theorem resetCounter_kept {s0 : State} {s : State} (hs : Kept s0 s) (nn : ℕ) (j : ℕ) :
    Kept s0 (resetCounter s nn j) := by
  unfold resetCounter
  extract_lets -merge -useContext -underBinder +onlyGivenNames a1
  extract_lets -merge -useContext -underBinder +onlyGivenNames s2
  have h3 : Kept s0 s2 := by
    exact Kept.upd (hs) ⟨rfl, rfl, rfl⟩ (fun c => { c with counts := Sparse.set_wf _ _ c.counts })
  clear_value s2
  extract_lets -merge -useContext -underBinder +onlyGivenNames info4
  exact setRaw_kept (h3) _ _

theorem beginMark_kept {s0 : State} {s : State} (hs : Kept s0 s) (p : Fin 16) (t : StreamTag) :
    Kept s0 (beginMark s p t) := by
  unfold beginMark
  refine Kept.foldl ?_ (fun a6 b7 h1 => ?_)
  · exact hs
  · refine Kept.foldl ?_ (fun a4 b5 h2 => ?_)
    · exact h1
    · extract_lets -merge -useContext -underBinder +onlyGivenNames ctl3
      refine Kept.ite ?_ ?_
      · exact resetCounter_kept (h2) _ _
      · exact h2

theorem resetCounters_kept {s0 : State} {s : State} (hs : Kept s0 s) (p : Fin 16) :
    Kept s0 (resetCounters s p) := by
  unfold resetCounters
  refine Kept.foldl ?_ (fun a5 b6 h1 => ?_)
  · exact hs
  · refine Kept.foldl ?_ (fun a3 b4 h2 => ?_)
    · exact h1
    · exact resetCounter_kept (h2) _ _

theorem execCounterWrap_kept {s0 : State} {s : State} (hs : Kept s0 s) (core : Fin 64) (j : Fin 16) :
    OutKept s0 (execCounterWrap core j s) := by
  unfold execCounterWrap
  exact OutKept.ite (OutKept.next (addCounter_kept (Kept.free' 1 hs) _ _ _ _ _ _)) (OutKept.next hs)

end Sys2Proof.Machine
end

