-- ==== Sys2Proof/Laws/KeptSram.lean ====
section
/-! SUPPORT. What the operations of Machine/Sram.lean keep (Laws/Kept.lean): one lemma each, cited by the lemmas of what calls
them. -/

namespace Sys2Proof.Machine

set_option maxRecDepth 4000

theorem noteSram_kept {s0 : State} {s : State} (hs : Kept s0 s) (array : ℕ) (owner : ℕ) (granule : ℕ) (bad : Bool) :
    Kept s0 (noteSram s array owner granule bad) := by
  unfold noteSram
  extract_lets -merge -useContext -underBinder +onlyGivenNames core1
  extract_lets -merge -useContext -underBinder +onlyGivenNames p2
  extract_lets -merge -useContext -underBinder +onlyGivenNames s3
  have h4 : Kept s0 (s3) := by
    unfold s3
    exact Kept.ite (bump_kept hs _ _ _) hs
  clear_value s3
  extract_lets -merge -useContext -underBinder +onlyGivenNames s5
  have h6 : Kept s0 (s5) := by
    unfold s5
    exact Kept.ite (countCore_kept h4 _ _ _) h4
  clear_value s5
  exact requestProof_kept h6 _ _

theorem readSram_kept (array : ℕ) (owner : ℕ) (granule : ℕ) (data : List Byte) (mask : ℕ) :
    OpKept (readSram array owner granule data mask) := by
  unfold readSram
  split
  · exact OpKept.pure _
  · exact OpKept.bind (OpKept.mod (fun s0 s h2 => (noteSram_kept h2 _ _ _ _))) (fun x1 => (OpKept.pure _))
  · exact OpKept.bind (OpKept.mod (fun s0 s h4 => (noteSram_kept h4 _ _ _ _))) (fun x3 => (OpKept.stop _))

theorem readArray_kept (array : ℕ) (owner : ℕ) (lo : ℕ) (bytes : List Byte) :
    OpKept (readArray array owner lo bytes) := by
  unfold readArray
  refine OpKept.bind ?_ (fun x1 => ?_)
  · exact OpKept.get
  · extract_lets -merge -useContext -underBinder +onlyGivenNames first2
    extract_lets -merge -useContext -underBinder +onlyGivenNames n3
    exact OpKept.ite (OpKept.pure _) (OpKept.bind (OpKept.map (fun x5 => (readSram_kept _ _ _ _ _))) (fun x4 => (OpKept.pure _)))

theorem readStoreGranule_kept (nn : ℕ) (ofs : ℕ) :
    OpKept (readStoreGranule nn ofs) := by
  unfold readStoreGranule
  refine OpKept.bind ?_ (fun x1 => ?_)
  · exact OpKept.get
  · extract_lets -merge -useContext -underBinder +onlyGivenNames key2
    exact readSram_kept _ _ _ _ _

theorem readStore_kept (nn : ℕ) (a : ℕ) (n : ℕ) :
    OpKept (readStore nn a n) := by
  unfold readStore
  exact OpKept.bind (OpKept.map (fun x2 => (OpKept.bind (readStoreGranule_kept _ _) (fun x3 => (OpKept.pure _))))) (fun x1 => (OpKept.pure _))

theorem writeStore_kept (nn : ℕ) (a : ℕ) (bytes : List Byte) :
    OpKept (writeStore nn a bytes) := by
  unfold writeStore
  refine OpKept.each (fun x1 => ?_)
  extract_lets -merge -useContext -underBinder +onlyGivenNames new2
  extract_lets -merge -useContext -underBinder +onlyGivenNames base3
  refine OpKept.bind ?_ (fun x4 => ?_)
  · exact OpKept.ite (OpKept.pure _) (readStoreGranule_kept _ _)
  · refine OpKept.mod (fun s0 s h5 => ?_)
    refine Kept.upd (h5) ⟨rfl, rfl, rfl⟩ (fun c => { c with store := Sparse.setRun_wf _ _ c.store, storeErrs := Sparse.set_wf _ _ c.storeErrs })

end Sys2Proof.Machine
end

