-- ==== Sys2Proof/Laws/KeptOperands.lean ====
section
/-! SUPPORT. What the operations of Machine/Operands.lean keep (Laws/Kept.lean): one lemma each, cited by the lemmas of what calls
them. -/

namespace Sys2Proof.Machine

set_option maxRecDepth 4000

theorem awaitPages_kept (p : Fin 16) (a : ℕ) (n : ℕ) :
    OpKept (awaitPages p a n) := by
  unfold awaitPages
  exact OpKept.bind OpKept.get (fun x1 => (OpKept.ite (OpKept.stop _) (OpKept.ite (OpKept.stop _) (OpKept.pure _))))

theorem awaitFrame_kept (p : Fin 16) (a : ℕ) :
    OpKept (awaitFrame p a) := by
  unfold awaitFrame
  refine OpKept.bind ?_ (fun x1 => ?_)
  · exact OpKept.get
  · extract_lets -merge -useContext -underBinder +onlyGivenNames m2
    exact OpKept.ite (OpKept.stop _) (OpKept.pure _)

theorem readDev_kept (c : Ctx) (a : ℕ) (n : ℕ) :
    OpKept (readDev c a n) := by
  unfold readDev
  exact OpKept.bind (awaitPages_kept _ _ _) (fun x1 => (OpKept.bind OpKept.get (fun x2 => (OpKept.bind (readMem_kept _ _ _ _) (fun x3 => (OpKept.pure _))))))

theorem writeDev_kept (c : Ctx) (a : ℕ) (bytes : List Byte) :
    OpKept (writeDev c a bytes) := by
  unfold writeDev
  exact OpKept.bind (awaitPages_kept _ _ _) (fun x1 => (OpKept.each (fun x2 => (OpKept.bind (awaitFrame_kept _ _) (fun x3 => (writeStripe_kept _ _ _ _))))))

theorem readSpace_kept (c : Ctx) (d : Desc) (a : ℕ) (n : ℕ) :
    OpKept (readSpace c d a n) := by
  unfold readSpace
  exact OpKept.ite (OpKept.bind OpKept.get (fun x1 => (OpKept.bind (readStore_kept _ _ _) (fun x2 => (OpKept.pure _))))) (readDev_kept _ _ _)

theorem putRow_kept {put : List Byte → Op Unit} (hput : ∀ a1, OpKept (put a1)) (sp : ℕ) (a : ℕ) (bytes : List Byte) :
    OpKept (putRow sp a bytes put) := by
  unfold putRow
  refine OpKept.bind ?_ (fun x2 => ?_)
  · exact OpKept.get
  · extract_lets -merge -useContext -underBinder +onlyGivenNames near3
    extract_lets -merge -useContext -underBinder +onlyGivenNames out4
    refine OpKept.bind ?_ (fun x6 => ?_)
    · refine OpKept.mod (fun s0 s h5 => ?_)
      exact Kept.plain h5
    · exact hput _

theorem freshRows_kept {s0 : State} {s : State} (hs : Kept s0 s) :
    Kept s0 (freshRows s) := by
  unfold freshRows
  exact Kept.plain (hs)

theorem writeSpace_kept (c : Ctx) (d : Desc) (a : ℕ) (bytes : List Byte) :
    OpKept (writeSpace c d a bytes) := by
  unfold writeSpace
  refine OpKept.ite ?_ ?_
  · refine putRow_kept ?_ _ _ _
    intro x1
    exact writeStore_kept _ _ _
  · refine putRow_kept ?_ _ _ _
    intro x2
    exact writeDev_kept _ _ _

theorem readBlocks_kept (c : Ctx) (d : Desc) (jb : ℕ) (n : ℕ) (r : ℕ × ℕ × ℕ) :
    OpKept (readBlocks c d jb n r) := by
  unfold readBlocks
  extract_lets -merge -useContext -underBinder +onlyGivenNames B1
  refine OpKept.ite ?_ ?_
  · exact OpKept.map (fun x2 => by
      refine OpKept.bind ?_ (fun x3 => ?_)
      · exact readSpace_kept _ _ _ _
      · refine OpKept.bind ?_ (fun x4 => ?_)
        · refine OpKept.ite ?_ ?_
          · exact readSpace_kept _ _ _ _
          · exact OpKept.pure _
        · exact OpKept.pure _)
  · refine OpKept.bind ?_ (fun x5 => ?_)
    · exact readSpace_kept _ _ _ _
    · refine OpKept.bind ?_ (fun x6 => ?_)
      · refine OpKept.ite ?_ ?_
        · exact readSpace_kept _ _ _ _
        · exact OpKept.pure _
      · exact OpKept.pure _

theorem readHeld_kept (c : Ctx) (d : Desc) (jb : ℕ) (n : ℕ) (r : ℕ × ℕ × ℕ) :
    OpKept (readHeld c d jb n r) := by
  unfold readHeld
  extract_lets -merge -useContext -underBinder +onlyGivenNames last1
  exact OpKept.ite (readBlocks_kept _ _ _ _ _) (OpKept.bind (readBlocks_kept _ _ _ _ _) (fun x2 => (OpKept.bind (readSpace_kept _ _ _ _) (fun x3 => (OpKept.bind (OpKept.ite (readSpace_kept _ _ _ _) (OpKept.pure _)) (fun x4 => (OpKept.pure _)))))))

theorem writeBlocks_kept (c : Ctx) (d : Desc) (jb : ℕ) (r : ℕ × ℕ × ℕ) (bs : List RawBlock) :
    OpKept (writeBlocks c d jb r bs) := by
  unfold writeBlocks
  refine OpKept.ite ?_ ?_
  · refine OpKept.bind ?_ (fun x1 => ?_)
    · exact writeSpace_kept _ _ _ _
    · refine OpKept.ite ?_ ?_
      · exact writeSpace_kept _ _ _ _
      · exact OpKept.pure _
  · exact OpKept.each (fun x2 => by
      refine OpKept.bind ?_ (fun x3 => ?_)
      · exact writeSpace_kept _ _ _ _
      · refine OpKept.ite ?_ ?_
        · exact writeSpace_kept _ _ _ _
        · exact OpKept.pure _)

theorem readZps_kept (c : Ctx) (d : Desc) (jb : ℕ) (n : ℕ) :
    OpKept (readZps c d jb n) := by
  unfold readZps
  refine OpKept.ite ?_ ?_
  · refine OpKept.bind ?_ (fun x1 => ?_)
    · exact readSpace_kept _ _ _ _
    · exact OpKept.pure _
  · exact OpKept.pure _

theorem malformed_kept {α : Type} (c : Ctx) (d : Desc) (a : ℕ) :
    OpKept (malformed (α := α) c d a) := by
  unfold malformed
  refine OpKept.bind ?_ (fun x1 => ?_)
  · exact OpKept.get
  · split
    · exact OpKept.stop _
    · exact OpKept.stop _

theorem recallGroup_kept (c : Ctx) (d : Desc) (jb : ℕ) (r : ℕ × ℕ × ℕ) :
    OpKept (recallGroup c d jb r) := by
  unfold recallGroup
  extract_lets -merge -useContext -underBinder +onlyGivenNames B1
  refine OpKept.bind ?_ (fun x2 => ?_)
  · exact readSpace_kept _ _ _ _
  · extract_lets -merge -useContext -underBinder +onlyGivenNames words3
    extract_lets -merge -useContext -underBinder +onlyGivenNames crumb4
    extract_lets -merge -useContext -underBinder +onlyGivenNames scales5
    refine OpKept.bind ?_ (fun x6 => ?_)
    · exact readZps_kept _ _ _ _
    · extract_lets -merge -useContext -underBinder +onlyGivenNames nulls7
      extract_lets -merge -useContext -underBinder +onlyGivenNames a8
      refine OpKept.ite ?_ ?_
      · refine OpKept.bind ?_ (fun x9 => ?_)
        · exact readSpace_kept _ _ _ _
        · exact OpKept.pure _
      · refine OpKept.ite ?_ ?_
        · refine OpKept.ite ?_ ?_
          · exact malformed_kept _ _ _
          · exact OpKept.pure _
        · refine OpKept.ite ?_ ?_
          · exact malformed_kept _ _ _
          · extract_lets -merge -useContext -underBinder +onlyGivenNames size10
            refine OpKept.bind ?_ (fun x11 => ?_)
            · exact readSpace_kept _ _ _ _
            · split
              · exact OpKept.pure _
              · exact malformed_kept _ _ _

theorem countCrumb_kept {s0 : State} {s : State} (hs : Kept s0 s) (nn : ℕ) (raw : ℕ) (packed : ℕ) (isRaw : Bool) :
    Kept s0 (countCrumb s nn raw packed isRaw) := by
  unfold countCrumb
  extract_lets -merge -useContext -underBinder +onlyGivenNames s1
  have h2 : Kept s0 s1 := by
    exact bumpCore_kept (hs) _ _ _ _ _ _
  clear_value s1
  extract_lets -merge -useContext -underBinder +onlyGivenNames s3
  have h4 : Kept s0 s3 := by
    exact bumpCore_kept (h2) _ _ _ _ _ _
  clear_value s3
  refine Kept.ite ?_ ?_
  · exact bumpCore_kept (h4) _ _ _ _ _ _
  · exact h4

theorem writeGroup_kept (c : Ctx) (d : Desc) (jb : ℕ) (r : ℕ × ℕ × ℕ) (bs : List RawBlock) :
    OpKept (writeGroup c d jb r bs) := by
  unfold writeGroup
  extract_lets -merge -useContext -underBinder +onlyGivenNames B1
  refine OpKept.bind ?_ (fun x2 => ?_)
  · exact readZps_kept _ _ _ _
  · extract_lets -merge -useContext -underBinder +onlyGivenNames nulls3
    extract_lets -merge -useContext -underBinder +onlyGivenNames enc4
    extract_lets -merge -useContext -underBinder +onlyGivenNames z5
    extract_lets -merge -useContext -underBinder +onlyGivenNames grans6
    extract_lets -merge -useContext -underBinder +onlyGivenNames empty7
    extract_lets -merge -useContext -underBinder +onlyGivenNames raw8
    extract_lets -merge -useContext -underBinder +onlyGivenNames crumb9
    extract_lets -merge -useContext -underBinder +onlyGivenNames bytes10
    extract_lets -merge -useContext -underBinder +onlyGivenNames y11
    have h12 : ∀ a17, OpKept (@y11 a17) :=
      (fun x13 => by
      refine OpKept.bind ?_ (fun x14 => ?_)
      · exact writeSpace_kept _ _ _ _
      · refine OpKept.bind ?_ (fun x16 => ?_)
        · refine OpKept.mod (fun s0 s h15 => ?_)
          exact countCrumb_kept (h15) _ _ _ _
        · exact OpKept.pure _)
    clear_value y11
    refine OpKept.ite ?_ ?_
    · refine OpKept.bind ?_ (fun x18 => ?_)
      · exact writeSpace_kept _ _ _ _
      · exact h12 _
    · exact h12 _

theorem recallBlocks_kept (c : Ctx) (d : Desc) (jb : ℕ) (n : ℕ) (r : ℕ × ℕ × ℕ) :
    OpKept (recallBlocks c d jb n r) := by
  unfold recallBlocks
  refine OpKept.ite ?_ ?_
  · refine OpKept.bind ?_ (fun x1 => ?_)
    · refine OpKept.map (fun x2 => ?_)
      refine OpKept.bind ?_ (fun x3 => ?_)
      · exact recallGroup_kept _ _ _ _
      · split
        · exact OpKept.bind (OpKept.mod (fun s0 s h5 => (bumpCore_kept h5 _ _ _ _ _ _))) (fun x4 => (OpKept.pure _))
    · exact OpKept.pure _
  · exact readHeld_kept _ _ _ _ _

theorem readValues_kept (c : Ctx) (d : Desc) (jb : ℕ) (n : ℕ) (r : ℕ × ℕ × ℕ) :
    OpKept (readValues c d jb n r) := by
  unfold readValues
  extract_lets -merge -useContext -underBinder +onlyGivenNames held1
  refine OpKept.bind ?_ (fun x2 => ?_)
  · exact recallBlocks_kept _ _ _ _ _
  · refine OpKept.bind ?_ (fun x3 => ?_)
    · exact readZps_kept _ _ _ _
    · refine OpKept.bind ?_ (fun x4 => ?_)
      · exact OpKept.nanAt _ _
      · extract_lets -merge -useContext -underBinder +onlyGivenNames flat5
        exact OpKept.pure _

end Sys2Proof.Machine
end

