-- ==== Sys2Proof/Laws/KeptStreams.lean ====
section
/-! SUPPORT. What the operations of Machine/Streams.lean keep (Laws/Kept.lean): one lemma each, cited by the lemmas of what calls
them. -/

namespace Sys2Proof.Machine

set_option maxRecDepth 4000

/-! ### Effects and stream commands -/

theorem setDesc_kept {s0 : State} {s : State} (hs : Kept s0 s) (p : Fin 16) (t : StreamTag) (keep : List ℕ) (i : ℕ) (bs : List Byte) :
    Kept s0 (setDesc s p t keep i bs) := by
  unfold setDesc
  extract_lets -merge -useContext -underBinder +onlyGivenNames put1
  exact State.modStream_kept hs _ _ _

theorem Kept.effect {s0 s : State} {es : List Trap} {w : FlightWait} (h : Kept s0 s) : Kept s0 (Effect.mk s es w).state := h

theorem Kept.iteState {s0 : State} {a b : Effect} {c : Prop} [Decidable c] (h1 : Kept s0 a.state) (h2 : Kept s0 b.state) :
    Kept s0 (if c then a else b).state := by split <;> assumption

/-- What a stream's row predicts and its effect keep what every command keeps. -/
structure StreamCmd.Kept (c : StreamCmd) : Prop where
  run : ∀ s0 s p t g n, Machine.Kept s0 s → Machine.Kept s0 (c.run s p t g n).state
  predict : ∀ s0 s p t g, Machine.Kept s0 s → Machine.Kept s0 (c.predict s p t g) := by exact fun _ _ _ _ _ h => h

theorem fetchDesc_kept (p : Fin 16) (t : StreamTag) (keep : List ℕ) (i : ℕ) :
    OpKept (fetchDesc p t keep i) := by
  unfold fetchDesc
  refine OpKept.bind ?_ (fun x1 => ?_)
  · exact OpKept.get
  · extract_lets -merge -useContext -underBinder +onlyGivenNames w2
    exact OpKept.ite (OpKept.pure _) (OpKept.ite (OpKept.bind (readMem_kept _ _ _ _) (fun x3 => (OpKept.mod (fun s0 s h4 => (clearArray_kept (setDesc_kept h4 _ _ _ _ _) _ _ _ _))))) (OpKept.bind (readArray_kept _ _ _ _) (fun x5 => (OpKept.mod (fun s0 s h6 => (setDesc_kept h6 _ _ _ _ _))))))

theorem Effect.done_kept {s0 : State} {s : State} (hs : Kept s0 s) :
    Kept s0 (Effect.done s).state := by
  unfold Effect.done
  refine Kept.effect ?_
  exact hs

theorem arrive_kept {s0 : State} {s : State} (hs : Kept s0 s) (p : Fin 16) (t : StreamTag) :
    Kept s0 (arrive s p t) := by
  unfold arrive
  extract_lets -merge -useContext -underBinder +onlyGivenNames q1
  refine Kept.ite ?_ ?_
  · exact hs
  · split
    · rename_i he2
      have h3 := Kept.of_exec (s0 := s0) he2
          (by
            exact readMem_kept _ _ _ _)
          (by
            exact hs)
      clear he2
      extract_lets -merge -useContext -underBinder +onlyGivenNames g4
      extract_lets -merge -useContext -underBinder +onlyGivenNames met5
      exact State.modStream_kept h3 _ _ _
    · rename_i he6
      have h7 := Kept.of_exec (s0 := s0) he6
          (by
            exact readMem_kept _ _ _ _)
          (by
            exact hs)
      clear he6
      split
      · exact State.modStream_kept h7 _ _ _
      · exact trapCommand_kept (State.modStream_kept h7 _ _ _) _ _ _ _ _

theorem refuse_kept {s0 : State} {s : State} (hs : Kept s0 s) (p : Fin 16) (t : StreamTag) (g : Granule) (code : ℕ) :
    Kept s0 (refuse s p t g code) := by
  unfold refuse
  extract_lets -merge -useContext -underBinder +onlyGivenNames q1
  extract_lets -merge -useContext -underBinder +onlyGivenNames s2
  have h3 : Kept s0 s2 := by
    exact State.setStream_kept (hs) _ _ _
  clear_value s2
  exact freeze_kept (h3) _ _

theorem modRefs_kept {s0 : State} {s : State} (hs : Kept s0 s) (f : PartMem → ℕ → PartMem) (p : Fin 16) (slots : List ℕ) :
    Kept s0 (modRefs f s p slots) := by
  unfold modRefs
  exact State.modPart_kept (hs) _ _

theorem applyFlight_kept {s0 : State} {s : State} (hs : Kept s0 s) (f : Flight) :
    Kept s0 (applyFlight s f) := by
  unfold applyFlight
  split
  · exact applySignal_kept (hs) _ _ _
  · exact hs

theorem settleSignals_kept {s0 : State} {s : State} (hs : Kept s0 s) (p : Fin 16) (t : StreamTag) :
    Kept s0 (settleSignals s p t) := by
  unfold settleSignals
  extract_lets -merge -useContext -underBinder +onlyGivenNames r1
  refine Kept.foldl ?_ (fun a3 b4 h2 => ?_)
  · exact State.modStream_kept (hs) _ _ _
  · exact applyFlight_kept (h2) _

theorem noteWait_kept {s0 : State} {s : State} (hs : Kept s0 s) (p : Fin 16) (e : Trap) :
    Kept s0 (noteWait p s e) := by
  unfold noteWait
  split
  · extract_lets -merge -useContext -underBinder +onlyGivenNames s1
    have h2 : Kept s0 (s1) := by
      unfold s1
      exact bump_kept hs _ _ _
    clear_value s1
    refine Kept.draw 1 (h2) ⟨rfl, rfl, rfl⟩ (fun c => { c with regs := c.regs })
  · exact State.modPart_kept (postBit_kept hs _ _) _ _
  · exact hs

theorem StreamCmd.attempt_kept {s0 : State} {c : StreamCmd} (hc : c.Kept) {s : State} (hs : Machine.Kept s0 s) (p : Fin 16) (t : StreamTag) (g : Granule) (n : ℕ) :
    Machine.Kept s0 (c.attempt s p t g n).state := by
  unfold StreamCmd.attempt
  extract_lets -merge -useContext -underBinder +onlyGivenNames e1
  split
  · exact Kept.foldl hs (fun _ e h => noteWait_kept h _ e)
  · exact hc.run _ _ _ _ _ _ (freshRows_kept hs)

theorem StreamCmd.begin__kept {s0 : State} {c : StreamCmd} (hc : c.Kept) {s : State} (hs : Machine.Kept s0 s) (p : Fin 16) (t : StreamTag) (g : Granule) (n : ℕ) :
    Machine.Kept s0 (c.begin_ s p t g n).state := by
  unfold StreamCmd.begin_
  split
  · split
    · exact hs
    · exact attempt_kept hc hs _ _ _ _
  · exact demandAll_kept hs _

theorem countCores_kept {s0 : State} {s : State} (hs : Kept s0 s) (p : Fin 16) (t : StreamTag) (g : Granule) (code : ℕ) (n : ℕ) :
    Kept s0 (countCores s p t g code n) := by
  unfold countCores
  exact Kept.foldl hs (fun a1 b2 h3 => (countEvent_kept h3 _ _ _ _ _ _))

theorem countWait_kept {s0 : State} {s : State} (hs : Kept s0 s) (p : Fin 16) (t : StreamTag) (g : Granule) :
    Kept s0 (countWait s p t g) := by
  unfold countWait
  refine Kept.ite ?_ ?_
  · exact hs
  · refine countCores_kept ?_ _ _ _ _ _
    refine Kept.draw 1 (hs) ⟨rfl, rfl, rfl⟩ (fun c => { c with regs := c.regs })

theorem countBusy_kept {s0 : State} {s : State} (hs : Kept s0 s) (p : Fin 16) (g : Granule) :
    Kept s0 (countBusy s p g) := by
  unfold countBusy
  split
  · refine bump_kept ?_ _ _ _
    refine Kept.draw 1 (hs) ⟨rfl, rfl, rfl⟩ (fun c => { c with regs := c.regs })
  · exact hs

theorem issueHead_kept {s0 : State} {c : StreamCmd} (hc : c.Kept) {s : State} (hs : Kept s0 s) (p : Fin 16) (t : StreamTag) (g : Granule) :
    Kept s0 (issueHead c s p t g) := by
  unfold issueHead
  extract_lets -merge -useContext -underBinder +onlyGivenNames q1
  extract_lets -merge -useContext -underBinder +onlyGivenNames reads2
  extract_lets -merge -useContext -underBinder +onlyGivenNames n3
  extract_lets -merge -useContext -underBinder +onlyGivenNames s4
  have h5 : Kept s0 (s4) := by
    unfold s4
    exact State.modPart_kept (State.setStream_kept hs _ _ _) _ _
  clear_value s4
  extract_lets -merge -useContext -underBinder +onlyGivenNames s6
  have h7 : Kept s0 (s6) := by
    unfold s6
    exact countBusy_kept (countWait_kept (countCores_kept h5 _ _ _ _ _) _ _ _) _ _
  clear_value s6
  extract_lets -merge -useContext -underBinder +onlyGivenNames s8
  extract_lets -merge -useContext -underBinder +onlyGivenNames s10
  have h11 : Kept s0 (s10) := by
    unfold s10
    exact Kept.ite (putTrace_kept h7 _ _) h7
  clear_value s10
  exact modRefs_kept h11 _ _ _

theorem issueEnd_kept {s0 : State} {c : StreamCmd} {s : State} {e : Effect} (hc : c.Kept) (hs : Kept s0 s) (he : Kept s0 e.state) (p : Fin 16) (t : StreamTag) (g : Granule) :
    Kept s0 (issueEnd c s p t g e) := by
  unfold issueEnd
  extract_lets -merge -useContext -underBinder +onlyGivenNames q1
  split
  · extract_lets -merge -useContext -underBinder +onlyGivenNames f2
    extract_lets -merge -useContext -underBinder +onlyGivenNames s3
    have h4 : Kept s0 s3 := by
      exact State.modStream_kept (he) _ _ _
    clear_value s3
    extract_lets -merge -useContext -underBinder +onlyGivenNames y5
    extract_lets -merge -useContext -underBinder +onlyGivenNames s6
    have h7 : Kept s0 s6 := by
      refine Kept.ite ?_ ?_
      · exact putTrace_kept (h4) _ _
      · exact h4
    clear_value s6
    exact arrive_kept (settleSignals_kept (h7) _ _) _ _
  · exact trapCommand_kept he _ _ _ _ _

theorem issueNow_kept {s0 : State} {c : StreamCmd} (hc : c.Kept) {s : State} (hs : Kept s0 s) (p : Fin 16) (t : StreamTag) (g : Granule) :
    Kept s0 (issueNow c s p t g) := by
  unfold issueNow
  exact issueEnd_kept hc hs (StreamCmd.begin__kept hc (hc.predict _ _ _ _ _ (issueHead_kept hc hs _ _ _)) _ _ _ _) _ _ _

theorem checkHead_kept {s0 : State} {c : StreamCmd} (hc : c.Kept) {s : State} (hs : Kept s0 s) (p : Fin 16) (t : StreamTag) (g : Granule) :
    Kept s0 (checkHead c p t g s) := by
  unfold checkHead
  split
  · exact refuse_kept hs _ _ _ _
  · split
    · rename_i he1
      have h2 := Kept.of_exec (s0 := s0) he1
          (by
            exact OpKept.each (fun x3 => (fetchDesc_kept _ _ _ _)))
          (by
            exact hs)
      clear he1
      exact trapCommand_kept h2 _ _ _ _ _
    · rename_i he4
      have h5 := Kept.of_exec (s0 := s0) he4
          (by
            exact OpKept.each (fun x6 => (fetchDesc_kept _ _ _ _)))
          (by
            exact hs)
      clear he4
      extract_lets -merge -useContext -underBinder +onlyGivenNames x7
      extract_lets -merge -useContext -underBinder +onlyGivenNames region8
      split
      · exact refuse_kept h5 _ _ _ _
      · exact Kept.ite h5 (issueNow_kept hc h5 _ _ _)

theorem issue_kept {s0 : State} {c : StreamCmd} (hc : c.Kept) {s : State} (hs : Kept s0 s) (p : Fin 16) (t : StreamTag) :
    Kept s0 (issue c p t s) := by
  unfold issue
  refine Kept.ite ?_ ?_
  · split
    · exact refuse_kept hs _ _ _ _
    · exact Kept.ite hs (Kept.ite (refuse_kept hs _ _ _ _) (Kept.ite (refuse_kept hs _ _ _ _) (Kept.ite hs (Kept.ite hs (checkHead_kept hc hs _ _ _)))))
  · exact hs

theorem completeFlight_kept {s0 : State} {s : State} (hs : Kept s0 s) (p : Fin 16) (t : StreamTag) (n : ℕ) :
    Kept s0 (completeFlight s p t n) := by
  unfold completeFlight
  extract_lets -merge -useContext -underBinder +onlyGivenNames q1
  split
  · exact hs
  · extract_lets -merge -useContext -underBinder +onlyGivenNames s2
    have h3 : Kept s0 s2 := by
      exact State.modStream_kept (hs) _ _ _
    clear_value s2
    extract_lets -merge -useContext -underBinder +onlyGivenNames y4
    extract_lets -merge -useContext -underBinder +onlyGivenNames s5
    have h6 : Kept s0 s5 := by
      refine Kept.ite ?_ ?_
      · exact putTrace_kept (h3) _ _
      · exact h3
    clear_value s5
    exact settleSignals_kept (modRefs_kept (h6) _ _ _) _ _

theorem setWait_kept {s0 : State} {s : State} (hs : Kept s0 s) (p : Fin 16) (t : StreamTag) (n : ℕ) (w : FlightWait) :
    Kept s0 (setWait s p t n w) := by
  unfold setWait
  exact State.modStream_kept (hs) _ _ _

theorem endFlight_kept {s0 : State} {s : State} (hs : Kept s0 s) (p : Fin 16) (t : StreamTag) (n : ℕ) :
    Kept s0 (endFlight s p t n) := by
  unfold endFlight
  exact settleSignals_kept (State.modStream_kept hs _ _ _) _ _

theorem muteAfter_kept {s0 : State} {s : State} (hs : Kept s0 s) (p : Fin 16) (t : StreamTag) (n : ℕ) :
    Kept s0 (muteAfter s p t n) := by
  unfold muteAfter
  exact State.modStream_kept (hs) _ _ _

theorem endDependents_kept {s0 : State} {s : State} (hs : Kept s0 s) (p : Fin 16) (t : StreamTag) (gone : List Granule) (fs : List Flight) :
    Kept s0 (endDependents p t gone fs s) := by
  induction fs generalizing gone s with
  | nil => exact hs
  | cons f fs ih => exact Kept.ite (ih (endFlight_kept hs _ _ _) _) (ih hs _)

theorem dropFlight_kept {s0 : State} {s : State} (hs : Kept s0 s) (p : Fin 16) (t : StreamTag) (f : Flight) :
    Kept s0 (dropFlight s p t f) :=
  endDependents_kept (endFlight_kept hs _ _ _) _ _ _ _

theorem trapFlight_kept {s0 : State} {s : State} (hs : Kept s0 s) (p : Fin 16) (t : StreamTag) (f : Flight) (es : List Trap) :
    Kept s0 (trapFlight s p t f es) := by
  unfold trapFlight
  split
  · exact setWait_kept hs _ _ _ _
  · exact trapCommand_kept (dropFlight_kept (muteAfter_kept hs _ _ _) _ _ _) _ _ _ _ _

theorem onTargets_kept {s0 : State} {f : ℕ × ℕ × ℕ → Op Unit} {s : State} (hf : ∀ a1, OpKept (f a1)) (hs : Kept s0 s) (cores : List (ℕ × ℕ × ℕ)) :
    Kept s0 (onTargets cores f s).1 := by
  unfold onTargets
  refine Kept.foldlFst ?_ (fun a5 b6 h2 => ?_)
  · refine Kept.pairFst ?_
    exact freshRows_kept (hs)
  · split
    · rename_i he
      have h3 := Kept.of_exec (s0 := s0) he (by
          refine OpKept.at ?_
          exact hf _)
          (by
          exact h2)
      clear he
      refine Kept.pairFst ?_
      exact h3
    · rename_i he
      have h4 := Kept.of_exec (s0 := s0) he (by
          refine OpKept.at ?_
          exact hf _)
          (by
          exact h2)
      clear he
      refine Kept.pairFst ?_
      exact h4

end Sys2Proof.Machine
end

