-- ==== Sys2Proof/Laws/KeptScales.lean ====
section
/-! SUPPORT. What the operations of Machine/Scales.lean keep (Laws/Kept.lean): one lemma each, cited by the lemmas of what calls
them. -/

namespace Sys2Proof.Machine

set_option maxRecDepth 4000

theorem slotSet_kept {s0 : State} {s : State} (hs : Kept s0 s) (n : ℕ) (x : Slot) :
    Kept s0 (slotSet s n x) := by
  unfold slotSet
  exact Kept.upd (hs) ⟨rfl, rfl, rfl⟩ (fun c => { c with slots := Sparse.set_wf _ _ c.slots })

theorem slotMod_kept {s0 : State} {s : State} (hs : Kept s0 s) (n : ℕ) (f : Slot → Slot) :
    Kept s0 (slotMod s n f) := by
  unfold slotMod
  exact slotSet_kept (hs) _ _

theorem reportBlock_kept {s0 : State} {s : State} (hs : Kept s0 s) (nn : ℕ) (n : ℕ) (r : BlockReport) :
    Kept s0 (reportBlock s nn n r) := by
  unfold reportBlock
  extract_lets -merge -useContext -underBinder +onlyGivenNames s1
  have h2 : Kept s0 s1 := by
    exact slotMod_kept (hs) _ _
  clear_value s1
  exact bump_kept (h2) _ _ _

theorem reportLayer_kept {s0 : State} {s : State} (hs : Kept s0 s) (p : Fin 16) (l : ℕ) (sat : ℕ) (full : ℕ) :
    Kept s0 (reportLayer s p l sat full) := by
  unfold reportLayer
  exact State.modPart_kept (hs) _ _

theorem mergeChannel_kept (p : Fin 16) (addr : ℕ) (vs : List Num) :
    OpKept (mergeChannel p addr vs) := by
  unfold mergeChannel
  split
  · exact OpKept.pure _
  · refine OpKept.bind ?_ (fun x1 => ?_)
    · exact readMem_kept _ _ _ _
    · extract_lets -merge -useContext -underBinder +onlyGivenNames codes2
      extract_lets -merge -useContext -underBinder +onlyGivenNames lo3
      extract_lets -merge -useContext -underBinder +onlyGivenNames hi4
      exact writeMem_kept _ _ _ _

theorem commitSlot_kept (p : Fin 16) (t : StreamTag) (step : ℕ) (k : ℕ) :
    OpKept (commitSlot p t step k) := by
  unfold commitSlot
  refine OpKept.bind ?_ (fun x1 => ?_)
  · exact OpKept.get
  · extract_lets -merge -useContext -underBinder +onlyGivenNames x2
    extract_lets -merge -useContext -underBinder +onlyGivenNames y3
    extract_lets -merge -useContext -underBinder +onlyGivenNames col4
    refine OpKept.bind ?_ (fun x5 => ?_)
    · refine OpKept.ite ?_ ?_
      · extract_lets -merge -useContext -underBinder +onlyGivenNames n6
        refine OpKept.bind ?_ (fun x7 => ?_)
        · exact readMem_kept _ _ _ _
        · extract_lets -merge -useContext -underBinder +onlyGivenNames rs8
          extract_lets -merge -useContext -underBinder +onlyGivenNames ranked9
          extract_lets -merge -useContext -underBinder +onlyGivenNames list10
          extract_lets -merge -useContext -underBinder +onlyGivenNames best11
          exact OpKept.bind (writeMem_kept _ _ _ _) (fun x12 => (OpKept.pure _))
      · exact OpKept.pure _
    · refine OpKept.mod (fun s0 s h13 => ?_)
      extract_lets -merge -useContext -underBinder +onlyGivenNames s14
      have h15 : Kept s0 (s14) := by
        unfold s14
        exact slotSet_kept h13 _ _
      clear_value s14
      exact Kept.ite (postEvent_kept (postBit_kept h15 _ _) _ _ _ _ _ _ _) h15

theorem commitLayers_kept {s0 : State} {s : State} (h : Kept s0 s) (p : Fin 16) (ls : List (LayerEntry × ℕ)) :
    Kept s0 (commitLayers p ls s).1 := by
  induction ls generalizing s with
  | nil => exact h
  | cons l ls ih =>
    rw [commitLayers]
    refine ih ?_
    split
    · exact setRaw_kept (postEvent_kept (postBit_kept (State.modPart_kept h _ _) _ _) _ _ _ _ _ _ _) _ _
    · exact setRaw_kept (State.modPart_kept h _ _) _ _
    · exact State.modPart_kept h _ _

theorem commitRungs_kept {s0 : State} {s : State} (hs : Kept s0 s) (p : Fin 16) :
    Kept s0 (commitRungs s p) := by
  unfold commitRungs
  extract_lets -merge -useContext -underBinder +onlyGivenNames r1
  have h2 : Kept s0 r1.1 := by
    exact commitLayers_kept (hs) _ _
  clear_value r1
  extract_lets -merge -useContext -underBinder +onlyGivenNames climbed3
  extract_lets -merge -useContext -underBinder +onlyGivenNames s4
  have h5 : Kept s0 s4 := by
    exact setRaw_kept (h2) _ _
  clear_value s4
  refine Kept.ite ?_ ?_
  · exact postEvent_kept (postBit_kept (h5) _ _) _ _ _ _ _ _ _
  · exact h5

theorem countDraws_kept {s0 : State} {s : State} (hs : Kept s0 s) (nn : ℕ) (n : ℕ) :
    Kept s0 (countDraws s nn n) := by
  unfold countDraws
  exact bump_kept (hs) _ _ _

end Sys2Proof.Machine
end

