-- ==== Sys2Proof/Laws/KeptControl.lean ====
section
/-! SUPPORT. What the operations of Machine/Control.lean keep (Laws/Kept.lean): one lemma each, cited by the lemmas of what calls
them. -/

namespace Sys2Proof.Machine

set_option maxRecDepth 4000

theorem control_kept {run : State → Fin 16 → StreamTag → Granule → State} (hrun : ∀ s0 a1 a2 a3 a4, Kept s0 a1 → Kept s0 (run a1 a2 a3 a4)) (op : ℕ) (check : State → Fin 16 → StreamTag → Granule → List ℕ) : (control op check run).Kept := by
  unfold control
  exact ⟨fun s0 s p t g n h => Effect.done_kept (hrun s0 _ _ _ _ h), fun _ _ _ _ _ h => h⟩

theorem markRun_kept {s0 : State} {s : State} (hs : Kept s0 s) (p : Fin 16) (t : StreamTag) (g : Granule) :
    Kept s0 (markRun s p t g) := by
  unfold markRun
  extract_lets -merge -useContext -underBinder +onlyGivenNames q1
  extract_lets -merge -useContext -underBinder +onlyGivenNames y2
  extract_lets -merge -useContext -underBinder +onlyGivenNames s3
  have h4 : Kept s0 s3 := by
    exact putTrace_kept (hs) _ _
  clear_value s3
  extract_lets -merge -useContext -underBinder +onlyGivenNames next5
  extract_lets -merge -useContext -underBinder +onlyGivenNames s6
  have h7 : Kept s0 s6 := by
    exact State.modStream_kept (h4) _ _ _
  clear_value s6
  refine Kept.ite ?_ ?_
  · exact beginMark_kept (h7) _ _
  · exact h7

theorem markCmd_kept : (markCmd).Kept := by
  exact control_kept (fun s0 => (fun x1 x2 x3 x4 h5 => by
    exact markRun_kept (h5) _ _ _)) _ _

theorem execMark_kept {s0 : State} {s : State} (hs : Kept s0 s) (p : Fin 16) (t : StreamTag) :
    OutKept s0 (execMark p t s) := by
  unfold execMark
  refine OutKept.next ?_
  exact issue_kept markCmd_kept (hs) _ _

theorem waitCmd_kept : (waitCmd).Kept := by
  exact control_kept (fun s0 => (fun x1 x2 x3 x4 h5 => by
    exact h5)) _ _

theorem execWait_kept {s0 : State} {s : State} (hs : Kept s0 s) (p : Fin 16) (t : StreamTag) :
    OutKept s0 (execWait p t s) := by
  unfold execWait
  refine OutKept.next ?_
  exact issue_kept waitCmd_kept (hs) _ _

theorem fenceRun_kept {s0 : State} {s : State} (hs : Kept s0 s) (p : Fin 16) (t : StreamTag) (g : Granule) :
    Kept s0 (fenceRun s p t g) := by
  unfold fenceRun
  refine Kept.ite ?_ ?_
  · exact State.modStream_kept (hs) _ _ _
  · exact hs

theorem fenceCmd_kept : (fenceCmd).Kept := by
  exact control_kept (fun s0 => (fun x1 x2 x3 x4 h5 => by
    exact fenceRun_kept (h5) _ _ _)) _ _

theorem execFence_kept {s0 : State} {s : State} (hs : Kept s0 s) (p : Fin 16) (t : StreamTag) :
    OutKept s0 (execFence p t s) := by
  unfold execFence
  refine OutKept.next ?_
  exact issue_kept fenceCmd_kept (hs) _ _

theorem sigRemote_kept {s0 : State} {s : State} (hs : Kept s0 s) (p : Fin 16) (t : StreamTag) (g : Granule) (n : ℕ) :
    Kept s0 (sigRemote s p t g n) := by
  unfold sigRemote
  split
  · exact hs
  · extract_lets -merge -useContext -underBinder +onlyGivenNames l1
    extract_lets -merge -useContext -underBinder +onlyGivenNames ext2
    extract_lets -merge -useContext -underBinder +onlyGivenNames w3
    exact sendFrame_kept (linkSet_kept (hs) _ _) _ _ _ _ _

theorem sigCmd_kept : (sigCmd).Kept := by
  unfold sigCmd
  refine ⟨fun s0 s p t g n h => ?_, fun _ _ _ _ _ h => h⟩
  dsimp -zeta only
  exact Kept.iteState (Effect.done_kept h) (Kept.iteState (Kept.effect (sigRemote_kept h _ _ _ _)) h)

theorem execSig_kept {s0 : State} {s : State} (hs : Kept s0 s) (p : Fin 16) (t : StreamTag) :
    OutKept s0 (execSig p t s) := by
  unfold execSig
  refine OutKept.next ?_
  exact issue_kept sigCmd_kept (hs) _ _

theorem stepRun_kept {s0 : State} {s : State} (hs : Kept s0 s) (p : Fin 16) (t : StreamTag) (g : Granule) :
    Kept s0 (stepRun s p t g).state := by
  unfold stepRun
  extract_lets -merge -useContext -underBinder +onlyGivenNames q1
  extract_lets -merge -useContext -underBinder +onlyGivenNames n2
  extract_lets -merge -useContext -underBinder +onlyGivenNames s3
  have h4 : Kept s0 s3 := by
    exact State.modStream_kept (hs) _ _ _
  clear_value s3
  extract_lets -merge -useContext -underBinder +onlyGivenNames s5
  have h6 : Kept s0 s5 := by
    refine Kept.ite ?_ ?_
    · exact commitRungs_kept (State.modPart_kept (h4) _ _) _
    · exact h4
  clear_value s5
  extract_lets -merge -useContext -underBinder +onlyGivenNames r7
  have h8 : Kept s0 r7.2 := by
    refine Op.exec_kept ?_ (h6)
    exact OpKept.each (fun x9 => by
      exact commitSlot_kept _ _ _ _)
  clear_value r7
  split
  · refine Kept.effect ?_
    exact h8
  · exact Effect.done_kept (State.modPart_kept (State.modStream_kept (h8) _ _ _) _ _)

theorem stepCmd_kept : (stepCmd).Kept := by
  unfold stepCmd
  refine ⟨fun s0 s p t g n h => ?_, fun _ _ _ _ _ h => h⟩
  dsimp -zeta only
  exact stepRun_kept h _ _ _

theorem execStep_kept {s0 : State} {s : State} (hs : Kept s0 s) (p : Fin 16) (t : StreamTag) :
    OutKept s0 (execStep p t s) := by
  unfold execStep
  refine OutKept.next ?_
  exact issue_kept stepCmd_kept (hs) _ _

theorem endRun_kept {s0 : State} {s : State} (hs : Kept s0 s) (p : Fin 16) (t : StreamTag) (a_uniq_229061 : Granule) :
    Kept s0 (endRun s p t a_uniq_229061) := by
  unfold endRun
  exact State.modStream_kept (hs) _ _ _

theorem endCmd_kept : (endCmd).Kept := by
  exact control_kept (fun s0 => (fun x1 x2 x3 x4 h5 => by
    exact endRun_kept (h5) _ _ _)) _ _

theorem completePart_kept {s0 : State} {s : State} (hs : Kept s0 s) (p : Fin 16) :
    Kept s0 (completePart s p) := by
  unfold completePart
  extract_lets -merge -useContext -underBinder +onlyGivenNames x1
  refine Kept.ite ?_ ?_
  · exact answerStop_kept (State.setPart_kept (hs) _ _) _
  · exact hs

theorem execEndStream_kept {s0 : State} {s : State} (hs : Kept s0 s) (p : Fin 16) (t : StreamTag) :
    OutKept s0 (execEndStream p t s) := by
  unfold execEndStream
  refine OutKept.next ?_
  exact completePart_kept (issue_kept endCmd_kept (hs) _ _) _

theorem installTable_kept {s0 : State} {s : State} (hs : Kept s0 s) (p : Fin 16) (f : Flight) :
    Kept s0 (installTable s p f) := by
  unfold installTable
  split
  · exact State.modPart_kept (clearArray_kept hs _ _ _ _) _ _
  · exact hs

theorem execWaitTimeout_kept {s0 : State} {s : State} (hs : Kept s0 s) (p : Fin 16) (t : StreamTag) :
    OutKept s0 (execWaitTimeout p t s) := by
  unfold execWaitTimeout
  extract_lets -merge -useContext -underBinder +onlyGivenNames q1
  split
  · refine OutKept.ite ?_ ?_
    · extract_lets -merge -useContext -underBinder +onlyGivenNames s2
      have h3 : Kept s0 s2 := by
        exact State.setStream_kept (hs) _ _ _
      clear_value s2
      refine OutKept.next ?_
      exact freeze_kept (h3) _ _
    · refine OutKept.next ?_
      exact hs
  · refine OutKept.next ?_
    exact hs

theorem execProgressWatchdogExpiry_kept {s0 : State} {s : State} (hs : Kept s0 s) (p : Fin 16) (t : StreamTag) :
    OutKept s0 (execProgressWatchdogExpiry p t s) := by
  unfold execProgressWatchdogExpiry
  extract_lets -merge -useContext -underBinder +onlyGivenNames q1
  refine OutKept.ite ?_ ?_
  · extract_lets -merge -useContext -underBinder +onlyGivenNames s2
    have h3 : Kept s0 s2 := by
      exact State.setStream_kept (hs) _ _ _
    clear_value s2
    refine OutKept.next ?_
    exact freeze_kept (h3) _ _
  · refine OutKept.next ?_
    exact hs

theorem drainDone_kept {s0 : State} {s : State} (hs : Kept s0 s) (p : Fin 16) :
    Kept s0 (drainDone p s) := by
  unfold drainDone
  extract_lets -merge -useContext -underBinder +onlyGivenNames x1
  refine Kept.ite ?_ ?_
  · exact answerStop_kept (State.setPart_kept (hs) _ _) _
  · exact hs

end Sys2Proof.Machine
end

