-- ==== Sys2Proof/Laws/KeptResets.lean ====
section
/-! SUPPORT. What the operations of Machine/Resets.lean keep (Laws/Kept.lean): one lemma each, cited by the lemmas of what calls
them. -/

namespace Sys2Proof.Machine

set_option maxRecDepth 4000

theorem clearCoreSram_kept {s0 : State} {s : State} (hs : Kept s0 s) (nn : ℕ) :
    Kept s0 (clearCoreSram s nn) := by
  unfold clearCoreSram
  exact Kept.foldl hs (fun a1 b2 h3 => (clearArray_kept h3 _ _ _ _))

theorem State.reset_canonical : State.reset.Canonical := by constructor <;> rfl

theorem freeBytes_wf (l : List (ℕ × Byte)) (lo n : ℕ) : Sparse.wf 0#8 (freeBytes l lo n) = true :=
  Sparse.foldl_wf _ (fun _ _ h => Sparse.set_wf _ _ h) l rfl

/-- Ports out of service keep the canonical form when the others leave it. -/
theorem deadPorts_wf {m : Sparse Port} (hm : Sparse.wf Port.off m = true) :
    Sparse.wf Port.off ((m.map (fun e => (e.1, e.2.stop))).filter (fun e => e.2.dead)) = true := by
  have main : ∀ lo, Sparse.wfBy (fun _ => Port.off) lo m = true →
      Sparse.wfBy (fun _ => Port.off) lo ((m.map (fun e => (e.1, e.2.stop))).filter (fun e => e.2.dead)) = true := by
    clear hm
    induction m with
    | nil => intro _ _; rfl
    | cons e m ih =>
      intro lo h
      obtain ⟨k, v⟩ := e
      simp only [Sparse.wfBy, Bool.and_eq_true, decide_eq_true_eq] at h
      rw [List.map_cons, List.filter_cons]
      split
      · rename_i hd
        simp only [Sparse.wfBy, Bool.and_eq_true, decide_eq_true_eq]
        refine ⟨⟨h.1.1, fun hv => ?_⟩, ih _ h.2⟩
        rw [hv] at hd
        simp [Port.off] at hd
      · exact Sparse.wfBy_mono (by omega) (ih _ h.2)
  exact main 0 hm

theorem keptRegs_wf {s : State} (c : s.Canonical) (cause : ℕ) : Sparse.wfBy resetWord 0 (keptRegs s cause) = true :=
  Sparse.set_wf' (f := resetWord) 0xE0000204 _ (Sparse.set_wf' (f := resetWord) 0xE0000008 _ (Sparse.filter_wfBy _ c.regs))

theorem clearCoreRegs_kept {s0 : State} {s : State} (hs : Kept s0 s) (nn : ℕ) :
    Kept s0 (clearCoreRegs s nn) := by
  unfold clearCoreRegs
  extract_lets -merge -useContext -underBinder +onlyGivenNames s1
  have h2 : Kept s0 s1 := by
    refine Kept.foldl ?_ (fun a4 b5 h3 => ?_)
    · exact hs
    · exact resetRange_kept (h3) _ _
  clear_value s1
  exact resetRange_kept (h2) _ _

theorem clearEngines_kept {s0 : State} {s : State} (hs : Kept s0 s) (p : Fin 16) :
    Kept s0 (clearEngines s p) := by
  unfold clearEngines
  exact Kept.foldl hs (fun a1 b2 h3 => (State.modCore_kept (clearCoreRegs_kept (clearCoreSram_kept h3 _) _) _ _))

theorem resetObjects_kept {s0 : State} {s : State} (hs : Kept s0 s) (p : Fin 16) (rise : Bool) :
    Kept s0 (resetObjects s p rise) := by
  unfold resetObjects
  extract_lets -merge -useContext -underBinder +onlyGivenNames x1
  refine Kept.foldl ?_ (fun a4 b5 h2 => ?_)
  · exact hs
  · extract_lets -merge -useContext -underBinder +onlyGivenNames n3
    exact soSet_kept (h2) _ _

theorem dropLinkWaits_kept {s0 : State} {s : State} (hs : Kept s0 s) (p : Fin 16) :
    Kept s0 (dropLinkWaits s p) := by
  unfold dropLinkWaits
  refine Kept.foldl ?_ (fun a2 b3 h1 => ?_)
  · exact hs
  · exact linkMod_kept (h1) _ _

theorem clearTrace_kept {s0 : State} {s : State} (hs : Kept s0 s) (p : Fin 16) :
    Kept s0 (clearTrace s p) := by
  unfold clearTrace
  exact resetRange_kept (State.modPart_kept (hs) _ _) _ _

theorem loseWindow_kept {s0 : State} {s : State} (hs : Kept s0 s) (p : Fin 16) (e : PrefEntry) :
    Kept s0 (loseWindow p s e) := by
  unfold loseWindow
  refine Kept.ite ?_ ?_
  · exact hs
  · extract_lets -merge -useContext -underBinder +onlyGivenNames s1
    have h2 : Kept s0 (s1) := by
      unfold s1
      exact Op.exec_kept (OpKept.each (fun x3 => (writeMem_kept _ _ _ _))) hs
    clear_value s1
    refine Kept.draw 1 (h2) ⟨rfl, rfl, rfl⟩ (fun c => { c with regs := c.regs })

theorem resetPart_kept {s0 : State} {s : State} (hs : Kept s0 s) (p : Fin 16) :
    Kept s0 (resetPart s p) := by
  unfold resetPart
  extract_lets -merge -useContext -underBinder +onlyGivenNames s1
  have h2 : Kept s0 (s1) := by
    unfold s1
    exact stopUpds_kept hs _
  clear_value s1
  extract_lets -merge -useContext -underBinder +onlyGivenNames s3
  have h4 : Kept s0 (s3) := by
    unfold s3
    split
    · exact answer_kept (State.modPart_kept h2 _ _) _ _
    · exact h2
  clear_value s3
  extract_lets -merge -useContext -underBinder +onlyGivenNames s5
  have h6 : Kept s0 (s5) := by
    unfold s5
    exact answerStops_kept h4 _ _
  clear_value s5
  extract_lets -merge -useContext -underBinder +onlyGivenNames s7
  have h8 : Kept s0 (s7) := by
    unfold s7
    exact dropLinkWaits_kept (resetObjects_kept (clearTrace_kept (resetCounters_kept (clearEngines_kept h6 _) _) _) _ _) _
  clear_value s7
  extract_lets -merge -useContext -underBinder +onlyGivenNames x9
  extract_lets -merge -useContext -underBinder +onlyGivenNames s10
  have h11 : Kept s0 (s10) := by
    unfold s10
    refine Kept.upd (h8) ⟨rfl, rfl, rfl⟩ (fun c => { c with slots := Sparse.clearRange_wf _ _ c.slots })
  clear_value s10
  extract_lets -merge -useContext -underBinder +onlyGivenNames s12
  have h13 : Kept s0 (s12) := by
    unfold s12
    exact resetRange_kept h11 _ _
  clear_value s12
  extract_lets -merge -useContext -underBinder +onlyGivenNames s14
  have h15 : Kept s0 (s14) := by
    unfold s14
    exact Kept.foldl h13 (fun a16 b17 h18 => (loseWindow_kept h18 _ _))
  clear_value s14
  extract_lets -merge -useContext -underBinder +onlyGivenNames x19
  exact State.setPart_kept h15 _ _

theorem loseCore_kept {s0 : State} {s : State} (hs : Kept s0 s) (nn : ℕ) :
    Kept s0 (loseCore s nn) := by
  unfold loseCore
  extract_lets -merge -useContext -underBinder +onlyGivenNames s1
  have h2 : Kept s0 (s1) := by
    unfold s1
    exact State.modCore_kept (clearCoreRegs_kept (clearCoreSram_kept hs _) _) _ _
  clear_value s1
  extract_lets -merge -useContext -underBinder +onlyGivenNames lo3
  refine Kept.draw 1 (h2) ⟨rfl, rfl, rfl⟩ (fun c => { c with store := Sparse.foldl_wf _ (fun _ _ hm0 => (Sparse.set_wf _ _ hm0)) _ (Sparse.clearRange_wf _ _ c.store), storeErrs := Sparse.clearRange_wf _ _ c.storeErrs })

theorem execIdleSleep_kept {s0 : State} {s : State} (hs : Kept s0 s) (dom : ℕ) :
    OutKept s0 (execIdleSleep dom s) := by
  unfold execIdleSleep
  refine OutKept.ite ?_ ?_
  · refine OutKept.next ?_
    extract_lets -merge -useContext -underBinder +onlyGivenNames y1
    have h2 : Kept s0 y1 := by
      exact domMod_kept (hs) _ _
    clear_value y1
    exact Kept.plain (h2)
  · refine OutKept.next ?_
    exact hs

theorem sleepPlls_kept {s0 : State} {s : State} (hs : Kept s0 s) :
    Kept s0 (sleepPlls s) := by
  unfold sleepPlls
  refine Kept.foldl ?_ (fun a1 b2 h3 => ?_)
  · exact hs
  · extract_lets -merge -useContext -underBinder +onlyGivenNames w4
    extract_lets -merge -useContext -underBinder +onlyGivenNames off5
    exact Kept.ite (setRaw_kept h3 _ _) h3

theorem execPowerStopDone_kept {s0 : State} {s : State} (hs : Kept s0 s) (dom : ℕ) :
    OutKept s0 (execPowerStopDone dom s) := by
  unfold execPowerStopDone
  extract_lets -merge -useContext -underBinder +onlyGivenNames x1
  refine OutKept.ite ?_ ?_
  · extract_lets -merge -useContext -underBinder +onlyGivenNames keep2
    extract_lets -merge -useContext -underBinder +onlyGivenNames s3
    have h4 : Kept s0 (s3) := by
      unfold s3
      exact domSet_kept hs _ _
    clear_value s3
    extract_lets -merge -useContext -underBinder +onlyGivenNames s5
    have h6 : Kept s0 (s5) := by
      unfold s5
      exact Kept.ite (loseCore_kept h4 _) h4
    clear_value s5
    extract_lets -merge -useContext -underBinder +onlyGivenNames keepFlaps7
    extract_lets -merge -useContext -underBinder +onlyGivenNames ports8
    extract_lets -merge -useContext -underBinder +onlyGivenNames s9
    have h10 : Kept s0 (s9) := by
      unfold s9
      refine sleepPlls_kept ?_
      refine Kept.ite ?_ ?_
      · refine Kept.upd (h6) ⟨rfl, rfl, rfl⟩ (fun c => { c with ports := Sparse.set_wf _ _ c.ports })
      · exact h6
    clear_value s9
    exact OutKept.next (Kept.ite (demandWake_kept h10 _) h10)
  · exact OutKept.next hs

theorem bumpPm_kept {s0 : State} {s : State} (hs : Kept s0 s) (ofs : ℕ) (n : ℕ) :
    Kept s0 (bumpPm s ofs n) := by
  unfold bumpPm
  exact bump_kept (hs) _ _ _

theorem setCxlState_kept {s0 : State} {s : State} (hs : Kept s0 s) (x : ℕ) (v : ℕ) :
    Kept s0 (setCxlState s x v) := by
  unfold setCxlState
  exact setRaw_kept hs _ _

theorem cxlRetrain_kept {s0 : State} {s : State} (hs : Kept s0 s) (x : ℕ) :
    Kept s0 (cxlRetrain s x) := by
  unfold cxlRetrain
  exact Kept.ite (setCxlState_kept hs _ _) hs

theorem resetBlock_kept {s0 : State} {s : State} (h : Kept s0 s) (b : ℕ) :
    Kept s0 (resetBlock s b) := by
  unfold resetBlock
  extract_lets i1 core2
  split
  · exact State.modCore_kept (resetRange_kept h _ _) _ _
  · exact State.modCore_kept (resetRange_kept (clearArray_kept (clearArray_kept h _ _ _ _) _ _ _ _) _ _) _ _
  · exact resetRange_kept h _ _
  · exact State.modCore_kept (resetRange_kept (clearArray_kept h _ _ _ _) _ _) _ _
  · exact resetRange_kept h _ _
  · exact resetRange_kept h _ _
  · exact Kept.ite (resetRange_kept h _ _) (Kept.plain h)
  · exact Kept.ite (resetRange_kept h _ _) (Kept.upd h ⟨rfl, rfl, rfl⟩ (fun c => { c with slots := Sparse.nil_wf }))
  · exact Kept.ite (State.modPart_kept h _ _)
      (Kept.so h (fun c => Sparse.foldl_wf _ (fun _ _ hm => Sparse.modify_wf _ _ hm) _ c.so))
  · exact Kept.ite (resetRange_kept h _ _) (Kept.ite (resetRange_kept h _ _) h)
  · exact Kept.ite (cxlRetrain_kept (resetRange_kept h _ _) _) h
  · exact Kept.ite (Kept.upd (resetRange_kept h (0xB0000104 + 0x80 * i1) 0x54) ⟨rfl, rfl, rfl⟩ (fun c => { c with ports := Sparse.modify_wf _ _ c.ports })) h
  · exact Kept.ite (Kept.upd (resetRange_kept h (0xC0000204 + 0x80 * i1) 0x54) ⟨rfl, rfl, rfl⟩ (fun c => { c with ports := Sparse.foldl_wf _ (fun _ _ hm => Sparse.modify_wf _ _ hm) _ c.ports })) h
  · exact resetRange_kept h _ _
  · exact resetRange_kept h _ _
  · exact resetRange_kept (resetRange_kept (resetRange_kept h _ _) _ _) _ _
  · exact h

theorem faultOnReset_kept {s0 : State} {s : State} (hs : Kept s0 s) (b : ℕ) :
    Kept s0 (faultOnReset s b) := by
  unfold faultOnReset
  extract_lets -merge -useContext -underBinder +onlyGivenNames p1
  refine Kept.ite ?_ ?_
  · extract_lets -merge -useContext -underBinder +onlyGivenNames n2
    exact freeze_kept (Kept.free' 1 hs) _ _
  · exact hs

theorem assertBlk_kept {s0 : State} {s : State} (hs : Kept s0 s) (b : ℕ) (width : ℕ) (iso : Bool) :
    Kept s0 (assertBlk s b width iso) := by
  unfold assertBlk
  extract_lets -merge -useContext -underBinder +onlyGivenNames s1
  have h2 : Kept s0 s1 := by
    exact blkMod_kept (hs) _ _
  clear_value s1
  refine resetBlock_kept ?_ _
  refine Kept.ite ?_ ?_
  · exact faultOnReset_kept (h2) _
  · exact h2

theorem trainPorts_kept {s0 : State} {s : State} (hs : Kept s0 s) (l : List ℕ) :
    Kept s0 (trainPorts s l) := by
  unfold trainPorts
  extract_lets -merge -useContext -underBinder +onlyGivenNames go1
  exact Kept.upd hs ⟨rfl, rfl, rfl⟩ (fun c => { c with ports := Sparse.foldl_wf _ (fun _ _ hm => Sparse.modify_wf _ _ hm) _ c.ports })

theorem releaseBlk_kept {s0 : State} {s : State} (hs : Kept s0 s) (b : ℕ) :
    Kept s0 (releaseBlk s b) := by
  unfold releaseBlk
  extract_lets -merge -useContext -underBinder +onlyGivenNames x1
  extract_lets -merge -useContext -underBinder +onlyGivenNames d2
  exact Kept.ite (Kept.ite (demandWake_kept (blkSet_kept hs _ _) _) (Kept.ite (blkSet_kept hs _ _) (trainPorts_kept (blkSet_kept hs _ _) _))) hs

theorem releaseSoft_kept {s0 : State} {s : State} (hs : Kept s0 s) (b : ℕ) :
    Kept s0 (releaseSoft s b) := by
  unfold releaseSoft
  extract_lets -merge -useContext -underBinder +onlyGivenNames x1
  extract_lets -merge -useContext -underBinder +onlyGivenNames s2
  have h3 : Kept s0 (s2) := by
    unfold s2
    exact releaseBlk_kept (blkSet_kept hs _ _) _
  clear_value s2
  refine Kept.ite ?_ ?_
  · split
    · exact resetPart_kept h3 _
    · exact h3
  · exact h3

theorem setSoft_kept {s0 : State} {s : State} (hs : Kept s0 s) (b : ℕ) (on : Bool) :
    Kept s0 (setSoft s b on) := by
  unfold setSoft
  extract_lets -merge -useContext -underBinder +onlyGivenNames x1
  refine Kept.ite ?_ ?_
  · extract_lets -merge -useContext -underBinder +onlyGivenNames s2
    have h3 : Kept s0 (s2) := by
      unfold s2
      exact blkSet_kept hs _ _
    clear_value s2
    exact Kept.ite h3 (Kept.ite (blkMod_kept h3 _ _) (Kept.ite (blkMod_kept h3 _ _) (assertBlk_kept h3 _ _ _)))
  · exact Kept.ite (releaseSoft_kept hs _) hs

theorem endDrain_kept {s0 : State} {s : State} (hs : Kept s0 s) (b : ℕ) (iso : Bool) :
    Kept s0 (endDrain s b iso) := by
  unfold endDrain
  extract_lets -merge -useContext -underBinder +onlyGivenNames part1
  extract_lets -merge -useContext -underBinder +onlyGivenNames s2
  have h3 : Kept s0 (s2) := by
    unfold s2
    exact assertBlk_kept hs _ _ _
  clear_value s2
  exact releaseBlk_kept (blkMod_kept h3 _ _) _

theorem coverBlk_kept {s0 : State} {s : State} (hs : Kept s0 s) (b : ℕ) :
    Kept s0 (coverBlk s b) := by
  unfold coverBlk
  extract_lets -merge -useContext -underBinder +onlyGivenNames x1
  exact Kept.ite (blkSet_kept hs _ _) (Kept.ite (blkSet_kept hs _ _) (releaseBlk_kept (assertBlk_kept hs _ _ _) _))

theorem partitionReset_kept {s0 : State} {s : State} (hs : Kept s0 s) (p : Fin 16) :
    Kept s0 (partitionReset s p) := by
  unfold partitionReset
  extract_lets -merge -useContext -underBinder +onlyGivenNames s1
  have h2 : Kept s0 (s1) := by
    unfold s1
    exact resetPart_kept hs _
  clear_value s1
  extract_lets -merge -useContext -underBinder +onlyGivenNames cores3
  extract_lets -merge -useContext -underBinder +onlyGivenNames s4
  have h5 : Kept s0 (s4) := by
    unfold s4
    exact demandAll_kept h2 _
  clear_value s4
  exact Kept.foldl h5 (fun a6 b7 h8 => (coverBlk_kept h8 _))

theorem execDrainIdle_kept {s0 : State} {s : State} (hs : Kept s0 s) (b : ℕ) :
    OutKept s0 (execDrainIdle b s) := by
  unfold execDrainIdle
  refine OutKept.next ?_
  refine Kept.ite ?_ ?_
  · exact endDrain_kept (hs) _ _
  · exact hs

theorem execDrainTimeout_kept {s0 : State} {s : State} (hs : Kept s0 s) (b : ℕ) :
    OutKept s0 (execDrainTimeout b s) := by
  unfold execDrainTimeout
  refine OutKept.ite ?_ ?_
  · refine OutKept.next ?_
    exact endDrain_kept (postBit_kept (setRaw_kept (bumpPm_kept (hs) _ _) _ _) _ _) _ _
  · refine OutKept.next ?_
    exact hs

theorem execRstHeldClkExpiry_kept {s0 : State} {s : State} (hs : Kept s0 s) (b : ℕ) :
    OutKept s0 (execRstHeldClkExpiry b s) := by
  unfold execRstHeldClkExpiry
  refine OutKept.ite ?_ ?_
  · refine OutKept.next ?_
    exact postBit_kept (blkMod_kept (hs) _ _) _ _
  · refine OutKept.next ?_
    exact hs

theorem releaseDomain_kept {s0 : State} {s : State} (hs : Kept s0 s) (d : ℕ) :
    Kept s0 (releaseDomain s d) := by
  unfold releaseDomain
  refine Kept.foldl ?_ (fun a2 b3 h1 => ?_)
  · exact hs
  · exact releaseBlk_kept (h1) _

theorem execStateMismatch_kept {s0 : State} {s : State} (hs : Kept s0 s) (b : ℕ) (count : ℕ) :
    OutKept s0 (execStateMismatch b count s) := by
  unfold execStateMismatch
  refine OutKept.ite ?_ ?_
  · extract_lets -merge -useContext -underBinder +onlyGivenNames s1
    have h2 : Kept s0 s1 := by
      exact bump_kept (setRaw_kept (postBit_kept (hs) _ _) _ _) _ _ _
    clear_value s1
    extract_lets -merge -useContext -underBinder +onlyGivenNames x3
    refine OutKept.next ?_
    refine Kept.ite ?_ ?_
    · exact domSet_kept (h2) _ _
    · exact h2
  · refine OutKept.next ?_
    exact hs

theorem execPllLock_kept {s0 : State} {s : State} (hs : Kept s0 s) (d : Fin 8) :
    OutKept s0 (execPllLock d s) := by
  unfold execPllLock
  extract_lets -merge -useContext -underBinder +onlyGivenNames s1
  have h2 : Kept s0 s1 := by
    exact setRaw_kept (hs) _ _
  clear_value s1
  extract_lets -merge -useContext -underBinder +onlyGivenNames ds3
  extract_lets -merge -useContext -underBinder +onlyGivenNames s4
  have h5 : Kept s0 s4 := by
    refine Kept.foldl ?_ (fun a7 b8 h6 => ?_)
    · exact h2
    · exact domMod_kept (h6) _ _
  clear_value s4
  refine OutKept.next ?_
  refine Kept.ite ?_ ?_
  · exact h5
  · exact Kept.plain (h5)

theorem pllFail_kept {s0 : State} {s : State} (hs : Kept s0 s) (d : ℕ) :
    Kept s0 (pllFail d s) := by
  unfold pllFail
  extract_lets -merge -useContext -underBinder +onlyGivenNames s1
  have h2 : Kept s0 (s1) := by
    unfold s1
    exact setRaw_kept hs _ _
  clear_value s1
  exact Kept.foldl h2 (fun a3 b4 h5 => (blkMod_kept h5 _ _))

theorem execGovernorGrant_kept {s0 : State} {s : State} (hs : Kept s0 s) (fall : Bool) :
    OutKept s0 (execGovernorGrant fall s) := by
  unfold execGovernorGrant
  refine OutKept.ite ?_ ?_
  · refine OutKept.next ?_
    exact Kept.plain (hs)
  · refine OutKept.ite ?_ ?_
    · refine OutKept.next ?_
      exact hs
    · refine OutKept.next ?_
      exact Kept.plain (hs)

theorem domUp_kept {s0 : State} {s : State} (hs : Kept s0 s) (d : ℕ) :
    Kept s0 (domUp s d) := by
  unfold domUp
  extract_lets -merge -useContext -underBinder +onlyGivenNames s1
  have h2 : Kept s0 (s1) := by
    unfold s1
    exact domMod_kept hs _ _
  clear_value s1
  exact releaseDomain_kept (trainPorts_kept h2 _) _

theorem rampDone_kept {s0 : State} {s : State} (hs : Kept s0 s) (fall : Bool) (i : ℕ) :
    Kept s0 (rampDone s fall i) := by
  unfold rampDone
  split
  · refine Kept.ite ?_ ?_
    · refine Kept.ite ?_ ?_
      · exact Kept.plain (hs)
      · refine Kept.foldl ?_ (fun a2 b3 h1 => ?_)
        · exact Kept.plain (hs)
        · exact domUp_kept (h1) _
    · exact hs
  · exact hs

theorem startMove_kept {s0 : State} {s : State} (hs : Kept s0 s) :
    Kept s0 (startMove s) := by
  unfold startMove
  extract_lets -merge -useContext -underBinder +onlyGivenNames n1
  refine Kept.ite ?_ ?_
  · exact Kept.plain (hs)
  · refine Kept.ite ?_ ?_
    · exact hs
    · extract_lets -merge -useContext -underBinder +onlyGivenNames w2
      extract_lets -merge -useContext -underBinder +onlyGivenNames y3
      have h4 : Kept s0 y3 := by
        exact setRaw_kept (hs) _ _
      clear_value y3
      extract_lets -merge -useContext -underBinder +onlyGivenNames y5
      extract_lets -merge -useContext -underBinder +onlyGivenNames s6
      have h7 : Kept s0 s6 := by
        exact Kept.plain (h4)
      clear_value s6
      refine Kept.ite ?_ ?_
      · exact Kept.plain (h7)
      · exact h7

theorem execOpMoveDone_kept {s0 : State} {s : State} (hs : Kept s0 s) :
    OutKept s0 (execOpMoveDone s) := by
  unfold execOpMoveDone
  refine OutKept.ite ?_ ?_
  · extract_lets -merge -useContext -underBinder +onlyGivenNames n1
    extract_lets -merge -useContext -underBinder +onlyGivenNames s2
    have h3 : Kept s0 s2 := by
      exact setRaw_kept (hs) _ _
    clear_value s2
    refine OutKept.next ?_
    exact startMove_kept (Kept.plain (h3))
  · refine OutKept.next ?_
    exact hs

theorem execPrstGlitch_kept {s0 : State} {s : State} (hs : Kept s0 s) :
    OutKept s0 (execPrstGlitch s) := by
  unfold execPrstGlitch
  refine OutKept.next ?_
  exact bumpPm_kept (hs) _ _

theorem wideReset_kept {s0 : State} {s : State} (h : Kept s0 s) (cause : ℕ) :
    Kept s0 (wideReset s cause) := by
  unfold wideReset
  exact Kept.draw 1 h ⟨rfl, rfl, rfl⟩ (fun c => { State.reset_canonical with transients := c.transients, rowsUsed := c.rowsUsed, lanesUsed := c.lanesUsed, flash := c.flash, regs := keptRegs_wf c cause, mem := freeBytes_wf _ _ _, store := freeBytes_wf _ _ _, errs := Sparse.foldl_wf _ (fun _ _ hm => Sparse.set_wf _ _ hm) _ Sparse.nil_wf, frames := Sparse.filter_wf _ c.frames, ports := deadPorts_wf c.ports, doms := Sparse.set_wf _ _ Sparse.nil_wf })

theorem flashCut_kept {s0 : State} {s : State} (hs : Kept s0 s) :
    Kept s0 (flashCut s) := by
  unfold flashCut
  split
  · exact hs
  · extract_lets -merge -useContext -underBinder +onlyGivenNames s1
    have h2 : Kept s0 s1 := setRaw_kept hs _ _
    clear_value s1
    refine Kept.ite (Kept.upd h2 ⟨rfl, rfl, rfl⟩ (fun c => { c with regs := c.regs })) ?_
    extract_lets slot lo rest flash
    exact Kept.draw 1 h2 ⟨rfl, rfl, rfl⟩ (fun c => { c with
      flash := Sparse.foldl_wf _ (fun _ _ hm => Sparse.set_wf _ _ hm) _ (Sparse.clearRange_wf _ _ c.flash) })

theorem execPrstNAssert_kept {s0 : State} {s : State} (hs : Kept s0 s) :
    OutKept s0 (execPrstNAssert s) := by
  unfold execPrstNAssert
  extract_lets -merge -useContext -underBinder +onlyGivenNames s1
  have h2 : Kept s0 (s1) := by
    unfold s1
    exact Kept.ite (wideReset_kept (flashCut_kept hs) _) hs
  clear_value s1
  refine OutKept.next ?_
  refine Kept.upd (h2) ⟨rfl, rfl, rfl⟩ (fun c => { c with regs := c.regs })

theorem execPrstNRelease_kept {s0 : State} {s : State} (hs : Kept s0 s) :
    OutKept s0 (execPrstNRelease s) := by
  unfold execPrstNRelease
  refine OutKept.next ?_
  exact Kept.upd (hs) ⟨rfl, rfl, rfl⟩ (fun c => { c with regs := c.regs })

theorem execModuleWatchdogExpiry_kept {s0 : State} {s : State} (hs : Kept s0 s) :
    OutKept s0 (execModuleWatchdogExpiry s) := by
  unfold execModuleWatchdogExpiry
  refine OutKept.ite ?_ ?_
  · extract_lets -merge -useContext -underBinder +onlyGivenNames s1
    have h2 : Kept s0 s1 := by
      exact wideReset_kept (hs) _
    clear_value s1
    refine OutKept.next ?_
    exact Kept.upd (h2) ⟨rfl, rfl, rfl⟩ (fun c => { c with regs := c.regs })
  · refine OutKept.next ?_
    exact hs

theorem execModuleWatchdogRelease_kept {s0 : State} {s : State} (hs : Kept s0 s) :
    OutKept s0 (execModuleWatchdogRelease s) := by
  unfold execModuleWatchdogRelease
  refine OutKept.next ?_
  exact Kept.upd (hs) ⟨rfl, rfl, rfl⟩ (fun c => { c with regs := c.regs })

theorem execRemoteResetAssert_kept {s0 : State} {s : State} (hs : Kept s0 s) :
    OutKept s0 (execRemoteResetAssert s) := by
  unfold execRemoteResetAssert
  refine OutKept.next ?_
  refine Kept.ite ?_ ?_
  · exact wideReset_kept (hs) _
  · exact hs

end Sys2Proof.Machine
end

