-- ==== Sys2Proof/Laws/KeptAccum.lean ====
section
/-! SUPPORT. What the operations of Machine/Accum.lean keep (Laws/Kept.lean): one lemma each, cited by the lemmas of what calls
them. -/

namespace Sys2Proof.Machine

set_option maxRecDepth 4000

theorem Work.modCore_kept (w : Work) (f : Core → Core) :
    OpKept (Work.modCore w f) := by
  unfold Work.modCore
  refine OpKept.mod (fun s0 s h1 => ?_)
  exact State.modCore_kept (h1) _ _

theorem Work.getCore_kept (w : Work) :
    OpKept (Work.getCore w) := by
  unfold Work.getCore
  refine OpKept.bind ?_ (fun x1 => ?_)
  · exact OpKept.get
  · exact OpKept.pure _

theorem Work.count_kept (w : Work) (code : ℕ) (lo : ℕ) (ovf : ℕ) (bit : ℕ) (n : ℕ) :
    OpKept (Work.count w code lo ovf bit n) := by
  unfold Work.count
  refine OpKept.mod (fun s0 s h1 => ?_)
  exact bumpCore_kept (h1) _ _ _ _ _ _

theorem Work.waits_kept (w : Work) (code : ℕ) (lo : ℕ) (ovf : ℕ) (bit : ℕ) :
    OpKept (Work.waits w code lo ovf bit) := by
  unfold Work.waits
  refine OpKept.mod (fun s0 s h1 => ?_)
  refine bumpCore_kept ?_ _ _ _ _ _ _
  refine Kept.draw 1 (h1) ⟨rfl, rfl, rfl⟩ (fun c => { c with regs := c.regs })

theorem Work.event_kept (w : Work) (code : ℕ) (n : ℕ) :
    OpKept (Work.event w code n) := by
  unfold Work.event
  refine OpKept.mod (fun s0 s h1 => ?_)
  exact countEvent_kept (h1) _ _ _ _ _ _

theorem Work.inf_kept (w : Work) (unit : ℕ) (tile : List ℕ) :
    OpKept (Work.inf w unit tile) := by
  unfold Work.inf
  refine OpKept.mod (fun s0 s h1 => ?_)
  exact noteInf_kept (h1) _ _ _ _ _ _

theorem predictRows_kept {s0 : State} {s : State} (hs : Kept s0 s) (cores : List (ℕ × ℕ × ℕ)) (keys : List ℕ) (r : AmRec) :
    Kept s0 (predictRows s cores keys r) := by
  unfold predictRows
  refine Kept.foldl ?_ (fun a2 b3 h1 => ?_)
  · exact hs
  · exact State.modCore_kept (h1) _ _

theorem emptyRow_kept (w : Work) (k : ℕ) :
    OpKept (emptyRow w k) := by
  unfold emptyRow
  exact Work.modCore_kept _ _

theorem readCodes_kept (array : ℕ) (owner : ℕ) (lo : ℕ) (codes : List ℕ) :
    OpKept (readCodes array owner lo codes) := by
  unfold readCodes
  exact OpKept.bind OpKept.get (fun x1 => (OpKept.ite (OpKept.pure _) (OpKept.bind (readArray_kept _ _ _ _) (fun x2 => (OpKept.pure _)))))

theorem readAm_kept (w : Work) (k : ℕ) (lo : ℕ) (n : ℕ) :
    OpKept (readAm w k lo n) := by
  unfold readAm
  refine OpKept.bind ?_ (fun x1 => ?_)
  · exact Work.getCore_kept _
  · extract_lets -merge -useContext -underBinder +onlyGivenNames r2
    exact OpKept.ite (OpKept.pure _) (readCodes_kept _ _ _ _)

theorem writeAm_kept (w : Work) (k : ℕ) (lo : ℕ) (rcd : AmRec) (codes : List ℕ) :
    OpKept (writeAm w k lo rcd codes) := by
  unfold writeAm
  refine OpKept.bind ?_ (fun x1 => ?_)
  · exact Work.getCore_kept _
  · extract_lets -merge -useContext -underBinder +onlyGivenNames r2
    extract_lets -merge -useContext -underBinder +onlyGivenNames old3
    extract_lets -merge -useContext -underBinder +onlyGivenNames all4
    extract_lets -merge -useContext -underBinder +onlyGivenNames first5
    exact OpKept.bind (OpKept.mod (fun s0 s h7 => (clearArray_kept h7 _ _ _ _))) (fun x6 => (Work.modCore_kept _ _))

theorem promoteCols_kept (w : Work) (unit : ℕ) (tile : List ℕ) (k : ℕ) (r : AmRec) (lo : ℕ) (runs : List Num) :
    OpKept (promoteCols w unit tile k r lo runs) := by
  unfold promoteCols
  refine OpKept.bind ?_ (fun x1 => ?_)
  · exact OpKept.get
  · extract_lets -merge -useContext -underBinder +onlyGivenNames __do_jp_Sys2ProofMachineAccum664214167_hygCtx_hyg242
    have h3 : ∀ a1, OpKept (__do_jp_Sys2ProofMachineAccum664214167_hygCtx_hyg242 a1) := by
      intro v4
      unfold __do_jp_Sys2ProofMachineAccum664214167_hygCtx_hyg242
      refine OpKept.bind ?_ (fun x5 => ?_)
      · exact OpKept.at (readAm_kept _ _ _ _)
      · extract_lets -merge -useContext -underBinder +onlyGivenNames rs6
        extract_lets -merge -useContext -underBinder +onlyGivenNames __do_jp_Sys2ProofMachineAccum664214167_hygCtx_hyg997
        have h8 : ∀ a1, OpKept (__do_jp_Sys2ProofMachineAccum664214167_hygCtx_hyg997 a1) := by
          intro v9
          unfold __do_jp_Sys2ProofMachineAccum664214167_hygCtx_hyg997
          refine OpKept.bind ?_ (fun x10 => ?_)
          · exact OpKept.atElem (OpKept.nanAt _ _)
          · refine OpKept.bind ?_ (fun x11 => ?_)
            · exact writeAm_kept _ _ _ _ _
            · extract_lets -merge -useContext -underBinder +onlyGivenNames __do_jp_Sys2ProofMachineAccum664214167_hygCtx_hyg19812
              have h13 : ∀ a1, OpKept (__do_jp_Sys2ProofMachineAccum664214167_hygCtx_hyg19812 a1) := by
                intro v14
                unfold __do_jp_Sys2ProofMachineAccum664214167_hygCtx_hyg19812
                exact Work.count_kept _ _ _ _ _ _
              clear_value __do_jp_Sys2ProofMachineAccum664214167_hygCtx_hyg19812
              exact OpKept.ite (OpKept.bind (Work.count_kept _ _ _ _ _ _) (fun x15 => (h13 _))) (h13 _)
        clear_value __do_jp_Sys2ProofMachineAccum664214167_hygCtx_hyg997
        split
        · exact OpKept.bind (Work.inf_kept _ _ _) (fun x16 => (h8 _))
        · exact h8 _
    clear_value __do_jp_Sys2ProofMachineAccum664214167_hygCtx_hyg242
    exact OpKept.ite (OpKept.bind (Work.waits_kept _ _ _ _ _) (fun x17 => (h3 _))) (h3 _)

theorem promote_kept (w : Work) (unit : ℕ) (tile : List ℕ) (k : ℕ) (r : AmRec) (runs : List Num) :
    OpKept (promote w unit tile k r runs) := by
  unfold promote
  exact promoteCols_kept _ _ _ _ _ _ _

end Sys2Proof.Machine
end

