-- ==== Sys2Proof/Laws/KeptForward.lean ====
section
/-! SUPPORT. What the operations of Machine/Forward.lean keep (Laws/Kept.lean): one lemma each, cited by the lemmas of what calls
them. -/

namespace Sys2Proof.Machine

set_option maxRecDepth 4000

theorem readCrust_kept (c : Ctx) (d : Desc) :
    OpKept (readCrust c d) := by
  unfold readCrust
  refine OpKept.ite ?_ ?_
  · exact OpKept.pure _
  · refine OpKept.bind ?_ (fun x1 => ?_)
    · exact readSpace_kept _ _ _ _
    · refine OpKept.bind ?_ (fun x2 => ?_)
      · exact readSpace_kept _ _ _ _
      · exact OpKept.pure _

theorem checkBand_kept (w : Work) (f : Fmt) (kt : ℕ) (nt : ℕ) (b : ℕ) (blocks : List RawBlock) :
    OpKept (checkBand w f kt nt b blocks) := by
  unfold checkBand
  extract_lets bad
  clear_value bad
  cases bad with
  | nil => exact OpKept.pure _
  | cons x tail =>
    refine OpKept.bind (OpKept.mod (fun s0 s h => setRaw_kept h _ _)) (fun _ => ?_)
    split
    · exact OpKept.throw _
    · exact OpKept.pure _

theorem tileBand_kept (w : Work) (d : Desc) (kt : ℕ) (nt : ℕ) (b : ℕ) :
    OpKept (tileBand w d kt nt b) := by
  unfold tileBand
  extract_lets -merge -useContext -underBinder +onlyGivenNames jb1
  exact OpKept.bind (OpKept.mod (fun s0 s h3 => (setRaw_kept h3 _ _))) (fun x2 => (OpKept.bind (OpKept.map (fun x5 => (OpKept.at (OpKept.bind (readHeld_kept _ _ _ _ _) (fun x6 => (OpKept.pure _)))))) (fun x4 => (OpKept.bind (checkBand_kept _ _ _ _ _ _) (fun x7 => (OpKept.pure _))))))

theorem buildTile_kept (w : Work) (d : Desc) (kt : ℕ) (nt : ℕ) :
    OpKept (buildTile w d kt nt) := by
  unfold buildTile
  extract_lets -merge -useContext -underBinder +onlyGivenNames n1
  refine OpKept.bind ?_ (fun x2 => ?_)
  · exact OpKept.map (fun x3 => (tileBand_kept _ _ _ _ _))
  · extract_lets -merge -useContext -underBinder +onlyGivenNames width4
    extract_lets -merge -useContext -underBinder +onlyGivenNames tables5
    extract_lets -merge -useContext -underBinder +onlyGivenNames scales6
    extract_lets -merge -useContext -underBinder +onlyGivenNames x7
    exact OpKept.pure _

theorem tloadCore_kept (w : Work) (d : Desc) :
    OpKept (tloadCore w d) := by
  unfold tloadCore
  extract_lets -merge -useContext -underBinder +onlyGivenNames kt1
  extract_lets -merge -useContext -underBinder +onlyGivenNames nt2
  refine OpKept.bind ?_ (fun x3 => ?_)
  · exact Work.modCore_kept _ _
  · refine OpKept.bind ?_ (fun x4 => ?_)
    · exact buildTile_kept _ _ _ _
    · refine OpKept.bind ?_ (fun x5 => ?_)
      · exact Work.modCore_kept _ _
      · refine OpKept.mod (fun s0 s h6 => ?_)
        exact setRaw_kept (h6) _ _

theorem onCoresOf_kept {s0 : State} {s : State} {f : Work → Op Unit} (hs : Kept s0 s) (hf : ∀ a1, OpKept (f a1)) (p : Fin 16) (t : StreamTag) (g : Granule) :
    Kept s0 (onCoresOf s p t g f).1 := by
  unfold onCoresOf
  exact onTargets_kept (fun x2 => by
    refine OpKept.ite ?_ ?_
    · exact OpKept.stop _
    · exact hf _) (hs) _

theorem setBenchTile_kept {s0 : State} {s : State} (hs : Kept s0 s) (p : Fin 16) (g : Granule) :
    Kept s0 (setBenchTile s p g) := by
  unfold setBenchTile
  exact State.modPart_kept (hs) _ _

theorem tloadWork_kept {s0 : State} {s : State} (hs : Kept s0 s) (p : Fin 16) (t : StreamTag) (g : Granule) :
    Kept s0 (tloadWork s p t g).1 := by
  unfold tloadWork
  exact onCoresOf_kept (hs) (fun x1 => by
    exact tloadCore_kept _ _) _ _ _

theorem predictTile_kept {s0 : State} {s : State} (hs : Kept s0 s) (p : Fin 16) (t : StreamTag) (g : Granule) :
    Kept s0 (predictTile s p t g) := by
  unfold predictTile
  refine Kept.ite ?_ ?_
  · exact hs
  · extract_lets -merge -useContext -underBinder +onlyGivenNames tile1
    exact Kept.foldl hs (fun a2 b3 h4 => (State.modCore_kept h4 _ _))

theorem tloadRun_kept {s0 : State} {s : State} (hs : Kept s0 s) (p : Fin 16) (t : StreamTag) (g : Granule) :
    Kept s0 (tloadRun s p t g).state := by
  unfold tloadRun
  refine Kept.iteState ?_ ?_
  · exact Effect.done_kept (setBenchTile_kept hs _ _)
  · extract_lets -merge -useContext -underBinder +onlyGivenNames r1
    have h2 : Kept s0 (r1).1 := by
      unfold r1
      exact tloadWork_kept hs _ _ _
    clear_value r1
    exact h2

theorem tloadCmd_kept : (tloadCmd).Kept := by
  unfold tloadCmd
  refine ⟨fun s0 s p t g n h => ?_, ?_⟩
  · dsimp -zeta only
    exact tloadRun_kept h _ _ _
  · intro s0 s p t g h
    dsimp -zeta only
    exact predictTile_kept h _ _ _

theorem execTload_kept {s0 : State} {s : State} (hs : Kept s0 s) (p : Fin 16) (t : StreamTag) :
    OutKept s0 (execTload p t s) := by
  unfold execTload
  refine OutKept.next ?_
  exact issue_kept tloadCmd_kept (hs) _ _

theorem countLanes_kept (w : Work) (bits : ℕ) (lanes : List (List (ℕ × ℤ))) :
    OpKept (countLanes w bits lanes) := by
  unfold countLanes
  extract_lets -merge -useContext -underBinder +onlyGivenNames look1
  extract_lets -merge -useContext -underBinder +onlyGivenNames skipped2
  exact OpKept.bind (Work.count_kept _ _ _ _ _ _) (fun x3 => (OpKept.bind (Work.count_kept _ _ _ _ _ _) (fun x4 => (OpKept.bind (Work.count_kept _ _ _ _ _ _) (fun x5 => (OpKept.bind (Work.event_kept _ _ _) (fun x6 => (Work.event_kept _ _ _))))))))

theorem passWave_kept (w : Work) (d : Desc) (i : ℕ) (bits : ℕ) (lanes : List (List (ℕ × ℤ))) (k : LaneClock) :
    OpKept (passWave w d i bits lanes k) := by
  unfold passWave
  refine OpKept.bind ?_ (fun x1 => ?_)
  · exact OpKept.get
  · extract_lets -merge -useContext -underBinder +onlyGivenNames gap2
    extract_lets -merge -useContext -underBinder +onlyGivenNames __do_jp_Sys2ProofMachineForward1455405183_hygCtx_hyg593
    have h4 : ∀ a1, OpKept (__do_jp_Sys2ProofMachineForward1455405183_hygCtx_hyg593 a1) := by
      intro v5
      unfold __do_jp_Sys2ProofMachineForward1455405183_hygCtx_hyg593
      extract_lets -merge -useContext -underBinder +onlyGivenNames r6
      exact OpKept.bind (countLanes_kept _ _ _) (fun x7 => (OpKept.bind (Work.count_kept _ _ _ _ _ _) (fun x8 => (OpKept.bind (Work.event_kept _ _ _) (fun x9 => (OpKept.bind (Work.count_kept _ _ _ _ _ _) (fun x10 => (OpKept.pure _))))))))
    clear_value __do_jp_Sys2ProofMachineForward1455405183_hygCtx_hyg593
    refine OpKept.ite ?_ ?_
    · refine OpKept.bind ?_ (fun x11 => ?_)
      · refine OpKept.mod (fun s0 s h12 => ?_)
        refine Kept.draw 1 (h12) ⟨rfl, rfl, rfl⟩ (fun c => { c with regs := c.regs })
      · exact h4 _
    · exact h4 _

theorem promoteAt_kept (w : Work) (row : Option ℕ) (k : LaneClock) :
    OpKept (promoteAt w row k) := by
  unfold promoteAt
  extract_lets -merge -useContext -underBinder +onlyGivenNames ready1
  extract_lets -merge -useContext -underBinder +onlyGivenNames at_2
  exact OpKept.bind (Work.count_kept _ _ _ _ _ _) (fun x3 => (OpKept.bind (Work.event_kept _ _ _) (fun x4 => (OpKept.pure _))))

theorem readBand_kept (w : Work) (d : Desc) (kt : ℕ) (b : ℕ) (r : ℕ × ℕ × ℕ) :
    OpKept (readBand w d kt b r) := by
  unfold readBand
  extract_lets -merge -useContext -underBinder +onlyGivenNames jb1
  exact OpKept.ite (OpKept.pure _) (OpKept.bind (readHeld_kept _ _ _ _ _) (fun x2 => (OpKept.pure _)))

theorem fmatBegin_kept (w : Work) (n : ℕ) (busy : Bool) (d : Desc) (cd : Option Desc) :
    OpKept (fmatBegin w n busy d cd) := by
  unfold fmatBegin
  refine OpKept.bind ?_ (fun x1 => ?_)
  · exact Work.modCore_kept _ _
  · refine OpKept.bind ?_ (fun x2 => ?_)
    · exact Work.getCore_kept _
    · extract_lets -merge -useContext -underBinder +onlyGivenNames at_3
      refine OpKept.bind ?_ (fun x7 => ?_)
      · split
        · exact OpKept.at (readCrust_kept _ _)
        · exact OpKept.pure _
      · extract_lets -merge -useContext -underBinder +onlyGivenNames mask8
        exact Work.modCore_kept _ _

theorem waveZps_kept (w : Work) (d : Desc) :
    OpKept (waveZps w d) := by
  unfold waveZps
  exact OpKept.bind (Work.getCore_kept _) (fun x1 => (OpKept.bind (OpKept.at (readZps_kept _ _ _ _)) (fun x2 => (OpKept.pure _))))

theorem corrWave_kept (w : Work) (d : Desc) (skip : Bool) (k : LaneClock) :
    OpKept (corrWave w d skip k) := by
  unfold corrWave
  refine OpKept.bind ?_ (fun x1 => ?_)
  · exact waveZps_kept _ _
  · extract_lets -merge -useContext -underBinder +onlyGivenNames lanes2
    exact OpKept.bind (passWave_kept _ _ _ _ _ _) (fun x3 => (OpKept.bind (Work.count_kept _ _ _ _ _ _) (fun x4 => (OpKept.bind (Work.modCore_kept _ _) (fun x5 => (OpKept.pure _))))))

theorem tokenWave_kept (w : Work) (d : Desc) (skip : Bool) (i : ℕ) (tok : ℕ) (k : LaneClock) :
    OpKept (tokenWave w d skip i tok k) := by
  unfold tokenWave
  refine OpKept.bind ?_ (fun x1 => ?_)
  · exact Work.getCore_kept _
  · extract_lets -merge -useContext -underBinder +onlyGivenNames a2
    extract_lets -merge -useContext -underBinder +onlyGivenNames tile3
    refine OpKept.bind ?_ (fun x4 => ?_)
    · exact OpKept.map (fun x5 => (OpKept.at (readBand_kept _ _ _ _ _)))
    · refine OpKept.bind ?_ (fun x6 => ?_)
      · exact OpKept.atElem (OpKept.nanAt _ _)
      · extract_lets -merge -useContext -underBinder +onlyGivenNames bits7
        extract_lets -merge -useContext -underBinder +onlyGivenNames lanes8
        exact OpKept.bind (passWave_kept _ _ _ _ _ _) (fun x9 => (OpKept.bind (OpKept.atElem (OpKept.nanAt _ _)) (fun x10 => (OpKept.pure _))))

theorem fmatWaves_kept (w : Work) (d : Desc) {rows : ℕ → Op (List Num × Option ℕ)} (hrows : ∀ j, OpKept (rows j)) :
    OpKept (fmatWaves w d rows) := by
  unfold fmatWaves
  refine OpKept.bind ?_ (fun x1 => ?_)
  · exact OpKept.get
  · extract_lets -merge -useContext -underBinder +onlyGivenNames skip2
    refine OpKept.bind ?_ (fun x3 => ?_)
    · exact OpKept.ite (corrWave_kept _ _ _ _) (OpKept.pure _)
    · refine OpKept.bind ?_ (fun x4 => ?_)
      · refine OpKept.fold (fun x5 y6 => ?_)
        extract_lets -merge -useContext -underBinder +onlyGivenNames tok7
        refine OpKept.bind ?_ (fun x8 => ?_)
        · exact tokenWave_kept _ _ _ _ _ _
        · refine OpKept.bind ?_ (fun x9 => ?_)
          · exact hrows _
          · refine OpKept.bind ?_ (fun x10 => ?_)
            · exact Work.getCore_kept _
            · extract_lets -merge -useContext -underBinder +onlyGivenNames tile11
              refine OpKept.bind ?_ (fun x12 => ?_)
              · exact promoteAt_kept _ _ _
              · refine OpKept.bind ?_ (fun x13 => ?_)
                · exact OpKept.at (OpKept.nanAt _ _)
                · extract_lets -merge -useContext -underBinder +onlyGivenNames key14
                  extract_lets -merge -useContext -underBinder +onlyGivenNames __do_jp_Sys2ProofMachineForward1676145083_hygCtx_hyg18715
                  have h16 : ∀ a1, OpKept (__do_jp_Sys2ProofMachineForward1676145083_hygCtx_hyg18715 a1) := by
                    intro v17
                    unfold __do_jp_Sys2ProofMachineForward1676145083_hygCtx_hyg18715
                    exact OpKept.bind (promote_kept _ _ _ _ _ _) (fun x18 => (OpKept.bind (Work.count_kept _ _ _ _ _ _) (fun x19 => (OpKept.pure _))))
                  clear_value __do_jp_Sys2ProofMachineForward1676145083_hygCtx_hyg18715
                  exact OpKept.ite (OpKept.bind (emptyRow_kept _ _) (fun x20 => (h16 _))) (h16 _)
      · exact OpKept.pure _

end Sys2Proof.Machine
end

