-- ==== Sys2Proof/Laws/KeptBench.lean ====
section
/-! SUPPORT. What the operations of Machine/Bench.lean keep (Laws/Kept.lean): one lemma each, cited by the lemmas of what calls
them. -/

namespace Sys2Proof.Machine

set_option maxRecDepth 4000

theorem readUnits_kept (c : Ctx) (d : Desc) (j : ℕ) (n : ℕ) (r : ℕ × ℕ × ℕ) :
    OpKept (readUnits c d j n r) := by
  unfold readUnits
  exact readValues_kept _ _ _ _ _

theorem benchBlock_kept (w : Work) (ad : Desc) (bd : Desc) (b : BenchJob) (lo : ℕ) (j : ℕ) (n : ℕ) (bi : ℕ) :
    OpKept (benchBlock w ad bd b lo j n bi) := by
  unfold benchBlock
  refine OpKept.bind ?_ (fun x4 => ?_)
  · exact OpKept.map (fun x1 => by
      extract_lets -merge -useContext -underBinder +onlyGivenNames col2
      refine OpKept.ite ?_ ?_
      · refine OpKept.bind ?_ (fun x3 => ?_)
        · refine OpKept.at ?_
          exact readUnits_kept _ _ _ _ _
        · exact OpKept.pure _
      · exact OpKept.pure _)
  · exact OpKept.each (fun x5 => by
      extract_lets -merge -useContext -underBinder +onlyGivenNames tok6
      extract_lets -merge -useContext -underBinder +onlyGivenNames at_7
      have h8 : ∀ a12 a13, OpKept a13 → OpKept (@at_7 a12 a13) :=
        (fun x9 x10 h11 => by
        refine OpKept.at ?_
        exact h11)
      clear_value at_7
      refine OpKept.bind ?_ (fun x14 => ?_)
      · refine h8 _ _ ?_
        · exact readUnits_kept _ _ _ _ _
      · extract_lets -merge -useContext -underBinder +onlyGivenNames k15
        extract_lets -merge -useContext -underBinder +onlyGivenNames y16
        have h17 : ∀ a25, OpKept (@y16 a25) :=
          (fun x18 => by
          refine OpKept.bind ?_ (fun x23 => ?_)
          · exact OpKept.each (fun x19 => by
              extract_lets -merge -useContext -underBinder +onlyGivenNames part20
              exact OpKept.bind (h8 _ _ (OpKept.nanAt _ _)) (fun x21 => promoteCols_kept _ _ _ _ _ _ _))
          · refine OpKept.bind ?_ (fun x24 => ?_)
            · exact Work.count_kept _ _ _ _ _ _
            · exact Work.event_kept _ _ _)
        clear_value y16
        refine OpKept.ite ?_ ?_
        · refine OpKept.bind ?_ (fun x26 => ?_)
          · exact emptyRow_kept _ _
          · exact h17 _
        · exact h17 _)

theorem benchCore_kept (w : Work) (ad : Desc) (bd : Desc) (b : BenchJob) :
    OpKept (benchCore w ad bd b) := by
  unfold benchCore
  extract_lets -merge -useContext -underBinder +onlyGivenNames nb1
  extract_lets -merge -useContext -underBinder +onlyGivenNames __do_jp_Sys2ProofMachineBench4040465808_hygCtx_hyg252
  have h3 : ∀ a1, OpKept (__do_jp_Sys2ProofMachineBench4040465808_hygCtx_hyg252 a1) := by
    intro v4
    unfold __do_jp_Sys2ProofMachineBench4040465808_hygCtx_hyg252
    exact OpKept.each (fun x5 => (OpKept.each (fun x6 => (benchBlock_kept _ _ _ _ _ _ _ _))))
  clear_value __do_jp_Sys2ProofMachineBench4040465808_hygCtx_hyg252
  exact OpKept.ite (OpKept.bind (Work.waits_kept _ _ _ _ _) (fun x7 => (h3 _))) (h3 _)

theorem crustRow_kept (w : Work) (ad : Desc) (bd : Desc) (list : List ℕ) (kt : ℕ) (nt : ℕ) (tok : ℕ) :
    OpKept (crustRow w ad bd list kt nt tok) := by
  unfold crustRow
  extract_lets -merge -useContext -underBinder +onlyGivenNames at_1
  have h2 : ∀ a6 a7, OpKept a7 → OpKept (@at_1 a6 a7) :=
    (fun x3 x4 h5 => by
    refine OpKept.at ?_
    exact h5)
  clear_value at_1
  refine OpKept.bind ?_ (fun x8 => ?_)
  · refine h2 _ _ ?_
    · exact readValues_kept _ _ _ _ _
  · extract_lets -merge -useContext -underBinder +onlyGivenNames inTile9
    refine OpKept.bind ?_ (fun x16 => ?_)
    · exact OpKept.map (fun x10 => by
        extract_lets -merge -useContext -underBinder +onlyGivenNames n11
        refine OpKept.ite ?_ ?_
        · exact OpKept.pure _
        · exact OpKept.fold (fun x12 x13 => by
            extract_lets -merge -useContext -underBinder +onlyGivenNames k14
            refine OpKept.bind ?_ (fun x15 => ?_)
            · refine h2 _ _ ?_
              · exact readValues_kept _ _ _ _ _
            · refine h2 _ _ ?_
              · exact OpKept.nan _))
    · refine OpKept.bind ?_ (fun x17 => ?_)
      · exact Work.count_kept _ _ _ _ _ _
      · refine OpKept.bind ?_ (fun x18 => ?_)
        · exact Work.count_kept _ _ _ _ _ _
        · refine OpKept.bind ?_ (fun x19 => ?_)
          · exact Work.event_kept _ _ _
          · exact OpKept.pure _

theorem fmatBench_kept {s0 : State} {s : State} (hs : Kept s0 s) (p : Fin 16) (t : StreamTag) (g : Granule) :
    Kept s0 (fmatBench s p t g).1 := by
  unfold fmatBench
  split
  · refine onCoresOf_kept ?_ ?_ _ _ _
    · exact hs
    · intro x1
      exact benchCore_kept _ _ _ _
  · exact hs

theorem bmatWork_kept {s0 : State} {s : State} (hs : Kept s0 s) (p : Fin 16) (t : StreamTag) (g : Granule) :
    Kept s0 (bmatWork s p t g).1 := by
  unfold bmatWork
  exact onCoresOf_kept (hs) (fun x1 => by
    exact benchCore_kept _ _ _ _) _ _ _

theorem pushRow_kept (w : Work) (row : List Num) :
    OpKept (pushRow w row) := by
  unfold pushRow
  exact Work.modCore_kept _ _

theorem takeRow_kept (w : Work) :
    OpKept (takeRow w) := by
  unfold takeRow
  exact OpKept.bind (Work.getCore_kept _) (fun x1 => (OpKept.bind (Work.modCore_kept _ _) (fun x2 => (OpKept.pure _))))

theorem bmatRow_kept {s : State} (p : Fin 16) (t : StreamTag) (g : Granule) (w : Work) (tile : ℕ × ℕ) (j : ℕ) :
    OpKept (bmatRow s p t g w tile j) := by
  unfold bmatRow
  exact OpKept.bind (OpKept.at (readCrust_kept _ _)) (fun x1 => (crustRow_kept _ _ _ _ _ _ _))

theorem pairRow_kept {s : State} (p : Fin 16) (t : StreamTag) (bg : Option Granule) (w : Work) (j : ℕ) :
    OpKept (pairRow s p t bg w j) := by
  unfold pairRow
  refine OpKept.bind ?_ (fun x1 => ?_)
  · exact Work.getCore_kept _
  · split
    · exact OpKept.bind (bmatRow_kept _ _ _ _ _ _) (fun x2 => (OpKept.bind (pushRow_kept _ _) (fun x3 => (OpKept.bind (takeRow_kept _) (fun x4 => (OpKept.pure _))))))
    · exact OpKept.bind (takeRow_kept _) (fun x5 => (OpKept.pure _))

theorem fmatGo_kept {s0 : State} {s : State} (hs : Kept s0 s) (p : Fin 16) (t : StreamTag) (g : Granule) (bg : Option Granule) (bad : List ℕ) :
    Kept s0 (fmatGo s p t g bg bad).1 := by
  unfold fmatGo
  extract_lets r
  refine Kept.pairFst (Kept.draw 1 (onCoresOf_kept hs (fun w => ?_) _ _ _) ⟨rfl, rfl, rfl⟩ (fun c => { c with regs := c.regs }))
  exact OpKept.ite (OpKept.pure _) (fmatWaves_kept _ _ (fun j => OpKept.ite (pairRow_kept _ _ _ _ _) (OpKept.pure _)))

theorem runPair_kept {s0 : State} {s : State} (hs : Kept s0 s) (p : Fin 16) (t : StreamTag) (g : Granule) (f : Flight) :
    Kept s0 (runPair s p t g f).state := by
  unfold runPair
  extract_lets -merge -useContext -underBinder +onlyGivenNames r1
  have h2 : Kept s0 (r1).1 := by
    unfold r1
    exact fmatGo_kept hs _ _ _ _ _
  clear_value r1
  extract_lets -merge -useContext -underBinder +onlyGivenNames fe3
  extract_lets -merge -useContext -underBinder +onlyGivenNames s4
  have h5 : Kept s0 (s4) := by
    unfold s4
    exact Kept.ite h2 (trapFlight_kept h2 _ _ _ _)
  clear_value s4
  exact h5

theorem pushRows_kept {s0 : State} {s : State} (hs : Kept s0 s) (p : Fin 16) (t : StreamTag) (g : Granule) (f : Flight) :
    Kept s0 (pushRows s p t g f).state := by
  unfold pushRows
  extract_lets -merge -useContext -underBinder +onlyGivenNames held1
  extract_lets -merge -useContext -underBinder +onlyGivenNames k2
  extract_lets -merge -useContext -underBinder +onlyGivenNames r3
  have h4 : Kept s0 (r3).1 := by
    unfold r3
    refine onTargets_kept ?_ ?_ _
    · intro x5
      extract_lets -merge -useContext -underBinder +onlyGivenNames w6
      refine OpKept.bind ?_ (fun x7 => ?_)
      · exact Work.getCore_kept _
      · extract_lets -merge -useContext -underBinder +onlyGivenNames tile8
        exact OpKept.bind (OpKept.each (fun x10 => (OpKept.bind (bmatRow_kept _ _ _ _ _ _) (fun x11 => (pushRow_kept _ _))))) (fun x9 => (OpKept.ite (Work.waits_kept _ _ _ _ _) (OpKept.pure _)))
    · exact hs
  clear_value r3
  exact h4

theorem crustBmat_kept {s0 : State} {s : State} (hs : Kept s0 s) (p : Fin 16) (t : StreamTag) (g : Granule) (n : ℕ) :
    Kept s0 (crustBmat s p t g n).state := by
  unfold crustBmat
  split
  · exact Kept.iteState (runPair_kept hs _ _ _ _) (pushRows_kept hs _ _ _ _)
  · exact Effect.done_kept hs

theorem bmatRun_kept {s0 : State} {s : State} (hs : Kept s0 s) (p : Fin 16) (t : StreamTag) (g : Granule) (n : ℕ) :
    Kept s0 (bmatRun s p t g n).state := by
  unfold bmatRun
  refine Kept.iteState ?_ ?_
  · exact Kept.iteState (Effect.done_kept hs) (crustBmat_kept hs _ _ _ _)
  · extract_lets -merge -useContext -underBinder +onlyGivenNames r1
    have h2 : Kept s0 (r1).1 := by
      unfold r1
      exact bmatWork_kept hs _ _ _
    clear_value r1
    exact h2

theorem predictBmat_kept {s0 : State} {s : State} (hs : Kept s0 s) (p : Fin 16) (t : StreamTag) (g : Granule) :
    Kept s0 (predictBmat s p t g) := by
  unfold predictBmat
  exact Kept.ite (Kept.ite (State.modPart_kept hs _ _) hs) (predictRows_kept hs _ _ _)

theorem bmatCmd_kept : (bmatCmd).Kept := by
  unfold bmatCmd
  refine ⟨fun s0 s p t g n h => ?_, ?_⟩
  · dsimp -zeta only
    exact bmatRun_kept h _ _ _ _
  · intro s0 s p t g h
    dsimp -zeta only
    exact predictBmat_kept h _ _ _

theorem predictFmat_kept {s0 : State} {s : State} (hs : Kept s0 s) (p : Fin 16) (t : StreamTag) (g : Granule) :
    Kept s0 (predictFmat s p t g) := by
  unfold predictFmat
  extract_lets -merge -useContext -underBinder +onlyGivenNames keys1
  refine Kept.ite ?_ ?_
  · extract_lets -merge -useContext -underBinder +onlyGivenNames kt2
    exact predictRows_kept hs _ _ _
  · extract_lets -merge -useContext -underBinder +onlyGivenNames s3
    have h4 : Kept s0 (s3) := by
      unfold s3
      refine Kept.foldl ?_ (fun a5 b6 h7 => ?_)
      · exact hs
      · extract_lets -merge -useContext -underBinder +onlyGivenNames next8
        extract_lets -merge -useContext -underBinder +onlyGivenNames s9
        have h10 : Kept s0 (s9) := by
          unfold s9
          exact predictRows_kept h7 _ _ _
        clear_value s9
        exact State.modCore_kept h10 _ _
    clear_value s3
    exact Kept.ite (State.modPart_kept h4 _ _) h4

theorem fmatCarry_kept {s0 : State} {s : State} (hs : Kept s0 s) (p : Fin 16) (t : StreamTag) (g : Granule) (n : ℕ) (bad : List ℕ) :
    Kept s0 (fmatCarry s p t g n bad).state := by
  unfold fmatCarry
  extract_lets -merge -useContext -underBinder +onlyGivenNames late first
  refine Kept.iteState hs ?_
  extract_lets -merge -useContext -underBinder +onlyGivenNames r
  have h : Kept s0 r.1 := fmatGo_kept hs _ _ _ _ _
  clear_value r first late
  split
  · refine Kept.iteState ?_ h
    extract_lets s1
    exact Kept.ite (setWait_kept h _ _ _ _) (trapFlight_kept h _ _ _ _)
  · exact h

theorem fmatRun_kept {s0 : State} {s : State} (hs : Kept s0 s) (p : Fin 16) (t : StreamTag) (g : Granule) (n : ℕ) :
    Kept s0 (fmatRun s p t g n).state := by
  unfold fmatRun
  refine Kept.iteState ?_ ?_
  · exact fmatBench_kept hs _ _ _
  · extract_lets busy r e
    have h : Kept s0 e.state := fmatCarry_kept (onCoresOf_kept hs (fun _ => fmatBegin_kept _ _ _ _ _) _ _ _) _ _ _ _ _
    exact Kept.iteState h h

theorem fmatCmd_kept : (fmatCmd).Kept := by
  unfold fmatCmd
  refine ⟨fun s0 s p t g n h => ?_, ?_⟩
  · dsimp -zeta only
    exact fmatRun_kept h _ _ _ _
  · intro s0 s p t g h
    dsimp -zeta only
    exact predictFmat_kept h _ _ _

theorem execFmat_kept {s0 : State} {s : State} (hs : Kept s0 s) (p : Fin 16) (t : StreamTag) :
    OutKept s0 (execFmat p t s) := by
  unfold execFmat
  refine OutKept.next ?_
  exact issue_kept fmatCmd_kept (hs) _ _

end Sys2Proof.Machine
end

