-- ==== Sys2Proof/Laws/KeptConvert.lean ====
section
/-! SUPPORT. What the operations of Machine/Convert.lean keep (Laws/Kept.lean): one lemma each, cited by the lemmas of what calls
them. -/

namespace Sys2Proof.Machine

set_option maxRecDepth 4000

theorem Work.infAt_kept (w : Work) (unit : ℕ) (tile : ℕ → List ℕ) (places : List ℕ) :
    OpKept (Work.infAt w unit tile places) := by
  unfold Work.infAt
  split
  · exact OpKept.pure _
  · exact Work.inf_kept _ _ _

theorem Work.form_kept (w : Work) (unit : ℕ) (tile : ℕ → List ℕ) (rs : List Calc) :
    OpKept (Work.form w unit tile rs) := by
  unfold Work.form
  exact OpKept.bind (Work.infAt_kept _ _ _ _) (fun x1 => (OpKept.atElem (OpKept.nanAt _ _)))

theorem Work.lanes_kept (w : Work) (q : ℕ) (rs : List Calc) :
    OpKept (Work.lanes w q rs) := by
  unfold Work.lanes
  exact OpKept.bind (OpKept.map (fun x2 => (Work.form_kept _ _ _ _))) (fun x1 => (OpKept.pure _))

theorem useTable_kept (w : Work) (k : ℕ) (tbl : Option FuncTable) :
    OpKept (useTable w k tbl) := by
  unfold useTable
  refine OpKept.bind ?_ (fun x1 => ?_)
  · exact OpKept.get
  · refine OpKept.bind ?_ (fun x2 => ?_)
    · exact Work.getCore_kept _
    · split
      · exact OpKept.pure _
      · refine OpKept.ite ?_ ?_
        · exact OpKept.pure _
        · refine OpKept.bind ?_ (fun x3 => ?_)
          · exact Work.count_kept _ _ _ _ _ _
          · extract_lets -merge -useContext -underBinder +onlyGivenNames out4
            refine OpKept.bind ?_ (fun x5 => ?_)
            · exact Work.modCore_kept _ _
            · refine OpKept.bind ?_ (fun x6 => ?_)
              · refine OpKept.mod (fun s0 s h7 => ?_)
                refine Kept.draw 1 (h7) ⟨rfl, rfl, rfl⟩ (fun c => { c with regs := c.regs })
              · exact OpKept.ite (OpKept.pure _) (OpKept.bind (readArray_kept _ _ _ _) (fun x8 => (OpKept.pure _)))

theorem Work.convert_kept (w : Work) (unit : ℕ) (tile : ℕ → List ℕ) (rs : List (Except Nans ConvBlock)) (epb : ℕ) :
    OpKept (Work.convert w unit tile rs epb) := by
  unfold Work.convert
  extract_lets -merge -useContext -underBinder +onlyGivenNames infs1
  exact OpKept.bind (Work.infAt_kept _ _ _ _) (fun x2 => (OpKept.atElem (OpKept.nanAt _ _)))

theorem reportChannel_kept (w : Work) (k : ℕ) (ch : ℕ) (z : ℕ) (x : Num) :
    OpKept (reportChannel w k ch z x) := by
  unfold reportChannel
  refine OpKept.bind ?_ (fun x1 => ?_)
  · exact OpKept.get
  · extract_lets -merge -useContext -underBinder +onlyGivenNames u2
    exact OpKept.ite (OpKept.bind (mergeChannel_kept _ _ _) (fun x3 => (OpKept.mod (fun s0 s h4 => (slotMod_kept h4 _ _))))) (OpKept.pure _)

theorem reportConv_kept (w : Work) (d : Desc) (ch : ℕ) (n : ℕ) (zps : List ℕ) (xs : List Num) (store : Bool) (b : ConvBlock) :
    OpKept (reportConv w d ch n zps xs store b) := by
  unfold reportConv
  refine OpKept.ite ?_ ?_
  · refine OpKept.bind ?_ (fun x1 => ?_)
    · refine OpKept.mod (fun s0 s h2 => ?_)
      extract_lets -merge -useContext -underBinder +onlyGivenNames s3
      have h4 : Kept s0 (s3) := by
        unfold s3
        exact reportBlock_kept h2 _ _ _
      clear_value s3
      split
      · exact Kept.ite (reportLayer_kept h4 _ _ _ _) h4
      · exact h4
    · exact OpKept.bind OpKept.get (fun x5 => (OpKept.ite (OpKept.each (fun x6 => (reportChannel_kept _ _ _ _ _))) (OpKept.pure _)))
  · exact OpKept.pure _

theorem writeHeader_kept (c : Ctx) (d : Desc) (list : List ℕ) :
    OpKept (writeHeader c d list) := by
  unfold writeHeader
  refine OpKept.ite ?_ ?_
  · exact writeSpace_kept _ _ _ _
  · exact OpKept.pure _

theorem writeCrust_kept (c : Ctx) (d : Desc) (list : List ℕ) (r : ℕ × ℕ × ℕ) (ch : ℕ) (n : ℕ) (xs : List Num) :
    OpKept (writeCrust c d list r ch n xs) := by
  unfold writeCrust
  refine OpKept.ite ?_ ?_
  · extract_lets -merge -useContext -underBinder +onlyGivenNames a1
    refine OpKept.bind ?_ (fun x3 => ?_)
    · exact OpKept.each (fun x2 => by
        exact writeSpace_kept _ _ _ _)
    · refine OpKept.ite ?_ ?_
      · exact writeSpace_kept _ _ _ _
      · exact OpKept.pure _
  · exact OpKept.pure _

theorem writeRow_kept (w : Work) (d : Desc) (jb : ℕ) (r : ℕ × ℕ × ℕ) (bs : List RawBlock) :
    OpKept (writeRow w d jb r bs) := by
  unfold writeRow
  refine OpKept.ite ?_ ?_
  · refine OpKept.bind ?_ (fun x4 => ?_)
    · exact OpKept.map (fun x1 => by
        refine OpKept.bind ?_ (fun x2 => ?_)
        · exact writeGroup_kept _ _ _ _ _
        · refine OpKept.bind ?_ (fun x3 => ?_)
          · exact Work.event_kept _ _ _
          · exact OpKept.pure _)
    · exact OpKept.pure _
  · refine OpKept.bind ?_ (fun x5 => ?_)
    · exact writeBlocks_kept _ _ _ _ _
    · exact OpKept.pure _

end Sys2Proof.Machine
end

