-- ==== Sys2Proof/Laws/KeptStore.lean ====
section
/-! SUPPORT. What the operations of Machine/Store.lean keep (Laws/Kept.lean): one lemma each, cited by the lemmas of what calls
them. -/

namespace Sys2Proof.Machine

set_option maxRecDepth 4000

theorem storeJob_kept (w : Work) (d : Desc) (b : Desc) (tbl : Option FuncTable) :
    OpKept (storeJob w d b tbl) := by
  unfold storeJob
  refine OpKept.bind OpKept.get (fun x1 => ?_)
  extract_lets g at_
  have h : ∀ α (m : Op α), OpKept m → OpKept (at_ m) := fun _ _ h => OpKept.atElem h
  clear_value at_
  exact OpKept.bind (OpKept.ite (h _ _ (readValues_kept _ _ _ _ _)) (OpKept.pure _)) (fun _ =>
    OpKept.bind (OpKept.ite (h _ _ (readSpace_kept _ _ _ _)) (OpKept.pure _)) (fun _ =>
      OpKept.bind (h _ _ (OpKept.nanAt _ _)) (fun _ =>
        OpKept.bind (h _ _ (readZps_kept _ _ _ _)) (fun _ =>
          OpKept.bind (OpKept.ite (h _ _ (useTable_kept _ _ _)) (OpKept.pure _)) (fun _ => OpKept.pure _)))))

theorem storeStage_kept (w : Work) (row : ℕ) (f : ℕ → Num → Calc) (xs : List Num) :
    OpKept (storeStage w row f xs) := by
  unfold storeStage
  extract_lets -merge -useContext -underBinder +onlyGivenNames rs1
  exact OpKept.bind (Work.count_kept _ _ _ _ _ _) (fun x2 => (Work.form_kept _ _ _ _))

theorem storeRow_kept (w : Work) (j : StoreJob) (row : ℕ) (n : ℕ) :
    OpKept (storeRow w j row n) := by
  unfold storeRow
  refine OpKept.bind ?_ (fun x1 => ?_)
  · exact OpKept.at (readAm_kept _ _ _ _)
  · extract_lets -merge -useContext -underBinder +onlyGivenNames xs2
    refine OpKept.bind ?_ (fun x3 => ?_)
    · exact OpKept.ite (OpKept.pure _) (storeStage_kept _ _ _ _)
    · refine OpKept.bind ?_ (fun x4 => ?_)
      · exact OpKept.ite (OpKept.pure _) (storeStage_kept _ _ _ _)
      · split
        · exact OpKept.pure _
        · exact OpKept.bind (storeStage_kept _ _ _ _) (fun x5 => (storeStage_kept _ _ _ _))

theorem storeConvert_kept (w : Work) (tile : ℕ → List ℕ) (d : Desc) (rs : List (Except Nans ConvBlock)) :
    OpKept (storeConvert w tile d rs) := by
  unfold storeConvert
  exact OpKept.bind (Work.count_kept _ _ _ _ _ _) (fun x1 => (Work.convert_kept _ _ _ _ _))

theorem storeCounts_kept (w : Work) (rows : ℕ) (bytes : ℕ) (bs : List ConvBlock) :
    OpKept (storeCounts w rows bytes bs) := by
  unfold storeCounts
  extract_lets -merge -useContext -underBinder +onlyGivenNames sat1
  exact OpKept.bind (Work.count_kept _ _ _ _ _ _) (fun x2 => (OpKept.bind (Work.count_kept _ _ _ _ _ _) (fun x3 => (OpKept.bind (Work.count_kept _ _ _ _ _ _) (fun x4 => (OpKept.bind (Work.count_kept _ _ _ _ _ _) (fun x5 => (OpKept.bind (Work.event_kept _ _ _) (fun x6 => (Work.event_kept _ _ _))))))))))

theorem storeRowOut_kept (w : Work) (j : StoreJob) (i : ℕ) :
    OpKept (storeRowOut w j i) := by
  unfold storeRowOut
  extract_lets -merge -useContext -underBinder +onlyGivenNames d1
  extract_lets -merge -useContext -underBinder +onlyGivenNames row2
  extract_lets -merge -useContext -underBinder +onlyGivenNames r3
  extract_lets -merge -useContext -underBinder +onlyGivenNames ch4
  exact OpKept.bind (storeRow_kept _ _ _ _) (fun x5 => (OpKept.bind (storeConvert_kept _ _ _ _) (fun x6 => (OpKept.bind (writeRow_kept _ _ _ _ _) (fun x7 => (OpKept.bind (OpKept.each (fun x9 => (reportConv_kept _ _ _ _ _ _ _ _))) (fun x8 => (OpKept.bind (writeCrust_kept _ _ _ _ _ _ _) (fun x10 => (storeCounts_kept _ _ _ _))))))))))

theorem storeGroupOut_kept (w : Work) (j : StoreJob) (i : ℕ) :
    OpKept (storeGroupOut w j i) := by
  unfold storeGroupOut
  extract_lets -merge -useContext -underBinder +onlyGivenNames d1
  extract_lets -merge -useContext -underBinder +onlyGivenNames row2
  extract_lets -merge -useContext -underBinder +onlyGivenNames first3
  extract_lets -merge -useContext -underBinder +onlyGivenNames n4
  extract_lets -merge -useContext -underBinder +onlyGivenNames ch5
  extract_lets -merge -useContext -underBinder +onlyGivenNames cols6
  refine OpKept.bind ?_ (fun x7 => ?_)
  · exact OpKept.map (fun x8 => (storeRow_kept _ _ _ _))
  · refine OpKept.bind ?_ (fun x9 => ?_)
    · exact OpKept.map (fun x10 => (OpKept.at (readAm_kept _ _ _ _)))
    · extract_lets -merge -useContext -underBinder +onlyGivenNames column11
      exact OpKept.bind (storeConvert_kept _ _ _ _) (fun x12 => (OpKept.bind (OpKept.map (fun x14 => (writeRow_kept _ _ _ _ _))) (fun x13 => (OpKept.bind (OpKept.each (fun x16 => (reportConv_kept _ _ _ _ _ _ _ _))) (fun x15 => (OpKept.bind (OpKept.each (fun x18 => (writeCrust_kept _ _ _ _ _ _ _))) (fun x17 => (storeCounts_kept _ _ _ _))))))))

theorem storeCore_kept (w : Work) (d : Desc) (b : Desc) (tbl : Option FuncTable) :
    OpKept (storeCore w d b tbl) := by
  unfold storeCore
  refine OpKept.bind ?_ (fun x1 => ?_)
  · exact storeJob_kept _ _ _ _
  · extract_lets -merge -useContext -underBinder +onlyGivenNames __do_jp_Sys2ProofMachineStore2614509053_hygCtx_hyg242
    have h3 : ∀ a1, OpKept (__do_jp_Sys2ProofMachineStore2614509053_hygCtx_hyg242 a1) := by
      intro v4
      unfold __do_jp_Sys2ProofMachineStore2614509053_hygCtx_hyg242
      exact OpKept.bind (writeHeader_kept _ _ _) (fun x5 => (OpKept.ite (OpKept.each (fun x6 => (storeGroupOut_kept _ _ _))) (OpKept.each (fun x7 => (storeRowOut_kept _ _ _)))))
    clear_value __do_jp_Sys2ProofMachineStore2614509053_hygCtx_hyg242
    exact OpKept.ite (OpKept.bind (Work.waits_kept _ _ _ _ _) (fun x8 => (h3 _))) (h3 _)

theorem storeRun_kept {s0 : State} {s : State} (hs : Kept s0 s) (p : Fin 16) (t : StreamTag) (g : Granule) (n : ℕ) :
    Kept s0 (storeRun s p t g n).state := by
  unfold storeRun
  extract_lets -merge -useContext -underBinder +onlyGivenNames tbl1
  extract_lets -merge -useContext -underBinder +onlyGivenNames r2
  have h3 : Kept s0 (r2).1 := by
    unfold r2
    refine onCoresOf_kept ?_ ?_ _ _ _
    · exact hs
    · intro x4
      exact storeCore_kept _ _ _ _
  clear_value r2
  exact h3

theorem storeCmd_kept : (storeCmd).Kept := by
  unfold storeCmd
  refine ⟨fun s0 s p t g n h => ?_, fun _ _ _ _ _ h => h⟩
  dsimp -zeta only
  exact storeRun_kept h _ _ _ _

theorem execStore_kept {s0 : State} {s : State} (hs : Kept s0 s) (p : Fin 16) (t : StreamTag) :
    OutKept s0 (execStore p t s) := by
  unfold execStore
  refine OutKept.next ?_
  exact issue_kept storeCmd_kept (hs) _ _

end Sys2Proof.Machine
end

