-- ==== Sys2Proof/Laws/KeptBackward.lean ====
section
/-! SUPPORT. What the operations of Machine/Backward.lean keep (Laws/Kept.lean): one lemma each, cited by the lemmas of what calls
them. -/

namespace Sys2Proof.Machine

set_option maxRecDepth 4000

theorem slotRow_kept (c : Ctx) (d : Desc) (kt : ℕ) (n : ℕ) :
    OpKept (slotRow c d kt n) := by
  unfold slotRow
  refine OpKept.ite ?_ ?_
  · exact OpKept.pure _
  · exact OpKept.map (fun x1 => by
      refine OpKept.bind ?_ (fun x2 => ?_)
      · exact readBlocks_kept _ _ _ _ _
      · exact OpKept.pure _)

theorem clearSlots_kept {s0 : State} {s : State} (hs : Kept s0 s) (nn : ℕ) (lo : ℕ) (hi : ℕ) :
    Kept s0 (clearSlots s nn lo hi) := by
  unfold clearSlots
  exact clearArray_kept (clearArray_kept hs _ _ _ _) _ _ _ _

theorem fillBank_kept (w : Work) (d : Desc) (at_ : ℕ) (lo : ℕ) (hi : ℕ) :
    OpKept (fillBank w d at_ lo hi) := by
  unfold fillBank
  extract_lets -merge -useContext -underBinder +onlyGivenNames g1
  extract_lets -merge -useContext -underBinder +onlyGivenNames nc2
  refine OpKept.bind ?_ (fun x3 => ?_)
  · refine OpKept.map (fun x4 => ?_)
    extract_lets -merge -useContext -underBinder +onlyGivenNames slot5
    exact OpKept.bind (slotRow_kept _ _ _ _) (fun x6 => (OpKept.pure _))
  · extract_lets -merge -useContext -underBinder +onlyGivenNames all7
    exact OpKept.bind (OpKept.mod (fun s0 s h9 => (clearSlots_kept h9 _ _ _))) (fun x8 => (OpKept.pure _))

theorem putBank_kept (w : Work) (bank : ℕ) (b : TbBank) :
    OpKept (putBank w bank b) := by
  unfold putBank
  exact Work.modCore_kept _ _

theorem xposeCore_kept (w : Work) (d : Desc) :
    OpKept (xposeCore w d) := by
  unfold xposeCore
  extract_lets -merge -useContext -underBinder +onlyGivenNames n1
  refine OpKept.bind ?_ (fun x2 => ?_)
  · exact Work.getCore_kept _
  · extract_lets -merge -useContext -underBinder +onlyGivenNames banks3
    refine OpKept.bind ?_ (fun x4 => ?_)
    · exact Work.modCore_kept _ _
    · refine OpKept.bind ?_ (fun x5 => ?_)
      · exact OpKept.each (fun x6 => (putBank_kept _ _ _))
      · refine OpKept.bind ?_ (fun x7 => ?_)
        · refine OpKept.each (fun x8 => ?_)
          extract_lets -merge -useContext -underBinder +onlyGivenNames lo9
          exact OpKept.bind (fillBank_kept _ _ _ _ _) (fun x10 => (putBank_kept _ _ _))
        · exact OpKept.bind (Work.modCore_kept _ _) (fun x11 => (Work.count_kept _ _ _ _ _ _))

theorem xposeRun_kept {s0 : State} {s : State} (hs : Kept s0 s) (p : Fin 16) (t : StreamTag) (g : Granule) :
    Kept s0 (xposeRun s p t g).state := by
  unfold xposeRun
  extract_lets -merge -useContext -underBinder +onlyGivenNames r1
  have h2 : Kept s0 (r1).1 := by
    unfold r1
    refine onCoresOf_kept ?_ ?_ _ _ _
    · exact hs
    · intro x3
      exact OpKept.at (xposeCore_kept _ _)
  clear_value r1
  exact h2

theorem predictXpose_kept {s0 : State} {s : State} (hs : Kept s0 s) (p : Fin 16) (g : Granule) :
    Kept s0 (predictXpose s p g) := by
  unfold predictXpose
  exact Kept.foldl hs (fun a1 b2 h3 => (State.modCore_kept h3 _ _))

theorem xposeCmd_kept : (xposeCmd).Kept := by
  unfold xposeCmd
  refine ⟨fun s0 s p t g n h => ?_, ?_⟩
  · dsimp -zeta only
    exact xposeRun_kept h _ _ _
  · intro s0 s p t g h
    dsimp -zeta only
    exact predictXpose_kept h _ _

theorem execXpose_kept {s0 : State} {s : State} (hs : Kept s0 s) (p : Fin 16) (t : StreamTag) :
    OutKept s0 (execXpose p t s) := by
  unfold execXpose
  refine OutKept.next ?_
  exact issue_kept xposeCmd_kept (hs) _ _

theorem readSlotRow_kept (w : Work) (bank : ℕ) (slot : ℕ) (n : ℕ) :
    OpKept (readSlotRow w bank slot n) := by
  unfold readSlotRow
  refine OpKept.bind ?_ (fun x1 => ?_)
  · exact Work.getCore_kept _
  · extract_lets -merge -useContext -underBinder +onlyGivenNames b2
    extract_lets -merge -useContext -underBinder +onlyGivenNames g3
    refine OpKept.bind ?_ (fun x4 => ?_)
    · exact readArray_kept _ _ _ _
    · refine OpKept.bind ?_ (fun x5 => ?_)
      · exact readArray_kept _ _ _ _
      · extract_lets -merge -useContext -underBinder +onlyGivenNames size6
        exact OpKept.pure _

theorem bdBlock_kept (w : Work) (d : Desc) (unit : ℕ) (x : Core) (nt : ℕ) (i : ℕ) (first : Bool) :
    OpKept (bdBlock w d unit x nt i first) := by
  unfold bdBlock
  extract_lets -merge -useContext -underBinder +onlyGivenNames g1
  extract_lets -merge -useContext -underBinder +onlyGivenNames b2
  extract_lets -merge -useContext -underBinder +onlyGivenNames kt3
  extract_lets -merge -useContext -underBinder +onlyGivenNames slot4
  refine OpKept.bind ?_ (fun x5 => ?_)
  · exact OpKept.map (fun x6 => (OpKept.at (OpKept.bind (readSlotRow_kept _ _ _ _) (fun x7 => (OpKept.nanAt _ _)))))
  · extract_lets -merge -useContext -underBinder +onlyGivenNames cols8
    refine OpKept.each (fun x9 => ?_)
    extract_lets -merge -useContext -underBinder +onlyGivenNames tok10
    extract_lets -merge -useContext -underBinder +onlyGivenNames at_11
    have h12 : ∀ a1 a2, OpKept a2 → OpKept (@at_11 a1 a2) := by
      intro v13 v14 h15
      unfold at_11
      exact OpKept.at h15
    clear_value at_11
    refine OpKept.bind ?_ (fun x16 => ?_)
    · exact h12 _ _ (readValues_kept _ _ _ _ _)
    · extract_lets -merge -useContext -underBinder +onlyGivenNames k17
      extract_lets -merge -useContext -underBinder +onlyGivenNames __do_jp_Sys2ProofMachineBackward695970715_hygCtx_hyg20518
      have h19 : ∀ a1, OpKept (__do_jp_Sys2ProofMachineBackward695970715_hygCtx_hyg20518 a1) := by
        intro v20
        unfold __do_jp_Sys2ProofMachineBackward695970715_hygCtx_hyg20518
        refine OpKept.bind ?_ (fun x21 => ?_)
        · refine OpKept.each (fun x22 => ?_)
          extract_lets -merge -useContext -underBinder +onlyGivenNames part23
          exact OpKept.bind (h12 _ _ (OpKept.nanAt _ _)) (fun x24 => (promote_kept _ _ _ _ _ _))
        · exact OpKept.ite (OpKept.bind (Work.count_kept _ _ _ _ _ _) (fun x25 => (Work.event_kept _ _ _))) (OpKept.bind (Work.count_kept _ _ _ _ _ _) (fun x26 => (Work.event_kept _ _ _)))
      clear_value __do_jp_Sys2ProofMachineBackward695970715_hygCtx_hyg20518
      exact OpKept.ite (OpKept.bind (emptyRow_kept _ _) (fun x27 => (h19 _))) (h19 _)

theorem bdWaits_kept (w : Work) (d : Desc) (blocks : ℕ) :
    OpKept (bdWaits w d blocks) := by
  unfold bdWaits
  exact OpKept.ite (Work.count_kept _ _ _ _ _ _) (OpKept.bind (Work.waits_kept _ _ _ _ _) (fun x1 => (Work.waits_kept _ _ _ _ _)))

theorem bdxCore_kept (w : Work) (d : Desc) (unit : ℕ) (n : ℕ) :
    OpKept (bdxCore w d unit n) := by
  unfold bdxCore
  refine OpKept.bind ?_ (fun x1 => ?_)
  · exact Work.getCore_kept _
  · extract_lets -merge -useContext -underBinder +onlyGivenNames kc2
    refine OpKept.bind ?_ (fun x3 => ?_)
    · exact Work.modCore_kept _ _
    · extract_lets -merge -useContext -underBinder +onlyGivenNames __do_jp_Sys2ProofMachineBackward767133386_hygCtx_hyg764
      have h5 : ∀ a1, OpKept (__do_jp_Sys2ProofMachineBackward767133386_hygCtx_hyg764 a1) := by
        intro v6
        unfold __do_jp_Sys2ProofMachineBackward767133386_hygCtx_hyg764
        exact OpKept.each (fun x7 => (OpKept.each (fun x8 => (bdBlock_kept _ _ _ _ _ _ _))))
      clear_value __do_jp_Sys2ProofMachineBackward767133386_hygCtx_hyg764
      exact OpKept.ite (OpKept.bind (bdWaits_kept _ _ _) (fun x9 => (h5 _))) (h5 _)

theorem predictBdx_kept {s0 : State} {s : State} (hs : Kept s0 s) (p : Fin 16) (g : Granule) :
    Kept s0 (predictBdx s p g) := by
  unfold predictBdx
  refine Kept.foldl ?_ (fun a1 b2 h3 => ?_)
  · exact hs
  · split
    · exact predictRows_kept h3 _ _ _
    · exact h3

theorem bdxRun_kept {s0 : State} {s : State} (hs : Kept s0 s) (p : Fin 16) (t : StreamTag) (g : Granule) (n : ℕ) :
    Kept s0 (bdxRun s p t g n).state := by
  unfold bdxRun
  extract_lets -merge -useContext -underBinder +onlyGivenNames unit1
  extract_lets -merge -useContext -underBinder +onlyGivenNames r2
  have h3 : Kept s0 (r2).1 := by
    unfold r2
    refine onCoresOf_kept ?_ ?_ _ _ _
    · exact hs
    · intro x4
      exact bdxCore_kept _ _ _ _
  clear_value r2
  exact h3

theorem bdxCmd_kept : (bdxCmd).Kept := by
  unfold bdxCmd
  refine ⟨fun s0 s p t g n h => ?_, ?_⟩
  · dsimp -zeta only
    exact bdxRun_kept h _ _ _ _
  · intro s0 s p t g h
    dsimp -zeta only
    exact predictBdx_kept h _ _

theorem execBdx_kept {s0 : State} {s : State} (hs : Kept s0 s) (p : Fin 16) (t : StreamTag) :
    OutKept s0 (execBdx p t s) := by
  unfold execBdx
  refine OutKept.next ?_
  exact issue_kept bdxCmd_kept (hs) _ _

theorem readChest_kept (w : Work) (tile : ℕ) (r : ℕ) :
    OpKept (readChest w tile r) := by
  unfold readChest
  refine OpKept.bind ?_ (fun x1 => ?_)
  · exact Work.getCore_kept _
  · extract_lets -merge -useContext -underBinder +onlyGivenNames c2
    exact OpKept.ite (OpKept.pure _) (readCodes_kept _ _ _ _)

theorem readXTile_kept (w : Work) (d : Desc) (crust : List ℕ) (tile : ℕ) (group : ℕ) (kt : ℕ) (tok0 : ℕ) :
    OpKept (readXTile w d crust tile group kt tok0) := by
  unfold readXTile
  extract_lets -merge -useContext -underBinder +onlyGivenNames at_1
  have h2 : ∀ a1 a2, OpKept a2 → OpKept (@at_1 a1 a2) := by
    intro v3 v4 h5
    unfold at_1
    exact OpKept.at h5
  clear_value at_1
  extract_lets -merge -useContext -underBinder +onlyGivenNames held6
  extract_lets -merge -useContext -underBinder +onlyGivenNames rows7
  refine OpKept.bind ?_ (fun x8 => ?_)
  · exact h2 _ _ (OpKept.map (fun x9 => (recallBlocks_kept _ _ _ _ _)))
  · refine OpKept.bind ?_ (fun x10 => ?_)
    · exact h2 _ _ (readZps_kept _ _ _ _)
    · extract_lets -merge -useContext -underBinder +onlyGivenNames lo11
      exact OpKept.pure _

theorem tokenX_kept (w : Work) (d : Desc) (x : XTile) (kt : ℕ) (e : List RawBlock × ℕ × ℕ × ℕ) :
    OpKept (tokenX w d x kt e) := by
  unfold tokenX
  extract_lets -merge -useContext -underBinder +onlyGivenNames live1
  refine OpKept.bind ?_ (fun x2 => ?_)
  · exact OpKept.map (fun x3 => (OpKept.bind (readSpace_kept _ _ _ _) (fun x4 => (OpKept.pure _))))
  · extract_lets -merge -useContext -underBinder +onlyGivenNames blocks5
    extract_lets -merge -useContext -underBinder +onlyGivenNames values6
    exact OpKept.nanAt _ _

theorem readX_kept (w : Work) (d : Desc) (crust : List ℕ) (tile : ℕ) (group : ℕ) (kt : ℕ) (tok0 : ℕ) :
    OpKept (readX w d crust tile group kt tok0) := by
  unfold readX
  refine OpKept.bind ?_ (fun x1 => ?_)
  · exact readXTile_kept _ _ _ _ _ _ _
  · refine OpKept.bind ?_ (fun x2 => ?_)
    · exact OpKept.map (fun x3 => (OpKept.atElem (tokenX_kept _ _ _ _ _)))
    · extract_lets -merge -useContext -underBinder +onlyGivenNames const4
      exact OpKept.pure _

theorem chestRow_kept (w : Work) (tile : ℕ) (group : ℕ) (kt : ℕ) (r : ℕ) (live : Bool) (runs : List Num) :
    OpKept (chestRow w tile group kt r live runs) := by
  unfold chestRow
  extract_lets -merge -useContext -underBinder +onlyGivenNames place1
  refine OpKept.bind ?_ (fun x2 => ?_)
  · exact OpKept.at (readChest_kept _ _ _)
  · extract_lets -merge -useContext -underBinder +onlyGivenNames rs3
    extract_lets -merge -useContext -underBinder +onlyGivenNames __do_jp_Sys2ProofMachineBackward2462233098_hygCtx_hyg684
    have h5 : ∀ a1, OpKept (__do_jp_Sys2ProofMachineBackward2462233098_hygCtx_hyg684 a1) := by
      intro v6
      unfold __do_jp_Sys2ProofMachineBackward2462233098_hygCtx_hyg684
      exact OpKept.bind (OpKept.at (OpKept.nanAt _ _)) (fun x7 => (OpKept.bind (OpKept.mod (fun s0 s h9 => (clearArray_kept h9 _ _ _ _))) (fun x8 => (Work.modCore_kept _ _))))
    clear_value __do_jp_Sys2ProofMachineBackward2462233098_hygCtx_hyg684
    exact OpKept.ite (OpKept.bind (Work.inf_kept _ _ _) (fun x10 => (h5 _))) (h5 _)

theorem chestGroup_kept (w : Work) (tile : ℕ) (group : ℕ) (kt : ℕ) (xs : List (List Num)) (dys : List (List Num)) :
    OpKept (chestGroup w tile group kt xs dys) := by
  unfold chestGroup
  exact OpKept.bind (OpKept.atElem (OpKept.nanAt _ _)) (fun x1 => (OpKept.bind (OpKept.each (fun x3 => (chestRow_kept _ _ _ _ _ _ _))) (fun x2 => (Work.modCore_kept _ _))))

theorem bdwCore_kept (w : Work) (xd : Desc) (dd : Desc) (rung3 : Bool) :
    OpKept (bdwCore w xd dd rung3) := by
  unfold bdwCore
  extract_lets -merge -useContext -underBinder +onlyGivenNames g1
  extract_lets -merge -useContext -underBinder +onlyGivenNames tiles2
  extract_lets -merge -useContext -underBinder +onlyGivenNames __do_jp_Sys2ProofMachineBackward3066613024_hygCtx_hyg243
  have h4 : ∀ a1, OpKept (__do_jp_Sys2ProofMachineBackward3066613024_hygCtx_hyg243 a1) := by
    intro v5
    unfold __do_jp_Sys2ProofMachineBackward3066613024_hygCtx_hyg243
    extract_lets -merge -useContext -underBinder +onlyGivenNames __do_jp_Sys2ProofMachineBackward3066613024_hygCtx_hyg646
    have h7 : ∀ a1, OpKept (__do_jp_Sys2ProofMachineBackward3066613024_hygCtx_hyg646 a1) := by
      intro v8
      unfold __do_jp_Sys2ProofMachineBackward3066613024_hygCtx_hyg646
      refine OpKept.bind ?_ (fun x9 => ?_)
      · exact OpKept.at (OpKept.ite (readCrust_kept _ _) (OpKept.pure _))
      · refine OpKept.bind ?_ (fun x10 => ?_)
        · refine OpKept.each (fun x11 => ?_)
          extract_lets -merge -useContext -underBinder +onlyGivenNames tok12
          refine OpKept.bind ?_ (fun x13 => ?_)
          · exact OpKept.map (fun x14 => (OpKept.at (readValues_kept _ _ _ _ _)))
          · refine OpKept.each (fun x15 => ?_)
            extract_lets -merge -useContext -underBinder +onlyGivenNames kt16
            refine OpKept.bind ?_ (fun x17 => ?_)
            · exact readX_kept _ _ _ _ _ _ _
            · split
              · refine OpKept.bind ?_ (fun x18 => ?_)
                · exact chestGroup_kept _ _ _ _ _ _
                · extract_lets -merge -useContext -underBinder +onlyGivenNames half19
                  exact OpKept.bind (Work.count_kept _ _ _ _ _ _) (fun x20 => (OpKept.bind (Work.count_kept _ _ _ _ _ _) (fun x21 => (OpKept.bind (Work.event_kept _ _ _) (fun x22 => (Work.event_kept _ _ _))))))
        · exact Work.modCore_kept _ _
    clear_value __do_jp_Sys2ProofMachineBackward3066613024_hygCtx_hyg646
    exact OpKept.ite (OpKept.bind (Work.waits_kept _ _ _ _ _) (fun x23 => (h7 _))) (h7 _)
  clear_value __do_jp_Sys2ProofMachineBackward3066613024_hygCtx_hyg243
  exact OpKept.ite (OpKept.bind (Work.modCore_kept _ _) (fun x24 => (h4 _))) (h4 _)

theorem bdwRun_kept {s0 : State} {s : State} (hs : Kept s0 s) (p : Fin 16) (t : StreamTag) (g : Granule) :
    Kept s0 (bdwRun s p t g).state := by
  unfold bdwRun
  extract_lets -merge -useContext -underBinder +onlyGivenNames r1
  have h2 : Kept s0 (r1).1 := by
    unfold r1
    refine onCoresOf_kept ?_ ?_ _ _ _
    · exact hs
    · intro x3
      exact bdwCore_kept _ _ _ _
  clear_value r1
  exact h2

theorem bdwCmd_kept : (bdwCmd).Kept := by
  unfold bdwCmd
  refine ⟨fun s0 s p t g n h => ?_, fun _ _ _ _ _ h => h⟩
  dsimp -zeta only
  exact bdwRun_kept h _ _ _

theorem execBdw_kept {s0 : State} {s : State} (hs : Kept s0 s) (p : Fin 16) (t : StreamTag) :
    OutKept s0 (execBdw p t s) := by
  unfold execBdw
  refine OutKept.next ?_
  exact issue_kept bdwCmd_kept (hs) _ _

theorem flushRow_kept (w : Work) (d : Desc) (tile : ℕ) (r : ℕ) (row : ℕ) :
    OpKept (flushRow w d tile r row) := by
  unfold flushRow
  refine OpKept.bind ?_ (fun x1 => ?_)
  · exact OpKept.get
  · extract_lets -merge -useContext -underBinder +onlyGivenNames at_2
    have h3 : ∀ a1 a2, OpKept a2 → OpKept (@at_2 a1 a2) := by
      intro v4 v5 h6
      unfold at_2
      exact OpKept.at h6
    clear_value at_2
    refine OpKept.bind ?_ (fun x7 => ?_)
    · exact h3 _ _ (readChest_kept _ _ _)
    · extract_lets -merge -useContext -underBinder +onlyGivenNames vals8
      refine OpKept.bind ?_ (fun x9 => ?_)
      · exact h3 _ _ (OpKept.nanAt _ _)
      · refine OpKept.bind ?_ (fun x10 => ?_)
        · exact h3 _ _ (OpKept.nanAt _ _)
        · refine OpKept.bind ?_ (fun x11 => ?_)
          · exact h3 _ _ (OpKept.nan _)
          · extract_lets -merge -useContext -underBinder +onlyGivenNames __do_jp_Sys2ProofMachineBackward3034184923_hygCtx_hyg16712
            have h13 : ∀ a1, OpKept (__do_jp_Sys2ProofMachineBackward3034184923_hygCtx_hyg16712 a1) := by
              intro v14
              unfold __do_jp_Sys2ProofMachineBackward3034184923_hygCtx_hyg16712
              exact OpKept.bind (Work.count_kept _ _ _ _ _ _) (fun x15 => (OpKept.bind (Work.count_kept _ _ _ _ _ _) (fun x16 => (OpKept.bind (Work.count_kept _ _ _ _ _ _) (fun x17 => (OpKept.pure _))))))
            clear_value __do_jp_Sys2ProofMachineBackward3034184923_hygCtx_hyg16712
            exact OpKept.ite (OpKept.bind (OpKept.mod (fun s0 s h19 => (countDraws_kept h19 _ _))) (fun x18 => (h13 _))) (h13 _)

theorem flushCore_kept {out : ℕ → List RawBlock → Op Unit} (hout : ∀ a1 a2, OpKept (out a1 a2)) (w : Work) (gd : Desc) (bd : Desc) (nd : Desc) :
    OpKept (flushCore w gd bd nd out) := by
  unfold flushCore
  extract_lets -merge -useContext -underBinder +onlyGivenNames at_3
  have h4 : ∀ a10 a11 a12 a13, OpKept a13 → OpKept (@at_3 a10 a11 a12 a13) :=
    (fun x5 x6 x7 x8 h9 => by
    refine OpKept.at ?_
    exact h9)
  clear_value at_3
  refine OpKept.bind ?_ (fun x31 => ?_)
  · exact OpKept.fold (fun x14 x15 => by
      refine OpKept.bind ?_ (fun x16 => ?_)
      · exact Work.getCore_kept _
      · extract_lets -merge -useContext -underBinder +onlyGivenNames c17
        refine OpKept.bind ?_ (fun x28 => ?_)
        · exact OpKept.fold (fun x18 x19 => by
            refine OpKept.bind ?_ (fun x20 => ?_)
            · exact flushRow_kept _ _ _ _ _
            · split
              · refine OpKept.bind ?_ (fun x21 => ?_)
                · refine h4 _ _ _ _ ?_
                  · exact hout _ _
                · refine OpKept.bind ?_ (fun x22 => ?_)
                  · refine h4 _ _ _ _ ?_
                    · exact OpKept.nan _
                  · extract_lets -merge -useContext -underBinder +onlyGivenNames y23
                    have h24 : ∀ a26, OpKept (@y23 a26) :=
                      (fun x25 => by
                      exact OpKept.pure _)
                    clear_value y23
                    refine OpKept.ite ?_ ?_
                    · refine OpKept.bind ?_ (fun x27 => ?_)
                      · exact Work.inf_kept _ _ _
                      · exact h24 _
                    · exact h24 _)
        · refine OpKept.bind ?_ (fun x29 => ?_)
          · refine h4 _ _ _ _ ?_
            · exact writeBlocks_kept _ _ _ _ _
          · refine OpKept.bind ?_ (fun x30 => ?_)
            · exact Work.modCore_kept _ _
            · exact OpKept.pure _)
  · refine OpKept.at ?_
    exact writeBlocks_kept _ _ _ _ _

theorem cflushRun_kept {s0 : State} {s : State} (hs : Kept s0 s) (p : Fin 16) (t : StreamTag) (g : Granule) :
    Kept s0 (cflushRun s p t g).state := by
  unfold cflushRun
  refine Kept.iteState ?_ ?_
  · exact hs
  · extract_lets -merge -useContext -underBinder +onlyGivenNames gd1
    extract_lets -merge -useContext -underBinder +onlyGivenNames r2
    have h3 : Kept s0 (r2).1 := by
      unfold r2
      refine onCoresOf_kept ?_ ?_ _ _ _
      · exact hs
      · intro x4
        refine flushCore_kept ?_ _ _ _ _
        intro x5
        intro x6
        exact writeBlocks_kept _ _ _ _ _
    clear_value r2
    exact h3

theorem predictFlush_kept {s0 : State} {s : State} (hs : Kept s0 s) (p : Fin 16) (g : Granule) :
    Kept s0 (predictFlush s p g) := by
  unfold predictFlush
  exact Kept.ite (State.modPart_kept hs _ _) hs

theorem cflushCmd_kept : (cflushCmd).Kept := by
  unfold cflushCmd
  refine ⟨fun s0 s p t g n h => ?_, ?_⟩
  · dsimp -zeta only
    exact cflushRun_kept h _ _ _
  · intro s0 s p t g h
    dsimp -zeta only
    exact predictFlush_kept h _ _

theorem execCflush_kept {s0 : State} {s : State} (hs : Kept s0 s) (p : Fin 16) (t : StreamTag) :
    OutKept s0 (execCflush p t s) := by
  unfold execCflush
  refine OutKept.next ?_
  exact issue_kept cflushCmd_kept (hs) _ _

end Sys2Proof.Machine
end

