-- ==== Sys2Proof/Laws/KeptVector.lean ====
section
/-! SUPPORT. What the operations of Machine/Vector.lean keep (Laws/Kept.lean): one lemma each, cited by the lemmas of what calls
them. -/

namespace Sys2Proof.Machine

set_option maxRecDepth 4000

theorem readLane_kept (w : Work) (q : ℕ) (d : Desc) (idx : List (ℕ × ℕ × ℕ)) :
    OpKept (readLane w q d idx) := by
  unfold readLane
  exact OpKept.bind (OpKept.map (fun x2 => (OpKept.bind (OpKept.at (readValues_kept _ _ _ _ _)) (fun x3 => (Work.lanes_kept _ _ _))))) (fun x1 => (OpKept.pure _))

theorem reduceTree_kept (w : Work) (q : ℕ) (xs : List Num) :
    OpKept (reduceTree w q xs) := by
  unfold reduceTree
  extract_lets -merge -useContext -underBinder +onlyGivenNames cs1
  exact OpKept.bind (Work.lanes_kept _ _ _) (fun x2 => (OpKept.bind (OpKept.fold (fun x4 y5 => (Work.lanes_kept _ _ _))) (fun x3 => (OpKept.pure _))))

theorem scaleRow_kept (w : Work) (q : ℕ) (gs : Option (List Num)) (bs : Option (List Num)) (xs : List Num) (r : Num) :
    OpKept (scaleRow w q gs bs xs r) := by
  unfold scaleRow
  exact Work.lanes_kept _ _ _

theorem sumSquares_kept (w : Work) (q : ℕ) (xs : List Num) :
    OpKept (sumSquares w q xs) := by
  unfold sumSquares
  exact OpKept.bind (Work.lanes_kept _ _ _) (fun x1 => (reduceTree_kept _ _ _))

theorem softmaxRow_kept (w : Work) (q : ℕ) (p : Num) (tbl : Option FuncTable) (xs : List Num) :
    OpKept (softmaxRow w q p tbl xs) := by
  unfold softmaxRow
  refine OpKept.bind ?_ (fun x1 => ?_)
  · exact Work.lanes_kept _ _ _
  · extract_lets -merge -useContext -underBinder +onlyGivenNames m2
    exact OpKept.ite (OpKept.at (OpKept.nan _)) (OpKept.bind (Work.lanes_kept _ _ _) (fun x3 => (OpKept.bind (reduceTree_kept _ _ _) (fun x4 => (Work.lanes_kept _ _ _)))))

theorem normRow_kept (w : Work) (q : ℕ) (eps : Num) (gs : Option (List Num)) (bs : Option (List Num)) (xs : List Num) :
    OpKept (normRow w q eps gs bs xs) := by
  unfold normRow
  exact OpKept.bind (sumSquares_kept _ _ _) (fun x1 => (OpKept.bind (Work.lanes_kept _ _ _) (fun x2 => (scaleRow_kept _ _ _ _ _ _))))

theorem centred_kept (w : Work) (q : ℕ) (xs : List Num) :
    OpKept (centred w q xs) := by
  unfold centred
  exact OpKept.bind (reduceTree_kept _ _ _) (fun x1 => (OpKept.bind (Work.lanes_kept _ _ _) (fun x2 => (Work.lanes_kept _ _ _))))

theorem rowOp_kept (w : Work) (q : ℕ) (f : ℕ) (p : Num) (tbl : Option FuncTable) (gs : Option (List Num)) (bs : Option (List Num)) (xs : List Num) :
    OpKept (rowOp w q f p tbl gs bs xs) := by
  unfold rowOp
  split
  · exact OpKept.bind (reduceTree_kept _ _ _) (fun x1 => (OpKept.pure _))
  · exact OpKept.pure _
  · exact OpKept.pure _
  · exact OpKept.bind (sumSquares_kept _ _ _) (fun x2 => (OpKept.pure _))
  · exact softmaxRow_kept _ _ _ _ _
  · exact normRow_kept _ _ _ _ _ _
  · exact OpKept.bind (centred_kept _ _ _) (fun x3 => (normRow_kept _ _ _ _ _ _))

theorem vopOut_kept (w : Work) (d : Desc) (use : Option SlotUse) (zps : List ℕ) (q : ℕ) (rows : List ((ℕ × ℕ × ℕ) × List Num)) :
    OpKept (vopOut w d use zps q rows) := by
  unfold vopOut
  extract_lets -merge -useContext -underBinder +onlyGivenNames mode1
  extract_lets -merge -useContext -underBinder +onlyGivenNames ch2
  refine OpKept.bind ?_ (fun x3 => ?_)
  · exact OpKept.map (fun x4 => (Work.convert_kept _ _ _ _ _))
  · refine OpKept.bind ?_ (fun x5 => ?_)
    · exact OpKept.each (fun x6 => (OpKept.bind (writeRow_kept _ _ _ _ _) (fun x7 => (OpKept.each (fun x8 => (reportConv_kept _ _ _ _ _ _ _ _))))))
    · extract_lets -merge -useContext -underBinder +onlyGivenNames all9
      extract_lets -merge -useContext -underBinder +onlyGivenNames n10
      extract_lets -merge -useContext -underBinder +onlyGivenNames sat11
      exact OpKept.bind (Work.count_kept _ _ _ _ _ _) (fun x12 => (OpKept.bind (Work.count_kept _ _ _ _ _ _) (fun x13 => (OpKept.bind (Work.count_kept _ _ _ _ _ _) (fun x14 => (OpKept.bind (Work.event_kept _ _ _) (fun x15 => (Work.event_kept _ _ _))))))))

theorem vopParam_kept (w : Work) (q : ℕ) :
    OpKept (vopParam w q) := by
  unfold vopParam
  exact OpKept.at (OpKept.nan _)

theorem vopRow_kept (w : Work) (j : VopJob) (use : Option SlotUse) (zps : List ℕ) (tbl : Option FuncTable) (q : ℕ) :
    OpKept (vopRow w j use zps tbl q) := by
  unfold vopRow
  extract_lets -merge -useContext -underBinder +onlyGivenNames g1
  extract_lets -merge -useContext -underBinder +onlyGivenNames f2
  refine OpKept.bind ?_ (fun x3 => ?_)
  · exact vopParam_kept _ _
  · refine OpKept.bind ?_ (fun x4 => ?_)
    · exact readLane_kept _ _ _ _
    · extract_lets -merge -useContext -underBinder +onlyGivenNames affineOn5
      extract_lets -merge -useContext -underBinder +onlyGivenNames one6
      refine OpKept.bind ?_ (fun x7 => ?_)
      · exact OpKept.ite (OpKept.bind (readLane_kept _ _ _ _) (fun x8 => (OpKept.pure _))) (OpKept.pure _)
      · refine OpKept.bind ?_ (fun x9 => ?_)
        · exact OpKept.ite (OpKept.bind (readLane_kept _ _ _ _) (fun x10 => (OpKept.pure _))) (OpKept.pure _)
        · refine OpKept.bind ?_ (fun x11 => ?_)
          · exact rowOp_kept _ _ _ _ _ _ _ _
          · extract_lets -merge -useContext -underBinder +onlyGivenNames parts12
            exact vopOut_kept _ _ _ _ _ _

theorem vopElems_kept (w : Work) (j : VopJob) (use : Option SlotUse) (zps : List ℕ) (tbl : Option FuncTable) (q : ℕ) :
    OpKept (vopElems w j use zps tbl q) := by
  unfold vopElems
  extract_lets -merge -useContext -underBinder +onlyGivenNames g1
  exact OpKept.bind (vopParam_kept _ _) (fun x2 => (OpKept.bind (readLane_kept _ _ _ _) (fun x3 => (OpKept.bind (OpKept.ite (readLane_kept _ _ _ _) (OpKept.pure _)) (fun x4 => (OpKept.bind (Work.lanes_kept _ _ _) (fun x5 => (vopOut_kept _ _ _ _ _ _))))))))

theorem vopCore_kept (w : Work) (j : VopJob) (tbl : Option FuncTable) :
    OpKept (vopCore w j tbl) := by
  unfold vopCore
  refine OpKept.bind ?_ (fun x1 => ?_)
  · exact OpKept.get
  · extract_lets -merge -useContext -underBinder +onlyGivenNames use2
    extract_lets -merge -useContext -underBinder +onlyGivenNames near3
    extract_lets -merge -useContext -underBinder +onlyGivenNames __do_jp_Sys2ProofMachineVector83567910_hygCtx_hyg474
    have h5 : ∀ a1, OpKept (__do_jp_Sys2ProofMachineVector83567910_hygCtx_hyg474 a1) := by
      intro v6
      unfold __do_jp_Sys2ProofMachineVector83567910_hygCtx_hyg474
      exact OpKept.bind (OpKept.ite (OpKept.at (useTable_kept _ _ _)) (OpKept.pure _)) (fun x7 => (OpKept.bind (OpKept.at (readZps_kept _ _ _ _)) (fun x8 => (OpKept.ite (OpKept.each (fun x9 => (vopRow_kept _ _ _ _ _ _))) (OpKept.each (fun x10 => (vopElems_kept _ _ _ _ _ _)))))))
    clear_value __do_jp_Sys2ProofMachineVector83567910_hygCtx_hyg474
    exact OpKept.ite (OpKept.bind (Work.waits_kept _ _ _ _ _) (fun x11 => (h5 _))) (h5 _)

theorem vopRun_kept {s0 : State} {s : State} (hs : Kept s0 s) (p : Fin 16) (t : StreamTag) (g : Granule) (n : ℕ) :
    Kept s0 (vopRun s p t g n).state := by
  unfold vopRun
  extract_lets -merge -useContext -underBinder +onlyGivenNames tbl1
  extract_lets -merge -useContext -underBinder +onlyGivenNames r2
  have h3 : Kept s0 (r2).1 := by
    unfold r2
    refine onCoresOf_kept ?_ ?_ _ _ _
    · exact hs
    · intro x4
      exact vopCore_kept _ _ _
  clear_value r2
  exact h3

theorem vopCmd_kept (f : ℕ) : (vopCmd f).Kept := by
  unfold vopCmd
  refine ⟨fun s0 s p t g n h => ?_, fun _ _ _ _ _ h => h⟩
  dsimp -zeta only
  exact vopRun_kept h _ _ _ _

theorem vop_kept {s0 : State} {s : State} (hs : Kept s0 s) (f : ℕ) (p : Fin 16) (t : StreamTag) :
    OutKept s0 (vop f p t s) := by
  unfold vop
  refine OutKept.next ?_
  exact issue_kept (vopCmd_kept _) (hs) _ _

theorem execAdd_kept {s0 : State} {s : State} (hs : Kept s0 s) (p : Fin 16) (t : StreamTag) :
    OutKept s0 (execAdd p t s) := by
  unfold execAdd
  exact vop_kept (hs) _ _ _

theorem execSub_kept {s0 : State} {s : State} (hs : Kept s0 s) (p : Fin 16) (t : StreamTag) :
    OutKept s0 (execSub p t s) := by
  unfold execSub
  exact vop_kept (hs) _ _ _

theorem execMul_kept {s0 : State} {s : State} (hs : Kept s0 s) (p : Fin 16) (t : StreamTag) :
    OutKept s0 (execMul p t s) := by
  unfold execMul
  exact vop_kept (hs) _ _ _

theorem execMax_kept {s0 : State} {s : State} (hs : Kept s0 s) (p : Fin 16) (t : StreamTag) :
    OutKept s0 (execMax p t s) := by
  unfold execMax
  exact vop_kept (hs) _ _ _

theorem execMin_kept {s0 : State} {s : State} (hs : Kept s0 s) (p : Fin 16) (t : StreamTag) :
    OutKept s0 (execMin p t s) := by
  unfold execMin
  exact vop_kept (hs) _ _ _

theorem execCvt_kept {s0 : State} {s : State} (hs : Kept s0 s) (p : Fin 16) (t : StreamTag) :
    OutKept s0 (execCvt p t s) := by
  unfold execCvt
  exact vop_kept (hs) _ _ _

theorem execScale_kept {s0 : State} {s : State} (hs : Kept s0 s) (p : Fin 16) (t : StreamTag) :
    OutKept s0 (execScale p t s) := by
  unfold execScale
  exact vop_kept (hs) _ _ _

theorem execOffset_kept {s0 : State} {s : State} (hs : Kept s0 s) (p : Fin 16) (t : StreamTag) :
    OutKept s0 (execOffset p t s) := by
  unfold execOffset
  exact vop_kept (hs) _ _ _

theorem execFuncVop_kept {s0 : State} {s : State} (hs : Kept s0 s) (p : Fin 16) (t : StreamTag) :
    OutKept s0 (execFuncVop p t s) := by
  unfold execFuncVop
  exact vop_kept (hs) _ _ _

theorem execDeriv_kept {s0 : State} {s : State} (hs : Kept s0 s) (p : Fin 16) (t : StreamTag) :
    OutKept s0 (execDeriv p t s) := by
  unfold execDeriv
  exact vop_kept (hs) _ _ _

theorem execRsum_kept {s0 : State} {s : State} (hs : Kept s0 s) (p : Fin 16) (t : StreamTag) :
    OutKept s0 (execRsum p t s) := by
  unfold execRsum
  exact vop_kept (hs) _ _ _

theorem execRmax_kept {s0 : State} {s : State} (hs : Kept s0 s) (p : Fin 16) (t : StreamTag) :
    OutKept s0 (execRmax p t s) := by
  unfold execRmax
  exact vop_kept (hs) _ _ _

theorem execRmin_kept {s0 : State} {s : State} (hs : Kept s0 s) (p : Fin 16) (t : StreamTag) :
    OutKept s0 (execRmin p t s) := by
  unfold execRmin
  exact vop_kept (hs) _ _ _

theorem execRsumsq_kept {s0 : State} {s : State} (hs : Kept s0 s) (p : Fin 16) (t : StreamTag) :
    OutKept s0 (execRsumsq p t s) := by
  unfold execRsumsq
  exact vop_kept (hs) _ _ _

theorem execSoftmax_kept {s0 : State} {s : State} (hs : Kept s0 s) (p : Fin 16) (t : StreamTag) :
    OutKept s0 (execSoftmax p t s) := by
  unfold execSoftmax
  exact vop_kept (hs) _ _ _

theorem execRmsnorm_kept {s0 : State} {s : State} (hs : Kept s0 s) (p : Fin 16) (t : StreamTag) :
    OutKept s0 (execRmsnorm p t s) := by
  unfold execRmsnorm
  exact vop_kept (hs) _ _ _

theorem execLayernorm_kept {s0 : State} {s : State} (hs : Kept s0 s) (p : Fin 16) (t : StreamTag) :
    OutKept s0 (execLayernorm p t s) := by
  unfold execLayernorm
  exact vop_kept (hs) _ _ _

theorem readTable_kept (c : Ctx) (d : Desc) :
    OpKept (readTable c d) := by
  unfold readTable
  refine OpKept.at ?_
  refine OpKept.bind ?_ (fun x1 => ?_)
  · exact readSpace_kept _ _ _ _
  · exact OpKept.nan _

theorem tblloadRun_kept {s0 : State} {s : State} (hs : Kept s0 s) (p : Fin 16) (t : StreamTag) (g : Granule) :
    Kept s0 (tblloadRun s p t g).state := by
  unfold tblloadRun
  split
  · exact Effect.done_kept hs
  · split
    · rename_i he1
      have h2 := Kept.of_exec (s0 := s0) he1
          (by
            exact readTable_kept _ _)
          (by
            exact hs)
      clear he1
      exact h2
    · rename_i he3
      have h4 := Kept.of_exec (s0 := s0) he3
          (by
            exact readTable_kept _ _)
          (by
            exact hs)
      clear he3
      exact h4

theorem tblloadCmd_kept : (tblloadCmd).Kept := by
  unfold tblloadCmd
  refine ⟨fun s0 s p t g n h => ?_, fun _ _ _ _ _ h => h⟩
  dsimp -zeta only
  exact tblloadRun_kept h _ _ _

theorem execTblload_kept {s0 : State} {s : State} (hs : Kept s0 s) (p : Fin 16) (t : StreamTag) :
    OutKept s0 (execTblload p t s) := by
  unfold execTblload
  refine OutKept.next ?_
  exact issue_kept tblloadCmd_kept (hs) _ _

end Sys2Proof.Machine
end

