-- ==== Sys2Proof/Laws/KeptMove.lean ====
section
/-! SUPPORT. What the operations of Machine/Move.lean keep (Laws/Kept.lean): one lemma each, cited by the lemmas of what calls
them. -/

namespace Sys2Proof.Machine

set_option maxRecDepth 4000

theorem moveGroup_kept (c : Ctx) (a : Desc) (d : Desc) (ja : ℕ) (jd : ℕ) (ra : ℕ × ℕ × ℕ) (rd : ℕ × ℕ × ℕ) :
    OpKept (moveGroup c a d ja jd ra rd) := by
  unfold moveGroup
  refine OpKept.bind ?_ (fun x1 => ?_)
  · exact readSpace_kept _ _ _ _
  · extract_lets -merge -useContext -underBinder +onlyGivenNames crumb2
    extract_lets -merge -useContext -underBinder +onlyGivenNames whole3
    extract_lets -merge -useContext -underBinder +onlyGivenNames size4
    exact OpKept.ite (malformed_kept _ _ _) (OpKept.bind (readSpace_kept _ _ _ _) (fun x5 => (OpKept.bind (writeSpace_kept _ _ _ _) (fun x6 => (OpKept.bind (writeSpace_kept _ _ _ _) (fun x7 => (OpKept.mod (fun s0 s h8 => (countCrumb_kept h8 _ _ _ _)))))))))

theorem moveRow_kept (w : Work) (a : Desc) (d : Desc) (j0 : ℕ) (ra : ℕ × ℕ × ℕ) (rd : ℕ × ℕ × ℕ) :
    OpKept (moveRow w a d j0 ra rd) := by
  unfold moveRow
  refine OpKept.ite ?_ ?_
  · exact OpKept.each (fun x1 => by
      exact moveGroup_kept _ _ _ _ _ _ _)
  · refine OpKept.bind ?_ (fun x2 => ?_)
    · exact recallBlocks_kept _ _ _ _ _
    · refine OpKept.bind ?_ (fun x3 => ?_)
      · exact writeRow_kept _ _ _ _ _
      · exact OpKept.pure _

theorem convertLoadRow_kept (w : Work) (a : Desc) (d : Desc) (zps : List ℕ) (i : ℕ) :
    OpKept (convertLoadRow w a d zps i) := by
  unfold convertLoadRow
  extract_lets -merge -useContext -underBinder +onlyGivenNames rd1
  extract_lets -merge -useContext -underBinder +onlyGivenNames ra2
  extract_lets -merge -useContext -underBinder +onlyGivenNames o3
  extract_lets -merge -useContext -underBinder +onlyGivenNames j04
  extract_lets -merge -useContext -underBinder +onlyGivenNames skip5
  extract_lets -merge -useContext -underBinder +onlyGivenNames need6
  refine OpKept.bind ?_ (fun x7 => ?_)
  · exact readValues_kept _ _ _ _ _
  · extract_lets -merge -useContext -underBinder +onlyGivenNames vals8
    refine OpKept.bind ?_ (fun x9 => ?_)
    · exact OpKept.get
    · extract_lets -merge -useContext -underBinder +onlyGivenNames __do_jp_Sys2ProofMachineMove2559645454_hygCtx_hyg13210
      have h11 : ∀ a1, OpKept (__do_jp_Sys2ProofMachineMove2559645454_hygCtx_hyg13210 a1) := by
        intro v12
        unfold __do_jp_Sys2ProofMachineMove2559645454_hygCtx_hyg13210
        exact OpKept.bind (Work.convert_kept _ _ _ _ _) (fun x13 => (OpKept.bind (writeRow_kept _ _ _ _ _) (fun x14 => (OpKept.pure _))))
      clear_value __do_jp_Sys2ProofMachineMove2559645454_hygCtx_hyg13210
      exact OpKept.ite (OpKept.bind (OpKept.mod (fun s0 s h16 => (countDraws_kept h16 _ _))) (fun x15 => (h11 _))) (h11 _)

theorem loadCore_kept (w : Work) (a : Desc) (d : Desc) :
    OpKept (loadCore w a d) := by
  unfold loadCore
  refine OpKept.ite ?_ ?_
  · exact OpKept.each (fun x1 => by
      extract_lets -merge -useContext -underBinder +onlyGivenNames rd2
      exact moveRow_kept _ _ _ _ _ _)
  · refine OpKept.bind ?_ (fun x3 => ?_)
    · exact readZps_kept _ _ _ _
    · exact OpKept.each (fun x4 => by
        exact convertLoadRow_kept _ _ _ _ _)

theorem loadRun_kept {s0 : State} {s : State} (hs : Kept s0 s) (p : Fin 16) (t : StreamTag) (g : Granule) :
    Kept s0 (loadRun s p t g).state := by
  unfold loadRun
  extract_lets -merge -useContext -underBinder +onlyGivenNames r1
  have h2 : Kept s0 (r1).1 := by
    unfold r1
    refine onCoresOf_kept ?_ ?_ _ _ _
    · exact hs
    · intro x3
      exact loadCore_kept _ _ _
  clear_value r1
  exact h2

theorem loadCmd_kept : (loadCmd).Kept := by
  unfold loadCmd
  refine ⟨fun s0 s p t g n h => ?_, fun _ _ _ _ _ h => h⟩
  dsimp -zeta only
  exact loadRun_kept h _ _ _

theorem execLoad_kept {s0 : State} {s : State} (hs : Kept s0 s) (p : Fin 16) (t : StreamTag) :
    OutKept s0 (execLoad p t s) := by
  unfold execLoad
  refine OutKept.next ?_
  exact issue_kept loadCmd_kept (hs) _ _

end Sys2Proof.Machine
end

