-- ==== Sys2Proof/Laws/KeptUpdate.lean ====
section
/-! SUPPORT. What the operations of Machine/Update.lean keep (Laws/Kept.lean): one lemma each, cited by the lemmas of what calls
them. -/

namespace Sys2Proof.Machine

set_option maxRecDepth 4000

theorem readSchedule_kept (c : Ctx) (e : GroupEntry) :
    OpKept (readSchedule c e) := by
  unfold readSchedule
  exact OpKept.bind (readMem_kept _ _ _ _) (fun x1 => (OpKept.pure _))

theorem checkEntry_kept (c : Ctx) (e : GroupEntry) (md : Desc) (gd : Desc) (nd : Desc) :
    OpKept (checkEntry c e md gd nd) := by
  unfold checkEntry
  refine OpKept.bind ?_ (fun x1 => ?_)
  · exact OpKept.get
  · extract_lets -merge -useContext -underBinder +onlyGivenNames m2
    extract_lets -merge -useContext -underBinder +onlyGivenNames len3
    exact OpKept.bind (OpKept.nan _) (fun x4 => (OpKept.bind (OpKept.ite (readSchedule_kept _ _) (OpKept.pure _)) (fun x5 => (OpKept.bind (OpKept.nan _) (fun x6 => (OpKept.ite (OpKept.pure _) (OpKept.stop _)))))))

theorem UpdJob.inf_kept (j : UpdJob) (cb : ℕ) (r : ℕ) (i : ℕ) (made : Bool) :
    OpKept (UpdJob.inf j cb r i made) := by
  unfold UpdJob.inf
  exact OpKept.ite (OpKept.mod (fun s0 s h1 => (noteInf_kept h1 _ _ _ _ _ _))) (OpKept.pure _)

theorem UpdJob.at__kept {α : Type} {m : Op α} (hm : OpKept m) (j : UpdJob) (cb : ℕ) (r : ℕ) (i : ℕ) :
    OpKept (UpdJob.at_ j (α := α) cb r i m) := by
  unfold UpdJob.at_
  refine OpKept.at ?_
  exact hm

theorem UpdJob.calc_kept {α : Type} (j : UpdJob) (m : Arith α) :
    OpKept (UpdJob.calc j m) := by
  unfold UpdJob.calc
  exact OpKept.bind (UpdJob.inf_kept _ _ _ _ _) (fun x1 => (UpdJob.at__kept (OpKept.nan _) _ _ _ _))

theorem bumpUu_kept {s0 : State} {s : State} (hs : Kept s0 s) (u : ℕ) (lo : ℕ) (bit : ℕ) (n : ℕ) :
    Kept s0 (bumpUu s u lo bit n) := by
  unfold bumpUu
  extract_lets -merge -useContext -underBinder +onlyGivenNames b1
  exact bump_kept (hs) _ _ _

theorem setUuLast_kept {s0 : State} {s : State} (hs : Kept s0 s) (u : ℕ) (p : ℕ) (outcome : ℕ) (group : ℕ) :
    Kept s0 (setUuLast s u p outcome group) := by
  unfold setUuLast
  exact setRaw_kept (hs) _ _

theorem UpdJob.row_kept (j : UpdJob) (d : Desc) (cb : ℕ) (r : ℕ) :
    OpKept (UpdJob.row j d cb r) := by
  unfold UpdJob.row
  refine OpKept.atElem ?_
  exact readValues_kept _ _ _ _ _

theorem updRow_kept (j : UpdJob) (c : Coefs) (cb : ℕ) (r : ℕ) (old : List Num) :
    OpKept (updRow j c cb r old) := by
  unfold updRow
  refine OpKept.bind ?_ (fun x1 => ?_)
  · exact UpdJob.row_kept _ _ _ _
  · refine OpKept.bind ?_ (fun x2 => ?_)
    · exact OpKept.ite (UpdJob.row_kept _ _ _ _) (OpKept.pure _)
    · refine OpKept.bind ?_ (fun x3 => ?_)
      · exact OpKept.ite (UpdJob.row_kept _ _ _ _) (OpKept.pure _)
      · extract_lets -merge -useContext -underBinder +onlyGivenNames rs4
        refine OpKept.bind ?_ (fun x5 => ?_)
        · refine OpKept.map (fun x6 => ?_)
          extract_lets -merge -useContext -underBinder +onlyGivenNames lo7
          extract_lets -merge -useContext -underBinder +onlyGivenNames __do_jp_Sys2ProofMachineUpdate3029997685_hygCtx_hyg1538
          have h9 : ∀ a1, OpKept (__do_jp_Sys2ProofMachineUpdate3029997685_hygCtx_hyg1538 a1) := by
            intro v10
            unfold __do_jp_Sys2ProofMachineUpdate3029997685_hygCtx_hyg1538
            exact OpKept.atElem (OpKept.nanAt _ _)
          clear_value __do_jp_Sys2ProofMachineUpdate3029997685_hygCtx_hyg1538
          split
          · exact OpKept.bind (UpdJob.inf_kept _ _ _ _ _) (fun x11 => (h9 _))
          · exact h9 _
        · extract_lets -merge -useContext -underBinder +onlyGivenNames es12
          extract_lets -merge -useContext -underBinder +onlyGivenNames vals13
          exact OpKept.bind (OpKept.map (fun x15 => (UpdJob.at__kept (OpKept.nan _) _ _ _ _))) (fun x14 => (OpKept.bind (UpdJob.at__kept (OpKept.nan _) _ _ _ _) (fun x16 => (OpKept.bind (UpdJob.at__kept (OpKept.nan _) _ _ _ _) (fun x17 => (OpKept.pure _))))))

theorem holdPanel_kept (j : UpdJob) (cb : ℕ) (pj : ℕ) :
    OpKept (holdPanel j cb pj) := by
  unfold holdPanel
  refine OpKept.bind ?_ (fun x1 => ?_)
  · exact OpKept.get
  · extract_lets -merge -useContext -underBinder +onlyGivenNames u2
    exact OpKept.ite (OpKept.pure _) (OpKept.bind (UpdJob.at__kept (crossLinks_kept _ _ _ _) _ _ _ _) (fun x3 => (OpKept.pure _)))

theorem updPanel_kept (j : UpdJob) (c : Coefs) (cb : ℕ) (pj : ℕ) (live : List ℕ) :
    OpKept (updPanel j c cb pj live) := by
  unfold updPanel
  exact OpKept.bind (holdPanel_kept _ _ _) (fun x1 => (OpKept.bind (OpKept.map (fun x3 => (UpdJob.row_kept _ _ _ _))) (fun x2 => (OpKept.bind (OpKept.map (fun x5 => (updRow_kept _ _ _ _ _))) (fun x4 => (OpKept.pure _))))))

theorem encodeAt_kept (j : UpdJob) (d : Desc) (m : ℕ → Rounding) (sc : ℕ) (place : ℕ → ℕ × ℕ × ℕ) (xs : List Num) :
    OpKept (encodeAt j d m sc place xs) := by
  unfold encodeAt
  refine OpKept.atElem ?_
  exact OpKept.nanAt _ _

theorem rowOut_kept (j : UpdJob) (d : Desc) (purpose : ℕ) (scale : List Num → ℕ) (cb : ℕ) (r : ℕ) (xs : List Num) :
    OpKept (rowOut j d purpose scale cb r xs) := by
  unfold rowOut
  refine OpKept.bind ?_ (fun x1 => ?_)
  · exact OpKept.get
  · extract_lets -merge -useContext -underBinder +onlyGivenNames n2
    exact OpKept.map (fun x3 => by
      extract_lets -merge -useContext -underBinder +onlyGivenNames ys4
      exact encodeAt_kept _ _ _ _ _ _)

theorem writePanel_kept (j : UpdJob) (cb : ℕ) (pj : ℕ) (old : List (List Num)) (rows : List RowOut) :
    OpKept (writePanel j cb pj old rows) := by
  unfold writePanel
  refine OpKept.bind ?_ (fun x1 => ?_)
  · exact OpKept.get
  · refine OpKept.bind ?_ (fun x6 => ?_)
    · exact OpKept.map (fun x2 => by
        refine OpKept.bind ?_ (fun x3 => ?_)
        · refine OpKept.ite ?_ ?_
          · exact rowOut_kept _ _ _ _ _ _ _
          · exact OpKept.pure _
        · refine OpKept.bind ?_ (fun x4 => ?_)
          · refine OpKept.ite ?_ ?_
            · exact rowOut_kept _ _ _ _ _ _ _
            · exact OpKept.pure _
          · refine OpKept.bind ?_ (fun x5 => ?_)
            · split
              · exact rowOut_kept _ _ _ _ _ _ _
              · exact OpKept.pure _
            · exact OpKept.pure _)
    · extract_lets -merge -useContext -underBinder +onlyGivenNames stored7
      refine OpKept.bind ?_ (fun x10 => ?_)
      · exact OpKept.map (fun x8 => by
          extract_lets -merge -useContext -underBinder +onlyGivenNames xs9
          exact encodeAt_kept _ _ _ _ _ _)
      · extract_lets -merge -useContext -underBinder +onlyGivenNames at_11
        have h12 : ∀ a16 a17, OpKept a17 → OpKept (@at_11 a16 a17) :=
          (fun x13 x14 h15 => by
          refine UpdJob.at__kept ?_ _ _ _ _
          exact h15)
        clear_value at_11
        refine OpKept.bind ?_ (fun x31 => ?_)
        · exact OpKept.each (fun x18 => by
            refine h12 _ _ ?_
            · extract_lets -merge -useContext -underBinder +onlyGivenNames row19
              refine OpKept.bind ?_ (fun x20 => ?_)
              · exact writeBlocks_kept _ _ _ _ _
              · extract_lets -merge -useContext -underBinder +onlyGivenNames y21
                have h22 : ∀ a29, OpKept (@y21 a29) :=
                  (fun x23 => by
                  unfold y21
                  beta_reduce
                  extract_lets -merge -useContext -underBinder +onlyGivenNames y24
                  have h25 : ∀ a27, OpKept (@y24 a27) :=
                    (fun x26 => by
                    unfold y24
                    beta_reduce
                    split
                    · exact writeBlocks_kept _ _ _ _ _
                    · exact OpKept.pure _)
                  clear_value y24
                  refine OpKept.ite ?_ ?_
                  · refine OpKept.bind ?_ (fun x28 => ?_)
                    · exact writeBlocks_kept _ _ _ _ _
                    · exact h25 _
                  · exact h25 _)
                clear_value y21
                refine OpKept.ite ?_ ?_
                · refine OpKept.bind ?_ (fun x30 => ?_)
                  · exact writeBlocks_kept _ _ _ _ _
                  · exact h22 _
                · exact h22 _)
        · refine OpKept.bind ?_ (fun x33 => ?_)
          · exact OpKept.each (fun x32 => by
              refine h12 _ _ ?_
              · exact writeBlocks_kept _ _ _ _ _)
          · exact OpKept.pure _

theorem countPanel_kept (j : UpdJob) (pass : UpdPass) (cb : ℕ) (pj : ℕ) (live : ℕ) (sat : ℕ) :
    OpKept (countPanel j pass cb pj live sat) := by
  unfold countPanel
  refine OpKept.mod (fun s0 s h1 => ?_)
  extract_lets -merge -useContext -underBinder +onlyGivenNames u2
  refine Kept.ite ?_ ?_
  · exact Kept.ite (bumpUu_kept h1 _ _ _ _) h1
  · extract_lets -merge -useContext -underBinder +onlyGivenNames s3
    have h4 : Kept s0 (s3) := by
      unfold s3
      exact setUuLast_kept h1 _ _ _ _
    clear_value s3
    extract_lets -merge -useContext -underBinder +onlyGivenNames s5
    have h6 : Kept s0 (s5) := by
      unfold s5
      exact bumpUu_kept h4 _ _ _ _
    clear_value s5
    extract_lets -merge -useContext -underBinder +onlyGivenNames s7
    have h8 : Kept s0 (s7) := by
      unfold s7
      exact bumpUu_kept h6 _ _ _ _
    clear_value s7
    extract_lets -merge -useContext -underBinder +onlyGivenNames s9
    have h10 : Kept s0 (s9) := by
      unfold s9
      refine bumpUu_kept ?_ _ _ _ _
      refine Kept.draw 1 (h8) ⟨rfl, rfl, rfl⟩ (fun c => { c with regs := c.regs })
    clear_value s9
    exact Kept.ite (bumpUu_kept (bumpUu_kept h10 _ _ _ _) _ _ _ _) h10

theorem normPass_kept (j : UpdJob) :
    OpKept (normPass j) := by
  unfold normPass
  refine OpKept.fold (fun x1 y2 => ?_)
  refine OpKept.bind ?_ (fun x3 => ?_)
  · exact OpKept.get
  · extract_lets -merge -useContext -underBinder +onlyGivenNames j4
    exact OpKept.bind (OpKept.fold (fun x6 y7 => (OpKept.bind (UpdJob.at__kept (UpdJob.row_kept _ _ _ _) _ _ _ _) (fun x8 => (OpKept.bind (UpdJob.at__kept (OpKept.nan _) _ _ _ _) (fun x9 => (UpdJob.at__kept (OpKept.nan _) _ _ _ _))))))) (fun x5 => (OpKept.bind (countPanel_kept _ _ _ _ _ _) (fun x10 => (OpKept.pure _))))

theorem updPass_kept (j : UpdJob) (c : Coefs) (pass : UpdPass) :
    OpKept (updPass j c pass) := by
  unfold updPass
  refine OpKept.fold (fun x1 y2 => ?_)
  refine OpKept.ite ?_ ?_
  · exact OpKept.bind (countPanel_kept _ _ _ _ _ _) (fun x3 => (OpKept.pure _))
  · refine OpKept.bind ?_ (fun x4 => ?_)
    · exact OpKept.get
    · extract_lets -merge -useContext -underBinder +onlyGivenNames j5
      refine OpKept.bind ?_ (fun x6 => ?_)
      · exact updPanel_kept _ _ _ _ _
      · split
        · exact OpKept.bind (OpKept.ite (writePanel_kept _ _ _ _ _) (OpKept.pure _)) (fun x7 => (OpKept.bind (countPanel_kept _ _ _ _ _ _) (fun x8 => (OpKept.fold (fun x9 y10 => (OpKept.bind (UpdJob.at__kept (OpKept.nan _) _ _ _ _) (fun x11 => (OpKept.bind (UpdJob.at__kept (OpKept.nan _) _ _ _ _) (fun x12 => (OpKept.pure _))))))))))

theorem judge_kept (j : UpdJob) (x : Sums) :
    OpKept (judge j x) := by
  unfold judge
  refine OpKept.bind ?_ (fun x1 => ?_)
  · exact UpdJob.calc_kept _ _
  · refine OpKept.bind ?_ (fun x2 => ?_)
    · exact OpKept.map (fun x3 => (OpKept.bind (UpdJob.calc_kept _ _) (fun x4 => (OpKept.pure _))))
    · extract_lets -merge -useContext -underBinder +onlyGivenNames b5
      exact OpKept.pure _

theorem postUpd_kept {s0 : State} {s : State} (hs : Kept s0 s) (p : Fin 16) (t : StreamTag) (g : Granule) (events : ℕ) (i : ℕ) :
    Kept s0 (postUpd p t g events s i) := by
  unfold postUpd
  refine Kept.ite ?_ ?_
  · extract_lets -merge -useContext -underBinder +onlyGivenNames s1
    have h2 : Kept s0 s1 := by
      exact postBit_kept (hs) _ _
    clear_value s1
    refine Kept.ite ?_ ?_
    · exact h2
    · exact postEvent_kept (h2) _ _ _ _ _ _ _
  · exact hs

theorem postUpds_kept {s0 : State} {s : State} (hs : Kept s0 s) (p : Fin 16) (t : StreamTag) (g : Granule) (events : ℕ) :
    Kept s0 (postUpds s p t g events) := by
  unfold postUpds
  refine Kept.foldl ?_ (fun a2 b3 h1 => ?_)
  · exact hs
  · exact postUpd_kept (h1) _ _ _ _ _

theorem readBitmaps_kept (c : Ctx) (e : GroupEntry) (md : Desc) (gd : Desc) :
    OpKept (readBitmaps c e md gd) := by
  unfold readBitmaps
  exact OpKept.ite (OpKept.pure _) (OpKept.bind (OpKept.map (fun x2 => (readMem_kept _ _ _ _))) (fun x1 => (OpKept.pure _)))

theorem gradNorm_kept (j : UpdJob) :
    OpKept (gradNorm j) := by
  unfold gradNorm
  extract_lets -merge -useContext -underBinder +onlyGivenNames at_1
  have h2 : ∀ a1 a2, OpKept a2 → OpKept (@at_1 a1 a2) := by
    intro v3 v4 h5
    unfold at_1
    exact UpdJob.at__kept h5 _ _ _ _
  clear_value at_1
  refine OpKept.bind ?_ (fun x6 => ?_)
  · split
    · exact OpKept.ite (OpKept.pure _) (OpKept.bind (OpKept.map (fun x8 => (h2 _ _ (OpKept.bind (readMem_kept _ _ _ _) (fun x9 => (OpKept.nan _)))))) (fun x7 => (OpKept.fold (fun x10 y11 => (h2 _ _ (OpKept.nan _))))))
    · exact normPass_kept _
    · exact OpKept.pure _
  · exact OpKept.ite (OpKept.pure _) (UpdJob.calc_kept _ _)

theorem holdUnits_kept (j : UpdJob) :
    OpKept (holdUnits j) := by
  unfold holdUnits
  exact OpKept.each (fun x1 => by
    refine OpKept.mod (fun s0 s h2 => ?_)
    exact setUuLast_kept (h2) _ _ _ _)

theorem updRun_kept (w : Work) (md : Desc) (a1 : Desc) (a2 : Desc) (gd : Desc) (nd : Desc) (ed : Option Desc) :
    OpKept (updRun w md a1 a2 gd nd ed) := by
  unfold updRun
  extract_lets -merge -useContext -underBinder +onlyGivenNames group1
  extract_lets -merge -useContext -underBinder +onlyGivenNames at_2
  have h3 : ∀ a1 a2, OpKept a2 → OpKept (@at_2 a1 a2) := by
    intro v4 v5 h6
    unfold at_2
    exact OpKept.at h6
  clear_value at_2
  refine OpKept.bind ?_ (fun x7 => ?_)
  · exact OpKept.get
  · refine OpKept.bind ?_ (fun x8 => ?_)
    · exact h3 _ _ (readMem_kept _ _ _ _)
    · refine OpKept.bind ?_ (fun x9 => ?_)
      · exact h3 _ _ (checkEntry_kept _ _ _ _ _)
      · refine OpKept.bind ?_ (fun x10 => ?_)
        · exact h3 _ _ (readBitmaps_kept _ _ _ _)
        · extract_lets -merge -useContext -underBinder +onlyGivenNames j11
          extract_lets -merge -useContext -underBinder +onlyGivenNames mark12
          extract_lets -merge -useContext -underBinder +onlyGivenNames fresh13
          extract_lets -merge -useContext -underBinder +onlyGivenNames t14
          refine OpKept.bind ?_ (fun x15 => ?_)
          · exact gradNorm_kept _
          · extract_lets -merge -useContext -underBinder +onlyGivenNames clipped16
            refine OpKept.bind ?_ (fun x17 => ?_)
            · exact OpKept.ite (UpdJob.calc_kept _ _) (OpKept.pure _)
            · refine OpKept.bind ?_ (fun x18 => ?_)
              · exact UpdJob.calc_kept _ _
              · extract_lets -merge -useContext -underBinder +onlyGivenNames measure19
                refine OpKept.bind ?_ (fun x20 => ?_)
                · exact OpKept.ite (OpKept.bind (updPass_kept _ _ _) (fun x21 => (OpKept.bind (judge_kept _ _) (fun x22 => (OpKept.pure _))))) (OpKept.pure _)
                · extract_lets -merge -useContext -underBinder +onlyGivenNames held23
                  extract_lets -merge -useContext -underBinder +onlyGivenNames bit24
                  extract_lets -merge -useContext -underBinder +onlyGivenNames early25
                  refine OpKept.bind ?_ (fun x26 => ?_)
                  · exact OpKept.mod (fun s0 s h27 => (postUpds_kept h27 _ _ _ _))
                  · extract_lets -merge -useContext -underBinder +onlyGivenNames __do_jp_Sys2ProofMachineUpdate3459509930_hygCtx_hyg35128
                    have h29 : ∀ a1, OpKept (__do_jp_Sys2ProofMachineUpdate3459509930_hygCtx_hyg35128 a1) := by
                      intro v30
                      unfold __do_jp_Sys2ProofMachineUpdate3459509930_hygCtx_hyg35128
                      refine OpKept.bind ?_ (fun x31 => ?_)
                      · exact OpKept.ite (OpKept.pure _) (OpKept.bind (updPass_kept _ _ _) (fun x32 => (judge_kept _ _)))
                      · refine OpKept.bind ?_ (fun x33 => ?_)
                        · refine OpKept.mod (fun s0 s h34 => ?_)
                          refine Kept.draw 1 (h34) ⟨rfl, rfl, rfl⟩ (fun c => { c with regs := c.regs })
                        · exact OpKept.pure _
                    clear_value __do_jp_Sys2ProofMachineUpdate3459509930_hygCtx_hyg35128
                    exact OpKept.ite (OpKept.bind (holdUnits_kept _) (fun x35 => (h29 _))) (h29 _)

theorem stopUnits_kept {s0 : State} {old : State} {s : State} (hs : Kept s0 old) (hs2 : Kept s0 s) (p : Fin 16) (group : ℕ) :
    Kept s0 (stopUnits old s p group) := by
  unfold stopUnits
  refine Kept.foldl ?_ (fun a3 b4 h1 => ?_)
  · exact hs2
  · extract_lets -merge -useContext -underBinder +onlyGivenNames panels2
    refine Kept.ite ?_ ?_
    · exact h1
    · exact setUuLast_kept (h1) _ _ _ _

theorem updEffect_kept {s0 : State} {s : State} (hs : Kept s0 s) (p : Fin 16) (t : StreamTag) (g : Granule) :
    Kept s0 (updEffect s p t g).state := by
  unfold updEffect
  extract_lets -merge -useContext -underBinder +onlyGivenNames w1
  extract_lets -merge -useContext -underBinder +onlyGivenNames d2
  extract_lets -merge -useContext -underBinder +onlyGivenNames r3
  have h4 : Kept s0 r3.2 := by
    refine Op.exec_kept ?_ (freshRows_kept (hs))
    exact updRun_kept _ _ _ _ _ _ _
  clear_value r3
  split
  · refine Kept.effect ?_
    exact h4
  · refine Kept.effect ?_
    exact stopUnits_kept (hs) (h4) _ _

theorem finishUpd_kept {s0 : State} {s : State} (hs : Kept s0 s) (p : Fin 16) (t : StreamTag) (f : Flight) :
    Kept s0 (finishUpd s p t f) := by
  unfold finishUpd
  split
  · extract_lets -merge -useContext -underBinder +onlyGivenNames group1
    split
    · rename_i he2
      have h3 := Kept.of_exec (s0 := s0) he2
          (by
            exact OpKept.at (writeMem_kept _ _ _ _))
          (by
            exact hs)
      clear he2
      exact completeFlight_kept (postUpds_kept h3 _ _ _ _) _ _ _
    · rename_i he4
      have h5 := Kept.of_exec (s0 := s0) he4
          (by
            exact OpKept.at (writeMem_kept _ _ _ _))
          (by
            exact hs)
      clear he4
      exact Kept.ite (noteWait_kept hs _ _) (trapFlight_kept (stopUpds_kept h5 _) _ _ _ _)
  · exact completeFlight_kept hs _ _ _

theorem updCmd_kept : (updCmd).Kept := by
  unfold updCmd
  refine ⟨fun s0 s p t g n h => ?_, fun _ _ _ _ _ h => h⟩
  dsimp -zeta only
  exact updEffect_kept h _ _ _

theorem execUpd_kept {s0 : State} {s : State} (hs : Kept s0 s) (p : Fin 16) (t : StreamTag) :
    OutKept s0 (execUpd p t s) := by
  unfold execUpd
  refine OutKept.next ?_
  exact issue_kept updCmd_kept (hs) _ _

end Sys2Proof.Machine
end

