-- ==== Sys2Proof/Laws/KeptTiers.lean ====
section
/-! SUPPORT. What the operations of Machine/Tiers.lean keep (Laws/Kept.lean): one lemma each, cited by the lemmas of what calls
them. -/

namespace Sys2Proof.Machine

set_option maxRecDepth 4000

theorem swapRange_wf {α : Type} [DecidableEq α] {d : α} {m : Sparse α} (hm : Sparse.wf d m = true) (a b n : ℕ) :
    Sparse.wf d (swapRange d m a b n) = true := by
  have put : ∀ (m : Sparse α) (lo dst : ℕ) (es : Sparse α), Sparse.wf d m = true →
      Sparse.wf d (es.foldl (fun m e => Sparse.set d m (e.1 - lo + dst) e.2) m) = true := fun m lo dst es h =>
    Sparse.foldl_wf _ (fun _ _ h => Sparse.set_wf _ _ h) es h
  exact put _ _ _ _ (put _ _ _ _ (Sparse.clearRange_wf _ _ (Sparse.clearRange_wf _ _ hm)))

theorem migrCmd_kept : (migrCmd).Kept := by
  unfold migrCmd
  refine ⟨fun s0 s p t g n h => ?_, fun _ _ _ _ _ h => h⟩
  dsimp -zeta only
  extract_lets -merge -useContext -underBinder +onlyGivenNames r1
  exact Kept.effect (State.modPart_kept h _ _)

theorem execMigr_kept {s0 : State} {s : State} (hs : Kept s0 s) (p : Fin 16) (t : StreamTag) :
    OutKept s0 (execMigr p t s) := by
  unfold execMigr
  refine OutKept.next ?_
  exact issue_kept migrCmd_kept (hs) _ _

theorem advanceStream_kept {s0 : State} {s : State} (h : Kept s0 s) (p : Fin 16) (t : StreamTag) (fs : List Flight) :
    Kept s0 (advanceStream p t fs s) := by
  induction fs generalizing s with
  | nil => exact h
  | cons f fs ih =>
    rw [advanceStream]
    refine ih ?_
    split
    · exact setWait_kept (State.modPart_kept h _ _) _ _ _ _
    · exact h

theorem advanceMigrs_kept {s0 : State} {s : State} (hs : Kept s0 s) (p : Fin 16) :
    Kept s0 (advanceMigrs s p) := by
  unfold advanceMigrs
  refine Kept.foldl ?_ (fun a2 b3 h1 => ?_)
  · exact hs
  · exact advanceStream_kept (h1) _ _ _

theorem autoExchanges_kept {s0 : State} {s : State} (hs : Kept s0 s) (west : Bool) (n : ℕ) :
    Kept s0 (autoExchanges west n s) := by
  induction n generalizing s with
  | zero => exact hs
  | succ n ih =>
    rw [autoExchanges]
    split
    · exact ih (State.modPart_kept hs _ _)
    · exact hs

theorem notePin_kept {s0 : State} {s : State} (hs : Kept s0 s) (p : Fin 16) :
    Kept s0 (notePin s p) := by
  unfold notePin
  exact Kept.ite (bump_kept hs _ _ _) hs

theorem newWindow_kept {s0 : State} {s : State} (hs : Kept s0 s) (p : Fin 16) :
    Kept s0 (newWindow s p) := by
  unfold newWindow
  exact State.modPart_kept hs _ _

theorem execAutoMigrationWindow_kept {s0 : State} {s : State} (hs : Kept s0 s) (eastFirst : Bool) :
    OutKept s0 (execAutoMigrationWindow eastFirst s) := by
  unfold execAutoMigrationWindow
  extract_lets -merge -useContext -underBinder +onlyGivenNames n1
  extract_lets -merge -useContext -underBinder +onlyGivenNames s2
  have h3 : Kept s0 (s2) := by
    unfold s2
    exact Kept.foldl hs (fun a4 b5 h6 => (notePin_kept h6 _))
  clear_value s2
  exact OutKept.next (Kept.foldl (autoExchanges_kept (autoExchanges_kept h3 _ _) _ _) (fun a7 b8 h9 => (newWindow_kept h9 _)))

theorem cleanFrame_kept (id : ℕ) (page : ℕ) :
    OpKept (cleanFrame id page) := by
  unfold cleanFrame
  exact OpKept.bind OpKept.get (fun x1 => (OpKept.each (fun x2 => (OpKept.bind (readGranule_kept _ _ _) (fun x3 => (OpKept.mod (fun s0 s h4 => (putBytes_kept h4 _ _ _))))))))

theorem crossFrames_kept (die : ℕ) (upper : ℕ) (page : ℕ) :
    OpKept (crossFrames die upper page) := by
  unfold crossFrames
  refine OpKept.bind ?_ (fun x1 => ?_)
  · exact OpKept.get
  · split
    · extract_lets -merge -useContext -underBinder +onlyGivenNames d2
      extract_lets -merge -useContext -underBinder +onlyGivenNames dev3
      refine OpKept.bind ?_ (fun x4 => ?_)
      · refine crossed_kept _ _ ?_ _
        intro x5
        exact crossIn_kept _ _ _ _
      · refine OpKept.bind ?_ (fun x6 => ?_)
        · exact OpKept.get
        · refine OpKept.bind ?_ (fun x7 => ?_)
          · refine crossed_kept _ _ ?_ _
            intro x8
            exact crossOut_kept _ _ _ _
          · exact OpKept.pure _
    · exact OpKept.pure _

theorem countFrame_kept {s0 : State} {s : State} (hs : Kept s0 s) (id : ℕ) (write : Bool) :
    Kept s0 (countFrame s id write) := by
  unfold countFrame
  exact Kept.ite (countAccess_kept hs _ _ _ _ _) (Kept.foldl hs (fun a1 b2 h3 => (bump_kept h3 _ _ _)))

theorem swapFrames_kept {s0 : State} {s : State} (h : Kept s0 s) (a : ℕ) (b : ℕ) :
    Kept s0 (swapFrames s a b) := by
  unfold swapFrames
  exact Kept.upd h ⟨rfl, rfl, rfl⟩ (fun c => { c with mem := swapRange_wf c.mem _ _ _, errs := swapRange_wf c.errs _ _ _ })

theorem exchangeFault_kept {s0 : State} {s : State} (hs : Kept s0 s) (p : Fin 16) (page : ℕ) (e : Trap) :
    Kept s0 (exchangeFault s p page e) := by
  unfold exchangeFault
  extract_lets -merge -useContext -underBinder +onlyGivenNames e1
  split
  · exact trapFlight_kept hs _ _ _ _
  · exact startDrain_kept (recordFault_kept hs _ _) _

theorem readExchange_kept (m : PartMem) (e : Exchange) :
    OpKept (readExchange m e) := by
  unfold readExchange
  extract_lets -merge -useContext -underBinder +onlyGivenNames a1
  extract_lets -merge -useContext -underBinder +onlyGivenNames b2
  exact OpKept.bind (OpKept.mod (fun s0 s h4 => (countFrame_kept h4 _ _))) (fun x3 => (OpKept.bind (cleanFrame_kept _ _) (fun x5 => (OpKept.bind (OpKept.mod (fun s0 s h7 => (countFrame_kept h7 _ _))) (fun x6 => (OpKept.bind (cleanFrame_kept _ _) (fun x8 => (OpKept.ite (crossFrames_kept _ _ _) (crossFrames_kept _ _ _)))))))))

theorem endExchange_kept {s0 : State} {s : State} (hs : Kept s0 s) (p : Fin 16) (index : ℕ) :
    Kept s0 (endExchange p index s) := by
  unfold endExchange
  split
  · exact hs
  · extract_lets -merge -useContext -underBinder +onlyGivenNames m1
    extract_lets -merge -useContext -underBinder +onlyGivenNames a2
    extract_lets -merge -useContext -underBinder +onlyGivenNames b3
    extract_lets -merge -useContext -underBinder +onlyGivenNames drop4
    split
    · rename_i he5
      have h6 := Kept.of_exec (s0 := s0) he5
          (by
            exact readExchange_kept _ _)
          (by
            exact State.modPart_kept hs _ _)
      clear he5
      exact exchangeFault_kept h6 _ _ _
    · rename_i he7
      have h8 := Kept.of_exec (s0 := s0) he7
          (by
            exact readExchange_kept _ _)
          (by
            exact State.modPart_kept hs _ _)
      clear he7
      extract_lets -merge -useContext -underBinder +onlyGivenNames s9
      have h10 : Kept s0 (s9) := by
        unfold s9
        exact bump_kept (countFrame_kept (countFrame_kept (swapFrames_kept h8 _ _) _ _) _ _) _ _ _
      clear_value s9
      extract_lets -merge -useContext -underBinder +onlyGivenNames swap11
      exact advanceMigrs_kept (State.modPart_kept h10 _ _) _

theorem frameZeroed_kept {s0 : State} {s : State} (hs : Kept s0 s) (p : Fin 16) (index : ℕ) :
    Kept s0 (frameZeroed p index s) := by
  unfold frameZeroed
  split
  · exact hs
  · exact State.modPart_kept (zeroFrame_kept hs _) _ _

theorem pubCopy_kept (w : Work) (a : Desc) (r : Desc) :
    OpKept (pubCopy w a r) := by
  unfold pubCopy
  exact OpKept.each (fun x1 => by
    refine OpKept.at ?_
    exact moveRow_kept _ _ _ _ _ _)

theorem pubCmd_kept : (pubCmd).Kept := by
  unfold pubCmd
  refine ⟨fun s0 s p t g n h => ?_, fun _ _ _ _ _ h => h⟩
  dsimp -zeta only
  refine Kept.iteState ?_ ?_
  · split
    · rename_i he1
      have h2 := Kept.of_exec (s0 := s0) he1
          (by
            exact pubCopy_kept _ _ _)
          (by
            exact h)
      clear he1
      exact h2
    · rename_i he3
      have h4 := Kept.of_exec (s0 := s0) he3
          (by
            exact pubCopy_kept _ _ _)
          (by
            exact h)
      clear he3
      exact h4
  · exact h

theorem execPub_kept {s0 : State} {s : State} (hs : Kept s0 s) (p : Fin 16) (t : StreamTag) :
    OutKept s0 (execPub p t s) := by
  unfold execPub
  refine OutKept.next ?_
  exact issue_kept pubCmd_kept (hs) _ _

theorem execPubPublish_kept {s0 : State} {s : State} (hs : Kept s0 s) (p : Fin 16) (t : StreamTag) (k : ℕ) :
    OutKept s0 (execPubPublish p t k s) := by
  unfold execPubPublish
  extract_lets -merge -useContext -underBinder +onlyGivenNames x1
  split
  · split
    · extract_lets -merge -useContext -underBinder +onlyGivenNames earlier2
      refine OutKept.ite ?_ ?_
      · refine OutKept.next ?_
        exact hs
      · refine OutKept.next ?_
        exact setWait_kept (State.modPart_kept (hs) _ _) _ _ _ _
    · refine OutKept.next ?_
      exact hs
  · refine OutKept.next ?_
    exact hs

theorem readPref_kept (w : Work) (win : Desc) (list : Desc) :
    OpKept (readPref w win list) := by
  unfold readPref
  refine OpKept.bind ?_ (fun x1 => ?_)
  · exact OpKept.get
  · extract_lets -merge -useContext -underBinder +onlyGivenNames n2
    refine OpKept.bind ?_ (fun x3 => ?_)
    · exact readDev_kept _ _ _
    · extract_lets -merge -useContext -underBinder +onlyGivenNames es4
      exact OpKept.ite (OpKept.stop _) (OpKept.pure _)

theorem acceptPref_kept {s0 : State} {s : State} (hs : Kept s0 s) (p : Fin 16) (t : StreamTag) (g : Granule) :
    Kept s0 (acceptPref s p t g).state := by
  unfold acceptPref
  extract_lets -merge -useContext -underBinder +onlyGivenNames w1
  split
  · rename_i he
    have h2 := Kept.of_exec (s0 := s0) he (by
        refine OpKept.at ?_
        exact readPref_kept _ _ _)
        (by
        exact hs)
    clear he
    refine Kept.effect ?_
    exact h2
  · rename_i he
    have h3 := Kept.of_exec (s0 := s0) he (by
        refine OpKept.at ?_
        exact readPref_kept _ _ _)
        (by
        exact hs)
    clear he
    refine Kept.iteState ?_ ?_
    · exact Effect.done_kept (State.modPart_kept (h3) _ _)
    · refine Kept.effect ?_
      exact h3

theorem prefCmd_kept : (prefCmd).Kept := by
  unfold prefCmd
  refine ⟨fun s0 s p t g n h => ?_, fun _ _ _ _ _ h => h⟩
  dsimp -zeta only
  exact acceptPref_kept h _ _ _

theorem execPref_kept {s0 : State} {s : State} (hs : Kept s0 s) (p : Fin 16) (t : StreamTag) :
    OutKept s0 (execPref p t s) := by
  unfold execPref
  refine OutKept.next ?_
  exact issue_kept prefCmd_kept (hs) _ _

theorem retryStream_kept {s0 : State} {s : State} (hs : Kept s0 s) (p : Fin 16) (t : StreamTag) (fs : List Flight) :
    Kept s0 (retryStream p t fs s) := by
  induction fs generalizing s with
  | nil => exact hs
  | cons f fs ih =>
    rw [retryStream]
    refine Kept.ite ?_ (Kept.ite hs (ih hs))
    have h := acceptPref_kept hs p t f.word
    dsimp only
    refine Kept.ite (Kept.foldl hs (fun _ e h => noteWait_kept h _ e)) ?_
    split
    · exact h
    · exact ih (setWait_kept h _ _ _ _)
    · exact trapFlight_kept h _ _ _ _

theorem retryPrefs_kept {s0 : State} {s : State} (hs : Kept s0 s) (p : Fin 16) :
    Kept s0 (retryPrefs s p) := by
  unfold retryPrefs
  refine Kept.foldl ?_ (fun a2 b3 h1 => ?_)
  · exact hs
  · exact retryStream_kept (h1) _ _ _

theorem dropPrefetches_kept {s0 : State} {s : State} (hs : Kept s0 s) (p : Fin 16) :
    Kept s0 (dropPrefetches s p) := by
  unfold dropPrefetches
  exact retryPrefs_kept (State.modPart_kept hs _ _) _

theorem execPrefetchEntryStart_kept {s0 : State} {s : State} (hs : Kept s0 s) (p : Fin 16) :
    OutKept s0 (execPrefetchEntryStart p s) := by
  unfold execPrefetchEntryStart
  extract_lets -merge -useContext -underBinder +onlyGivenNames x1
  split
  · extract_lets -merge -useContext -underBinder +onlyGivenNames n2
    refine OutKept.ite ?_ ?_
    · extract_lets -merge -useContext -underBinder +onlyGivenNames y3
      extract_lets -merge -useContext -underBinder +onlyGivenNames m4
      refine OutKept.next ?_
      exact State.setPart_kept (hs) _ _
    · refine OutKept.next ?_
      exact hs
  · refine OutKept.next ?_
    exact hs

theorem prefCopy_kept (p : Fin 16) (e : PrefEntry) (slot : ℕ) :
    OpKept (prefCopy p e slot) := by
  unfold prefCopy
  extract_lets -merge -useContext -underBinder +onlyGivenNames __do_jp_Sys2ProofMachineTiers2841362682_hygCtx_hyg151
  have h2 : ∀ a1, OpKept (__do_jp_Sys2ProofMachineTiers2841362682_hygCtx_hyg151 a1) := by
    intro v3
    unfold __do_jp_Sys2ProofMachineTiers2841362682_hygCtx_hyg151
    refine OpKept.each (fun x4 => ?_)
    refine OpKept.bind ?_ (fun x5 => ?_)
    · exact OpKept.get
    · extract_lets -merge -useContext -underBinder +onlyGivenNames a6
      extract_lets -merge -useContext -underBinder +onlyGivenNames die7
      exact OpKept.bind (readMem_kept _ _ _ _) (fun x8 => (writeMem_kept _ _ _ _))
  clear_value __do_jp_Sys2ProofMachineTiers2841362682_hygCtx_hyg151
  exact OpKept.ite (OpKept.bind (OpKept.stop _) (fun x9 => (h2 _))) (h2 _)

theorem execPrefetchCopyDone_kept {s0 : State} {s : State} (hs : Kept s0 s) (p : Fin 16) :
    OutKept s0 (execPrefetchCopyDone p s) := by
  unfold execPrefetchCopyDone
  extract_lets -merge -useContext -underBinder +onlyGivenNames x1
  split
  · split
    · refine OutKept.ite ?_ ?_
      · exact OutKept.next hs
      · extract_lets -merge -useContext -underBinder +onlyGivenNames r2
        have h3 : Kept s0 (r2).2 := by
          unfold r2
          exact Op.exec_kept (prefCopy_kept _ _ _) hs
        clear_value r2
        extract_lets -merge -useContext -underBinder +onlyGivenNames s4
        have h5 : Kept s0 (s4) := by
          unfold s4
          exact State.modPart_kept h3 _ _
        clear_value s4
        split
        · exact OutKept.next (startDrain_kept (recordFault_kept h5 _ _) _)
        · extract_lets -merge -useContext -underBinder +onlyGivenNames s6
          have h7 : Kept s0 (s6) := by
            unfold s6
            exact bump_kept h5 _ _ _
          clear_value s6
          extract_lets -merge -useContext -underBinder +onlyGivenNames s8
          have h9 : Kept s0 (s8) := by
            unfold s8
            exact Kept.ite (applySignal_kept h7 _ _ _) h7
          clear_value s8
          exact OutKept.next (retryPrefs_kept h9 _)
    · exact OutKept.next hs
  · exact OutKept.next hs

end Sys2Proof.Machine
end

