-- ==== Sys2Proof/Laws/KeptPower.lean ====
section
/-! SUPPORT. What the operations of Machine/Power.lean keep (Laws/Kept.lean): one lemma each, cited by the lemmas of what calls
them. -/

namespace Sys2Proof.Machine

set_option maxRecDepth 4000

theorem setStatus_kept {s0 : State} {s : State} (hs : Kept s0 s) (i : ℕ) (b : Bool) :
    Kept s0 (setStatus s i b) := by
  unfold setStatus
  exact setRaw_kept (hs) _ _

theorem pwrEvent_kept {s0 : State} {s : State} (hs : Kept s0 s) (i : ℕ) :
    Kept s0 (pwrEvent s i) := by
  unfold pwrEvent
  exact postBit_kept (hs) _ _

theorem setPower_kept {s0 : State} {s : State} (hs : Kept s0 s) (f : Power → Power) :
    Kept s0 (setPower s f) := by
  unfold setPower
  exact Kept.plain (hs)

theorem averageLoop_kept {s0 : State} {s : State} (hs : Kept s0 s) (m : PowerReading) :
    Kept s0 (averageLoop m s) := by
  unfold averageLoop
  extract_lets -merge -useContext -underBinder +onlyGivenNames cap1
  extract_lets -merge -useContext -underBinder +onlyGivenNames x2
  extract_lets -merge -useContext -underBinder +onlyGivenNames order3
  extract_lets -merge -useContext -underBinder +onlyGivenNames floor4
  extract_lets -merge -useContext -underBinder +onlyGivenNames r5
  extract_lets -merge -useContext -underBinder +onlyGivenNames ls6
  extract_lets -merge -useContext -underBinder +onlyGivenNames s7
  have h8 : Kept s0 (s7) := by
    unfold s7
    exact setRaw_kept hs _ _
  clear_value s7
  extract_lets -merge -useContext -underBinder +onlyGivenNames s9
  have h10 : Kept s0 (s9) := by
    unfold s9
    exact Kept.foldl h8 (fun a11 b12 h13 => (setRaw_kept h13 _ _))
  clear_value s9
  extract_lets -merge -useContext -underBinder +onlyGivenNames s14
  have h15 : Kept s0 (s14) := by
    unfold s14
    exact setPower_kept h10 _
  clear_value s14
  extract_lets -merge -useContext -underBinder +onlyGivenNames s16
  have h17 : Kept s0 (s16) := by
    unfold s16
    exact setPower_kept h15 _
  clear_value s16
  extract_lets -merge -useContext -underBinder +onlyGivenNames s18
  have h19 : Kept s0 (s18) := by
    unfold s18
    exact Kept.ite (bumpPm_kept h17 _ _) h17
  clear_value s18
  extract_lets -merge -useContext -underBinder +onlyGivenNames s20
  have h21 : Kept s0 (s20) := by
    unfold s20
    exact Kept.ite (bumpPm_kept h19 _ _) h19
  clear_value s20
  extract_lets -merge -useContext -underBinder +onlyGivenNames s22
  have h23 : Kept s0 (s22) := by
    unfold s22
    exact Kept.ite (pwrEvent_kept (setStatus_kept h21 _ _) _) h21
  clear_value s22
  extract_lets -merge -useContext -underBinder +onlyGivenNames s24
  have h25 : Kept s0 (s24) := by
    unfold s24
    split
    · exact Kept.ite (bumpPm_kept h23 _ _) h23
    · exact h23
  clear_value s24
  exact startMove_kept h25

theorem execAverageLoop_kept {s0 : State} {s : State} (hs : Kept s0 s) (m : PowerReading) :
    OutKept s0 (execAverageLoop m s) := by
  unfold execAverageLoop
  refine OutKept.next ?_
  exact averageLoop_kept (hs) _

theorem shedNext_kept {s0 : State} {s : State} (hs : Kept s0 s) :
    Kept s0 (shedNext s) := by
  unfold shedNext
  refine Kept.ite ?_ ?_
  · extract_lets -merge -useContext -underBinder +onlyGivenNames all1
    split
    · exact pwrEvent_kept (setPower_kept (hs) _) _
    · exact hs
  · exact hs

theorem unshedNext_kept {s0 : State} {s : State} (hs : Kept s0 s) :
    Kept s0 (unshedNext s) := by
  unfold unshedNext
  extract_lets -merge -useContext -underBinder +onlyGivenNames kept1
  extract_lets -merge -useContext -underBinder +onlyGivenNames next2
  clear_value next2
  split
  · refine Kept.ite ?_ ?_
    · extract_lets -merge -useContext -underBinder +onlyGivenNames s3
      have h4 : Kept s0 s3 := by
        exact setPower_kept (hs) _
      clear_value s3
      extract_lets -merge -useContext -underBinder +onlyGivenNames s5
      have h6 : Kept s0 s5 := by
        refine Kept.ite ?_ ?_
        · exact setStatus_kept (h4) _ _
        · exact h4
      clear_value s5
      exact demandAll_kept (h6) _
    · exact hs
  · exact hs

theorem execPeakLoop_kept {s0 : State} {s : State} (hs : Kept s0 s) (m : PeakReading) :
    OutKept s0 (execPeakLoop m s) := by
  unfold execPeakLoop
  extract_lets -merge -useContext -underBinder +onlyGivenNames s1
  have h2 : Kept s0 (s1) := by
    unfold s1
    exact Kept.plain hs
  clear_value s1
  extract_lets -merge -useContext -underBinder +onlyGivenNames s3
  have h4 : Kept s0 (s3) := by
    unfold s3
    exact setRaw_kept h2 _ _
  clear_value s3
  extract_lets -merge -useContext -underBinder +onlyGivenNames s5
  have h6 : Kept s0 (s5) := by
    unfold s5
    exact Kept.ite (bumpPm_kept h4 _ _) h4
  clear_value s5
  extract_lets -merge -useContext -underBinder +onlyGivenNames s7
  have h8 : Kept s0 (s7) := by
    unfold s7
    exact Kept.ite (bumpPm_kept h6 _ _) h6
  clear_value s7
  extract_lets -merge -useContext -underBinder +onlyGivenNames s9
  have h10 : Kept s0 (s9) := by
    unfold s9
    exact Kept.ite (setStatus_kept h8 _ _) (Kept.ite (setStatus_kept h8 _ _) h8)
  clear_value s9
  exact OutKept.next (setPower_kept h10 _)

theorem execDroopTrip_kept {s0 : State} {s : State} (hs : Kept s0 s) (die : Fin 3) :
    OutKept s0 (execDroopTrip die s) := by
  unfold execDroopTrip
  refine OutKept.next ?_
  exact bumpPm_kept (setPower_kept (hs) _) _ _

theorem execDroopRecover_kept {s0 : State} {s : State} (hs : Kept s0 s) (die : Fin 3) :
    OutKept s0 (execDroopRecover die s) := by
  unfold execDroopRecover
  refine OutKept.next ?_
  exact setPower_kept (hs) _

theorem execDroopStretchLimit_kept {s0 : State} {s : State} (hs : Kept s0 s) (die : Fin 3) :
    OutKept s0 (execDroopStretchLimit die s) := by
  unfold execDroopStretchLimit
  refine OutKept.ite ?_ ?_
  · refine OutKept.next ?_
    exact setPower_kept (hs) _
  · refine OutKept.next ?_
    exact hs

theorem execPwrbrkEngage_kept {s0 : State} {s : State} (hs : Kept s0 s) :
    OutKept s0 (execPwrbrkEngage s) := by
  unfold execPwrbrkEngage
  extract_lets -merge -useContext -underBinder +onlyGivenNames fresh1
  extract_lets -merge -useContext -underBinder +onlyGivenNames s2
  have h3 : Kept s0 s2 := by
    exact setPower_kept (hs) _
  clear_value s2
  refine OutKept.next ?_
  refine startMove_kept ?_
  refine Kept.ite ?_ ?_
  · exact pwrEvent_kept (h3) _
  · exact h3

theorem execPwrbrkIgnore_kept {s0 : State} {s : State} (hs : Kept s0 s) :
    OutKept s0 (execPwrbrkIgnore s) := by
  unfold execPwrbrkIgnore
  refine OutKept.next ?_
  exact bumpPm_kept (hs) _ _

theorem execPwrbrkHigh_kept {s0 : State} {s : State} (hs : Kept s0 s) :
    OutKept s0 (execPwrbrkHigh s) := by
  unfold execPwrbrkHigh
  refine OutKept.next ?_
  exact setPower_kept (hs) _

theorem execBrakeHoldEnd_kept {s0 : State} {s : State} (hs : Kept s0 s) :
    OutKept s0 (execBrakeHoldEnd s) := by
  unfold execBrakeHoldEnd
  refine OutKept.ite ?_ ?_
  · refine OutKept.next ?_
    exact startMove_kept (setPower_kept (hs) _)
  · refine OutKept.next ?_
    exact hs

theorem execBrakeLong_kept {s0 : State} {s : State} (hs : Kept s0 s) :
    OutKept s0 (execBrakeLong s) := by
  unfold execBrakeLong
  refine OutKept.ite ?_ ?_
  · refine OutKept.next ?_
    exact pwrEvent_kept (setPower_kept (hs) _) _
  · refine OutKept.next ?_
    exact hs

theorem cutDomain_kept {s0 : State} {s : State} (hs : Kept s0 s) (d : ℕ) :
    Kept s0 (cutDomain s d) := by
  unfold cutDomain
  extract_lets -merge -useContext -underBinder +onlyGivenNames was1
  extract_lets -merge -useContext -underBinder +onlyGivenNames s2
  have h3 : Kept s0 s2 := by
    exact domSet_kept (hs) _ _
  clear_value s2
  refine Kept.ite ?_ ?_
  · exact loseCore_kept (h3) _
  · exact h3

theorem cxlDown_kept {s0 : State} {s : State} (hs : Kept s0 s) (x : ℕ) :
    Kept s0 (cxlDown s x) := by
  unfold cxlDown
  refine Kept.ite ?_ ?_
  · exact postBit_kept (setCxlState_kept (hs) _ _) _ _
  · exact hs

theorem execCxlPortDown_kept {s0 : State} {s : State} (hs : Kept s0 s) (x : Fin 4) :
    OutKept s0 (execCxlPortDown x s) := by
  unfold execCxlPortDown
  refine OutKept.next ?_
  refine Kept.ite ?_ ?_
  · exact requestProof_kept (cxlDown_kept (hs) _) _ _
  · exact hs

theorem execCxlLinkUp_kept {s0 : State} {s : State} (hs : Kept s0 s) (x : Fin 4) :
    OutKept s0 (execCxlLinkUp x s) := by
  unfold execCxlLinkUp
  refine OutKept.next ?_
  refine Kept.ite ?_ ?_
  · exact setCxlState_kept (hs) _ _
  · exact hs

theorem thermalTrip_kept {s0 : State} {s : State} (hs : Kept s0 s) (src : ℕ) :
    Kept s0 (thermalTrip s src) := by
  unfold thermalTrip
  refine Kept.ite ?_ ?_
  · exact hs
  · extract_lets -merge -useContext -underBinder +onlyGivenNames w1
    extract_lets -merge -useContext -underBinder +onlyGivenNames w2
    extract_lets -merge -useContext -underBinder +onlyGivenNames s3
    have h4 : Kept s0 (s3) := by
      unfold s3
      exact pwrEvent_kept (setRaw_kept hs _ _) _
    clear_value s3
    extract_lets -merge -useContext -underBinder +onlyGivenNames s5
    have h6 : Kept s0 (s5) := by
      unfold s5
      exact Kept.foldl h4 (fun a7 b8 h9 => (resetPart_kept h9 _))
    clear_value s5
    extract_lets -merge -useContext -underBinder +onlyGivenNames s10
    have h11 : Kept s0 (s10) := by
      unfold s10
      exact sleepPlls_kept (Kept.foldl (Kept.foldl (Kept.plain h6) (fun a15 b16 h17 => (cutDomain_kept h17 _))) (fun a12 b13 h14 => (cxlDown_kept h14 _)))
    clear_value s10
    refine Kept.upd (h11) ⟨rfl, rfl, rfl⟩ (fun c => { c with ports := Sparse.foldl_wf _ (fun _ _ hm0 => (Sparse.modify_wf _ _ hm0)) _ c.ports })

theorem gddrTemps_kept {s0 : State} {s : State} (hs : Kept s0 s) (m : ThermalReading) :
    Kept s0 (gddrTemps m s) := by
  unfold gddrTemps
  extract_lets -merge -useContext -underBinder +onlyGivenNames s1
  have h2 : Kept s0 s1 := by
    refine Kept.foldl ?_ (fun a5 b6 h3 => ?_)
    · exact hs
    · extract_lets -merge -useContext -underBinder +onlyGivenNames t4
      exact setRaw_kept (h3) _ _
  clear_value s1
  refine Kept.foldl ?_ (fun a9 b10 h7 => ?_)
  · exact h2
  · extract_lets -merge -useContext -underBinder +onlyGivenNames t8
    exact setRaw_kept (h7) _ _

theorem thermalSample_kept {s0 : State} {s : State} (hs : Kept s0 s) (m : ThermalReading) :
    Kept s0 (thermalSample m s) := by
  unfold thermalSample
  extract_lets -merge -useContext -underBinder +onlyGivenNames h1
  extract_lets -merge -useContext -underBinder +onlyGivenNames was2
  extract_lets -merge -useContext -underBinder +onlyGivenNames s3
  have h4 : Kept s0 s3 := by
    refine Kept.foldl ?_ (fun a6 b7 h5 => ?_)
    · exact hs
    · exact setRaw_kept (h5) _ _
  clear_value s3
  extract_lets -merge -useContext -underBinder +onlyGivenNames s8
  have h9 : Kept s0 s8 := by
    exact gddrTemps_kept (h4) _
  clear_value s8
  extract_lets -merge -useContext -underBinder +onlyGivenNames s10
  have h11 : Kept s0 s10 := by
    exact setRaw_kept (h9) _ _
  clear_value s10
  extract_lets -merge -useContext -underBinder +onlyGivenNames s12
  have h13 : Kept s0 s12 := by
    exact setPower_kept (h11) _
  clear_value s12
  extract_lets -merge -useContext -underBinder +onlyGivenNames s14
  have h15 : Kept s0 s14 := by
    refine Kept.ite ?_ ?_
    · exact pwrEvent_kept (h13) _
    · exact h13
  clear_value s14
  extract_lets -merge -useContext -underBinder +onlyGivenNames s16
  have h17 : Kept s0 s16 := by
    refine Kept.ite ?_ ?_
    · exact thermalTrip_kept (h15) _
    · exact h15
  clear_value s16
  exact startMove_kept (h17)

theorem execCoolantSample_kept {s0 : State} {s : State} (hs : Kept s0 s) (m : CoolantReading) :
    OutKept s0 (execCoolantSample m s) := by
  unfold execCoolantSample
  extract_lets -merge -useContext -underBinder +onlyGivenNames s1
  have h2 : Kept s0 (s1) := by
    unfold s1
    exact setRaw_kept hs _ _
  clear_value s1
  extract_lets -merge -useContext -underBinder +onlyGivenNames s3
  have h4 : Kept s0 (s3) := by
    unfold s3
    exact setPower_kept h2 _
  clear_value s3
  exact OutKept.next (Kept.ite (pwrEvent_kept h4 _) h4)

theorem execCoolantWarning_kept {s0 : State} {s : State} (hs : Kept s0 s) :
    OutKept s0 (execCoolantWarning s) := by
  unfold execCoolantWarning
  refine OutKept.next ?_
  exact pwrEvent_kept (setStatus_kept (hs) _ _) _

theorem execCoolantWarningEnd_kept {s0 : State} {s : State} (hs : Kept s0 s) :
    OutKept s0 (execCoolantWarningEnd s) := by
  unfold execCoolantWarningEnd
  refine OutKept.next ?_
  exact setStatus_kept (hs) _ _

theorem coolantTrip_kept {s0 : State} {s : State} (hs : Kept s0 s) (src : Fin 3) :
    Kept s0 (coolantTrip src s) := by
  unfold coolantTrip
  refine Kept.ite ?_ ?_
  · exact hs
  · exact thermalTrip_kept (hs) _

theorem demandWaiting_kept {s0 : State} {s : State} (hs : Kept s0 s) :
    Kept s0 (demandWaiting s) := by
  unfold demandWaiting
  exact demandAll_kept hs _

theorem writeThermCtl_kept {s0 : State} {s : State} (hs : Kept s0 s) (w : Word) :
    Kept s0 (writeThermCtl s w) := by
  unfold writeThermCtl
  extract_lets -merge -useContext -underBinder +onlyGivenNames ok1
  exact Kept.ite (demandWaiting_kept (setRaw_kept hs _ _)) (postBit_kept hs _ _)

end Sys2Proof.Machine
end

