-- ==== Sys2Proof/Laws/KeptBoot.lean ====
section
/-! SUPPORT. What the operations of Machine/Boot.lean keep (Laws/Kept.lean): one lemma each, cited by the lemmas of what calls
them. -/

namespace Sys2Proof.Machine

set_option maxRecDepth 4000

theorem bitsKept_or (a b : ℕ) : bitsKept a (a ||| b) := by
  unfold bitsKept
  apply Nat.eq_of_testBit_eq
  intro i
  simp only [Nat.testBit_and, Nat.testBit_or]
  cases a.testBit i <;> simp

/-- What an update of the fuses keeps when the fuses gain by it. -/
theorem Kept.fuse {s0 s : State} (h : Kept s0 s) (f : Fuses → Fuses) (hf : FusesKept s.boot.fuses (f s.boot.fuses)) :
    Kept s0 { s with boot := { s.boot with fuses := f s.boot.fuses } } :=
  Kept.put h rfl hf (Nat.le_refl _) (fun c => { c with regs := c.regs })


theorem Kept.flash {s0 s : State} {fl : Sparse Byte} (h : Kept s0 s)
    (hf : s.Canonical → Sparse.wf 0xFF#8 fl = true) : Kept s0 { s with boot := { s.boot with flash := fl } } :=
  Kept.upd h ⟨rfl, rfl, rfl⟩ (fun c => { c with flash := hf c })

theorem unpowered_kept {s0 : State} {s : State} (h : Kept s0 s) (step : InputStep) :
    Kept s0 (unpowered s step) := by
  unfold unpowered
  exact Kept.upd (flashCut_kept h) ⟨rfl, rfl, rfl⟩ (fun c => { State.reset_canonical with flash := c.flash })

theorem execPrechargeStart_kept {s0 : State} {s : State} (hs : Kept s0 s) :
    OutKept s0 (execPrechargeStart s) := by
  unfold execPrechargeStart
  refine OutKept.next ?_
  refine Kept.ite ?_ ?_
  · exact Kept.plain (hs)
  · exact hs

theorem execPrechargeAbort_kept {s0 : State} {s : State} (hs : Kept s0 s) :
    OutKept s0 (execPrechargeAbort s) := by
  unfold execPrechargeAbort
  refine OutKept.next ?_
  refine Kept.ite ?_ ?_
  · exact Kept.plain (hs)
  · exact hs

theorem execInputGood_kept {s0 : State} {s : State} (hs : Kept s0 s) :
    OutKept s0 (execInputGood s) := by
  unfold execInputGood
  refine OutKept.ite ?_ ?_
  · extract_lets -merge -useContext -underBinder +onlyGivenNames s1
    have h2 : Kept s0 s1 := by
      exact unpowered_kept (hs) _
    clear_value s1
    extract_lets -merge -useContext -underBinder +onlyGivenNames s3
    have h4 : Kept s0 s3 := by
      exact setRaw_kept (h2) _ _
    clear_value s3
    extract_lets -merge -useContext -underBinder +onlyGivenNames y5
    extract_lets -merge -useContext -underBinder +onlyGivenNames s6
    have h7 : Kept s0 s6 := by
      exact domSet_kept (h4) _ _
    clear_value s6
    refine OutKept.next ?_
    exact Kept.upd (h7) ⟨rfl, rfl, rfl⟩ (fun c => { c with regs := c.regs })
  · refine OutKept.next ?_
    exact hs

theorem execUnderVoltage_kept {s0 : State} {s : State} (hs : Kept s0 s) :
    OutKept s0 (execUnderVoltage s) := by
  unfold execUnderVoltage
  refine OutKept.next ?_
  refine Kept.ite ?_ ?_
  · exact unpowered_kept (hs) _
  · exact hs

theorem execOverVoltage_kept {s0 : State} {s : State} (hs : Kept s0 s) :
    OutKept s0 (execOverVoltage s) := by
  unfold execOverVoltage
  refine OutKept.next ?_
  refine Kept.ite ?_ ?_
  · exact unpowered_kept (hs) _
  · exact hs

theorem execExtraction_kept {s0 : State} {s : State} (hs : Kept s0 s) :
    OutKept s0 (execExtraction s) := by
  unfold execExtraction
  refine OutKept.next ?_
  exact unpowered_kept (hs) _

theorem execCoolantCut_kept {s0 : State} {s : State} (hs : Kept s0 s) :
    OutKept s0 (execCoolantCut s) := by
  unfold execCoolantCut
  refine OutKept.next ?_
  refine Kept.ite ?_ ?_
  · exact unpowered_kept (hs) _
  · exact hs

theorem execP54FallsBelow20v_kept {s0 : State} {s : State} (hs : Kept s0 s) :
    OutKept s0 (execP54FallsBelow20v s) := by
  unfold execP54FallsBelow20v
  refine OutKept.next ?_
  refine Kept.ite ?_ ?_
  · exact Kept.plain (hs)
  · exact hs

theorem setScBoot_kept {s0 : State} {s : State} (hs : Kept s0 s) (hi : ℕ) (lo : ℕ) (v : ℕ) :
    Kept s0 (setScBoot s hi lo v) := by
  unfold setScBoot
  exact setRaw_kept (hs) _ _

theorem recordFail_kept {s0 : State} {s : State} (hs : Kept s0 s) (code : ℕ) :
    Kept s0 (recordFail s code) := by
  unfold recordFail
  refine Kept.ite ?_ ?_
  · exact setScBoot_kept (hs) _ _ _
  · exact setScBoot_kept (hs) _ _ _

theorem bootFail_kept {s0 : State} {s : State} (hs : Kept s0 s) :
    Kept s0 (bootFail s) := by
  unfold bootFail
  extract_lets -merge -useContext -underBinder +onlyGivenNames s1
  have h2 : Kept s0 s1 := by
    exact setScBoot_kept (hs) _ _ _
  clear_value s1
  exact Kept.upd (h2) ⟨rfl, rfl, rfl⟩ (fun c => { c with regs := c.regs })

theorem slotFail_kept {s0 : State} {s : State} (hs : Kept s0 s) (code : ℕ) :
    Kept s0 (slotFail s code) := by
  unfold slotFail
  extract_lets -merge -useContext -underBinder +onlyGivenNames s1
  have h2 : Kept s0 s1 := by
    exact recordFail_kept (hs) _
  clear_value s1
  refine Kept.ite ?_ ?_
  · exact setScBoot_kept (setScBoot_kept (h2) _ _ _) _ _ _
  · exact bootFail_kept (h2)

theorem measure_kept {s0 : State} {s : State} (hs : Kept s0 s) (kind : ℕ) (digest : List Byte) :
    Kept s0 (measure s kind digest) := by
  unfold measure
  exact Kept.upd (hs) ⟨rfl, rfl, rfl⟩ (fun c => { c with regs := c.regs })

theorem applyFuses_kept {s0 : State} {s : State} (hs : Kept s0 s) :
    Kept s0 (applyFuses s) := by
  unfold applyFuses
  extract_lets -merge -useContext -underBinder +onlyGivenNames s1
  have h2 : Kept s0 s1 := by
    refine Kept.foldl ?_ (fun a4 b5 h3 => ?_)
    · exact hs
    · exact State.modCore_kept (h3) _ _
  clear_value s1
  exact Kept.upd (h2) ⟨rfl, rfl, rfl⟩ (fun c => { c with frames := Sparse.foldl_wf _ (fun _ _ hm => (Sparse.set_wf _ _ hm)) _ c.frames, rowsUsed := Sparse.foldl_wf _ (fun _ _ hm => (Sparse.modify_wf _ _ hm)) _ c.rowsUsed, lanesUsed := Sparse.foldl_wf _ (fun _ _ hm => (Sparse.modify_wf _ _ hm)) _ c.lanesUsed })

theorem execStrapRead_kept {s0 : State} {s : State} (hs : Kept s0 s) (codes : List ℕ) (repairOk : Bool) :
    OutKept s0 (execStrapRead codes repairOk s) := by
  unfold execStrapRead
  refine OutKept.ite ?_ ?_
  · extract_lets -merge -useContext -underBinder +onlyGivenNames s1
    have h2 : Kept s0 s1 := by
      exact setRaw_kept (hs) _ _
    clear_value s1
    extract_lets -merge -useContext -underBinder +onlyGivenNames choice3
    extract_lets -merge -useContext -underBinder +onlyGivenNames s4
    have h5 : Kept s0 s4 := by
      exact setScBoot_kept (h2) _ _ _
    clear_value s4
    refine OutKept.ite ?_ ?_
    · extract_lets -merge -useContext -underBinder +onlyGivenNames s6
      have h7 : Kept s0 s6 := by
        exact applyFuses_kept (h5)
      clear_value s6
      extract_lets -merge -useContext -underBinder +onlyGivenNames s8
      have h9 : Kept s0 s8 := by
        exact measure_kept (measure_kept (measure_kept (h7) _ _) _ _) _ _
      clear_value s8
      refine OutKept.next ?_
      exact Kept.upd (h9) ⟨rfl, rfl, rfl⟩ (fun c => { c with regs := c.regs })
    · refine OutKept.next ?_
      exact bootFail_kept (recordFail_kept (h5) _)
  · refine OutKept.next ?_
    exact hs

theorem shelfUp_kept {s0 : State} {s : State} (hs : Kept s0 s) :
    Kept s0 (shelfUp s) := by
  unfold shelfUp
  extract_lets -merge -useContext -underBinder +onlyGivenNames s1
  have h2 : Kept s0 s1 := by
    exact setRaw_kept (hs) _ _
  clear_value s1
  extract_lets -merge -useContext -underBinder +onlyGivenNames s3
  have h4 : Kept s0 s3 := by
    refine Kept.foldl ?_ (fun a6 b7 h5 => ?_)
    · exact h2
    · exact releaseDomain_kept (domSet_kept (setRaw_kept (h5) _ _) _ _) _
  clear_value s3
  refine Kept.foldl ?_ (fun a9 b10 h8 => ?_)
  · exact h4
  · exact setRaw_kept (h8) _ _

theorem execUpperShelfTrained_kept {s0 : State} {s : State} (hs : Kept s0 s) (ok : Bool) :
    OutKept s0 (execUpperShelfTrained ok s) := by
  unfold execUpperShelfTrained
  refine OutKept.ite ?_ ?_
  · refine OutKept.ite ?_ ?_
    · extract_lets -merge -useContext -underBinder +onlyGivenNames s1
      have h2 : Kept s0 s1 := by
        exact setScBoot_kept (shelfUp_kept (hs)) _ _ _
      clear_value s1
      refine OutKept.next ?_
      exact Kept.upd (h2) ⟨rfl, rfl, rfl⟩ (fun c => { c with regs := c.regs })
    · refine OutKept.next ?_
      exact bootFail_kept (recordFail_kept (setScBoot_kept (hs) _ _ _) _)
  · refine OutKept.next ?_
    exact hs

theorem enumerateCxl_kept {s0 : State} {s : State} (hs : Kept s0 s) (devs : List CxlDevice) :
    Kept s0 (enumerateCxl s devs) := by
  unfold enumerateCxl
  extract_lets -merge -useContext -underBinder +onlyGivenNames s1
  extract_lets -merge -useContext -underBinder +onlyGivenNames s3
  have h4 : Kept s0 (s3) := by
    unfold s3
    refine Kept.upd (hs) ⟨rfl, rfl, rfl⟩ (fun c => { c with regs := c.regs })
  clear_value s3
  refine Kept.foldl ?_ (fun a5 b6 h7 => ?_)
  · exact h4
  · split
    · exact h7
    · extract_lets -merge -useContext -underBinder +onlyGivenNames w8
      extract_lets -merge -useContext -underBinder +onlyGivenNames s9
      have h10 : Kept s0 (s9) := by
        unfold s9
        exact setRaw_kept (setRaw_kept h7 _ _) _ _
      clear_value s9
      exact Kept.ite h10 (domSet_kept h10 _ _)

/-- A state that may be refused keeps what it must if it is there. -/
theorem Kept.foldlOption {β : Type} {s0 : State} {f : Option State → β → Option State} {l : List β} {acc : Option State}
    (h : ∀ s ∈ acc, Kept s0 s) (hf : ∀ acc b, (∀ s ∈ acc, Kept s0 s) → ∀ s ∈ f acc b, Kept s0 s) :
    ∀ s ∈ l.foldl f acc, Kept s0 s := by
  induction l generalizing acc with
  | nil => exact h
  | cons b l ih => exact ih (hf acc b h)

theorem applyField_kept {s0 : State} {acc : Option State} (h : ∀ s ∈ acc, Kept s0 s) (ws : List (ℕ × ℕ)) (f : ℕ × ℕ × ℕ × ℕ × ℕ) :
    ∀ s ∈ applyField ws acc f, Kept s0 s := by
  unfold applyField
  split
  · dsimp only
    split
    · rintro _ ⟨⟩
      exact setRaw_kept (h _ rfl) _ _
    · rintro _ ⟨⟩
  · exact h

theorem applyRecord_kept {s0 : State} {acc : Option State} (h : ∀ s ∈ acc, Kept s0 s) (rs : List (ℕ × List Byte)) (t : ℕ) :
    ∀ s ∈ applyRecord rs acc t, Kept s0 s := by
  unfold applyRecord
  split
  · split
    · exact Kept.foldlOption h (fun _ f h => applyField_kept h _ f)
    · rintro _ ⟨⟩
  · exact h

theorem applyRecords_kept {s0 : State} {s s' : State} (hs : Kept s0 s) (rs : List (ℕ × List Byte)) (e : applyRecords s rs = some s') :
    Kept s0 s' := by
  unfold applyRecords at e
  extract_lets owner leaven at e
  split at e
  · cases e
  · refine Kept.foldlOption (s0 := s0) ?_ (fun _ t h => applyRecord_kept h rs t) s' e
    rintro _ ⟨⟩
    exact Kept.upd hs ⟨rfl, rfl, rfl⟩ (fun c => { c with regs := c.regs })

theorem bringUp_kept {s0 : State} {s : State} (hs : Kept s0 s) :
    Kept s0 (bringUp s) := by
  unfold bringUp
  refine Kept.foldl ?_ (fun _ d h => demandWake_kept h d)
  refine Kept.blks (Kept.ite ?_ (Kept.foldl ?_ (fun _ d h => domSet_kept h _ _)))
    (fun c => Sparse.foldl_wf _ (fun _ _ hm => Sparse.modify_wf _ _ hm) _ c.blks)
  all_goals exact Kept.foldl (Kept.upd hs ⟨rfl, rfl, rfl⟩ (fun c => { c with regs := c.regs })) (fun _ d h => setRaw_kept h _ _)

theorem execImageReadDone_kept {s0 : State} {s : State} (h : Kept s0 s) (cxl : List CxlDevice) :
    OutKept s0 (execImageReadDone cxl s) := by
  unfold execImageReadDone
  refine OutKept.ite ?_ ?_
  · split
    · refine OutKept.next ?_
      exact slotFail_kept (h) _
    · extract_lets -merge -useContext -underBinder +onlyGivenNames h1
      extract_lets -merge -useContext -underBinder +onlyGivenNames area2
      extract_lets -merge -useContext -underBinder +onlyGivenNames rs3
      extract_lets -merge -useContext -underBinder +onlyGivenNames m4
      have h5 : Kept s0 m4 := by
        exact measure_kept (measure_kept (h) _ _) _ _
      clear_value m4
      split
      · refine OutKept.next ?_
        exact slotFail_kept (h5) _
      · rename_i he
        have ha := applyRecords_kept h5 _ he
        extract_lets -merge -useContext -underBinder +onlyGivenNames s6
        have h7 : Kept s0 s6 := by
          refine setScBoot_kept ?_ _ _ _
          refine setScBoot_kept ?_ _ _ _
          refine setScBoot_kept ?_ _ _ _
          exact ha
        clear_value s6
        extract_lets -merge -useContext -underBinder +onlyGivenNames s8
        have h9 : Kept s0 s8 := by
          exact setScBoot_kept (h7) _ _ _
        clear_value s8
        extract_lets -merge -useContext -underBinder +onlyGivenNames s10
        have h11 : Kept s0 s10 := by
          exact bringUp_kept (enumerateCxl_kept (h9) _)
        clear_value s10
        refine OutKept.next ?_
        exact Kept.upd (h11) ⟨rfl, rfl, rfl⟩ (fun c => { c with regs := c.regs })
  · refine OutKept.next ?_
    exact h

theorem execKeysReady_kept {s0 : State} {s : State} (hs : Kept s0 s) :
    OutKept s0 (execKeysReady s) := by
  unfold execKeysReady
  refine OutKept.ite ?_ ?_
  · extract_lets -merge -useContext -underBinder +onlyGivenNames s1
    have h2 : Kept s0 s1 := by
      exact setScBoot_kept (hs) _ _ _
    clear_value s1
    refine OutKept.next ?_
    exact setRaw_kept (h2) _ _
  · refine OutKept.next ?_
    exact hs

theorem execAttestDone_kept {s0 : State} {s : State} (hs : Kept s0 s) :
    OutKept s0 (execAttestDone s) := by
  unfold execAttestDone
  extract_lets -merge -useContext -underBinder +onlyGivenNames w1
  refine OutKept.ite ?_ ?_
  · extract_lets -merge -useContext -underBinder +onlyGivenNames s2
    have h3 : Kept s0 s2 := by
      exact setRaw_kept (hs) _ _
    clear_value s2
    refine OutKept.next ?_
    exact Kept.upd (h3) ⟨rfl, rfl, rfl⟩ (fun c => { c with regs := c.regs })
  · refine OutKept.next ?_
    exact hs

theorem writeAttestCtl_kept {s0 : State} {s : State} (hs : Kept s0 s) (v : Word) :
    Kept s0 (writeAttestCtl s v) := by
  unfold writeAttestCtl
  extract_lets -merge -useContext -underBinder +onlyGivenNames w1
  extract_lets -merge -useContext -underBinder +onlyGivenNames w2
  refine Kept.ite ?_ ?_
  · extract_lets -merge -useContext -underBinder +onlyGivenNames nonce3
    extract_lets -merge -useContext -underBinder +onlyGivenNames request4
    extract_lets -merge -useContext -underBinder +onlyGivenNames s5
    have h6 : Kept s0 (s5) := by
      unfold s5
      exact setRaw_kept hs _ _
    clear_value s5
    refine Kept.upd (h6) ⟨rfl, rfl, rfl⟩ (fun c => { c with regs := c.regs })
  · exact setRaw_kept hs _ _

theorem writeFuseCmd_kept {s0 : State} {s : State} (h : Kept s0 s) (v : Word) :
    Kept s0 (writeFuseCmd s v).1 := by
  unfold writeFuseCmd
  extract_lets -underBinder fuse k burn
  refine Kept.iteFst h ?_
  split
  · exact Kept.fuse h (fun f => { f with svn := max f.svn (field (rawReg s scBoot) 11 6) })
      ⟨Nat.le_max_left _ _, bitsKept.refl _, bitsKept.refl _, fun _ i => i, fun _ i => i, fun _ i => i, fun _ i => i⟩
  · exact Kept.iteFst h (Kept.fuse h (fun f => { f with rsaRevoked := burn f.rsaRevoked })
      ⟨Nat.le_refl _, bitsKept_or _ _, bitsKept.refl _, fun _ i => i, fun _ i => i, fun _ i => i, fun _ i => i⟩)
  · exact Kept.iteFst h (Kept.fuse h (fun f => { f with slhRevoked := burn f.slhRevoked })
      ⟨Nat.le_refl _, bitsKept.refl _, bitsKept_or _ _, fun _ i => i, fun _ i => i, fun _ i => i, fun _ i => i⟩)
  · exact h

theorem writeFlashCtl_kept {s0 : State} {s : State} (hs : Kept s0 s) (v : Word) :
    Kept s0 (writeFlashCtl s v).1 := by
  unfold writeFlashCtl
  extract_lets -merge -useContext -underBinder +onlyGivenNames w1
  extract_lets -merge -useContext -underBinder +onlyGivenNames w2
  extract_lets -merge -useContext -underBinder +onlyGivenNames w3
  refine Kept.iteFst ?_ ?_
  · exact Kept.pairFst (setRaw_kept hs _ _)
  · refine Kept.iteFst ?_ ?_
    · exact Kept.pairFst (setRaw_kept hs _ _)
    · extract_lets -merge -useContext -underBinder +onlyGivenNames s4
      have h5 : Kept s0 (s4) := by
        unfold s4
        exact setRaw_kept hs _ _
      clear_value s4
      refine Kept.pairFst ?_
      refine Kept.upd (h5) ⟨rfl, rfl, rfl⟩ (fun c => { c with regs := c.regs })

theorem flashEffect_kept {s0 : State} {s : State} (hs : Kept s0 s) (o : FlashOp) :
    Kept s0 (flashEffect s o) := by
  unfold flashEffect
  split
  · extract_lets -merge -useContext -underBinder +onlyGivenNames bs1
    exact Kept.foldl hs (fun a2 b3 h4 => (setRaw_kept h4 _ _))
  · refine Kept.upd (hs) ⟨rfl, rfl, rfl⟩ (fun c => { c with flash := Sparse.setRun_wf _ _ c.flash })
  · refine Kept.upd (hs) ⟨rfl, rfl, rfl⟩ (fun c => { c with flash := Sparse.clearRange_wf _ _ c.flash })

theorem execFlashOpDone_kept {s0 : State} {s : State} (hs : Kept s0 s) (ok : Bool) :
    OutKept s0 (execFlashOpDone ok s) := by
  unfold execFlashOpDone
  split
  · exact OutKept.next hs
  · extract_lets -merge -useContext -underBinder +onlyGivenNames w1
    extract_lets -merge -useContext -underBinder +onlyGivenNames s2
    have h3 : Kept s0 (s2) := by
      unfold s2
      exact setRaw_kept hs _ _
    clear_value s2
    extract_lets -merge -useContext -underBinder +onlyGivenNames s4
    extract_lets -merge -useContext -underBinder +onlyGivenNames s6
    have h7 : Kept s0 (s6) := by
      unfold s6
      refine Kept.upd (h3) ⟨rfl, rfl, rfl⟩ (fun c => { c with regs := c.regs })
    clear_value s6
    exact OutKept.next (Kept.ite (flashEffect_kept h7 _) h7)

end Sys2Proof.Machine
end

