-- ==== Sys2Proof/Laws/KeptTransport.lean ====
section
/-! SUPPORT. What the operations of Machine/Transport.lean keep (Laws/Kept.lean): one lemma each, cited by the lemmas of what calls
them. -/

namespace Sys2Proof.Machine

set_option maxRecDepth 4000

theorem stopWaiter_kept {s0 : State} {s : State} (hs : Kept s0 s) (p : Fin 16) (conn : ℕ) (chan : ℕ) (w : StreamTag × ℕ) :
    Kept s0 (stopWaiter p conn chan s w) := by
  unfold stopWaiter
  split
  · extract_lets -merge -useContext -underBinder +onlyGivenNames y1
    extract_lets -merge -useContext -underBinder +onlyGivenNames r2
    exact freeze_kept (State.modStream_kept (hs) _ _ _) _ _
  · exact hs

theorem endWaiter_kept {s0 : State} {s : State} (hs : Kept s0 s) (p : Fin 16) (w : StreamTag × ℕ) :
    Kept s0 (endWaiter p s w) := by
  unfold endWaiter
  split
  · exact dropFlight_kept (State.modPart_kept hs _ _) _ _ _
  · exact hs

theorem stopWaiters_kept {s0 : State} {s : State} (hs : Kept s0 s) (l : Link) :
    Kept s0 (stopWaiters s l) := by
  unfold stopWaiters
  extract_lets -merge -useContext -underBinder +onlyGivenNames p1
  extract_lets -merge -useContext -underBinder +onlyGivenNames x2
  exact Kept.ite (Kept.foldl hs (fun a3 b4 h5 => (stopWaiter_kept h5 _ _ _ _))) (Kept.ite (Kept.foldl hs (fun a6 b7 h8 => (endWaiter_kept h8 _ _))) hs)

theorem breakLink_kept {s0 : State} {s : State} (hs : Kept s0 s) (e : Endpoint) (reason : ℕ) :
    Kept s0 (breakLink s e reason) := by
  unfold breakLink
  extract_lets -merge -useContext -underBinder +onlyGivenNames l1
  refine Kept.ite ?_ ?_
  · split
    · exact linkSet_kept (hs) _ _
    · exact stopWaiters_kept (linkSet_kept (hs) _ _) _
  · exact hs

theorem closeLink_kept {s0 : State} {s : State} (hs : Kept s0 s) (e : Endpoint) :
    Kept s0 (closeLink s e) := by
  unfold closeLink
  extract_lets -merge -useContext -underBinder +onlyGivenNames l1
  extract_lets -merge -useContext -underBinder +onlyGivenNames s2
  have h3 : Kept s0 (s2) := by
    unfold s2
    exact linkSet_kept hs _ _
  clear_value s2
  split
  · exact h3
  · exact Kept.ite (stopWaiters_kept h3 _) h3

theorem rejectRevoked_kept {s0 : State} {s : State} (hs : Kept s0 s) (e : Endpoint) (m : RxMsg) :
    Kept s0 (rejectRevoked s e m) := by
  unfold rejectRevoked
  extract_lets -merge -useContext -underBinder +onlyGivenNames l1
  extract_lets -merge -useContext -underBinder +onlyGivenNames f2
  exact Kept.ite (handOver_kept (linkSet_kept hs _ _) _ _ _) hs

theorem takeNonce_kept {s0 : State} {s : State} (hs : Kept s0 s) :
    Kept s0 (takeNonce s).2 := by
  unfold takeNonce
  refine Kept.pairSnd ?_
  exact Kept.put (hs) rfl (FusesKept.refl _) ((Nat.le_add_right _ _)) (fun c => { c with regs := c.regs })

theorem sendOpenAck_kept {s0 : State} {s : State} (hs : Kept s0 s) (e : Endpoint) (tag : List Byte) :
    Kept s0 (sendOpenAck s e tag) := by
  unfold sendOpenAck
  exact sendFrame_kept (hs) _ _ _ _ _

theorem rejectOpen_kept {s0 : State} {s : State} (hs : Kept s0 s) (h : Hello) (code : ℕ) (psn : ℕ) (status : ℕ) :
    Kept s0 (rejectOpen s h code psn status) := by
  unfold rejectOpen
  extract_lets -merge -useContext -underBinder +onlyGivenNames w1
  exact handOver_kept (hs) _ _ _

theorem forgetCaptures_kept {s0 : State} {s : State} (hs : Kept s0 s) (n : Fin 64) :
    Kept s0 (forgetCaptures s n) := by
  unfold forgetCaptures
  extract_lets -merge -useContext -underBinder +onlyGivenNames other1
  exact Kept.upd (hs) ⟨rfl, rfl, rfl⟩ (fun c => { c with caps := Sparse.filter_wf _ c.caps, heldHi := Sparse.filter_wf _ c.heldHi })

theorem openSession_kept {s0 : State} {s : State} (hs : Kept s0 s) (code : ℕ) (m : RxMsg) (h : Hello) :
    Kept s0 (openSession s code m h) := by
  unfold openSession
  split
  · exact hs
  · extract_lets -merge -useContext -underBinder +onlyGivenNames again1
    refine Kept.ite ?_ ?_
    · exact hs
    · split
      · exact rejectOpen_kept (hs) _ _ _ _
      · extract_lets -merge -useContext -underBinder +onlyGivenNames e2
        split
        · rename_i he
          have h3 := Kept.of_snd (s0 := s0) he (by
              exact takeNonce_kept (forgetCaptures_kept (hs) _))
          clear he
          extract_lets -merge -useContext -underBinder +onlyGivenNames key4
          extract_lets -merge -useContext -underBinder +onlyGivenNames y5
          extract_lets -merge -useContext -underBinder +onlyGivenNames l6
          exact sendOpenAck_kept (linkSet_kept (h3) _ _) _ _

theorem openLink_kept {s0 : State} {s : State} (hs : Kept s0 s) (e : Endpoint) (m : RxMsg) (h : Hello) :
    Kept s0 (openLink s e m h) := by
  unfold openLink
  split
  · rename_i he
    have h1 := Kept.of_snd (s0 := s0) he (by
        exact takeNonce_kept (hs))
    clear he
    extract_lets -merge -useContext -underBinder +onlyGivenNames y2
    extract_lets -merge -useContext -underBinder +onlyGivenNames l3
    extract_lets -merge -useContext -underBinder +onlyGivenNames l4
    exact sendOpenAck_kept (linkSet_kept (h1) _ _) _ _

theorem openAckEffect_kept {s0 : State} {s : State} (hs : Kept s0 s) (e : Endpoint) (m : RxMsg) :
    Kept s0 (openAckEffect s e m) := by
  unfold openAckEffect
  extract_lets -merge -useContext -underBinder +onlyGivenNames l1
  refine Kept.ite ?_ ?_
  · exact hs
  · refine Kept.ite ?_ ?_
    · extract_lets -merge -useContext -underBinder +onlyGivenNames h2
      extract_lets -merge -useContext -underBinder +onlyGivenNames y3
      extract_lets -merge -useContext -underBinder +onlyGivenNames l4
      exact sendOpenAck_kept (linkSet_kept (hs) _ _) _ _
    · exact linkSet_kept (hs) _ _

theorem sendOpen_kept {s0 : State} {s : State} (hs : Kept s0 s) (e : Endpoint) :
    Kept s0 (sendOpen s e) := by
  unfold sendOpen
  split
  · rename_i he
    have h1 := Kept.of_snd (s0 := s0) he (by
        exact takeNonce_kept (hs))
    clear he
    extract_lets -merge -useContext -underBinder +onlyGivenNames s2
    have h3 : Kept s0 s2 := by
      exact linkMod_kept (h1) _ _
    clear_value s2
    exact sendFrame_kept (h3) _ _ _ _ _

theorem takeCredit_kept {s0 : State} {s : State} (hs : Kept s0 s) (e : Endpoint) (m : RxMsg) :
    Kept s0 (takeCredit s e m) := by
  unfold takeCredit
  extract_lets -merge -useContext -underBinder +onlyGivenNames l1
  extract_lets -merge -useContext -underBinder +onlyGivenNames ackOk2
  extract_lets -merge -useContext -underBinder +onlyGivenNames kept3
  extract_lets -merge -useContext -underBinder +onlyGivenNames l'4
  extract_lets -merge -useContext -underBinder +onlyGivenNames miss5
  exact pump_kept (resend_kept (linkSet_kept (hs) _ _) _ _) _

theorem settleAcks_kept {s0 : State} {s : State} (hs : Kept s0 s) (e : Endpoint) (ack : ℕ) :
    Kept s0 (settleAcks s e ack) := by
  unfold settleAcks
  extract_lets -merge -useContext -underBinder +onlyGivenNames l1
  extract_lets -merge -useContext -underBinder +onlyGivenNames p2
  extract_lets -merge -useContext -underBinder +onlyGivenNames done3
  extract_lets -merge -useContext -underBinder +onlyGivenNames keep4
  refine Kept.foldl ?_ (fun a6 b7 h5 => ?_)
  · exact linkSet_kept (hs) _ _
  · exact setWait_kept (h5) _ _ _ _

theorem noteAck_kept {s0 : State} {s : State} (hs : Kept s0 s) (e : Endpoint) (ack : ℕ) :
    Kept s0 (noteAck s e ack) := by
  unfold noteAck
  extract_lets -merge -useContext -underBinder +onlyGivenNames l1
  extract_lets -merge -useContext -underBinder +onlyGivenNames seen2
  extract_lets -merge -useContext -underBinder +onlyGivenNames s3
  have h4 : Kept s0 (s3) := by
    unfold s3
    exact linkSet_kept hs _ _
  clear_value s3
  exact Kept.ite (settleAcks_kept h4 _ _) h4

theorem execAckTimer_kept {s0 : State} {s : State} (hs : Kept s0 s) (e : Endpoint) :
    OutKept s0 (execAckTimer e s) := by
  unfold execAckTimer
  refine OutKept.next ?_
  refine Kept.ite ?_ ?_
  · exact sendAck_kept (hs) _
  · exact hs

theorem execRetransmitTimeout_kept {s0 : State} {s : State} (hs : Kept s0 s) (e : Endpoint) :
    OutKept s0 (execRetransmitTimeout e s) := by
  unfold execRetransmitTimeout
  extract_lets -merge -useContext -underBinder +onlyGivenNames l1
  split
  · refine OutKept.next ?_
    exact hs
  · refine OutKept.ite ?_ ?_
    · refine OutKept.next ?_
      exact hs
    · extract_lets -merge -useContext -underBinder +onlyGivenNames s2
      have h3 : Kept s0 s2 := by
        exact resend_kept (linkSet_kept (hs) _ _) _ _
      clear_value s2
      refine OutKept.next ?_
      refine Kept.ite ?_ ?_
      · exact breakLink_kept (h3) _ _
      · exact h3

theorem execConnTimeout_kept {s0 : State} {s : State} (hs : Kept s0 s) (e : Endpoint) :
    OutKept s0 (execConnTimeout e s) := by
  unfold execConnTimeout
  refine OutKept.next ?_
  refine Kept.ite ?_ ?_
  · exact hs
  · exact breakLink_kept (hs) _ _

theorem execSessionOpenTimeout_kept {s0 : State} {s : State} (hs : Kept s0 s) (n : Fin 64) :
    OutKept s0 (execSessionOpenTimeout n s) := by
  unfold execSessionOpenTimeout
  refine OutKept.next ?_
  refine Kept.ite ?_ ?_
  · exact linkMod_kept (hs) _ _
  · exact hs

theorem pumpPort_kept {s0 : State} {s : State} (hs : Kept s0 s) (i : ℕ) :
    Kept s0 (pumpPort s i) := by
  unfold pumpPort
  refine Kept.foldl ?_ (fun a2 b3 h1 => ?_)
  · exact hs
  · exact pump_kept (h1) _

theorem movePort_kept {s0 : State} {s : State} (hs : Kept s0 s) (i : ℕ) (olds : List PortState) (new : PortState) :
    Kept s0 (movePort s i olds new) := by
  unfold movePort
  refine Kept.ite ?_ ?_
  · exact portMod_kept (hs) _ _
  · exact hs

theorem execLinkTrained_kept {s0 : State} {s : State} (hs : Kept s0 s) (port : Fin 20) :
    OutKept s0 (execLinkTrained port s) := by
  unfold execLinkTrained
  refine OutKept.next ?_
  exact movePort_kept (hs) _ _ _

theorem execLinkTrainingTimeout_kept {s0 : State} {s : State} (hs : Kept s0 s) (port : Fin 20) :
    OutKept s0 (execLinkTrainingTimeout port s) := by
  unfold execLinkTrainingTimeout
  refine OutKept.next ?_
  exact movePort_kept (hs) _ _ _

theorem execFecLock_kept {s0 : State} {s : State} (hs : Kept s0 s) (port : Fin 20) :
    OutKept s0 (execFecLock port s) := by
  unfold execFecLock
  refine OutKept.next ?_
  refine Kept.ite ?_ ?_
  · exact pumpPort_kept (movePort_kept (hs) _ _ _) _
  · exact hs

theorem execFecLockTimeout_kept {s0 : State} {s : State} (hs : Kept s0 s) (port : Fin 20) :
    OutKept s0 (execFecLockTimeout port s) := by
  unfold execFecLockTimeout
  refine OutKept.next ?_
  exact movePort_kept (hs) _ _ _

theorem execLinkDown_kept {s0 : State} {s : State} (hs : Kept s0 s) (port : Fin 20) :
    OutKept s0 (execLinkDown port s) := by
  unfold execLinkDown
  extract_lets -merge -useContext -underBinder +onlyGivenNames x1
  refine OutKept.ite ?_ ?_
  · extract_lets -merge -useContext -underBinder +onlyGivenNames flaps2
    refine OutKept.next ?_
    exact portSet_kept (hs) _ _
  · refine OutKept.next ?_
    exact hs

theorem execHoldDownEnd_kept {s0 : State} {s : State} (hs : Kept s0 s) (port : Fin 20) :
    OutKept s0 (execHoldDownEnd port s) := by
  unfold execHoldDownEnd
  refine OutKept.next ?_
  exact movePort_kept (hs) _ _ _

theorem execPortFailed_kept {s0 : State} {s : State} (hs : Kept s0 s) (port : Fin 20) :
    OutKept s0 (execPortFailed port s) := by
  unfold execPortFailed
  refine OutKept.next ?_
  exact movePort_kept (hs) _ _ _

theorem hearOther_kept {s0 : State} {s : State} (hs : Kept s0 s) (i : ℕ) :
    Kept s0 (hearOther s i) := by
  unfold hearOther
  refine Kept.ite ?_ ?_
  · exact bumpPort_kept (bumpPort_kept (hs) _ _ _) _ _ _
  · exact hs

theorem execPfcPause_kept {s0 : State} {s : State} (hs : Kept s0 s) (c : PortClass) :
    OutKept s0 (execPfcPause c s) := by
  unfold execPfcPause
  extract_lets -merge -useContext -underBinder +onlyGivenNames heard1
  have h2 : Kept s0 (heard1) := by
    unfold heard1
    exact hearOther_kept hs _
  clear_value heard1
  exact OutKept.ite (OutKept.next (portMod_kept h2 _ _)) (OutKept.next h2)

theorem execPfcPauseExpiry_kept {s0 : State} {s : State} (hs : Kept s0 s) (c : PortClass) :
    OutKept s0 (execPfcPauseExpiry c s) := by
  unfold execPfcPauseExpiry
  extract_lets -merge -useContext -underBinder +onlyGivenNames x1
  exact OutKept.next (Kept.ite (pumpPort_kept (portSet_kept hs _ _) _) hs)

theorem execPauseFrame_kept {s0 : State} {s : State} (hs : Kept s0 s) (port : Fin 20) :
    OutKept s0 (execPauseFrame port s) := by
  unfold execPauseFrame
  refine OutKept.next ?_
  exact hearOther_kept (hs) _

theorem answerOther_kept {s0 : State} {s : State} (hs : Kept s0 s) (i : ℕ) :
    Kept s0 (answerOther s i) := by
  unfold answerOther
  extract_lets -merge -useContext -underBinder +onlyGivenNames s'1
  have h2 : Kept s0 s'1 := by
    exact hearOther_kept (hs) _
  clear_value s'1
  refine Kept.ite ?_ ?_
  · exact bumpPort_kept (bumpPort_kept (h2) _ _ _) _ _ _
  · exact h2

theorem execArpRequest_kept {s0 : State} {s : State} (hs : Kept s0 s) (port : Fin 20) :
    OutKept s0 (execArpRequest port s) := by
  unfold execArpRequest
  refine OutKept.next ?_
  exact answerOther_kept (hs) _

theorem execNeighborSolicitation_kept {s0 : State} {s : State} (hs : Kept s0 s) (port : Fin 20) :
    OutKept s0 (execNeighborSolicitation port s) := by
  unfold execNeighborSolicitation
  refine OutKept.next ?_
  exact answerOther_kept (hs) _

theorem execIcmpEcho_kept {s0 : State} {s : State} (hs : Kept s0 s) (port : Fin 20) :
    OutKept s0 (execIcmpEcho port s) := by
  unfold execIcmpEcho
  refine OutKept.next ?_
  exact answerOther_kept (hs) _

end Sys2Proof.Machine
end

