-- ==== Sys2Proof/Laws/KeptFabric.lean ====
section
/-! SUPPORT. What the operations of Machine/Fabric.lean keep (Laws/Kept.lean): one lemma each, cited by the lemmas of what calls
them. -/

namespace Sys2Proof.Machine

set_option maxRecDepth 4000

theorem readRun_kept (c : Ctx) (d : Desc) (lo : ℕ) (n : ℕ) :
    OpKept (readRun c d lo n) := by
  unfold readRun
  refine OpKept.bind ?_ (fun x1 => ?_)
  · exact OpKept.get
  · extract_lets -merge -useContext -underBinder +onlyGivenNames handed2
    exact OpKept.map (fun x3 => by
      split
      · extract_lets -merge -useContext -underBinder +onlyGivenNames h4
        refine OpKept.ite ?_ ?_
        · refine OpKept.bind ?_ (fun x5 => ?_)
          · exact readBlocks_kept _ _ _ _ _
          · exact OpKept.pure _
        · exact OpKept.pure _)

theorem writeBlock_kept (c : Ctx) (d : Desc) (k : ℕ) (b : List Byte × ℕ) :
    OpKept (writeBlock c d k b) := by
  unfold writeBlock
  split
  · exact writeBlocks_kept _ _ _ _ _

theorem sendTensor_kept {s0 : State} {s : State} (hs : Kept s0 s) (e : Endpoint) (tag : ℕ) (d : Desc) (bs : List (List Byte × ℕ)) :
    Kept s0 (sendTensor s e tag d bs) := by
  unfold sendTensor
  extract_lets -merge -useContext -underBinder +onlyGivenNames runs1
  extract_lets -merge -useContext -underBinder +onlyGivenNames each2
  refine Kept.foldl ?_ (fun a3 b4 h5 => ?_)
  · exact hs
  · extract_lets -merge -useContext -underBinder +onlyGivenNames fl6
    exact sendFrame_kept h5 _ _ _ _ _

theorem sendGo_kept {s0 : State} {s : State} (hs : Kept s0 s) (p : Fin 16) (t : StreamTag) (g : Granule) :
    Kept s0 (sendGo s p t g).2 := by
  unfold sendGo
  extract_lets -merge -useContext -underBinder +onlyGivenNames e1
  extract_lets -merge -useContext -underBinder +onlyGivenNames d2
  split
  · rename_i he3
    have h4 := Kept.of_exec (s0 := s0) he3
        (by
          exact OpKept.at (readRun_kept _ _ _ _))
        (by
          exact hs)
    clear he3
    exact h4
  · rename_i he5
    have h6 := Kept.of_exec (s0 := s0) he5
        (by
          exact OpKept.at (readRun_kept _ _ _ _))
        (by
          exact hs)
    clear he5
    extract_lets -merge -useContext -underBinder +onlyGivenNames s7
    have h8 : Kept s0 (s7) := by
      unfold s7
      exact sendTensor_kept h6 _ _ _ _
    clear_value s7
    exact h8

theorem sendRun_kept {s0 : State} {s : State} (hs : Kept s0 s) (p : Fin 16) (t : StreamTag) (g : Granule) (n : ℕ) :
    Kept s0 (sendRun s p t g n).state := by
  unfold sendRun
  extract_lets -merge -useContext -underBinder +onlyGivenNames e1
  extract_lets -merge -useContext -underBinder +onlyGivenNames total2
  extract_lets -merge -useContext -underBinder +onlyGivenNames asked3
  refine Kept.iteState ?_ ?_
  · split
    · rename_i he4
      have h5 := Kept.of_snd (s0 := s0) he4 (by
          exact sendGo_kept hs _ _ _)
      clear he4
      exact Kept.effect (linkMod_kept h5 _ _)
    · rename_i he6
      have h7 := Kept.of_snd (s0 := s0) he6 (by
          exact sendGo_kept hs _ _ _)
      clear he6
      extract_lets -merge -useContext -underBinder +onlyGivenNames w8
      exact Kept.effect (linkMod_kept h7 _ _)
  · extract_lets -merge -useContext -underBinder +onlyGivenNames w9
    extract_lets -merge -useContext -underBinder +onlyGivenNames s10
    have h11 : Kept s0 (s10) := by
      unfold s10
      exact linkMod_kept hs _ _
    clear_value s10
    exact Kept.effect (sendFrame_kept h11 _ _ _ _ _)

theorem sendCmd_kept : (sendCmd).Kept := by
  unfold sendCmd
  refine ⟨fun s0 s p t g n h => ?_, fun _ _ _ _ _ h => h⟩
  dsimp -zeta only
  exact sendRun_kept h _ _ _ _

theorem execSend_kept {s0 : State} {s : State} (hs : Kept s0 s) (p : Fin 16) (t : StreamTag) :
    OutKept s0 (execSend p t s) := by
  unfold execSend
  refine OutKept.next ?_
  exact issue_kept sendCmd_kept (hs) _ _

theorem meetSend_kept {s0 : State} {s : State} (hs : Kept s0 s) (e : Endpoint) (w : LinkWait) (total : ℕ) (psn : ℕ) :
    Kept s0 (meetSend s e w total psn) := by
  unfold meetSend
  refine Kept.ite ?_ ?_
  · extract_lets -merge -useContext -underBinder +onlyGivenNames mark1
    exact sendFrame_kept (linkMod_kept (hs) _ _) _ _ _ _ _
  · exact breakLink_kept (sendReject_kept (hs) _ _ _ _) _ _

theorem recvRun_kept {s0 : State} {s : State} (hs : Kept s0 s) (p : Fin 16) (t : StreamTag) (g : Granule) (n : ℕ) :
    Kept s0 (recvRun s p t g n).state := by
  unfold recvRun
  extract_lets -merge -useContext -underBinder +onlyGivenNames e1
  extract_lets -merge -useContext -underBinder +onlyGivenNames w2
  extract_lets -merge -useContext -underBinder +onlyGivenNames l3
  extract_lets -merge -useContext -underBinder +onlyGivenNames s4
  have h5 : Kept s0 (s4) := by
    unfold s4
    exact linkSet_kept hs _ _
  clear_value s4
  split
  · exact h5
  · refine Kept.iteState ?_ ?_
    · exact Kept.effect (meetSend_kept (linkMod_kept h5 _ _) _ _ _ _)
    · extract_lets -merge -useContext -underBinder +onlyGivenNames s6
      have h7 : Kept s0 (s6) := by
        unfold s6
        exact linkMod_kept h5 _ _
      clear_value s6
      exact Kept.effect (breakLink_kept (sendReject_kept h7 _ _ _ _) _ _)

theorem recvCmd_kept : (recvCmd).Kept := by
  unfold recvCmd
  refine ⟨fun s0 s p t g n h => ?_, fun _ _ _ _ _ h => h⟩
  dsimp -zeta only
  exact recvRun_kept h _ _ _ _

theorem execRecv_kept {s0 : State} {s : State} (hs : Kept s0 s) (p : Fin 16) (t : StreamTag) :
    OutKept s0 (execRecv p t s) := by
  unfold execRecv
  refine OutKept.next ?_
  exact issue_kept recvCmd_kept (hs) _ _

theorem sendRtsEffect_kept {s0 : State} {s : State} (hs : Kept s0 s) (e : Endpoint) (m : RxMsg) :
    Kept s0 (sendRtsEffect s e m) := by
  unfold sendRtsEffect
  extract_lets -merge -useContext -underBinder +onlyGivenNames tag1
  extract_lets -merge -useContext -underBinder +onlyGivenNames total2
  extract_lets -merge -useContext -underBinder +onlyGivenNames l3
  split
  · exact meetSend_kept (hs) _ _ _ _
  · exact linkSet_kept (hs) _ _

theorem sendCtsEffect_kept {s0 : State} {s : State} (hs : Kept s0 s) (e : Endpoint) (m : RxMsg) :
    Kept s0 (sendCtsEffect s e m) := by
  unfold sendCtsEffect
  extract_lets -merge -useContext -underBinder +onlyGivenNames l1
  split
  · exact hs
  · extract_lets -merge -useContext -underBinder +onlyGivenNames put2
    exact setWait_kept (linkSet_kept hs _ _) _ _ _ _

theorem placeBlocks_kept (c : Ctx) (e : Endpoint) (d : Desc) (b : SentBlocks) :
    OpKept (placeBlocks c e d b) := by
  unfold placeBlocks
  exact OpKept.ite (OpKept.each (fun x1 => (OpKept.ite (writeBlock_kept _ _ _ _) (OpKept.pure _)))) (OpKept.mod (fun s0 s h2 => (linkMod_kept h2 _ _)))

theorem writeSent_kept (w : Work) (d : Desc) (vals : List Num) :
    OpKept (writeSent w d vals) := by
  unfold writeSent
  refine OpKept.bind ?_ (fun x1 => ?_)
  · exact readZps_kept _ _ _ _
  · refine OpKept.each (fun x2 => ?_)
    refine OpKept.bind ?_ (fun x3 => ?_)
    · exact OpKept.get
    · extract_lets -merge -useContext -underBinder +onlyGivenNames row4
      exact OpKept.bind (OpKept.nanAt _ _) (fun x5 => (writeBlocks_kept _ _ _ _ _))

theorem convertSent_kept (w : Work) (e : Endpoint) (tag : ℕ) (d : Desc) :
    OpKept (convertSent w e tag d) := by
  unfold convertSent
  refine OpKept.bind ?_ (fun x1 => ?_)
  · exact OpKept.get
  · extract_lets -merge -useContext -underBinder +onlyGivenNames parts2
    exact OpKept.bind (OpKept.mod (fun s0 s h4 => (linkMod_kept h4 _ _))) (fun x3 => (OpKept.ite (OpKept.pure _) (OpKept.at (OpKept.bind (OpKept.nanAt _ _) (fun x5 => (writeSent_kept _ _ _))))))

theorem trapRecv_kept {s0 : State} {s : State} (hs : Kept s0 s) (e : Endpoint) (w : LinkWait) (f : Flight) (x : Trap) :
    Kept s0 (trapRecv s e w f x) := by
  unfold trapRecv
  exact trapFlight_kept (linkMod_kept hs _ _) _ _ _ _

/-- Data that is placed, or whose place waits. -/
theorem placeSendData_kept {s0 : State} {s : State} (hs : Kept s0 s) (e : Endpoint) (m : RxMsg) :
    ∀ r ∈ placeSendData s e m, Kept s0 r.1 := by
  unfold placeSendData
  dsimp only
  split
  · split
    · rintro _ ⟨⟩; exact hs
    · split
      · rename_i he
        rintro _ ⟨⟩
        exact Kept.of_exec he (placeBlocks_kept _ _ _ _) (freshRows_kept hs)
      · rename_i he
        split
        · rintro _ ⟨⟩
        · rintro _ ⟨⟩
          exact Kept.of_exec he (placeBlocks_kept _ _ _ _) (freshRows_kept hs)
  · split
    · rintro _ ⟨⟩; exact hs
    · split
      · split
        · rename_i he
          rintro _ ⟨⟩
          exact Kept.of_exec he (OpKept.at (placeBlocks_kept _ _ _ _)) (freshRows_kept hs)
        · rename_i he
          split
          · rintro _ ⟨⟩
          · rintro _ ⟨⟩
            exact trapRecv_kept (Kept.of_exec he (OpKept.at (placeBlocks_kept _ _ _ _)) (freshRows_kept hs)) _ _ _ _
      · rintro _ ⟨⟩; exact hs

theorem sendDataEffect_kept {s0 : State} {s : State} (hs : Kept s0 s) (e : Endpoint) (m : RxMsg) :
    Kept s0 (sendDataEffect s e m) := by
  unfold sendDataEffect
  extract_lets -merge -useContext -underBinder +onlyGivenNames l1
  extract_lets -merge -useContext -underBinder +onlyGivenNames p2
  extract_lets -merge -useContext -underBinder +onlyGivenNames b3
  refine Kept.ite ?_ ?_
  · exact sendReject_kept hs _ _ _ _
  · refine Kept.ite ?_ ?_
    · refine Kept.ite ?_ ?_
      · split
        · exact hs
        · split
          · rename_i he4
            have h5 := Kept.of_exec (s0 := s0) he4
                (by
                  exact convertSent_kept _ _ _ _)
                (by
                  exact freshRows_kept hs)
            clear he4
            exact h5
          · rename_i he6
            have h7 := Kept.of_exec (s0 := s0) he6
                (by
                  exact convertSent_kept _ _ _ _)
                (by
                  exact freshRows_kept hs)
            clear he6
            exact sendReject_kept h7 _ _ _ _
      · exact hs
    · split
      · exact hs
      · extract_lets -merge -useContext -underBinder +onlyGivenNames n8
        refine Kept.ite ?_ ?_
        · split
          · rename_i he9
            have h10 := Kept.of_exec (s0 := s0) he9
                (by
                  exact convertSent_kept _ _ _ _)
                (by
                  exact freshRows_kept hs)
            clear he9
            exact setWait_kept (linkMod_kept h10 _ _) _ _ _ _
          · rename_i he11
            have h12 := Kept.of_exec (s0 := s0) he11
                (by
                  exact convertSent_kept _ _ _ _)
                (by
                  exact freshRows_kept hs)
            clear he11
            exact trapRecv_kept h12 _ _ _ _
        · exact linkSet_kept hs _ _

theorem sendChunk_kept {s0 : State} {s : State} (hs : Kept s0 s) (e : Endpoint) (c : Coll) (d : Desc) (rank : ℕ) (chunk : ℕ) (unit : ℕ) (at_ : ℕ) (bs : List (List Byte × ℕ)) :
    Kept s0 (sendChunk s e c d rank chunk unit at_ bs) := by
  unfold sendChunk
  extract_lets -merge -useContext -underBinder +onlyGivenNames runs1
  refine Kept.foldl ?_ (fun a2 b3 h4 => ?_)
  · exact hs
  · extract_lets -merge -useContext -underBinder +onlyGivenNames lo5
    extract_lets -merge -useContext -underBinder +onlyGivenNames fl6
    exact sendFrame_kept h4 _ _ _ _ _

theorem sendPeers_kept {s0 : State} {s : State} {f : State → Endpoint → ℕ → State} (hs : Kept s0 s) (hf : ∀ a1 a2 a3, Kept s0 a1 → Kept s0 (f a1 a2 a3)) (p : Fin 16) (k : Comm) :
    Kept s0 (sendPeers s p k f) := by
  unfold sendPeers
  refine Kept.foldl ?_ (fun a5 b6 h4 => ?_)
  · exact hs
  · split
    · refine hf _ _ _ ?_
      · exact h4
    · exact h4

theorem CollJob.at__kept {α : Type} (j : CollJob) (k : ℕ) {m : Op α} (hm : OpKept m) :
    OpKept (CollJob.at_ j k m) := OpKept.at hm

theorem CollJob.half_kept (j : CollJob) (r : ℕ) :
    OpKept (CollJob.half j r) := by
  unfold CollJob.half
  refine OpKept.bind ?_ (fun x1 => ?_)
  · exact OpKept.get
  · extract_lets -merge -useContext -underBinder +onlyGivenNames h2
    refine OpKept.ite ?_ ?_
    · exact OpKept.stop _
    · refine OpKept.bind ?_ (fun x3 => ?_)
      · refine crossed_kept _ _ ?_ _
        intro x4
        exact crossLinks_kept _ _ _ _
      · exact OpKept.pure _

theorem formBlock_kept (j : CollJob) (segs : List CollSeg) (k : ℕ) :
    OpKept (formBlock j segs k) := by
  unfold formBlock
  split
  · exact OpKept.pure _
  · refine OpKept.bind ?_ (fun x1 => ?_)
    · exact OpKept.each (fun x2 => (CollJob.half_kept _ _))
    · refine OpKept.bind ?_ (fun x3 => ?_)
      · exact OpKept.nanAt _ _
      · refine OpKept.bind ?_ (fun x4 => ?_)
        · exact OpKept.nanAt _ _
        · refine OpKept.bind ?_ (fun x5 => ?_)
          · exact OpKept.get
          · refine OpKept.bind ?_ (fun x6 => ?_)
            · exact OpKept.nanAt _ _
            · refine OpKept.bind ?_ (fun x7 => ?_)
              · exact OpKept.nanAt _ _
              · extract_lets -merge -useContext -underBinder +onlyGivenNames __do_jp_Sys2ProofMachineFabric201017457_hygCtx_hyg1468
                have h9 : ∀ a1, OpKept (__do_jp_Sys2ProofMachineFabric201017457_hygCtx_hyg1468 a1) := by
                  intro v10
                  unfold __do_jp_Sys2ProofMachineFabric201017457_hygCtx_hyg1468
                  exact OpKept.pure _
                clear_value __do_jp_Sys2ProofMachineFabric201017457_hygCtx_hyg1468
                exact OpKept.ite (OpKept.bind (OpKept.mod (fun s0 s h12 => (noteInf_kept h12 _ _ _ _ _ _))) (fun x11 => (h9 _))) (h9 _)

theorem gainBlock_kept (j : CollJob) (segs : List CollSeg) (k : ℕ) :
    OpKept (gainBlock j segs k) := by
  unfold gainBlock
  refine OpKept.ite ?_ ?_
  · exact formBlock_kept _ _ _
  · split
    · exact OpKept.pure _
    · exact OpKept.bind (CollJob.half_kept _ _) (fun x1 => (OpKept.pure _))

theorem gainBlocks_kept (j : CollJob) (segs : List CollSeg) :
    OpKept (gainBlocks j segs) := by
  unfold gainBlocks
  refine OpKept.bind ?_ (fun x1 => ?_)
  · refine OpKept.map (fun x2 => ?_)
    refine CollJob.at__kept _ _ ?_
    refine OpKept.bind ?_ (fun x3 => ?_)
    · exact gainBlock_kept _ _ _
    · split
      · exact OpKept.bind OpKept.get (fun x4 => (OpKept.bind (writeBlock_kept _ _ _ _) (fun x5 => (OpKept.pure _))))
      · exact OpKept.pure _
  · exact OpKept.pure _

theorem putColl_kept {s0 : State} {s : State} (hs : Kept s0 s) (p : Fin 16) (c : Coll) :
    Kept s0 (putColl s p c) := by
  unfold putColl
  exact State.modPart_kept (hs) _ _

theorem dropColl_kept {s0 : State} {s : State} (hs : Kept s0 s) (p : Fin 16) (c : Coll) :
    Kept s0 (dropColl s p c) := by
  unfold dropColl
  exact State.modPart_kept (hs) _ _

theorem addSegs_kept {s0 : State} {s : State} (hs : Kept s0 s) (p : Fin 16) (gs : List CollSeg) :
    Kept s0 (addSegs s p gs) := by
  unfold addSegs
  exact State.modPart_kept (hs) _ _

theorem sendOwn_kept {s0 : State} {s : State} (hs : Kept s0 s) (j : CollJob) (c : Coll) :
    Kept s0 (sendOwn j c s).1 := by
  unfold sendOwn
  refine Kept.iteFst ?_ ?_
  · extract_lets -merge -useContext -underBinder +onlyGivenNames lo1
    extract_lets -merge -useContext -underBinder +onlyGivenNames bs2
    extract_lets -merge -useContext -underBinder +onlyGivenNames d3
    refine Kept.pairFst ?_
    refine sendPeers_kept ?_ ?_ _ _
    · exact hs
    · intro x4
      intro x5
      intro x6
      intro hx7
      exact sendChunk_kept hx7 _ _ _ _ _ _ _ _
  · exact hs

theorem advanceColl_kept {s0 : State} {s : State} (hs : Kept s0 s) (p : Fin 16) (c : Coll) (k : Comm) :
    Kept s0 (advanceColl s p c k).1 := by
  unfold advanceColl
  extract_lets -merge -useContext -underBinder +onlyGivenNames j1
  split
  · rename_i he2
    have h3 := Kept.of_exec (s0 := s0) he2
        (by
          exact gainBlocks_kept _ _)
        (by
          exact freshRows_kept hs)
    clear he2
    exact h3
  · rename_i he4
    have h5 := Kept.of_exec (s0 := s0) he4
        (by
          exact gainBlocks_kept _ _)
        (by
          exact freshRows_kept hs)
    clear he4
    extract_lets -merge -useContext -underBinder +onlyGivenNames own6
    extract_lets -merge -useContext -underBinder +onlyGivenNames s7
    have h8 : Kept s0 (s7) := by
      unfold s7
      exact addSegs_kept h5 _ _
    clear_value s7
    split
    · rename_i he9
      have h10 := Kept.of_fst (s0 := s0) he9 (by
          exact sendOwn_kept h8 _ _)
      clear he9
      exact Kept.pairFst (putColl_kept h10 _ _)

theorem CollJob.read_kept (j : CollJob) (r : ℕ) (lo : ℕ) (n : ℕ) :
    OpKept (CollJob.read j r lo n) := by
  unfold CollJob.read
  exact CollJob.at__kept _ _ (OpKept.bind OpKept.get (fun x1 => (readRun_kept _ _ _ _)))

theorem startColl_kept (j : CollJob) :
    OpKept (startColl j) := by
  unfold startColl
  refine OpKept.ite ?_ ?_
  · exact OpKept.bind (CollJob.read_kept _ _ _ _) (fun x1 => (OpKept.mod (fun s0 s h2 => (addSegs_kept h2 _ _))))
  · refine OpKept.bind ?_ (fun x3 => ?_)
    · exact OpKept.map (fun x4 => (CollJob.read_kept _ _ _ _))
    · refine OpKept.bind ?_ (fun x5 => ?_)
      · exact OpKept.mod (fun s0 s h6 => (addSegs_kept h6 _ _))
      · refine OpKept.mod (fun s0 s h7 => ?_)
        refine sendPeers_kept ?_ ?_ _ _
        · exact h7
        · intro x8
          intro x9
          intro x10
          intro hx11
          exact sendChunk_kept hx11 _ _ _ _ _ _ _ _

theorem handBlocks_kept (w : Work) (gd : Desc) (row : ℕ) (bs : List RawBlock) :
    OpKept (handBlocks w gd row bs) := by
  unfold handBlocks
  exact OpKept.mod (fun s0 s h1 => (State.modPart_kept h1 _ _))

theorem runDirect_kept {s0 : State} {s : State} (hs : Kept s0 s) (p : Fin 16) (f : Flight) :
    Kept s0 (runDirect s p f).1 := by
  unfold runDirect
  extract_lets -merge -useContext -underBinder +onlyGivenNames g1
  extract_lets -merge -useContext -underBinder +onlyGivenNames gd2
  refine onCoresOf_kept ?_ ?_ _ _ _
  · exact State.modPart_kept hs _ _
  · intro x3
    refine flushCore_kept ?_ _ _ _ _
    intro x4
    intro x5
    exact handBlocks_kept _ _ _ _

theorem breakEarly_kept {s0 : State} {s : State} (hs : Kept s0 s) (p : Fin 16) (c : Coll) (k : Comm) :
    Kept s0 (breakEarly s p c k) := by
  unfold breakEarly
  refine Kept.foldl ?_ (fun a2 b3 h1 => ?_)
  · exact hs
  · split
    · exact breakLink_kept (h1) _ _
    · exact h1

theorem predictColl_kept {s0 : State} {s : State} (hs : Kept s0 s) (p : Fin 16) (t : StreamTag) (g : Granule) :
    Kept s0 (predictColl s p t g) := by
  unfold predictColl
  split
  · exact hs
  · extract_lets -merge -useContext -underBinder +onlyGivenNames c1
    exact State.modPart_kept hs _ _

theorem beginColl_kept {s0 : State} {s : State} (hs : Kept s0 s) (p : Fin 16) (c : Coll) (k : Comm) :
    Kept s0 (beginColl s p c k).state := by
  unfold beginColl
  extract_lets -merge -useContext -underBinder +onlyGivenNames stop1
  have h2 : ∀ a1 a2, Kept s0 a1 → Kept s0 (stop1 a1 a2).state := by
    intro v3 v4 h5
    unfold stop1
    exact Kept.effect (dropColl_kept h5 _ _)
  clear_value stop1
  split
  · exact h2 _ _ (breakEarly_kept hs _ _ _)
  · split
    · rename_i he6
      have h7 := Kept.of_exec (s0 := s0) he6
          (by
            exact startColl_kept _)
          (by
            exact freshRows_kept hs)
      clear he6
      exact h2 _ _ h7
    · rename_i he8
      have h9 := Kept.of_exec (s0 := s0) he8
          (by
            exact startColl_kept _)
          (by
            exact freshRows_kept hs)
      clear he8
      split
      · rename_i he10
        have h11 := Kept.of_fst (s0 := s0) he10 (by
            exact advanceColl_kept (State.modPart_kept h9 _ _) _ _ _)
        clear he10
        exact h2 _ _ h11
      · rename_i he12
        have h13 := Kept.of_fst (s0 := s0) he12 (by
            exact advanceColl_kept (State.modPart_kept h9 _ _) _ _ _)
        clear he12
        exact h13
      · rename_i he14
        have h15 := Kept.of_fst (s0 := s0) he14 (by
            exact advanceColl_kept (State.modPart_kept h9 _ _) _ _ _)
        clear he14
        exact h2 _ _ h15

theorem collRun_kept {s0 : State} {s : State} (hs : Kept s0 s) (p : Fin 16) (t : StreamTag) (_g : Granule) (n : ℕ) :
    Kept s0 (collRun s p t _g n).state := by
  unfold collRun
  split
  · exact Effect.done_kept hs
  · split
    · exact Effect.done_kept hs
    · split
      · exact beginColl_kept hs _ _ _
      · split
        · rename_i he1
          have h2 := Kept.of_fst (s0 := s0) he1 (by
              exact runDirect_kept hs _ _)
          clear he1
          exact beginColl_kept (setWait_kept h2 _ _ _ _) _ _ _
        · rename_i he3
          have h4 := Kept.of_fst (s0 := s0) he3 (by
              exact runDirect_kept hs _ _)
          clear he3
          exact Kept.iteState h4 (Kept.effect (dropColl_kept (trapFlight_kept h4 _ _ _ _) _ _))

theorem collCmd_kept : (collCmd).Kept := by
  unfold collCmd
  refine ⟨fun s0 s p t g n h => ?_, ?_⟩
  · dsimp -zeta only
    exact collRun_kept h _ _ _ _
  · intro s0 s p t g h
    dsimp -zeta only
    exact predictColl_kept h _ _ _

theorem resumeColl_kept {s0 : State} {s : State} (hs : Kept s0 s) (p : Fin 16) (c : Coll) :
    Kept s0 (resumeColl p s c) := by
  unfold resumeColl
  split
  · refine Kept.ite ?_ ?_
    · split
      · rename_i he1
        have h2 := Kept.of_fst (s0 := s0) he1 (by
            exact advanceColl_kept hs _ _ _)
        clear he1
        exact setWait_kept (dropColl_kept h2 _ _) _ _ _ _
      · rename_i he3
        have h4 := Kept.of_fst (s0 := s0) he3 (by
            exact advanceColl_kept hs _ _ _)
        clear he3
        exact h4
      · rename_i he5
        have h6 := Kept.of_fst (s0 := s0) he5 (by
            exact advanceColl_kept hs _ _ _)
        clear he5
        exact Kept.ite (Kept.foldl hs (fun a7 b8 h9 => (noteWait_kept h9 _ _))) (trapFlight_kept (dropColl_kept h6 _ _) _ _ _ _)
    · exact hs
  · exact hs

theorem placeCollData_kept {s0 : State} {s : State} (hs : Kept s0 s) (e : Endpoint) (m : RxMsg) :
    Kept s0 (placeCollData s e m).1 := by
  unfold placeCollData
  extract_lets -merge -useContext -underBinder +onlyGivenNames l1
  extract_lets -merge -useContext -underBinder +onlyGivenNames p2
  extract_lets -merge -useContext -underBinder +onlyGivenNames x3
  refine Kept.iteFst ?_ ?_
  · refine Kept.pairFst ?_
    exact hs
  · split
    · refine Kept.pairFst ?_
      exact hs
    · extract_lets -merge -useContext -underBinder +onlyGivenNames g4
      refine Kept.iteFst ?_ ?_
      · refine Kept.pairFst ?_
        exact hs
      · split
        · refine Kept.iteFst ?_ ?_
          · refine Kept.pairFst ?_
            exact addSegs_kept (hs) _ _
          · refine Kept.pairFst ?_
            exact hs
        · refine Kept.iteFst ?_ ?_
          · refine Kept.pairFst ?_
            exact hs
          · refine Kept.iteFst ?_ ?_
            · refine Kept.pairFst ?_
              exact hs
            · refine Kept.pairFst ?_
              exact addSegs_kept (hs) _ _

theorem collDataEffect_kept {s0 : State} {s : State} (hs : Kept s0 s) (e : Endpoint) (m : RxMsg) :
    Kept s0 (collDataEffect s e m) := by
  unfold collDataEffect
  extract_lets -merge -useContext -underBinder +onlyGivenNames p1
  refine Kept.ite ?_ ?_
  · exact breakLink_kept (sendReject_kept (hs) _ _ _ _) _ _
  · split
    · refine Kept.ite ?_ ?_
      · exact resumeColl_kept (hs) _ _
      · exact hs
    · exact hs

theorem applyRemote_kept {s0 : State} {s : State} (hs : Kept s0 s) (rso : ℕ) (rop : ℕ) (amount : ℕ) :
    Kept s0 (applyRemote s rso rop amount) := by
  unfold applyRemote
  split
  · exact applySignal_kept (hs) _ _ _
  · exact applySignal_kept (hs) _ _ _
  · exact hs

theorem signalEffect_kept {s0 : State} {s : State} (hs : Kept s0 s) (e : Endpoint) (m : RxMsg) :
    Kept s0 (signalEffect s e m) := by
  unfold signalEffect
  extract_lets -merge -useContext -underBinder +onlyGivenNames l1
  extract_lets -merge -useContext -underBinder +onlyGivenNames part2
  extract_lets -merge -useContext -underBinder +onlyGivenNames st3
  extract_lets -merge -useContext -underBinder +onlyGivenNames s4
  have h5 : Kept s0 s4 := by
    exact linkSet_kept (hs) _ _
  clear_value s4
  refine Kept.ite ?_ ?_
  · exact applyRemote_kept (h5) _ _ _
  · exact sendReject_kept (h5) _ _ _ _

theorem rejectWaiter_kept {s0 : State} {s : State} (hs : Kept s0 s) (e : Endpoint) (w : LinkWait) (st : ℕ) (obj : ℕ) :
    Kept s0 (rejectWaiter s e w st obj) := by
  unfold rejectWaiter
  extract_lets -merge -useContext -underBinder +onlyGivenNames l1
  extract_lets -merge -useContext -underBinder +onlyGivenNames p2
  split
  · extract_lets -merge -useContext -underBinder +onlyGivenNames code3
    extract_lets -merge -useContext -underBinder +onlyGivenNames s4
    have h5 : Kept s0 s4 := by
      exact Kept.put (hs) rfl (FusesKept.refl _) ((Nat.le_add_right _ _)) (fun c => { c with regs := c.regs })
    clear_value s4
    extract_lets -merge -useContext -underBinder +onlyGivenNames s6
    have h7 : Kept s0 s6 := by
      exact State.modStream_kept (h5) _ _ _
    clear_value s6
    extract_lets -merge -useContext -underBinder +onlyGivenNames y8
    extract_lets -merge -useContext -underBinder +onlyGivenNames r9
    exact freeze_kept (h7) _ _
  · exact hs

theorem rejectEffect_kept {s0 : State} {s : State} (hs : Kept s0 s) (e : Endpoint) (m : RxMsg) :
    Kept s0 (rejectEffect s e m) := by
  unfold rejectEffect
  extract_lets -merge -useContext -underBinder +onlyGivenNames st1
  extract_lets -merge -useContext -underBinder +onlyGivenNames psn2
  extract_lets -merge -useContext -underBinder +onlyGivenNames obj3
  extract_lets -merge -useContext -underBinder +onlyGivenNames l4
  split
  · exact rejectWaiter_kept (linkSet_kept (hs) _ _) _ _ _ _
  · split
    · exact rejectWaiter_kept (linkSet_kept (hs) _ _) _ _ _ _
    · refine Kept.ite ?_ ?_
      · exact breakLink_kept (hs) _ _
      · exact breakLink_kept (hs) _ _

end Sys2Proof.Machine
end

