-- ==== Sys2Proof/Laws/KeptEngines.lean ====
section
/-! SUPPORT. What the operations of Machine/Engines.lean keep (Laws/Kept.lean): one lemma each, cited by the lemmas of what
calls them. -/

namespace Sys2Proof.Machine

set_option maxRecDepth 4000

theorem cmdOf_kept (g : Granule) : (cmdOf g).Kept := by
  unfold cmdOf
  split
  · exact markCmd_kept
  · exact waitCmd_kept
  · exact sigCmd_kept
  · exact fenceCmd_kept
  · exact stepCmd_kept
  · exact loadCmd_kept
  · exact xposeCmd_kept
  · exact cflushCmd_kept
  · exact tloadCmd_kept
  · exact fmatCmd_kept
  · exact bdxCmd_kept
  · exact bdwCmd_kept
  · exact bmatCmd_kept
  · split
    · exact tblloadCmd_kept
    · exact vopCmd_kept _
  · exact storeCmd_kept
  · exact updCmd_kept
  · exact prefCmd_kept
  · exact migrCmd_kept
  · exact pubCmd_kept
  · exact collCmd_kept
  · exact sendCmd_kept
  · exact recvCmd_kept
  · exact endCmd_kept

theorem offer_kept {s0 : State} {s : State} (hs : Kept s0 s) (p : Fin 16) (t : StreamTag) (f : Flight) :
    Kept s0 (offer p t s f) := by
  unfold offer
  extract_lets -merge -useContext -underBinder +onlyGivenNames e1
  have h2 : Kept s0 (e1).state := by
    unfold e1
    exact StreamCmd.begin__kept (cmdOf_kept _) hs _ _ _ _
  clear_value e1
  split
  · exact State.modStream_kept h2 _ _ _
  · exact trapFlight_kept h2 _ _ _ _

theorem settleFlight_kept {s0 : State} {s : State} (hs : Kept s0 s) (p : Fin 16) (t : StreamTag) (n : ℕ) :
    Kept s0 (settleFlight p t s n) := by
  unfold settleFlight
  split
  · split
    · exact dropFlight_kept hs _ _ _
    · exact offer_kept hs _ _ _
    · exact hs
  · exact hs

theorem settleStream_kept {s0 : State} {s : State} (hs : Kept s0 s) (p : Fin 16) (t : StreamTag) (fuel : ℕ) :
    Kept s0 (settleStream p t fuel s) := by
  induction fuel generalizing s with
  | zero => exact hs
  | succ fuel ih =>
    have h : Kept s0 (((s.stream p t).flight.map Flight.seq).foldl (settleFlight p t) s) :=
      Kept.foldl hs (fun _ n h => settleFlight_kept h _ _ n)
    exact Kept.ite h (ih h)

theorem sweepColls_kept {s0 : State} {s : State} (hs : Kept s0 s) (p : Fin 16) :
    Kept s0 (sweepColls s p) := by
  unfold sweepColls
  exact Kept.foldl hs (fun a1 b2 h3 => (dropColl_kept h3 _ _))

theorem releaseBanks_kept {s0 : State} {s : State} (hs : Kept s0 s) (p : Fin 16) :
    Kept s0 (releaseBanks s p) := by
  unfold releaseBanks
  extract_lets -merge -useContext -underBinder +onlyGivenNames fmats1
  exact Kept.foldl hs (fun a2 b3 h4 => (State.modCore_kept h4 _ _))

theorem dropWaiter_kept {s0 : State} {s : State} (hs : Kept s0 s) (p : Fin 16) (t : StreamTag) (n : ℕ) :
    Kept s0 (dropWaiter s p t n) := by
  unfold dropWaiter
  exact Kept.foldl hs (fun a1 b2 h3 => (linkMod_kept h3 _ _))

theorem endWait_kept {s0 : State} {s : State} (hs : Kept s0 s) (p : Fin 16) (t : StreamTag) (n : ℕ) :
    Kept s0 (endWait p t s n) := by
  unfold endWait
  split
  · refine Kept.ite ?_ ?_
    · extract_lets -merge -useContext -underBinder +onlyGivenNames s1
      have h2 : Kept s0 (s1) := by
        unfold s1
        exact State.modPart_kept hs _ _
      clear_value s1
      exact dropFlight_kept (dropWaiter_kept h2 _ _ _) _ _ _
    · exact hs
  · exact hs

theorem endWaits_kept {s0 : State} {s : State} (hs : Kept s0 s) (p : Fin 16) :
    Kept s0 (endWaits s p) := by
  unfold endWaits
  exact Kept.ite (Kept.foldl hs (fun a1 b2 h3 => (Kept.foldl h3 (fun a4 b5 h6 => (endWait_kept h6 _ _ _))))) hs

theorem settleOnce_kept {s0 : State} {s : State} (hs : Kept s0 s) (p : Fin 16) :
    Kept s0 (settleOnce p s) := by
  unfold settleOnce
  extract_lets -merge -useContext -underBinder +onlyGivenNames s1
  have h2 : Kept s0 (s1) := by
    unfold s1
    exact Kept.foldl hs (fun a3 b4 h5 => (settleStream_kept h5 _ _ _))
  clear_value s1
  exact endWaits_kept (Kept.foldl h2 (fun a6 b7 h8 => (resumeColl_kept h8 _ _))) _

theorem settle_kept {s0 : State} {s : State} (hs : Kept s0 s) (p : Fin 16) :
    Kept s0 (settle p s) := by
  unfold settle
  refine Kept.ite ?_ ?_
  · extract_lets -merge -useContext -underBinder +onlyGivenNames s1
    have h2 : Kept s0 (s1) := by
      unfold s1
      exact settleOnce_kept hs _
    clear_value s1
    extract_lets -merge -useContext -underBinder +onlyGivenNames s3
    have h4 : Kept s0 (s3) := by
      unfold s3
      exact Kept.ite (settleOnce_kept h2 _) h2
    clear_value s3
    exact releaseBanks_kept (sweepColls_kept h4 _) _
  · exact hs

theorem haltPart_kept {s0 : State} {s : State} (hs : Kept s0 s) (p : Fin 16) :
    Kept s0 (haltPart s p) := by
  unfold haltPart
  exact settle_kept (dropPrefetches_kept (State.modPart_kept hs _ _) _) _

theorem settleAll_kept {s0 : State} {s : State} (hs : Kept s0 s) :
    Kept s0 (settleAll s) := by
  unfold settleAll
  exact Kept.foldl hs (fun a1 b2 h3 => (settle_kept h3 _))

theorem execBmat_kept {s0 : State} {s : State} (hs : Kept s0 s) (p : Fin 16) (t : StreamTag) :
    OutKept s0 (execBmat p t s) := by
  unfold execBmat
  exact OutKept.next (settle_kept (issue_kept bmatCmd_kept hs _ _) _)

theorem execColl_kept {s0 : State} {s : State} (hs : Kept s0 s) (p : Fin 16) (t : StreamTag) :
    OutKept s0 (execColl p t s) := by
  unfold execColl
  exact OutKept.next (settle_kept (issue_kept collCmd_kept hs _ _) _)

theorem execCommandComplete_kept {s0 : State} {s : State} (hs : Kept s0 s) (p : Fin 16) (t : StreamTag) (k : ℕ) :
    OutKept s0 (execCommandComplete p t k s) := by
  unfold execCommandComplete
  split
  · exact OutKept.ite (OutKept.next (settle_kept (finishUpd_kept (installTable_kept hs _ _) _ _ _) _)) (OutKept.next hs)
  · exact OutKept.next hs

theorem execFrameZeroed_kept {s0 : State} {s : State} (hs : Kept s0 s) (p : Fin 16) (index : ℕ) :
    OutKept s0 (execFrameZeroed p index s) := by
  unfold execFrameZeroed
  exact OutKept.next (settle_kept (frameZeroed_kept hs _ _) _)

end Sys2Proof.Machine
end

