-- ==== Sys2Proof/Laws/KeptVerbs.lean ====
section
/-! SUPPORT. What the operations of Machine/Verbs.lean keep (Laws/Kept.lean): one lemma each, cited by the lemmas of what calls
them. -/

namespace Sys2Proof.Machine

set_option maxRecDepth 4000

theorem holdFrames_kept {s0 : State} {s : State} (hs : Kept s0 s) (p : Fin 16) (ids : List ℕ) :
    Kept s0 (holdFrames s p ids) := by
  unfold holdFrames
  exact Kept.upd (hs) ⟨rfl, rfl, rfl⟩ (fun c => { c with frames := Sparse.foldl_wf _ (fun _ _ hm => (Sparse.set_wf _ _ hm)) _ c.frames })

theorem reserve_kept {s0 : State} {s : State} (hs : Kept s0 s) (p : Fin 16) (r : AdmitRecord) :
    Kept s0 (reserve s p r) := by
  unfold reserve
  extract_lets -merge -useContext -underBinder +onlyGivenNames upper1
  extract_lets -merge -useContext -underBinder +onlyGivenNames lower2
  extract_lets -merge -useContext -underBinder +onlyGivenNames conns3
  extract_lets -merge -useContext -underBinder +onlyGivenNames s4
  have h5 : Kept s0 s4 := by
    exact holdFrames_kept (hs) _ _
  clear_value s4
  extract_lets -merge -useContext -underBinder +onlyGivenNames s6
  have h7 : Kept s0 s6 := by
    exact Kept.upd (h5) ⟨rfl, rfl, rfl⟩ (fun c => { c with soBlk := Sparse.foldl_wf _ (fun _ _ hm => (Sparse.set_wf _ _ hm)) _ c.soBlk, slotBlk := Sparse.foldl_wf _ (fun _ _ hm => (Sparse.set_wf _ _ hm)) _ c.slotBlk })
  clear_value s6
  extract_lets -merge -useContext -underBinder +onlyGivenNames y8
  extract_lets -merge -useContext -underBinder +onlyGivenNames mem9
  exact State.modPart_kept (h7) _ _

theorem clearPartRegs_kept {s0 : State} {s : State} (hs : Kept s0 s) (p : Fin 16) :
    Kept s0 (clearPartRegs s p) := by
  unfold clearPartRegs
  exact resetRange_kept (resetRange_kept (resetRange_kept (hs) _ _) _ _) _ _

theorem clearScaleSlots_kept {s0 : State} {s : State} (hs : Kept s0 s) (x : Part) :
    Kept s0 (clearScaleSlots s x) := by
  unfold clearScaleSlots
  refine Kept.upd (hs) ⟨rfl, rfl, rfl⟩ (fun c => { c with slots := Sparse.clearRange_wf _ _ c.slots })

theorem finishAdmit_kept {s0 : State} {s : State} (hs : Kept s0 s) (p : Fin 16) :
    Kept s0 (finishAdmit s p) := by
  unfold finishAdmit
  extract_lets -merge -useContext -underBinder +onlyGivenNames s1
  have h2 : Kept s0 (s1) := by
    unfold s1
    exact Kept.foldl hs (fun a3 b4 h5 => (zeroFrame_kept h5 _))
  clear_value s1
  extract_lets -merge -useContext -underBinder +onlyGivenNames s6
  have h7 : Kept s0 (s6) := by
    unfold s6
    exact clearPartRegs_kept (clearScaleSlots_kept (resetObjects_kept h2 _ _) _) _
  clear_value s6
  extract_lets -merge -useContext -underBinder +onlyGivenNames x8
  extract_lets -merge -useContext -underBinder +onlyGivenNames x9
  extract_lets -merge -useContext -underBinder +onlyGivenNames x10
  extract_lets -merge -useContext -underBinder +onlyGivenNames s11
  have h12 : Kept s0 (s11) := by
    unfold s11
    exact State.setPart_kept h7 _ _
  clear_value s11
  split
  · exact answer_kept h12 _ _
  · exact h12

theorem execAdmitDone_kept {s0 : State} {s : State} (hs : Kept s0 s) :
    OutKept s0 (execAdmitDone s) := by
  unfold execAdmitDone
  refine OutKept.next ?_
  split
  · exact finishAdmit_kept (hs) _
  · exact hs

theorem loadPart_kept {s0 : State} {s : State} (hs : Kept s0 s) (p : Fin 16) (tenant : Bool) (r : LoadRecord) :
    Kept s0 (loadPart s p tenant r) := by
  unfold loadPart
  extract_lets -merge -useContext -underBinder +onlyGivenNames s1
  have h1 : Kept s0 s1 :=
    dropLinkWaits_kept (resetObjects_kept (clearTrace_kept (resetCounters_kept (clearEngines_kept hs _) _) _) _ _) _
  clear_value s1
  extract_lets -merge -useContext -underBinder +onlyGivenNames x s2
  have h2 : Kept s0 s2 :=
    Kept.upd h1 ⟨rfl, rfl, rfl⟩ (fun c => { c with slots := Sparse.foldl_wf _ (fun _ _ hm => Sparse.modify_wf _ _ hm) _ c.slots })
  clear_value s2
  extract_lets -merge -useContext -underBinder +onlyGivenNames s3
  have h3 : Kept s0 s3 := resetRange_kept (resetRange_kept h2 _ _) _ _
  clear_value s3
  exact State.setPart_kept (Kept.counts h3 (fun c => Sparse.set_wf _ _
    (Sparse.foldl_wf _ (fun _ _ hm => Sparse.set_wf _ _ hm) _ c.counts))) _ _

theorem beginRun_kept {s0 : State} {s : State} (hs : Kept s0 s) (p : Fin 16) :
    Kept s0 (beginRun s p) := by
  unfold beginRun
  extract_lets -merge -useContext -underBinder +onlyGivenNames x1
  extract_lets -merge -useContext -underBinder +onlyGivenNames s2
  have h3 : Kept s0 s2 := by
    exact State.setPart_kept (hs) _ _
  clear_value s2
  extract_lets -merge -useContext -underBinder +onlyGivenNames s4
  have h5 : Kept s0 s4 := by
    refine Kept.foldl ?_ (fun a7 b8 h6 => ?_)
    · exact h3
    · exact arrive_kept (h6) _ _
  clear_value s4
  split
  · exact answer_kept (h5) _ _
  · exact h5

theorem startPart_kept {s0 : State} {s : State} (hs : Kept s0 s) (p : Fin 16) :
    Kept s0 (startPart s p) := by
  unfold startPart
  refine Kept.ite ?_ ?_
  · exact beginRun_kept (hs) _
  · exact demandAll_kept (State.modPart_kept (hs) _ _) _

theorem resumeStart_kept {s0 : State} {s : State} (hs : Kept s0 s) (p : Fin 16) :
    Kept s0 (resumeStart s p) := by
  unfold resumeStart
  refine Kept.ite ?_ ?_
  · exact beginRun_kept (hs) _
  · exact hs

theorem stopAtBoundary_kept {s0 : State} {s : State} (hs : Kept s0 s) (p : Fin 16) :
    Kept s0 (stopAtBoundary s p) := by
  unfold stopAtBoundary
  exact State.modPart_kept (hs) _ _

theorem execStopDone_kept {s0 : State} {s : State} (hs : Kept s0 s) (p : Fin 16) :
    OutKept s0 (execStopDone p s) := by
  unfold execStopDone
  extract_lets -merge -useContext -underBinder +onlyGivenNames x1
  refine OutKept.ite ?_ ?_
  · refine OutKept.next ?_
    exact answerStop_kept (State.setPart_kept (hs) _ _) _
  · refine OutKept.next ?_
    exact hs

theorem revokeSessions_kept {s0 : State} {s : State} (hs : Kept s0 s) (p : Fin 16) :
    Kept s0 (revokeSessions s p) := by
  unfold revokeSessions
  refine Kept.foldl ?_ (fun a4 b5 h1 => ?_)
  · exact hs
  · extract_lets -merge -useContext -underBinder +onlyGivenNames e2
    extract_lets -merge -useContext -underBinder +onlyGivenNames l3
    refine Kept.ite ?_ ?_
    · exact closeLink_kept (sendFrame_kept (sendReject_kept (h1) _ _ _ _) _ _ _ _ _) _
    · exact h1

theorem revokeConns_kept {s0 : State} {s : State} (hs : Kept s0 s) (p : Fin 16) :
    Kept s0 (revokeConns s p) := by
  unfold revokeConns
  refine Kept.foldl ?_ (fun a2 b3 h1 => ?_)
  · exact hs
  · exact breakLink_kept (h1) _ _

theorem scrubBlocks_kept {s0 : State} {s : State} (hs : Kept s0 s) (x : Part) :
    Kept s0 (scrubBlocks s x) := by
  unfold scrubBlocks
  exact Kept.upd (hs) ⟨rfl, rfl, rfl⟩ (fun c => { c with soBlk := Sparse.foldl_wf _ (fun _ _ hm => (Sparse.modify_wf _ _ hm)) _ c.soBlk })

theorem releasePart_kept {s0 : State} {s : State} (hs : Kept s0 s) (p : Fin 16) :
    Kept s0 (releasePart s p) := by
  unfold releasePart
  extract_lets -merge -useContext -underBinder +onlyGivenNames runs1
  extract_lets -merge -useContext -underBinder +onlyGivenNames s2
  have h3 : Kept s0 (s2) := by
    unfold s2
    exact Kept.ite (haltPart_kept hs _) (dropPrefetches_kept (State.modPart_kept hs _ _) _)
  clear_value s2
  extract_lets -merge -useContext -underBinder +onlyGivenNames s4
  have h5 : Kept s0 (s4) := by
    unfold s4
    exact answerStop_kept (revokeSessions_kept h3 _) _
  clear_value s4
  extract_lets -merge -useContext -underBinder +onlyGivenNames s6
  have h7 : Kept s0 (s6) := by
    unfold s6
    exact State.modPart_kept h5 _ _
  clear_value s6
  exact scrubBlocks_kept (settle_kept (resetRange_kept (revokeConns_kept h7 _) _ _) _) _

theorem giveFrame_kept {s0 : State} {s : State} (hs : Kept s0 s) (id : ℕ) :
    Kept s0 (giveFrame s id) := by
  unfold giveFrame
  extract_lets -merge -useContext -underBinder +onlyGivenNames s1
  have h2 : Kept s0 s1 := by
    exact zeroFrame_kept (hs) _
  clear_value s1
  refine Kept.ite ?_ ?_
  · exact h2
  · exact Kept.upd (h2) ⟨rfl, rfl, rfl⟩ (fun c => { c with frames := Sparse.set_wf _ _ c.frames })

theorem scrubCore_kept {s0 : State} {s : State} (hs : Kept s0 s) (nn : ℕ) :
    Kept s0 (scrubCore s nn) := by
  unfold scrubCore
  extract_lets -merge -useContext -underBinder +onlyGivenNames s1
  have h2 : Kept s0 (s1) := by
    unfold s1
    exact State.modCore_kept (clearCoreRegs_kept hs _) _ _
  clear_value s1
  extract_lets -merge -useContext -underBinder +onlyGivenNames s3
  have h4 : Kept s0 (s3) := by
    unfold s3
    exact resetRange_kept (resetRange_kept h2 _ _) _ _
  clear_value s3
  refine Kept.upd (h4) ⟨rfl, rfl, rfl⟩ (fun c => { c with store := Sparse.clearRange_wf _ _ c.store, storeErrs := Sparse.clearRange_wf _ _ c.storeErrs })

theorem finishScrub_kept {s0 : State} {s : State} (hs : Kept s0 s) (p : Fin 16) :
    Kept s0 (finishScrub s p) := by
  unfold finishScrub
  extract_lets -merge -useContext -underBinder +onlyGivenNames x1
  extract_lets -merge -useContext -underBinder +onlyGivenNames s2
  have h3 : Kept s0 (s2) := by
    unfold s2
    exact Kept.foldl hs (fun a4 b5 h6 => (giveFrame_kept h6 _))
  clear_value s2
  extract_lets -merge -useContext -underBinder +onlyGivenNames s7
  have h8 : Kept s0 (s7) := by
    unfold s7
    exact Kept.foldl h3 (fun a9 b10 h11 => (scrubCore_kept h11 _))
  clear_value s7
  extract_lets -merge -useContext -underBinder +onlyGivenNames s12
  have h13 : Kept s0 (s12) := by
    unfold s12
    exact clearPartRegs_kept (clearScaleSlots_kept (resetObjects_kept (clearTrace_kept h8 _) _ _) _) _
  clear_value s12
  extract_lets -merge -useContext -underBinder +onlyGivenNames s14
  have h15 : Kept s0 (s14) := by
    unfold s14
    refine Kept.upd (h13) ⟨rfl, rfl, rfl⟩ (fun c => { c with soBlk := Sparse.foldl_wf _ (fun _ _ hm0 => (Sparse.set_wf _ _ hm0)) _ c.soBlk, slotBlk := Sparse.foldl_wf _ (fun _ _ hm0 => (Sparse.set_wf _ _ hm0)) _ c.slotBlk })
  clear_value s14
  extract_lets -merge -useContext -underBinder +onlyGivenNames s16
  extract_lets -merge -useContext -underBinder +onlyGivenNames s18
  have h19 : Kept s0 (s18) := by
    unfold s18
    exact State.setPart_kept h15 _ _
  clear_value s18
  split
  · exact answer_kept h19 _ _
  · exact h19

theorem scrubDone_kept {s0 : State} {s : State} (hs : Kept s0 s) (p : Fin 16) :
    Kept s0 (scrubDone p s) := by
  unfold scrubDone
  extract_lets -merge -useContext -underBinder +onlyGivenNames x1
  exact Kept.ite (finishScrub_kept hs _) hs

theorem carry_kept {s0 : State} {s : State} (hs : Kept s0 s) (p : Fin 16) (v : VerbReq) :
    Kept s0 (carry s p v) := by
  unfold carry
  exact State.modPart_kept (hs) _ _

theorem verbEffect_kept {s0 : State} {s : State} (hs : Kept s0 s) (p : Fin 16) (v : VerbReq) :
    Kept s0 (verbEffect s p v) := by
  unfold verbEffect
  extract_lets -merge -useContext -underBinder +onlyGivenNames x1
  extract_lets -merge -useContext -underBinder +onlyGivenNames bad2
  have h3 : Kept s0 (bad2) := by
    unfold bad2
    exact answer_kept hs _ _
  clear_value bad2
  split
  · refine Kept.ite ?_ ?_
    · exact h3
    · split
      · exact answer_kept hs _ _
      · exact carry_kept (reserve_kept hs _ _) _ _
  · exact Kept.ite h3 (Kept.ite (answer_kept hs _ _) (answer_kept (loadPart_kept hs _ _ _) _ _))
  · exact answer_kept hs _ _
  · exact Kept.ite h3 (startPart_kept (carry_kept hs _ _) _)
  · exact Kept.ite h3 (stopAtBoundary_kept (State.modPart_kept hs _ _) _)
  · exact Kept.ite h3 (haltPart_kept (State.modPart_kept hs _ _) _)
  · exact Kept.ite h3 (releasePart_kept (carry_kept hs _ _) _)

theorem admitIntake_kept {s0 : State} {s : State} (hs : Kept s0 s) (p : Fin 16) (v : VerbReq) :
    Kept s0 (admitIntake s p v) := by
  unfold admitIntake
  exact Kept.ite (Kept.ite (answer_kept hs _ _) (Kept.plain hs)) (verbEffect_kept hs _ _)

theorem enqueueVerb_kept {s0 : State} {s : State} (hs : Kept s0 s) (p : Fin 16) (v : VerbReq) :
    Kept s0 (enqueueVerb s p v) := by
  unfold enqueueVerb
  refine Kept.ite ?_ ?_
  · exact answer_kept (hs) _ _
  · exact State.modPart_kept (hs) _ _

theorem verbIntake_kept {s0 : State} {s : State} (hs : Kept s0 s) (p : Fin 16) (v : VerbReq) :
    Kept s0 (verbIntake s p v) := by
  unfold verbIntake
  exact Kept.ite (verbEffect_kept hs _ _) (Kept.ite (enqueueVerb_kept hs _ _) (Kept.ite (admitIntake_kept hs _ _) (verbEffect_kept hs _ _)))

theorem execVerbDequeue_kept {s0 : State} {s : State} (hs : Kept s0 s) (q : Option (Fin 16)) :
    OutKept s0 (execVerbDequeue q s) := by
  unfold execVerbDequeue
  split
  · split
    · exact OutKept.next hs
    · refine OutKept.ite ?_ ?_
      · exact OutKept.next hs
      · extract_lets -merge -useContext -underBinder +onlyGivenNames s1
        have h2 : Kept s0 (s1) := by
          unfold s1
          exact State.modPart_kept hs _ _
        clear_value s1
        exact OutKept.next (Kept.ite (admitIntake_kept h2 _ _) (verbEffect_kept h2 _ _))
  · split
    · exact OutKept.next hs
    · exact OutKept.ite (OutKept.next hs) (OutKept.next (verbEffect_kept (Kept.plain hs) _ _))

theorem connSet_kept {s0 : State} {s : State} (hs : Kept s0 s) (bs : List Byte) (mask : List Byte) :
    Kept s0 (connSet s bs mask).1 := by
  unfold connSet
  extract_lets -merge -useContext -underBinder +onlyGivenNames p1
  extract_lets -merge -useContext -underBinder +onlyGivenNames conn2
  extract_lets -merge -useContext -underBinder +onlyGivenNames port3
  extract_lets -merge -useContext -underBinder +onlyGivenNames x4
  refine Kept.iteFst ?_ ?_
  · refine Kept.pairFst ?_
    exact hs
  · refine Kept.iteFst ?_ ?_
    · refine Kept.pairFst ?_
      exact hs
    · refine Kept.iteFst ?_ ?_
      · refine Kept.pairFst ?_
        exact hs
      · refine Kept.iteFst ?_ ?_
        · refine Kept.pairFst ?_
          exact hs
        · split
          · refine Kept.pairFst ?_
            exact hs
          · extract_lets -merge -useContext -underBinder +onlyGivenNames old5
            extract_lets -merge -useContext -underBinder +onlyGivenNames s6
            have h7 : Kept s0 s6 := by
              refine Kept.ite ?_ ?_
              · exact sendFrame_kept (hs) _ _ _ _ _
              · exact hs
            clear_value s6
            extract_lets -merge -useContext -underBinder +onlyGivenNames s8
            have h9 : Kept s0 s8 := by
              refine Kept.ite ?_ ?_
              · exact h7
              · exact closeLink_kept (h7) _
            clear_value s8
            extract_lets -merge -useContext -underBinder +onlyGivenNames y10
            extract_lets -merge -useContext -underBinder +onlyGivenNames l11
            extract_lets -merge -useContext -underBinder +onlyGivenNames s12
            have h13 : Kept s0 s12 := by
              exact linkSet_kept (h9) _ _
            clear_value s12
            extract_lets -merge -useContext -underBinder +onlyGivenNames s14
            have h15 : Kept s0 s14 := by
              unfold s14
              split
              · refine Kept.ite ?_ ?_
                · exact h13
                · exact demandWake_kept (h13) _
              · exact h13
            clear_value s14
            refine Kept.pairFst ?_
            refine Kept.ite ?_ ?_
            · exact sendOpen_kept (h15) _
            · exact h15

theorem commSet_kept {s0 : State} {s : State} (hs : Kept s0 s) (bs : List Byte) :
    Kept s0 (commSet s bs).1 := by
  unfold commSet
  extract_lets -merge -useContext -underBinder +onlyGivenNames p1
  extract_lets -merge -useContext -underBinder +onlyGivenNames n2
  extract_lets -merge -useContext -underBinder +onlyGivenNames rank3
  extract_lets -merge -useContext -underBinder +onlyGivenNames conns4
  extract_lets -merge -useContext -underBinder +onlyGivenNames x5
  refine Kept.iteFst ?_ ?_
  · refine Kept.pairFst ?_
    exact hs
  · refine Kept.iteFst ?_ ?_
    · refine Kept.pairFst ?_
      exact hs
    · refine Kept.iteFst ?_ ?_
      · refine Kept.pairFst ?_
        exact hs
      · extract_lets -merge -useContext -underBinder +onlyGivenNames comms6
        refine Kept.pairFst ?_
        exact State.modPart_kept (hs) _ _

end Sys2Proof.Machine
end

