-- ==== Sys2Proof/Laws/KeptRegmap.lean ====
section
/-! SUPPORT. What the operations of Machine/Regmap.lean keep (Laws/Kept.lean): one lemma each, cited by the lemmas of what calls
them. -/

namespace Sys2Proof.Machine

set_option maxRecDepth 4000

theorem qsView_kept {s0 : State} {s : State} (hs : Kept s0 s) (p : Fin 16) :
    Kept s0 (qsView s p) := by
  unfold qsView
  extract_lets -merge -useContext -underBinder +onlyGivenNames x1
  refine Kept.ite ?_ ?_
  · exact State.setPart_kept (resetRange_kept (Kept.slots hs (fun c => Sparse.clearRange_wf _ _ c.slots)) _ _) _ _
  · exact hs

end Sys2Proof.Machine
end

