-- ==== Sys2Proof/Laws/KeptAccess.lean ====
section
/-! SUPPORT. What the operations of Machine/Access.lean keep (Laws/Kept.lean): one lemma each, cited by the lemmas of what calls
them. -/

namespace Sys2Proof.Machine

set_option maxRecDepth 4000

theorem doRead_kept {s0 : State} {s : State} (hs : Kept s0 s) (who : Requester) (a : ℕ) :
    Kept s0 (doRead s who a).2 := by
  unfold doRead
  extract_lets -merge -useContext -underBinder +onlyGivenNames w1
  extract_lets -merge -useContext -underBinder +onlyGivenNames c2
  extract_lets -merge -useContext -underBinder +onlyGivenNames v3
  extract_lets -merge -useContext -underBinder +onlyGivenNames caps4
  extract_lets -merge -useContext -underBinder +onlyGivenNames caps5
  refine Kept.pairSnd ?_
  exact Kept.draw 1 (hs) ⟨rfl, rfl, rfl⟩ (fun c => { c with caps := Sparse.foldl_wf _ (fun _ _ hm => (Sparse.set_wf _ _ hm)) _ (Sparse.ite_wf (Sparse.set_wf _ _ c.caps) c.caps) })

theorem putBits_kept {s0 : State} {s : State} (hs : Kept s0 s) (a : ℕ) (m : Word) (v : Word) :
    Kept s0 (putBits s a m v) := by
  unfold putBits
  exact setRaw_kept (hs) _ _

theorem clearBits_kept {s0 : State} {s : State} (hs : Kept s0 s) (a : ℕ) (m : Word) (v : Word) :
    Kept s0 (clearBits s a m v) := by
  unfold clearBits
  exact setRaw_kept (hs) _ _

theorem putField_kept {s0 : State} {s : State} (hs : Kept s0 s) (a : ℕ) (hi : ℕ) (lo : ℕ) (v : Word) (ok : ℕ → Bool) :
    Kept s0 (putField s a hi lo v ok) := by
  unfold putField
  refine Kept.ite ?_ ?_
  · exact putBits_kept (hs) _ _ _
  · exact hs

theorem putChecked_kept {s0 : State} {s : State} (hs : Kept s0 s) (a : ℕ) (hi : ℕ) (lo : ℕ) (v : Word) (ok : ℕ → Bool) (ev : ℕ) (bit : ℕ) :
    Kept s0 (putChecked s a hi lo v ok ev bit) := by
  unfold putChecked
  refine Kept.ite ?_ ?_
  · exact putBits_kept (hs) _ _ _
  · exact postBit_kept (hs) _ _

theorem lockedWrite_kept {s0 : State} {s : State} {f : State → State} (hs : Kept s0 s) (hf : ∀ a1, Kept s0 a1 → Kept s0 (f a1)) (lockReg : ℕ) :
    Kept s0 (lockedWrite s lockReg f) := by
  unfold lockedWrite
  refine Kept.ite ?_ ?_
  · exact bump_kept (hs) _ _ _
  · refine hf _ ?_
    · exact hs

theorem writeCore_kept {s0 : State} {s : State} (hs : Kept s0 s) (code : ℕ) (nn : ℕ) (ofs : ℕ) (v : Word) :
    Kept s0 (writeCore s code nn ofs v) := by
  unfold writeCore
  extract_lets -merge -useContext -underBinder +onlyGivenNames a1
  split
  · exact clearBits_kept (hs) _ _ _
  · exact clearBits_kept (hs) _ _ _
  · exact clearBits_kept (hs) _ _ _
  · exact clearBits_kept (hs) _ _ _
  · exact putBits_kept (hs) _ _ _
  · exact clearBits_kept (hs) _ _ _
  · exact clearBits_kept (hs) _ _ _
  · exact hs

theorem setHalf_kept {s0 : State} {s : State} (hs : Kept s0 s) (lo : ℕ) (high : Bool) (v : Word) :
    Kept s0 (setHalf s lo high v) := by
  unfold setHalf
  extract_lets -merge -useContext -underBinder +onlyGivenNames w1
  extract_lets -merge -useContext -underBinder +onlyGivenNames n2
  exact Kept.upd (hs) ⟨rfl, rfl, rfl⟩ (fun c => { c with counts := Sparse.set_wf _ _ c.counts })

theorem completeCounter_kept {s0 : State} {s : State} (hs : Kept s0 s) (who : Requester) (nn : ℕ) (j : ℕ) (v : Word) :
    Kept s0 (completeCounter s who nn j v) := by
  unfold completeCounter
  extract_lets -merge -useContext -underBinder +onlyGivenNames a1
  extract_lets -merge -useContext -underBinder +onlyGivenNames key2
  extract_lets -merge -useContext -underBinder +onlyGivenNames held3
  extract_lets -merge -useContext -underBinder +onlyGivenNames high4
  extract_lets -merge -useContext -underBinder +onlyGivenNames s5
  have h6 : Kept s0 s5 := by
    exact Kept.upd (hs) ⟨rfl, rfl, rfl⟩ (fun c => { c with counts := Sparse.set_wf _ _ c.counts, heldHi := Sparse.set_wf _ _ c.heldHi })
  clear_value s5
  exact setRaw_kept (h6) _ _

theorem writeCnt_kept {s0 : State} {s : State} (hs : Kept s0 s) (who : Requester) (nn : ℕ) (ofs : ℕ) (v : Word) :
    Kept s0 (writeCnt s who nn ofs v) := by
  unfold writeCnt
  extract_lets -merge -useContext -underBinder +onlyGivenNames j1
  extract_lets -merge -useContext -underBinder +onlyGivenNames a2
  split
  · exact putField_kept (putBits_kept (hs) _ _ _) _ _ _ _ _
  · exact putField_kept (clearBits_kept (hs) _ _ _) _ _ _ _ _
  · exact completeCounter_kept (hs) _ _ _ _
  · exact Kept.upd (hs) ⟨rfl, rfl, rfl⟩ (fun c => { c with heldHi := Sparse.set_wf _ _ c.heldHi })
  · exact setHalf_kept (hs) _ _ _
  · exact setHalf_kept (hs) _ _ _
  · exact hs

theorem writeTrace_kept {s0 : State} {s : State} (hs : Kept s0 s) (p : Fin 16) (ofs : ℕ) (v : Word) :
    Kept s0 (writeTrace s p ofs v) := by
  unfold writeTrace
  extract_lets -merge -useContext -underBinder +onlyGivenNames a1
  extract_lets -merge -useContext -underBinder +onlyGivenNames x2
  extract_lets -merge -useContext -underBinder +onlyGivenNames idle3
  extract_lets -merge -useContext -underBinder +onlyGivenNames base4
  extract_lets -merge -useContext -underBinder +onlyGivenNames size5
  extract_lets -merge -useContext -underBinder +onlyGivenNames fits6
  split
  · exact putField_kept (putBits_kept (hs) _ _ _) _ _ _ _ _
  · refine Kept.ite ?_ ?_
    · exact putBits_kept (hs) _ _ _
    · exact hs
  · refine Kept.ite ?_ ?_
    · exact putBits_kept (hs) _ _ _
    · exact hs
  · refine Kept.ite ?_ ?_
    · exact putField_kept (hs) _ _ _ _ _
    · exact hs
  · exact hs

theorem writeSq_kept {s0 : State} {s : State} (hs : Kept s0 s) (ofs : ℕ) (v : Word) :
    Kept s0 (writeSq s ofs v) := by
  unfold writeSq
  refine Kept.ite ?_ ?_
  · exact writeTrace_kept (hs) _ _ _
  · refine Kept.ite ?_ ?_
    · extract_lets -merge -useContext -underBinder +onlyGivenNames n1
      extract_lets -merge -useContext -underBinder +onlyGivenNames o2
      exact soSet_kept (hs) _ _
    · exact hs

theorem badQs_kept {s0 : State} {s : State} (hs : Kept s0 s) (p : Fin 16) :
    Kept s0 (badQs s p) := by
  unfold badQs
  exact postBit_kept (hs) _ _

theorem putSlot_kept {s0 : State} {s : State} (hs : Kept s0 s) (p : Fin 16) (n : ℕ) (x : Slot) (bad : Bool) :
    Kept s0 (putSlot s p n x bad) := by
  unfold putSlot
  extract_lets -merge -useContext -underBinder +onlyGivenNames s1
  have h2 : Kept s0 s1 := by
    exact Kept.upd (hs) ⟨rfl, rfl, rfl⟩ (fun c => { c with slots := Sparse.set_wf _ _ c.slots })
  clear_value s1
  refine Kept.ite ?_ ?_
  · exact badQs_kept (h2) _
  · exact h2

theorem writeLayer_kept {s0 : State} {s : State} (hs : Kept s0 s) (p : Fin 16) (v : Word) :
    Kept s0 (writeLayer s p v) := by
  unfold writeLayer
  split
  · exact hs
  · extract_lets -merge -useContext -underBinder +onlyGivenNames x1
    extract_lets -merge -useContext -underBinder +onlyGivenNames e2
    extract_lets -merge -useContext -underBinder +onlyGivenNames r3
    refine Kept.ite ?_ ?_
    · extract_lets -merge -useContext -underBinder +onlyGivenNames layers4
      exact State.setPart_kept (hs) _ _
    · exact badQs_kept (hs) _

theorem writeQs_kept {s0 : State} {s : State} (hs : Kept s0 s) (p : Fin 16) (ofs : ℕ) (v : Word) :
    Kept s0 (writeQs s p ofs v) := by
  unfold writeQs
  extract_lets -merge -useContext -underBinder +onlyGivenNames x1
  extract_lets -merge -useContext -underBinder +onlyGivenNames a2
  extract_lets -merge -useContext -underBinder +onlyGivenNames runs3
  refine Kept.ite ?_ ?_
  · exact hs
  · refine Kept.ite ?_ ?_
    · split
      · exact hs
      · refine Kept.ite ?_ ?_
        · exact badQs_kept (hs) _
        · extract_lets -merge -useContext -underBinder +onlyGivenNames r4
          exact putSlot_kept (hs) _ _ _ _
    · split
      · exact clearBits_kept (hs) _ _ _
      · exact setRaw_kept (hs) _ _
      · exact putBits_kept (hs) _ _ _
      · exact putBits_kept (hs) _ _ _
      · refine Kept.ite ?_ ?_
        · exact badQs_kept (hs) _
        · exact writeLayer_kept (hs) _ _
      · refine Kept.ite ?_ ?_
        · exact badQs_kept (hs) _
        · exact setRaw_kept (hs) _ _
      · exact hs

theorem writeMm_kept {s0 : State} {s : State} (hs : Kept s0 s) (ofs : ℕ) (v : Word) :
    Kept s0 (writeMm s ofs v) := by
  unfold writeMm
  extract_lets -merge -useContext -underBinder +onlyGivenNames a1
  refine Kept.ite ?_ ?_
  · exact lockedWrite_kept (hs) (fun x2 h3 => by
      exact putField_kept (putBits_kept (h3) _ _ _) _ _ _ _ _) _
  · refine Kept.ite ?_ ?_
    · exact clearBits_kept (hs) _ _ _
    · refine Kept.ite ?_ ?_
      · exact clearBits_kept (hs) _ _ _
      · refine Kept.ite ?_ ?_
        · exact clearBits_kept (hs) _ _ _
        · refine Kept.ite ?_ ?_
          · exact clearBits_kept (hs) _ _ _
          · refine Kept.ite ?_ ?_
            · exact clearBits_kept (hs) _ _ _
            · exact hs

theorem writeTr_kept {s0 : State} {s : State} (hs : Kept s0 s) (ofs : ℕ) (v : Word) :
    Kept s0 (writeTr s ofs v) := by
  unfold writeTr
  extract_lets -merge -useContext -underBinder +onlyGivenNames a1
  split
  · exact putField_kept (putBits_kept (hs) _ _ _) _ _ _ _ _
  · exact clearBits_kept (hs) _ _ _
  · exact putBits_kept (hs) _ _ _
  · exact putBits_kept (hs) _ _ _
  · exact putBits_kept (hs) _ _ _
  · refine Kept.ite ?_ ?_
    · exact clearBits_kept (hs) _ _ _
    · exact hs

theorem writeFb_kept {s0 : State} {s : State} (hs : Kept s0 s) (ofs : ℕ) (v : Word) :
    Kept s0 (writeFb s ofs v) := by
  unfold writeFb
  extract_lets -merge -useContext -underBinder +onlyGivenNames a1
  split
  · exact lockedWrite_kept (hs) (fun x2 h3 => by
      exact putField_kept (putBits_kept (h3) _ _ _) _ _ _ _ _) _
  · exact lockedWrite_kept (hs) (fun x4 h5 => by
      exact putField_kept (putBits_kept (h5) _ _ _) _ _ _ _ _) _
  · exact putBits_kept (hs) _ _ _
  · refine Kept.ite ?_ ?_
    · exact clearBits_kept (hs) _ _ _
    · exact hs

theorem writeHp_kept {s0 : State} {s : State} (hs : Kept s0 s) (ofs : ℕ) (v : Word) :
    Kept s0 (writeHp s ofs v) := by
  unfold writeHp
  extract_lets -merge -useContext -underBinder +onlyGivenNames a1
  split
  · exact lockedWrite_kept (hs) (fun x2 h3 => by
      extract_lets -merge -useContext -underBinder +onlyGivenNames s4
      have h5 : Kept s0 s4 := by
        exact putField_kept (putBits_kept (h3) _ _ _) _ _ _ _ _
      clear_value s4
      exact putField_kept (h5) _ _ _ _ _) _
  · exact putBits_kept (hs) _ _ _
  · refine Kept.ite ?_ ?_
    · exact clearBits_kept (hs) _ _ _
    · exact hs

theorem writeSc_kept {s0 : State} {s : State} (hs : Kept s0 s) (owner : Bool) (ofs : ℕ) (v : Word) :
    Kept s0 (writeSc s owner ofs v).1 := by
  unfold writeSc
  extract_lets -merge -useContext -underBinder +onlyGivenNames a1
  refine Kept.iteFst ?_ ?_
  · refine Kept.iteFst ?_ ?_
    · exact writeFuseCmd_kept (hs) _
    · refine Kept.pairFst ?_
      exact hs
  · refine Kept.iteFst ?_ ?_
    · refine Kept.pairFst ?_
      exact writeAttestCtl_kept (hs) _
    · refine Kept.iteFst ?_ ?_
      · refine Kept.iteFst ?_ ?_
        · exact writeFlashCtl_kept (hs) _
        · refine Kept.pairFst ?_
          exact hs
      · refine Kept.iteFst ?_ ?_
        · refine Kept.pairFst ?_
          exact setRaw_kept (hs) _ _
        · refine Kept.iteFst ?_ ?_
          · refine Kept.pairFst ?_
            exact putBits_kept (hs) _ _ _
          · refine Kept.iteFst ?_ ?_
            · refine Kept.pairFst ?_
              exact setRaw_kept (hs) _ _
            · refine Kept.pairFst ?_
              exact hs

theorem badReq_kept {s0 : State} {s : State} (hs : Kept s0 s) :
    Kept s0 (badReq s) := by
  unfold badReq
  exact postBit_kept (hs) _ _

theorem writePmCfg_kept {s0 : State} {s : State} (hs : Kept s0 s) (v : Word) :
    Kept s0 (writePmCfg s v) := by
  unfold writePmCfg
  extract_lets -merge -useContext -underBinder +onlyGivenNames a1
  exact lockedWrite_kept (hs) (fun x2 h3 => by
    extract_lets -merge -useContext -underBinder +onlyGivenNames s4
    have h5 : Kept s0 s4 := by
      exact putField_kept (putBits_kept (h3) _ _ _) _ _ _ _ _
    clear_value s4
    exact putField_kept (h5) _ _ _ _ _) _

theorem writePwrCfg_kept {s0 : State} {s : State} (hs : Kept s0 s) (v : Word) :
    Kept s0 (writePwrCfg s v) := by
  unfold writePwrCfg
  extract_lets -merge -useContext -underBinder +onlyGivenNames a1
  extract_lets -merge -useContext -underBinder +onlyGivenNames within2
  exact lockedWrite_kept (hs) (fun x3 h4 => by
    extract_lets -merge -useContext -underBinder +onlyGivenNames s5
    have h6 : Kept s0 s5 := by
      exact putBits_kept (h4) _ _ _
    clear_value s5
    extract_lets -merge -useContext -underBinder +onlyGivenNames s7
    have h8 : Kept s0 s7 := by
      exact putChecked_kept (h6) _ _ _ _ _ _ _
    clear_value s7
    extract_lets -merge -useContext -underBinder +onlyGivenNames s9
    have h10 : Kept s0 s9 := by
      exact putChecked_kept (h8) _ _ _ _ _ _ _
    clear_value s9
    extract_lets -merge -useContext -underBinder +onlyGivenNames s11
    have h12 : Kept s0 s11 := by
      exact putChecked_kept (h10) _ _ _ _ _ _ _
    clear_value s11
    extract_lets -merge -useContext -underBinder +onlyGivenNames s13
    have h14 : Kept s0 s13 := by
      exact putChecked_kept (h12) _ _ _ _ _ _ _
    clear_value s13
    exact setPower_kept (h14) _) _

theorem kickWatchdog_kept {s0 : State} {s : State} (hs : Kept s0 s) (v : Word) :
    Kept s0 (kickWatchdog s v) := by
  unfold kickWatchdog
  refine Kept.ite ?_ ?_
  · exact Kept.upd (hs) ⟨rfl, rfl, rfl⟩ (fun c => { c with regs := c.regs })
  · exact hs

theorem askRemoteReset_kept {s0 : State} {s : State} (hs : Kept s0 s) (who : Requester) (v : Word) :
    Kept s0 (askRemoteReset s who v) := by
  unfold askRemoteReset
  refine Kept.ite ?_ ?_
  · exact Kept.upd (hs) ⟨rfl, rfl, rfl⟩ (fun c => { c with regs := c.regs })
  · exact hs

theorem askPartReset_kept {s0 : State} {s : State} (hs : Kept s0 s) (v : Word) :
    Kept s0 (askPartReset s v) := by
  unfold askPartReset
  extract_lets -merge -useContext -underBinder +onlyGivenNames p1
  refine Kept.ite ?_ ?_
  · exact hs
  · refine Kept.ite ?_ ?_
    · exact badReq_kept (hs)
    · refine Kept.ite ?_ ?_
      · exact State.modPart_kept (hs) _ _
      · exact partitionReset_kept (hs) _

theorem writeOp_kept {s0 : State} {s : State} (hs : Kept s0 s) (v : Word) :
    Kept s0 (writeOp s v) := by
  unfold writeOp
  exact startMove_kept (putBits_kept (hs) _ _ _)

theorem writeBlk_kept {s0 : State} {s : State} (hs : Kept s0 s) (b : ℕ) (v : Word) :
    Kept s0 (writeBlk s b v) := by
  unfold writeBlk
  extract_lets -merge -useContext -underBinder +onlyGivenNames s1
  have h2 : Kept s0 s1 := by
    exact blkMod_kept (hs) _ _
  clear_value s1
  exact setSoft_kept (h2) _ _

theorem writePm_kept {s0 : State} {s : State} (hs : Kept s0 s) (who : Requester) (ofs : ℕ) (v : Word) :
    Kept s0 (writePm s who ofs v) := by
  unfold writePm
  extract_lets -merge -useContext -underBinder +onlyGivenNames a1
  refine Kept.ite ?_ ?_
  · exact writeBlk_kept (hs) _ _
  · split
    · exact writePmCfg_kept (hs) _
    · exact clearBits_kept (hs) _ _ _
    · exact kickWatchdog_kept (hs) _
    · exact askRemoteReset_kept (hs) _ _
    · exact askPartReset_kept (hs) _
    · exact writeOp_kept (hs) _
    · exact writePwrCfg_kept (hs) _
    · exact clearBits_kept (hs) _ _ _
    · refine Kept.ite ?_ ?_
      · exact writeThermCtl_kept (hs) _
      · exact badReq_kept (hs)
    · exact hs

theorem badDb_kept {s0 : State} {s : State} (hs : Kept s0 s) :
    Kept s0 (badDb s) := by
  unfold badDb
  exact postBit_kept (hs) _ _

theorem askDump_kept {s0 : State} {s : State} (hs : Kept s0 s) :
    Kept s0 (askDump s) := by
  unfold askDump
  extract_lets -merge -useContext -underBinder +onlyGivenNames p1
  refine Kept.ite ?_ ?_
  · exact startDump_kept (hs) _
  · exact badDb_kept (hs)

theorem dropDump_kept {s0 : State} {s : State} (hs : Kept s0 s) :
    Kept s0 (dropDump s) := by
  unfold dropDump
  refine Kept.ite ?_ ?_
  · exact Kept.plain (hs)
  · exact hs

theorem writeDumpCtl_kept {s0 : State} {s : State} (hs : Kept s0 s) (v : Word) :
    Kept s0 (writeDumpCtl s v) := by
  unfold writeDumpCtl
  extract_lets -merge -useContext -underBinder +onlyGivenNames a1
  extract_lets -merge -useContext -underBinder +onlyGivenNames s2
  have h3 : Kept s0 s2 := by
    exact putField_kept (putBits_kept (hs) _ _ _) _ _ _ _ _
  clear_value s2
  extract_lets -merge -useContext -underBinder +onlyGivenNames s4
  have h5 : Kept s0 s4 := by
    refine Kept.ite ?_ ?_
    · exact dropDump_kept (h3)
    · exact h3
  clear_value s4
  refine Kept.ite ?_ ?_
  · exact askDump_kept (h5)
  · exact h5

theorem writeMonCfg_kept {s0 : State} {s : State} (hs : Kept s0 s) (m : ℕ) (v : Word) :
    Kept s0 (writeMonCfg s m v) := by
  unfold writeMonCfg
  extract_lets -merge -useContext -underBinder +onlyGivenNames a1
  extract_lets -merge -useContext -underBinder +onlyGivenNames s2
  have h3 : Kept s0 s2 := by
    exact putBits_kept (hs) _ _ _
  clear_value s2
  refine Kept.ite ?_ ?_
  · extract_lets -merge -useContext -underBinder +onlyGivenNames s4
    have h5 : Kept s0 s4 := by
      exact putBits_kept (h3) _ _ _
    clear_value s4
    exact setRaw_kept (h5) _ _
  · exact h3

theorem writeDb_kept {s0 : State} {s : State} (hs : Kept s0 s) (ofs : ℕ) (v : Word) :
    Kept s0 (writeDb s ofs v) := by
  unfold writeDb
  extract_lets -merge -useContext -underBinder +onlyGivenNames a1
  refine Kept.ite ?_ ?_
  · exact clearBits_kept (hs) _ _ _
  · refine Kept.ite ?_ ?_
    · exact lockedWrite_kept (hs) (fun x2 h3 => by
        exact putChecked_kept (putBits_kept (h3) _ _ _) _ _ _ _ _ _ _) _
    · refine Kept.ite ?_ ?_
      · exact lockedWrite_kept (hs) (fun x4 h5 => by
          exact putChecked_kept (h5) _ _ _ _ _ _ _) _
      · refine Kept.ite ?_ ?_
        · exact writeDumpCtl_kept (hs) _
        · refine Kept.ite ?_ ?_
          · refine Kept.ite ?_ ?_
            · exact writeMonCfg_kept (hs) _ _
            · refine Kept.ite ?_ ?_
              · exact setRaw_kept (hs) _ _
              · exact hs
          · exact hs

theorem doWrite_kept {s0 : State} {s : State} (hs : Kept s0 s) (who : Requester) (a : ℕ) (v : Word) :
    Kept s0 (doWrite s who a v).1 := by
  unfold doWrite
  extract_lets -merge -useContext -underBinder +onlyGivenNames ofs1
  extract_lets -merge -useContext -underBinder +onlyGivenNames core2
  split
  · refine Kept.pairFst ?_
    refine Kept.ite ?_ ?_
    · exact writeQs_kept (hs) _ _ _
    · exact hs
  · refine Kept.pairFst ?_
    exact writeSq_kept (hs) _ _
  · refine Kept.pairFst ?_
    exact writeMm_kept (hs) _ _
  · refine Kept.pairFst ?_
    exact writeTr_kept (hs) _ _
  · refine Kept.pairFst ?_
    exact writeFb_kept (hs) _ _
  · refine Kept.pairFst ?_
    exact writeHp_kept (hs) _ _
  · exact writeSc_kept (hs) _ _ _
  · refine Kept.pairFst ?_
    exact writePm_kept (hs) _ _ _
  · refine Kept.pairFst ?_
    exact writeDb_kept (hs) _ _
  · refine Kept.pairFst ?_
    exact hs
  · refine Kept.pairFst ?_
    refine Kept.ite ?_ ?_
    · exact writeCnt_kept (hs) _ _ _ _
    · exact writeCore_kept (hs) _ _ _ _

theorem holdAcc_kept {s0 : State} {s : State} (hs : Kept s0 s) (h : HeldAcc) (dom : Option ℕ) :
    Kept s0 (holdAcc s h dom) := by
  unfold holdAcc
  extract_lets -merge -useContext -underBinder +onlyGivenNames s1
  have h2 : Kept s0 s1 := by
    exact Kept.plain (hs)
  clear_value s1
  split
  · exact demandWake_kept (h2) _
  · exact h2

theorem ctlWrite_kept {s0 : State} {s : State} (hs : Kept s0 s) (who : Requester) (addr : Word) (value : Word) :
    Kept s0 (ctlWrite s who addr value) := by
  unfold ctlWrite
  split
  · exact hs
  · extract_lets -merge -useContext -underBinder +onlyGivenNames h1
    refine Kept.ite ?_ ?_
    · exact holdAcc_kept (hs) _ _
    · split
      · exact doWrite_kept (hs) _ _ _
      · exact hs
      · exact holdAcc_kept (hs) _ _

theorem doAccess_kept {s0 : State} {s : State} (hs : Kept s0 s) (who : Requester) (op : ℕ) (a : ℕ) (v : Word) :
    Kept s0 (doAccess s who op a v).2 := by
  unfold doAccess
  refine Kept.iteSnd ?_ ?_
  · extract_lets -merge -useContext -underBinder +onlyGivenNames r1
    have h2 : Kept s0 r1.1 := by
      exact doWrite_kept (hs) _ _ _
    clear_value r1
    refine Kept.pairSnd ?_
    exact h2
  · extract_lets -merge -useContext -underBinder +onlyGivenNames r3
    have h4 : Kept s0 r3.2 := by
      exact doRead_kept (hs) _ _
    clear_value r3
    refine Kept.pairSnd ?_
    exact h4

theorem runAccesses_kept {s0 : State} {s : State} (h : Kept s0 s) (who : Requester) (op : ℕ) (es : List (Word × Word))
    (done : List (List Byte)) : Kept s0 (runAccesses who op es done s).2.1 := by
  induction es generalizing done s with
  | nil => exact h
  | cons e es ih =>
    rw [runAccesses]
    split
    · exact h
    · split
      · exact ih h _
      · exact ih (doAccess_kept h _ _ _ _) _
      · exact h

theorem sendGranules_kept {s0 : State} {s : State} (hs : Kept s0 s) (e : Endpoint) (op : ℕ) (ext : ℕ → List Byte) (bytes : List Byte) :
    Kept s0 (sendGranules s e op ext bytes) := by
  unfold sendGranules
  extract_lets -merge -useContext -underBinder +onlyGivenNames size1
  extract_lets -merge -useContext -underBinder +onlyGivenNames n2
  refine Kept.foldl ?_ (fun a5 b6 h3 => ?_)
  · exact hs
  · extract_lets -merge -useContext -underBinder +onlyGivenNames fl4
    exact sendFrame_kept (h3) _ _ _ _ _

theorem answerAccesses_kept {s0 : State} {s : State} (hs : Kept s0 s) (n : Fin 64) (m : RxMsg) (done : List (List Byte)) :
    Kept s0 (answerAccesses s n m done) := by
  unfold answerAccesses
  extract_lets -merge -useContext -underBinder +onlyGivenNames e1
  refine Kept.ite ?_ ?_
  · exact sendStatus_kept (sendGranules_kept (hs) _ _ _ _) _ _ _
  · exact sendGranules_kept (hs) _ _ _ _

theorem stepAccesses_kept {s0 : State} {s : State} (hs : Kept s0 s) (n : Fin 64) (m : RxMsg) (done : List (List Byte)) :
    Kept s0 (stepAccesses s n m done) := by
  unfold stepAccesses
  extract_lets -merge -useContext -underBinder +onlyGivenNames who1
  extract_lets -merge -useContext -underBinder +onlyGivenNames r2
  have h3 : Kept s0 r2.2.1 := by
    exact runAccesses_kept (hs) _ _ _ _
  clear_value r2
  split
  · exact answerAccesses_kept (h3) _ _ _
  · exact holdAcc_kept (h3) _ _

theorem frameAccesses_kept {s0 : State} {s : State} (hs : Kept s0 s) (n : Fin 64) (m : RxMsg) :
    Kept s0 (frameAccesses s n m) := by
  unfold frameAccesses
  exact stepAccesses_kept (hs) _ _ _

theorem retryAcc_kept {s0 : State} {s : State} (hs : Kept s0 s) (h : HeldAcc) :
    Kept s0 (retryAcc s h) := by
  unfold retryAcc
  refine Kept.ite ?_ ?_
  · exact Kept.plain (hs)
  · split
    · exact stepAccesses_kept (hs) _ _ _
    · exact ctlWrite_kept (hs) _ _ _

theorem retryAccs_kept {s0 : State} {s : State} (hs : Kept s0 s) :
    Kept s0 (retryAccs s) := by
  unfold retryAccs
  refine Kept.foldl ?_ (fun a2 b3 h1 => ?_)
  · exact Kept.plain (hs)
  · exact retryAcc_kept (h1) _

theorem execPmWdogKick_kept {s0 : State} {s : State} (hs : Kept s0 s) (who : Requester) (value : Word) :
    OutKept s0 (execPmWdogKick who value s) := by
  unfold execPmWdogKick
  refine OutKept.next ?_
  exact ctlWrite_kept (hs) _ _ _

theorem execPmRemoteReset_kept {s0 : State} {s : State} (hs : Kept s0 s) (who : Requester) (value : Word) :
    OutKept s0 (execPmRemoteReset who value s) := by
  unfold execPmRemoteReset
  refine OutKept.next ?_
  exact ctlWrite_kept (hs) _ _ _

theorem execPartitionReset_kept {s0 : State} {s : State} (hs : Kept s0 s) (who : Requester) (p : Fin 16) (value : Word) :
    OutKept s0 (execPartitionReset who p value s) := by
  unfold execPartitionReset
  refine OutKept.next ?_
  exact ctlWrite_kept (hs) _ _ _

theorem execBlockResetSet_kept {s0 : State} {s : State} (hs : Kept s0 s) (who : Requester) (b : ℕ) (value : Word) :
    OutKept s0 (execBlockResetSet who b value s) := by
  unfold execBlockResetSet
  refine OutKept.next ?_
  exact ctlWrite_kept (hs) _ _ _

theorem execBlockResetClear_kept {s0 : State} {s : State} (hs : Kept s0 s) (who : Requester) (b : ℕ) (value : Word) :
    OutKept s0 (execBlockResetClear who b value s) := by
  unfold execBlockResetClear
  refine OutKept.next ?_
  exact ctlWrite_kept (hs) _ _ _

theorem execPmOp_kept {s0 : State} {s : State} (hs : Kept s0 s) (who : Requester) (value : Word) :
    OutKept s0 (execPmOp who value s) := by
  unfold execPmOp
  refine OutKept.next ?_
  exact ctlWrite_kept (hs) _ _ _

theorem execPmThermCtl_kept {s0 : State} {s : State} (hs : Kept s0 s) (who : Requester) (value : Word) :
    OutKept s0 (execPmThermCtl who value s) := by
  unfold execPmThermCtl
  refine OutKept.next ?_
  exact ctlWrite_kept (hs) _ _ _

theorem execDumpStart_kept {s0 : State} {s : State} (hs : Kept s0 s) (who : Requester) (value : Word) :
    OutKept s0 (execDumpStart who value s) := by
  unfold execDumpStart
  refine OutKept.next ?_
  exact ctlWrite_kept (hs) _ _ _

theorem execDumpRelease_kept {s0 : State} {s : State} (hs : Kept s0 s) (who : Requester) (value : Word) :
    OutKept s0 (execDumpRelease who value s) := by
  unfold execDumpRelease
  refine OutKept.next ?_
  exact ctlWrite_kept (hs) _ _ _

theorem execDbCntWrite_kept {s0 : State} {s : State} (hs : Kept s0 s) (who : Requester) (addr : Word) (value : Word) :
    OutKept s0 (execDbCntWrite who addr value s) := by
  unfold execDbCntWrite
  extract_lets -merge -useContext -underBinder +onlyGivenNames ofs1
  refine OutKept.next ?_
  refine Kept.ite ?_ ?_
  · exact ctlWrite_kept (hs) _ _ _
  · exact hs

theorem execDbMonCfg_kept {s0 : State} {s : State} (hs : Kept s0 s) (who : Requester) (addr : Word) (value : Word) :
    OutKept s0 (execDbMonCfg who addr value s) := by
  unfold execDbMonCfg
  refine OutKept.next ?_
  refine Kept.ite ?_ ?_
  · exact ctlWrite_kept (hs) _ _ _
  · exact hs

theorem execAttestStart_kept {s0 : State} {s : State} (hs : Kept s0 s) (who : Requester) (value : Word) :
    OutKept s0 (execAttestStart who value s) := by
  unfold execAttestStart
  refine OutKept.next ?_
  exact ctlWrite_kept (hs) _ _ _

theorem execFlashRead_kept {s0 : State} {s : State} (hs : Kept s0 s) (who : Requester) (value : Word) :
    OutKept s0 (execFlashRead who value s) := by
  unfold execFlashRead
  refine OutKept.next ?_
  exact ctlWrite_kept (hs) _ _ _

theorem execFlashProgram_kept {s0 : State} {s : State} (hs : Kept s0 s) (who : Requester) (value : Word) :
    OutKept s0 (execFlashProgram who value s) := by
  unfold execFlashProgram
  refine OutKept.next ?_
  exact ctlWrite_kept (hs) _ _ _

theorem execFlashErase_kept {s0 : State} {s : State} (hs : Kept s0 s) (who : Requester) (value : Word) :
    OutKept s0 (execFlashErase who value s) := by
  unfold execFlashErase
  refine OutKept.next ?_
  exact ctlWrite_kept (hs) _ _ _

theorem execCommitSvn_kept {s0 : State} {s : State} (hs : Kept s0 s) (who : Requester) (value : Word) :
    OutKept s0 (execCommitSvn who value s) := by
  unfold execCommitSvn
  refine OutKept.next ?_
  exact ctlWrite_kept (hs) _ _ _

theorem execRevokeRsa_kept {s0 : State} {s : State} (hs : Kept s0 s) (who : Requester) (k : Fin 4) (value : Word) :
    OutKept s0 (execRevokeRsa who k value s) := by
  unfold execRevokeRsa
  refine OutKept.next ?_
  exact ctlWrite_kept (hs) _ _ _

theorem execRevokeSlh_kept {s0 : State} {s : State} (hs : Kept s0 s) (who : Requester) (k : Fin 4) (value : Word) :
    OutKept s0 (execRevokeSlh who k value s) := by
  unfold execRevokeSlh
  refine OutKept.next ?_
  exact ctlWrite_kept (hs) _ _ _

theorem execControlWrite_kept {s0 : State} {s : State} (hs : Kept s0 s) (who : Requester) (addr : Word) (value : Word) :
    OutKept s0 (execControlWrite who addr value s) := by
  unfold execControlWrite
  refine OutKept.next ?_
  exact ctlWrite_kept (hs) _ _ _

end Sys2Proof.Machine
end

