-- ==== Sys2Proof/Laws/KeptReceive.lean ====
section
/-! SUPPORT. What the operations of Machine/Receive.lean keep (Laws/Kept.lean): one lemma each, cited by the lemmas of what calls
them. -/

namespace Sys2Proof.Machine

set_option maxRecDepth 4000

theorem countPort_kept {s0 : State} {s : State} (hs : Kept s0 s) (code : ℕ) (j : ℕ) (n : ℕ) :
    Kept s0 (countPort s code j n) := by
  unfold countPort
  split
  · exact bumpPort_kept (hs) _ _ _
  · exact hs

theorem provePort_kept {s0 : State} {s : State} (hs : Kept s0 s) (code : ℕ) :
    Kept s0 (provePort s code) := by
  unfold provePort
  split
  · exact requestProof_kept (hs) _ _
  · exact hs

theorem hearOpen_kept {s0 : State} {s : State} (hs : Kept s0 s) (code : ℕ) (gs : List (List Byte)) (m : RxMsg) :
    Kept s0 (hearOpen s code gs m) := by
  unfold hearOpen
  extract_lets -merge -useContext -underBinder +onlyGivenNames h1
  refine Kept.ite ?_ ?_
  · exact countPort_kept (hs) _ _ _
  · refine Kept.ite ?_ ?_
    · exact openSession_kept (hs) _ _ _
    · refine Kept.ite ?_ ?_
      · exact rejectOpen_kept (hs) _ _ _ _
      · split
        · exact hs
        · extract_lets -merge -useContext -underBinder +onlyGivenNames l2
          refine Kept.ite ?_ ?_
          · exact countPort_kept (hs) _ _ _
          · exact openLink_kept (hs) _ _ _

theorem failAuth_kept {s0 : State} {s : State} (hs : Kept s0 s) (e : Endpoint) :
    Kept s0 (failAuth s e) := by
  unfold failAuth
  extract_lets -merge -useContext -underBinder +onlyGivenNames s1
  have h2 : Kept s0 s1 := by
    exact linkMod_kept (hs) _ _
  clear_value s1
  refine Kept.ite ?_ ?_
  · exact h2
  · exact breakLink_kept (h2) _ _

/-- Frames that are placed keep what they must when their place does not wait. -/
theorem hostWrite_kept {s0 : State} {s : State} (h : Kept s0 s) (side : Side) (p : Fin 16) (a : ℕ) (bytes : List Byte) (l : List (ℕ × ℕ)) :
    ∀ r ∈ hostWrite side p a bytes l s, Kept s0 r.1 := by
  induction l generalizing s with
  | nil => rintro _ ⟨⟩; exact h
  | cons st rest ih =>
    rw [hostWrite]
    have hop : ∀ (m : Op Unit), OpKept m → OpKept (awaitPages p st.1 st.2 >>= fun _ => awaitFrame p st.1 >>= fun _ => m) :=
      fun _ hm => OpKept.bind (awaitPages_kept _ _ _) (fun _ => OpKept.bind (awaitFrame_kept _ _) (fun _ => hm))
    split
    · rename_i he
      exact ih (Kept.of_exec he (hop _ (writeStripe_kept _ _ _ _)) h)
    · rename_i he
      have h' := Kept.of_exec he (hop _ (writeStripe_kept _ _ _ _)) h
      split
      · rintro _ ⟨⟩
      · intro r hr
        obtain ⟨r', hr', rfl⟩ := Option.mem_map.mp hr
        exact ih h' r' hr'

theorem placeWrite_kept {s0 : State} {s : State} (h : Kept s0 s) (n : Fin 64) (m : RxMsg) :
    ∀ r ∈ placeWrite s n m, Kept s0 r.1 := by
  unfold placeWrite
  dsimp only
  split
  · rintro _ ⟨⟩; exact h
  · split
    · exact hostWrite_kept h _ _ _ _ _
    · rintro _ ⟨⟩; exact h

theorem hostGranules_kept {s0 : State} {s : State} (h : Kept s0 s) (side : Side) (id : ℕ) (ofs : ℕ) (a : ℕ) (gs : List (ℕ × ℕ)) :
    Kept s0 (hostGranules side id ofs a gs s).2.2 := by
  induction gs generalizing s with
  | nil => exact h
  | cons g gs ih =>
    rw [hostGranules]
    dsimp only
    have hop : OpKept (readGranule id (g.1 / 32 * 32) (a + (g.1 - ofs)) >>= fun d =>
        crossed s (crossIn side (dieOf id ofs) (a + (g.1 - ofs))) d) :=
      OpKept.bind (readGranule_kept _ _ _) (fun _ => crossed_kept _ _ (fun _ => crossIn_kept _ _ _ _) _)
    split
    · rename_i he
      exact ih (Kept.of_exec he hop h)
    · rename_i he
      exact Kept.of_exec he hop h

theorem hostRead_kept {s0 : State} {s : State} (h : Kept s0 s) (side : Side) (p : Fin 16) (ls : List (ℕ × ℕ)) :
    Kept s0 (hostRead side p ls s).2.2 := by
  induction ls generalizing s with
  | nil => exact h
  | cons l ls ih =>
    rw [hostRead]
    cases locate (s.part p).mem l.1 with
    | frame id ofs =>
      have hh := hostGranules_kept (countPage_kept (countAccess_kept h id ofs false true l.2) p l.1) side id ofs l.1
        (granules ofs l.2)
      dsimp only
      split
      · exact ih hh
      · exact hh
    | outside => exact ih h
    | hole => exact ih h

theorem hostReadVerb_kept {s0 : State} {s : State} (hs : Kept s0 s) (n : Fin 64) (v : PartialMsg) :
    Kept s0 (hostReadVerb s n v) := by
  unfold hostReadVerb
  extract_lets -merge -useContext -underBinder +onlyGivenNames e1
  extract_lets -merge -useContext -underBinder +onlyGivenNames a2
  extract_lets -merge -useContext -underBinder +onlyGivenNames part3
  extract_lets -merge -useContext -underBinder +onlyGivenNames len4
  refine Kept.ite ?_ ?_
  · exact sendStatus_kept hs _ _ _
  · split
    · extract_lets -merge -useContext -underBinder +onlyGivenNames r5
      have h6 : Kept s0 (r5).2.2 := by
        unfold r5
        exact hostRead_kept hs _ _ _
      clear_value r5
      extract_lets -merge -useContext -underBinder +onlyGivenNames s7
      have h8 : Kept s0 (s7) := by
        unfold s7
        exact h6
      clear_value s7
      extract_lets -merge -useContext -underBinder +onlyGivenNames s9
      have h10 : Kept s0 (s9) := by
        unfold s9
        exact Kept.ite h8 (sendGranules_kept h8 _ _ _ _)
      clear_value s9
      exact sendStatus_kept h10 _ _ _
    · exact sendStatus_kept hs _ _ _

theorem hostSignal_kept {s0 : State} {s : State} (hs : Kept s0 s) (n : Fin 64) (v : PartialMsg) :
    Kept s0 (hostSignal s n v) := by
  unfold hostSignal
  extract_lets -merge -useContext -underBinder +onlyGivenNames e1
  extract_lets -merge -useContext -underBinder +onlyGivenNames l2
  extract_lets -merge -useContext -underBinder +onlyGivenNames part3
  extract_lets -merge -useContext -underBinder +onlyGivenNames rso4
  extract_lets -merge -useContext -underBinder +onlyGivenNames other5
  extract_lets -merge -useContext -underBinder +onlyGivenNames st6
  extract_lets -merge -useContext -underBinder +onlyGivenNames s7
  have h8 : Kept s0 s7 := by
    refine Kept.ite ?_ ?_
    · exact applyRemote_kept (hs) _ _ _
    · exact hs
  clear_value s7
  exact sendStatus_kept (h8) _ _ _

theorem dumpReadVerb_kept {s0 : State} {s : State} (hs : Kept s0 s) (n : Fin 64) (v : PartialMsg) :
    Kept s0 (dumpReadVerb s n v) := by
  unfold dumpReadVerb
  extract_lets -merge -useContext -underBinder +onlyGivenNames e1
  extract_lets -merge -useContext -underBinder +onlyGivenNames ofs2
  extract_lets -merge -useContext -underBinder +onlyGivenNames len3
  refine Kept.ite ?_ ?_
  · exact sendStatus_kept (hs) _ _ _
  · refine Kept.ite ?_ ?_
    · exact sendStatus_kept (hs) _ _ _
    · refine Kept.ite ?_ ?_
      · exact sendStatus_kept (hs) _ _ _
      · exact sendStatus_kept (sendGranules_kept (hs) _ _ _ _) _ _ _

theorem jobVerb_kept {s0 : State} {s : State} (hs : Kept s0 s) (n : Fin 64) (psn : ℕ) (part : ℕ) (j : JobVerb) :
    Kept s0 (jobVerb s n psn part j) := by
  unfold jobVerb
  extract_lets -merge -useContext -underBinder +onlyGivenNames e1
  extract_lets -merge -useContext -underBinder +onlyGivenNames l2
  exact Kept.ite (verbIntake_kept hs _ _) (sendStatus_kept hs _ _ _)

theorem sessionVerb_kept {s0 : State} {s : State} (hs : Kept s0 s) (n : Fin 64) (v : PartialMsg) :
    Kept s0 (sessionVerb s n v) := by
  unfold sessionVerb
  extract_lets -merge -useContext -underBinder +onlyGivenNames e1
  extract_lets -merge -useContext -underBinder +onlyGivenNames key2
  extract_lets -merge -useContext -underBinder +onlyGivenNames bytes3
  refine Kept.ite ?_ ?_
  · exact sendReject_kept hs _ _ _ _
  · split
    · exact jobVerb_kept hs _ _ _ _
    · split
      · exact sendStatus_kept hs _ _ _
      · exact hostReadVerb_kept hs _ _
      · exact hostSignal_kept hs _ _
      · exact dumpReadVerb_kept hs _ _
      · extract_lets -merge -useContext -underBinder +onlyGivenNames r4
        have h5 : Kept s0 (r4).1 := by
          unfold r4
          exact connSet_kept hs _ _
        clear_value r4
        exact sendStatus_kept h5 _ _ _
      · extract_lets -merge -useContext -underBinder +onlyGivenNames r6
        have h7 : Kept s0 (r6).1 := by
          unfold r6
          exact commSet_kept hs _
        clear_value r6
        exact sendStatus_kept h7 _ _ _
      · exact frameAccesses_kept hs _ _

theorem closeEffect_kept {s0 : State} {s : State} (hs : Kept s0 s) (e : Endpoint) :
    Kept s0 (closeEffect s e) := by
  unfold closeEffect
  exact closeLink_kept (sendFrame_kept (hs) _ _ _ _ _) _

theorem sessionEffect_kept {s0 : State} {s : State} (hs : Kept s0 s) (n : Fin 64) (m : RxMsg) :
    Kept s0 (sessionEffect s n m) := by
  unfold sessionEffect
  extract_lets -merge -useContext -underBinder +onlyGivenNames e1
  split
  · exact hs
  · exact closeEffect_kept (hs) _
  · exact closeLink_kept (hs) _
  · exact hs
  · extract_lets -merge -useContext -underBinder +onlyGivenNames s2
    have h3 : Kept s0 s2 := by
      refine Kept.ite ?_ ?_
      · exact linkMod_kept (hs) _ _
      · exact hs
    clear_value s2
    extract_lets -merge -useContext -underBinder +onlyGivenNames v4
    refine Kept.ite ?_ ?_
    · exact sessionVerb_kept (linkMod_kept (h3) _ _) _ _
    · exact linkMod_kept (h3) _ _

theorem connEffect_kept {s0 : State} {s : State} (hs : Kept s0 s) (e : Endpoint) (m : RxMsg) :
    Kept s0 (connEffect s e m) := by
  unfold connEffect
  refine Kept.ite ?_ ?_
  · exact sendReject_kept hs _ _ _ _
  · split
    · exact openAckEffect_kept hs _ _
    · exact closeEffect_kept hs _
    · exact closeLink_kept hs _
    · exact signalEffect_kept hs _ _
    · exact sendDataEffect_kept hs _ _
    · exact collDataEffect_kept hs _ _
    · exact sendRtsEffect_kept hs _ _
    · exact sendCtsEffect_kept hs _ _
    · exact rejectEffect_kept hs _ _
    · exact sendReject_kept hs _ _ _ _

theorem frameEffect_kept {s0 : State} {s : State} (hs : Kept s0 s) (e : Endpoint) (m : RxMsg) :
    Kept s0 (frameEffect s e m) := by
  unfold frameEffect
  split
  · exact sessionEffect_kept (hs) _ _
  · exact connEffect_kept (hs) _ _

theorem settleLink_kept {s0 : State} {s : State} (hs : Kept s0 s) (e : Endpoint) (p : Fin 16) :
    Kept s0 (settleLink s e p) := by
  unfold settleLink
  split
  · exact settle_kept hs _
  · exact hs

theorem takeFrameEffect_kept {s0 : State} {s : State} (hs : Kept s0 s) (e : Endpoint) (m : RxMsg) :
    Kept s0 (takeFrameEffect s e m) := by
  unfold takeFrameEffect
  extract_lets -merge -useContext -underBinder +onlyGivenNames l1
  extract_lets -merge -useContext -underBinder +onlyGivenNames s2
  have h3 : Kept s0 (s2) := by
    unfold s2
    exact linkSet_kept hs _ _
  clear_value s2
  extract_lets -merge -useContext -underBinder +onlyGivenNames s4
  have h5 : Kept s0 (s4) := by
    unfold s4
    exact frameEffect_kept h3 _ _
  clear_value s4
  exact settleLink_kept (Kept.ite (noteAck_kept h5 _ _) h5) _ _

theorem deliver_kept {s0 : State} {s : State} (h : Kept s0 s) (e : Endpoint) (fuel : ℕ) : Kept s0 (deliver e fuel s) := by
  induction fuel generalizing s with
  | zero => exact h
  | succ fuel ih =>
    rw [deliver]
    split
    · exact h
    · exact Kept.ite h (ih (takeFrameEffect_kept h _ _))

/-- A data frame that is placed, or whose place waits. -/
theorem placeFrame_kept {s0 : State} {s : State} (h : Kept s0 s) (e : Endpoint) (m : RxMsg) :
    ∀ r ∈ placeFrame s e m, Kept s0 r.1 := by
  unfold placeFrame
  split
  · split
    · exact placeWrite_kept h _ _
    · rintro _ ⟨⟩; exact h
  · split
    · rintro _ ⟨⟩; exact h
    · split
      · exact placeSendData_kept h _ _
      · split
        · rintro _ ⟨⟩; exact placeCollData_kept h _ _
        · rintro _ ⟨⟩; exact h

theorem deliverAll_kept {s0 : State} {s : State} (hs : Kept s0 s) (e : Endpoint) :
    Kept s0 (deliverAll s e) := by
  unfold deliverAll
  exact deliver_kept (hs) _ _

theorem joinWindow_kept {s0 : State} {s : State} (hs : Kept s0 s) (e : Endpoint) (m : RxMsg) (late : Bool) (st : ℕ) :
    Kept s0 (joinWindow s e m late st) := by
  unfold joinWindow
  extract_lets -merge -useContext -underBinder +onlyGivenNames gen1
  extract_lets -merge -useContext -underBinder +onlyGivenNames s2
  have h3 : Kept s0 (s2) := by
    unfold s2
    exact linkMod_kept hs _ _
  clear_value s2
  extract_lets -merge -useContext -underBinder +onlyGivenNames s4
  have h5 : Kept s0 (s4) := by
    unfold s4
    exact deliverAll_kept h3 _
  clear_value s4
  extract_lets -merge -useContext -underBinder +onlyGivenNames l6
  extract_lets -merge -useContext -underBinder +onlyGivenNames due7
  exact Kept.ite (sendAck_kept h5 _) h5

theorem windowFrame_kept {s0 : State} {s : State} (hs : Kept s0 s) (e : Endpoint) (m : RxMsg) :
    Kept s0 (windowFrame s e m) := by
  unfold windowFrame
  extract_lets -merge -useContext -underBinder +onlyGivenNames l d
  refine Kept.ite (sendAck_kept hs _) (Kept.ite (Kept.ite (countPort_kept hs _ _ _) hs) ?_)
  have h := takeCredit_kept hs e m
  dsimp only
  split
  · rename_i r hr
    exact joinWindow_kept (placeFrame_kept h e m r hr) _ _ _ _
  · exact h

theorem ackArrives_kept {s0 : State} {s : State} (hs : Kept s0 s) (e : Endpoint) (m : RxMsg) :
    Kept s0 (ackArrives s e m) := by
  unfold ackArrives
  extract_lets -merge -useContext -underBinder +onlyGivenNames s1
  have h2 : Kept s0 (s1) := by
    unfold s1
    exact takeCredit_kept hs _ _
  clear_value s1
  exact settleLink_kept (Kept.ite (noteAck_kept h2 _ _) h2) _ _

theorem hearLink_kept {s0 : State} {s : State} (hs : Kept s0 s) (code : ℕ) (e : Endpoint) (gs : List (List Byte)) (m : RxMsg) :
    Kept s0 (hearLink s code e gs m) := by
  unfold hearLink
  extract_lets -merge -useContext -underBinder +onlyGivenNames l1
  refine Kept.ite ?_ ?_
  · exact hs
  · refine Kept.ite ?_ ?_
    · exact Kept.ite (countPort_kept hs _ _ _) (rejectRevoked_kept hs _ _)
    · refine Kept.ite ?_ ?_
      · exact hs
      · refine Kept.ite ?_ ?_
        · exact countPort_kept hs _ _ _
        · refine Kept.ite ?_ ?_
          · exact failAuth_kept (countPort_kept hs _ _ _) _
          · refine Kept.ite ?_ ?_
            · exact Kept.ite (countPort_kept hs _ _ _) hs
            · extract_lets -merge -useContext -underBinder +onlyGivenNames s2
              have h3 : Kept s0 (s2) := by
                unfold s2
                exact Kept.ite (linkSet_kept hs _ _) hs
              clear_value s2
              exact Kept.ite (ackArrives_kept h3 _ _) (windowFrame_kept h3 _ _)

theorem hearMsg_kept {s0 : State} {s : State} (hs : Kept s0 s) (code : ℕ) (gs : List (List Byte)) (m : RxMsg) :
    Kept s0 (hearMsg s code gs m) := by
  unfold hearMsg
  refine Kept.ite ?_ ?_
  · exact countPort_kept hs _ _ _
  · refine Kept.ite ?_ ?_
    · exact hearOpen_kept hs _ _ _
    · split
      · exact hearLink_kept hs _ _ _ _
      · exact Kept.ite hs (countPort_kept hs _ _ _)

theorem countRx_kept {s0 : State} {s : State} (hs : Kept s0 s) (code : ℕ) (f : RxFrame) :
    Kept s0 (countRx s code f) := by
  unfold countRx
  exact countPort_kept (countPort_kept (countPort_kept (countPort_kept hs _ _ _) _ _ _) _ _ _) _ _ _

theorem hear_kept {s0 : State} {s : State} (hs : Kept s0 s) (f : RxFrame) (mine : RxMsg → Bool) :
    Kept s0 (hear f mine s) := by
  unfold hear
  extract_lets -merge -useContext -underBinder +onlyGivenNames code1
  refine Kept.ite ?_ ?_
  · exact hs
  · refine Kept.ite ?_ ?_
    · exact provePort_kept (countPort_kept (countRx_kept hs _ _) _ _ _) _
    · refine Kept.ite ?_ ?_
      · exact countRx_kept hs _ _
      · split
        · exact provePort_kept (countPort_kept (countRx_kept hs _ _) _ _ _) _
        · extract_lets -merge -useContext -underBinder +onlyGivenNames m2
          refine Kept.ite ?_ ?_
          · exact hs
          · extract_lets -merge -useContext -underBinder +onlyGivenNames s3
            have h4 : Kept s0 (s3) := by
              unfold s3
              exact countRx_kept hs _ _
            clear_value s3
            extract_lets -merge -useContext -underBinder +onlyGivenNames s5
            have h6 : Kept s0 (s5) := by
              unfold s5
              exact Kept.ite (provePort_kept (countPort_kept h4 _ _ _) _) h4
            clear_value s5
            exact hearMsg_kept h6 _ _ _

theorem hearVerb_kept {s0 : State} {s : State} (hs : Kept s0 s) (op : ℕ) (f : RxFrame) :
    Kept s0 (hearVerb op f s) := by
  unfold hearVerb
  exact hear_kept (hs) _ _

theorem execAckFrame_kept {s0 : State} {s : State} (hs : Kept s0 s) (f : RxFrame) :
    OutKept s0 (execAckFrame f s) := by
  unfold execAckFrame
  refine OutKept.next ?_
  exact hearVerb_kept (hs) _ _

theorem execOpenConn_kept {s0 : State} {s : State} (hs : Kept s0 s) (f : RxFrame) :
    OutKept s0 (execOpenConn f s) := by
  unfold execOpenConn
  refine OutKept.next ?_
  exact hearVerb_kept (hs) _ _

theorem execOpenAck_kept {s0 : State} {s : State} (hs : Kept s0 s) (f : RxFrame) :
    OutKept s0 (execOpenAck f s) := by
  unfold execOpenAck
  refine OutKept.next ?_
  exact hearVerb_kept (hs) _ _

theorem execCloseConn_kept {s0 : State} {s : State} (hs : Kept s0 s) (f : RxFrame) :
    OutKept s0 (execCloseConn f s) := by
  unfold execCloseConn
  refine OutKept.next ?_
  exact hearVerb_kept (hs) _ _

theorem execCloseAck_kept {s0 : State} {s : State} (hs : Kept s0 s) (f : RxFrame) :
    OutKept s0 (execCloseAck f s) := by
  unfold execCloseAck
  refine OutKept.next ?_
  exact hearVerb_kept (hs) _ _

theorem execRemoteWrite_kept {s0 : State} {s : State} (hs : Kept s0 s) (f : RxFrame) :
    OutKept s0 (execRemoteWrite f s) := by
  unfold execRemoteWrite
  refine OutKept.next ?_
  exact hearVerb_kept (hs) _ _

theorem execRemoteRead_kept {s0 : State} {s : State} (hs : Kept s0 s) (f : RxFrame) :
    OutKept s0 (execRemoteRead f s) := by
  unfold execRemoteRead
  refine OutKept.next ?_
  exact hearVerb_kept (hs) _ _

theorem execRemoteSignal_kept {s0 : State} {s : State} (hs : Kept s0 s) (f : RxFrame) :
    OutKept s0 (execRemoteSignal f s) := by
  unfold execRemoteSignal
  refine OutKept.next ?_
  exact hearVerb_kept (hs) _ _

theorem execSendData_kept {s0 : State} {s : State} (hs : Kept s0 s) (f : RxFrame) :
    OutKept s0 (execSendData f s) := by
  unfold execSendData
  refine OutKept.next ?_
  exact hearVerb_kept (hs) _ _

theorem execCollData_kept {s0 : State} {s : State} (hs : Kept s0 s) (f : RxFrame) :
    OutKept s0 (execCollData f s) := by
  unfold execCollData
  refine OutKept.next ?_
  exact hearVerb_kept (hs) _ _

theorem execSendRts_kept {s0 : State} {s : State} (hs : Kept s0 s) (f : RxFrame) :
    OutKept s0 (execSendRts f s) := by
  unfold execSendRts
  refine OutKept.next ?_
  exact hearVerb_kept (hs) _ _

theorem execSendCts_kept {s0 : State} {s : State} (hs : Kept s0 s) (f : RxFrame) :
    OutKept s0 (execSendCts f s) := by
  unfold execSendCts
  refine OutKept.next ?_
  exact hearVerb_kept (hs) _ _

theorem execRejectFrame_kept {s0 : State} {s : State} (hs : Kept s0 s) (f : RxFrame) :
    OutKept s0 (execRejectFrame f s) := by
  unfold execRejectFrame
  refine OutKept.next ?_
  exact hearVerb_kept (hs) _ _

theorem execRegRead_kept {s0 : State} {s : State} (hs : Kept s0 s) (f : RxFrame) :
    OutKept s0 (execRegRead f s) := by
  unfold execRegRead
  refine OutKept.next ?_
  exact hearVerb_kept (hs) _ _

theorem execRegWrite_kept {s0 : State} {s : State} (hs : Kept s0 s) (f : RxFrame) :
    OutKept s0 (execRegWrite f s) := by
  unfold execRegWrite
  refine OutKept.next ?_
  exact hearVerb_kept (hs) _ _

theorem execCounterRead_kept {s0 : State} {s : State} (hs : Kept s0 s) (f : RxFrame) :
    OutKept s0 (execCounterRead f s) := by
  unfold execCounterRead
  refine OutKept.next ?_
  exact hearVerb_kept (hs) _ _

theorem execDumpRead_kept {s0 : State} {s : State} (hs : Kept s0 s) (f : RxFrame) :
    OutKept s0 (execDumpRead f s) := by
  unfold execDumpRead
  refine OutKept.next ?_
  exact hearVerb_kept (hs) _ _

theorem execConnSet_kept {s0 : State} {s : State} (hs : Kept s0 s) (f : RxFrame) :
    OutKept s0 (execConnSet f s) := by
  unfold execConnSet
  refine OutKept.next ?_
  exact hearVerb_kept (hs) _ _

theorem execCommSet_kept {s0 : State} {s : State} (hs : Kept s0 s) (f : RxFrame) :
    OutKept s0 (execCommSet f s) := by
  unfold execCommSet
  refine OutKept.next ?_
  exact hearVerb_kept (hs) _ _

theorem execAdmitVerb_kept {s0 : State} {s : State} (hs : Kept s0 s) (f : RxFrame) :
    OutKept s0 (execAdmitVerb f s) := by
  unfold execAdmitVerb
  refine OutKept.next ?_
  exact hearVerb_kept (hs) _ _

theorem execLoadVerb_kept {s0 : State} {s : State} (hs : Kept s0 s) (f : RxFrame) :
    OutKept s0 (execLoadVerb f s) := by
  unfold execLoadVerb
  refine OutKept.next ?_
  exact hearVerb_kept (hs) _ _

theorem execStartVerb_kept {s0 : State} {s : State} (hs : Kept s0 s) (f : RxFrame) :
    OutKept s0 (execStartVerb f s) := by
  unfold execStartVerb
  refine OutKept.next ?_
  exact hearVerb_kept (hs) _ _

theorem execStopBoundary_kept {s0 : State} {s : State} (hs : Kept s0 s) (f : RxFrame) :
    OutKept s0 (execStopBoundary f s) := by
  unfold execStopBoundary
  refine OutKept.next ?_
  exact hear_kept (hs) _ _

theorem execStopHalt_kept {s0 : State} {s : State} (hs : Kept s0 s) (f : RxFrame) :
    OutKept s0 (execStopHalt f s) := by
  unfold execStopHalt
  refine OutKept.next ?_
  exact hear_kept (hs) _ _

theorem execRelease_kept {s0 : State} {s : State} (hs : Kept s0 s) (f : RxFrame) :
    OutKept s0 (execRelease f s) := by
  unfold execRelease
  refine OutKept.next ?_
  exact hearVerb_kept (hs) _ _

theorem resumeAccs_kept {s0 : State} {s : State} (hs : Kept s0 s) :
    Kept s0 (resumeAccs s) := by
  unfold resumeAccs
  extract_lets -merge -useContext -underBinder +onlyGivenNames s1
  have h2 : Kept s0 s1 := by
    exact retryAccs_kept (hs)
  clear_value s1
  refine Kept.foldl ?_ (fun a4 b5 h3 => ?_)
  · exact h2
  · exact deliverAll_kept (h3) _

theorem execExchangeDone_kept {s0 : State} {s : State} (hs : Kept s0 s) (p : Fin 16) (index : ℕ) :
    OutKept s0 (execExchangeDone p index s) := by
  unfold execExchangeDone
  extract_lets -merge -useContext -underBinder +onlyGivenNames s1
  have h2 : Kept s0 (s1) := by
    unfold s1
    exact settle_kept (endExchange_kept hs _ _) _
  clear_value s1
  exact OutKept.next (Kept.foldl h2 (fun a3 b4 h5 => (deliverAll_kept h5 _)))

theorem execPllLockFail_kept {s0 : State} {s : State} (hs : Kept s0 s) (d : Fin 8) :
    OutKept s0 (execPllLockFail d s) := by
  unfold execPllLockFail
  exact OutKept.next (resumeAccs_kept (pllFail_kept hs _))

theorem execRampDone_kept {s0 : State} {s : State} (hs : Kept s0 s) (fall : Bool) (index : ℕ) :
    OutKept s0 (execRampDone fall index s) := by
  unfold execRampDone
  extract_lets -merge -useContext -underBinder +onlyGivenNames s1
  have h2 : Kept s0 (s1) := by
    unfold s1
    exact Kept.foldl (rampDone_kept hs _ _) (fun a3 b4 h5 => (resumeStart_kept h5 _))
  clear_value s1
  exact OutKept.next (resumeAccs_kept (Kept.ite h2 (settleAll_kept h2)))

theorem execShedDomain_kept {s0 : State} {s : State} (hs : Kept s0 s) :
    OutKept s0 (execShedDomain s) := by
  unfold execShedDomain
  refine OutKept.next ?_
  exact resumeAccs_kept (shedNext_kept (hs))

theorem execUnshedDomain_kept {s0 : State} {s : State} (hs : Kept s0 s) :
    OutKept s0 (execUnshedDomain s) := by
  unfold execUnshedDomain
  exact OutKept.next (resumeAccs_kept (settleAll_kept (Kept.foldl (unshedNext_kept hs) (fun a1 b2 h3 => (pumpPort_kept h3 _)))))

theorem execThermalSample_kept {s0 : State} {s : State} (hs : Kept s0 s) (m : ThermalReading) :
    OutKept s0 (execThermalSample m s) := by
  unfold execThermalSample
  refine OutKept.next ?_
  exact resumeAccs_kept (thermalSample_kept (hs) _)

theorem execCoolantTrip_kept {s0 : State} {s : State} (hs : Kept s0 s) (src : Fin 3) :
    OutKept s0 (execCoolantTrip src s) := by
  unfold execCoolantTrip
  refine OutKept.next ?_
  exact resumeAccs_kept (coolantTrip_kept (hs) _)

end Sys2Proof.Machine
end

