-- ==== Sys2Proof/Laws/KeptDump.lean ====
section
/-! SUPPORT. What the operations of Machine/Dump.lean keep (Laws/Kept.lean): one lemma each, cited by the lemmas of what calls
them. -/

namespace Sys2Proof.Machine

set_option maxRecDepth 4000

theorem execDumpCaptureDone_kept {s0 : State} {s : State} (hs : Kept s0 s) :
    OutKept s0 (execDumpCaptureDone s) := by
  unfold execDumpCaptureDone
  split
  · extract_lets -merge -useContext -underBinder +onlyGivenNames len1
    extract_lets -merge -useContext -underBinder +onlyGivenNames s2
    extract_lets -merge -useContext -underBinder +onlyGivenNames s4
    have h5 : Kept s0 (s4) := by
      unfold s4
      exact postBit_kept (Kept.plain hs) _ _
    clear_value s4
    exact OutKept.next (Kept.ite (partitionReset_kept h5 _) h5)
  · exact OutKept.next hs

theorem execMonitorWindowEnd_kept {s0 : State} {s : State} (hs : Kept s0 s) (m : Fin 64) (rx : ℕ) (tx : ℕ) :
    OutKept s0 (execMonitorWindowEnd m rx tx s) := by
  unfold execMonitorWindowEnd
  extract_lets -merge -useContext -underBinder +onlyGivenNames a1
  refine OutKept.ite ?_ ?_
  · extract_lets -merge -useContext -underBinder +onlyGivenNames counts2
    extract_lets -merge -useContext -underBinder +onlyGivenNames epoch3
    refine OutKept.next ?_
    exact setRaw_kept (Kept.counts hs (fun c => Sparse.set_wf _ _ (Sparse.set_wf _ _ c.counts))) _ _
  · refine OutKept.next ?_
    exact hs

end Sys2Proof.Machine
end

