-- ==== Sys2Proof/Laws/KeptProofs.lean ====
section
/-! SUPPORT. What the operations of Machine/Proofs.lean keep (Laws/Kept.lean): one lemma each, cited by the lemmas of what calls
them. -/

namespace Sys2Proof.Machine

set_option maxRecDepth 4000

theorem execProofRunStart_kept {s0 : State} {s : State} (hs : Kept s0 s) (kind : ℕ) (index : ℕ) :
    OutKept s0 (execProofRunStart kind index s) := by
  unfold execProofRunStart
  exact OutKept.next (Kept.ite (Kept.plain hs) hs)

theorem dbEvent_kept {s0 : State} {s : State} (hs : Kept s0 s) (i : ℕ) :
    Kept s0 (dbEvent s i) := by
  unfold dbEvent
  exact postBit_kept (hs) _ _

theorem degrade_kept {s0 : State} {s : State} (hs : Kept s0 s) :
    Kept s0 (degrade s) := by
  unfold degrade
  exact setRaw_kept (hs) _ _

theorem burn_kept {s0 : State} {s : State} (hs : Kept s0 s) (f : Fuses → Fuses) (hf : ∀ x, FusesKept x (f x)) :
    Kept s0 (burn s f) := Kept.fuse hs f (hf _)

theorem burnIn_kept {s0 : State} {s : State} (hs : Kept s0 s) (cap : ℕ) (get : Fuses → List ℕ) (set : Fuses → List ℕ → Fuses)
    (v : ℕ) (hset : ∀ x, FusesKept x (set x (get x ++ [v]))) : Kept s0 (burnIn s cap get set v) :=
  Kept.ite (burn_kept hs _ hset) (dbEvent_kept hs _)

theorem burnFrame_kept {s0 : State} {s : State} (hs : Kept s0 s) (id : ℕ) : Kept s0 (burnFrame s id) :=
  burnIn_kept hs _ _ _ _ (fun _ => ⟨Nat.le_refl _, bitsKept.refl _, bitsKept.refl _, fun _ i => i, fun _ i => List.mem_append_left _ i, fun _ i => i, fun _ i => i⟩)

theorem burnRow_kept {s0 : State} {s : State} (hs : Kept s0 s) (r : ℕ) : Kept s0 (burnRow s r) :=
  burnIn_kept hs _ _ _ _ (fun _ => ⟨Nat.le_refl _, bitsKept.refl _, bitsKept.refl _, fun _ i => i, fun _ i => i, fun _ i => i, fun _ i => List.mem_append_left _ i⟩)

theorem burnLane_kept {s0 : State} {s : State} (hs : Kept s0 s) (l : ℕ) : Kept s0 (burnLane s l) :=
  burnIn_kept hs _ _ _ _ (fun _ => ⟨Nat.le_refl _, bitsKept.refl _, bitsKept.refl _, fun _ i => i, fun _ i => i, fun _ i => List.mem_append_left _ i, fun _ i => i⟩)

theorem coreOut_kept {s0 : State} {s : State} (hs : Kept s0 s) (nn : ℕ) : Kept s0 (coreOut s nn) := by
  unfold coreOut
  refine burnIn_kept (State.modCore_kept (loseCore_kept (domSet_kept hs _ _) _) _ _) _ _ _ _ ?_
  exact fun _ => ⟨Nat.le_refl _, bitsKept.refl _, bitsKept.refl _, fun _ i => List.mem_append_left _ i, fun _ i => i,
    fun _ i => i, fun _ i => i⟩

theorem coresOut_kept {s0 : State} {s : State} (hs : Kept s0 s) :
    Kept s0 (coresOut s) := by
  unfold coresOut
  extract_lets -merge -useContext -underBinder +onlyGivenNames ready1
  extract_lets -merge -useContext -underBinder +onlyGivenNames done2
  refine Kept.foldl ?_ (fun a4 b5 h3 => ?_)
  · exact Kept.plain (hs)
  · exact coreOut_kept (h3) _

theorem retireCore_kept {s0 : State} {s : State} (hs : Kept s0 s) (nn : ℕ) :
    Kept s0 (retireCore s nn) := by
  unfold retireCore
  refine Kept.ite ?_ ?_
  · exact hs
  · extract_lets -merge -useContext -underBinder +onlyGivenNames p1
    extract_lets -merge -useContext -underBinder +onlyGivenNames st2
    extract_lets -merge -useContext -underBinder +onlyGivenNames y3
    extract_lets -merge -useContext -underBinder +onlyGivenNames r4
    extract_lets -merge -useContext -underBinder +onlyGivenNames s5
    have h6 : Kept s0 s5 := by
      exact Kept.plain (hs)
    clear_value s5
    refine Kept.ite ?_ ?_
    · exact coresOut_kept (h6)
    · refine Kept.ite ?_ ?_
      · exact startDrain_kept (recordFault_kept (h6) _ _) _
      · exact coresOut_kept (State.modPart_kept (recordFault_kept (h6) _ _) _ _)

theorem frameOut_kept {s0 : State} {s : State} (hs : Kept s0 s) (id : ℕ) :
    Kept s0 (frameOut s id) := by
  unfold frameOut
  exact burnFrame_kept (Kept.frames hs (fun c => Sparse.set_wf _ _ c.frames)) _

theorem startMoveFrame_kept {s0 : State} {s : State} (hs : Kept s0 s) (kind : ℕ) (id : ℕ) (new : ℕ) (holder : ℕ) :
    Kept s0 (startMoveFrame s kind id new holder) := by
  unfold startMoveFrame
  exact Kept.upd (hs) ⟨rfl, rfl, rfl⟩ (fun c => { c with frames := Sparse.set_wf _ _ c.frames })

theorem retireFrame_kept {s0 : State} {s : State} (hs : Kept s0 s) (id : ℕ) :
    Kept s0 (retireFrame s id) := by
  unfold retireFrame
  extract_lets -merge -useContext -underBinder +onlyGivenNames v1
  refine Kept.ite ?_ ?_
  · exact hs
  · refine Kept.ite ?_ ?_
    · exact frameOut_kept (hs) _
    · refine Kept.ite ?_ ?_
      · split
        · exact startMoveFrame_kept (hs) _ _ _ _
        · exact degrade_kept (dbEvent_kept (hs) _)
      · split
        · exact startMoveFrame_kept (hs) _ _ _ _
        · exact degrade_kept (dbEvent_kept (hs) _)

theorem retireRow_kept {s0 : State} {s : State} (hs : Kept s0 s) (bank : ℕ) (row : ℕ) :
    Kept s0 (retireRow bank s row) := by
  unfold retireRow
  refine Kept.ite ?_ ?_
  · exact burnRow_kept (Kept.plain (Kept.rowsUsed hs (fun c => Sparse.modify_wf _ _ c.rowsUsed))) _
  · refine Kept.ite ?_ ?_
    · exact retireCore_kept (hs) _
    · exact degrade_kept (dbEvent_kept (hs) _)

theorem retireLanes_kept {s0 : State} {s : State} (hs : Kept s0 s) (link : ℕ) (lanes : List ℕ) :
    Kept s0 (retireLanes s link lanes) := by
  unfold retireLanes
  extract_lets -merge -useContext -underBinder +onlyGivenNames dir1
  extract_lets -merge -useContext -underBinder +onlyGivenNames used2
  refine Kept.ite ?_ ?_
  · extract_lets -merge -useContext -underBinder +onlyGivenNames add3
    extract_lets -merge -useContext -underBinder +onlyGivenNames s4
    have h5 : Kept s0 s4 := by
      exact Kept.upd (hs) ⟨rfl, rfl, rfl⟩ (fun c => { c with lanesUsed := Sparse.set_wf _ _ (Sparse.set_wf _ _ c.lanesUsed) })
    clear_value s4
    refine Kept.foldl ?_ (fun a7 b8 h6 => ?_)
    · exact h5
    · exact burnLane_kept (h6) _
  · exact degrade_kept (hs)

theorem retirePort_kept {s0 : State} {s : State} (hs : Kept s0 s) (i : ℕ) (lanes : List ℕ) :
    Kept s0 (retirePort s i lanes) := by
  unfold retirePort
  refine Kept.ite ?_ ?_
  · exact portMod_kept (hs) _ _
  · extract_lets -merge -useContext -underBinder +onlyGivenNames base1
    extract_lets -merge -useContext -underBinder +onlyGivenNames s2
    have h3 : Kept s0 s2 := by
      refine Kept.foldl ?_ (fun a5 b6 h4 => ?_)
      · exact hs
      · exact portMod_kept (h4) _ _
    clear_value s2
    refine Kept.foldl ?_ (fun a8 b9 h7 => ?_)
    · exact h3
    · exact portMod_kept (h7) _ _

theorem retireCxl_kept {s0 : State} {s : State} (hs : Kept s0 s) (x : ℕ) (halves : List ℕ) :
    Kept s0 (retireCxl s x halves) := by
  unfold retireCxl
  extract_lets -merge -useContext -underBinder +onlyGivenNames a1
  extract_lets -merge -useContext -underBinder +onlyGivenNames gone2
  extract_lets -merge -useContext -underBinder +onlyGivenNames s3
  have h4 : Kept s0 (s3) := by
    unfold s3
    refine Kept.upd (hs) ⟨rfl, rfl, rfl⟩ (fun c => { c with lanesUsed := Sparse.set_wf _ _ c.lanesUsed })
  clear_value s3
  exact Kept.ite (cxlDown_kept h4 _) (setRaw_kept h4 _ _)

theorem retireRes_kept {s0 : State} {s : State} (hs : Kept s0 s) (kind : ℕ) (index : ℕ) (failing : List ℕ) :
    Kept s0 (retireRes s kind index failing) := by
  unfold retireRes
  split
  · exact Kept.foldl hs (fun a1 b2 h3 => (retireRow_kept h3 _ _))
  · exact retireFrame_kept hs _
  · extract_lets -merge -useContext -underBinder +onlyGivenNames s4
    have h5 : Kept s0 (s4) := by
      unfold s4
      exact Kept.foldl hs (fun a6 b7 h8 => (retireFrame_kept h8 _))
    clear_value s4
    exact Kept.ite (degrade_kept (postBit_kept h5 _ _)) h5
  · exact retireFrame_kept hs _
  · exact retireCore_kept hs _
  · exact retireLanes_kept hs _ _
  · exact retirePort_kept hs _ _
  · exact retireCxl_kept hs _ _

theorem execProofRunDone_kept {s0 : State} {s : State} (hs : Kept s0 s) (kind : ℕ) (index : ℕ) (lasting : Bool) (failing : List ℕ) :
    OutKept s0 (execProofRunDone kind index lasting failing s) := by
  unfold execProofRunDone
  extract_lets -merge -useContext -underBinder +onlyGivenNames mine1
  refine OutKept.ite ?_ ?_
  · extract_lets -merge -useContext -underBinder +onlyGivenNames key2
    extract_lets -merge -useContext -underBinder +onlyGivenNames recent3
    extract_lets -merge -useContext -underBinder +onlyGivenNames ticks4
    extract_lets -merge -useContext -underBinder +onlyGivenNames verdict5
    extract_lets -merge -useContext -underBinder +onlyGivenNames s6
    have h7 : Kept s0 s6 := by
      exact Kept.upd (hs) ⟨rfl, rfl, rfl⟩ (fun c => { c with transients := Sparse.set_wf _ _ c.transients })
    clear_value s6
    extract_lets -merge -useContext -underBinder +onlyGivenNames s8
    have h9 : Kept s0 s8 := by
      exact bump_kept (h7) _ _ _
    clear_value s8
    extract_lets -merge -useContext -underBinder +onlyGivenNames code10
    extract_lets -merge -useContext -underBinder +onlyGivenNames s11
    have h12 : Kept s0 s11 := by
      exact setRaw_kept (h9) _ _
    clear_value s11
    refine OutKept.next ?_
    refine Kept.ite ?_ ?_
    · exact h12
    · exact retireRes_kept (h12) _ _ _
  · refine OutKept.next ?_
    exact hs

theorem copyFrame_kept {s0 : State} {s : State} (hs : Kept s0 s) (id : ℕ) (new : ℕ) :
    Kept s0 (copyFrame s id new) := by
  unfold copyFrame
  extract_lets -merge -useContext -underBinder +onlyGivenNames lo1
  extract_lets -merge -useContext -underBinder +onlyGivenNames dst2
  extract_lets -merge -useContext -underBinder +onlyGivenNames bad3
  extract_lets -merge -useContext -underBinder +onlyGivenNames mem4
  extract_lets -merge -useContext -underBinder +onlyGivenNames mem5
  extract_lets -merge -useContext -underBinder +onlyGivenNames errs6
  exact Kept.upd (hs) ⟨rfl, rfl, rfl⟩ (fun c => { c with mem := Sparse.foldl_wf _ (fun _ _ hm => (Sparse.setRun_wf _ _ hm)) _ (Sparse.foldl_wf _ (fun _ _ hm => (Sparse.set_wf _ _ hm)) _ (Sparse.clearRange_wf _ _ c.mem)), errs := Sparse.foldl_wf _ (fun _ _ hm => (Sparse.set_wf _ _ hm)) _ (Sparse.clearRange_wf _ _ c.errs) })

theorem moveFrameDone_kept {s0 : State} {s : State} (hs : Kept s0 s) (id : ℕ) (new : ℕ) :
    Kept s0 (moveFrameDone s id new) := by
  unfold moveFrameDone
  split
  · exact frameOut_kept (State.modPart_kept (copyFrame_kept (hs) _ _) _ _) _
  · exact frameOut_kept (Kept.frames hs (fun c => Sparse.set_wf _ _ c.frames)) _

theorem moveRowDone_kept {s0 : State} {s : State} (hs : Kept s0 s) (bank : ℕ) (row : ℕ) :
    Kept s0 (moveRowDone s bank row) := by
  unfold moveRowDone
  extract_lets place copy first
  exact Kept.ite
    (Kept.upd hs ⟨rfl, rfl, rfl⟩ (fun c => { c with storeErrs := Sparse.foldl_wf _ (fun _ _ hm => Sparse.set_wf _ _ hm) _ c.storeErrs }))
    (Kept.upd hs ⟨rfl, rfl, rfl⟩ (fun c => { c with sramErrs := Sparse.foldl_wf _ (fun _ _ hm => Sparse.set_wf _ _ hm) _ c.sramErrs }))

theorem execRetireMoveDone_kept {s0 : State} {s : State} (hs : Kept s0 s) (index : ℕ) :
    OutKept s0 (execRetireMoveDone index s) := by
  unfold execRetireMoveDone
  split
  · extract_lets -merge -useContext -underBinder +onlyGivenNames rest1
    have h2 : Kept s0 (rest1) := by
      unfold rest1
      exact Kept.plain hs
    clear_value rest1
    exact OutKept.ite (OutKept.next (moveRowDone_kept h2 _ _)) (OutKept.ite (OutKept.next (moveFrameDone_kept h2 _ _)) (OutKept.next hs))
  · exact OutKept.next hs

theorem execLaneSparingDone_kept {s0 : State} {s : State} (hs : Kept s0 s) (link : Fin 2) :
    OutKept s0 (execLaneSparingDone link s) := by
  unfold execLaneSparingDone
  refine OutKept.next ?_
  exact Kept.plain (hs)

theorem execPartitionDrainDone_kept {s0 : State} {s : State} (hs : Kept s0 s) (p : Fin 16) :
    OutKept s0 (execPartitionDrainDone p s) := by
  unfold execPartitionDrainDone
  refine OutKept.next ?_
  exact coresOut_kept (drainDone_kept (hs) _)

theorem execScrubDone_kept {s0 : State} {s : State} (hs : Kept s0 s) (p : Fin 16) :
    OutKept s0 (execScrubDone p s) := by
  unfold execScrubDone
  refine OutKept.next ?_
  exact coresOut_kept (scrubDone_kept (hs) _)

theorem disturb_kept {s0 : State} {s : State} (hs : Kept s0 s) (a : ℕ) (u : Upset) :
    Kept s0 (disturb a s u) := by
  unfold disturb
  extract_lets -merge -useContext -underBinder +onlyGivenNames mask1
  split
  · refine Kept.upd (hs) ⟨rfl, rfl, rfl⟩ (fun c => { c with errs := Sparse.set_wf _ _ c.errs })
  · refine Kept.upd (hs) ⟨rfl, rfl, rfl⟩ (fun c => { c with errs := Sparse.set_wf _ _ c.errs })
  · refine Kept.upd (hs) ⟨rfl, rfl, rfl⟩ (fun c => { c with errs := Sparse.set_wf _ _ c.errs })
  · refine Kept.ite ?_ ?_
    · refine Kept.upd (hs) ⟨rfl, rfl, rfl⟩ (fun c => { c with storeErrs := Sparse.set_wf _ _ c.storeErrs })
    · refine Kept.upd (hs) ⟨rfl, rfl, rfl⟩ (fun c => { c with sramErrs := Sparse.set_wf _ _ c.sramErrs })
  · refine Kept.upd (hs) ⟨rfl, rfl, rfl⟩ (fun c => { c with lineErrs := Sparse.set_wf _ _ c.lineErrs })
  · refine Kept.upd (hs) ⟨rfl, rfl, rfl⟩ (fun c => { c with lineErrs := Sparse.set_wf _ _ c.lineErrs })

theorem faultOwner_kept {s0 : State} {s : State} (hs : Kept s0 s) (id : ℕ) (ofs : ℕ) :
    Kept s0 (faultOwner s id ofs) := by
  unfold faultOwner
  split
  · extract_lets -merge -useContext -underBinder +onlyGivenNames y1
    extract_lets -merge -useContext -underBinder +onlyGivenNames r2
    refine Kept.ite ?_ ?_
    · exact hs
    · exact startDrain_kept (recordFault_kept (hs) _ _) _
  · exact hs

theorem patrolGranule_kept {s0 : State} {s : State} (hs : Kept s0 s) (a : ℕ) (i : ℕ) :
    Kept s0 (patrolGranule a s i) := by
  unfold patrolGranule
  extract_lets -merge -useContext -underBinder +onlyGivenNames key1
  extract_lets -merge -useContext -underBinder +onlyGivenNames id2
  extract_lets -merge -useContext -underBinder +onlyGivenNames ofs3
  extract_lets -merge -useContext -underBinder +onlyGivenNames burst4
  have h5 : Kept s0 (burst4).2 := by
    unfold burst4
    exact Op.exec_kept (burstMask_kept _ _) hs
  clear_value burst4
  extract_lets -merge -useContext -underBinder +onlyGivenNames s6
  have h7 : Kept s0 (s6) := by
    unfold s6
    exact h5
  clear_value s6
  extract_lets -merge -useContext -underBinder +onlyGivenNames mask8
  split
  · exact putBytes_kept h7 _ _ _
  · exact noteCorrected_kept (putBytes_kept h7 _ _ _) _ _
  · exact faultOwner_kept (noteUncorrectable_kept h7 _ _) _ _

theorem passEnd_kept {s0 : State} {s : State} (hs : Kept s0 s) (g : ℕ) :
    Kept s0 (passEnd s g) := by
  unfold passEnd
  refine Kept.foldl ?_ (fun a3 b4 h1 => ?_)
  · exact hs
  · extract_lets -merge -useContext -underBinder +onlyGivenNames c2
    refine Kept.ite ?_ ?_
    · exact requestProof_kept (h1) _ _
    · exact h1

theorem patrolStripe_kept {s0 : State} {s : State} (hs : Kept s0 s) (g : Fin 4) (a : ℕ) :
    Kept s0 (patrolStripe g a s) := by
  unfold patrolStripe
  refine Kept.ite ?_ ?_
  · extract_lets -merge -useContext -underBinder +onlyGivenNames n1
    extract_lets -merge -useContext -underBinder +onlyGivenNames was2
    extract_lets -merge -useContext -underBinder +onlyGivenNames s3
    have h4 : Kept s0 (s3) := by
      unfold s3
      exact Kept.foldl hs (fun a5 b6 h7 => (patrolGranule_kept h7 _ _))
    clear_value s3
    extract_lets -merge -useContext -underBinder +onlyGivenNames b8
    extract_lets -merge -useContext -underBinder +onlyGivenNames s9
    have h10 : Kept s0 (s9) := by
      unfold s9
      refine bump_kept ?_ _ _ _
      refine Kept.upd (h4) ⟨rfl, rfl, rfl⟩ (fun c => { c with patrol := Sparse.set_wf _ _ c.patrol })
    clear_value s9
    extract_lets -merge -useContext -underBinder +onlyGivenNames s11
    have h12 : Kept s0 (s11) := by
      unfold s11
      exact Kept.ite (passEnd_kept h10 _) h10
    clear_value s11
    exact Kept.ite (postBit_kept h12 _ _) h12
  · exact hs

theorem execPatrolRead_kept {s0 : State} {s : State} (hs : Kept s0 s) (g : Fin 4) (upset : List Upset) :
    OutKept s0 (execPatrolRead g upset s) := by
  unfold execPatrolRead
  extract_lets -merge -useContext -underBinder +onlyGivenNames a1
  exact OutKept.next (patrolStripe_kept (Kept.foldl hs (fun a2 b3 h4 => (disturb_kept h4 _ _))) _ _)

end Sys2Proof.Machine
end

