-- ==== Sys2Proof/WellFormed.lean ====
section
/-! DEFINITION. When a command's operands are ones that the spec's rows can carry: field ranges, counts of readings,
granules of 36 bytes, indices of blocks, domains and resources. The meanings are total: they do not rest on these
checks, which say what a sender of commands must respect. -/

namespace Sys2Proof

/-- A frame is granules of 36 bytes: a header, an extension or a trailer of two, and at most 128 payload granules, the
4 KiB of R357. -/
def RxFrame.wf (f : RxFrame) : Bool := f.granules.all (fun g => g.length = 36) && decide (f.granules.length ≤ 256)

/-- A device of CXL enumeration: SPEED and WIDTH have codes of Table 13-18. -/
def CxlDevice.wf (d : CxlDevice) : Bool := decide (d.speed < 8) && decide (d.width < 32)

/-- Readings of one average-loop period: one power for each of the three classes (R428). -/
def PowerReading.wf (m : PowerReading) : Bool := m.classes.length = 3

/-- One thermal sample: 80 junction and 72 GDDR7 readings (R439). -/
def ThermalReading.wf (m : ThermalReading) : Bool := m.junctions.length = 80 && m.gddr.length = 72

/-- A disturbance lies inside the 36 bytes of a granule's word (R318). -/
def Upset.wf (u : Upset) : Bool := decide (u.pos < 36)

/-- A control address is a multiple of 4 (R4). -/
def addrWf (a : Word) : Bool := a.toNat % 4 = 0

/-- A resource of a proof run: its kind is one of the eight of R455. -/
def proofWf (kind index : Nat) : Bool :=
  match kind with
  | 0 => decide (index < 64 * 256 + 1024)
  | 2 => decide (index < 36)
  | 4 => decide (index < 144)
  | 5 => decide (index < 2)
  | 6 => decide (index < 14)
  | 7 => decide (index < 4)
  | k => decide (k < 8)

/-- The command's operands are well-formed. -/
def Instr.wf (i : Instr) : Bool :=
  match i with
  | .strapRead codes _ => codes.length = 16 && codes.all (fun c => decide (c < 64))
  | .imageReadDone cxl => cxl.all CxlDevice.wf && decide ((cxl.map CxlDevice.port).Nodup)
  | .blockResetSet _ b _ => Machine.blkExists b
  | .blockResetClear _ b _ => Machine.blkExists b
  | .drainIdle b => Machine.blkExists b
  | .drainTimeout b => Machine.blkExists b
  | .rstHeldClkExpiry b => Machine.blkExists b
  | .stateMismatch b _ => Machine.blkExists b
  | .idleSleep dom => decide (dom < Machine.domCount)
  | .powerStopDone dom => decide (dom < Machine.domCount)
  | .averageLoop m => m.wf
  | .thermalSample m => m.wf
  | .ackFrame f | .openConn f | .openAck f | .closeConn f | .closeAck f | .remoteWrite f | .remoteRead f
  | .remoteSignal f | .sendData f | .collData f | .sendRts f | .sendCts f | .rejectFrame f | .regRead f | .regWrite f
  | .counterRead f | .dumpRead f | .connSet f | .commSet f | .admitVerb f | .loadVerb f | .startVerb f
  | .stopBoundary f | .stopHalt f | .release f => f.wf
  | .patrolRead _ upset => upset.all Upset.wf
  | .proofRunStart kind index => proofWf kind index
  | .proofRunDone kind index _ _ => proofWf kind index
  | .dbCntWrite _ addr _ => addrWf addr
  | .dbMonCfg _ addr _ => addrWf addr
  | .controlWrite _ addr _ => addrWf addr
  | _ => true

end Sys2Proof
end

