-- ==== Sys2Proof/Tests/Slice0.lean ====
section
/-! SUPPORT. Small tests: ill-formed commands, worked values of the spec, and for every statement with hypotheses a
concrete state and operands that meet them. -/

namespace Sys2Proof.Tests

open Sys2Proof Sys2Proof.Machine

set_option Elab.async false

/-! ### Helpers -/

/-- The canonical form, as a test. -/
def canonicalB (s : State) : Bool :=
  Sparse.wfBy resetWord 0 s.regs && Sparse.wf 0 s.counts && Sparse.wf 0 s.caps && Sparse.wf 0#8 s.mem &&
  Sparse.wf 0#8 s.store && Sparse.wf 0 s.errs && Sparse.wf 0 s.storeErrs && Sparse.wf 0 s.sramErrs &&
  Sparse.wf 0 s.lineErrs && Sparse.wf 0 s.frames &&
  Sparse.wf SyncObj.zero s.so && Sparse.wf SoBlock.free s.soBlk && Sparse.wf 0 s.slotBlk && Sparse.wf Slot.reset s.slots &&
  Sparse.wf [] s.transients && Sparse.wf 0 s.rowsUsed && Sparse.wf 0 s.lanesUsed && Sparse.wf 0 s.patrol &&
  Sparse.wf Link.free s.conns && Sparse.wf Link.free s.sess && Sparse.wf Port.off s.ports && Sparse.wf 0 s.heldHi &&
  Sparse.wf 0xFF#8 s.boot.flash && Sparse.wf Dom.off s.doms && Sparse.wf Blk.reset s.blks

theorem canonical_of {s : State} (h : canonicalB s = true) : s.Canonical := by
  simp only [canonicalB, Bool.and_eq_true] at h
  obtain ⟨⟨⟨⟨⟨⟨⟨⟨⟨⟨⟨⟨⟨⟨⟨⟨⟨⟨⟨⟨⟨⟨⟨⟨a1, a2⟩, a3⟩, a4⟩, a5⟩, a6⟩, a7⟩, a8⟩, a9⟩, a10⟩, a11⟩, a12⟩, a13⟩, a14⟩, a15⟩, a16⟩, a17⟩,
    a18⟩, a19⟩, a20⟩, a21⟩, a22⟩, a23⟩, a24⟩, a25⟩ := h
  exact ⟨a1, a2, a3, a4, a5, a6, a7, a8, a9, a10, a11, a12, a13, a14, a15, a16, a17, a18, a19, a20, a21, a22, a23, a24, a25⟩

/-- The access goes through, as a test. -/
def goesB (s : State) (who : Requester) (l : Level) (a : Nat) : Bool :=
  decide (requesterLevel s who = some l) && !waitsBehind s who && decide (gateOf s l a = .go)

theorem goes_of {s : State} {who : Requester} {l : Level} {a : Nat} (h : goesB s who l a = true) : AccessGoes s who l a := by
  simp only [goesB, Bool.and_eq_true, decide_eq_true_eq, Bool.not_eq_true'] at h
  exact ⟨h.1.1, h.1.2, h.2⟩

/-- A domain that is on, a block out of reset, a port that is up. -/
def onDom : Dom := ⟨.on, false, false, true, false, false⟩
def outBlk : Blk := { Blk.reset with inReset := false, iso := false }
def upPort : Port := ⟨.up, [], false, false, false⟩

/-- An open session of the device owner on host port H0.0. -/
def ownerLink : Link := { Link.free with state := .opened, level := .owner, port := 16, maxLen := 128, gen := 1 }

/-- Blocks out of reset: those of C00, the channels of the shelf, the CXL ports and the module's own. -/
def upBlks : List Nat := (List.range 9).map (fun k => 0x400 * k) ++ (List.range 36).map (fun k => 0x2400 + k) ++
  [0x2800, 0x2801, 0x2802, 0x2803, 0x2C00, 0x2C20, 0x2C21, 0x3000, 0x3400, 0x3800, 0x3C00, 0x3D00]

/-- A running module: every domain on, no partition, one session of the device owner. -/
def live : State := { State.reset with
  input := .on, boot := { State.reset.boot with step := .running }, doms := (List.range 90).map (fun d => (d, onDom)),
  blks := upBlks.map (fun b => (b, outBlk)), sess := [(0, ownerLink)], ports := (List.range 20).map (fun i => (i, upPort)),
  tick := 1000 }

/-- An open connection of P2 on port F0.3. -/
def peerLink : Link := { Link.free with state := .opened, part := 2, conn := 0, port := 3, maxLen := 128, gen := 7, sinceAck := 3, psnRx := 77, psnTx := 9, peerIdx := 9, peerGen := 4, peerSlimit := 64, peerClimit := 100 }

def own : Requester := .session 0

/-! ### Ill-formed commands are refused, well-formed ones are not -/

theorem test_wf_strap : (Instr.strapRead (List.replicate 16 63) true).wf = true ∧
    (Instr.strapRead (List.replicate 15 0) true).wf = false ∧ (Instr.strapRead (List.replicate 16 64) true).wf = false := by
  decide

theorem test_wf_cxl : (Instr.imageReadDone [⟨0, 2359296, 3, 16, false⟩, ⟨1, 0, 3, 8, true⟩]).wf = true ∧
    (Instr.imageReadDone [⟨0, 0, 8, 16, false⟩]).wf = false ∧ (Instr.imageReadDone [⟨0, 0, 3, 32, false⟩]).wf = false ∧
    (Instr.imageReadDone [⟨2, 0, 3, 16, false⟩, ⟨2, 0, 3, 16, false⟩]).wf = false := by
  decide

theorem test_wf_blocks : (Instr.drainIdle 0x2400).wf = true ∧ (Instr.drainIdle 0x2424).wf = false ∧
    (Instr.drainTimeout 0x2424).wf = false ∧ (Instr.rstHeldClkExpiry 0x2424).wf = false ∧
    (Instr.stateMismatch 0x2424 0).wf = false ∧ (Instr.blockResetSet .firmware 0x2424 0#32).wf = false ∧
    (Instr.blockResetClear .firmware 0x2424 0#32).wf = false := by
  decide +kernel

theorem test_wf_domains : (Instr.idleSleep 89).wf = true ∧ (Instr.idleSleep 90).wf = false ∧
    (Instr.powerStopDone 90).wf = false := by
  decide

theorem test_wf_readings : (Instr.averageLoop ⟨0, 0, [1, 2, 3]⟩).wf = true ∧ (Instr.averageLoop ⟨0, 0, [1, 2]⟩).wf = false ∧
    (Instr.thermalSample ⟨List.replicate 80 0, List.replicate 72 0⟩).wf = true ∧
    (Instr.thermalSample ⟨List.replicate 79 0, List.replicate 72 0⟩).wf = false ∧
    (Instr.thermalSample ⟨List.replicate 80 0, List.replicate 73 0⟩).wf = false := by
  decide +kernel

theorem test_wf_frames : (Instr.ackFrame ⟨0, ⟨0, 0x88B5, true, 200, 0, 0⟩, true, [List.replicate 36 0#8]⟩).wf = true ∧
    (Instr.ackFrame ⟨0, ⟨0, 0x88B5, true, 200, 0, 0⟩, true, [List.replicate 35 0#8]⟩).wf = false ∧
    (Instr.release ⟨0, ⟨0, 0x88B5, true, 200, 0, 0⟩, true, List.replicate 257 (List.replicate 36 0#8)⟩).wf = false := by
  decide +kernel

theorem test_wf_upsets : (Instr.patrolRead 0 [⟨.stripe, 0, 35, 1#8⟩]).wf = true ∧
    (Instr.patrolRead 0 [⟨.stripe, 0, 36, 1#8⟩]).wf = false := by
  decide

theorem test_wf_proofs : ([(0, 17407), (2, 35), (4, 143), (5, 1), (6, 13), (7, 3), (1, 0), (3, 0)].all (fun e =>
      (Instr.proofRunStart e.1 e.2).wf)) = true ∧
    ([(0, 17408), (2, 36), (4, 144), (5, 2), (6, 14), (7, 4), (8, 0)].all (fun e =>
      !(Instr.proofRunStart e.1 e.2).wf && !(Instr.proofRunDone e.1 e.2 true []).wf)) = true := by
  decide

theorem test_wf_addresses : (Instr.controlWrite .firmware 0xE0000004#32 0#32).wf = true ∧
    (Instr.controlWrite .firmware 0xE0000006#32 0#32).wf = false ∧ (Instr.dbCntWrite .firmware 0x80001009#32 0#32).wf = false ∧
    (Instr.dbMonCfg .firmware 0xF0002001#32 0#32).wf = false := by
  decide

/-! ### Worked values

The published test vectors of FIPS 180-4, RFC 4231 and FIPS 197; codes of Table 5-5; and rules of the chapters worked by
hand. -/

theorem test_sha256_abc : sha256 (ascii "abc") = beBytes 32
    0xba7816bf8f01cfea414140de5dae2223b00361a396177a9cb410ff61f20015ad := by decide +kernel

theorem test_sha384_abc : sha384 (ascii "abc") = beBytes 48
    0xcb00753f45a35e8bb5a03d699ac65007272c32ab0eded1631a8b605a43ff5bed8086072ba1e7cc2358baeca134c825a7 := by
  decide +kernel

theorem test_hmac384_rfc4231_case1 : hmac384 (List.replicate 20 0x0b#8) (ascii "Hi There") = beBytes 48
    0xafd03944d84895626b0825f4ab46907f15f9dadbe4101ec682aa034c7cebc59cfaea9ea9076ede7f4af152e8b2fa9cb6 := by
  decide +kernel

theorem test_float_codes : fE4M3.decode 0x7E = .ok (.fin 448 false) ∧ fE4M3.decode 0x01 = .ok (.fin (1 / 512) false) ∧
    fE5M2.decode 0x7B = .ok (.fin 57344 false) ∧ fE5M2.decode 0x7C = .ok (.inf false) ∧ fBF16.decode 0x3F80 = .ok (.fin 1 false) ∧
    fFP16.decode 0x8000 = .ok (.fin 0 true) := by
  refine ⟨?_, ?_, ?_, ?_, ?_, ?_⟩ <;> decide +kernel

/-- R487, Table 16-5: INPUT_GOOD starts boot at step 1 and names power-on as the cause of the reset. -/
theorem test_input_good : (match exec .inputGood { State.reset with input := .charging } with
    | .next t => decide (t.boot.step = .strap ∧ field (rawReg t 0xE0000008) 31 28 = 1)
    | _ => false) = true := by
  decide +kernel

/-- R87: a sum of 2^32 wraps to 0 and sets WRAP. -/
theorem test_add_wraps : (soGet (applySignal { live with so := [(5, ⟨0xFFFFFFFF#32, 3#16, false⟩)] } 5 .add 1#32) 5) = ⟨0#32, 3#16, true⟩ := by
  decide +kernel

theorem test_aes128_fips197 : aes128 (beBytes 16 0x000102030405060708090a0b0c0d0e0f) (beBytes 16 0x00112233445566778899aabbccddeeff) =
    beBytes 16 0x69c4e0d86a7b0430d8cdb78070b4c55a := by
  decide +kernel

/-- R26: a write to an address without a register completes and changes nothing. -/
theorem test_write_absent : (match exec (.controlWrite own 0xE0000FF0#32 1#32) live with
    | .next t => decide (t.regs = live.regs ∧ t.boot = live.boot)
    | _ => false) = true := by
  decide +kernel

/-- R443: the watchdog takes only the word of Table 16-9. -/
theorem test_watchdog_kick : (match exec (.pmWdogKick own 0x00C35AA5#32) live with
    | .next t => decide (t.boot.wdStart = 1000)
    | _ => false) = true := by
  decide +kernel

/-! ### Operands meet every clause: input, boot, resets -/

theorem test_hyp_front : ({ live with pending := [.prechargeStart, .extraction] }).pending = .prechargeStart :: [.extraction] := rfl

theorem test_hyp_input : State.reset.Canonical ∧ State.reset.input = .off ∧
    ({ live with input := .charging }).Canonical ∧ ({ live with input := .charging }).input = .charging ∧
    live.Canonical ∧ live.input = .on ∧
    (setRaw live 0xE0000228 0x80000000#32).Canonical ∧ thermalHold (setRaw live 0xE0000228 0x80000000#32) = true ∧
    ({ live with input := .cut }).Canonical ∧ ({ live with input := .cut }).input = .cut :=
  ⟨canonical_of (by decide +kernel), rfl, canonical_of (by decide +kernel), rfl, canonical_of (by decide +kernel), rfl,
    canonical_of (by decide +kernel), by decide +kernel, canonical_of (by decide +kernel), rfl⟩

/-- A module at a step of boot, with the first bytes of both slots of its flash cleared. -/
def booting (k : BootStep) : State := { live with boot := { live.boot with
  flash := [(0, 0#8), (1, 0#8), (0x2000000, 0#8)], step := k } }

theorem test_hyp_boot : (booting .strap).Canonical ∧ (booting .strap).boot.step = .strap ∧
    (booting .shelf).Canonical ∧ (booting .shelf).boot.step = .shelf ∧ (booting .shelf).boot.prstLow = false ∧
    (booting .shelf).boot.wdHeld = false ∧ live.Canonical ∧ live.boot.step = .running :=
  ⟨canonical_of (by decide +kernel), rfl, canonical_of (by decide +kernel), rfl, rfl, rfl,
    canonical_of (by decide +kernel), rfl⟩

theorem test_hyp_boot_falls_back : (booting .image).Canonical ∧ (booting .image).boot.step = .image ∧
    imageCheck (booting .image) = some 1 ∧ bootSlot (booting .image) = 0 ∧ strapChoice (booting .image) < 8 ∧
    (setRaw (booting .image) 0x4 0x8000#32).Canonical ∧
    imageCheck (setRaw (booting .image) 0x4 0x8000#32) = some 1 ∧
    ¬ strapChoice (setRaw (booting .image) 0x4 0x8000#32) < 8 :=
  ⟨canonical_of (by decide +kernel), rfl, by decide +kernel, by decide +kernel, by decide +kernel,
    canonical_of (by decide +kernel), by decide +kernel, by decide +kernel⟩

/-- A module whose remote reset is due. -/
def resetDue : State := { live with boot := { live.boot with remoteDue := true, chain := [(1, [1#8]), (2, []), (3, []), (4, [])] } }

theorem test_hyp_wide_resets : resetDue.Canonical ∧ booted resetDue = true ∧ flag (rawReg resetDue 0xE0000000) 30 = true ∧
    resetDue.boot.remoteDue = true ∧ (booting .strap).Canonical ∧ booted (booting .strap) = false :=
  ⟨canonical_of (by decide +kernel), by decide +kernel, by decide +kernel, rfl, canonical_of (by decide +kernel),
    by decide +kernel⟩

theorem test_hyp_control_write : AccessGoes live own .owner 0xE000000C ∧ requesterLevel live (.session 3) = none ∧
    requesterLevel live own = some .owner ∧ waitsBehind live own = false ∧ gateOf live .owner 0xE0000FF0 = .stop 2 ∧
    gateOf (domSet live 0 { onDom with pwr := .off }) .owner 0x80001000 = .sleep 0 ∧
    requesterLevel { live with accs := [⟨own, none, 0x80001000#32, 0#32, []⟩] } own = some .owner ∧
    waitsBehind { live with accs := [⟨own, none, 0x80001000#32, 0#32, []⟩] } own = true :=
  ⟨goes_of (by decide +kernel), by decide +kernel, by decide +kernel, by decide +kernel, by decide +kernel,
    by decide +kernel, by decide +kernel, by decide +kernel⟩

/-- A running partition P0 of two cores. -/
def run0 : State := live.setPart 0 { Part.free with state := .running, shape := 1, desc := 4 }

theorem test_hyp_reset_requests : AccessGoes live own .owner 0xE000000C ∧ AccessGoes live own .owner 0xE0000010 ∧
    live.Canonical ∧ AccessGoes live own .owner 0xE0000014 ∧ field 0xA5C30000#32 31 16 = 0xA5C3 ∧ (live.part 0).state = .free ∧
    run0.Canonical ∧ AccessGoes run0 own .owner 0xE0000014 ∧ (run0.part 0).state = .running ∧ run0.dump.busy ≠ some 0 ∧
    ({ run0 with dump := ⟨some 0, none, 0, [], 0⟩ }).Canonical ∧
    AccessGoes { run0 with dump := ⟨some 0, none, 0, [], 0⟩ } own .owner 0xE0000014 ∧ (run0.part 0).mem.prefQ = [] :=
  ⟨goes_of (by decide +kernel), goes_of (by decide +kernel), canonical_of (by decide +kernel), goes_of (by decide +kernel),
    by decide +kernel, rfl, canonical_of (by decide +kernel), goes_of (by decide +kernel), by decide +kernel, by decide +kernel,
    canonical_of (by decide +kernel), goes_of (by decide +kernel), by decide +kernel⟩

/-- The fabric's block in three states: reset by its software source, draining, and waiting for a clock. -/
def blkIn (x : Blk) : State := blkSet live 0x2C00 x
def softBlk : Blk := { outBlk with soft := true, inReset := true, iso := true, widest := 1 }
def drainBlk : Blk := { outBlk with soft := true, draining := true, heldClk := true, widest := 1 }

theorem test_hyp_block_resets : live.Canonical ∧ blkExists 0x2C00 = true ∧ AccessGoes live own .owner (0xE0100000 + 4 * 0x2C00) ∧
    (blkGet live 0x2C00).soft = false ∧ (blkGet live 0x2C00).draining = false ∧ (blkGet live 0x2C00).inReset = false ∧
    (flag 0x43F00000#32 30 = true ∧ field 0x43F00000#32 29 22 ≠ 0) ∧ flag 0#32 30 = false ∧
    (blkIn softBlk).Canonical ∧ AccessGoes (blkIn softBlk) own .owner (0xE0100000 + 4 * 0x2C00) ∧
    blkGet (blkIn softBlk) 0x2C00 = softBlk ∧ sourcesClear { softBlk with soft := false } = true ∧ softBlk.draining = false ∧
    softBlk.inReset = true ∧ softBlk.widest ≠ 2 ∧ (0 ∈ blkPorts 0x2C00) ∧ (1 ∉ blkPorts 0x2C00) ∧
    portExists { blkIn softBlk with ports := [] } 0 = true ∧ (portGet { blkIn softBlk with ports := [] } 0).state = .off ∧
    (domGet (blkIn softBlk) (blkDom 0x2C00)).pwr = .on ∧ (domGet (blkIn softBlk) (blkDom 0x2C00)).clkGood = true ∧
    (blkIn drainBlk).Canonical ∧ (blkGet (blkIn drainBlk) 0x2C00) = drainBlk ∧ drainBlk.heldClk = true :=
  ⟨canonical_of (by decide +kernel), by decide +kernel, goes_of (by decide +kernel), by decide +kernel, by decide +kernel,
    by decide +kernel, by decide +kernel, by decide +kernel, canonical_of (by decide +kernel), goes_of (by decide +kernel),
    by decide +kernel, by decide +kernel, rfl, rfl, by decide, by decide +kernel, by decide +kernel, by decide +kernel, rfl,
    by decide +kernel, by decide +kernel, canonical_of (by decide +kernel), by decide +kernel, rfl⟩

/-! ### Fuses, flash, attestation, dumps, counters, monitors -/

/-- A booted module whose image was verified by key slot 3 of both kinds. -/
def keys3 : State := setRaw live 0xD0000000 0x06000FFC#32

theorem test_hyp_fuses : AccessGoes keys3 own .owner 0xD000000C ∧ field 0x5EC00000#32 31 16 = 0x5EC0 ∧
    field (rawReg keys3 0xD0000000) 5 4 ≠ (1 : Fin 4).val ∧ field (rawReg keys3 0xD0000000) 3 2 ≠ (1 : Fin 4).val ∧
    field (rawReg keys3 0xD0000000) 5 4 = (3 : Fin 4).val ∧ field (rawReg keys3 0xD0000000) 3 2 = (3 : Fin 4).val :=
  ⟨goes_of (by decide +kernel), by decide +kernel, by decide +kernel, by decide +kernel, by decide +kernel, by decide +kernel⟩

theorem test_hyp_flash_start : live.Canonical ∧ AccessGoes live own .owner 0xD0000200 ∧
    flag (rawReg live 0xD0000200) 30 = false ∧ flag 0x40#32 23 = false ∧ flag 0x800000#32 23 = true ∧ bootSlot live = 0 :=
  ⟨canonical_of (by decide +kernel), goes_of (by decide +kernel), by decide +kernel, by decide +kernel, by decide +kernel,
    by decide +kernel⟩

/-- A flash operation that runs: PROGRAM and READ of 256 bytes, ERASE of a sector. -/
def flashOpOf (op : Nat) : FlashOp := ⟨op, 0x2000000, List.replicate 256 0x3C#8⟩
def flashing (op : Nat) : State := setRaw
  { live with boot := { live.boot with flash := [(10, 1#8), (0x2000005, 7#8)], flashOp := some (flashOpOf op) } }
  0xD0000200 (BitVec.ofNat 32 (0x40000000 + op * 2 ^ 24))

theorem test_hyp_flash_ends : live.boot.flashOp = none ∧ ∀ op : Fin 3, (flashing op.val).Canonical ∧
    (flashing op.val).boot.flashOp = some (flashOpOf op.val) ∧ (flashOpOf op.val).op = op.val := by
  refine ⟨rfl, fun op => ⟨canonical_of (by revert op; decide +kernel), rfl, rfl⟩⟩

theorem test_hyp_attestation : live.Canonical ∧ AccessGoes live own .owner 0xD0000100 ∧
    flag (rawReg live 0xD0000100) 30 = false ∧
    (setRaw live 0xD0000100 0x40000000#32).Canonical ∧ AccessGoes (setRaw live 0xD0000100 0x40000000#32) own .owner 0xD0000100 ∧
    flag (rawReg (setRaw live 0xD0000100 0x40000000#32) 0xD0000100) 30 = true ∧
    flag (rawReg (setRaw live 0xD0000100 0x40000000#32) 0xD0000100) 28 = false :=
  ⟨canonical_of (by decide +kernel), goes_of (by decide +kernel), by decide +kernel, canonical_of (by decide +kernel),
    goes_of (by decide +kernel), by decide +kernel, by decide +kernel⟩

/-- A FAULTED partition P3. -/
def faulted : State := live.setPart 3 { Part.free with state := .faulted, shape := 0, desc := 4 }

theorem test_hyp_dump : faulted.Canonical ∧ AccessGoes faulted own .owner 0xF000000C ∧
    field 0x83400000#32 27 24 = (3 : Fin 16).val ∧ (faulted.part 3).state = .faulted ∧ faulted.dump.busy = none ∧
    faulted.dump.held = none ∧
    ({ faulted with dump := ⟨none, some 3, 256, [(1, 1#8)], 0⟩ }).Canonical ∧
    AccessGoes { faulted with dump := ⟨none, some 3, 256, [(1, 1#8)], 0⟩ } own .owner 0xF000000C ∧
    ({ faulted with dump := ⟨some 3, none, 0, [], 0⟩ }).Canonical ∧ (faulted.part 3).resetDue = false :=
  ⟨canonical_of (by decide +kernel), goes_of (by decide +kernel), by decide +kernel, rfl, rfl, rfl,
    canonical_of (by decide +kernel), goes_of (by decide +kernel), canonical_of (by decide +kernel), rfl⟩

/-- Counter 0 of C00 under this control word, with a high half held for the device owner. -/
def counting (w : Word) : State := setRaw
  { faulted with counts := [(0x80001010, 2 ^ 48 - 1)], heldHi := [(capKey own (cntBase 0 0 + 0xC), 0x12346)] } (cntBase 0 0) w

theorem test_hyp_counters : (counting 0x87000000#32).Canonical ∧ counterRuns (counting 0x87000000#32) 0 0 = true ∧
    flag (rawReg (counting 0x87000000#32) (cntBase 0 0)) 30 = false ∧
    (counting 0xC7000000#32).Canonical ∧ counterRuns (counting 0xC7000000#32) 0 0 = true ∧
    flag (rawReg (counting 0xC7000000#32) (cntBase 0 0)) 30 = true ∧
    AccessGoes (counting 0x87000000#32) own .owner (cntBase 0 0 + 0xC) ∧ AccessGoes (counting 0x87000000#32) own .owner (cntBase 0 0 + 8) ∧
    Sparse.get 0 (counting 0x87000000#32).heldHi (capKey own (cntBase 0 0 + 0xC)) = 0x12345 + 1 :=
  ⟨canonical_of (by decide +kernel), by decide +kernel, by decide +kernel, canonical_of (by decide +kernel),
    by decide +kernel, by decide +kernel, goes_of (by decide +kernel), goes_of (by decide +kernel), by decide +kernel⟩

theorem test_hyp_monitors : live.Canonical ∧ (55 : Fin 64).val < 56 ∧ AccessGoes live own .owner (0xF0002000 + 0x20 * 55) ∧
    field 1000000#32 19 0 = 1000000 ∧ AccessGoes live own .owner (0xF0002000 + 0x20 * 0) ∧ field 1#32 19 0 = 1 ∧
    (setRaw live (0xF0002000 + 0x20 * 55) 0x80000001#32).Canonical ∧
    flag (rawReg (setRaw live (0xF0002000 + 0x20 * 55) 0x80000001#32) (0xF0002000 + 0x20 * 55)) 31 = true :=
  ⟨canonical_of (by decide +kernel), by decide, goes_of (by decide +kernel), by decide +kernel, goes_of (by decide +kernel),
    by decide +kernel, canonical_of (by decide +kernel), by decide +kernel⟩


/-! ### A sound image

The clause of a sound image has a witness that rests on the part's fuses, which are free values, and on one signature: an
RSA-3072 key and its signature, made with a general tool, stand here and are verified; the SLH-DSA key stands here (made
by the key generation of FIPS 205 from the bytes 0 to 71), and its signature, 16,224 bytes, is taken as an operand. -/

/-- Bytes 0 to 191 of slot 0: the header, an OWNER and a HOSTNET record, and a firmware area (Tables 15-3, 15-5). -/
def imageHead : List Byte := leBytes 4 0x3742444E ++ leBytes 2 1 ++ leBytes 2 64 ++ leBytes 4 192 ++ leBytes 2 0xB764 ++
  leBytes 1 0xA0 ++ leBytes 1 0 ++ leBytes 4 64 ++ leBytes 4 64 ++ leBytes 4 128 ++ leBytes 4 64 ++ leBytes 4 0 ++
  leBytes 28 0 ++ leBytes 2 1 ++ leBytes 2 48 ++ List.replicate 48 0xFF#8 ++ leBytes 2 2 ++ leBytes 2 8 ++ leBytes 8 0 ++
  List.replicate 64 0xFF#8
def rsaModulus : Nat :=
  0xe570dd8728bf9ea16f68185826aaddd71923a7c0d5abe377724069a5d0bd57b10aad113773b653c8eaa8b6055f5536fe327cd42c0f8e1c037dd850e2e8fa0a57876a29b693d9fa14612b7816ffb8fdad5b88689d659eac4d61602af3ef846640f541e9970d7f781fc71d12d1bd64302813cc2aa88fc214cc1d982ab176e14fecf4e40f3433167881c18c282ddd270543756154434303bdc0845e54800462c177cd19119616dfb8e60e0f9de02aa4e51c2186c84479805ee65c4d297e7811b76456b84ade96e2ee6edf418af98cfc089c3073192db6f7c456676f7996ebea8bb1656ca95dc9c3c441ed9565742ad23bfe048cbd4eba46979db950589790fe7ea3a98bfaf325f7684c4c628978e0db2e7fea62cf17a192b246dd0d08fbfd64dc7038c48b579108aea03e07083d65850f60b69fd6fa24c0e7aabd021ff584566347887a31dfccee9abbf01d2f606bb7b5fa43b59f0019329839575fa835a1c196f0886259581c4d64a800da1df6b09018f2eb03ebd183217ce3a3affeec02531689
def rsaSignature : Nat :=
  0x8ffecaf4804c7756d1e7f1aa628eecd7738585a5755509ecdc48509c7fe166bb016ab711e702cbdf3cf6a7ba9eebbbdd908cfcfff8f66732bed2bd07da22a646cd3ac9951acac1f433dca2e5fe53821661b348fb0247b134102b67c72267cf677c8b88ff91454143830da5ab99f2e99c3e63a58d6b62ef95f6ba8c935565902267b8abc1ab5acbfdac6dc090aeefc43d1d19089bd9d59b65d00a055a30fb24d792a46e78f40413db55c10c1f993cb355cf16ce0ace00f09f1474c423bec6b012c4beebbbb70f1c736381caaef6687773d1a7ca13d8d8799ad4a284fab2038a3ad0b0139c972d48aab9db5e9b4bff216c486c14461fdbc7fe74314e2f2ba9dc20af4782f1b1a8ab0eb2ceef3d1a6117298e938da1f6b36b87d23ab4d91061495afb7dad73f30099603ca382e98577f306ed63f0eea71cf051594ea8af7ccfc8a5f115f064774ebaf1eeb43ba303764e772fc6d39fb929b90df06ad67f415aab369ad055d1f177c5b61af3d4cc4a27b719080f43b23ba4c535b3557df24f14d4ff
def slhKey : List Byte := beBytes 48
  0x303132333435363738393a3b3c3d3e3f4041424344454647b6f282ce116ff59bce2d9fc4a67c6031dabdce326c34f541
def rsaKey : List Byte := beBytes 384 rsaModulus ++ leBytes 4 65537
def imageFlash : Sparse Byte := Sparse.setRun 0xFF#8 [] 0 imageHead
/-- The signature block before the SLH-DSA signature `g`, and with it. -/
def blockFlash : Sparse Byte :=
  Sparse.setRun 0xFF#8 (Sparse.setRun 0xFF#8 (Sparse.setRun 0xFF#8 (Sparse.setRun 0xFF#8 imageFlash 192 rsaKey) 580 slhKey)
    628 (leBytes 4 0)) 632 (beBytes 384 rsaSignature)
def imaged0 : State := { live with boot := { live.boot with flash := imageFlash, step := .image } }
def imaged (g : List Byte) : State :=
  { imaged0 with boot := { imaged0.boot with flash := Sparse.setRun 0xFF#8 blockFlash 1016 g } }
/-- The digest that both signatures sign. -/
def imageDigest : List Byte := beBytes 48
  0x910b530572269d6b9b0b14e9d676ab0fd747bebaf977fca583f3f3ba010e9d1150ab4665395dc7a58e5bd70735fce3b2

theorem imageFlash_wf : Sparse.wf 0xFF#8 imageFlash = true := Sparse.setRun_wf _ _ rfl
theorem blockFlash_wf : Sparse.wf 0xFF#8 blockFlash = true :=
  Sparse.setRun_wf _ _ (Sparse.setRun_wf _ _ (Sparse.setRun_wf _ _ (Sparse.setRun_wf _ _ imageFlash_wf)))

theorem test_rsa_verifies : rsaVerifies (beBytes 384 rsaModulus) imageDigest (beBytes 384 rsaSignature) = true := by
  decide +kernel

theorem read_below {m : Sparse Byte} (hm : Sparse.wf 0xFF#8 m = true) (vs : List Byte) {k o n : Nat} (h : o + n ≤ k) :
    Sparse.getRun 0xFF#8 (Sparse.setRun 0xFF#8 m k vs) o n = Sparse.getRun 0xFF#8 m o n :=
  Sparse.getRun_congr _ _ (fun j _ h2 => by rw [Sparse.get_setRun _ _ hm, if_neg (by omega)])

theorem slot_imaged (g : List Byte) (o n : Nat) :
    slotBytes (imaged g) o n = Sparse.getRun 0xFF#8 (Sparse.setRun 0xFF#8 blockFlash 1016 g) o n := by
  have hb : bootSlot (imaged g) = 0 := by
    have hr : (imaged g).regs = live.regs := rfl
    unfold bootSlot rawReg
    rw [hr]
    decide +kernel
  unfold slotBytes
  rw [hb, Nat.zero_mul, Nat.zero_add]
  rfl

theorem image_below (g : List Byte) (o n : Nat) (h : o + n ≤ 192) :
    slotBytes (imaged g) o n = Sparse.getRun 0xFF#8 imageFlash o n := by
  have w1 := Sparse.setRun_wf (d := 0xFF#8) 192 rsaKey imageFlash_wf
  have w2 := Sparse.setRun_wf (d := 0xFF#8) 580 slhKey w1
  have w3 := Sparse.setRun_wf (d := 0xFF#8) 628 (leBytes 4 0) w2
  rw [slot_imaged, read_below blockFlash_wf _ (by omega), blockFlash, read_below w3 _ (by omega),
    read_below w2 _ (by omega), read_below w1 _ (by omega), read_below imageFlash_wf _ h]

theorem image_key (g : List Byte) : slotBytes (imaged g) 192 388 = rsaKey ∧ slotBytes (imaged g) 580 48 = slhKey ∧
    slotBytes (imaged g) 632 384 = beBytes 384 rsaSignature ∧ slotBytes (imaged g) 1016 g.length = g := by
  have w1 := Sparse.setRun_wf (d := 0xFF#8) 192 rsaKey imageFlash_wf
  have w2 := Sparse.setRun_wf (d := 0xFF#8) 580 slhKey w1
  have w3 := Sparse.setRun_wf (d := 0xFF#8) 628 (leBytes 4 0) w2
  have n1 : rsaKey.length = 388 := by decide +kernel
  have n2 : slhKey.length = 48 := by decide +kernel
  have n3 : (beBytes 384 rsaSignature).length = 384 := by decide +kernel
  refine ⟨?_, ?_, ?_, ?_⟩
  · rw [slot_imaged, read_below blockFlash_wf _ (by decide), blockFlash, read_below w3 _ (by decide),
      read_below w2 _ (by decide), read_below w1 _ (by decide), ← n1, Sparse.getRun_setRun _ _ imageFlash_wf]
  · rw [slot_imaged, read_below blockFlash_wf _ (by decide), blockFlash, read_below w3 _ (by decide),
      read_below w2 _ (by decide), ← n2, Sparse.getRun_setRun _ _ w1]
  · have h := Sparse.getRun_setRun (d := 0xFF#8) 632 (beBytes 384 rsaSignature) w3
    rw [n3] at h
    rw [slot_imaged, read_below blockFlash_wf _ (by decide), blockFlash, h]
  · rw [slot_imaged, Sparse.getRun_setRun _ _ blockFlash_wf]

theorem image_header (g : List Byte) : imageHeader (imaged g) = ⟨192, 0xB764, 0xA0, 0, 64, 64, 128, 64, 0, 0⟩ := by
  simp (disch := decide) only [imageHeader, slotNum, image_below]
  decide +kernel

theorem image_canonical (g : List Byte) : (imaged g).Canonical := by
  have h : live.Canonical := canonical_of (by decide +kernel)
  exact { h with flash := Sparse.setRun_wf _ _ blockFlash_wf }

/-- The fuses hold the two keys of the image. -/
structure FusedKeys : Prop where
  rsa : keyUsable Config.rsaPresent 0 0 = true
  rsaHash : sha384 rsaKey = Config.rsaDigest 0
  slh : keyUsable Config.slhPresent 0 0 = true
  slhHash : sha384 slhKey = Config.slhDigest 0

/-- The records of the image. -/
def imageRecords : List (Nat × List Byte) := [(1, List.replicate 48 0xFF#8), (2, List.replicate 8 0#8)]

theorem image_sound (g : List Byte) (hg : g.length = 16224) (hv : slhVerifies slhKey imageDigest g = true)
    (hk : FusedKeys) :
    (imaged g).Canonical ∧ (imaged g).boot.step = .image ∧ imageCheck (imaged g) = none ∧
    (splitRecords ((imageHeader (imaged g)).recLen / 4 + 1)
      (slotBytes (imaged g) (imageHeader (imaged g)).recOfs (imageHeader (imaged g)).recLen)).getD [] = imageRecords := by
  obtain ⟨h1, h2, h3, h4⟩ := hk
  have hr : splitRecords (64 / 4 + 1) (slotBytes (imaged g) 64 64) = some [(1, List.replicate 48 0xFF#8), (2, List.replicate 8 0#8)] := by
    rw [image_below g 64 64 (by decide)]
    decide +kernel
  refine ⟨image_canonical g, rfl, ?_, ?_⟩
  · have c1 : ¬ (slotNum (imaged g) 0 4 ≠ 0x3742444E ∨ slotNum (imaged g) 4 2 ≠ 1 ∨ slotNum (imaged g) 6 2 ≠ 64 ∨
        slotNum (imaged g) 38 26 ≠ 0) := by
      simp (disch := decide) only [slotNum, image_below]
      decide +kernel
    obtain ⟨ck, cs, cr, cg⟩ := image_key g
    rw [hg] at cg
    have cd : sha384 (slotBytes (imaged g) 0 192) = imageDigest := by
      rw [image_below g 0 192 (by decide)]
      decide +kernel
    have ct : rsaKey.take 384 = beBytes 384 rsaModulus := by decide +kernel
    have c2 : leAt rsaKey 384 4 = 65537 := by decide +kernel
    have c3 : layoutFits ⟨192, 0xB764, 0xA0, 0, 64, 64, 128, 64, 0, 0⟩ = true := by decide +kernel
    have cf : (imaged g).boot.fuses.svn = 0 ∧ (imaged g).boot.fuses.rsaRevoked = 0 ∧
      (imaged g).boot.fuses.slhRevoked = 0 := ⟨rfl, rfl, rfl⟩
    have c5 : recordsFit [(1, List.replicate 48 0xFF#8), (2, List.replicate 8 0#8)] = true := by decide +kernel
    unfold imageCheck
    rw [image_header g]
    dsimp only
    rw [if_neg c1, ck, cs, cr, cg, cd, ct, cf.1, cf.2.1, cf.2.2]
    rw [if_neg (by decide), if_neg (by simp [c3]), if_neg (by simp [h1, h2, c2]), if_neg (by simp [h3, h4]),
      if_neg (by simp [test_rsa_verifies]), if_neg (by simp [hv]), if_neg (by decide), hr]
    dsimp only
    rw [if_pos c5]
  · rw [image_header g]
    dsimp only
    rw [hr]
    rfl

/-- The sound image with records within their ranges, and with a record out of its range. -/
theorem test_hyp_sound_image (g : List Byte) (hg : g.length = 16224) (hv : slhVerifies slhKey imageDigest g = true)
    (hk : FusedKeys) :
    ((imaged g).Canonical ∧ (imaged g).boot.step = .image ∧ imageCheck (imaged g) = none ∧
      (splitRecords ((imageHeader (imaged g)).recLen / 4 + 1)
        (slotBytes (imaged g) (imageHeader (imaged g)).recOfs (imageHeader (imaged g)).recLen)).getD [] = imageRecords) ∧
    (Config.recordWrites 2 (List.replicate 8 0#8) = some [] → ∀ u, (applyRecords u imageRecords).isSome = true) ∧
    (Config.recordWrites 2 (List.replicate 8 0#8) = none → ∀ u, (applyRecords u imageRecords).isSome = false) := by
  refine ⟨image_sound g hg hv hk, fun h u => ?_, fun h u => ?_⟩ <;> simp only [List.replicate] at h <;>
    simp [imageRecords, applyRecords, applyRecord, applyField, recordFields, h]

/-! ### Operands meet every clause: domains, clocks, power, heat -/

/-- Ramps of the domain of C05: one that waits for its grant and one that runs. -/
def askRamp : Ramp := ⟨[5], false, false⟩
def runRamp : Ramp := ⟨[5], false, true⟩
def asking : State := { live with rises := [askRamp], falls := [askRamp] }
def ramping : State := domSet { live with rises := [runRamp], falls := [runRamp] } 5 { onDom with pwr := .waking }
def stopping5 : State := domSet live 5 { onDom with pwr := .stopping }

theorem test_hyp_domains : asking.Canonical ∧ domOn live 5 = true ∧ maySleep live 5 = true ∧
    stopping5.Canonical ∧ (domGet stopping5 5).pwr = .stopping ∧ stopping5.falls.all (fun r => !r.doms.contains 5) = true ∧
    (domGet stopping5 5).pendingOn = false ∧ asking.rises = askRamp :: [] ∧ askRamp.granted = false ∧
    flag (rawReg asking 0xE0000204) 28 = false ∧ flag (rawReg (setRaw asking 0xE0000204 0x10000000#32) 0xE0000204) 28 = true ∧
    (setRaw asking 0xE0000204 0x10000000#32).Canonical ∧ ramping.Canonical ∧ ramping.falls[0]? = some runRamp ∧
    ramping.rises[0]? = some runRamp ∧ runRamp.granted = true ∧ runRamp.opMove = false ∧ runRamp.doms = [5] ∧
    (domSet live 5 { onDom with pwr := .stopping, pendingOn := true }).Canonical ∧
    (domGet (domSet live 5 { onDom with pwr := .stopping, pendingOn := true }) 5).pendingOn = true ∧
    thermalHold live = false ∧ isShed live 5 = false :=
  ⟨canonical_of (by decide +kernel), by decide +kernel, by decide +kernel, canonical_of (by decide +kernel),
    by decide +kernel, rfl, by decide +kernel, rfl, rfl, by decide +kernel, by decide +kernel,
    canonical_of (by decide +kernel), canonical_of (by decide +kernel), rfl, rfl, rfl, rfl, rfl,
    canonical_of (by decide +kernel), by decide +kernel, by decide +kernel, by decide +kernel⟩

theorem quiet_of {s : State} (h : (s.accs.isEmpty && s.sess.all (fun e => e.2.ahead.isEmpty) &&
    decide (∀ p, (s.part p).starting = false) && decide (∀ p, anyWaits (s.part p) = false)) = true) : Quiet s := by
  simp only [Bool.and_eq_true, List.isEmpty_iff, List.all_eq_true, decide_eq_true_eq] at h
  exact ⟨h.1.1.1, h.1.1.2, h.1.2, h.2⟩

theorem test_hyp_ramp_ends : Quiet ramping := quiet_of (by decide +kernel)

/-- A module whose operating point moves up to OP3. -/
def moving : State := match exec (.pmOp own 0xE0000000#32) live with
  | .next t => t
  | _ => live

/-- F0 wakes, and waits for the PLL of the Fabric MAC. -/
def unlocked : State := domSet (blkIn { outBlk with inReset := true }) 69 { onDom with pwr := .waking, clkGood := false, needPll := true }

theorem test_hyp_clocks : live.Canonical ∧ AccessGoes live own .owner 0xE0000018 ∧ live.power.brake = false ∧
    flag 0xE0000000#32 31 = true ∧ opMoving live = false ∧ field 0xE0000000#32 30 29 ≠ opCur live ∧
    moving.Canonical ∧ opMoving moving = true ∧ moveGranted moving = true ∧ blkExists 0x2C00 = true ∧
    (unlocked).Canonical ∧ Quiet unlocked ∧ 0x2C00 ∈ allBlks ∧ waitsPll unlocked 4 0x2C00 = true :=
  ⟨canonical_of (by decide +kernel), goes_of (by decide +kernel), rfl, by decide +kernel, by decide +kernel, by decide +kernel,
    canonical_of (by decide +kernel), by decide +kernel, by decide +kernel, by decide +kernel, canonical_of (by decide +kernel),
    quiet_of (by decide +kernel), by decide +kernel, by decide +kernel⟩

/-- A reading of p W. -/
def watts (p : Nat) : PowerReading := ⟨p, p, [800, 600, 300]⟩

theorem test_hyp_average : live.Canonical ∧ capW live = 1800 ∧
    0 < (((watts 1801).p1 : Rat) - effectiveCap live (watts 1801)) ∧
    ((watts 1800).p1 : Rat) - effectiveCap live (watts 1800) = 0 ∧
    ((watts 1746).p1 : Rat) - effectiveCap live (watts 1746) = -(3 * (capW live : Rat) / 100) ∧
    (((watts 1745).p1 : Rat) - effectiveCap live (watts 1745)) < -(3 * (capW live : Rat) / 100) :=
  ⟨canonical_of (by decide +kernel), by decide +kernel, by decide +kernel, by decide +kernel, by decide +kernel,
    by decide +kernel⟩

/-- At the floor with CAP_UNATTAINABLE, C07 shed; and with headroom of 100 periods, C03 and C05 shed. -/
def floored : State := setRaw (setStatus { live with power := { live.power with avg := [15, 15, 15], avgPoint := 3, shed := [7] } }
  31 true) 0xE0000018 0x03000000#32
def headroom : State := setStatus { live with ports := [], power := { live.power with shed := [3, 5], headRun := 100 } } 31 true
def headroom5 : State := setStatus { live with ports := [], power := { live.power with shed := [5], headRun := 100 } } 31 true

/-- F3 alone is up and is shed with C05 behind it. -/
def shedPort : State := setStatus { live with ports := [(3, upPort)], power := { live.power with shed := [15, 5], headRun := 100 } } 31 true

theorem test_hyp_shed_port : shedPort.Canonical ∧ Quiet shedPort ∧ keptPort shedPort = some 3 ∧ 12 + 3 ∈ shedPort.power.shed ∧
    100 ≤ shedPort.power.headRun :=
  ⟨canonical_of (by decide +kernel), quiet_of (by decide +kernel), by decide +kernel, by decide +kernel, by decide +kernel⟩

theorem test_hyp_shedding : floored.Canonical ∧ Quiet floored ∧ statusBit floored 31 = true ∧ atFloor floored = true ∧
    floored.power.headRun = 0 ∧ ((classOrder (field (pwrCfg floored) 26 24)).flatMap (shedClass floored)).find?
      (fun k => !floored.power.shed.contains k) = some 6 ∧ statusBit live 31 = false ∧
    headroom.Canonical ∧ Quiet headroom ∧ keptPort headroom = none ∧ headroom.power.shed.getLast? = some 5 ∧
    headroom5.Canonical ∧ Quiet headroom5 ∧ keptPort headroom5 = none ∧ headroom5.power.shed = [5] ∧ live.power.headRun < 100 :=
  ⟨canonical_of (by decide +kernel), quiet_of (by decide +kernel), by decide +kernel, by decide +kernel, rfl,
    by decide +kernel, by decide +kernel, canonical_of (by decide +kernel), quiet_of (by decide +kernel), by decide +kernel,
    rfl, canonical_of (by decide +kernel), quiet_of (by decide +kernel), by decide +kernel, rfl, by decide +kernel⟩

/-- A module whose first die is stretched, and whose brake has gone high again. -/
def strained : State := { live with power := { live.power with stretch := [true, false, false], brake := true, brakeHold := true } }

theorem test_hyp_peak_and_brake : strained.Canonical ∧ strained.power.stretch.length = 3 ∧ strained.power.droop.length = 3 ∧
    strained.power.stretch.getD (0 : Fin 3).val false = true ∧ strained.power.brake = true ∧ strained.power.brakeHold = true ∧
    strained.power.longPosted = false ∧ live.power.brake = false ∧ peakW live = 2400 :=
  ⟨canonical_of (by decide +kernel), rfl, rfl, rfl, rfl, rfl, rfl, rfl, by decide +kernel⟩

/-- A module in thermal hold, cool again; one whose CXL port X3 is up or down. -/
def cooled : State := setRaw { live with power := { live.power with junctions := List.replicate 80 84 } } 0xE0000228 0xA0000000#32
def cxlIn (k : Nat) : State := setRaw live 0xA00001C0 (BitVec.ofNat 32 (k * 2 ^ 29))
def temps (j : Nat) : ThermalReading := ⟨List.replicate 80 j, List.replicate 72 50⟩

/-- A sensor has read 110 °C twice. -/
def hot2 : State := { live with power := { live.power with hotRun := [(4, 2)] } }

theorem test_hyp_trip : hot2.Canonical ∧ Quiet hot2 ∧ thermalHold hot2 = false ∧
    (throttleStep hot2.power (temps 110)).hotRun.any (fun e => decide (3 ≤ e.2)) = true ∧
    ({ live with power := { live.power with coldRun := 99 } }).Canonical ∧ Quiet { live with power := { live.power with coldRun := 99 } } :=
  ⟨canonical_of (by decide +kernel), quiet_of (by decide +kernel), by decide +kernel, by decide +kernel,
    canonical_of (by decide +kernel), quiet_of (by decide +kernel)⟩

theorem test_hyp_heat : live.Canonical ∧ Quiet live ∧
    (throttleStep live.power (temps 96)).hotRun.any (fun e => decide (3 ≤ e.2)) = false ∧ thermalHold live = false ∧
    (5 ∈ tripDoms) ∧ cooled.Canonical ∧ Quiet cooled ∧ AccessGoes cooled own .owner 0xE0000230 ∧ thermalHold cooled = true ∧
    field 0xA5C30001#32 31 16 = 0xA5C3 ∧ flag 0xA5C30001#32 0 = true ∧
    cooled.power.junctions.all (fun t => decide (t < 85)) = true ∧ statusBit cooled 26 = false :=
  ⟨canonical_of (by decide +kernel), quiet_of (by decide +kernel), by decide +kernel, by decide +kernel, by decide +kernel,
    canonical_of (by decide +kernel), quiet_of (by decide +kernel), goes_of (by decide +kernel), by decide +kernel,
    by decide +kernel, by decide +kernel, by decide +kernel, by decide +kernel⟩

theorem test_hyp_cxl_and_warning : (cxlIn 2).Canonical ∧ Quiet (cxlIn 2) ∧ cxlState (cxlIn 2) (3 : Fin 4).val = 2 ∧
    (cxlIn 3).Canonical ∧ Quiet (cxlIn 3) ∧ cxlState (cxlIn 3) (3 : Fin 4).val = 3 ∧ retiredHalves (cxlIn 3) (3 : Fin 4).val ≠ 3 ∧
    (setStatus live 26 true).Canonical ∧ statusBit (setStatus live 26 true) 26 = true ∧
    live.boot.step ≠ .off ∧ State.reset.boot.step = .off :=
  ⟨canonical_of (by decide +kernel), quiet_of (by decide +kernel), by decide +kernel, canonical_of (by decide +kernel),
    quiet_of (by decide +kernel), by decide +kernel, by decide +kernel, canonical_of (by decide +kernel), by decide +kernel,
    by decide, rfl⟩

/-! ### Operands meet every clause: proof runs, retirement, patrol, ports, transport -/

/-- Requests for a proof run: a bank of C00's store and an upper frame. -/
def bankReq (r : Bool) : ProofReq := ⟨0, 5, 1, r⟩
def frameReq (r : Bool) : ProofReq := ⟨1, 30, 1, r⟩
def proving (r : Bool) : State := { live with proofs := [bankReq r, frameReq r] }

theorem test_hyp_proofs : (proving false).Canonical ∧ bankReq false ∈ (proving false).proofs ∧
    (∀ q ∈ (proving false).proofs, q.kind = (bankReq false).kind → q.index = (bankReq false).index → q = bankReq false) ∧
    mayProve (proving false) 0 5 = true ∧ (proving true).Canonical ∧ bankReq true ∈ (proving true).proofs ∧
    (∀ q ∈ (proving true).proofs, q.kind = (bankReq true).kind → q.index = (bankReq true).index → q = bankReq true) ∧
    (bankReq true).running = true ∧ Sparse.get [] (proving true).transients (0 * 2 ^ 56 + 5) = [] :=
  ⟨canonical_of (by decide +kernel), by decide +kernel, by decide +kernel, by decide +kernel, canonical_of (by decide +kernel),
    by decide +kernel, by decide +kernel, rfl, rfl⟩

/-- P2 holds frames 4, 7 and 5; frame 7 moves to frame 9, a row of C03 and a lane of link D1 are being replaced. -/
def moveReq : ProofReq := ⟨1, 7, 9, false⟩
def rowReq : ProofReq := ⟨0, 3 * 256 + 2, 0, false⟩
def laneReq : ProofReq := ⟨5, 1, 0, false⟩
def retiring : State := { live.setPart 2 { Part.free with state := .running, mem := { PartMem.none with pages := [4, 7, 5] } } with
  frames := [(4, 3), (5, 3), (7, 3), (9, 98)], mem := [(7 * 2 ^ 21 + 5, 9#8), (9 * 2 ^ 21 + 3, 4#8)], retire := [moveReq, rowReq, laneReq] }

theorem test_hyp_retirement : retiring.Canonical ∧ retiring.retire[0]? = some moveReq ∧ moveReq.kind = 1 ∧
    frameExchanging retiring moveReq.index = false ∧ holdsFrame retiring moveReq.index = some 2 ∧
    moveReq.index ≠ moveReq.count ∧ disturbedIn retiring moveReq.index = [] ∧ retiring.boot.fuses.frames.length < 1024 ∧
    5 < frameBytes ∧ 4 * 2 ^ 21 + 1 < moveReq.count * frameBytes ∧ retiring.retire[1]? = some rowReq ∧ rowReq.kind = 0 ∧
    (bankPlace (rowReq.index / 256)).1 = 0 :=
  ⟨canonical_of (by decide +kernel), rfl, rfl, by decide +kernel, by decide +kernel, by decide, by decide +kernel,
    by decide +kernel, by decide +kernel, by decide +kernel, rfl, rfl, by decide +kernel⟩

/-- Patrol is enabled and group 1 is at its last stripe. -/
def patrolling : State := setRaw { live with patrol := [(1, groupStripes - 1)] } 0x90000000 0xC01#32

theorem test_hyp_patrol : patrolling.Canonical ∧ flag (rawReg patrolling 0x90000000) 0 = true ∧
    domOn patrolling (domGroup (1 : Fin 4).val) = true ∧ groupStripes - 1 = Sparse.get 0 patrolling.patrol (1 : Fin 4).val ∧
    (∀ i, i < 8 → Sparse.get 0 patrolling.errs (stripeAddr (1 : Fin 4).val ((groupStripes - 1) % groupStripes) / 32 + i) = 0) ∧
    (∀ c, c < 36 → Sparse.get 0 patrolling.lineErrs (burstKey c) = 0) ∧ (5 + 1) % groupStripes ≠ 0 :=
  ⟨canonical_of (by decide +kernel), by decide +kernel, by decide +kernel, by decide +kernel, fun _ _ => rfl, fun _ _ => rfl,
    by decide +kernel⟩

/-- A module with fabric port 3 alone, in a state and after some flaps. -/
def portIn (st : PortState) (fl : List Nat) : State := { live with ports := [(3, ⟨st, fl, true, false, false⟩)], tick := 20000000 }

theorem test_hyp_ports : ∀ st : Fin 4,
    (portIn ([.training, .locking, .failed, .held].getD st.val .up) []).Canonical ∧
    portExists (portIn ([.training, .locking, .failed, .held].getD st.val .up) []) (3 : Fin 20).val = true := by
  intro st
  exact ⟨canonical_of (by revert st; decide +kernel), by revert st; decide +kernel⟩

theorem test_hyp_flaps : (portIn .up [11000000, 10000001]).Canonical ∧ (portGet (portIn .up [11000000, 10000001]) 3).state = .up ∧
    (portGet (portIn .up [11000000, 10000001]) 3).dead = false ∧
    portExists (portIn .up [11000000, 10000001]) (3 : Fin 20).val = true ∧ (portIn .up [11000000, 10000000]).Canonical :=
  ⟨canonical_of (by decide +kernel), by decide +kernel, by decide +kernel, by decide +kernel, canonical_of (by decide +kernel)⟩

/-- R353 leaves the enabling of priority pause to the image (a free value), so its clause has no witness of its own here. -/
theorem test_hyp_other_protocols : live.Canonical ∧ (portGet live (12 : Fin 20).val).state = .up ∧
    (portGet live (3 : Fin 20).val).state = .up ∧ (portIn .up []).Canonical ∧ (portGet (portIn .up []) (3 : Fin 20).val).state = .up ∧
    (portGet (portIn .up []) (3 : Fin 20).val).pfcRx = true :=
  ⟨canonical_of (by decide +kernel), by decide +kernel, by decide +kernel, canonical_of (by decide +kernel), by decide +kernel,
    by decide +kernel⟩

/-- Frames of a connection of P2 on F0.3 that wait for their acknowledgement, and a session being opened. -/
def sent (psn rx : Nat) : TxFrame := ⟨0x14, 3, psn, some (List.replicate 32 1#8), [List.replicate 32 2#8], true, rx⟩
def linked (fs : List TxFrame) : State := 
  { live with sess := [(3, { Link.free with state := .opening, gen := 65535 })], conns := [(5, { peerLink with unacked := fs })] }

theorem test_hyp_timers : (linked [sent 5 30, sent 6 31]).Canonical ∧ (linked [sent 5 31, sent 6 31]).Canonical ∧
    linkLive (linkGet (linked [sent 5 30, sent 6 31]) (.conn 5)) = true ∧
    portCarries (linked [sent 5 30, sent 6 31]) (linkGet (linked [sent 5 30, sent 6 31]) (.conn 5)).port = true ∧
    0 < (linkGet (linked [sent 5 30, sent 6 31]) (.conn 5)).sinceAck ∧
    (linkGet (linked [sent 5 30, sent 6 31]) (.conn 5)).unacked = sent 5 30 :: [sent 6 31] ∧ (sent 5 30).sent = true ∧
    (∀ g ∈ [sent 6 31], g.psn ≠ (sent 5 30).psn) ∧ (sent 5 30).rexmit < 31 ∧ (∀ g ∈ [sent 6 31], g.rexmit < 32) ∧
    (sent 5 31).rexmit = 31 ∧ (linkGet (linked [sent 5 31, sent 6 31]) (.conn 5)).unacked = sent 5 31 :: [sent 6 31] ∧
    isSession (.conn 5) = false ∧ (linkGet (linked []) (.sess 3)).state = .opening :=
  ⟨canonical_of (by decide +kernel), canonical_of (by decide +kernel), by decide +kernel, by decide +kernel, by decide +kernel,
    by decide +kernel, rfl, by decide +kernel, by decide, by decide +kernel, rfl, by decide +kernel, rfl, by decide +kernel⟩

/-! ### Operands meet every clause: frames and verbs -/

def pad (bs : List Byte) : List Byte := bs ++ List.replicate ((32 - bs.length % 32) % 32) 0#8
def split32 : Nat → List Byte → List (List Byte)
  | 0, _ => []
  | n + 1, bs => if bs = [] then [] else bs.take 32 :: split32 n (bs.drop 32)

/-- A frame header by Table 14-4: VERSION 1, the credits of a peer, no options. -/
def header (op flags dconn dgen psn ack n : Nat) : List Byte :=
  leBytes 1 1 ++ leBytes 1 op ++ leBytes 2 flags ++ leBytes 2 dconn ++ leBytes 2 dgen ++ leBytes 4 psn ++ leBytes 4 ack ++
  leBytes 4 1000 ++ leBytes 2 64 ++ leBytes 2 n ++ leBytes 4 0 ++ leBytes 4 0

/-- The granules of a frame that is a whole message: header, extension, payload, and a trailer under the key. -/
def granules (key : Option (List Byte)) (op dconn dgen psn ack : Nat) (ext : Option (List Byte)) (payload : List Byte) : List (List Byte) :=
  let pl := split32 200 (pad payload)
  let flags := 3 + (if ext.isSome then 4 else 0) + (if key.isSome then 8 else 0)
  let body := [header op flags dconn dgen psn ack pl.length] ++ (match ext with | some e => [pad e] | none => []) ++ pl
  match key with
  | none => body
  | some k => body ++ split32 2 (pad (trailerTag k body.flatten psn))

/-- What stands around the granules of a frame that the port takes; the VLAN ID of the image is a free value. -/
def headFor (port : Fin 21) : RxHead := ⟨portVlan live (codeOfPort port.val), portService live (codeOfPort port.val), true, 200, 0, 0⟩

theorem headOk_for {s : State} {port : Fin 21} (hr : s.boot.records = []) (h : portService s (codeOfPort port.val) = portService live (codeOfPort port.val)) :
    headOk s (codeOfPort port.val) (headFor port) = true := by
  have hv : portVlan s (codeOfPort port.val) = portVlan live (codeOfPort port.val) := by
    simp only [portVlan, imageRecord, hr]
    rfl
  simp [headOk, headFor, h, hv]

/-- The frame as it arrives, each granule with its check bytes. -/
def arriving (port : Fin 21) (gs : List (List Byte)) : RxFrame := ⟨port, headFor port, true, gs.map (fun g => g ++ c256Check g)⟩

/-- What `Brings` asks, as a test; the head of the frame is that of its port. -/
def bringsB (s : State) (f : RxFrame) (e : Endpoint) (m : RxMsg) : Bool :=
  (portCarries s (codeOfPort f.port.val) && f.fcsOk && (match frameGranules f.granules with
    | some (gs, 0) => decide (msgOf gs = m ∧ leAt (gs.headD []) 0 1 = 1) &&
      (!(isSession e || (linkGet s e).authFull) || tagged (linkGet s e).key gs m)
    | _ => false)) && (decide (m.dconn ≠ 0xFFF ∧ endpointOf m.dconn = some e) &&
  (decide ((linkGet s e).state = .opened) ||
    (!isSession e && decide ((linkGet s e).state = .opening) && openingTakes (linkGet s e) m)) &&
  (isSession e || !mgmtOnly s (linkGet s e).port)) &&
  (decide (m.dgen = (linkGet s e).gen) && decide ((linkGet s e).port = codeOfPort f.port.val) &&
  decide (m.payload.length ≤ (linkGet s e).maxLen) && decide (m.psn = (linkGet s e).psnRx)) &&
  (decide ((linkGet s e).ahead = []) && !heldUp s e m) &&
  decide (s.boot.records = [] ∧ portService s (codeOfPort f.port.val) = portService live (codeOfPort f.port.val))

theorem brings_of {s : State} {f : RxFrame} {e : Endpoint} {m : RxMsg} (hf : f.head = headFor f.port)
    (h : bringsB s f e m = true) : Brings s f e m := by
  simp only [bringsB, Bool.and_eq_true, decide_eq_true_eq, Bool.or_eq_true, Bool.not_eq_true'] at h
  obtain ⟨⟨⟨⟨⟨⟨a1, a2⟩, a3⟩, ⟨a4, a5⟩, a6⟩, ⟨⟨a7, a8⟩, a9⟩, a10⟩, a11, a12⟩, a13, a14⟩ := h
  refine ⟨a1, a2, hf ▸ headOk_for a13 a14, ?_, a4, ?_, ?_, a7, a8, a9, a10, a11, a12⟩
  · split at a3
    · rename_i gs hg
      simp only [Bool.and_eq_true, decide_eq_true_eq, Bool.or_eq_true, Bool.not_eq_true', Bool.or_eq_false_iff] at a3
      refine ⟨gs, hg, a3.1.1, a3.1.2, fun hk => ?_⟩
      rcases a3.2 with hn | ht
      · simp [hn.1, hn.2] at hk
      · exact ht
    · cases a3
  · rcases a5 with h | ⟨⟨h1, h2⟩, h3⟩
    · exact Or.inl h
    · exact Or.inr ⟨h1, h2, h3⟩
  · intro hs
    rcases a6 with h | h
    · rw [hs] at h; cases h
    · exact h

/-- P2 with one connection, C005 on F0.3, and a run of one block of sync objects. -/
def wired (st : LinkState) : State := { live.setPart 2 { Part.free with state := .running, soBase := 1, conns := 1, connMap := [5], mem := { PartMem.none with pages := [3, 4] } } with
  conns := [(5, { peerLink with state := st, unacked := [sent 8 0] })], soBlk := [(1, ⟨true, false, 2⟩)] }
def connGranules (op : Nat) (ext payload : Option (List Byte)) : List (List Byte) := granules none op 5 7 77 8 ext (payload.getD [])

theorem test_hyp_connection_frames : (wired .opened).Canonical ∧ ∀ op : Fin 9,
    let g := connGranules ([0x01, 0x03, 0x04, 0x05, 0x14, 0x15, 0x16, 0x17, 0x18].getD op.val 0) (some (leBytes 20 1)) none
    Brings (wired .opened) (arriving 3 g) (.conn 5) (msgOf g) ∧
    (msgOf g).op = [0x01, 0x03, 0x04, 0x05, 0x14, 0x15, 0x16, 0x17, 0x18].getD op.val 0 := by
  refine ⟨canonical_of (by decide +kernel), fun op => ⟨brings_of rfl ?_, ?_⟩⟩ <;> revert op <;> decide +kernel

/-- The OPEN_ACK of a peer that proves itself. -/
def proving5 : List (List Byte) := connGranules 0x03 (some (leBytes 32 1)) (some (hmac384 [] []))

theorem test_hyp_opening : (wired .opening).Canonical ∧
    Brings (wired .opening) (arriving 3 proving5) (.conn 5) (msgOf proving5) ∧ (msgOf proving5).op = 0x03 ∧
    (linkGet (wired .opening) (.conn 5)).state = .opening :=
  ⟨canonical_of (by decide +kernel), brings_of rfl (by decide +kernel), by decide +kernel, rfl⟩

/-- P2 with a descriptor in its table, for a row of 32 BF16 elements in page 1; and its last pages in these exchanges. -/
def directing (xs : List Exchange) : State :=
  { (wired .opened).modPart 2 (fun x => { x with desc := 1, mem := { x.mem with pages := [3, 4, 5], exch := xs } }) with
    mem := Sparse.setRun 0#8 [] (3 * frameBytes) (leBytes 64 (2 ^ 511 + 0x200000 + 31 * 2 ^ 144 + 2 ^ 208 + 8 * 2 ^ 340)) }
def directGranules : List (List Byte) := connGranules 0x14
  (some (leBytes 4 0x80000000 ++ leBytes 8 0 ++ leBytes 8 64 ++ leBytes 1 8 ++ leBytes 1 0 ++ leBytes 2 1))
  (some (List.replicate 64 0x3F#8))

theorem test_hyp_send_data : ∀ xs ∈ [[], [⟨1, 2⟩]], (directing xs).Canonical ∧
    Brings (directing xs) (arriving 3 directGranules) (.conn 5) (msgOf directGranules) ∧ (msgOf directGranules).op = 0x14 ∧
    ((atTurn (directing xs) (arriving 3 directGranules) (.conn 5) (msgOf directGranules)).isSome = true ↔ xs = []) := by
  intro xs hx
  exact ⟨canonical_of (by revert xs; decide +kernel), brings_of rfl (by revert xs; decide +kernel), by decide +kernel,
    by revert xs; decide +kernel⟩

/-- A SIGNAL to object n. -/
def signalTo (n rop : Nat) : List (List Byte) :=
  connGranules 0x13 (some (leBytes 2 n ++ leBytes 1 rop ++ leBytes 1 2 ++ leBytes 4 5)) none

theorem test_hyp_remote_signals : ∀ n ∈ [63, 64, 127, 128],
    Brings (wired .opened) (arriving 3 (signalTo n 1)) (.conn 5) (msgOf (signalTo n 1)) ∧ (msgOf (signalTo n 1)).op = 0x13 ∧
    leAt (msgOf (signalTo n 1)).ext 0 2 = n ∧ leAt (msgOf (signalTo n 1)).ext 3 1 = (linkGet (wired .opened) (.conn 5)).part ∧
    (signalStatus (wired .opened) 2 n = 0 ↔ n = 64 ∨ n = 127) := by
  intro n hn
  exact ⟨brings_of rfl (by revert n; decide +kernel), by revert n; decide +kernel, by revert n; decide +kernel,
    by revert n; decide +kernel, by revert n; decide +kernel⟩

/-- A frame on H0.0 from its granules of 36 bytes, check bytes on top. -/
def wireFrame (ns : List Nat) : RxFrame := ⟨12, headFor 12, true, ns.map (leBytes 36)⟩

/-- The message of those granules. -/
def wireMsg (ns : List Nat) : RxMsg := msgOf (ns.map (leBytes 32))

/-- The session S02 of the device owner on H0.0, and frames of it, tagged under its key: one for each verb. -/
def verbLink : Link := { ownerLink with key := List.replicate 48 5#8, gen := 3, psnRx := 100, psnTx := 50, peerIdx := 4, peerClimit := 100 }
def talking : State := { live with sess := [(2, verbLink)] }

def writeFrame : List Nat := [0x8b33197d000000000000000000000040000003e8000000000000006400030802000b1001,
  0xf7ba4ae06fdef622fad8565f15caefc8d61bd1d82ba586a1974d475fb590e934b08c605a,
  0xc77ab55d00000000000000000000000000000000cab1cb0f4a4ca55ff26172de532ca6f0]
def readFrame : List Nat := [0xe2a0b629000000000000000000000040000003e8000000000000006400030802000b1101,
  0x3572f8eb20234e8b574516940a35c5b861b9d299a427bb2726a6bde0edd4cdf92a18edc3,
  0xbb6e98e800000000000000000000000000000000140b40f81925434e40d2f8b2104675c8]
def dumpFrame : List Nat := [0x4d17f94b000000000000000000000040000003e8000000000000006400030802000b2401,
  0xef9d52676ace56c43465f70adf1c3f5f7c5ddc33f2660c5ed4d05b48529e03130f93e2c3,
  0x75216e540000000000000000000000000000000067b44063d60df3aabb88a35dd0bade65]
def connSetFrame : List Nat := [0x2484561f000000000000000000000040000003e8000000000000006400030802000b2501,
  0xb502b6f4e78238734c445ee74c7568447bdb6316b52de432abeff9d355f4a1f01c30e5b3,
  0x5203618100000000000000000000000000000000ea55a5f14f326a24992ed19d910e8984]
def commSetFrame : List Nat := [0x9f2cbae3000000000000000000000040000003e8000000000000006400030802000b2601,
  0x55b88664bbf189a70a8217efb23a23bd63be096ff834de3a585c061e72b81c112e9a7283,
  0xcdc816bc00000000000000000000000000000000949c95bcffbace6471dfd0a0cfb78f48]
def regReadFrame : List Nat := [0xf4617f06000000000000000000000040000003e8000000000000006400030802000b2001,
  0xf0029df6d670cb6ad9f4c506760bebee8e050e5cb70b8d9b69c1be83f9f856cb99ec6e69,
  0x260f7abc0000000000000000000000000000000025bd9c8042d5d3ece31b08208ba1241d]
def regWriteFrame : List Nat := [0x9df2d052000000000000000000000040000003e8000000000000006400030802000b2101,
  0x10b3b8b1496778564a21520b16b2bcaf9941c3c21913a4aabf5200eaf539be27dae576e9,
  0x43a620420000000000000000000000000000000052d9aabdea9102f6b35f9c5fd0e1f47e]
def counterFrame : List Nat := [0x4fc993fa000000000000000000000040000003e8000000000000006400030802000b2301,
  0xba0ec82eefcba0867c343c93f47b730f90dd0f9f92c41495cd3ccae52abfd7689bd22fdc,
  0x821ad9fd00000000000000000000000000000000b4a1bec8b9a1851d3b29f47663bf8d9e]
def admission : List Nat := [0x4c30ab28000000000000000000030040000003e8000000000000006400030802000b3001,
  0xf73cef3f0000000100010003000000100001000100000000000000000000000a00000002,
  0x352e3660000000000000000000000000000000000000000000000000000000000000004d,
  0xab9e7550000000000010000000000400000004000000000000000000000000000000000,
  0xdbe03c252a33a5318803cb036441778f45e2dabd6ebd1e266e50aa11ff8ea0fdb97b9aeb,
  0xc0354ff400000000000000000000000000000000af037170149a567b27b3dc8e6ae84347]
def loading : List Nat := [0x724568a000000000000000000020040000003e8000000000000006400030802000b3101,
  0x4d5e3b4600000000002000000000000000000001000000000000004d0000000000000002,
  0x2df613a80000000000000000000000000000000000000000002000400000000000200020,
  0xda0cba793d879e3444c3a40e36f23408fb2f717021e8323858699b9959e84dd83d24af67,
  0x23d9218a00000000000000000000000000000000c44fe1f814f0054b6e0e7571178341d8]
def starting : List Nat := [0x365f44d7000000000000000000000040000003e8000000000000006400030802000f3201,
  0x55581a150000000000000000000000000000000000000000000000000000000000000002,
  0xd56819959a0c23e9d13eaa8e2763c4a72faee5a58e591e1c8d6cdba522d8b802bcd5dffc,
  0xd6d4ba3300000000000000000000000000000000a6a6a62da5e977c938b2db35f557ccf8]
def stopBoundaryFrame : List Nat := [0x5fcceb83000000000000000000000040000003e8000000000000006400030802000f3301,
  0x55581a150000000000000000000000000000000000000000000000000000000000000002,
  0xdd801f722f44018e55c9405293cfcd2dae4ce53ff73e4f2c05430758ef7efeeb7a078511,
  0xd008bb110000000000000000000000000000000062055518ae5daae6ccbc8e5aa256e057]
def stopHaltFrame : List Nat := [0x5fcceb83000000000000000000000040000003e8000000000000006400030802000f3301,
  0x3ccbb5410000000000000000000000000000000000000000000000000000000000000102,
  0xcd094773366c6156417cac6b006edb60b0d7c860044cf571d9caebb3ab6e2baa8758ed8c,
  0x9fb6eb36000000000000000000000000000000002dcafeb6b06330748b83b34a84f0b9f0]
def releasing : List Nat := [0x5d128132000000000000000000000040000003e8000000000000006400030802000f3401,
  0x55581a150000000000000000000000000000000000000000000000000000000000000002,
  0x2c07840726d80f26e246ba90f642421d4cf78d67fa3f427938850cfde3dee1448b20d319,
  0x5b61ddd200000000000000000000000000000000d08cc0acd2f3ff88eae39a86e610d969]

/-- What `WholeVerb` asks, as a test. -/
def wholeB (s : State) (ns : List Nat) (op : Nat) : Bool :=
  let m := wireMsg ns
  bringsB s (wireFrame ns) (.sess 2) m && m.flags.testBit 0 && m.flags.testBit 1 &&
    !verbDenied s 2 ⟨m.op, m.psn, 0, m.ext, m.payload⟩ && decide (m.op = op)

theorem whole_of {s : State} {ns : List Nat} {op : Nat} (h : wholeB s ns op = true) :
    WholeVerb s (wireFrame ns) 2 (wireMsg ns) ∧ (wireMsg ns).op = op := by
  simp only [wholeB, Bool.and_eq_true, decide_eq_true_eq, Bool.not_eq_true'] at h
  exact ⟨⟨brings_of rfl h.1.1.1.1, h.1.1.1.2, h.1.1.2, h.1.2⟩, h.2⟩

/-- A verb of the session takes effect. -/
theorem turn_of {s : State} {f : RxFrame} {n : Fin 64} {m : RxMsg} (h : (verbTurn s f n m).isSome = true) :
    ∃ u v, verbTurn s f n m = some (u, v) := by
  obtain ⟨⟨u, v⟩, h⟩ := Option.isSome_iff_exists.mp h
  exact ⟨u, v, h⟩

/-- A SIGNAL of the session to object 70 of P0. -/
def signalGranules : List (List Byte) := granules (some verbLink.key) 0x13 0x802 3 100 0
  (some (leBytes 2 70 ++ leBytes 1 1 ++ leBytes 1 0 ++ leBytes 4 5)) []

theorem test_hyp_host_signal : WholeVerb talking (arriving 12 signalGranules) 2 (msgOf signalGranules) ∧
    (msgOf signalGranules).op = 0x13 ∧ ∃ u v, verbTurn talking (arriving 12 signalGranules) 2 (msgOf signalGranules) = some (u, v) :=
  ⟨⟨brings_of rfl (by decide +kernel), by decide +kernel, by decide +kernel, by decide +kernel⟩, by decide +kernel,
    turn_of (by decide +kernel)⟩

theorem test_hyp_session_verbs : ∀ x ∈ [(0x10, writeFrame), (0x11, readFrame), (0x24, dumpFrame), (0x25, connSetFrame),
    (0x26, commSetFrame), (0x20, regReadFrame), (0x21, regWriteFrame), (0x23, counterFrame)],
    (WholeVerb talking (wireFrame x.2) 2 (wireMsg x.2) ∧ (wireMsg x.2).op = x.1) ∧
    ∃ u v, verbTurn talking (wireFrame x.2) 2 (wireMsg x.2) = some (u, v) := by
  intro x hx
  exact ⟨whole_of (by revert x; decide +kernel), turn_of (by revert x; decide +kernel)⟩

/-- A verb of S02 stays one in every state with the same session and the same port. -/
theorem whole_as {s t : State} {ns : List Nat} (h : WholeVerb s (wireFrame ns) 2 (wireMsg ns))
    (hp : portCarries t 16 = true) (hl : linkGet t (.sess 2) = linkGet s (.sess 2)) (hu : heldUp t (.sess 2) (wireMsg ns) = false)
    (hr : t.boot.records = []) (hs : portService t 16 = portService live 16)
    (hd : verbDenied t 2 ⟨(wireMsg ns).op, (wireMsg ns).psn, 0, (wireMsg ns).ext, (wireMsg ns).payload⟩ = false) :
    WholeVerb t (wireFrame ns) 2 (wireMsg ns) := by
  obtain ⟨⟨_, a2, _, a3, a5, a6, _, a7, a8, a9, a10, a11, _⟩, b2, b3, _⟩ := h
  rw [← hl] at a3 a6 a7 a8 a9 a10 a11
  exact ⟨⟨hp, a2, headOk_for (port := 12) hr hs, a3, a5, a6, (fun h => by cases h), a7, a8, a9, a10, a11, hu⟩, b2, b3, hd⟩

def verbFreeB (s : State) (p : Fin 16) : Bool :=
  decide ((s.part p).active = none ∧ (s.part p).stopWaiting = [] ∧ (s.part p).queue = [] ∧ s.admits = [] ∧
    admittingPart s = none ∧ s.dump.busy ≠ some p ∧ thermalHold s = false)

theorem verbFree_of {s : State} {p : Fin 16} (h : verbFreeB s p = true) : VerbFree s p := by
  obtain ⟨a, b, c, d, e, f, g⟩ := of_decide_eq_true h
  exact ⟨a, b, c, d, e, f, g⟩

/-- P2 in a state, with two pages, two blocks of sync objects and one connection. -/
def jobIn (st : PartState) : State := talking.setPart 2 
  { Part.free with state := st, soBase := 4, soCount := 1, desc := 5, conns := 1, connMap := [7], resumable := true, mem := { PartMem.none with pages := [3, 4] } }

/-- The record that `admission` carries, as the model reads it. -/
def admitted : AdmitRecord := (parseAdmit (wireMsg admission).payload.flatten (hideMask verbLink.key "ADMIT-CRED" 100)).getD
  ⟨0, 0, 0, 0, 0, 0, 0, 0, 0, 0, 0, 0, 0, [], []⟩

theorem test_hyp_admit : talking.Canonical ∧ WholeVerb talking (wireFrame admission) 2 (wireMsg admission) ∧
    (wireMsg admission).op = 0x30 ∧ (linkGet talking (.sess 2)).level = .owner ∧ VerbFree talking 2 ∧ (talking.part 2).state = .free :=
  have h := whole_of (s := talking) (ns := admission) (op := 0x30) (by decide +kernel)
  ⟨canonical_of (by decide +kernel), h.1, h.2, rfl, verbFree_of (by decide +kernel), rfl⟩

theorem test_hyp_admit_record :
    parseAdmit (wireMsg admission).payload.flatten (hideMask verbLink.key "ADMIT-CRED" 100) = some admitted ∧
    admitted.part = 2 ∧ admitCode talking admitted = none ∧ leAt (wireMsg admission).payload.flatten 0 1 = 2 ∧
    (linkGet talking (.sess 2)).key = verbLink.key ∧ (wireMsg admission).psn = 100 := by
  refine ⟨?_, by decide +kernel, by decide +kernel, by decide +kernel, rfl, by decide +kernel⟩
  have h : (parseAdmit (wireMsg admission).payload.flatten (hideMask verbLink.key "ADMIT-CRED" 100)).isSome = true := by
    decide +kernel
  obtain ⟨r, hr⟩ := Option.isSome_iff_exists.mp h
  simp only [admitted, hr, Option.getD_some]

theorem test_hyp_load : (jobIn .stopped).Canonical ∧ WholeVerb (jobIn .stopped) (wireFrame loading) 2 (wireMsg loading) ∧
    (wireMsg loading).op = 0x31 ∧ VerbFree (jobIn .stopped) 2 ∧
    parseLoad (wireMsg loading).payload.flatten = some ⟨2, 77, true, 0, false, 0x200000, 0x200020, 0x200040⟩ ∧
    leAt (wireMsg loading).payload.flatten 0 1 = 2 ∧ loadAllowed ((jobIn .stopped).part 2).state = true ∧
    127 < 64 * (((jobIn .stopped).part 2).soCount + 1) :=
  have h := whole_of (s := jobIn .stopped) (ns := loading) (op := 0x31) (by decide +kernel)
  ⟨canonical_of (by decide +kernel), h.1, h.2, verbFree_of (by decide +kernel), by decide +kernel, by decide +kernel, rfl,
    by decide +kernel⟩

/-- The same with the cores asleep. -/
def asleep : State := { jobIn .loaded with doms := (List.range 26).map (fun d => (d + 64, onDom)) }

theorem test_hyp_start : (jobIn .stopped).Canonical ∧ WholeVerb (jobIn .stopped) (wireFrame starting) 2 (wireMsg starting) ∧
    (wireMsg starting).op = 0x32 ∧ leAt (wireMsg starting).ext 0 1 = 2 ∧ VerbFree (jobIn .stopped) 2 ∧
    ((jobIn .stopped).part 2).resumable = true ∧ coresOn (jobIn .stopped) ((jobIn .stopped).part 2) = true ∧
    asleep.Canonical ∧ WholeVerb asleep (wireFrame starting) 2 (wireMsg starting) ∧ VerbFree asleep 2 ∧
    (asleep.part 2).state = .loaded ∧ coresOn asleep (asleep.part 2) = false :=
  have h := whole_of (s := jobIn .stopped) (ns := starting) (op := 0x32) (by decide +kernel)
  ⟨canonical_of (by decide +kernel), h.1, h.2, by decide +kernel, verbFree_of (by decide +kernel), rfl, by decide +kernel,
    canonical_of (by decide +kernel), whole_as h.1 (by decide +kernel) rfl (by decide +kernel) rfl rfl (by decide +kernel),
    verbFree_of (by decide +kernel), rfl, by decide +kernel⟩

/-- A partition whose streams have nothing in flight is settled. -/
theorem settled_idle {x : Part} (h : ∀ st, (x.stream st).flight = []) (hc : x.colls = []) : Settled x :=
  ⟨fun st f hf => (by rw [h st] at hf; cases hf), hc⟩

theorem test_hyp_stop : (jobIn .running).Canonical ∧ VerbFree (jobIn .running) 2 ∧
    WholeVerb (jobIn .running) (wireFrame stopBoundaryFrame) 2 (wireMsg stopBoundaryFrame) ∧
    (wireMsg stopBoundaryFrame).op = 0x33 ∧ leAt (wireMsg stopBoundaryFrame).ext 0 1 = 2 ∧
    leAt (wireMsg stopBoundaryFrame).ext 1 1 = 0 ∧
    WholeVerb (jobIn .running) (wireFrame stopHaltFrame) 2 (wireMsg stopHaltFrame) ∧ (wireMsg stopHaltFrame).op = 0x33 ∧
    leAt (wireMsg stopHaltFrame).ext 0 1 = 2 ∧ leAt (wireMsg stopHaltFrame).ext 1 1 = 1 ∧
    Settled ((jobIn .running).part 2) ∧ (∀ st, ∀ q ∈ (((jobIn .running).part 2).stream st).flight, q.wait ≠ .pref) :=
  have h := whole_of (s := jobIn .running) (ns := stopBoundaryFrame) (op := 0x33) (by decide +kernel)
  have k := whole_of (s := jobIn .running) (ns := stopHaltFrame) (op := 0x33) (by decide +kernel)
  ⟨canonical_of (by decide +kernel), verbFree_of (by decide +kernel), h.1, h.2, by decide +kernel, by decide +kernel, k.1, k.2,
    by decide +kernel, by decide +kernel, settled_idle (fun st => by cases st <;> rfl) rfl, fun st q hq => by cases st <;> cases hq⟩

theorem test_hyp_release : (jobIn .faulted).Canonical ∧ VerbFree (jobIn .faulted) 2 ∧
    WholeVerb (jobIn .faulted) (wireFrame releasing) 2 (wireMsg releasing) ∧ (wireMsg releasing).op = 0x34 ∧
    leAt (wireMsg releasing).ext 0 1 = 2 ∧ ((jobIn .faulted).part 2).state = .faulted ∧ VerbFree (jobIn .running) 2 ∧
    WholeVerb (jobIn .running) (wireFrame releasing) 2 (wireMsg releasing) ∧ ((jobIn .running).part 2).state = .running :=
  have h := whole_of (s := jobIn .faulted) (ns := releasing) (op := 0x34) (by decide +kernel)
  ⟨canonical_of (by decide +kernel), verbFree_of (by decide +kernel), h.1, h.2, by decide +kernel, rfl,
    verbFree_of (by decide +kernel),
    whole_as h.1 (by decide +kernel) rfl (by decide +kernel) rfl rfl (by decide +kernel), rfl⟩

/-- P2 in the middle of an ADMIT, of a STOP and of a scrub; and with a verb in its queue or the module's. -/
def verbOf (v : JobVerb) : VerbReq := ⟨v, ⟨2, 3, 99⟩, false⟩
def admitting2 : State := talking.setPart 2 { Part.free with admitting := true, active := some (verbOf (.admission admitted)), mem := { PartMem.none with pages := [3, 4] } }
def rested : Stream := { Stream.idle with state := .stopped }
def stopping2 : State := talking.setPart 2
  { Part.free with state := .stopping, stopMode := .boundary, stopTarget := some 5, stopWaiting := [⟨2, 3, 99⟩], sF := rested, sB := rested, sU := rested }
def scrubbing2 : State := { talking.setPart 2 { Part.free with state := .scrubbing, mem := { PartMem.none with pages := [3] } } with frames := [(3, 3)] }
def queued : State := (jobIn .loaded).modPart 2 (fun x => { x with queue := [verbOf .start, verbOf .release] })
def queuedAdmit : State := (jobIn .loaded).modPart 2 (fun x => { x with queue := [verbOf (.admission admitted)] })
def waiting : State := { jobIn .loaded with admits := [verbOf (.admission admitted)] }

theorem test_hyp_verb_ends : admitting2.Canonical ∧ admittingPart admitting2 = some 2 ∧ 4 ∈ (admitting2.part 2).mem.pages ∧
    2 ^ 21 - 1 < frameBytes ∧ (admitting2.part 2).active = some (verbOf (.admission admitted)) ∧
    stopping2.Canonical ∧ (stopping2.part 2).state = .stopping ∧
    streamsStopped (stopping2.part 2) = true ∧ scrubbing2.Canonical ∧ (scrubbing2.part 2).state = .scrubbing ∧
    partInflight (scrubbing2.part 2) = 0 ∧ (scrubbing2.part 2).mem.prefQ = [] ∧ (scrubbing2.part 2).mem.exch = [] ∧
    thermalHold scrubbing2 = false ∧ 3 ∈ heldFrames (scrubbing2.part 2).mem ∧ Sparse.get 0 scrubbing2.frames 3 ≠ 99 :=
  ⟨canonical_of (by decide +kernel), by decide +kernel, by decide +kernel, by decide +kernel, rfl, canonical_of (by decide +kernel),
    rfl, by decide +kernel, canonical_of (by decide +kernel), rfl, by decide +kernel, rfl, rfl, by decide +kernel,
    by decide +kernel, by decide +kernel⟩

theorem test_hyp_verb_queue : queued.Canonical ∧ (queued.part 2).queue = verbOf .start :: [verbOf .release] ∧
    verbBusy queued 2 = false ∧ dumpHolds queued 2 JobVerb.start = false ∧ JobVerb.start.admits = none ∧
    queuedAdmit.Canonical ∧ (queuedAdmit.part 2).queue = verbOf (.admission admitted) :: [] ∧ verbBusy queuedAdmit 2 = false ∧
    dumpHolds queuedAdmit 2 (.admission admitted) = false ∧ (JobVerb.admission admitted).admits.isSome = true ∧
    waiting.Canonical ∧ waiting.admits = verbOf (.admission admitted) :: [] ∧ admittingPart waiting = none ∧
    (JobVerb.admission admitted).admits = some 2 :=
  ⟨canonical_of (by decide +kernel), rfl, by decide +kernel, by decide +kernel, rfl, canonical_of (by decide +kernel), rfl,
    by decide +kernel, by decide +kernel, rfl, canonical_of (by decide +kernel), rfl, by decide +kernel, by decide +kernel⟩

/-- A module that holds the device owner's credential and has two sessions, and an OPEN for a session. -/
def credited : State := { live with boot := { live.boot with owner := List.replicate 48 6#8 }, sess := [(0, verbLink), (1, verbLink)] }
def openGranules : List (List Byte) := granules none 2 0xFFF 0 200 0
  (some (leBytes 4 0 ++ leBytes 2 7 ++ leBytes 2 1 ++ leBytes 2 64 ++ leBytes 6 0 ++ leBytes 16 0x99)) []

theorem test_hyp_session_open : credited.Canonical ∧ portCarries credited (codeOfPort (12 : Fin 21).val) = true ∧
    headOk credited (codeOfPort (12 : Fin 21).val) (arriving 12 openGranules).head = true ∧
    frameGranules (arriving 12 openGranules).granules = some (openGranules, 0) ∧ leAt (openGranules.headD []) 0 1 = 1 ∧
    (msgOf openGranules).dconn = 0xFFF ∧ (msgOf openGranules).op = 2 ∧ (helloOf (msgOf openGranules).ext).session = true ∧
    (msgOf openGranules).payload.length ≤ portMaxLen credited 16 ∧
    sessionCredential credited (helloOf (msgOf openGranules).ext).a (helloOf (msgOf openGranules).ext).b =
      some credited.boot.owner ∧ (∀ e ∈ credited.sess, e.2.state ≠ .opening) ∧ freeSession credited = some 2 :=
  ⟨canonical_of (by decide +kernel), by decide +kernel, headOk_for (port := 12) rfl rfl, by decide +kernel, by decide +kernel,
    by decide +kernel, by decide +kernel, by decide +kernel, by decide +kernel, by decide +kernel, by decide +kernel, by decide +kernel⟩

/-- C005 as CONN_SET leaves it at the respondent, and the OPEN of its peer, connection 1 of P6 there. -/
def awaited : State := { wired .opened with conns := [(5, { peerLink with state := .opening, peerPart := 6, peerConn := 1 })] }
def peerGranules : List (List Byte) := granules none 2 0xFFF 0 200 0
  (some (leBytes 1 1 ++ leBytes 1 2 ++ leBytes 1 0 ++ leBytes 1 6 ++ leBytes 2 9 ++ leBytes 2 4 ++ leBytes 2 64 ++ leBytes 1 3 ++
    leBytes 1 2 ++ leBytes 1 1 ++ leBytes 3 0 ++ leBytes 16 0x77)) []

theorem test_hyp_peer_open : awaited.Canonical ∧ portCarries awaited (codeOfPort (3 : Fin 21).val) = true ∧
    headOk awaited (codeOfPort (3 : Fin 21).val) (arriving 3 peerGranules).head = true ∧
    frameGranules (arriving 3 peerGranules).granules = some (peerGranules, 0) ∧ leAt (peerGranules.headD []) 0 1 = 1 ∧
    (msgOf peerGranules).dconn = 0xFFF ∧ (msgOf peerGranules).op = 2 ∧ (helloOf (msgOf peerGranules).ext).session = false ∧
    (msgOf peerGranules).payload.length ≤ portMaxLen awaited 3 ∧ mgmtOnly awaited 3 = false ∧
    respondent awaited 3 (helloOf (msgOf peerGranules).ext) = some (.conn 5) ∧ (linkGet awaited (.conn 5)).authFull = false :=
  ⟨canonical_of (by decide +kernel), by decide +kernel, headOk_for (port := 3) rfl rfl, by decide +kernel, by decide +kernel,
    by decide +kernel, by decide +kernel, by decide +kernel, by decide +kernel, by decide +kernel, by decide +kernel, rfl⟩

/-! ### Operands meet every clause: stream rows -/

/-- A command word and a descriptor from their fields, each at its lowest bit (Tables 3-2, 3-7). -/
def word (fs : List (Nat × Nat)) : Granule := BitVec.ofNat 256 (fs.foldl (fun n f => n + f.2 * 2 ^ f.1) 0)
def entry (fs : List (Nat × Nat)) : BitVec 512 := BitVec.ofNat 512 (fs.foldl (fun n f => n + f.2 * 2 ^ f.1) (2 ^ 511))

/-- P2 runs: one core, six upper pages, the second and third pinned, one connection, a communicator of one rank, an open
region slot and one parameter group. -/
def running2 : Part := { Part.free with state := .running, desc := 16, groups := 1, conns := 1, connMap := [5], nextSeq := 10, comms := [(1, some ⟨1, 0, [0], 0⟩)], mem := { PartMem.none with pages := [0, 1, 2, 3, 4, 5], flags := [(1, 1), (2, 1)], regions := [(3, { Region.free with state := .opened, frames := [(0, lowerBase + 1)] })] } }

/-- A parameter group that skips untouched weights (Table 12-2), in page 0. -/
def groupBytes : Sparse Byte := [(0x1003, 0x3F#8), (0x1007, 0x3F#8), (0x101E, 0x80#8), (0x101F, 0x3F#8), (0x102A, 0x20#8), (0x103F, 0x80#8)]

/-- P2 with g at the head of its stream t and the descriptors fetched. -/
def headed (t : StreamTag) (g : Granule) (ds : List (BitVec 512)) : State :=
  { (live.setPart 2 running2).setStream 2 t { Stream.idle with state := .running, pc := 0x100000, head := some g, waitMet := true, descCache := ds.zipIdx.map (fun e => (e.2, e.1)) } with
    conns := [(5, peerLink)], mem := groupBytes }

/-- What `Offered`, `AtHead`, `Ready` and `Begins` ask, as tests; and the state that the fetch leaves. -/
def fetchedState (c : StreamCmd) (s : State) (t : StreamTag) (g : Granule) : State :=
  (Op.exec (Op.each (c.descs s 2 g) (fetchDesc 2 t (c.descs s 2 g))) s).2
def offeredB (c : StreamCmd) (s : State) (t : StreamTag) (g : Granule) : Bool :=
  canIssue s 2 t && decide ((s.stream 2 t).head = some g) && !waitPending (s.stream 2 t) g && opcodeKnown (cOpcode g) &&
  !(decide (cOpcode g = 0x30) && !vopFuncs.contains (vFunc g)) && c.matches_ g
def atHeadB (c : StreamCmd) (s : State) (t : StreamTag) (g : Granule) : Bool :=
  offeredB c s t g && !(held (s.part 2) t g && !pairBad (s.part 2) t g) && (earlyChecks (s.part 2) t g).isEmpty
def fetchedB (c : StreamCmd) (s : State) (t : StreamTag) (g : Granule) : Bool :=
  match (Op.exec (Op.each (c.descs s 2 g) (fetchDesc 2 t (c.descs s 2 g))) s).1 with
  | .ok _ => true
  | .error _ => false
def readyB (c : StreamCmd) (s : State) (t : StreamTag) (g : Granule) : Bool :=
  atHeadB c s t g && fetchedB c s t g && (failedChecks c (fetchedState c s t g) 2 t g).isEmpty &&
  !c.hold (fetchedState c s t g) 2 t g
def beginsB (c : StreamCmd) (s : State) (t : StreamTag) (g : Granule) : Bool :=
  readyB c s t g && (awayCores (dueState c (fetchedState c s t g) 2 t g) 2 g).isEmpty &&
  !c.blocked (dueState c (fetchedState c s t g) 2 t g) 2 t g ((fetchedState c s t g).part 2).nextSeq

theorem offered_of {c : StreamCmd} {s : State} {t : StreamTag} {g : Granule} (h : offeredB c s t g = true) : Offered c s 2 t g := by
  simp only [offeredB, Bool.and_eq_true, decide_eq_true_eq, Bool.not_eq_true', Bool.and_eq_false_iff, decide_eq_false_iff_not] at h
  obtain ⟨⟨⟨⟨⟨a1, a2⟩, a3⟩, a4⟩, a5⟩, a6⟩ := h
  refine ⟨a1, a2, a3, a4, ?_, a6⟩
  rintro ⟨h1, h2⟩
  rcases a5 with h | h
  · exact h h1
  · rw [h] at h2; cases h2

theorem atHead_of {c : StreamCmd} {s : State} {t : StreamTag} {g : Granule} (h : atHeadB c s t g = true) : AtHead c s 2 t g := by
  simp only [atHeadB, Bool.and_eq_true, List.isEmpty_iff, Bool.not_eq_true'] at h
  exact ⟨offered_of h.1.1, h.1.2, h.2⟩

theorem fetched_of {c : StreamCmd} {s : State} {t : StreamTag} {g : Granule} (h : fetchedB c s t g = true) :
    Fetched c s 2 t g (fetchedState c s t g) := by
  unfold fetchedB at h
  unfold Fetched fetchedState
  generalize Op.exec (Op.each (c.descs s 2 g) (fetchDesc 2 t (c.descs s 2 g))) s = r at *
  obtain ⟨_ | _, _⟩ := r
  · cases h
  · rfl

theorem ready_of {c : StreamCmd} {s : State} {t : StreamTag} {g : Granule} (h : readyB c s t g = true) :
    Ready c s 2 t g (fetchedState c s t g) := by
  simp only [readyB, Bool.and_eq_true, List.isEmpty_iff, Bool.not_eq_true'] at h
  exact ⟨atHead_of h.1.1.1, fetched_of h.1.1.2, h.1.2, h.2⟩

theorem begins_of {c : StreamCmd} {s : State} {t : StreamTag} {g : Granule} (h : beginsB c s t g = true) :
    Begins c s 2 t g (fetchedState c s t g) := by
  simp only [beginsB, Bool.and_eq_true, List.isEmpty_iff, Bool.not_eq_true'] at h
  exact ⟨ready_of h.1.1, h.1.2, h.2⟩

/-- A stream command of a test: its row, its stream, its word, its descriptors and what else its state holds. -/
structure Cmd where
  row : StreamCmd
  tag : StreamTag
  g : Granule
  ds : List (BitVec 512)
  env : State → State := id

def Cmd.st (x : Cmd) : State := x.env (headed x.tag x.g x.ds)
def Cmd.ok (x : Cmd) : Bool := canonicalB x.st && beginsB x.row x.st x.tag x.g
def Cmd.fetched (x : Cmd) : State := fetchedState x.row x.st x.tag x.g
/-- The state in which the work of a test's command is done. -/
def Cmd.due (x : Cmd) : State := freshRows (dueState x.row x.fetched 2 x.tag x.g)

theorem Cmd.begins {x : Cmd} (h : x.ok = true) : x.st.Canonical ∧ Begins x.row x.st 2 x.tag x.g x.fetched := by
  simp only [Cmd.ok, Bool.and_eq_true] at h
  exact ⟨canonical_of h.1, begins_of h.2⟩

/-- The work of a test's command meets no stop. -/
def Cmd.clean (x : Cmd) : Bool := (x.row.run x.due 2 x.tag x.g (x.fetched.part 2).nextSeq).traps.isEmpty

/-- A tensor of e1 rows of e0 elements of a format, rows s1 × 64 bytes apart. -/
def mat (fmt vb sb e0 e1 s1 : Nat) : BitVec 512 :=
  entry [(0, vb), (48, sb), (144, e0 - 1), (160, e1 - 1), (208, s1), (340, fmt)]

/-- The same in the core's store. -/
def near (fmt vb sb e0 e1 s1 : Nat) : BitVec 512 := mat fmt vb sb e0 e1 s1 ||| entry [(365, 1)]

/-- C00 with a tile in its shadow tables, with a bank of the transposing buffer, and P2 with table 0. -/
def withTile (s : State) : State := s.modCore 0 (fun x => { x with shadow := { FeTile.none with valid := true, kext := 32 }, pred := ⟨none, some (0, 0, 32), none⟩ })
def infNoted (s : State) : State := s.modPart 2 (fun x => { x with infSeen := true })
def withBank (s : State) : State := (infNoted s).modCore 0 (fun x =>
  { x with tbAny := true, bank0 := { TbBank.none with valid := true, kext := 32 }, tbPred := some { k0 := 0, n0 := 0, kcnt := 0, ncnt := 0 } })
def withTable (derivative : Bool) (s : State) : State :=
  s.modPart 2 (fun x => { x with tables := [(0, some ⟨derivative, 0, 0x3F800000, 0x3F000000, 0, 0, 0, 0, List.replicate 256 (0x3F80, 0, 0)⟩)] })

def cMark : Cmd := ⟨markCmd, .F, word [(248, 0x01), (126, 1), (64, 7)], [], id⟩
def cWait : Cmd := ⟨waitCmd, .F, word [(248, 0x02)], [], id⟩
def cSig : Cmd := ⟨sigCmd, .F, word [(248, 0x03)], [], id⟩
def cFence : Cmd := ⟨fenceCmd, .F, word [(248, 0x04)], [], id⟩
def cStep : Cmd := ⟨stepCmd, .F, word [(248, 0x05)], [], id⟩
def cEnd : Cmd := ⟨endCmd, .F, word [(248, 0x06)], [], id⟩
def cLoad : Cmd := ⟨loadCmd, .F, word [(248, 0x10), (80, 1)], [mat 7 0x200000 0 64 1 1, mat 7 0x300000 0 64 1 1], id⟩
def cXpose : Cmd := ⟨xposeCmd, .B, word [(248, 0x11)], [mat 0 0x200000 0x300000 32 1 1], id⟩
def cTload : Cmd := ⟨tloadCmd, .F, word [(248, 0x20)], [mat 0 0x200000 0x300000 32 1 1], id⟩
def cFmat : Cmd := ⟨fmatCmd, .F, word [(248, 0x21)], [near 3 0x2000 0x3000 32 1 1], withTile⟩
def cBdx : Cmd := ⟨bdxCmd, .B, word [(248, 0x22)], [near 6 0x2000 0 32 1 1], withBank⟩
def cBdw : Cmd := ⟨bdwCmd, .B, word [(248, 0x23), (80, 1), (48, 15)], [near 3 0x2000 0x3000 32 16 1, near 6 0x4000 0 32 16 1], infNoted⟩
def cBmat : Cmd := ⟨bmatCmd, .F, word [(248, 0x24), (80, 1)], [near 8 0x2000 0 32 1 1, near 8 0x3000 0 32 1 1], id⟩
def cStore : Cmd := ⟨storeCmd, .F, word [(248, 0x31), (86, 1)], [mat 8 0x200000 0 32 1 1], id⟩
def cCflush : Cmd := ⟨cflushCmd, .B, word [(248, 0x12), (241, 1), (80, 2), (64, 1), (48, 1)],
  [mat 13 0x200000 0x300000 256 256 4, mat 7 0x400000 0 32 1 1, mat 11 0x500000 0 1 1 3], id⟩
/-- A vector operation on one row of 32 BF16 elements: of P where it takes one, into one element where it reduces. -/
def cVop (f : Nat) : Cmd :=
  let p := if f = 0x07 ∨ f = 0x08 ∨ 0x30 ≤ f then 0x3F800000 else 0
  ⟨vopCmd f, .F, word [(248, 0x30), (80, 1), (64, 2), (56, f), (0, p)],
    [mat 8 0x200000 0 32 1 1, mat 8 0x300000 0 32 1 1, if f / 16 = 2 then mat 8 0x400000 0 1 1 1 else mat 8 0x400000 0 32 1 1], withTable (f = 0x11)⟩
def cTbl : Cmd := ⟨tblloadCmd, .F, word [(248, 0x30), (56, 0x3F)], [mat 7 0 0 1600 1 25 ||| entry [(365, 1)]], fun s => { s with store := [(0xB, 0x3F#8), (0x1C, 1#8)] }⟩
def cMigr : Cmd := ⟨migrCmd, .F, word [(248, 0x42), (64, 0x200000)], [], id⟩
def cPub : Cmd := ⟨pubCmd, .U, word [(248, 0x43), (64, 5)], [mat 7 (regionBase + 3 * regionBytes) 0 64 1 1], id⟩
def cSend : Cmd := ⟨sendCmd, .F, word [(248, 0x51), (64, 5)], [mat 8 0x300000 0 64 1 2], id⟩
def cRecv : Cmd := ⟨recvCmd, .F, word [(248, 0x52), (64, 5)], [mat 8 0x300000 0 64 1 2], id⟩
def cColl : Cmd := ⟨collCmd, .F, word [(248, 0x50), (120, 1), (116, 2), (80, 1)], [mat 8 0x200000 0 512 1 16, mat 8 0x300000 0 512 1 16], id⟩
def cUpd : Cmd := ⟨updCmd, .U, word [(248, 0x40), (80, 1), (64, 2), (48, 3), (32, 4)],
  [mat 12 0x210000 0 256 32 20, mat 14 0x220000 0x228000 256 32 4, mat 15 0x230000 0x238000 256 32 4,
   mat 13 0x240000 0x248000 256 32 4 ||| entry [(96, 0x24C000)], mat 0 0x250000 0x258000 32 256 1], id⟩
def cPref : Cmd := ⟨prefCmd, .F, word [(248, 0x41), (96, 1)], [mat 7 0x200000 0 256 1 4 ||| entry [(240, 4)], mat 7 0x300000 0 32 1 1],
  fun s => { s with mem := [(0x300000, 5#8), (0x300004, 1#8), (0x30000C, 1#8)] }⟩
/-- `Settled`, as a test. -/
def settledB (x : Part) : Bool :=
  [x.sF, x.sB, x.sU].all (fun q => q.flight.all (fun f => decide (f.wait ≠ .behind) && decide (f.wait ≠ .ended))) && x.colls.isEmpty

theorem settled_of {x : Part} (h : settledB x = true) : Settled x := by
  simp only [settledB, Bool.and_eq_true, List.all_cons, List.all_nil, List.all_eq_true, List.isEmpty_iff, decide_eq_true_eq] at h
  obtain ⟨⟨a, b, c, -⟩, d⟩ := h
  exact ⟨fun t => by cases t <;> assumption, d⟩

/-- The work ended without a stop. -/
def okB (r : Except Trap Unit) : Bool :=
  match r with
  | .ok _ => true
  | .error _ => false

theorem exec_ok {m : Op Unit} {s : State} (h : okB (Op.exec m s).1 = true) : Op.exec m s = (.ok (), (Op.exec m s).2) := by
  generalize Op.exec m s = r at *
  obtain ⟨_ | _, _⟩ := r
  · cases h
  · rfl

/-! The work of a BDX and of a BDW on zeros is 65,536 and 1,048,576 products; that it meets no stop is shown piece by
piece. -/

/-- The work ends without a stop, and leaves the invariant. -/
def Fine {α : Type} (I : State → Prop) (m : Op α) (s : State) : Prop := ∃ a t, Op.exec m s = (.ok a, t) ∧ I t

theorem exec_bind {α β : Type} {m : Op α} {f : α → Op β} {s t : State} {a : α} (h : Op.exec m s = (.ok a, t)) :
    Op.exec (m >>= f) s = Op.exec (f a) t := by
  simp only [Op.exec, ExceptT.run] at h ⊢
  show (ExceptT.bind m f) s = _
  simp only [ExceptT.bind, ExceptT.mk]
  show (ExceptT.bindCont f (m s).1) (m s).2 = _
  rw [h]
  rfl

theorem Fine.bind {α β : Type} {I : State → Prop} {m : Op α} {f : α → Op β} {s t : State} {a : α}
    (h : Op.exec m s = (.ok a, t)) (k : Fine I (f a) t) : Fine I (m >>= f) s := by
  obtain ⟨b, u, hk, hu⟩ := k
  exact ⟨b, u, (exec_bind h).trans hk, hu⟩

theorem Fine.step {α β : Type} {I J : State → Prop} {m : Op α} {f : α → Op β} {s : State} (h : Fine J m s)
    (k : ∀ a t, J t → Fine I (f a) t) : Fine I (m >>= f) s := by
  obtain ⟨a, t, h, ht⟩ := h
  exact Fine.bind h (k a t ht)

theorem fine_mod {I : State → Prop} {f : State → State} {s : State} (h : I (f s)) : Fine I (Op.mod f) s := ⟨(), f s, rfl, h⟩

theorem fine_pure {α : Type} {I : State → Prop} {a : α} {s : State} (h : I s) : Fine I (pure a : Op α) s := ⟨a, s, rfl, h⟩

theorem exec_try {α : Type} {m : Op α} {h : Trap → Op α} {s t : State} {a : α} (hm : Op.exec m s = (.ok a, t)) :
    Op.exec (tryCatch m h) s = (.ok a, t) := by
  simp only [Op.exec, ExceptT.run, tryCatch, tryCatchThe, MonadExceptOf.tryCatch, ExceptT.tryCatch, ExceptT.mk] at hm ⊢
  show (StateT.bind m _) s = _
  simp only [StateT.bind, hm]
  rfl

theorem exec_at {α : Type} {u c : Nat} {l : List Nat} {m : Op α} {s t : State} {a : α} (h : Op.exec m s = (.ok a, t)) :
    Op.exec (Op.at u c l m) s = (.ok a, t) := exec_try h

theorem exec_pure {α : Type} (a : α) (s : State) : Op.exec (pure a) s = (.ok a, s) := rfl

theorem exec_nanAt {α : Type} {b : Nat} {e : Except Nans α} {a : α} (h : e = .ok a) (s : State) :
    Op.exec (Op.nanAt b e) s = (.ok a, s) := by subst h; rfl

theorem fine_each {α : Type} {I : State → Prop} (f : α → Op Unit) (l : List α) (h : ∀ a ∈ l, ∀ s, I s → Fine I (f a) s)
    (s : State) (hs : I s) : Fine I (Op.each l f) s := by
  induction l generalizing s with
  | nil => exact fine_pure hs
  | cons x xs ih =>
    exact Fine.step (h x (List.mem_cons_self ..) s hs) (fun _ t ht => ih (fun a ha => h a (List.mem_cons_of_mem _ ha)) t ht)

theorem each_one {α : Type} {I : State → Prop} {f : α → Op Unit} {a : α} {s : State} (h : Fine I (f a) s) :
    Fine I (Op.each [a] f) s :=
  Fine.step h (fun _ _ ht => fine_pure ht)

/-- A mapped work that leaves the state as it is. -/
theorem exec_map {α β : Type} (f : α → Op β) (l : List α) (s : State)
    (h : ∀ a ∈ l, ∃ b, Op.exec (f a) s = (.ok b, s)) : ∃ bs, Op.exec (Op.map l f) s = (.ok bs, s) := by
  induction l with
  | nil => exact ⟨[], rfl⟩
  | cons x xs ih =>
    obtain ⟨b, hb⟩ := h x (List.mem_cons_self ..)
    obtain ⟨bs, hbs⟩ := ih (fun a ha => h a (List.mem_cons_of_mem _ ha))
    exact ⟨b :: bs, (exec_bind hb).trans ((exec_bind hbs).trans rfl)⟩

theorem together_ok {α : Type} (P : α → Prop) (l : List (Except Nans α)) (h : ∀ e ∈ l, ∃ a, e = .ok a ∧ P a) :
    ∃ as, together l = .ok as ∧ ∀ a ∈ as, P a := by
  induction l with
  | nil => exact ⟨[], rfl, fun _ h => by cases h⟩
  | cons x xs ih =>
    obtain ⟨a, rfl, pa⟩ := h x (List.mem_cons_self ..)
    obtain ⟨as, has, pas⟩ := ih (fun e he => h e (List.mem_cons_of_mem _ he))
    refine ⟨a :: as, by simp only [together, has, joinBoth], fun b hb => ?_⟩
    rcases List.mem_cons.mp hb with rfl | hb
    · exact pa
    · exact pas b hb

/-- Products of zeros and their sums are zeros. -/
theorem mul_zero_ok {x y : Machine.Num} (hx : x.isZero = true) (hy : y.isInf = false) : ∃ v, x.mul y = .ok v ∧ v.isZero = true := by
  cases x with
  | inf n => cases hx
  | fin q z =>
    cases y with
    | inf n => cases hy
    | fin r w =>
      have hq : q = 0 := of_decide_eq_true hx
      subst hq
      exact ⟨_, rfl, by simp [Machine.Num.isZero]⟩

theorem add_zero_ok {x y : Machine.Num} (hx : x.isZero = true) (hy : y.isZero = true) : ∃ v, x.add y = .ok v ∧ v.isZero = true := by
  cases x with
  | inf n => cases hx
  | fin q z =>
    cases y with
    | inf n => cases hy
    | fin r w =>
      have hq : q = 0 := of_decide_eq_true hx
      have hr : r = 0 := of_decide_eq_true hy
      subst hq hr
      exact ⟨_, rfl, by simp [Machine.Num.isZero, Machine.Num.ofRat]⟩

/-- Adding a zero to an entry never stops. -/
theorem promoteEntry_zero (old : Nat) (r : Machine.Num) (h : r.isZero = true) : ∃ e, promoteEntry old r = .ok e := by
  unfold promoteEntry
  cases r with
  | inf n => cases h
  | fin q z => cases fW48.value old <;> exact ⟨_, rfl⟩

/-- A run of zeros is a zero, whatever the weights. -/
theorem bdRun_zero (dy : List Machine.Num) (ws : List (Option Rat)) (h : ∀ x ∈ dy, x.isZero = true) :
    ∃ v, bdRun dy ws = .ok v ∧ v.isZero = true := by
  have key : ∀ (l : List (Machine.Num × Option Rat)) (a : Machine.Num), (∀ e ∈ l, e.1.isZero = true) → a.isZero = true →
      ∃ v, l.foldl (fun acc e => acc.bind (fun a =>
        match e.2 with
        | some w => (e.1.mul (Machine.Num.ofRat w)).bind a.add
        | none => .ok a)) (.ok a : Except TrapKind Machine.Num) = .ok v ∧ v.isZero = true := by
    intro l
    induction l with
    | nil => exact fun a _ ha => ⟨a, rfl, ha⟩
    | cons e es ih =>
      intro a hl ha
      have hes := fun x hx => hl x (List.mem_cons_of_mem _ hx)
      have he := hl e (List.mem_cons_self ..)
      obtain ⟨x, w⟩ := e
      cases w with
      | none => exact ih a hes ha
      | some w =>
        obtain ⟨m, hm, zm⟩ := mul_zero_ok he (y := Machine.Num.ofRat w) rfl
        obtain ⟨v, hv, zv⟩ := add_zero_ok ha zm
        obtain ⟨u, hu, zu⟩ := ih v hes zv
        refine ⟨u, ?_, zu⟩
        rw [List.foldl_cons, ← hu]
        show List.foldl _ ((x.mul (Machine.Num.ofRat w)).bind a.add) es = _
        rw [hm]
        show List.foldl _ (a.add m) es = _
        rw [hv]
  exact key _ _ (fun e he => h _ (List.of_mem_zip he).1) rfl

/-- A cell's run of zeros is a zero. -/
theorem cellRun_zero (xs ys : List Machine.Num) (hx : ∀ x ∈ xs, x.isZero = true) (hy : ∀ y ∈ ys, y.isZero = true) :
    ∃ v, cellRun xs ys = .ok v ∧ v.isZero = true := by
  have key : ∀ (l : List ((Machine.Num × Machine.Num) × Nat)) (a : Machine.Num),
      (∀ e ∈ l, e.1.1.isZero = true ∧ e.1.2.isZero = true) → a.isZero = true →
      ∃ v, l.foldl (fun acc e => acc.bind (fun a => wholeAt e.2 ((e.1.1.mul e.1.2).bind a.add)))
        (.ok a : Except Nans Machine.Num) = .ok v ∧ v.isZero = true := by
    intro l
    induction l with
    | nil => exact fun a _ ha => ⟨a, rfl, ha⟩
    | cons e es ih =>
      intro a hl ha
      obtain ⟨h1, h2⟩ := hl e (List.mem_cons_self ..)
      have hinf : e.1.2.isInf = false := by
        cases hv : e.1.2 with
        | inf n => rw [hv] at h2; cases h2
        | fin q z => rfl
      obtain ⟨m, hm, zm⟩ := mul_zero_ok h1 hinf
      obtain ⟨v, hv, zv⟩ := add_zero_ok ha zm
      obtain ⟨u, hu, zu⟩ := ih v (fun x hx => hl x (List.mem_cons_of_mem _ hx)) zv
      refine ⟨u, ?_, zu⟩
      rw [List.foldl_cons, ← hu]
      show List.foldl _ (wholeAt e.2 ((e.1.1.mul e.1.2).bind a.add)) es = _
      rw [hm]
      show List.foldl _ (wholeAt e.2 (a.add m)) es = _
      rw [hv]
      rfl
  refine key _ _ (fun e he => ?_) rfl
  have hm := List.of_mem_zip (List.fst_mem_of_mem_zipIdx he)
  exact ⟨hx _ hm.1, hy _ hm.2⟩

theorem columnsOf_mem {α : Type} (d : α) (n : Nat) (rows : List (List α)) (P : α → Prop) (hd : P d)
    (h : ∀ row ∈ rows, ∀ x ∈ row, P x) : ∀ c ∈ columnsOf d n rows, ∀ x ∈ c, P x := by
  induction n generalizing rows with
  | zero => exact fun c hc => by cases hc
  | succ n ih =>
    intro c hc x hx
    rcases List.mem_cons.mp hc with rfl | hc
    · obtain ⟨row, hr, rfl⟩ := List.mem_map.mp hx
      cases row with
      | nil => exact hd
      | cons y ys => exact h _ hr y (List.mem_cons_self ..)
    · refine ih (rows.map List.tail) (fun row hr y hy => ?_) c hc x hx
      obtain ⟨r, hm, rfl⟩ := List.mem_map.mp hr
      exact h r hm y (List.mem_of_mem_tail hy)

theorem groupRuns_zero (xs dys : List (List Machine.Num)) (hx : ∀ r ∈ xs, ∀ v ∈ r, v.isZero = true)
    (hy : ∀ r ∈ dys, ∀ v ∈ r, v.isZero = true) :
    ∃ rs, groupRuns xs dys = .ok rs ∧ ∀ r ∈ rs, ∀ v ∈ r, v.isZero = true := by
  refine together_ok (fun (r : List Machine.Num) => ∀ v ∈ r, v.isZero = true) _ (fun e he => ?_)
  obtain ⟨x, hxm, rfl⟩ := List.mem_map.mp he
  refine together_ok (fun (v : Machine.Num) => v.isZero = true) _ (fun e he => ?_)
  obtain ⟨y, hym, rfl⟩ := List.mem_map.mp he
  obtain ⟨v, hv, zv⟩ := cellRun_zero x.1 y.1
    (columnsOf_mem _ _ _ (fun v => v.isZero = true) rfl hx _ (List.fst_mem_of_mem_zipIdx hxm))
    (columnsOf_mem _ _ _ (fun v => v.isZero = true) rfl hy _ (List.fst_mem_of_mem_zipIdx hym))
  exact ⟨v, by rw [hv]; rfl, zv⟩

/-- No array of SRAM carries a disturbance, and the partition has noted an infinity of its step. -/
def Calm (s : State) : Prop := s.sramErrs = [] ∧ (s.part 2).infSeen = true

theorem noteInf_seen {s : State} (h : (s.part 2).infSeen = true) (t : StreamTag) (g : Granule) (unit core : Nat) (tile : List Nat) :
    noteInf s 2 t g unit core tile = s := by
  simp only [noteInf, h, if_true]

theorem fine_ite {I : State → Prop} {c : Prop} [Decidable c] {a b : Op Unit} {s : State} (ha : Fine I a s) (hb : Fine I b s) :
    Fine I (if c then a else b) s := by
  split
  · exact ha
  · exact hb

theorem exec_get {α : Type} (f : State → Op α) (s : State) : Op.exec (Op.get >>= f) s = Op.exec (f s) s := exec_bind rfl

theorem exec_core {α : Type} (w : Work) (f : Core → Op α) (s : State) :
    Op.exec (w.getCore >>= f) s = Op.exec (f (s.core w.core)) s := exec_bind rfl

theorem exec_core_fine {α : Type} {I : State → Prop} (w : Work) (f : Core → Op α) (s : State) :
    Fine I (w.getCore >>= f) s = Fine I (f (s.core w.core)) s := by simp only [Fine, exec_core]

theorem array_clean {s : State} (h : s.sramErrs = []) (a o lo n : Nat) : arrayClean s a o lo n = true := by
  simp [arrayClean, h]

theorem readArray_clean {s : State} (h : s.sramErrs = []) (a o lo : Nat) (bs : List Byte) :
    Op.exec (readArray a o lo bs) s = (.ok bs, s) := by
  unfold readArray
  rw [exec_get, if_pos (array_clean h ..)]
  rfl

theorem readCodes_clean {s : State} (h : s.sramErrs = []) (a o lo : Nat) (codes : List Nat) :
    Op.exec (readCodes a o lo codes) s = (.ok codes, s) := by
  unfold readCodes
  rw [exec_get, if_pos (array_clean h ..)]
  rfl

theorem readAm_clean {s : State} (h : s.sramErrs = []) (w : Work) (k lo n : Nat) :
    ∃ l, Op.exec (readAm w k lo n) s = (.ok l, s) := by
  unfold readAm
  rw [exec_core]
  by_cases he : (amGet (s.core w.core) k).empty = true
  · exact ⟨_, by rw [if_pos he]; rfl⟩
  · exact ⟨_, by rw [if_neg he, readCodes_clean h]⟩

theorem promote_fine (w : Work) (hp : w.c.p = 2) (unit : Nat) (tile : List Nat) (k : Nat) (r : AmRec) (runs : List Machine.Num)
    (h : ∀ x ∈ runs, x.isZero = true) (s : State) (hs : Calm s) : Fine Calm (promote w unit tile k r runs) s := by
  unfold promote promoteCols
  refine Fine.bind (a := s) (t := s) rfl ?_
  dsimp only
  have tail : ∀ s : State, Calm s → Fine Calm (do
      let old ← Op.at unit w.c.nn tile (readAm w k 0 runs.length)
      let rs := (old.zip runs).map (fun e => promoteEntry e.1 e.2)
      match (freshEntries rs).head? with
      | some i => w.inf unit (columnTile unit tile (0 + i))
      | none => pure ()
      let es ← Op.atElem unit w.c.nn (fun i => columnTile unit tile (0 + i))
        (Op.nanAt 0 (together (rs.zipIdx.map (fun e => wholeAt e.2 e.1))))
      writeAm w k 0 r (es.map (fun e => e.1))
      if 0 = 0 then w.count 4 0x20 0x04 0 1
      w.count 4 0x48 0x04 5 (es.filter (fun e => e.2.1)).length) s := by
    intro s hs
    obtain ⟨old, ho⟩ := readAm_clean hs.1 w k 0 runs.length
    refine Fine.bind (exec_at ho) ?_
    dsimp only
    obtain ⟨es, hes, -⟩ := together_ok (fun _ => True) (((old.zip runs).map (fun e => promoteEntry e.1 e.2)).zipIdx.map
      (fun e => wholeAt e.2 e.1)) (fun e he => by
        obtain ⟨x, hx, rfl⟩ := List.mem_map.mp he
        obtain ⟨y, hy, hxy⟩ := List.mem_map.mp (List.fst_mem_of_mem_zipIdx hx)
        obtain ⟨v, hv⟩ := promoteEntry_zero y.1 y.2 (h _ (List.of_mem_zip hy).2)
        exact ⟨v, by rw [← hxy, hv]; rfl, trivial⟩)
    have rest : ∀ s : State, Calm s → Fine Calm (do
        let es ← Op.atElem unit w.c.nn (fun i => columnTile unit tile (0 + i))
          (Op.nanAt 0 (together (((old.zip runs).map (fun e => promoteEntry e.1 e.2)).zipIdx.map (fun e => wholeAt e.2 e.1))))
        writeAm w k 0 r (es.map (fun e => e.1))
        if 0 = 0 then w.count 4 0x20 0x04 0 1
        w.count 4 0x48 0x04 5 (es.filter (fun e => e.2.1)).length) s := by
      intro s hs
      refine Fine.bind (exec_try (exec_nanAt hes s)) ?_
      refine Fine.step (J := Calm) ?_ (fun _ s hs => ?_)
      · unfold writeAm
        refine Fine.bind (a := s.core w.core) (t := s) rfl ?_
        refine Fine.step (J := Calm) (fine_mod ⟨?_, hs.2⟩) (fun _ s hs => fine_mod hs)
        simp only [clearArray, hs.1]
        rfl
      · exact Fine.step (J := Calm) (fine_mod hs) (fun _ s hs => fine_mod hs)
    split
    · refine Fine.step (J := Calm) (fine_mod ?_) (fun _ s hs => rest s hs)
      rw [hp, noteInf_seen hs.2]
      exact hs
    · exact rest s hs
  split
  · exact Fine.step (J := Calm) (fine_mod hs) (fun _ s hs => tail s hs)
  · exact tail s hs

/-- A slot row as its SRAM holds it. -/
def slotRowOf (x : Core) (bank slot n : Nat) : Fmt × List RawBlock :=
  let b := if bank = 0 then x.bank0 else x.bank1
  (b.format, (List.range 8).map (fun k =>
    { bytes := slice (b.rowBytes slot n) (b.format.blockBytes * k) b.format.blockBytes,
      scale := leAt (b.rowScales slot (n / 2 * 2) ++ b.rowScales slot (n / 2 * 2 + 1)) (16 * (n % 2) + 2 * k) 2 }))

theorem readSlotRow_clean {s : State} (h : s.sramErrs = []) (w : Work) (bank slot n : Nat) :
    Op.exec (readSlotRow w bank slot n) s = (.ok (slotRowOf (s.core w.core) bank slot n), s) := by
  unfold readSlotRow
  rw [exec_core]
  exact (exec_bind (readArray_clean h ..)).trans ((exec_bind (readArray_clean h ..)).trans rfl)

/-- A block of BD over dY of zeros, for one token, meets no stop where its weights convert and dY is read. -/
theorem bdBlock_fine (w : Work) (hp : w.c.p = 2) (d : Desc) (unit : Nat) (x : Core) (nt i : Nat) (first : Bool) (s t : State)
    (dy : List Machine.Num) (hn : dNtok w.g = 0) (hs : s.sramErrs = [])
    (hw : ∀ n < 256, ∃ ws, convertRow
      (slotRowOf (s.core w.core) (tbSlot x (i * ((tbShape x).ncnt + 1) + (nt - (tbShape x).n0))).1
        (tbSlot x (i * ((tbShape x).ncnt + 1) + (nt - (tbShape x).n0))).2 n).1 (tbShape x).kext ((tbShape x).k0 + i)
      (slotRowOf (s.core w.core) (tbSlot x (i * ((tbShape x).ncnt + 1) + (nt - (tbShape x).n0))).1
        (tbSlot x (i * ((tbShape x).ncnt + 1) + (nt - (tbShape x).n0))).2 n).2 = .ok ws)
    (hd : Op.exec (readValues w.c d (8 * nt) 8 (d.rowIdx (dTok0 w.g + 0))) s = (.ok dy, t)) (ht : Calm t)
    (hz : ∀ v ∈ dy, v.isZero = true) : Fine (fun _ => True) (bdBlock w d unit x nt i first) s := by
  unfold bdBlock
  dsimp only
  obtain ⟨ws, hws⟩ := exec_map (fun n => Op.at unit w.c.nn [nt, (tbShape x).k0 + i, 0xFFFFFFFF, n] (do
    let row ← readSlotRow w (tbSlot x (i * ((tbShape x).ncnt + 1) + (nt - (tbShape x).n0))).1
      (tbSlot x (i * ((tbShape x).ncnt + 1) + (nt - (tbShape x).n0))).2 n
    Op.nanAt 0 (convertRow row.1 (tbShape x).kext ((tbShape x).k0 + i) row.2))) (List.range 256) s (fun n hn => by
      obtain ⟨ws, h⟩ := hw n (List.mem_range.mp hn)
      exact ⟨ws, exec_at ((exec_bind (readSlotRow_clean hs ..)).trans (exec_nanAt h s))⟩)
  refine Fine.bind hws ?_
  rw [hn]
  refine Fine.step (J := fun _ => True) (Fine.bind (exec_at hd) ?_) (fun _ s _ => fine_pure trivial)
  have tail : ∀ u : State, Calm u → Fine (fun _ => True) (do
      Op.each (List.range 16) fun r => do
        let runs ← Op.at unit w.c.nn [nt, (tbShape x).k0 + i, dTok0 w.g + 0, 0] (Op.nanAt 0 (together
          ((columnsOf none 256 ws).map (fun c => wholeAt 0 (bdRun ((dy.drop (16 * r)).take 16) ((c.drop (16 * r)).take 16))))))
        promote w unit [nt, (tbShape x).k0 + i, dTok0 w.g + 0, 0] (amKey 1 (dAmrow w.g + i * (0 + 1) + 0))
          { kind := .bdx, value := dN0 w.g + dNcnt w.g } runs
      if unit = 2 then do
        w.count 2 0x20 0x10 0 1
        w.event 0x20 1
      else do
        w.count 3 0x10 0x04 0 65536
        w.event 0x30 65536) u := by
    intro u hu
    refine Fine.step (J := Calm) (fine_each _ _ (fun r _ s hs => ?_) u hu) (fun _ s _ => ?_)
    · obtain ⟨runs, hr, zr⟩ := together_ok (fun (v : Machine.Num) => v.isZero = true)
        ((columnsOf none 256 ws).map (fun c => wholeAt 0 (bdRun ((dy.drop (16 * r)).take 16) ((c.drop (16 * r)).take 16))))
        (fun e he => by
          obtain ⟨c, -, rfl⟩ := List.mem_map.mp he
          obtain ⟨v, hv, zv⟩ := bdRun_zero ((dy.drop (16 * r)).take 16) ((c.drop (16 * r)).take 16)
            (fun v h => hz v (List.mem_of_mem_drop (List.mem_of_mem_take h)))
          exact ⟨v, by rw [hv]; rfl, zv⟩)
      exact Fine.bind (exec_at (exec_nanAt hr s)) (promote_fine w hp _ _ _ _ _ zr _ hs)
    · exact fine_ite (Fine.step (J := fun _ => True) (fine_mod trivial) (fun _ s _ => fine_mod trivial))
        (Fine.step (J := fun _ => True) (fine_mod trivial) (fun _ s _ => fine_mod trivial))
  dsimp only
  split
  · exact Fine.step (J := Calm) (fine_mod ht) (fun _ s hs => tail s hs)
  · exact tail _ ht

/-- The state in which the blocks of the BDX are done, at C00. -/
def bdxWork : Work := workOf cBdx.due 2 .B cBdx.g (0, 0, 0)
def bdxDy : Desc := descOf cBdx.due 2 .B cBdx.g (dDy cBdx.g)
def bdxNoted : State := cBdx.due.modCore bdxWork.core (fun x =>
  { x with tbReads := x.tbReads ++ (if x.tbBoth then [(10, 0), (10, 1)] else [(10, x.tbCurrent)]) })
def bdxStart : State := (Op.exec (bdWaits bdxWork bdxDy 1) bdxNoted).2

/-- The work ended well, and gave zeros. -/
def zerosB (r : Except Trap (List Machine.Num)) : Bool :=
  match r with
  | .ok vs => vs.all Machine.Num.isZero
  | .error _ => false
def rowB (r : Except Nans (List (Option Rat))) : Bool :=
  match r with
  | .ok _ => true
  | .error _ => false

theorem bdx_converts : (List.range 256).all (fun n => rowB (convertRow (slotRowOf (bdxStart.core 0) 0 0 n).1 32 0
    (slotRowOf (bdxStart.core 0) 0 0 n).2)) = true := by decide +kernel

theorem bdx_reads : zerosB (Op.exec (readValues bdxWork.c bdxDy 0 8 (bdxDy.rowIdx 0)) bdxStart).1 = true := by decide +kernel

theorem bdx_calm : (Op.exec (readValues bdxWork.c bdxDy 0 8 (bdxDy.rowIdx 0)) bdxStart).2.sramErrs = [] ∧
    ((Op.exec (readValues bdxWork.c bdxDy 0 8 (bdxDy.rowIdx 0)) bdxStart).2.part 2).infSeen = true := by decide +kernel

theorem bdx_fine : Fine (fun _ => True) (bdxCore bdxWork bdxDy 2 10) cBdx.due := by
  unfold bdxCore
  have e0 : dNcnt bdxWork.g + 1 = 1 := by decide +kernel
  have e1 : (tbShape (cBdx.due.core bdxWork.core)).kcnt + 1 = 1 := by decide +kernel
  have e2 : bdxDy.space = true := by decide +kernel
  rw [exec_core_fine]
  dsimp only
  rw [e0, e1]
  refine Fine.bind (a := ()) (t := bdxNoted) rfl ?_
  rw [if_pos rfl]
  refine Fine.bind (a := ()) (t := bdxStart) ?_ (each_one (each_one ?_))
  · unfold bdxStart bdWaits
    rw [if_pos e2]
    rfl
  · cases hr : Op.exec (readValues bdxWork.c bdxDy 0 8 (bdxDy.rowIdx 0)) bdxStart with
    | mk r t =>
      have hv := bdx_reads
      have hc := bdx_calm
      rw [hr] at hv hc
      cases r with
      | error e => cases hv
      | ok dy =>
        have h0 : dTok0 bdxWork.g = 0 := by decide +kernel
        have hn : 8 * (dN0 bdxWork.g + 0) = 0 := by decide +kernel
        have hs : tbSlot (cBdx.due.core bdxWork.core) (0 * ((tbShape (cBdx.due.core bdxWork.core)).ncnt + 1) +
            ((dN0 bdxWork.g + 0) - (tbShape (cBdx.due.core bdxWork.core)).n0)) = (0, 0) := by decide +kernel
        have hk : (tbShape (cBdx.due.core bdxWork.core)).k0 + 0 = 0 := by decide +kernel
        have hx : (tbShape (cBdx.due.core bdxWork.core)).kext = 32 := by decide +kernel
        refine bdBlock_fine _ rfl _ _ _ _ _ _ _ t dy (by decide +kernel) (by decide +kernel) ?_ (by rw [hn, h0, hr]) hc
          (fun v hm => List.all_eq_true.mp hv v hm)
        intro n hn
        have hc := List.all_eq_true.mp bdx_converts n (List.mem_range.mpr hn)
        rw [hs, hk, hx]
        show ∃ ws, convertRow (slotRowOf (bdxStart.core 0) 0 0 n).1 32 0 (slotRowOf (bdxStart.core 0) 0 0 n).2 = .ok ws
        revert hc
        cases convertRow (slotRowOf (bdxStart.core 0) 0 0 n).1 32 0 (slotRowOf (bdxStart.core 0) 0 0 n).2 with
        | error e => exact fun h => by cases h
        | ok ws => exact fun _ => ⟨ws, rfl⟩

theorem freshRows_of {s : State} (h : s.rowRuns = []) : freshRows s = s := by
  cases s
  cases h
  rfl

theorem onTargets_one {f : Nat × Nat × Nat → Op Unit} {s : State} {c : Nat × Nat × Nat}
    (h : Fine (fun _ => True) (f c) (freshRows s)) : (onTargets [c] f s).2 = [] := by
  obtain ⟨a, t, h, -⟩ := h
  unfold onTargets
  rw [List.foldl_cons, List.foldl_nil, exec_at h]

/-- Work that is fine at C00, the one core of the command, meets no stop. -/
theorem onCores_one {s : State} {g : Granule} {f : Work → Op Unit} (hc : targetCores (s.part 2) g = [(0, 0, 0)])
    (ho : wrapperClosed s (engineBlk g 0) = false) (hr : s.rowRuns = [])
    (h : Fine (fun _ => True) (f (workOf s 2 .B g (0, 0, 0))) s) : (onCoresOf s 2 .B g f).2 = [] := by
  unfold onCoresOf
  rw [hc]
  refine onTargets_one ?_
  rw [freshRows_of hr, ho]
  exact h

theorem bdxRun_traps {s : State} {g : Granule} {n : Nat} (h : atRung3 (s.part 2) .B g = false) :
    (bdxRun s 2 .B g n).traps = (onCoresOf s 2 .B g (fun w => bdxCore w (descOf s 2 .B g (dDy g)) 2 n)).2 := by
  unfold bdxRun
  rw [h]
  rfl

theorem bdx_clean : (bdxRun cBdx.due 2 .B cBdx.g 10).traps = [] :=
  (bdxRun_traps (by decide +kernel)).trans
    (onCores_one (by decide +kernel) (by decide +kernel) (by decide +kernel) bdx_fine)

/-- What the rows of a run leave as it is: the chest's form, the tile CLEAR, and an infinity of the step noted. -/
structure Clearing (c : Fin 64) (tile : Nat) (s : State) : Prop where
  form : Sparse.wf ChestTile.empty (s.core c).chest = true
  clear : (chestGet (s.core c) tile).clear = true
  seen : (s.part 2).infSeen = true

theorem chestRow_fine (w : Work) (hp : w.c.p = 2) (tile group kt r : Nat) (live : Bool) (runs : List Machine.Num)
    (hz : ∀ v ∈ runs, v.isZero = true) (s : State) (hs : Clearing w.core tile s) :
    Fine (Clearing w.core tile) (chestRow w tile group kt r live runs) s := by
  unfold chestRow
  dsimp only
  have hr : Op.exec (readChest w tile r) s = (.ok (List.replicate 256 0), s) := by
    unfold readChest
    rw [exec_core]
    simp only [hs.clear, if_true]
    rfl
  refine Fine.bind (exec_at hr) ?_
  obtain ⟨es, hes, -⟩ := together_ok (fun _ => True) ((((List.replicate 256 0).zip runs).map (fun e => promoteEntry e.1 e.2)).zipIdx.map
    (fun e => wholeAt e.2 e.1)) (fun e he => by
      obtain ⟨x, hx, rfl⟩ := List.mem_map.mp he
      obtain ⟨y, hy, hxy⟩ := List.mem_map.mp (List.fst_mem_of_mem_zipIdx hx)
      obtain ⟨v, hv⟩ := promoteEntry_zero y.1 y.2 (hz _ (List.of_mem_zip hy).2)
      exact ⟨v, by rw [← hxy, hv]; rfl, trivial⟩)
  have rest : ∀ s : State, Clearing w.core tile s → Fine (Clearing w.core tile) (do
      let es ← Op.at 3 w.c.nn [tile, group, 256 * kt + r, 0] (Op.nanAt 0
        (together ((((List.replicate 256 0).zip runs).map (fun e => promoteEntry e.1 e.2)).zipIdx.map (fun e => wholeAt e.2 e.1))))
      Op.mod (fun s => clearArray s arrChest w.c.nn (chestGranule tile r) 48)
      w.modCore (fun x =>
        let c := chestGet x tile
        chestSet x tile { c with
          vals := Sparse.setRun 0 c.vals (256 * r) (es.map (fun e => e.1)),
          touched := if live then c.touched ||| BitVec.ofNat 256 (2 ^ r) else c.touched })) s := by
    intro s hs
    refine Fine.bind (exec_at (exec_nanAt hes s)) ?_
    refine Fine.step (J := Clearing w.core tile) (fine_mod ⟨hs.form, hs.clear, hs.seen⟩) (fun _ s hs => fine_mod ⟨?_, ?_, hs.seen⟩)
    · rw [State.core_modCore_same]
      exact Sparse.set_wf _ _ hs.form
    · rw [State.core_modCore_same]
      simp only [chestGet, chestSet]
      rw [Sparse.get_set_same _ _ hs.form]
      exact hs.clear
  split
  · refine Fine.step (J := Clearing w.core tile) (fine_mod ?_) (fun _ s hs => rest s hs)
    rw [hp, noteInf_seen hs.seen]
    exact hs
  · exact rest s hs

theorem chestGroup_fine (w : Work) (hp : w.c.p = 2) (tile group kt : Nat) (xs dys : List (List Machine.Num))
    (hx : ∀ r ∈ xs, ∀ v ∈ r, v.isZero = true) (hy : ∀ r ∈ dys, ∀ v ∈ r, v.isZero = true) (s : State)
    (hs : Clearing w.core tile s) : Fine (fun _ => True) (chestGroup w tile group kt xs dys) s := by
  unfold chestGroup
  obtain ⟨rs, hrs, zr⟩ := groupRuns_zero xs dys hx hy
  refine Fine.bind (exec_try (exec_nanAt hrs s)) ?_
  exact Fine.step (J := Clearing w.core tile) (fine_each _ _ (fun e he s hs =>
    chestRow_fine w hp _ _ _ _ _ _ (zr _ (List.fst_mem_of_mem_zipIdx he)) s hs) s hs) (fun _ s _ => fine_mod trivial)

/-- What the group of the BDW reads: dY and X, and whether it runs at half rate. -/
def bdwWork : Work := workOf cBdw.due 2 .B cBdw.g (0, 0, 0)
def bdwX : Desc := descOf cBdw.due 2 .B cBdw.g (wX cBdw.g)
def bdwY : Desc := descOf cBdw.due 2 .B cBdw.g (wDy cBdw.g)
def bdwDys : Op (List (List Machine.Num)) := Op.map (List.range 16) (fun i => Op.at 3 0 [0, 0, 256 * 0, 0]
  (readValues bdwWork.c bdwY (8 * 0) 8 (bdwY.rowIdx (0 + 16 * 0 + i))))
def bdwMid : State := (Op.exec bdwDys cBdw.due).2
def bdwXs : Op (List (List Machine.Num) × Bool) := readX bdwWork bdwX [] 0 0 (0 + 0) (0 + 16 * 0)

def allZerosB {α : Type} (f : α → List (List Machine.Num)) (r : Except Trap α) : Bool :=
  match r with
  | .ok a => (f a).all (fun r => r.all Machine.Num.isZero)
  | .error _ => false

theorem bdw_dys : allZerosB id (Op.exec bdwDys cBdw.due).1 = true := by decide +kernel
theorem bdw_xs : allZerosB Prod.fst (Op.exec bdwXs bdwMid).1 = true := by decide +kernel
theorem bdw_clear : Sparse.wf ChestTile.empty ((Op.exec bdwXs bdwMid).2.core 0).chest = true ∧
    (chestGet ((Op.exec bdwXs bdwMid).2.core 0) 0).clear = true ∧ ((Op.exec bdwXs bdwMid).2.part 2).infSeen = true := by
  decide +kernel

theorem zeros_of {α : Type} {f : α → List (List Machine.Num)} {r : Except Trap α × State} (h : allZerosB f r.1 = true) :
    ∃ a, r = (.ok a, r.2) ∧ ∀ l ∈ f a, ∀ v ∈ l, v.isZero = true := by
  obtain ⟨_ | a, t⟩ := r
  · cases h
  · exact ⟨a, rfl, fun l hl v hv => List.all_eq_true.mp (List.all_eq_true.mp h l hl) v hv⟩

theorem bdw_fine_of {s t u : State} {dys : List (List Machine.Num)} {xs : List (List Machine.Num) × Bool}
    (hd : Op.exec bdwDys s = (.ok dys, t)) (hx : Op.exec bdwXs t = (.ok xs, u))
    (zd : ∀ l ∈ dys, ∀ v ∈ l, v.isZero = true) (zx : ∀ l ∈ xs.1, ∀ v ∈ l, v.isZero = true) (hu : Clearing bdwWork.core 0 u) :
    Fine (fun _ => True) (bdwCore bdwWork bdwX bdwY false) s := by
  have e0 : cOF bdwWork.g 1 = false := by decide +kernel
  have e1 : (!bdwX.space || !bdwY.space) = false := by decide +kernel
  have e2 : hasRecord bdwX = false := by decide +kernel
  have e3 : (wNtok bdwWork.g + 1) / 16 = 1 := by decide +kernel
  have e4 : chestTiles bdwWork.g = [0] := by decide +kernel
  have e5 : wTok0 bdwWork.g = 0 := by decide +kernel
  have e6 : wN0 bdwWork.g = 0 := by decide +kernel
  have e7 : wK0 bdwWork.g = 0 := by decide +kernel
  have e8 : wCht bdwWork.g = 0 := by decide +kernel
  have e9 : bdwWork.c.nn = 0 := rfl
  unfold bdwCore
  simp only [e0, e1, e2, e3, e4, e5, e6, e7, e8, e9, Bool.false_eq_true, if_false]
  refine Fine.bind (a := []) (t := s) (exec_at (exec_pure _ _)) ?_
  refine Fine.step (J := fun _ => True) (each_one (Fine.bind hd (each_one ?_))) (fun _ s _ => fine_mod trivial)
  refine Fine.bind hx ?_
  refine Fine.step (J := fun _ => True) (chestGroup_fine bdwWork rfl _ _ _ _ _ zx zd _ hu) (fun _ s _ => ?_)
  exact Fine.step (J := fun _ => True) (fine_mod trivial) (fun _ s _ => Fine.step (J := fun _ => True) (fine_mod trivial)
    (fun _ s _ => Fine.step (J := fun _ => True) (fine_mod trivial) (fun _ s _ => fine_mod trivial)))

theorem bdw_fine : Fine (fun _ => True) (bdwCore bdwWork bdwX bdwY false) cBdw.due := by
  obtain ⟨dys, hd, zd⟩ := zeros_of bdw_dys
  obtain ⟨xs, hx, zx⟩ := zeros_of bdw_xs
  exact bdw_fine_of hd hx zd zx ⟨bdw_clear.1, bdw_clear.2.1, bdw_clear.2.2⟩

theorem bdwRun_traps {s : State} {g : Granule} (h : atRung3 (s.part 2) .B g = false) :
    (bdwRun s 2 .B g).traps = (onCoresOf s 2 .B g (fun w =>
      bdwCore w (descOf s 2 .B g (wX g)) (descOf s 2 .B g (wDy g)) false)).2 := by
  unfold bdwRun
  rw [h]

theorem bdw_clean : (bdwRun cBdw.due 2 .B cBdw.g).traps = [] :=
  (bdwRun_traps (by decide +kernel)).trans
    (onCores_one (by decide +kernel) (by decide +kernel) (by decide +kernel) bdw_fine)

/-! The witnesses themselves. -/

theorem begins_all {l : List Cmd} (h : l.all Cmd.ok = true) :
    ∀ x ∈ l, x.st.Canonical ∧ Begins x.row x.st 2 x.tag x.g x.fetched :=
  fun x hx => Cmd.begins (List.all_eq_true.mp h x hx)

theorem clean_all {l : List Cmd} (h : l.all Cmd.clean = true) :
    ∀ x ∈ l, (x.row.run x.due 2 x.tag x.g (x.fetched.part 2).nextSeq).traps = [] :=
  fun x hx => List.isEmpty_iff.mp (List.all_eq_true.mp h x hx)

/-- The state of a test's command before its engine's busy count rises, and what follows that count. -/
def Cmd.calm (x : Cmd) : State :=
  countWait (countCores ((x.fetched.setStream 2 x.tag (advance (x.fetched.stream 2 x.tag) x.g)).modPart 2 (fun y =>
    { y with nextSeq := (x.fetched.part 2).nextSeq + 1 })) 2 x.tag x.g 0x03 1) 2 x.tag x.g
def Cmd.after (x : Cmd) (s : State) : State :=
  freshRows (x.row.predict (modRefs addRef s 2 (issueReads x.row x.fetched 2 x.tag x.g)) 2 x.tag x.g)
/-- The same with the busy count listed, or not where it is 0: its cycles are a free number. -/
def Cmd.busy (x : Cmd) (i : Nat) (listed : Bool) : State := x.after { x.calm with
  freeCount := x.calm.freeCount + 1,
  counts := if listed then [(0xF0004208 + 8 * i, (Config.waitCycles x.calm.freeCount) % wrap48)] else [] }

theorem due_busy {x : Cmd} {i : Nat} (hb : busyEngine (cOpcode x.g) = some i) (ht : cTrace x.g = false)
    (hc : x.calm.counts = []) : ∃ listed, x.due = x.busy i listed := by
  have h : x.due = x.after (countBusy x.calm 2 x.g) := by
    simp only [Cmd.due, dueState, issueHead, ht, Bool.false_eq_true, if_false, Cmd.after, Cmd.calm]
  have e : countBusy x.calm 2 x.g = { x.calm with
      freeCount := x.calm.freeCount + 1,
      counts := Sparse.set 0 [] (0xF0004208 + 8 * i) (Config.waitCycles x.calm.freeCount % wrap48) } := by
    simp only [countBusy, hb, bump, count, hc]
    simp [Sparse.get]
  rw [h, e]
  by_cases hw : Config.waitCycles x.calm.freeCount % wrap48 = 0
  · exact ⟨false, by simp [Cmd.busy, Sparse.set, hw]⟩
  · exact ⟨true, by simp [Cmd.busy, Sparse.set, hw]⟩

/-- The work of a test's command meets no stop, whatever its busy count. -/
def Cmd.cleanBusy (x : Cmd) (i : Nat) : Bool := decide (busyEngine (cOpcode x.g) = some i) && !cTrace x.g &&
  decide (x.calm.counts = []) && [true, false].all (fun l => (x.row.run (x.busy i l) 2 x.tag x.g 10).traps.isEmpty)

theorem clean_busy {x : Cmd} {i : Nat} (h : x.cleanBusy i = true) : (x.row.run x.due 2 x.tag x.g 10).traps = [] := by
  simp only [Cmd.cleanBusy, Bool.and_eq_true, decide_eq_true_eq, Bool.not_eq_true', List.all_eq_true, List.isEmpty_iff] at h
  obtain ⟨l, hl⟩ := due_busy h.1.1.1 h.1.1.2 h.1.2
  rw [hl]
  exact h.2 l (by cases l <;> simp)

/-- A SIG to object 5 of the peer over connection 0. -/
def cSigRemote : Cmd := ⟨sigCmd, .F, word [(248, 0x03), (240, 1), (108, 5), (104, 1), (64, 5)], [], id⟩

/-- The same behind another to that connection that waits. -/
def cSigBehind : Cmd := { cSigRemote with env := fun s => s.modStream 2 .F (fun q =>
  { q with flight := [⟨cSigRemote.g, 0, 3, .behind, false, false, [], [], [], [], none⟩] }) }

theorem test_hyp_control_commands : (∀ x ∈ [cMark, cWait, cSig, cSigRemote, cFence, cStep, cEnd],
      x.st.Canonical ∧ Begins x.row x.st 2 x.tag x.g x.fetched) ∧
    cTrace cWait.g = false ∧ flag (rawReg cWait.st (sqReg 2 0x310)) 31 = false ∧ cOF cSig.g 0 = false ∧
    cOF cSigRemote.g 0 = true ∧ connEndpoint (cSigRemote.st.part 2) (sigConn cSigRemote.g) = some (.conn 5) ∧
    (stepRun cStep.due 2 .F cStep.g).traps = [] ∧
    (cSigBehind.st.Canonical ∧ Ready sigCmd cSigBehind.st 2 .F cSigBehind.g cSigBehind.fetched) ∧
    sigBlocked (dueState sigCmd cSigBehind.fetched 2 .F cSigBehind.g) 2 .F cSigBehind.g (cSigBehind.fetched.part 2).nextSeq = true :=
  ⟨begins_all (by decide +kernel), by decide +kernel, by decide +kernel, by decide +kernel, by decide +kernel,
    by decide +kernel, by decide +kernel, ⟨canonical_of (by decide +kernel), ready_of (by decide +kernel)⟩, by decide +kernel⟩

/-- An END with a command of its stream still in flight, and one whose other streams have ended. -/
def endLate : State := cEnd.st.modStream 2 .F (fun q => { q with flight := [⟨word [(248, 0x10)], 0, 3, .none, false, false, [], [], [], [], none⟩] })
def endLast : State := cEnd.st.modPart 2 (fun x => { x with sB := { x.sB with state := .done }, sU := { x.sU with state := .done } })

theorem test_hyp_end : (Offered endCmd endLate 2 .F cEnd.g ∧ pairBad (endLate.part 2) .F cEnd.g = false ∧
      ∃ f ∈ (endLate.stream 2 .F).flight, f.done = false) ∧
    Ready endCmd endLast 2 .F cEnd.g (fetchedState endCmd endLast .F cEnd.g) ∧
    (∀ r, r ≠ StreamTag.F → (endLast.stream 2 r).state = .done) ∧ (∃ r, r ≠ StreamTag.F ∧ (cEnd.st.stream 2 r).state ≠ .done) :=
  ⟨⟨offered_of (by decide +kernel), by decide +kernel, by decide +kernel⟩,
    ready_of (by decide +kernel), fun r h => by cases r <;> first | rfl | exact absurd rfl h, .B, by decide, by decide +kernel⟩

/-- P2 with this word at the head of its F-stream, its wait met or not. -/
def wordAt (g : Granule) (met : Bool) : State := (headed .F g []).modStream 2 .F (fun q => { q with waitMet := met })
/-- A MARK with a reserved field, one with a signal to an object outside its run, and a SIG whose peer has room for none. -/
def cBad : Cmd := ⟨markCmd, .F, word [(248, 0x01), (144, 3)], [], id⟩
def cLate : Cmd := ⟨markCmd, .F, word [(248, 0x01), (148, 200), (144, 1)], [], id⟩
def cNoRoom : Cmd := { cSigRemote with env := fun s => { s with conns := [(5, { peerLink with peerSlimit := 0 })] } }
/-- A FENCE behind a command in flight. -/
def fenceLate : State := endLate.modStream 2 .F (fun q => { q with head := some cFence.g })

theorem test_hyp_held_and_refused : (Instr.mark 2 .F, markCmd, id) ∈ streamRows 2 .F ∧
    (Instr.endStream 2 .F, endCmd, id) ∉ streamRows 2 .F ∧ canIssue State.reset 2 .F = false ∧
    (canIssue (wordAt 0 true) 2 .F = true ∧
      canIssue ((wordAt 0 true).modStream 2 .F (fun q => { q with head := none })) 2 .F = true) ∧
    waitPending ((wordAt (word [(248, 0x01), (192, 1)]) false).stream 2 .F) (word [(248, 0x01), (192, 1)]) = true ∧
    (opcodeKnown (cOpcode (word [(248, 0x07)])) = false ∧ waitPending ((wordAt (word [(248, 0x07)]) true).stream 2 .F) (word [(248, 0x07)]) = false) ∧
    (cOpcode (word [(248, 0x30), (56, 9)]) = 0x30 ∧ vopFuncs.contains (vFunc (word [(248, 0x30), (56, 9)])) = false) ∧
    (Offered fenceCmd fenceLate 2 .F cFence.g ∧
      (held (fenceLate.part 2) .F cFence.g && !pairBad (fenceLate.part 2) .F cFence.g) = true) ∧
    (Offered markCmd cBad.st 2 .F cBad.g ∧ (held (cBad.st.part 2) .F cBad.g && !pairBad (cBad.st.part 2) .F cBad.g) = false ∧
      firstCode (earlyChecks (cBad.st.part 2) .F cBad.g) = some 3) ∧
    (AtHead markCmd cLate.st 2 .F cLate.g ∧ Fetched markCmd cLate.st 2 .F cLate.g cLate.fetched ∧
      firstCode (failedChecks markCmd cLate.fetched 2 .F cLate.g) = some 7 ∧ (cLate.st.part 2).record.cause = 0) ∧
    (AtHead sigCmd cNoRoom.st 2 .F cNoRoom.g ∧ Fetched sigCmd cNoRoom.st 2 .F cNoRoom.g cNoRoom.fetched ∧
      failedChecks sigCmd cNoRoom.fetched 2 .F cNoRoom.g = [] ∧ sigCmd.hold cNoRoom.fetched 2 .F cNoRoom.g = true) := by
  refine ⟨by simp [streamRows, plainRows, vectorRows], by simp [streamRows, plainRows, vectorRows], by decide +kernel, by decide +kernel, by decide +kernel, by decide +kernel,
    by decide +kernel, ⟨offered_of (by decide +kernel), by decide +kernel⟩,
    ⟨offered_of (by decide +kernel), by decide +kernel, by decide +kernel⟩,
    ⟨atHead_of (by decide +kernel), fetched_of (by decide +kernel), by decide +kernel, by decide +kernel⟩,
    atHead_of (by decide +kernel), fetched_of (by decide +kernel), by decide +kernel, by decide +kernel⟩

/-- An ADD of a NaN. -/
def cNan : Cmd := { cVop 0x01 with env := fun s => { s with mem := [(0x200000, 0xC0#8), (0x200001, 0x7F#8)] } }

/-- The kind of the first stop, if it is a NaN. -/
def nanOf : List Trap → Option TrapKind
  | [] => none
  | x :: _ => match x.stop with
    | .nan k => some k
    | _ => none

theorem test_hyp_trap : (Instr.add 2 .F, vopCmd 0x01, id) ∈ streamRows 2 .F ∧ Ready cNan.row cNan.st 2 .F cNan.g cNan.fetched ∧
    (∃ x xs k, (effectOf cNan.row cNan.fetched 2 .F cNan.g).traps = x :: xs ∧ x.stop = .nan k) ∧
    ((effectOf cNan.row cNan.fetched 2 .F cNan.g).state.part 2).state = .running ∧
    ((effectOf cNan.row cNan.fetched 2 .F cNan.g).state.part 2).record.cause = 0 := by
  refine ⟨by simp [streamRows, plainRows, vectorRows], (Cmd.begins (x := cNan) (by decide +kernel)).2.ready, ?_, by decide +kernel, by decide +kernel⟩
  have h : (nanOf (effectOf cNan.row cNan.fetched 2 .F cNan.g).traps).isSome = true := by decide +kernel
  revert h
  generalize (effectOf cNan.row cNan.fetched 2 .F cNan.g).traps = ts
  intro h
  cases ts with
  | nil => cases h
  | cons x xs =>
    revert h
    cases hx : x.stop with
    | nan k => exact fun _ => ⟨x, xs, k, rfl, hx⟩
    | _ => intro h; simp only [nanOf, hx] at h; cases h

/-- Each engine row: its command issues, begins and meets no stop. The CFLUSH waits for the COLL of its pair; the others do
their work. -/
theorem test_hyp_engines : ∀ x ∈ [cLoad, cXpose, cTload, cStore, cCflush, cUpd],
    (x.st.Canonical ∧ Begins x.row x.st 2 x.tag x.g x.fetched) ∧
    (x.row.run x.due 2 x.tag x.g (x.fetched.part 2).nextSeq).traps = [] :=
  fun x hx => ⟨begins_all (by decide +kernel) x hx, clean_all (by decide +kernel) x hx⟩

theorem test_hyp_fmat : cFmat.st.Canonical ∧ Begins fmatCmd cFmat.st 2 .F cFmat.g cFmat.fetched ∧
    (cFmat.fetched.part 2).nextSeq = 10 ∧ (fmatRun cFmat.due 2 .F cFmat.g 10).traps = [] :=
  have h := Cmd.begins (x := cFmat) (by decide +kernel)
  ⟨h.1, h.2, by decide +kernel, clean_busy (x := cFmat) (i := 0) (by decide +kernel)⟩

theorem test_hyp_bmat : cBmat.st.Canonical ∧ Begins bmatCmd cBmat.st 2 .F cBmat.g cBmat.fetched ∧
    (cBmat.fetched.part 2).nextSeq = 10 ∧ (bmatRun cBmat.due 2 .F cBmat.g 10).traps = [] :=
  have h := Cmd.begins (x := cBmat) (by decide +kernel)
  ⟨h.1, h.2, by decide +kernel, clean_busy (x := cBmat) (i := 3) (by decide +kernel)⟩

theorem test_hyp_bdx : cBdx.st.Canonical ∧ Begins bdxCmd cBdx.st 2 .B cBdx.g cBdx.fetched ∧
    (cBdx.fetched.part 2).nextSeq = 10 ∧ (bdxRun cBdx.due 2 .B cBdx.g 10).traps = [] :=
  have h := Cmd.begins (x := cBdx) (by decide +kernel)
  ⟨h.1, h.2, by decide +kernel, bdx_clean⟩

theorem test_hyp_bdw : cBdw.st.Canonical ∧ Begins bdwCmd cBdw.st 2 .B cBdw.g cBdw.fetched ∧
    (bdwRun cBdw.due 2 .B cBdw.g).traps = [] :=
  have h := Cmd.begins (x := cBdw) (by decide +kernel)
  ⟨h.1, h.2, bdw_clean⟩

/-- The work of a vector operation of a test, core by core. -/
def Cmd.cores (x : Cmd) : State × List Trap := onCoresOf x.due 2 x.tag x.g (fun w => vopCore w
  { a := descOf x.due 2 x.tag x.g (vSrc1 x.g), b := descOf x.due 2 x.tag x.g (vSrc2 x.g), d := descOf x.due 2 x.tag x.g (vDst x.g) }
  (tableAt x.due 2 x.tag x.g (x.fetched.part 2).nextSeq))

theorem test_hyp_vectors : ∀ f ∈ [0x01, 0x02, 0x03, 0x04, 0x05, 0x06, 0x07, 0x08, 0x10, 0x11, 0x20, 0x21, 0x22, 0x23, 0x30, 0x31, 0x32],
    ((cVop f).st.Canonical ∧ Begins (vopCmd f) (cVop f).st 2 .F (cVop f).g (cVop f).fetched) ∧ (cVop f).cores.2 = [] := by
  intro f hf
  exact ⟨Cmd.begins (x := cVop f) (by revert f; decide +kernel),
    List.isEmpty_iff.mp (show (cVop f).cores.2.isEmpty = true by revert f; decide +kernel)⟩

/-- A TBLLOAD in flight that has read its table. -/
def tableFlight : Flight := ⟨cTbl.g, 0, 3, .table 7 ⟨false, 0, 0, 0x3F000000, 0, 0, 0, 0, []⟩, false, false, [], [], [], [], none⟩
def tableDone : State := cTbl.st.modStream 2 .F (fun q => { q with flight := [tableFlight] })

/-- A UPD in flight whose passes are done: 28 bytes of its entry wait to be written, and CLIPPED to be posted. -/
def updFlight : Flight := ⟨cUpd.g, 0, 3, .update (leBytes 28 5) 1, false, false, [], [], [], [], none⟩
def updDone : State := cUpd.st.modStream 2 .U (fun q => { q with flight := [updFlight] })
def updWritten : Except Trap Unit × State :=
  Op.exec (Op.at 9 0xFF [uGroup updFlight.word, 0, 0, 0]
    (writeMem (.io 0) 2 (groupAddr (updDone.part 2) (uGroup updFlight.word) + 64) (leBytes 28 5))) updDone

theorem test_hyp_work_at_completion : (cTbl.st.Canonical ∧ Ready tblloadCmd cTbl.st 2 .F cTbl.g cTbl.fetched) ∧
    (effectOf tblloadCmd cTbl.fetched 2 .F cTbl.g).traps = [] ∧ (tableDone.Canonical ∧ Settled (tableDone.part 2) ∧
    (tableDone.part 2).halted = false ∧
    (tableDone.stream 2 .F).flight = [tableFlight] ∧ tableFlight.done = false ∧ (tableDone.part 2).state = .running) ∧
    updDone.Canonical ∧ Settled (updDone.part 2) ∧ (updDone.part 2).halted = false ∧
    (updDone.stream 2 .U).flight = [updFlight] ∧ updFlight.done = false ∧
    (updDone.part 2).state = .running ∧ sigOf updFlight.word = none ∧ cTrace updFlight.word = false ∧
    updWritten = (.ok (), updWritten.2) ∧ flag (rawReg updWritten.2 (sqReg 2 0x310)) 31 = false :=
  have h := Cmd.begins (x := cTbl) (by decide +kernel)
  ⟨⟨h.1, h.2.ready⟩, List.isEmpty_iff.mp (by decide +kernel),
    ⟨canonical_of (by decide +kernel), settled_of (by decide +kernel), rfl, rfl, rfl, rfl⟩, canonical_of (by decide +kernel),
    settled_of (by decide +kernel), rfl, rfl, rfl, rfl, by decide +kernel, by decide +kernel, exec_ok (by decide +kernel),
    by decide +kernel⟩

theorem test_upd_writes_entry : (match execCommandComplete 2 .U 0 updDone with
    | .next v => decide (Sparse.getRun 0#8 v.mem (groupAddr (updDone.part 2) (uGroup cUpd.g) + 64) 28 = leBytes 28 5) &&
        flag (rawReg v 0x98010008) 0
    | _ => false) = true := by decide +kernel

theorem test_hyp_transfers : (∀ x ∈ [cMigr, cPub, cPref, cSend, cRecv, cColl],
      (x.st.Canonical ∧ Begins x.row x.st 2 x.tag x.g x.fetched) ∧
      (x.row.run x.due 2 x.tag x.g (x.fetched.part 2).nextSeq).traps = []) ∧ pubCopies cPub.g = false :=
  ⟨fun x hx => ⟨begins_all (by decide +kernel) x hx, clean_all (by decide +kernel) x hx⟩, by decide +kernel⟩

/-! ### Worked values of the streams -/

/-- R220: 1 + 2 is 3 in BF16, and the empty elements give +0; here in the core's store. -/
def cAdd : Cmd := { cVop 0x01 with
  ds := [near 8 0x2000 0 32 1 1, near 8 0x3000 0 32 1 1, near 8 0x4000 0 32 1 1],
  env := fun s => { s with store := [(0x2000, 0x80#8), (0x2001, 0x3F#8), (0x3001, 0x40#8)] } }

theorem test_add_values : ((vopCmd 0x01).run cAdd.due 2 .F cAdd.g 10).state.store =
    [(0x2000, 0x80#8), (0x2001, 0x3F#8), (0x3001, 0x40#8), (0x4000, 0x40#8), (0x4001, 0x40#8)] := by
  obtain ⟨l, h⟩ := due_busy (x := cAdd) (i := 4) (by decide +kernel) (by decide +kernel) (by decide +kernel)
  rw [h]
  clear h
  revert l
  decide +kernel

/-- R83: the last END completes the partition. -/
theorem test_last_end : (match exec (.endStream 2 .F) endLast with
    | .next t => decide ((t.part 2).state = .complete ∧ (t.stream 2 .F).state = .done)
    | _ => false) = true := by
  decide +kernel


/-! ### Operands meet every clause: tiers, prefetch, completion, timers, objects, code -/

/-- P2 with pages 6 and 7 on the lower shelf, an exchange of page 3 and page 6, and a frame being zeroed. -/
def lowFrame (k : Nat) : Nat := lowerBase + k
def cxlUp (s : State) : State := setRaw s 0xA0000100 0x40000000#32
def tiered : State := cxlUp { live.setPart 2 { running2 with mem := { running2.mem with pages := [0, 1, 2, 3, 4, 5, lowFrame 1, lowFrame 2], exch := [⟨6, 3⟩], poolZeroing := [lowFrame 4], access := [(3, 9)] } } with
  mem := [(3 * 2 ^ 21 + 5, 3#8), (lowFrame 1 * 2 ^ 21 + 5, 8#8)] }
def pubFlight : Flight := ⟨word [(248, 0x43), (64, 5)], 0, 3, .pub, false, false, [3], [3], [], [], none⟩
def publishing : State := tiered.modStream 2 .U (fun q => { q with flight := [pubFlight] })

theorem test_hyp_tier_events : tiered.Canonical ∧ Settled (tiered.part 2) ∧ (tiered.part 2).halted = false ∧
    (∀ y ∈ tiered.sess, y.2.ahead = []) ∧ (tiered.part 2).mem.exch[0]? = some ⟨6, 3⟩ ∧
    lowFrame 1 = (tiered.part 2).mem.pages.getD 6 0 ∧ 3 = (tiered.part 2).mem.pages.getD 3 0 ∧ lowFrame 1 ≠ 3 ∧
    disturbedIn tiered (lowFrame 1) = [] ∧ disturbedIn tiered 3 = [] ∧ tiered.lineErrs = [] ∧
    (isLower (lowFrame 1) = true → portUp tiered (lowerPort (lowFrame 1)) = true) ∧
    (isLower 3 = true → portUp tiered (lowerPort 3) = true) ∧ (5 : Nat) < frameBytes ∧
    (tiered.part 2).mem.poolZeroing[0]? = some (lowFrame 4) ∧ publishing.Canonical ∧
    (publishing.stream 2 .U).flight[0]? = some pubFlight ∧ pubFlight.wait = .pub ∧ pubFlight.writes.head? = some 3 ∧
    pName pubFlight.word = 5 ∧ ((publishing.stream 2 .U).flight.take 0).any pubWaits = false ∧
    slotWritten (publishing.part 2) pubFlight.seq 3 = false ∧ goesOn (publishing.part 2) = true ∧
    migrates (tiered.part 0) = false :=
  ⟨canonical_of (by decide +kernel), settled_of (by decide +kernel), rfl, by decide +kernel, by decide +kernel, by decide +kernel,
    by decide +kernel, by decide, by decide +kernel, by decide +kernel, rfl, by decide +kernel, by decide +kernel,
    by decide +kernel, by decide +kernel, canonical_of (by decide +kernel), by decide +kernel, rfl, rfl, by decide +kernel, rfl,
    by decide +kernel, by decide +kernel, by decide +kernel⟩

theorem test_hyp_wrappers : ∀ id, id = lowFrame 1 ∨ id = 3 → ∀ o, wrapperClosed tiered (memBlk id o) = false := by
  have h : ∀ k : Fin 36, wrapperClosed tiered (0x2400 + k.val) = false := by decide +kernel
  rintro id (rfl | rfl) o
  · exact (by decide +kernel : wrapperClosed tiered (0x2800 + lowerPort (lowFrame 1)) = false)
  · have hx : ∀ a b : Nat, a < 2 ^ 2 → b < 2 ^ 2 → Nat.xor a b < 2 ^ 2 := fun a b ha hb => Nat.xor_lt_two_pow ha hb
    have hg : ∀ a, groupOf a < 2 ^ 2 := fun a => hx _ _
      (hx _ _ (Nat.mod_lt _ (by decide)) (Nat.mod_lt _ (by decide))) (hx _ _ (Nat.mod_lt _ (by decide)) (Nat.mod_lt _ (by decide)))
    have hc : channelOf (3 * frameBytes + o) < 36 := by
      have h4 := hg (3 * frameBytes + o)
      unfold channelOf
      omega
    exact h ⟨_, hc⟩

/-- A prefetch entry of P2 for name 5, before and after its source is known; slot 4 holds the name. -/
def prefEntryOf (src : Option Nat) : PrefEntry := ⟨5, 0x200000, 1#32, 0, 2, true, 3, 0#32, true, 4, src, 7#32⟩
def prefetching (src : Option Nat) : State := (cxlUp (live.setPart 2 running2)).modPart 2 (fun x => { x with mem := { x.mem with prefQ := [prefEntryOf src], names := [(5, ⟨7#32, 5⟩)], regions := [(4, { Region.free with state := .published, name := 5, refs := 1, frames := [(0, lowFrame 3 + 1)] })] } })

theorem test_hyp_prefetch : (prefetching none).Canonical ∧ ((prefetching none).part 2).mem.prefQ = prefEntryOf none :: [] ∧
    prefetches ((prefetching none).part 2) = true ∧ (prefEntryOf none).src = none ∧
    prefReady (prefetching none) ((prefetching none).part 2) (prefEntryOf none) = true ∧
    (Sparse.get NameEntry.zero ((prefetching none).part 2).mem.names (prefEntryOf none).name).slot = 4 + 1 :=
  ⟨canonical_of (by decide +kernel), rfl, by decide +kernel, rfl, by decide +kernel, by decide +kernel⟩

theorem test_hyp_prefetch_copy : (prefetching (some 4)).Canonical ∧ (prefEntryOf (some 4)).src = some 4 ∧
    exchanging ((prefetching (some 4)).part 2).mem (prefEntryOf (some 4)).dst (256 * (prefEntryOf (some 4)).len) = false ∧
    Op.exec (prefCopy 2 (prefEntryOf (some 4)) 4) (prefetching (some 4)) =
      (.ok (), (Op.exec (prefCopy 2 (prefEntryOf (some 4)) 4) (prefetching (some 4))).2) ∧
    (∀ r, ∀ f ∈ (((prefetching (some 4)).part 2).stream r).flight, f.wait ≠ .pref) ∧ (prefEntryOf (some 4)).fullEn = true :=
  ⟨canonical_of (by decide +kernel), rfl, by decide +kernel, exec_ok (by decide +kernel),
    fun r f hf => (by cases r <;> cases hf), rfl⟩

/-- The same with an exchange of the page that the copy fills. -/
def prefetchHeld : State := (prefetching (some 4)).modPart 2 (fun x => { x with mem := { x.mem with exch := [⟨1, 2⟩] } })

theorem test_hyp_prefetch_held : prefetchHeld.Canonical ∧ (prefetchHeld.part 2).mem.prefQ = prefEntryOf (some 4) :: [] ∧
    exchanging (prefetchHeld.part 2).mem (prefEntryOf (some 4)).dst (256 * (prefEntryOf (some 4)).len) = true :=
  ⟨canonical_of (by decide +kernel), rfl, by decide +kernel⟩

/-- Commands in flight that add 1 to object 5 when they complete. -/
def flightOfSeq (n : Nat) : Flight := ⟨word [(248, 0x10), (148, 5), (144, 1), (128, 1)], 0, n, .none, false, false, [], [], [], [], none⟩
def flying (ns : List Nat) : State := (live.setPart 2 running2).modStream 2 .F (fun q =>
  { q with state := .running, flight := ns.map flightOfSeq })

theorem test_hyp_completion : (flying [3]).Canonical ∧ (flying [3, 4]).Canonical ∧ Settled ((flying [3]).part 2) ∧
    Settled ((flying [3, 4]).part 2) ∧ ((flying [3, 4]).part 2).halted = false ∧
    canComplete ((flying [3]).part 2) (flightOfSeq 3) = true ∧ canComplete ((flying [3, 4]).part 2) (flightOfSeq 4) = true ∧
    sigOf (flightOfSeq 3).word = some .add ∧ cTrace (flightOfSeq 3).word = false ∧
    ((flying [3]).stream 2 .F).flight = [flightOfSeq 3] ∧ ((flying [3, 4]).stream 2 .F).flight = [flightOfSeq 3, flightOfSeq 4] ∧
    (flightOfSeq 3).seq ≠ (flightOfSeq 4).seq ∧ ((flying [3, 4]).stream 2 .F).flight[1]? = some (flightOfSeq 4) ∧
    (((flying [3, 4]).stream 2 .F).flight.map Flight.seq).Nodup :=
  ⟨canonical_of (by decide +kernel), canonical_of (by decide +kernel), settled_of (by decide +kernel), settled_of (by decide +kernel),
    rfl, by decide +kernel, by decide +kernel, by decide +kernel,
    by decide +kernel, rfl, rfl, by decide, rfl, by decide⟩

/-- P2 waits with a time limit; P2 drains. -/
def timedGranule : Granule := word [(248, 2), (196, 5), (192, 1), (160, 7), (0, 100)]
def timed : State := (headed .F timedGranule []).modStream 2 .F (fun q => { q with waitMet := false })
def draining2 : State := timed.modPart 2 (fun x => { x with draining := true, record := { x.record with cause := 2 } })

theorem test_hyp_timeouts : timed.Canonical ∧ (timed.part 2).record.cause = 0 ∧ timedWait (timed.stream 2 .F) = some timedGranule ∧
    timersRun (timed.part 2) .F = true ∧ (timed.part 2).halted = false ∧ (timed.stream 2 .F).state = .running ∧
    ((timed.modPart 2 (fun x => { x with halted := true })).part 2).halted = true ∧ draining2.Canonical ∧
    (draining2.part 2).draining = true ∧ partInflight (draining2.part 2) = 0 :=
  ⟨canonical_of (by decide +kernel), rfl, by decide +kernel, by decide +kernel, rfl, rfl, rfl, canonical_of (by decide +kernel), rfl,
    by decide +kernel⟩

/-- Bytes across the border of two pages. -/
theorem test_hyp_tier_writes : (live.setPart 2 running2).Canonical ∧ (live.setPart 2 running2).lineErrs = [] ∧ ((live.setPart 2 running2).part 2).mem.pages.Nodup ∧
    2 ^ 21 - 1 + [1#8, 2#8].length ≤ ((live.setPart 2 running2).part 2).mem.pages.length * frameBytes ∧
    ((live.setPart 2 running2).part 2).mem.pages.length * frameBytes ≤ regionBase ∧
    Op.exec (writeMem .compute 2 (2 ^ 21 - 1) [1#8, 2#8]) (live.setPart 2 running2) =
      (.ok (), (Op.exec (writeMem .compute 2 (2 ^ 21 - 1) [1#8, 2#8]) (live.setPart 2 running2)).2) ∧
    (∀ g, Sparse.get 0 (live.setPart 2 running2).errs g = 0) ∧
    (∀ j, j < [1#8, 2#8].length → ∀ id, locate ((live.setPart 2 running2).part 2).mem (2 ^ 21 - 1 + j) =
      .frame id ((2 ^ 21 - 1 + j) % frameBytes) → 5 * 2 ^ 21 ≠ id * frameBytes + (2 ^ 21 - 1 + j) % frameBytes) := by
  refine ⟨canonical_of (by decide +kernel), rfl, by decide +kernel, by decide +kernel, by decide +kernel, exec_ok (by decide +kernel),
    fun _ => rfl, fun j hj id h => ?_⟩
  have e0 : locate ((live.setPart 2 running2).part 2).mem (2 ^ 21 - 1 + 0) = .frame 0 (2 ^ 21 - 1) := by decide +kernel
  have e1 : locate ((live.setPart 2 running2).part 2).mem (2 ^ 21 - 1 + 1) = .frame 1 0 := by decide +kernel
  have hj : j = 0 ∨ j = 1 := by simp only [List.length_cons, List.length_nil] at hj; omega
  rcases hj with rfl | rfl
  · rw [e0] at h
    cases h
    decide
  · rw [e1] at h
    cases h
    decide

/-- The last object, about to wrap, and a stream that waits on object 5. -/
def wrapping : State := { live with so := [(0xFFF, ⟨0xFFFFFFFF#32, 3#16, false⟩)] }

theorem test_hyp_objects : wrapping.Canonical ∧ 0xFFF < 0x1000 ∧ 2 ^ 32 ≤ (soGet wrapping 0xFFF).value.toNat + (1#32).toNat ∧
    (soGet wrapping 0xFFE).value.toNat + (0xFFFFFFFF#32).toNat < 2 ^ 32 ∧
    (soGet { wrapping with so := [(0xFFF, ⟨0#32, 3#16, true⟩)] } 0xFFF).wrap = true ∧
    soOwner { timed with soBlk := [(0, ⟨true, false, 2⟩)] } 5 = some 2 ∧
    ({ timed with soBlk := [(0, ⟨true, false, 2⟩)] }.part 2).frozen = false ∧
    ({ timed with soBlk := [(0, ⟨true, false, 2⟩)] }.stream 2 .F).head = some timedGranule ∧
    waitsOn ({ timed with soBlk := [(0, ⟨true, false, 2⟩)] }.stream 2 .F) 5 = true ∧
    condHolds (cWaitCond timedGranule) ((soGet timed 5).apply .add 7#32).value (cWaitValue timedGranule) = true :=
  ⟨canonical_of (by decide +kernel), by decide, by decide +kernel, by decide +kernel, rfl, by decide +kernel, rfl, rfl,
    by decide +kernel, by decide +kernel⟩

/-- An error pattern of 36 bytes with these bytes first. -/
def pattern (bs : List Byte) : List Byte := bs ++ List.replicate (36 - bs.length) 0#8

theorem test_hyp_code : (List.replicate 32 0x5A#8).length = 32 ∧ (List.replicate 32 0#8).length = 32 ∧
    ∀ k : Fin 5, (pattern ((List.range k.val).map (fun i => BitVec.ofNat 8 (i + 1)))).length = 36 ∧
      weight (pattern ((List.range k.val).map (fun i => BitVec.ofNat 8 (i + 1)))) = k.val := by
  refine ⟨by decide, by decide, ?_⟩
  decide +kernel

theorem test_hyp_numbers : fE4M3.decode 0x01 = .ok (.fin (1 / 512) false) ∧ 0x01 < 2 * fE4M3.signBit ∧
    ratAbs ((5 / 2 : Rat) - roundInt .nearestEven (5 / 2)) = 1 / 2 ∧ (3 : Rat) = (3 : Rat).floor ∧
    (5 / 2 : Rat) ≠ ((5 / 2 : Rat)).floor := by
  refine ⟨?_, ?_, ?_, ?_, ?_⟩ <;> decide +kernel

theorem test_hyp_steps : State.reset.pending = [] ∧ State.reset.Canonical ∧ step State.reset = .next State.reset :=
  ⟨rfl, canonical_of (by decide +kernel), rfl⟩
end Sys2Proof.Tests
end

section
/-! SUPPORT. What work leaves of the state, as views: a view is a function of the state, and an operation leaves it when the
view reads the same after as before. `State.parts` is the view that whatever stays outside the partitions leaves;
`steady` is the view that tracing, counting and signalling leave: every partition but for its trace ring, its waits
observed, and the books of its memory. -/

namespace Sys2Proof.Machine

/-! ### Views -/

theorem foldl_view {α β σ : Type} (f : σ → α) {g : σ → β → σ} (hg : ∀ s b, f (g s b) = f s) (l : List β) (s : σ) :
    f (l.foldl g s) = f s := by
  induction l generalizing s with
  | nil => rfl
  | cons b l ih => rw [List.foldl_cons, ih, hg]

/-- The work leaves the view, whether it ends or stops. -/
def Op.Leaves {α β : Type} (f : State → α) (m : Op β) : Prop := ∀ s, f (Op.exec m s).2 = f s

section
variable {α β γ : Type} {f : State → α}

theorem Op.exec_bind (m : Op β) (k : β → Op γ) (s : State) :
    Op.exec (m >>= k) s = match Op.exec m s with
      | (.ok b, t) => Op.exec (k b) t
      | (.error e, t) => (.error e, t) := by
  change ExceptT.bindCont k (m s).1 (m s).2 = _
  change _ = match m s with
    | (.ok b, t) => Op.exec (k b) t
    | (.error e, t) => (.error e, t)
  rcases m s with ⟨_ | _, t⟩ <;> rfl

theorem Op.Leaves.pure (b : β) : Op.Leaves f (Pure.pure b : Op β) := fun _ => rfl

theorem Op.Leaves.stop (st : Stop) : Op.Leaves f (Op.stop st : Op β) := fun _ => rfl

theorem Op.Leaves.get : Op.Leaves f Op.get := fun _ => rfl

theorem Op.Leaves.mod {h : State → State} (hh : ∀ s, f (h s) = f s) : Op.Leaves f (Op.mod h) := hh

theorem Op.Leaves.bind {m : Op β} {k : β → Op γ} (hm : Op.Leaves f m) (hk : ∀ b, Op.Leaves f (k b)) :
    Op.Leaves f (m >>= k) := by
  intro s
  have h := hm s
  rw [Op.exec_bind]
  split <;> rename_i he <;> rw [he] at h
  · exact (hk _ _).trans h
  · exact h

theorem Op.Leaves.ite {m n : Op β} {c : Prop} [Decidable c] (hm : Op.Leaves f m) (hn : Op.Leaves f n) :
    Op.Leaves f (if c then m else n) := by split <;> assumption

theorem Op.Leaves.map {l : List β} {k : β → Op γ} (hk : ∀ b, Op.Leaves f (k b)) : Op.Leaves f (Op.map l k) := by
  induction l with
  | nil => exact .pure _
  | cons b l ih => exact .bind (hk b) (fun _ => .bind ih (fun _ => .pure _))

theorem Op.Leaves.each {l : List β} {k : β → Op Unit} (hk : ∀ b, Op.Leaves f (k b)) : Op.Leaves f (Op.each l k) := by
  induction l with
  | nil => exact .pure _
  | cons b l ih => exact .bind (hk b) (fun _ => ih)

end

/-! ### What leaves every partition -/

@[simp] theorem postBit_parts (s : State) (a i : Nat) : (postBit s a i).parts = s.parts := rfl
@[simp] theorem bump_parts (s : State) (lo : Nat) (ovf : Option (Nat × Nat)) (n : Nat) : (bump s lo ovf n).parts = s.parts := rfl
@[simp] theorem bumpPort_parts (s : State) (i j n : Nat) : (bumpPort s i j n).parts = s.parts := rfl
@[simp] theorem zeroFrame_parts (s : State) (id : Nat) : (zeroFrame s id).parts = s.parts := rfl
@[simp] theorem putBytes_parts (s : State) (k : Nat) (bs : List Byte) (clear : List Nat) :
    (putBytes s k bs clear).parts = s.parts := rfl
@[simp] theorem soSet_parts (s : State) (n : Nat) (x : SyncObj) : (soSet s n x).parts = s.parts := rfl

@[simp] theorem linkSet_parts (s : State) (e : Endpoint) (l : Link) : (linkSet s e l).parts = s.parts := by
  cases e <;> rfl

theorem demandOne_parts (s : State) (d : Nat) : (demandOne s d).1.parts = s.parts := by
  unfold demandOne
  dsimp only
  split
  · rfl
  · split
    · rfl
    · split <;> rfl

theorem demandAll_parts (s : State) (ds : List Nat) : (demandAll s ds).parts = s.parts := by
  unfold demandAll
  dsimp only
  split <;>
  · refine foldl_view (fun acc : State × List Nat => acc.1.parts) (fun acc d => ?_) _ _
    exact demandOne_parts _ _

@[simp] theorem demandWake_parts (s : State) (d : Nat) : (demandWake s d).parts = s.parts := demandAll_parts s _

theorem handOver_parts (s : State) (code again : Nat) (ws : List WireFrame) : (handOver s code again ws).parts = s.parts := by
  unfold handOver
  dsimp only
  split <;> rfl

theorem pump_parts (s : State) (e : Endpoint) : (pump s e).parts = s.parts := by
  unfold pump
  dsimp only
  split
  · rw [handOver_parts, linkSet_parts]
  · rfl

@[simp] theorem sendFrame_parts (s : State) (e : Endpoint) (op flags : Nat) (ext : Option (List Byte))
    (payload : List (List Byte)) : (sendFrame s e op flags ext payload).parts = s.parts := by
  unfold sendFrame
  dsimp only
  split
  · rw [pump_parts, linkSet_parts]
  · rfl

theorem answer_parts (s : State) (r : ReplyTo) (status : Nat) : (answer s r status).parts = s.parts := by
  unfold answer
  split
  · exact sendFrame_parts _ _ _ _ _ _
  · rfl

/-- Answering the STOPs of a partition forgets them, and leaves everything else of every partition. -/
theorem answerStops_parts (s : State) (p : Fin 16) (status : Nat) :
    (answerStops s p status).parts = (s.modPart p (fun x => { x with stopWaiting := [] })).parts :=
  foldl_view State.parts (fun s r => answer_parts s r status) _ _

@[simp] theorem requestProof_parts (s : State) (kind index : Nat) : (requestProof s kind index).parts = s.parts := by
  unfold requestProof
  split
  · rfl
  · split <;> rfl

@[simp] theorem noteCorrected_parts (s : State) (id ofs : Nat) : (noteCorrected s id ofs).parts = s.parts := by
  unfold noteCorrected
  split <;> simp

@[simp] theorem noteUncorrectable_parts (s : State) (id ofs : Nat) : (noteUncorrectable s id ofs).parts = s.parts := by
  unfold noteUncorrectable
  split <;> simp

@[simp] theorem notePort_parts (s : State) (id ofs : Nat) (poison : Bool) : (notePort s id ofs poison).parts = s.parts := by
  unfold notePort
  dsimp only
  split <;> simp

@[simp] theorem countAccess_parts (s : State) (id ofs : Nat) (write whole : Bool) (n : Nat) :
    (countAccess s id ofs write whole n).parts = s.parts := by
  have h : ∀ d, (if domOn s d then s else demandWake s d).parts = s.parts := fun d => by split <;> simp
  unfold countAccess
  dsimp only
  split
  · split <;> exact h _
  · split
    · split <;> exact h _
    · exact h _

theorem crossLinks_leaves_parts (keys : List Nat) (place dev : Nat) (data : List Byte) :
    Op.Leaves State.parts (crossLinks keys place dev data) := by
  refine .bind .get (fun s => .ite (.pure _) (.bind (.mod fun _ => rfl) (fun _ => ?_)))
  have prove : ∀ ks, Op.Leaves State.parts (Op.mod fun s => proveLines s ks) := fun ks =>
    .mod (fun s => foldl_view State.parts (fun s k => requestProof_parts s _ _) ks s)
  split
  · exact .pure _
  · exact .bind (prove _) (fun _ => .pure _)
  · exact .bind (prove _) (fun _ => .stop _)

theorem crossOut_leaves_parts (side : Side) (die dev : Nat) (data : List Byte) :
    Op.Leaves State.parts (crossOut side die dev data) := by
  cases side with
  | core nn => exact .bind (crossLinks_leaves_parts _ _ _ _) (fun _ => crossLinks_leaves_parts _ _ _ _)
  | compute => exact crossLinks_leaves_parts _ _ _ _
  | io e => exact .ite (.pure _) (.bind (crossLinks_leaves_parts _ _ _ _) (fun _ => crossLinks_leaves_parts _ _ _ _))

theorem burstMask_leaves_parts (id ofs : Nat) : Op.Leaves State.parts (burstMask id ofs) :=
  .bind .get (fun _ => .ite (.pure _) (.bind (.mod fun _ => rfl) (fun _ =>
    .ite (.pure _) (.bind (.mod fun s => requestProof_parts s _ _) (fun _ => .pure _)))))

theorem readGranule_leaves_parts (id ofs dev : Nat) : Op.Leaves State.parts (readGranule id ofs dev) := by
  refine .bind .get (fun s => .ite (.bind (.mod fun s => notePort_parts s _ _ _) (fun _ => .stop _))
    (.ite (.stop _) (.bind (burstMask_leaves_parts _ _) (fun burst => ?_))))
  split
  · exact .pure _
  · exact .bind (.mod fun s => noteCorrected_parts s _ _) (fun _ => .pure _)
  · exact .bind (.mod fun s => noteUncorrectable_parts s _ _) (fun _ => .stop _)

/-! ### The steady part of the partitions -/

/-- A stream but for whether its head's wait has been observed to hold. -/
def Stream.steady (q : Stream) : Stream := { q with waitMet := false }

/-- A partition but for its trace ring, the waits that its streams observe, and the books of its memory. -/
def Part.steady (x : Part) : Part :=
  { x with mem := PartMem.none, ring := [], undrained := [], drained := 0, lostRecs := 0,
           sF := x.sF.steady, sB := x.sB.steady, sU := x.sU.steady }

/-- What of the partitions no trace, no count and no signal changes. -/
def steady (s : State) : Fin 16 → Part := fun p => (s.part p).steady

theorem steady_of_parts {s t : State} (h : t.parts = s.parts) : steady t = steady s := by
  unfold steady State.part
  rw [h]

theorem Op.Leaves.of_parts {β : Type} {m : Op β} (h : Op.Leaves State.parts m) : Op.Leaves Machine.steady m :=
  fun s => steady_of_parts (h s)

/-- A change of a partition that keeps a reading of it keeps that reading of every partition. -/
theorem part_modPart_view {α : Type} {v : Part → α} {f : Part → Part} (hf : ∀ x, v (f x) = v x) (s : State) (p q : Fin 16) :
    v ((s.modPart p f).part q) = v (s.part q) := by
  by_cases h : q = p
  · subst h
    rw [State.part_modPart_same, hf]
  · rw [State.part_modPart_ne s f h]

theorem steady_modPart (s : State) (p : Fin 16) (f : Part → Part)
    (hf : ∀ x, (f x).steady = x.steady := by exact fun _ => rfl) : steady (s.modPart p f) = steady s :=
  funext (part_modPart_view hf s p)

theorem Part.steady_stream (x : Part) (t : StreamTag) : x.steady.stream t = (x.stream t).steady := by
  cases t <;> rfl

/-! ### Memory -/

theorem steady_countPage (s : State) (p : Fin 16) (a : Nat) : steady (countPage s p a) = steady s := by
  unfold countPage
  split
  · exact steady_modPart s p _
  · rfl

theorem openPage_leaves_steady (p : Fin 16) (a : Nat) : Op.Leaves steady (openPage p a) := by
  refine .bind (.mod fun s => steady_modPart s p _) (fun _ => .bind .get (fun s => ?_))
  dsimp only
  split
  · exact .mod fun s => steady_modPart s p _
  · split
    · exact .mod fun s => (steady_modPart _ p _).trans (steady_of_parts rfl)
    · exact .stop _

theorem writeStripe_leaves_steady (side : Side) (p : Fin 16) (a : Nat) (bytes : List Byte) :
    Op.Leaves steady (writeStripe side p a bytes) := by
  unfold writeStripe
  refine .bind .get (fun s => ?_)
  extract_lets rest
  have hrest : ∀ r, Op.Leaves steady (rest r) := by
    intro r
    refine .bind .get (fun s => ?_)
    split
    · refine .bind (.map fun b => ?_) (fun merged => .mod fun s => ?_)
      · refine .bind (.ite (.pure _) (crossOut_leaves_parts _ _ _ _).of_parts) (fun sent => .ite ?_ ?_)
        · exact .ite (.bind (.mod fun s => steady_of_parts (noteUncorrectable_parts s _ _)) (fun _ => .stop _))
            (.ite (.stop _) (.pure _))
        · exact .bind (readGranule_leaves_parts _ _ _).of_parts (fun _ => .pure _)
      · exact (steady_countPage _ _ _).trans (steady_of_parts (by simp))
    · exact .pure _
  split
  · exact .bind (.stop _) hrest
  · exact .bind (openPage_leaves_steady p a) hrest
  · exact hrest ()

theorem writeMem_leaves_steady (side : Side) (p : Fin 16) (a : Nat) (bytes : List Byte) :
    Op.Leaves steady (writeMem side p a bytes) := .each fun _ => writeStripe_leaves_steady _ _ _ _

/-! ### Traces -/

theorem steady_drainOne (p : Fin 16) (s : State) (r : TraceRec) : steady (drainOne p s r) = steady s := by
  have h : ∀ a bs n, steady (Op.after (writeMem .compute p a bs) (s.modPart p (fun x => { x with drained := n }))) = steady s :=
    fun a bs n => (writeMem_leaves_steady _ p a bs _).trans (steady_modPart s p _)
  exact h _ _ _

theorem steady_drainOn (p : Fin 16) (s : State) : steady (drainOn p s) = steady s := by
  have h : ∀ l : List TraceRec, ∀ u : State, steady (l.foldl (drainOne p) u) = steady u := foldl_view steady (steady_drainOne p)
  have hs : ∀ k n, steady ({ s with freeCount := n }.setPart p
      { s.part p with undrained := (s.part p).undrained.drop k }) = steady s := fun k n =>
    steady_modPart { s with freeCount := n } p (fun x => { x with undrained := x.undrained.drop k })
  unfold drainOn
  dsimp only
  split
  · exact (steady_drainOne _ _ _).trans ((steady_modPart _ _ _).trans ((h _ _).trans (hs _ _)))
  · rw [h, hs]

theorem steady_queueRecord (p : Fin 16) (s : State) (r : TraceRec) : steady (queueRecord p s r) = steady s := by
  have h : ∀ l n, steady (s.modPart p (fun x => { x with undrained := l, lostRecs := x.lostRecs + n })) = steady s :=
    fun _ _ => steady_modPart s p _
  unfold queueRecord
  dsimp only
  split
  · exact h _ 0
  · exact (steady_of_parts (bump_parts _ _ _ _)).trans (h _ 1)

@[simp] theorem steady_putTrace (s : State) (p : Fin 16) (r : TraceRec) : steady (putTrace s p r) = steady s := by
  have h : ∀ l a, steady (bump (s.modPart p (fun x => { x with ring := (l :: x.ring).take 8192 })) a none 1) = steady s :=
    fun _ _ => (steady_of_parts (bump_parts _ _ _ _)).trans (steady_modPart s p _)
  unfold putTrace
  dsimp only
  split
  · split
    · rw [steady_drainOn, steady_queueRecord, h]
    · exact h _ _
  · rfl

/-! ### Signals -/

@[simp] theorem Stream.steady_observe (q : Stream) (n : Nat) (v : Word) : (observe q n v).steady = q.steady := by
  unfold observe
  split
  · split <;> rfl
  · rfl

theorem Part.steady_observePart (x : Part) (n : Nat) (v : Word) : (observePart x n v).steady = x.steady := by
  unfold observePart
  split
  · rfl
  · simp [Part.steady]

@[simp] theorem steady_applySignal (s : State) (n : Nat) (op : SigOp) (amount : Word) :
    steady (applySignal s n op amount) = steady s := by
  unfold applySignal
  dsimp only
  split
  · exact (steady_modPart _ _ _ (fun x => x.steady_observePart _ _)).trans (steady_of_parts (soSet_parts _ _ _))
  · exact steady_of_parts (soSet_parts _ _ _)

theorem steady_applyFlight (s : State) (f : Flight) : steady (applyFlight s f) = steady s := by
  unfold applyFlight
  split
  · exact steady_applySignal _ _ _ _
  · rfl

/-! ### Counts -/

theorem steady_wrapCounter (s : State) (p : Option (Fin 16)) (t : Option StreamTag) (nn j : Nat) :
    steady (wrapCounter s p t nn j) = steady s := by
  have h : ∀ a i, steady (postBit s a i) = steady s := fun a i => steady_of_parts (postBit_parts s a i)
  unfold wrapCounter
  dsimp only
  split
  · split
    · split
      · rw [steady_applySignal, steady_putTrace, h]
      · rw [steady_putTrace, h]
    · exact h _ _
  · exact h _ _

theorem steady_addCounter (p : Option (Fin 16)) (t : Option StreamTag) (nn j fuel v : Nat) (s : State) :
    steady (addCounter p t nn j fuel v s) = steady s := by
  induction fuel generalizing v s with
  | zero => rfl
  | succ fuel ih =>
    rw [addCounter]
    split
    · rfl
    · rw [ih, steady_wrapCounter]

@[simp] theorem steady_countEvent (s : State) (p : Fin 16) (t : StreamTag) (layer code nn n : Nat) :
    steady (countEvent s p t layer code nn n) = steady s := by
  refine foldl_view steady (fun s j => ?_) _ s
  split
  · exact steady_addCounter _ _ _ _ _ _ _
  · rfl

theorem steady_countCores (s : State) (p : Fin 16) (t : StreamTag) (g : Granule) (code n : Nat) :
    steady (countCores s p t g code n) = steady s :=
  foldl_view steady (fun s nn => steady_countEvent s p t _ code nn n) _ s

theorem steady_countWait (s : State) (p : Fin 16) (t : StreamTag) (g : Granule) : steady (countWait s p t g) = steady s := by
  unfold countWait
  split
  · rfl
  · exact steady_countCores _ _ _ _ _ _

theorem steady_countBusy (s : State) (p : Fin 16) (g : Granule) : steady (countBusy s p g) = steady s := by
  unfold countBusy
  split <;> rfl

theorem steady_modRefs (f : PartMem → Nat → PartMem) (s : State) (p : Fin 16) (slots : List Nat) :
    steady (modRefs f s p slots) = steady s := steady_modPart s p _

end Sys2Proof.Machine
end

section
/-! How a stream's row goes through the sequencer (R56 to R60), what its issue leaves of the states of partitions and
streams, and O48: END and the completion of the partition (R83). -/

namespace Sys2Proof.Machine

variable {c : StreamCmd} {s u : State} {p : Fin 16} {t : StreamTag} {g : Granule}

/-! ### The sequencer's three answers to its row -/

/-- What `issue` comes to for the command at the head: it is held, or goes on to its checks. -/
theorem issue_of_offered (h : Offered c s p t g) :
    issue c p t s = if held (s.part p) t g && !pairBad (s.part p) t g then s else checkHead c p t g s := by
  obtain ⟨hcan, hhead, hwait, hknown, hfunc, hrow⟩ := h
  have hfunc : (cOpcode g = 0x30 && !vopFuncs.contains (vFunc g)) = false := by simpa using hfunc
  simp only [issue, hcan, hhead, hwait, hknown, hfunc, hrow, if_true, Bool.not_true, Bool.false_eq_true, if_false]

theorem issue_of_held (h : Offered c s p t g) (hheld : held (s.part p) t g = true) (hpair : pairBad (s.part p) t g = false) :
    issue c p t s = s := by
  rw [issue_of_offered h, hheld, hpair]
  rfl

theorem issue_of_ready (h : Ready c s p t g u) : issue c p t s = issueNow c u p t g := by
  obtain ⟨⟨hoff, hfree, hearly⟩, hfetch, hpass, hgoes⟩ := h
  rw [issue_of_offered hoff, hfree, if_neg Bool.false_ne_true, checkHead, hearly]
  rw [Fetched] at hfetch
  rw [failedChecks] at hpass
  simp only [firstCode, hfetch, hpass, hgoes, Bool.false_eq_true, if_false]

/-- A command that names no descriptor is checked and issues in the state that its row found. -/
theorem fetched_eq_of_no_descs (h : Ready c s p t g u) (hd : c.descs s p g = []) : u = s := by
  have hf := h.fetched
  rw [Fetched, hd] at hf
  exact (congrArg Prod.snd hf).symm

theorem inflight_pos_iff (q : Stream) : 0 < inflight q ↔ ∃ f ∈ q.flight, f.done = false := by
  simp [inflight, List.length_pos_iff_exists_mem]

/-! ### States of partitions and streams -/

/-- The state of a partition and of each of its streams. -/
def Part.modes (x : Part) : PartState × (StreamTag → StreamState) := (x.state, fun t => (x.stream t).state)

/-- The states of every partition and its streams. -/
def modes (s : State) : Fin 16 → PartState × (StreamTag → StreamState) := fun p => (s.part p).modes

theorem Part.modes_steady (x : Part) : x.steady.modes = x.modes := by
  simp only [Part.modes, Part.steady_stream]
  rfl

theorem modes_of_steady {a b : State} (h : steady b = steady a) : modes b = modes a := by
  funext p
  have hp : (b.part p).steady = (a.part p).steady := congrFun h p
  rw [modes, ← Part.modes_steady, hp, Part.modes_steady]
  rfl

/-- A change of a stream sets what its own state reads, and no other. -/
theorem Part.modes_setStream (x : Part) (t : StreamTag) (q : Stream) :
    (x.setStream t q).modes = (x.state, Function.update (fun r => (x.stream r).state) t q.state) := by
  refine Prod.ext ?_ (funext fun r => ?_)
  · cases t <;> rfl
  · by_cases hr : r = t
    · subst hr
      simp [Part.modes]
    · simp [Part.modes, Part.stream_setStream_ne x q hr, hr]

theorem modes_modPart (s : State) (p : Fin 16) (f : Part → Part)
    (hf : ∀ x, (f x).modes = x.modes := by exact fun _ => rfl) : modes (s.modPart p f) = modes s :=
  funext (part_modPart_view hf s p)

theorem modes_modStream (s : State) (p : Fin 16) (t : StreamTag) (f : Stream → Stream)
    (hf : ∀ q, (f q).state = q.state := by exact fun _ => rfl) : modes (s.modStream p t f) = modes s := by
  funext q
  by_cases hq : q = p
  · subst hq
    change ((s.modPart q _).part q).modes = _
    rw [State.part_modPart_same, Part.modes_setStream, hf]
    exact Prod.ext rfl (Function.update_eq_self (f := fun r => (s.stream q r).state) t)
  · exact congrArg Part.modes (State.part_modPart_ne s _ hq)

theorem modes_putTrace (s : State) (p : Fin 16) (r : TraceRec) : modes (putTrace s p r) = modes s :=
  modes_of_steady (steady_putTrace s p r)

theorem modes_settleSignals (s : State) (p : Fin 16) (t : StreamTag) : modes (settleSignals s p t) = modes s :=
  (modes_of_steady (foldl_view steady steady_applyFlight _ _)).trans (modes_modStream s p t _)

/-- The issue of a command changes no state of a partition or stream before its effect. -/
theorem modes_issueHead (c : StreamCmd) (s : State) (p : Fin 16) (t : StreamTag) (g : Granule) :
    modes (issueHead c s p t g) = modes s := by
  have hadvance : ∀ n, modes ((s.setStream p t (advance (s.stream p t) g)).modPart p (fun x => { x with nextSeq := n })) =
      modes s := fun n => (modes_modPart _ p _).trans (modes_modStream s p t (advance · g))
  have hcounts : ∀ a : State, modes (countBusy (countWait (countCores a p t g 0x03 1) p t g) p g) = modes a := fun a =>
    modes_of_steady (by rw [steady_countBusy, steady_countWait, steady_countCores])
  unfold issueHead
  dsimp only
  rw [modes_of_steady (steady_modRefs _ _ _ _)]
  split
  · rw [modes_putTrace, hcounts, hadvance]
  · rw [hcounts, hadvance]

/-- No command arrives at the head of a stream that does not run. -/
theorem arrive_of_not_running (h : (s.stream p t).state ≠ .running) : arrive s p t = s := by
  unfold arrive
  exact if_pos h

/-- The end of an issue whose effect met no stop and left the stream not running changes no state of a partition or stream. -/
theorem modes_issueEnd {e : Effect} (htraps : e.traps = []) (hrun : (e.state.stream p t).state ≠ .running) :
    modes (issueEnd c s p t g e) = modes e.state := by
  have hflight : ∀ f, modes (e.state.modStream p t (fun q => { q with flight := q.flight ++ [f] })) = modes e.state :=
    fun f => modes_modStream _ p t _
  have hrest : ∀ a, modes a = modes e.state → modes (arrive (settleSignals a p t) p t) = modes e.state := by
    intro a ha
    have hm : modes (settleSignals a p t) = modes e.state := (modes_settleSignals a p t).trans ha
    have hs : ((settleSignals a p t).stream p t).state = (e.state.stream p t).state := congrArg (fun m => (m p).2 t) hm
    rw [arrive_of_not_running (hs ▸ hrun), hm]
  unfold issueEnd
  rw [htraps]
  dsimp only
  split
  · exact hrest _ ((modes_putTrace _ _ _).trans (hflight _))
  · exact hrest _ (hflight _)

/-! ### Control commands -/

/-- A control command acts on no core and waits for no flight: its effect is its run. -/
theorem control_begin {op : Nat} {check : State → Fin 16 → StreamTag → Granule → List Nat}
    {run : State → Fin 16 → StreamTag → Granule → State} (hop : op < 0x10) (hg : cOpcode g = op) (n : Nat) :
    (control op check run).begin_ s p t g n = Effect.done (run (freshRows s) p t g) := by
  have haway : awayCores s p g = [] := if_neg (by omega)
  unfold StreamCmd.begin_
  rw [haway]
  rfl

theorem endCmd_opcode (h : endCmd.matches_ g = true) : cOpcode g = 0x06 := by
  simpa [endCmd, control] using h

/-- END sets the state of its stream in its partition, and no other there. -/
theorem modes_endRun (s : State) (p : Fin 16) (t : StreamTag) (g : Granule) :
    modes (endRun s p t g) p = ((s.part p).state, Function.update (fun r => (s.stream p r).state) t .done) := by
  change ((s.modPart p _).part p).modes = _
  rw [State.part_modPart_same, Part.modes_setStream]
  rfl

/-- An END that issues: its stream reads DONE, and no other state of its partition changes. -/
theorem modes_issueNow_end (h : endCmd.matches_ g = true) :
    modes (issueNow endCmd s p t g) p = ((s.part p).state, Function.update (fun r => (s.stream p r).state) t .done) := by
  have hbegin : endCmd.begin_ (issueHead endCmd s p t g) p t g (s.part p).nextSeq =
      Effect.done (endRun (freshRows (issueHead endCmd s p t g)) p t g) := control_begin (by decide) (endCmd_opcode h) _
  have hend := modes_endRun (freshRows (issueHead endCmd s p t g)) p t g
  have hdone : ((endRun (freshRows (issueHead endCmd s p t g)) p t g).stream p t).state = .done :=
    (congrFun (congrArg Prod.snd hend) t).trans (by simp)
  have hhead : (freshRows (issueHead endCmd s p t g) |>.part p).modes = (s.part p).modes :=
    congrFun (modes_issueHead endCmd s p t g) p
  change modes (issueEnd endCmd s p t g (endCmd.begin_ (issueHead endCmd s p t g) p t g (s.part p).nextSeq)) p = _
  rw [hbegin, modes_issueEnd rfl (by rw [Effect.done, hdone]; decide)]
  exact hend.trans (congrArg (fun m => (m.1, Function.update m.2 t .done)) hhead)

/-! ### The completion of the partition -/

theorem allDone_iff (x : Part) : allDone x = true ↔ ∀ r, (x.stream r).state = .done := by
  simp only [allDone, Bool.and_eq_true, decide_eq_true_eq]
  exact ⟨fun ⟨⟨hF, hB⟩, hU⟩ r => by cases r <;> assumption, fun h => ⟨⟨h .F, h .B⟩, h .U⟩⟩

theorem completePart_of_not_done {r : StreamTag} (h : (s.stream p r).state ≠ .done) : completePart s p = s := by
  have hall : allDone (s.part p) = false := Bool.eq_false_iff.mpr (fun hd => h ((allDone_iff _).mp hd r))
  unfold completePart
  simp only [hall, Bool.and_false, Bool.false_eq_true, if_false]

/-- A running or stopping partition whose streams all read DONE enters COMPLETE, with no STOP left to answer. -/
theorem part_completePart (hrun : (s.part p).state = .running ∨ (s.part p).state = .stopping)
    (hall : ∀ r, (s.stream p r).state = .done) :
    (completePart s p).part p = { s.part p with state := .complete, stopTarget := none, stopWaiting := [] } := by
  have hgo : (((s.part p).state = .running || (s.part p).state = .stopping) && allDone (s.part p)) = true := by
    simpa [(allDone_iff (s.part p)).mpr hall] using hrun
  have hparts := answerStops_parts (s.setPart p { s.part p with state := .complete, stopTarget := none }) p 0
  unfold completePart answerStop
  simp only [hgo, if_true]
  rw [State.part, hparts]
  change State.part (State.modPart _ p _) p = _
  rw [State.part_modPart_same, State.part_setPart_same]

/-! ### O48 -/

theorem canIssue_state (h : canIssue s p t = true) :
    ((s.part p).state = .running ∨ (s.part p).state = .stopping) ∧ (s.stream p t).state = .running := by
  simp only [canIssue, Bool.and_eq_true, Bool.or_eq_true, decide_eq_true_eq] at h
  obtain ⟨⟨⟨hpart, -⟩, -⟩, hstream⟩ := h
  exact ⟨hpart, hstream⟩

/-- END waits for every earlier command of its stream (R56). -/
theorem held_end (hop : cOpcode g = 0x06) (h : ∃ f ∈ (s.stream p t).flight, f.done = false) :
    held (s.part p) t g = true := by
  have hser : serialHeld (s.stream p t) g = true := by
    simpa [serialHeld, hop] using (inflight_pos_iff (s.stream p t)).mpr h
  rw [State.stream] at hser
  simp [held, hser]

/-- An END that cannot issue yet leaves the state. -/
theorem exec_endStream_of_held (h : Offered endCmd s p t g) (hpair : pairBad (s.part p) t g = false)
    (hf : ∃ f ∈ (s.stream p t).flight, f.done = false) : exec (.endStream p t) s = .next s := by
  have hrun := (canIssue_state h.can).2
  change Host.Outcome.next (completePart (issue endCmd p t s) p) = _
  rw [issue_of_held h (held_end (endCmd_opcode h.row) hf) hpair, completePart_of_not_done (r := t) (by rw [hrun]; decide)]

/-- An END that issues was refused no pair, so nothing of its stream is in flight. -/
theorem flight_done_of_ready (h : Ready endCmd s p t g s) : ∀ f ∈ (s.stream p t).flight, f.done = true := by
  have hpair : pairBad (s.part p) t g = false := by
    have hpass := h.passes
    simp only [failedChecks, commonChecks, List.append_eq_nil_iff, ite_eq_right_iff] at hpass
    simpa using hpass.1.1.2
  have hheld : held (s.part p) t g = false := by simpa [hpair] using h.atHead.free
  intro f hf
  by_contra hd
  rw [held_end (endCmd_opcode h.atHead.row) ⟨f, hf, Bool.eq_false_iff.mpr hd⟩] at hheld
  cases hheld

theorem exec_endStream_of_ready (h : Ready endCmd s p t g s) :
    exec (.endStream p t) s = .next (completePart (issueNow endCmd s p t g) p) := by
  rw [← issue_of_ready h]
  rfl

/-- Settles O48: an END behind a command in flight is held, and one that issues leaves its stream DONE and, with the other
two streams DONE, its partition COMPLETE. -/
theorem endOfStream : Obligations.EndOfStream := by
  intro s u p t g
  refine ⟨fun hoff hpair hf => ⟨s, exec_endStream_of_held hoff hpair hf, rfl⟩, fun hready => ?_⟩
  obtain rfl : u = s := fetched_eq_of_no_descs hready rfl
  refine ⟨flight_done_of_ready hready, _, exec_endStream_of_ready hready, ?_⟩
  have hmodes := modes_issueNow_end (s := u) (p := p) (t := t) hready.atHead.row
  generalize issueNow endCmd u p t g = v at hmodes ⊢
  have hpart : (v.part p).state = (u.part p).state := congrArg Prod.fst hmodes
  have hstream : ∀ r, (v.stream p r).state = if r = t then .done else (u.stream p r).state := fun r =>
    (congrFun (congrArg Prod.snd hmodes) r).trans (by simp [Function.update_apply])
  have hrun := (canIssue_state hready.atHead.can).1
  by_cases hall : ∀ r, r ≠ t → (u.stream p r).state = .done
  · have hv : ∀ r, (v.stream p r).state = .done := fun r => by
      rw [hstream]
      split
      · rfl
      · exact hall r ‹_›
    have hcomplete := part_completePart (hpart ▸ hrun) hv
    refine ⟨?_, fun _ => by rw [hcomplete], fun ⟨r, hr, hnot⟩ => absurd (hall r hr) hnot⟩
    rw [State.stream, hcomplete]
    exact hv t
  · push Not at hall
    obtain ⟨r, hr, hnot⟩ := hall
    have hsame : completePart v p = v := completePart_of_not_done (r := r) (by rwa [hstream, if_neg hr])
    rw [hsame]
    exact ⟨by rw [hstream, if_pos rfl], fun h => absurd (h r hr) hnot, fun _ => hpart⟩

end Sys2Proof.Machine
end

section
/-! What a signal leaves of every sync object, for a state in canonical form, and O49: an ADD on one (R87, Table 4-1). -/

namespace Sys2Proof.Machine

/-! ### One operation on one object -/

@[simp] theorem SyncObj.apply_add_epoch (x : SyncObj) (amount : Word) : (x.apply .add amount).epoch = x.epoch := rfl

theorem SyncObj.apply_add_value_toNat (x : SyncObj) (amount : Word) :
    (x.apply .add amount).value.toNat = (x.value.toNat + amount.toNat) % 2 ^ 32 := BitVec.toNat_add _ _

theorem SyncObj.apply_add_wrap_of_overflow {x : SyncObj} {amount : Word} (h : 2 ^ 32 ≤ x.value.toNat + amount.toNat) :
    (x.apply .add amount).wrap = true := by
  change (x.wrap || decide _) = true
  rw [decide_eq_true h, Bool.or_true]

theorem SyncObj.apply_add_wrap_of_fits {x : SyncObj} {amount : Word} (h : x.value.toNat + amount.toNat < 2 ^ 32) :
    (x.apply .add amount).wrap = x.wrap := by
  change (x.wrap || decide _) = x.wrap
  rw [decide_eq_false (Nat.not_le.mpr h), Bool.or_false]

/-- WRAP is sticky: neither an ADD nor a SET clears it. -/
theorem SyncObj.apply_wrap_of_wrap {x : SyncObj} (op : SigOp) (amount : Word) (h : x.wrap = true) :
    (x.apply op amount).wrap = true := by
  cases op with
  | add =>
    change (x.wrap || decide _) = true
    rw [h, Bool.true_or]
  | set => exact h

/-! ### The objects after a signal -/

/-- The waiters that observe a signal are in partitions, so the signal's own write is all it does to the objects. -/
theorem applySignal_so (s : State) (n : Nat) (op : SigOp) (amount : Word) :
    (applySignal s n op amount).so = (soSet s n ((soGet s n).apply op amount)).so := by
  unfold applySignal
  dsimp only
  split <;> rfl

section
variable {s : State} (hs : s.Canonical)
include hs

theorem soGet_applySignal_same (n : Nat) (op : SigOp) (amount : Word) :
    soGet (applySignal s n op amount) n = (soGet s n).apply op amount := by
  rw [soGet, applySignal_so]
  exact Sparse.get_set_same _ _ hs.so

theorem soGet_applySignal_ne {n m : Nat} (op : SigOp) (amount : Word) (h : m ≠ n) :
    soGet (applySignal s n op amount) m = soGet s m := by
  rw [soGet, applySignal_so]
  exact Sparse.get_set_ne _ hs.so h

theorem wrap_applySignal_of_wrap (n : Nat) {m : Nat} (op : SigOp) (amount : Word) (h : (soGet s m).wrap = true) :
    (soGet (applySignal s n op amount) m).wrap = true := by
  by_cases hm : m = n
  · subst hm
    rw [soGet_applySignal_same hs]
    exact SyncObj.apply_wrap_of_wrap op amount h
  · rwa [soGet_applySignal_ne hs op amount hm]

end

/-- Settles O49: the signalled object becomes what the operation makes of it, and every other object stays. -/
theorem syncObjectAdd : Obligations.SyncObjectAdd := by
  intro s n m op amount hs _
  refine ⟨?_, ?_, ?_, ?_, wrap_applySignal_of_wrap hs n op amount, soGet_applySignal_ne hs op amount⟩ <;>
    rw [soGet_applySignal_same hs]
  · exact SyncObj.apply_add_value_toNat _ _
  · exact SyncObj.apply_add_wrap_of_overflow
  · exact SyncObj.apply_add_wrap_of_fits
  · exact SyncObj.apply_add_epoch _ _

end Sys2Proof.Machine
end

section
/-! The field of C256 (R318): GF(2^8) under `gfMul`, in which α = 0x02 has order 255, so that every byte but 0 is a
power of α. -/

namespace Sys2Proof.Machine

/-! ### Products are additive in each factor -/

@[simp] theorem gfDouble_zero : gfDouble 0#8 = 0#8 := rfl

theorem gfDouble_xor (a b : Byte) : gfDouble (a ^^^ b) = gfDouble a ^^^ gfDouble b := by
  unfold gfDouble
  rw [BitVec.shiftLeft_xor_distrib, BitVec.getLsbD_xor]
  have hcarry : ∀ p q : Bool,
      (if p ^^ q then 0x1D#8 else 0#8) = (if p then 0x1D#8 else 0#8) ^^^ (if q then 0x1D#8 else 0#8) := by
    decide
  rw [hcarry]
  ac_rfl

theorem gfMulAux_xor_left (n : Nat) (a b c : Byte) : gfMulAux n (a ^^^ b) c = gfMulAux n a c ^^^ gfMulAux n b c := by
  induction n generalizing a b c with
  | zero => exact BitVec.xor_zero.symm
  | succ n ih =>
    simp only [gfMulAux, gfDouble_xor, ih]
    split
    · ac_rfl
    · simp only [BitVec.zero_xor]

theorem gfMul_xor_left (a b c : Byte) : gfMul (a ^^^ b) c = gfMul a c ^^^ gfMul b c := gfMulAux_xor_left 8 a b c

theorem gfMulAux_double_left (n : Nat) (a b : Byte) : gfMulAux n (gfDouble a) b = gfDouble (gfMulAux n a b) := by
  induction n generalizing a b with
  | zero => exact gfDouble_zero.symm
  | succ n ih =>
    simp only [gfMulAux, gfDouble_xor, ih]
    split
    · rfl
    · rw [gfDouble_zero]

theorem gfMul_double_left (a b : Byte) : gfMul (gfDouble a) b = gfDouble (gfMul a b) := gfMulAux_double_left 8 a b

@[simp] theorem gfMul_zero_left (a : Byte) : gfMul 0#8 a = 0#8 := by
  simpa using gfMul_xor_left 0#8 0#8 a

theorem gfMulAux_zero_right (n : Nat) (a : Byte) : gfMulAux n a 0#8 = 0#8 := by
  induction n generalizing a with
  | zero => rfl
  | succ n ih => simp [gfMulAux, ih]

@[simp] theorem gfMul_zero_right (a : Byte) : gfMul a 0#8 = 0#8 := gfMulAux_zero_right 8 a

@[simp] theorem gfMul_one_left : ∀ a : Byte, gfMul 1#8 a = a := by decide +kernel

/-! ### Powers of α -/

@[simp] theorem gfAlpha_zero : gfAlpha 0 = 1#8 := rfl

theorem gfMul_gfAlpha (m n : Nat) : gfMul (gfAlpha m) (gfAlpha n) = gfAlpha (m + n) := by
  induction m with
  | zero => simp
  | succ m ih => rw [gfAlpha, gfMul_double_left, ih, Nat.succ_add, gfAlpha]

theorem gfAlpha_255_mul (k : Nat) : gfAlpha (255 * k) = 1#8 := by
  have h255 : gfAlpha 255 = 1#8 := by decide +kernel
  induction k with
  | zero => rfl
  | succ k ih => rw [Nat.mul_succ, ← gfMul_gfAlpha, ih, h255, gfMul_one_left]

theorem gfAlpha_254_mul_self (k : Nat) : gfMul (gfAlpha (254 * k)) (gfAlpha k) = 1#8 := by
  rw [gfMul_gfAlpha, ← Nat.succ_mul, gfAlpha_255_mul]

theorem gfAlpha_ne_zero (k : Nat) : gfAlpha k ≠ 0#8 := by
  intro h
  have hone := gfAlpha_254_mul_self k
  rw [h, gfMul_zero_right] at hone
  exact absurd hone (by decide)

theorem gfAlpha_ne_one : ∀ k < 255, 0 < k → gfAlpha k ≠ 1#8 := by decide +kernel

theorem gfAlpha_ne_of_lt {m n : Nat} (hmn : m < n) (hn : n < 255) : gfAlpha m ≠ gfAlpha n := by
  intro h
  have hshift := congrArg (gfMul (gfAlpha (254 * m))) h
  rw [gfMul_gfAlpha, gfMul_gfAlpha, ← Nat.succ_mul, gfAlpha_255_mul] at hshift
  obtain ⟨d, rfl⟩ := Nat.exists_eq_add_of_lt hmn
  rw [Nat.add_assoc m, ← Nat.add_assoc, ← Nat.succ_mul, ← gfMul_gfAlpha, gfAlpha_255_mul, gfMul_one_left] at hshift
  exact gfAlpha_ne_one (d + 1) (by omega) (Nat.succ_pos d) hshift.symm

theorem gfAlpha_injOn : Set.InjOn gfAlpha (Finset.range 255) := by
  intro m hm n hn h
  rw [Finset.coe_range, Set.mem_Iio] at hm hn
  rcases Nat.lt_trichotomy m n with hlt | heq | hgt
  · exact absurd h (gfAlpha_ne_of_lt hlt hn)
  · exact heq
  · exact absurd h.symm (gfAlpha_ne_of_lt hgt hm)

/-- The 255 powers of α are different, and there are 255 bytes that are not 0. -/
theorem exists_gfAlpha {a : Byte} (ha : a ≠ 0#8) : ∃ k, gfAlpha k = a := by
  have hmaps : Set.MapsTo gfAlpha (Finset.range 255) (Finset.univ.erase (0#8 : Byte)) := fun k _ => by
    simpa using gfAlpha_ne_zero k
  have hsurj := Finset.surjOn_of_injOn_of_card_le gfAlpha hmaps gfAlpha_injOn (by decide +kernel)
  obtain ⟨k, -, hk⟩ := hsurj (show a ∈ _ by simpa using ha)
  exact ⟨k, hk⟩

/-! ### The laws of the field -/

theorem gfMul_comm (a b : Byte) : gfMul a b = gfMul b a := by
  rcases eq_or_ne a 0#8 with rfl | ha
  · simp
  rcases eq_or_ne b 0#8 with rfl | hb
  · simp
  obtain ⟨m, rfl⟩ := exists_gfAlpha ha
  obtain ⟨n, rfl⟩ := exists_gfAlpha hb
  rw [gfMul_gfAlpha, gfMul_gfAlpha, Nat.add_comm]

theorem gfMul_assoc (a b c : Byte) : gfMul (gfMul a b) c = gfMul a (gfMul b c) := by
  rcases eq_or_ne a 0#8 with rfl | ha
  · simp
  rcases eq_or_ne b 0#8 with rfl | hb
  · simp
  rcases eq_or_ne c 0#8 with rfl | hc
  · simp
  obtain ⟨k, rfl⟩ := exists_gfAlpha ha
  obtain ⟨m, rfl⟩ := exists_gfAlpha hb
  obtain ⟨n, rfl⟩ := exists_gfAlpha hc
  simp only [gfMul_gfAlpha, Nat.add_assoc]

@[simp] theorem gfMul_one_right (a : Byte) : gfMul a 1#8 = a := by rw [gfMul_comm, gfMul_one_left]

theorem gfMul_xor_right (a b c : Byte) : gfMul a (b ^^^ c) = gfMul a b ^^^ gfMul a c := by
  rw [gfMul_comm, gfMul_xor_left, gfMul_comm b, gfMul_comm c]

theorem gfInv_gfAlpha (k : Nat) : gfInv (gfAlpha k) = gfAlpha (254 * k) := by
  simp only [gfInv, gfMul_gfAlpha]
  congr 1
  omega

theorem gfMul_gfInv {a : Byte} (ha : a ≠ 0#8) : gfMul a (gfInv a) = 1#8 := by
  obtain ⟨k, rfl⟩ := exists_gfAlpha ha
  rw [gfMul_comm, gfInv_gfAlpha, gfAlpha_254_mul_self]

theorem gfMul_eq_zero {a b : Byte} (hb : b ≠ 0#8) (h : gfMul a b = 0#8) : a = 0#8 := by
  rw [← gfMul_one_right a, ← gfMul_gfInv hb, ← gfMul_assoc, h, gfMul_zero_left]

end Sys2Proof.Machine
end

section
/-! Words of bytes: their sum `xorBytes`, their `weight`, and the word that holds one byte and is 0 elsewhere. -/

namespace Sys2Proof.Machine

/-! ### Sums -/

@[simp] theorem xorBytes_nil : xorBytes [] [] = [] := rfl

@[simp] theorem xorBytes_cons (a b : Byte) (u v : List Byte) :
    xorBytes (a :: u) (b :: v) = (a ^^^ b) :: xorBytes u v := rfl

theorem length_xorBytes {u v : List Byte} (h : v.length = u.length) : (xorBytes u v).length = u.length := by
  rw [xorBytes, List.length_zipWith, h, Nat.min_self]

theorem xorBytes_comm (u v : List Byte) : xorBytes u v = xorBytes v u :=
  List.zipWith_comm_of_comm BitVec.xor_comm

theorem xorBytes_assoc (u v w : List Byte) : xorBytes (xorBytes u v) w = xorBytes u (xorBytes v w) := by
  induction u generalizing v w with
  | nil => simp [xorBytes]
  | cons a u ih =>
    match v, w with
    | [], _ => simp [xorBytes]
    | _ :: _, [] => simp [xorBytes]
    | b :: v, c :: w => simp [ih, BitVec.xor_assoc]

theorem xorBytes_xorBytes_cancel {u v : List Byte} (h : v.length = u.length) : xorBytes (xorBytes u v) v = u := by
  induction u generalizing v with
  | nil => simp [xorBytes]
  | cons a u ih =>
    cases v with
    | nil => simp at h
    | cons b v => simp [ih (Nat.succ.inj h)]

theorem xorBytes_left_cancel {u v w : List Byte} (hv : v.length = u.length) (hw : w.length = u.length)
    (h : xorBytes u v = xorBytes u w) : v = w := by
  rw [← xorBytes_xorBytes_cancel hv.symm, xorBytes_comm v u, h, xorBytes_comm u w, xorBytes_xorBytes_cancel hw.symm]

/-! ### Weights -/

@[simp] theorem weight_nil : weight [] = 0 := rfl

theorem weight_cons (a : Byte) (w : List Byte) : weight (a :: w) = (if a = 0#8 then 0 else 1) + weight w := by
  by_cases h : a = 0#8 <;> simp [weight, h, Nat.add_comm]

theorem weight_xorBytes_le (u v : List Byte) : weight (xorBytes u v) ≤ weight u + weight v := by
  induction u generalizing v with
  | nil => simp [xorBytes]
  | cons a u ih =>
    cases v with
    | nil => simp [xorBytes]
    | cons b v =>
      have hhead : (if a ^^^ b = 0#8 then 0 else 1) ≤ (if a = 0#8 then 0 else 1) + (if b = 0#8 then 0 else 1) := by
        by_cases ha : a = 0#8
        · simp [ha]
        · rw [if_neg ha]
          split <;> omega
      have htail := ih v
      rw [xorBytes_cons, weight_cons, weight_cons, weight_cons]
      omega

theorem eq_of_weight_xorBytes_eq_zero {u v : List Byte} (hl : v.length = u.length) (h : weight (xorBytes u v) = 0) :
    u = v := by
  induction u generalizing v with
  | nil => exact (List.length_eq_zero_iff.mp hl).symm
  | cons a u ih =>
    cases v with
    | nil => simp at hl
    | cons b v =>
      rw [xorBytes_cons, weight_cons, Nat.add_eq_zero_iff, ite_eq_left_iff] at h
      obtain ⟨hhead, htail⟩ := h
      have hab : a = b := BitVec.xor_eq_zero_iff.mp (not_not.mp fun hne => one_ne_zero (hhead hne))
      rw [hab, ih (Nat.succ.inj hl) htail]

/-- Adding a word of weight 0 changes nothing. -/
theorem xorBytes_of_weight_eq_zero {u e : List Byte} (hl : e.length = u.length) (h : weight e = 0) :
    xorBytes u e = u := by
  refine eq_of_weight_xorBytes_eq_zero (length_xorBytes hl).symm ?_
  rwa [xorBytes_comm u e, xorBytes_xorBytes_cancel hl.symm]

/-! ### Words that hold one byte -/

/-- The word of `n` bytes that holds `a` at position `i` and is 0 elsewhere. -/
def unitWord (n i : Nat) (a : Byte) : List Byte := (List.replicate n 0#8).set i a

@[simp] theorem length_unitWord (n i : Nat) (a : Byte) : (unitWord n i a).length = n := by simp [unitWord]

@[simp] theorem unitWord_succ_zero (n : Nat) (a : Byte) : unitWord (n + 1) 0 a = a :: List.replicate n 0#8 := rfl

@[simp] theorem unitWord_succ_succ (n i : Nat) (a : Byte) : unitWord (n + 1) (i + 1) a = 0#8 :: unitWord n i a := rfl

@[simp] theorem weight_replicate_zero (n : Nat) : weight (List.replicate n 0#8) = 0 := by simp [weight]

theorem weight_unitWord_le (n i : Nat) (a : Byte) : weight (unitWord n i a) ≤ 1 := by
  induction n generalizing i with
  | zero => simp [unitWord]
  | succ n ih =>
    cases i with
    | zero =>
      rw [unitWord_succ_zero, weight_cons, weight_replicate_zero]
      split <;> omega
    | succ i => simpa [weight_cons] using ih i

@[simp] theorem xorBytes_replicate_zero (u : List Byte) : xorBytes u (List.replicate u.length 0#8) = u :=
  xorBytes_of_weight_eq_zero (by simp) (weight_replicate_zero _)

theorem flipByte_eq_xorBytes (w : List Byte) (i : Nat) (a : Byte) :
    flipByte w i a = xorBytes w (unitWord w.length i a) := by
  induction w generalizing i with
  | nil => rfl
  | cons b w ih =>
    cases i with
    | zero => simp [flipByte]
    | succ i => simpa [flipByte] using ih i

/-- A word that is not 0 holds a byte, and has one byte fewer without it. -/
theorem exists_xorBytes_unitWord {e : List Byte} (h : weight e ≠ 0) :
    ∃ i < e.length, ∃ a ≠ 0#8, ∃ f : List Byte, f.length = e.length ∧ weight f + 1 = weight e ∧
      xorBytes f (unitWord e.length i a) = e := by
  induction e with
  | nil => exact absurd rfl h
  | cons b e ih =>
    by_cases hb : b = 0#8
    · subst hb
      obtain ⟨i, hi, a, ha, f, hf, hw, he⟩ := ih (by simpa [weight_cons] using h)
      exact ⟨i + 1, Nat.succ_lt_succ hi, a, ha, 0#8 :: f, by simp [hf], by simpa [weight_cons] using hw, by simp [he]⟩
    · exact ⟨0, Nat.succ_pos _, b, hb, 0#8 :: e, rfl, by simp [weight_cons, hb, Nat.add_comm], by simp⟩

theorem exists_unitWord {e : List Byte} (h : weight e = 1) : ∃ i < e.length, ∃ a ≠ 0#8, e = unitWord e.length i a := by
  obtain ⟨i, hi, a, ha, f, hf, hw, he⟩ := exists_xorBytes_unitWord (e := e) (by omega)
  refine ⟨i, hi, a, ha, he.symm.trans ?_⟩
  rw [xorBytes_comm, xorBytes_of_weight_eq_zero (by simpa using hf) (by omega)]

theorem unitWord_xorBytes_unitWord (n i : Nat) (a b : Byte) :
    xorBytes (unitWord n i a) (unitWord n i b) = unitWord n i (a ^^^ b) := by
  induction n generalizing i with
  | zero => rfl
  | succ n ih =>
    cases i with
    | zero =>
      simpa using xorBytes_replicate_zero (List.replicate n 0#8)
    | succ i => simpa using ih i

theorem exists_two_unitWords {e : List Byte} (h : weight e = 2) :
    ∃ i j : Nat, i < j ∧ j < e.length ∧ ∃ a ≠ 0#8, ∃ b ≠ 0#8,
      e = xorBytes (unitWord e.length i a) (unitWord e.length j b) := by
  obtain ⟨j, hj, b, hb, f, hf, hw, he⟩ := exists_xorBytes_unitWord (e := e) (by omega)
  obtain ⟨i, hi, a, ha, hfi⟩ := exists_unitWord (e := f) (by omega)
  rw [hfi, hf] at he
  rcases Nat.lt_trichotomy i j with hlt | rfl | hgt
  · exact ⟨i, j, hlt, hj, a, ha, b, hb, he.symm⟩
  · have hle := weight_unitWord_le e.length i (a ^^^ b)
    rw [← unitWord_xorBytes_unitWord, he] at hle
    omega
  · exact ⟨j, i, hgt, hf ▸ hi, b, hb, a, ha, by rw [xorBytes_comm, he]⟩

end Sys2Proof.Machine
end

section
/-! C256 as a linear code (R318, R320): the syndromes of a word are additive, those of an encoded granule are 0, and no
word of 1 to 4 bytes has all four at 0. -/

namespace Sys2Proof.Machine

/-! ### Syndromes -/

@[simp] theorem c256Syn_nil (j : Nat) : c256Syn [] j = 0#8 := rfl

theorem foldl_syn (j : Nat) (acc : Byte) (w : List Byte) :
    w.foldl (fun acc b => gfMul acc (gfAlpha j) ^^^ b) acc = gfMul acc (gfAlpha (j * w.length)) ^^^ c256Syn w j := by
  induction w generalizing acc with
  | nil => simp
  | cons b w ih =>
    have hword : c256Syn (b :: w) j = gfMul b (gfAlpha (j * w.length)) ^^^ c256Syn w j := by
      rw [c256Syn, List.foldl_cons, gfMul_zero_left, BitVec.zero_xor, ih]
    rw [List.foldl_cons, ih, hword, gfMul_xor_left, gfMul_assoc, gfMul_gfAlpha, List.length_cons,
      Nat.mul_add_one, Nat.add_comm j, BitVec.xor_assoc]

theorem c256Syn_cons (b : Byte) (w : List Byte) (j : Nat) :
    c256Syn (b :: w) j = gfMul b (gfAlpha (j * w.length)) ^^^ c256Syn w j := by
  rw [c256Syn, List.foldl_cons, foldl_syn, gfMul_zero_left, BitVec.zero_xor]

theorem c256Syn_append (u w : List Byte) (j : Nat) :
    c256Syn (u ++ w) j = gfMul (c256Syn u j) (gfAlpha (j * w.length)) ^^^ c256Syn w j := by
  rw [c256Syn, List.foldl_append, foldl_syn]
  rfl

theorem c256Syn_xorBytes {u v : List Byte} (h : v.length = u.length) (j : Nat) :
    c256Syn (xorBytes u v) j = c256Syn u j ^^^ c256Syn v j := by
  induction u generalizing v with
  | nil => simp [List.length_eq_zero_iff.mp h]
  | cons a u ih =>
    cases v with
    | nil => simp at h
    | cons b v =>
      have hl : v.length = u.length := Nat.succ.inj h
      rw [xorBytes_cons, c256Syn_cons, c256Syn_cons, c256Syn_cons, ih hl, length_xorBytes hl, hl, gfMul_xor_left]
      ac_rfl

theorem c256Syn_map_gfMul (f : Byte) (w : List Byte) (j : Nat) :
    c256Syn (w.map (gfMul f)) j = gfMul f (c256Syn w j) := by
  induction w with
  | nil => simp
  | cons b w ih => rw [List.map_cons, c256Syn_cons, c256Syn_cons, ih, List.length_map, gfMul_xor_right, gfMul_assoc]

@[simp] theorem c256Syn_replicate_zero (n j : Nat) : c256Syn (List.replicate n 0#8) j = 0#8 := by
  induction n with
  | zero => rfl
  | succ n ih => simp [List.replicate_succ, c256Syn_cons, ih]

/-- A byte at position `i` of `n` has the x-power `n - 1 - i`. -/
theorem c256Syn_unitWord {n i : Nat} (hi : i < n) (a : Byte) (j : Nat) :
    c256Syn (unitWord n i a) j = gfMul a (gfAlpha (j * (n - 1 - i))) := by
  induction n generalizing i with
  | zero => exact absurd hi (Nat.not_lt_zero i)
  | succ n ih =>
    cases i with
    | zero => simp [c256Syn_cons]
    | succ i =>
      rw [unitWord_succ_succ, c256Syn_cons, ih (Nat.lt_of_succ_lt_succ hi), gfMul_zero_left, BitVec.zero_xor,
        show n + 1 - 1 - (i + 1) = n - 1 - i by omega]

/-! ### Codewords -/

/-- All four syndromes are 0. -/
def IsCodeword (w : List Byte) : Prop := ∀ j < 4, c256Syn w j = 0#8

theorem c256Syns_eq_zero_iff (w : List Byte) : c256Syns w = [0#8, 0#8, 0#8, 0#8] ↔ IsCodeword w := by
  constructor
  · intro h j hj
    have hget := congrArg (fun l => l.getD j 0#8) h
    interval_cases j <;> exact hget
  · intro h
    have hlist : c256Syns w = [c256Syn w 0, c256Syn w 1, c256Syn w 2, c256Syn w 3] := rfl
    rw [hlist, h 0 (by decide), h 1 (by decide), h 2 (by decide), h 3 (by decide)]

theorem isCodeword_xorBytes_iff {u v : List Byte} (hl : v.length = u.length) (hu : IsCodeword u) :
    IsCodeword (xorBytes u v) ↔ IsCodeword v := by
  refine forall₂_congr fun j hj => ?_
  rw [c256Syn_xorBytes hl, hu j hj, BitVec.zero_xor]

/-! ### The encoder divides by the generator -/

theorem length_c256Feed {p : List Byte} (hp : p.length = 4) (d : Byte) : (c256Feed p d).length = 4 := by
  have hgen : c256Gen.length = 4 := by decide +kernel
  simp [c256Feed, hp, hgen]

/-- The four roots of the generator: there, its terms below x^4 add up to x^4. -/
theorem c256Syn_c256Gen : ∀ j < 4, c256Syn c256Gen j = gfAlpha (j * 4) := by decide +kernel

/-- Feeding a byte takes the remainder p to p·x + d·x^4, as seen at a root of the generator. -/
theorem c256Syn_c256Feed {p : List Byte} (hp : p.length = 4) (d : Byte) {j : Nat} (hj : j < 4) :
    c256Syn (c256Feed p d) j = gfMul (c256Syn p j) (gfAlpha j) ^^^ gfMul d (gfAlpha (j * 4)) := by
  obtain ⟨p₀, q, rfl⟩ := List.exists_cons_of_length_eq_add_one hp
  have hq : q.length = 3 := Nat.succ.inj hp
  have hgen : c256Gen.length = 4 := by decide +kernel
  change c256Syn (xorBytes (q ++ [0#8]) (c256Gen.map (gfMul (p₀ ^^^ d)))) j = _
  have hzero : c256Syn [0#8] j = 0#8 := c256Syn_replicate_zero 1 j
  have hshift : gfMul p₀ (gfAlpha (j * 4)) = gfMul (gfMul p₀ (gfAlpha (j * 3))) (gfAlpha j) := by
    rw [gfMul_assoc, gfMul_gfAlpha, ← Nat.mul_add_one]
  rw [c256Syn_xorBytes (by simp [hq, hgen]), c256Syn_map_gfMul, c256Syn_c256Gen j hj, c256Syn_append, hzero,
    c256Syn_cons p₀, hq, gfMul_xor_left p₀, gfMul_xor_left _ (c256Syn q j), hshift, List.length_singleton,
    Nat.mul_one, BitVec.xor_zero]
  ac_rfl

theorem c256Syn_foldl_c256Feed (data : List Byte) {p : List Byte} (hp : p.length = 4) {j : Nat} (hj : j < 4) :
    (data.foldl c256Feed p).length = 4 ∧ c256Syn (data.foldl c256Feed p) j =
      gfMul (c256Syn p j) (gfAlpha (j * data.length)) ^^^ gfMul (c256Syn data j) (gfAlpha (j * 4)) := by
  induction data generalizing p with
  | nil => simp [hp]
  | cons d data ih =>
    obtain ⟨hlen, hsyn⟩ := ih (length_c256Feed hp d)
    refine ⟨hlen, ?_⟩
    rw [List.foldl_cons, hsyn, c256Syn_c256Feed hp d hj, c256Syn_cons, gfMul_xor_left, gfMul_xor_left, gfMul_assoc,
      gfMul_gfAlpha, List.length_cons, Nat.mul_add_one j data.length, Nat.add_comm j, gfMul_assoc d, gfMul_assoc d,
      gfMul_comm (gfAlpha (j * 4)), BitVec.xor_assoc]

theorem length_c256Check (data : List Byte) : (c256Check data).length = 4 :=
  (c256Syn_foldl_c256Feed data (p := [0#8, 0#8, 0#8, 0#8]) rfl (j := 0) (by omega)).1

theorem length_append_c256Check {data : List Byte} (h : data.length = 32) : (data ++ c256Check data).length = 36 := by
  rw [List.length_append, h, length_c256Check]

/-- The check bytes are D(x)·x^4 modulo the generator (R318), so an encoded granule has all four roots. -/
theorem isCodeword_append_c256Check (data : List Byte) : IsCodeword (data ++ c256Check data) := by
  intro j hj
  have hstart : c256Syn [0#8, 0#8, 0#8, 0#8] j = 0#8 := c256Syn_replicate_zero 4 j
  have hcheck := (c256Syn_foldl_c256Feed data (p := [0#8, 0#8, 0#8, 0#8]) rfl hj).2
  rw [hstart, gfMul_zero_left, BitVec.zero_xor] at hcheck
  rw [c256Syn_append, length_c256Check, c256Check, hcheck, BitVec.xor_self]

/-! ### The distance -/

/-- The sum of the terms (e, n) of an error, each e·α^(j·n). -/
def powerSum (j : Nat) : List (Byte × Nat) → Byte
  | [] => 0#8
  | (a, n) :: ts => gfMul a (gfAlpha (j * n)) ^^^ powerSum j ts

/-- The bytes of a word that are not 0, each with its x-power. -/
def wordTerms : List Byte → List (Byte × Nat)
  | [] => []
  | b :: w => if b = 0#8 then wordTerms w else (b, w.length) :: wordTerms w

theorem powerSum_wordTerms (j : Nat) (w : List Byte) : powerSum j (wordTerms w) = c256Syn w j := by
  induction w with
  | nil => rfl
  | cons b w ih =>
    rw [c256Syn_cons, ← ih, wordTerms]
    split
    · next hb => rw [hb, gfMul_zero_left, BitVec.zero_xor]
    · rfl

theorem length_wordTerms (w : List Byte) : (wordTerms w).length = weight w := by
  induction w with
  | nil => rfl
  | cons b w ih =>
    rw [wordTerms, weight_cons]
    split
    · rw [ih, Nat.zero_add]
    · rw [List.length_cons, ih, Nat.add_comm]

theorem mem_wordTerms {w : List Byte} {t : Byte × Nat} (h : t ∈ wordTerms w) : t.1 ≠ 0#8 ∧ t.2 < w.length := by
  induction w with
  | nil => simp [wordTerms] at h
  | cons b w ih =>
    rw [wordTerms] at h
    split at h
    · exact ⟨(ih h).1, Nat.lt_succ_of_lt (ih h).2⟩
    · next hb =>
      rcases List.mem_cons.mp h with rfl | htail
      · exact ⟨hb, Nat.lt_succ_self _⟩
      · exact ⟨(ih htail).1, Nat.lt_succ_of_lt (ih htail).2⟩

theorem pairwise_wordTerms (w : List Byte) : (wordTerms w).Pairwise fun t u => u.2 < t.2 := by
  induction w with
  | nil => exact List.Pairwise.nil
  | cons b w ih =>
    rw [wordTerms]
    split
    · exact ih
    · exact List.Pairwise.cons (fun t ht => (mem_wordTerms ht).2) ih

/-- The factor x + α^m on every term: it takes the term of x-power `m` away. -/
def annihilate (m : Nat) (ts : List (Byte × Nat)) : List (Byte × Nat) :=
  ts.map fun t => (gfMul t.1 (gfAlpha t.2 ^^^ gfAlpha m), t.2)

theorem powerSum_annihilate (j m : Nat) (ts : List (Byte × Nat)) :
    powerSum j (annihilate m ts) = powerSum (j + 1) ts ^^^ gfMul (gfAlpha m) (powerSum j ts) := by
  induction ts with
  | nil => simp [annihilate, powerSum]
  | cons t ts ih =>
    change gfMul (gfMul t.1 (gfAlpha t.2 ^^^ gfAlpha m)) (gfAlpha (j * t.2)) ^^^ powerSum j (annihilate m ts) = _
    rw [ih, powerSum, powerSum, gfMul_xor_right, gfMul_xor_left, gfMul_assoc, gfMul_gfAlpha, Nat.add_comm t.2,
      ← Nat.add_one_mul, gfMul_xor_right, gfMul_comm t.1 (gfAlpha m), gfMul_assoc]
    ac_rfl

theorem powerSum_eq_zero {j : Nat} {ts : List (Byte × Nat)} (h : ∀ t ∈ ts, t.1 = 0#8) : powerSum j ts = 0#8 := by
  induction ts with
  | nil => rfl
  | cons t ts ih =>
    obtain ⟨ht, hts⟩ := List.forall_mem_cons.mp h
    rw [powerSum, ht, gfMul_zero_left, BitVec.zero_xor, ih hts]

/-- As many power sums as terms, all 0, leave every term 0: by induction on the terms, the first one annihilated. -/
theorem eq_zero_of_powerSum_eq_zero {ts : List (Byte × Nat)} (hdesc : ts.Pairwise fun t u => u.2 < t.2)
    (hlt : ∀ t ∈ ts, t.2 < 255) (hsum : ∀ j < ts.length, powerSum j ts = 0#8) : ∀ t ∈ ts, t.1 = 0#8 := by
  induction hn : ts.length generalizing ts with
  | zero => simp [List.length_eq_zero_iff.mp hn]
  | succ n ih =>
    obtain ⟨⟨a, m⟩, us, rfl⟩ := List.exists_cons_of_length_eq_add_one hn
    obtain ⟨hbelow, hdesc⟩ := List.pairwise_cons.mp hdesc
    obtain ⟨hm, hlt⟩ := List.forall_mem_cons.mp hlt
    have hlen : us.length = n := Nat.succ.inj hn
    have htail : ∀ t ∈ annihilate m us, t.1 = 0#8 := by
      refine ih (List.pairwise_map.mpr hdesc) (List.forall_mem_map.mpr hlt) (fun j hj => ?_) (by simpa [annihilate])
      have hj : j < n := by simpa [annihilate, hlen] using hj
      have hstep := powerSum_annihilate j m ((a, m) :: us)
      rw [hsum j (by omega), hsum (j + 1) (by omega)] at hstep
      simpa [annihilate, powerSum] using hstep
    have hzero : ∀ t ∈ us, t.1 = 0#8 := by
      intro t ht
      have hne : gfAlpha t.2 ^^^ gfAlpha m ≠ 0#8 := fun h =>
        gfAlpha_ne_of_lt (hbelow t ht) hm (BitVec.xor_eq_zero_iff.mp h)
      exact gfMul_eq_zero hne (htail _ (List.mem_map_of_mem ht))
    have hfirst := hsum 0 (by omega)
    rw [powerSum, powerSum_eq_zero hzero, Nat.zero_mul, gfAlpha_zero, gfMul_one_right, BitVec.xor_zero] at hfirst
    exact List.forall_mem_cons.mpr ⟨hfirst, hzero⟩

theorem weight_eq_zero_of_c256Syn {e : List Byte} {n : Nat} (hlen : e.length = 36) (hw : weight e ≤ n)
    (h : ∀ j < n, c256Syn e j = 0#8) : weight e = 0 := by
  have hterms := eq_zero_of_powerSum_eq_zero (pairwise_wordTerms e) (fun t ht => by have := (mem_wordTerms ht).2; omega)
    (fun j hj => by rw [powerSum_wordTerms]; exact h j (by rw [length_wordTerms] at hj; omega))
  rw [← length_wordTerms, List.length_eq_zero_iff]
  exact List.eq_nil_iff_forall_not_mem.mpr fun t ht => (mem_wordTerms ht).1 (hterms t ht)

/-- R320: two codewords that differ in at most 4 bytes are one. -/
theorem IsCodeword.eq_of_weight_le {u v : List Byte} (hu : IsCodeword u) (hv : IsCodeword v) (hul : u.length = 36)
    (hvl : v.length = 36) (h : weight (xorBytes u v) ≤ 4) : u = v := by
  have hl : v.length = u.length := hvl.trans hul.symm
  exact eq_of_weight_xorBytes_eq_zero hl
    (weight_eq_zero_of_c256Syn ((length_xorBytes hl).trans hul) h ((isCodeword_xorBytes_iff hl hu).mpr hv))

end Sys2Proof.Machine
end

section
/-! The decoder of C256 by what it promises: a word that an error within reach of the policy explains is corrected by
that error, and one that no such error explains is uncorrectable. With the code's distance this gives O53 (R320). -/

namespace Sys2Proof.Machine

/-! ### What a correction is -/

/-- The bytes that a policy may correct (Table 13-1). -/
def Policy.reach : Policy → Nat
  | .correct1 => 1
  | .correct2 => 2

theorem Policy.one_le_reach (pol : Policy) : 1 ≤ pol.reach := by cases pol <;> decide

theorem Policy.reach_le_two (pol : Policy) : pol.reach ≤ 2 := by cases pol <;> decide

/-- The error `e` of at most `n` bytes explains the word: without it the word is a codeword. -/
def Explains (n : Nat) (word e : List Byte) : Prop :=
  e.length = 36 ∧ weight e ≤ n ∧ IsCodeword (xorBytes word e)

/-- The two equations of `c256Try2` have the error's bytes as their solution. -/
theorem solve_pair {x₁ x₂ : Byte} (hx : x₁ ≠ x₂) (a b : Byte) :
    gfMul (gfMul (a ^^^ b) x₂ ^^^ (gfMul a x₁ ^^^ gfMul b x₂)) (gfInv (x₁ ^^^ x₂)) = a := by
  have hne : x₁ ^^^ x₂ ≠ 0#8 := fun h => hx (BitVec.xor_eq_zero_iff.mp h)
  have hnum : gfMul (a ^^^ b) x₂ ^^^ (gfMul a x₁ ^^^ gfMul b x₂) = gfMul a (x₁ ^^^ x₂) := by
    rw [gfMul_xor_left, gfMul_xor_right]
    calc _ = gfMul a x₁ ^^^ gfMul a x₂ ^^^ (gfMul b x₂ ^^^ gfMul b x₂) := by ac_rfl
      _ = _ := by rw [BitVec.xor_self, BitVec.xor_zero]
  rw [hnum, gfMul_assoc, gfMul_gfInv hne, gfMul_one_right]

theorem mem_c256Pairs {i j : Nat} (hij : i < j) (hj : j < 36) : (i, j) ∈ c256Pairs := by
  simpa [c256Pairs] using ⟨hij.trans hj, hj, hij⟩

theorem Explains.mono {m n : Nat} {word e : List Byte} (he : Explains m word e) (hmn : m ≤ n) : Explains n word e := by
  obtain ⟨hel, hew, hcode⟩ := he
  exact ⟨hel, hew.trans hmn, hcode⟩

section
variable {word : List Byte} (hlen : word.length = 36)
include hlen

theorem Explains.unique {e f : List Byte} {m n : Nat} (he : Explains m word e) (hf : Explains n word f)
    (hmn : m + n ≤ 4) : xorBytes word e = xorBytes word f := by
  obtain ⟨hel, hew, hec⟩ := he
  obtain ⟨hfl, hfw, hfc⟩ := hf
  have hdiff : xorBytes (xorBytes word e) (xorBytes word f) = xorBytes e f := by
    rw [xorBytes_comm word e, ← xorBytes_assoc, xorBytes_xorBytes_cancel (hlen.trans hel.symm)]
  refine hec.eq_of_weight_le hfc ?_ ?_ ?_
  · rw [length_xorBytes (hel.trans hlen.symm), hlen]
  · rw [length_xorBytes (hfl.trans hlen.symm), hlen]
  · rw [hdiff]
    exact (weight_xorBytes_le e f).trans (by omega)

/-- When an error takes the word to a codeword, the two have the same syndromes. -/
theorem c256Syn_of_isCodeword {e : List Byte} (hel : e.length = 36) (h : IsCodeword (xorBytes word e)) {j : Nat}
    (hj : j < 4) : c256Syn word j = c256Syn e j := by
  have hsyn := h j hj
  rwa [c256Syn_xorBytes (hel.trans hlen.symm), BitVec.xor_eq_zero_iff] at hsyn

/-! ### The corrections that the decoder tries -/

theorem explains_of_c256Try1 {i : Nat} {w : List Byte} (h : c256Try1 word i = some w) :
    ∃ e, w = xorBytes word e ∧ Explains 1 word e := by
  simp only [c256Try1, Option.ite_none_right_eq_some, Option.some.injEq, c256Syns_eq_zero_iff] at h
  obtain ⟨⟨-, hcode⟩, rfl⟩ := h
  rw [flipByte_eq_xorBytes, hlen] at hcode ⊢
  exact ⟨_, rfl, length_unitWord _ _ _, weight_unitWord_le _ _ _, hcode⟩

theorem c256Try1_unitWord {i : Nat} {a : Byte} (hi : i < 36) (ha : a ≠ 0#8)
    (h : IsCodeword (xorBytes word (unitWord 36 i a))) : (c256Try1 word i).isSome := by
  have hsyn : c256Syn word 0 = a := by
    rw [c256Syn_of_isCodeword hlen (length_unitWord _ _ _) h (by decide), c256Syn_unitWord hi, Nat.zero_mul,
      gfAlpha_zero, gfMul_one_right]
  simp [c256Try1, hsyn, ha, flipByte_eq_xorBytes, hlen, c256Syns_eq_zero_iff, h]

theorem length_flipByte (i : Nat) (a : Byte) : (flipByte word i a).length = 36 := by
  rw [flipByte, List.length_set, hlen]

theorem flipByte_flipByte (i j : Nat) (a b : Byte) :
    flipByte (flipByte word i a) j b = xorBytes word (xorBytes (unitWord 36 i a) (unitWord 36 j b)) := by
  rw [flipByte_eq_xorBytes, length_flipByte hlen, flipByte_eq_xorBytes, hlen, xorBytes_assoc]

theorem explains_of_c256Try2 {i j : Nat} {w : List Byte} (h : c256Try2 word i j = some w) :
    ∃ e, w = xorBytes word e ∧ Explains 2 word e := by
  simp only [c256Try2, Option.ite_none_right_eq_some, Option.some.injEq, c256Syns_eq_zero_iff] at h
  obtain ⟨⟨-, -, hcode⟩, rfl⟩ := h
  rw [flipByte_flipByte hlen] at hcode ⊢
  refine ⟨_, rfl, ?_, ?_, hcode⟩
  · rw [length_xorBytes (by simp), length_unitWord]
  · exact (weight_xorBytes_le _ _).trans (Nat.add_le_add (weight_unitWord_le _ _ _) (weight_unitWord_le _ _ _))

theorem c256Try2_unitWords {i j : Nat} {a b : Byte} (hij : i < j) (hj : j < 36) (ha : a ≠ 0#8) (hb : b ≠ 0#8)
    (h : IsCodeword (xorBytes word (xorBytes (unitWord 36 i a) (unitWord 36 j b)))) : (c256Try2 word i j).isSome := by
  have hsyn : ∀ k < 4, c256Syn word k = gfMul a (gfAlpha (k * (35 - i))) ^^^ gfMul b (gfAlpha (k * (35 - j))) := by
    intro k hk
    rw [c256Syn_of_isCodeword hlen (by rw [length_xorBytes] <;> simp) h hk, c256Syn_xorBytes (by simp),
      c256Syn_unitWord (hij.trans hj), c256Syn_unitWord hj]
  have hsyn0 : c256Syn word 0 = a ^^^ b := by simpa using hsyn 0 (by decide)
  have hsyn1 := hsyn 1 (by decide)
  rw [Nat.one_mul, Nat.one_mul] at hsyn1
  have hloc : gfAlpha (35 - i) ≠ gfAlpha (35 - j) := (gfAlpha_ne_of_lt (by omega) (by omega)).symm
  have hrest : a ^^^ b ^^^ a = b := by rw [BitVec.xor_comm, ← BitVec.xor_assoc, BitVec.xor_self, BitVec.zero_xor]
  have hzero := (c256Syns_eq_zero_iff _).mpr h
  simp only [c256Try2, hsyn0, hsyn1, solve_pair hloc, hrest, flipByte_flipByte hlen]
  rw [if_pos ⟨ha, hb, hzero⟩, Option.isSome_some]

/-! ### What the decoder answers -/

theorem Explains.weight_ne_zero {e : List Byte} {n : Nat} (he : Explains n word e) (hword : ¬ IsCodeword word) :
    weight e ≠ 0 := by
  obtain ⟨hel, -, hcode⟩ := he
  intro hw
  rw [xorBytes_of_weight_eq_zero (hel.trans hlen.symm) hw] at hcode
  exact hword hcode

theorem not_explains_one (hword : ¬ IsCodeword word) (h : (List.range 36).findSome? (c256Try1 word) = none)
    (e : List Byte) : ¬ Explains 1 word e := by
  intro he
  have hne := he.weight_ne_zero hlen hword
  obtain ⟨hel, hw, hcode⟩ := he
  obtain ⟨i, hi, a, ha, hunit⟩ := exists_unitWord (e := e) (by omega)
  rw [hel] at hi hunit
  have htry := c256Try1_unitWord hlen hi ha (hunit ▸ hcode)
  rw [List.findSome?_eq_none_iff.mp h i (List.mem_range.mpr hi)] at htry
  exact absurd htry (by decide)

theorem not_explains_two (hone : ∀ e, ¬ Explains 1 word e)
    (h : c256Pairs.findSome? (fun p => c256Try2 word p.1 p.2) = none) (e : List Byte) : ¬ Explains 2 word e := by
  rintro ⟨hel, hw, hcode⟩
  have hgt : ¬ weight e ≤ 1 := fun hle => hone e ⟨hel, hle, hcode⟩
  obtain ⟨i, j, hij, hj, a, ha, b, hb, hunits⟩ := exists_two_unitWords (e := e) (by omega)
  rw [hel] at hj hunits
  have htry := c256Try2_unitWords hlen hij hj ha hb (hunits ▸ hcode)
  rw [List.findSome?_eq_none_iff.mp h (i, j) (mem_c256Pairs hij hj)] at htry
  exact absurd htry (by decide)

/-- What the decoder can answer to a word that is no codeword: a correction within the policy's reach, or that there is
none. -/
theorem c256Decode_cases (pol : Policy) (hword : ¬ IsCodeword word) :
    (∃ e, Explains pol.reach word e ∧ c256Decode pol word = .corrected ((xorBytes word e).take 32)) ∨
    ((∀ e, ¬ Explains pol.reach word e) ∧ c256Decode pol word = .uncorrectable) := by
  unfold c256Decode
  rw [if_neg fun h => hword ((c256Syns_eq_zero_iff word).mp h)]
  cases h1 : (List.range 36).findSome? (c256Try1 word) with
  | some w =>
    obtain ⟨i, -, htry⟩ := List.exists_of_findSome?_eq_some h1
    obtain ⟨e, rfl, he⟩ := explains_of_c256Try1 hlen htry
    exact .inl ⟨e, he.mono pol.one_le_reach, rfl⟩
  | none =>
    have hone := not_explains_one hlen hword h1
    cases pol with
    | correct1 => exact .inr ⟨hone, rfl⟩
    | correct2 =>
      cases h2 : c256Pairs.findSome? (fun p => c256Try2 word p.1 p.2) with
      | some w =>
        obtain ⟨p, -, htry⟩ := List.exists_of_findSome?_eq_some h2
        obtain ⟨e, rfl, he⟩ := explains_of_c256Try2 hlen htry
        exact .inl ⟨e, he, rfl⟩
      | none => exact .inr ⟨not_explains_two hlen hone h2, rfl⟩

theorem c256Decode_of_explains {pol : Policy} {e : List Byte} (he : Explains pol.reach word e)
    (hword : ¬ IsCodeword word) : c256Decode pol word = .corrected ((xorBytes word e).take 32) := by
  rcases c256Decode_cases hlen pol hword with ⟨f, hf, hdec⟩ | ⟨hnone, -⟩
  · have hreach := pol.reach_le_two
    rw [hdec, hf.unique hlen he (by omega)]
  · exact absurd he (hnone e)

theorem c256Decode_of_forall_not_explains {pol : Policy} (h : ∀ e, ¬ Explains pol.reach word e) :
    c256Decode pol word = .uncorrectable := by
  have hword : ¬ IsCodeword word := fun hcode =>
    h (List.replicate word.length 0#8) ⟨by simp [hlen], by simp, by rwa [xorBytes_replicate_zero]⟩
  rcases c256Decode_cases hlen pol hword with ⟨e, he, -⟩ | ⟨-, hdec⟩
  · exact absurd he (h e)
  · exact hdec

end

/-! ### Disturbed granules -/

section
variable {data err : List Byte} (hdata : data.length = 32) (herr : err.length = 36)
include hdata herr

theorem length_disturbed : (disturbed data err).length = 36 :=
  (length_xorBytes (herr.trans (length_append_c256Check hdata).symm)).trans (length_append_c256Check hdata)

theorem xorBytes_disturbed : xorBytes (disturbed data err) err = data ++ c256Check data :=
  xorBytes_xorBytes_cancel (herr.trans (length_append_c256Check hdata).symm)

theorem explains_disturbed : Explains (weight err) (disturbed data err) err := by
  refine ⟨herr, le_rfl, ?_⟩
  rw [xorBytes_disturbed hdata herr]
  exact isCodeword_append_c256Check data

theorem isCodeword_disturbed_iff : IsCodeword (disturbed data err) ↔ IsCodeword err :=
  isCodeword_xorBytes_iff (herr.trans (length_append_c256Check hdata).symm) (isCodeword_append_c256Check data)

theorem c256Decode_disturbed_of_le_reach {pol : Policy} (hpos : weight err ≠ 0) (hw : weight err ≤ pol.reach) :
    c256Decode pol (disturbed data err) = .corrected data := by
  have hreach := pol.reach_le_two
  have hword : ¬ IsCodeword (disturbed data err) := fun h =>
    hpos (weight_eq_zero_of_c256Syn herr (by omega) ((isCodeword_disturbed_iff hdata herr).mp h))
  rw [c256Decode_of_explains (length_disturbed hdata herr) ((explains_disturbed hdata herr).mono hw) hword,
    xorBytes_disturbed hdata herr, List.take_left' hdata]

theorem c256Decode_disturbed_of_reach_lt {pol : Policy} (hgt : pol.reach < weight err)
    (hle : pol.reach + weight err ≤ 4) : c256Decode pol (disturbed data err) = .uncorrectable := by
  have hlen := length_disturbed hdata herr
  refine c256Decode_of_forall_not_explains hlen fun e he => ?_
  have hsame : xorBytes (disturbed data err) e = xorBytes (disturbed data err) err :=
    he.unique hlen (explains_disturbed hdata herr) hle
  obtain ⟨hel, hew, -⟩ := he
  have heq : e = err := xorBytes_left_cancel (hel.trans hlen.symm) (herr.trans hlen.symm) hsame
  subst heq
  omega

end

/-! ### O53 -/

theorem five_le_weight_of_ne {data other : List Byte} (hdata : data.length = 32) (hother : other.length = 32)
    (hne : data ≠ other) : 5 ≤ weight (xorBytes (data ++ c256Check data) (other ++ c256Check other)) := by
  by_contra hlt
  have hsame := (isCodeword_append_c256Check data).eq_of_weight_le (isCodeword_append_c256Check other)
    (length_append_c256Check hdata) (length_append_c256Check hother) (by omega)
  exact hne (List.append_inj_left hsame (hdata.trans hother.symm))

/-- The generator is itself a codeword, of 5 bytes: it encodes the granule whose last byte is 1. -/
theorem exists_weight_eq_five : ∃ a b : List Byte, a.length = 32 ∧ b.length = 32 ∧
    weight (xorBytes (a ++ c256Check a) (b ++ c256Check b)) = 5 :=
  ⟨List.replicate 32 0#8, unitWord 32 31 1#8, by decide, by decide, by decide +kernel⟩

/-- Settles O53: the code's distance leaves at most one codeword within reach, and the decoder finds it if there is
one. -/
theorem c256Distance : Obligations.C256Distance := by
  intro data other err hdata hother herr
  refine ⟨five_le_weight_of_ne hdata hother, exists_weight_eq_five, fun hw => ?_, fun _ hnone => ?_, fun hw => ?_,
    fun hw => ?_⟩
  · exact c256Decode_disturbed_of_le_reach hdata herr (by omega) (by rw [Policy.reach]; omega)
  · refine c256Decode_of_forall_not_explains (length_disturbed hdata herr) fun e he => ?_
    obtain ⟨hel, hew, hcode⟩ := he
    exact hnone e hel hew ((c256Syns_eq_zero_iff _).mpr hcode)
  · exact c256Decode_disturbed_of_le_reach hdata herr (by omega) (by rw [Policy.reach]; omega)
  · exact c256Decode_disturbed_of_reach_lt hdata herr (by rw [Policy.reach]; omega) (by rw [Policy.reach]; omega)

/-! ### The premise of the 3- and 4-byte clause -/

/-- An error that is no codeword and whose first two syndromes are 0 leaves no correction of 2 bytes: a correction would
have those two syndromes and so be 0. -/
theorem not_explains_of_c256Syn_eq_zero {data err : List Byte} (hdata : data.length = 32) (herr : err.length = 36)
    (hcode : ¬ IsCodeword err) (hsyn : ∀ j < 2, c256Syn err j = 0#8) (e : List Byte) :
    ¬ Explains 2 (disturbed data err) e := by
  intro he
  have hlen := length_disturbed hdata herr
  have hword : ¬ IsCodeword (disturbed data err) := fun h => hcode ((isCodeword_disturbed_iff hdata herr).mp h)
  refine he.weight_ne_zero hlen hword ?_
  obtain ⟨hel, hew, hexp⟩ := he
  refine weight_eq_zero_of_c256Syn hel hew fun j hj => ?_
  obtain ⟨-, -, herrcode⟩ := explains_disturbed hdata herr
  rw [← c256Syn_of_isCodeword hlen hel hexp (by omega), c256Syn_of_isCodeword hlen herr herrcode (by omega), hsyn j hj]

/-- The coefficients of (x - 1)(x - α), as an error in the last 3 bytes. -/
def threeByteError : List Byte := List.replicate 33 0#8 ++ [1#8, 3#8, 2#8]

/-- Correct-2 detects this error in every granule, since it meets the premise of the statement's clause. -/
theorem c256Decode_threeByteError {data : List Byte} (hdata : data.length = 32) :
    c256Decode .correct2 (disturbed data threeByteError) = .uncorrectable := by
  have herr : threeByteError.length = 36 := by decide
  have hsyn : ∀ j < 2, c256Syn threeByteError j = 0#8 := by decide +kernel
  have hsyn2 : c256Syn threeByteError 2 ≠ 0#8 := by decide +kernel
  have hcode : ¬ IsCodeword threeByteError := fun h => hsyn2 (h 2 (by decide))
  obtain ⟨-, -, -, hdetects, -⟩ := c256Distance data data threeByteError hdata hdata herr
  refine hdetects (.inl (by decide)) fun e hel hew hzero => ?_
  exact not_explains_of_c256Syn_eq_zero hdata herr hcode hsyn e ⟨hel, hew, (c256Syns_eq_zero_iff _).mp hzero⟩

end Sys2Proof.Machine
end

section
/-! The stored bits of PM_PWR_STATUS as operations write them and reads see them, and O22: what a coolant warning makes of
the average loop's cap (R431, R441). -/

namespace Sys2Proof.Machine

variable {s : State}

/-! ### Writes of a status bit and of an event -/

theorem setStatus_canonical (h : s.Canonical) (k : Nat) (b : Bool) : (setStatus s k b).Canonical :=
  setRaw_canonical h _ _

theorem pwrEvent_canonical (h : s.Canonical) (k : Nat) : (pwrEvent s k).Canonical := setRaw_canonical h _ _

@[simp] theorem setStatus_power (k : Nat) (b : Bool) : (setStatus s k b).power = s.power := rfl

theorem statusBit_setStatus (h : s.Canonical) (k : Nat) (b : Bool) {i : Nat} (hi : i < 32) :
    statusBit (setStatus s k b) i = if i = k then b else statusBit s i := by
  rw [statusBit, setStatus, rawReg_setRaw_same h, flag_setBit _ _ _ _ hi, statusBit]

theorem statusBit_setStatus_same (h : s.Canonical) {k : Nat} (b : Bool) (hk : k < 32) :
    statusBit (setStatus s k b) k = b := by
  rw [statusBit_setStatus h k b hk, if_pos rfl]

theorem statusBit_pwrEvent (h : s.Canonical) (k i : Nat) : statusBit (pwrEvent s k) i = statusBit s i := by
  rw [statusBit, pwrEvent, rawReg_postBit h, if_neg (by decide), statusBit]

theorem pwrCfg_setStatus (h : s.Canonical) (k : Nat) (b : Bool) : pwrCfg (setStatus s k b) = pwrCfg s :=
  rawReg_setRaw_ne h _ (by decide)

theorem capW_setStatus (h : s.Canonical) (k : Nat) (b : Bool) : capW (setStatus s k b) = capW s := by
  rw [capW, pwrCfg_setStatus h, capW]

theorem windowS_setStatus (h : s.Canonical) (k : Nat) (b : Bool) : windowS (setStatus s k b) = windowS s := by
  rw [windowS, pwrCfg_setStatus h, windowS]

/-! ### What reads and the average loop see of a status bit -/

/-- A computed field of PM_PWR_STATUS only adds bits to the stored ones. -/
theorem flag_or_of_left {n : Nat} {v : BitVec n} (w : BitVec n) {i : Nat} (hv : flag v i = true) :
    flag (v ||| w) i = true := by
  rw [flag] at hv ⊢
  rw [BitVec.getLsbD_or, hv, Bool.true_or]

/-- The stored bits are CAP_UNATTAINABLE, PEAK_HOLD and COOL_WARN. -/
theorem flag_pwrStatus_of_statusBit {i : Nat} (hstored : i ∈ [31, 28, 26]) (hset : statusBit s i = true) :
    flag (pwrStatus s) i = true := by
  have hmask : ∀ j ∈ [31, 28, 26], flag (mask32 31 31 ||| mask32 28 28 ||| mask32 26 26) j = true := by decide
  have hkept : flag (rawReg s 0xE0000204 &&& (mask32 31 31 ||| mask32 28 28 ||| mask32 26 26)) i = true := by
    rw [flag, BitVec.getLsbD_and, Bool.and_eq_true]
    exact ⟨hset, hmask i hstored⟩
  unfold pwrStatus
  iterate 7 apply flag_or_of_left
  exact hkept

theorem effectiveCap_of_warning (h : s.Canonical) (m : PowerReading) (hwarn : statusBit s 26 = true) :
    effectiveCap s m = min (effectiveCap (setStatus s 26 false) m) 800 := by
  have hcleared : statusBit (setStatus s 26 false) 26 = false := statusBit_setStatus_same h false (by decide)
  simp [effectiveCap, hwarn, hcleared, capW_setStatus h, windowS_setStatus h]

/-! ### O22 -/

/-- A warning sets COOL_WARN, and its event is posted in another register. -/
theorem statusBit_coolWarn_of_warning (h : s.Canonical) : statusBit (pwrEvent (setStatus s 26 true) 5) 26 = true := by
  rw [statusBit_pwrEvent (setStatus_canonical h 26 true), statusBit_setStatus_same h true (by decide)]

/-- Settles O22: COOL_WARN is what the warning sets and its end clears, and it alone brings the 800 W into the cap. -/
theorem coolantWarningCap : Obligations.CoolantWarningCap := by
  intro s m hs
  have holds : ∀ u : State, u.Canonical → statusBit u 26 = true →
      flag (pwrStatus u) 26 = true ∧ effectiveCap u m = min (effectiveCap (setStatus u 26 false) m) 800 :=
    fun u hu hwarn => ⟨flag_pwrStatus_of_statusBit (by decide) hwarn, effectiveCap_of_warning hu m hwarn⟩
  refine ⟨⟨pwrEvent (setStatus s 26 true) 5, rfl, ?_⟩, holds s hs, setStatus s 26 false, rfl, ?_, rfl⟩
  · exact holds _ (pwrEvent_canonical (setStatus_canonical hs 26 true) 5) (statusBit_coolWarn_of_warning hs)
  · exact statusBit_setStatus_same hs false (by decide)

end Sys2Proof.Machine
end

section
/-! O23: the level of ALERT_N (R491, R492). -/

namespace Sys2Proof.Machine

variable {s : State}

/-- R491: an unpowered module releases the output. -/
theorem alertPin_of_unpowered (hoff : s.boot.step = .off) : alertPin s = true := by
  rw [alertPin, decide_eq_true hoff, Bool.true_or]

/-- The hold after a thermal trip is what PM_THERM_STATUS.TRIP reads. -/
theorem thermalHold_eq_trip : thermalHold s = flag (thermStatus s) 31 := rfl

/-- In a powered module the output is the negation of its five conditions. -/
theorem alertPin_of_powered (hon : s.boot.step ≠ .off) :
    alertPin s = !(flag (pwrStatus s) 31 || flag (pwrStatus s) 30 || flag (pwrStatus s) 29 || flag (pwrStatus s) 26 ||
      flag (thermStatus s) 31) := by
  rw [alertPin, decide_eq_false hon, Bool.false_or, thermalHold_eq_trip]

/-- Settles O23: power decides first, and only then does a condition pull the output low. -/
theorem alertOutput : Obligations.AlertOutput := by
  refine fun s => ⟨fun hon => ?_, alertPin_of_unpowered⟩
  rw [alertPin_of_powered hon, Bool.not_eq_false']
  simp only [Bool.or_eq_true, or_assoc]

end Sys2Proof.Machine
end

section
/-! What every step keeps, from what each row of `exec` keeps: the queue but for its front command, the fuses' direction and
the canonical form (O1, O56, O58 to O60); and the state after reset (O57). -/

namespace Sys2Proof.Machine

variable {s t : State}

/-! ### The rows -/

/-- Every row answers a next state that keeps what it must: one case per command, by the lemma of its row. -/
theorem exec_kept (i : Instr) (s : State) : OutKept s (exec i s) :=
  match i with
  | .prechargeStart => execPrechargeStart_kept (.refl s)
  | .prechargeAbort => execPrechargeAbort_kept (.refl s)
  | .inputGood => execInputGood_kept (.refl s)
  | .underVoltage => execUnderVoltage_kept (.refl s)
  | .overVoltage => execOverVoltage_kept (.refl s)
  | .extraction => execExtraction_kept (.refl s)
  | .coolantCut => execCoolantCut_kept (.refl s)
  | .strapRead codes repairOk => execStrapRead_kept (.refl s) codes repairOk
  | .imageReadDone cxl => execImageReadDone_kept (.refl s) cxl
  | .keysReady => execKeysReady_kept (.refl s)
  | .prstNAssert => execPrstNAssert_kept (.refl s)
  | .prstNRelease => execPrstNRelease_kept (.refl s)
  | .prstGlitch => execPrstGlitch_kept (.refl s)
  | .pmWdogKick who value => execPmWdogKick_kept (.refl s) who value
  | .moduleWatchdogExpiry => execModuleWatchdogExpiry_kept (.refl s)
  | .moduleWatchdogRelease => execModuleWatchdogRelease_kept (.refl s)
  | .pmRemoteReset who value => execPmRemoteReset_kept (.refl s) who value
  | .remoteResetAssert => execRemoteResetAssert_kept (.refl s)
  | .partitionReset who p value => execPartitionReset_kept (.refl s) who p value
  | .blockResetSet who b value => execBlockResetSet_kept (.refl s) who b value
  | .blockResetClear who b value => execBlockResetClear_kept (.refl s) who b value
  | .drainIdle b => execDrainIdle_kept (.refl s) b
  | .drainTimeout b => execDrainTimeout_kept (.refl s) b
  | .rstHeldClkExpiry b => execRstHeldClkExpiry_kept (.refl s) b
  | .pllLock d => execPllLock_kept (.refl s) d
  | .pllLockFail d => execPllLockFail_kept (.refl s) d
  | .governorGrant fall => execGovernorGrant_kept (.refl s) fall
  | .rampDone fall index => execRampDone_kept (.refl s) fall index
  | .idleSleep dom => execIdleSleep_kept (.refl s) dom
  | .powerStopDone dom => execPowerStopDone_kept (.refl s) dom
  | .pmOp who value => execPmOp_kept (.refl s) who value
  | .opMoveDone => execOpMoveDone_kept (.refl s)
  | .stateMismatch b count => execStateMismatch_kept (.refl s) b count
  | .averageLoop m => execAverageLoop_kept (.refl s) m
  | .shedDomain => execShedDomain_kept (.refl s)
  | .unshedDomain => execUnshedDomain_kept (.refl s)
  | .peakLoop m => execPeakLoop_kept (.refl s) m
  | .droopTrip die => execDroopTrip_kept (.refl s) die
  | .droopRecover die => execDroopRecover_kept (.refl s) die
  | .droopStretchLimit die => execDroopStretchLimit_kept (.refl s) die
  | .pwrbrkEngage => execPwrbrkEngage_kept (.refl s)
  | .pwrbrkIgnore => execPwrbrkIgnore_kept (.refl s)
  | .pwrbrkHigh => execPwrbrkHigh_kept (.refl s)
  | .brakeHoldEnd => execBrakeHoldEnd_kept (.refl s)
  | .brakeLong => execBrakeLong_kept (.refl s)
  | .thermalSample m => execThermalSample_kept (.refl s) m
  | .coolantSample m => execCoolantSample_kept (.refl s) m
  | .coolantWarning => execCoolantWarning_kept (.refl s)
  | .coolantWarningEnd => execCoolantWarningEnd_kept (.refl s)
  | .coolantTrip src => execCoolantTrip_kept (.refl s) src
  | .pmThermCtl who value => execPmThermCtl_kept (.refl s) who value
  | .linkTrained port => execLinkTrained_kept (.refl s) port
  | .linkTrainingTimeout port => execLinkTrainingTimeout_kept (.refl s) port
  | .fecLock port => execFecLock_kept (.refl s) port
  | .fecLockTimeout port => execFecLockTimeout_kept (.refl s) port
  | .linkDown port => execLinkDown_kept (.refl s) port
  | .holdDownEnd port => execHoldDownEnd_kept (.refl s) port
  | .portFailed port => execPortFailed_kept (.refl s) port
  | .cxlPortDown x => execCxlPortDown_kept (.refl s) x
  | .ackFrame f => execAckFrame_kept (.refl s) f
  | .openConn f => execOpenConn_kept (.refl s) f
  | .openAck f => execOpenAck_kept (.refl s) f
  | .closeConn f => execCloseConn_kept (.refl s) f
  | .closeAck f => execCloseAck_kept (.refl s) f
  | .remoteWrite f => execRemoteWrite_kept (.refl s) f
  | .remoteRead f => execRemoteRead_kept (.refl s) f
  | .remoteSignal f => execRemoteSignal_kept (.refl s) f
  | .sendData f => execSendData_kept (.refl s) f
  | .collData f => execCollData_kept (.refl s) f
  | .sendRts f => execSendRts_kept (.refl s) f
  | .sendCts f => execSendCts_kept (.refl s) f
  | .rejectFrame f => execRejectFrame_kept (.refl s) f
  | .regRead f => execRegRead_kept (.refl s) f
  | .regWrite f => execRegWrite_kept (.refl s) f
  | .counterRead f => execCounterRead_kept (.refl s) f
  | .dumpRead f => execDumpRead_kept (.refl s) f
  | .connSet f => execConnSet_kept (.refl s) f
  | .commSet f => execCommSet_kept (.refl s) f
  | .admitVerb f => execAdmitVerb_kept (.refl s) f
  | .admitDone => execAdmitDone_kept (.refl s)
  | .loadVerb f => execLoadVerb_kept (.refl s) f
  | .startVerb f => execStartVerb_kept (.refl s) f
  | .stopBoundary f => execStopBoundary_kept (.refl s) f
  | .stopHalt f => execStopHalt_kept (.refl s) f
  | .stopDone p => execStopDone_kept (.refl s) p
  | .release f => execRelease_kept (.refl s) f
  | .scrubDone p => execScrubDone_kept (.refl s) p
  | .verbDequeue q => execVerbDequeue_kept (.refl s) q
  | .ackTimer e => execAckTimer_kept (.refl s) e
  | .retransmitTimeout e => execRetransmitTimeout_kept (.refl s) e
  | .connTimeout e => execConnTimeout_kept (.refl s) e
  | .sessionOpenTimeout n => execSessionOpenTimeout_kept (.refl s) n
  | .pfcPause c => execPfcPause_kept (.refl s) c
  | .pauseFrame port => execPauseFrame_kept (.refl s) port
  | .arpRequest port => execArpRequest_kept (.refl s) port
  | .neighborSolicitation port => execNeighborSolicitation_kept (.refl s) port
  | .icmpEcho port => execIcmpEcho_kept (.refl s) port
  | .mark p t => execMark_kept (.refl s) p t
  | .wait p t => execWait_kept (.refl s) p t
  | .sig p t => execSig_kept (.refl s) p t
  | .fence p t => execFence_kept (.refl s) p t
  | .step p t => execStep_kept (.refl s) p t
  | .endStream p t => execEndStream_kept (.refl s) p t
  | .load p t => execLoad_kept (.refl s) p t
  | .xpose p t => execXpose_kept (.refl s) p t
  | .cflush p t => execCflush_kept (.refl s) p t
  | .tload p t => execTload_kept (.refl s) p t
  | .fmat p t => execFmat_kept (.refl s) p t
  | .bdx p t => execBdx_kept (.refl s) p t
  | .bdw p t => execBdw_kept (.refl s) p t
  | .bmat p t => execBmat_kept (.refl s) p t
  | .store p t => execStore_kept (.refl s) p t
  | .add p t => execAdd_kept (.refl s) p t
  | .sub p t => execSub_kept (.refl s) p t
  | .mul p t => execMul_kept (.refl s) p t
  | .max p t => execMax_kept (.refl s) p t
  | .min p t => execMin_kept (.refl s) p t
  | .cvt p t => execCvt_kept (.refl s) p t
  | .scale p t => execScale_kept (.refl s) p t
  | .offset p t => execOffset_kept (.refl s) p t
  | .funcVop p t => execFuncVop_kept (.refl s) p t
  | .deriv p t => execDeriv_kept (.refl s) p t
  | .rsum p t => execRsum_kept (.refl s) p t
  | .rmax p t => execRmax_kept (.refl s) p t
  | .rmin p t => execRmin_kept (.refl s) p t
  | .rsumsq p t => execRsumsq_kept (.refl s) p t
  | .softmax p t => execSoftmax_kept (.refl s) p t
  | .rmsnorm p t => execRmsnorm_kept (.refl s) p t
  | .layernorm p t => execLayernorm_kept (.refl s) p t
  | .tblload p t => execTblload_kept (.refl s) p t
  | .upd p t => execUpd_kept (.refl s) p t
  | .pref p t => execPref_kept (.refl s) p t
  | .migr p t => execMigr_kept (.refl s) p t
  | .pub p t => execPub_kept (.refl s) p t
  | .pubPublish p t k => execPubPublish_kept (.refl s) p t k
  | .coll p t => execColl_kept (.refl s) p t
  | .send p t => execSend_kept (.refl s) p t
  | .recv p t => execRecv_kept (.refl s) p t
  | .commandComplete p t k => execCommandComplete_kept (.refl s) p t k
  | .waitTimeout p t => execWaitTimeout_kept (.refl s) p t
  | .progressWatchdogExpiry p t => execProgressWatchdogExpiry_kept (.refl s) p t
  | .partitionDrainDone p => execPartitionDrainDone_kept (.refl s) p
  | .dumpStart who value => execDumpStart_kept (.refl s) who value
  | .dumpCaptureDone => execDumpCaptureDone_kept (.refl s)
  | .dumpRelease who value => execDumpRelease_kept (.refl s) who value
  | .patrolRead g upset => execPatrolRead_kept (.refl s) g upset
  | .proofRunStart kind index => execProofRunStart_kept (.refl s) kind index
  | .proofRunDone kind index lasting failing => execProofRunDone_kept (.refl s) kind index lasting failing
  | .retireMoveDone index => execRetireMoveDone_kept (.refl s) index
  | .autoMigrationWindow eastFirst => execAutoMigrationWindow_kept (.refl s) eastFirst
  | .exchangeDone p index => execExchangeDone_kept (.refl s) p index
  | .frameZeroed p index => execFrameZeroed_kept (.refl s) p index
  | .prefetchEntryStart p => execPrefetchEntryStart_kept (.refl s) p
  | .prefetchCopyDone p => execPrefetchCopyDone_kept (.refl s) p
  | .counterWrap core j => execCounterWrap_kept (.refl s) core j
  | .dbCntWrite who addr value => execDbCntWrite_kept (.refl s) who addr value
  | .monitorWindowEnd m rx tx => execMonitorWindowEnd_kept (.refl s) m rx tx
  | .dbMonCfg who addr value => execDbMonCfg_kept (.refl s) who addr value
  | .attestStart who value => execAttestStart_kept (.refl s) who value
  | .attestDone => execAttestDone_kept (.refl s)
  | .flashRead who value => execFlashRead_kept (.refl s) who value
  | .flashProgram who value => execFlashProgram_kept (.refl s) who value
  | .flashErase who value => execFlashErase_kept (.refl s) who value
  | .flashOpDone ok => execFlashOpDone_kept (.refl s) ok
  | .commitSvn who value => execCommitSvn_kept (.refl s) who value
  | .revokeRsa who k value => execRevokeRsa_kept (.refl s) who k value
  | .revokeSlh who k value => execRevokeSlh_kept (.refl s) who k value
  | .controlWrite who addr value => execControlWrite_kept (.refl s) who addr value
  | .cxlLinkUp x => execCxlLinkUp_kept (.refl s) x
  | .pfcPauseExpiry c => execPfcPauseExpiry_kept (.refl s) c
  | .upperShelfTrained ok => execUpperShelfTrained_kept (.refl s) ok
  | .laneSparingDone link => execLaneSparingDone_kept (.refl s) link
  | .p54FallsBelow20v => execP54FallsBelow20v_kept (.refl s)

/-! ### The step -/

theorem step_of_nil (h : s.pending = []) : step s = .next s := by rw [step, h]

theorem step_of_cons {c : Instr} {rest : List Instr} (h : s.pending = c :: rest) :
    step s = exec c { s with pending := rest } := by rw [step, h]

/-- The queue is no numbered collection and holds no fuse. -/
theorem canonical_withPending (h : s.Canonical) (rest : List Instr) : ({ s with pending := rest } : State).Canonical :=
  { h with regs := h.regs }

/-- A step takes the front command from the queue, and keeps what every row keeps. -/
theorem step_kept (s : State) :
    ∃ t, step s = .next t ∧ t.pending = s.pending.tail ∧ FusesKept s.boot.fuses t.boot.fuses ∧ (s.Canonical → t.Canonical) := by
  cases hq : s.pending with
  | nil => exact ⟨s, step_of_nil hq, hq, .refl _, id⟩
  | cons c rest =>
    obtain ⟨t, hexec, hkept⟩ := exec_kept c { s with pending := rest }
    exact ⟨t, (step_of_cons hq).trans hexec, hkept.pending, hkept.fuses, fun h => hkept.canonical (canonical_withPending h rest)⟩

/-! ### O1, O56, O58 to O60 -/

/-- Settles O1: the front command of a queue that is not empty. -/
theorem stepRunsFrontCommand : Obligations.StepRunsFrontCommand := fun _ _ _ h => step_of_cons h

/-- Settles O56: an empty queue has no front command. -/
theorem emptyQueueIdles : Obligations.EmptyQueueIdles := fun _ h => step_of_nil h

/-- Settles O58: every row answers, and a step is the row of the front command. -/
theorem everyCommandAnswers : Obligations.EveryCommandAnswers := by
  refine ⟨fun i s => ?_, fun s => ?_⟩
  · obtain ⟨t, hexec, hkept⟩ := exec_kept i s
    exact ⟨t, hexec, hkept.pending⟩
  · obtain ⟨t, hstep, hpending, -, -⟩ := step_kept s
    exact ⟨t, hstep, hpending⟩

/-- Settles O59: every row keeps the canonical form, and the queue is no part of it. -/
theorem stepKeepsCanonicalForm : Obligations.StepKeepsCanonicalForm := by
  intro s t hs hstep
  obtain ⟨u, hu, -, -, hcanonical⟩ := step_kept s
  obtain rfl : u = t := Host.Outcome.next.inj (hu.symm.trans hstep)
  exact hcanonical hs

/-- Settles O60: every row lets the fuses only gain. -/
theorem stepKeepsFuses : Obligations.StepKeepsFuses := by
  intro s t hstep
  obtain ⟨u, hu, -, hfuses, -⟩ := step_kept s
  obtain rfl : u = t := Host.Outcome.next.inj (hu.symm.trans hstep)
  exact hfuses

/-! ### O57 -/

theorem reset_canonical : State.reset.Canonical := by
  constructor <;> decide

theorem rawReg_reset (a : Nat) : rawReg State.reset a = resetWord a := rfl

theorem part_reset (p : Fin 16) : State.reset.part p = Part.free := by
  simp [State.part, State.reset]

theorem core_reset (c : Fin 64) : State.reset.core c = Core.reset := by
  simp [State.core, State.reset]

/-- Settles O57: nothing is listed in a collection after reset, so that each reads its reset value. -/
theorem resetState : Obligations.ResetState := by
  refine ⟨reset_canonical, rfl, rfl, rfl, part_reset, core_reset, fun _ => rfl, fun _ => rfl, ?_⟩
  simp only [rawReg_reset]
  decide

end Sys2Proof.Machine
end

section
/-! The 54 V input (R487, R489, R498, R500): what a loss of power leaves of the flash, and O2. -/

namespace Sys2Proof.Machine

variable {s : State}

/-! ### Writes that stay within one range of keys -/

/-- Writes within `lo .. lo + n - 1` leave every key outside it. -/
theorem Sparse.get_foldl_set_outside {α β : Type} [DecidableEq α] {d : α} {lo n : Nat} (key : β → Nat) (val : β → α)
    (hkey : ∀ e, lo ≤ key e ∧ key e < lo + n) (l : List β) {m : Sparse α} (hm : Sparse.wf d m = true) {a : Nat}
    (ha : a < lo ∨ lo + n ≤ a) :
    Sparse.get d (l.foldl (fun m e => Sparse.set d m (key e) (val e)) m) a = Sparse.get d m a := by
  induction l generalizing m with
  | nil => rfl
  | cons e l ih =>
    have hne : a ≠ key e := by
      obtain ⟨hlo, hhi⟩ := hkey e
      omega
    rw [List.foldl_cons, ih (Sparse.set_wf _ _ hm), Sparse.get_set_ne _ hm hne]

/-! ### A flash operation cut short -/

/-- Cutting a flash operation short writes the flash and SC_FLASH_CTL alone, and takes free values. -/
theorem flashCut_frame (s : State) : flashCut s =
    { s with regs := (flashCut s).regs, freeCount := (flashCut s).freeCount,
             boot := { s.boot with flash := (flashCut s).boot.flash, flashOp := none } } := by
  unfold flashCut
  split
  · rename_i h
    rw [← h]
  · dsimp only
    split <;> rfl

theorem fuses_flashCut (s : State) : (flashCut s).boot.fuses = s.boot.fuses :=
  congrArg (fun u => u.boot.fuses) (flashCut_frame s)

theorem flashCut_flash_of_none (h : s.boot.flashOp = none) : (flashCut s).boot.flash = s.boot.flash := by
  rw [flashCut, h]

theorem get_flash_flashCut_outside (hs : s.Canonical) {o : FlashOp} (h : s.boot.flashOp = some o) {a : Nat}
    (ha : a / 0x2000000 ≠ o.place / 0x2000000) :
    Sparse.get 0xFF#8 (flashCut s).boot.flash a = Sparse.get 0xFF#8 s.boot.flash a := by
  have hout : a < o.place / 0x2000000 * 0x2000000 ∨ o.place / 0x2000000 * 0x2000000 + 0x2000000 ≤ a := by omega
  rw [flashCut, h]
  dsimp only
  split
  · rfl
  · refine (Sparse.get_foldl_set_outside (n := 0x2000000) _ _ (fun e => ?_) _ (Sparse.clearRange_wf _ _ hs.flash) hout).trans ?_
    · omega
    · rw [Sparse.get_clearRange _ _ hs.flash, if_pos hout]

/-! ### A loss of power -/

theorem poweredOff_unpowered (hs : s.Canonical) (x : InputStep) : PoweredOff s (unpowered s x) x where
  rest := by
    unfold unpowered
    rw [flashCut_frame s]
  flash := flashCut_flash_of_none
  slots _ ho _ ha := get_flash_flashCut_outside hs ho ha
  regs _ := rfl
  counts _ := rfl
  parts := part_reset
  cores := core_reset
  doms _ := rfl

/-! ### O2 -/

/-- Settles O2: each row tests the state of the input, and a loss of power is `unpowered`. -/
theorem inputPowerSequence : Obligations.InputPowerSequence := by
  intro s hs
  have hoff := poweredOff_unpowered hs
  refine ⟨fun h => ⟨_, rfl, if_pos h⟩, fun h => ⟨_, rfl, if_pos h⟩, fun h => ?_, fun h => ?_, fun h => ?_, ⟨_, rfl, hoff .off⟩,
    fun ⟨hhold, hon⟩ => ?_, fun h => ⟨_, rfl, if_pos (by simpa using h)⟩⟩
  · have hu : (unpowered s .on).Canonical := (unpowered_kept (.refl s) .on).canonical hs
    have hcause : field (rawReg (setRaw (unpowered s .on) 0xE0000100 (bit32 31 true)) 0xE0000008) 31 28 = 1 := by
      rw [rawReg_setRaw_ne hu _ (by decide), (hoff .on).regs]
      decide
    have hlocked : clkLocked (setRaw (unpowered s .on) 0xE0000100 (bit32 31 true)) 0 = true := by
      rw [clkLocked, rawReg_setRaw_same hu, flag_bit32]
      rfl
    exact ⟨_, if_pos h, unpowered s .on, hoff .on, rfl, rfl, rfl, fuses_flashCut s, rfl, hcause, hlocked⟩
  · exact ⟨_, rfl, by rw [if_pos h]; exact hoff .off⟩
  · exact ⟨_, rfl, by rw [if_pos h]; exact hoff .off⟩
  · exact ⟨_, rfl, by rw [if_pos (by simp [hhold, hon])]; exact hoff .cut⟩

end Sys2Proof.Machine
end

section
/-! What wake demands leave: everything but the domains, the count of wakes and the governor's rises (R415, R424). -/

namespace Sys2Proof.Machine

variable {s t : State}

/-- The state but for what wake demands write. -/
def offWakes (s : State) : State := { s with counts := [], doms := [], rises := [] }

theorem eq_of_offWakes (h : offWakes t = offWakes s) : t = { s with counts := t.counts, doms := t.doms, rises := t.rises } :=
  congrArg (fun u : State => { u with counts := t.counts, doms := t.doms, rises := t.rises }) h

theorem view_of_offWakes {α : Type} {f : State → α} (hf : ∀ s, f (offWakes s) = f s := by exact fun _ => rfl)
    (h : offWakes t = offWakes s) : f t = f s := by rw [← hf t, h, hf]

theorem offWakes_demandOne (s : State) (d : Nat) : offWakes (demandOne s d).1 = offWakes s := by
  unfold demandOne
  dsimp only
  split
  · rfl
  · split
    · rfl
    · split <;> rfl

theorem offWakes_demandAll (s : State) (ds : List Nat) : offWakes (demandAll s ds) = offWakes s := by
  have hfold := foldl_view (fun acc : State × List Nat => offWakes acc.1)
    (g := fun acc d => ((demandOne acc.1 d).1, if (demandOne acc.1 d).2 then acc.2 ++ [d] else acc.2))
    (fun acc d => offWakes_demandOne acc.1 d) ds (s, [])
  unfold demandAll
  dsimp only
  split <;> exact hfold

@[simp] theorem offWakes_demandWake (s : State) (d : Nat) : offWakes (demandWake s d) = offWakes s := offWakes_demandAll s _

theorem demandAll_frame (s : State) (ds : List Nat) : demandAll s ds =
    { s with counts := (demandAll s ds).counts, doms := (demandAll s ds).doms, rises := (demandAll s ds).rises } :=
  eq_of_offWakes (offWakes_demandAll s ds)

end Sys2Proof.Machine
end

section
/-! Boot (R377, R379, R388, Table 15-2): what the fields of SYS_STRAP and SC_BOOT read after each step, what the fuses and
the records leave of the measurement, and O3. -/

namespace Sys2Proof.Machine

variable {s t : State}

/-! ### SC_BOOT -/

theorem setScBoot_canonical (h : s.Canonical) (hi lo v : Nat) : (setScBoot s hi lo v).Canonical := setRaw_canonical h _ _

theorem rawReg_setScBoot_same (h : s.Canonical) (hi lo v : Nat) :
    rawReg (setScBoot s hi lo v) scBoot = setField (rawReg s scBoot) hi lo v := rawReg_setRaw_same h _ _

theorem rawReg_setScBoot_ne (h : s.Canonical) (hi lo v : Nat) {a : Nat} (ha : a ≠ scBoot) :
    rawReg (setScBoot s hi lo v) a = rawReg s a := rawReg_setRaw_ne h _ ha

theorem bootSlot_setScBoot_ne (h : s.Canonical) {hi lo : Nat} (v : Nat) (hd : 27 < lo ∨ hi < 27) :
    bootSlot (setScBoot s hi lo v) = bootSlot s := by
  rw [bootSlot, rawReg_setScBoot_same h, field_setField_ne _ _ (by decide) hd, bootSlot]

theorem strapChoice_setScBoot (h : s.Canonical) (hi lo v : Nat) : strapChoice (setScBoot s hi lo v) = strapChoice s := by
  rw [strapChoice, rawReg_setScBoot_ne h _ _ _ (by decide), strapChoice]

/-! ### SYS_STRAP -/

theorem flag_or {n : Nat} (v w : BitVec n) (i : Nat) : flag (v ||| w) i = (flag v i || flag w i) := BitVec.getLsbD_or

/-- The code field of SYS_STRAP stands between MISMATCH and the choice. -/
theorem field_strap {b : Bool} {c d : Nat} (hc : c < 64) (hd : d < 1024) :
    field (bit32 31 b ||| at32 10 c ||| at32 0 d) 15 10 = c := by
  refine Nat.eq_of_testBit_eq fun i => ?_
  rw [testBit_field]
  by_cases hi : i < 6
  · have hpow : 2 ^ 10 ≤ 2 ^ (10 + i) := Nat.pow_le_pow_right (by decide) (by omega)
    have hhigh : d.testBit (10 + i) = false := Nat.testBit_lt_two_pow (by omega)
    have hne : ¬ 10 + i = 31 := by omega
    have hword : 10 + i < 32 := by omega
    simp [flag_or, flag_bit32, flag_at32, hi, hhigh, hne, hword]
  · have hpow : 2 ^ 6 ≤ 2 ^ i := Nat.pow_le_pow_right (by decide) (by omega)
    have hlow : c.testBit i = false := Nat.testBit_lt_two_pow (by omega)
    simp [hlow, hi]

theorem field_strapWord (codes : List Nat) : field (strapWord codes) 15 10 = medianCode codes % 64 :=
  field_strap (Nat.mod_lt _ (by decide)) (by omega)

/-! ### The fuses -/

theorem core_foldl_retire (s : State) (l : List Nat) (nn : Fin 64) :
    (nn.val ∈ l ∨ (s.core nn).retired = true →
      ((l.foldl (fun s k => s.modCore (Fin.ofNat 64 k) (fun c => { c with retired := true })) s).core nn).retired = true) := by
  induction l generalizing s with
  | nil => simp
  | cons k l ih =>
    intro h
    refine ih _ ?_
    by_cases hk : nn = Fin.ofNat 64 k
    · right
      rw [hk, State.core_modCore_same]
    · rw [State.core_modCore_ne _ _ hk]
      rcases h with h | h
      · left
        rcases List.mem_cons.mp h with rfl | h
        · exact absurd (by simp) hk
        · exact h
      · exact .inr h

theorem retired_applyFuses {nn : Fin 64} (h : nn.val ∈ s.boot.fuses.cores) : ((applyFuses s).core nn).retired = true :=
  core_foldl_retire s _ nn (.inl h)

theorem applyFuses_regs (s : State) : (applyFuses s).regs = s.regs := by
  refine foldl_view State.regs (fun s nn => ?_) _ s
  rfl

theorem applyFuses_boot (s : State) : (applyFuses s).boot = s.boot := by
  refine foldl_view State.boot (fun s nn => ?_) _ s
  rfl

/-! ### A failed slot -/

theorem recordFail_canonical (h : s.Canonical) (code : Nat) : (recordFail s code).Canonical := by
  unfold recordFail
  split <;> exact setScBoot_canonical h _ _ _

theorem recordFail_boot (s : State) (code : Nat) : (recordFail s code).boot = s.boot := by
  unfold recordFail
  split <;> rfl

theorem bootSlot_recordFail (h : s.Canonical) (code : Nat) : bootSlot (recordFail s code) = bootSlot s := by
  unfold recordFail
  split <;> exact bootSlot_setScBoot_ne h _ (.inr (by decide))

theorem strapChoice_recordFail (h : s.Canonical) (code : Nat) : strapChoice (recordFail s code) = strapChoice s := by
  unfold recordFail
  split <;> exact strapChoice_setScBoot h _ _ _

theorem field_bootFail (h : s.Canonical) : field (rawReg (bootFail s) scBoot) 31 28 = 0xF :=
  (congrArg (field · 31 28) (rawReg_setScBoot_same h 31 28 0xF)).trans (field_setField_same _ _ (by decide))

/-- Step 9 of Table 15-2: the recovery slot is read next where the strap asked for the normal one, else boot ends. -/
theorem slotFail_spec (h : s.Canonical) (hstep : s.boot.step = .image) (code : Nat) :
    (slotFail s code).boot.fuses = s.boot.fuses ∧
    if bootSlot s = 0 ∧ strapChoice s < 8 then
      (slotFail s code).boot.step = .image ∧ bootSlot (slotFail s code) = 1 ∧
        field (rawReg (slotFail s code) scBoot) 19 16 = code % 16
    else (slotFail s code).boot.step = .failed := by
  have hr := recordFail_canonical h code
  have hboot := recordFail_boot s code
  have hfuses : (recordFail s code).boot.fuses = s.boot.fuses := by rw [hboot]
  unfold slotFail
  dsimp only
  rw [bootSlot_recordFail h, strapChoice_recordFail h]
  split
  · rename_i hslot
    have h26 := setScBoot_canonical hr 26 26 1
    refine ⟨hfuses, (show (recordFail s code).boot.step = _ by rw [hboot, hstep]), ?_, ?_⟩
    · rw [bootSlot, rawReg_setScBoot_same h26]
      exact field_setField_same _ _ (by decide)
    · rw [rawReg_setScBoot_same h26, rawReg_setScBoot_same hr, field_setField_ne _ _ (by decide) (by decide),
        field_setField_ne _ _ (by decide) (by decide), recordFail, if_pos hslot.1, rawReg_setScBoot_same h]
      exact field_setField_same _ _ (by decide)
  · exact ⟨hfuses, rfl⟩

/-! ### The records -/

theorem boot_applyField {n : Nat} {ws : List (Nat × Nat)} {acc : Option State} {f : Nat × Nat × Nat × Nat × Nat} {b : Boot}
    (h : ∀ s ∈ acc, s.boot = b ∧ s.tick = n) : ∀ s ∈ applyField ws acc f, s.boot = b ∧ s.tick = n := by
  unfold applyField
  split
  · dsimp only
    split
    · simpa using h
    · simp
  · exact h

theorem foldl_option_view {β : Type} {P : State → Prop} {g : Option State → β → Option State}
    (hg : ∀ acc b, (∀ s ∈ acc, P s) → ∀ s ∈ g acc b, P s) (l : List β) {acc : Option State} (h : ∀ s ∈ acc, P s) :
    ∀ s ∈ l.foldl g acc, P s := by
  induction l generalizing acc with
  | nil => exact h
  | cons b l ih => exact ih (hg acc b h)

theorem boot_applyRecord {n : Nat} {rs : List (Nat × List Byte)} {acc : Option State} {k : Nat} {b : Boot}
    (h : ∀ s ∈ acc, s.boot = b ∧ s.tick = n) : ∀ s ∈ applyRecord rs acc k, s.boot = b ∧ s.tick = n := by
  unfold applyRecord
  split
  · split
    · exact foldl_option_view (fun _ _ => boot_applyField) _ (by simpa using h)
    · simp
  · exact h

/-- The records that are applied change registers and, of boot, the records in force and the owner's credential. -/
theorem boot_of_applyRecords {rs : List (Nat × List Byte)} (h : applyRecords s rs = some t) :
    t.boot.records = rs ∧ t.boot.chain = s.boot.chain ∧ t.tick = s.tick := by
  unfold applyRecords at h
  dsimp only at h
  split at h
  · cases h
  · have hboot := foldl_option_view (fun _ _ => boot_applyRecord) _ (P := fun u => u.boot = _ ∧ u.tick = s.tick)
      (fun u hu => by obtain rfl := Option.mem_some.mp hu; exact ⟨rfl, rfl⟩) t h
    obtain ⟨hboot, htick⟩ := hboot
    rw [hboot]
    exact ⟨rfl, rfl, htick⟩

/-- What start-up does after the records leaves: the records, the measurement and the clock. -/
def bootBooks (s : State) : List (Nat × List Byte) × List (Nat × List Byte) × Nat := (s.boot.records, s.boot.chain, s.tick)

theorem bootBooks_setRaw (s : State) (a : Nat) (w : Word) : bootBooks (setRaw s a w) = bootBooks s := rfl

theorem bootBooks_domSet (s : State) (d : Nat) (x : Dom) : bootBooks (domSet s d x) = bootBooks s := rfl

theorem bootBooks_demandWake (s : State) (d : Nat) : bootBooks (demandWake s d) = bootBooks s :=
  view_of_offWakes (h := offWakes_demandWake s d)

theorem bootBooks_enumerateCxl (s : State) (devs : List CxlDevice) : bootBooks (enumerateCxl s devs) = bootBooks s := by
  refine foldl_view bootBooks (fun s x => ?_) _ _
  split
  · rfl
  · simp only [apply_ite bootBooks, bootBooks_setRaw, bootBooks_domSet, ite_self]

theorem bootBooks_bringUp (s : State) : bootBooks (bringUp s) = bootBooks s := by
  refine (foldl_view bootBooks bootBooks_demandWake _ _).trans ?_
  dsimp only
  split <;> rfl

/-! ### O3 -/

/-- The state in which STRAP_READ has latched the strap and chosen the slot. -/
def strapLatched (s : State) (codes : List Nat) : State :=
  setScBoot (setRaw s 0x4 (strapWord codes)) 27 27 (strapChoice (setRaw s 0x4 (strapWord codes)) / 8)

theorem rawReg_strapLatched (hs : s.Canonical) (codes : List Nat) : rawReg (strapLatched s codes) 0x4 = strapWord codes := by
  rw [strapLatched, rawReg_setScBoot_ne (setRaw_canonical hs _ _) _ _ _ (by decide), rawReg_setRaw_same hs]

theorem bootSlot_strapLatched (hs : s.Canonical) (codes : List Nat) :
    bootSlot (strapLatched s codes) = medianCode codes % 64 / 4 / 8 := by
  rw [strapLatched, bootSlot, rawReg_setScBoot_same (setRaw_canonical hs _ _), field_setField_same _ _ (by decide),
    strapChoice, rawReg_setRaw_same hs, field_strapWord]
  omega

/-- STRAP_READ, where the repair of the fuses holds: they are applied, and the boot ROM, the fuses and the strap measured. -/
theorem exec_strapRead_true (hstep : s.boot.step = .strap) (codes : List Nat) : ∃ d₁ d₂ d₃ u,
    u = measure (measure (measure (applyFuses (strapLatched s codes)) 1 d₁) 2 d₂) 3 d₃ ∧
    exec (.strapRead codes true) s = .next { u with boot := { u.boot with step := .shelf } } :=
  ⟨_, _, _, _, rfl, if_pos hstep⟩

theorem boot_measure (s : State) (kind : Nat) (d : List Byte) :
    (measure s kind d).boot = { s.boot with chain := s.boot.chain ++ [(kind, d)] } := rfl

/-- STRAP_READ of an image whose repair fails ends boot (Table 15-2, step 10). -/
theorem exec_strapRead_false (hstep : s.boot.step = .strap) (codes : List Nat) : exec (.strapRead codes false) s =
    .next (bootFail (recordFail (strapLatched s codes) 10)) := if_pos hstep

/-- A sound image: the firmware applies its records, or refuses one with code 9. -/
theorem exec_imageReadDone_of_sound (hstep : s.boot.step = .image) (hcheck : imageCheck s = none)
    (cxl : List CxlDevice) {rs : List (Nat × List Byte)} {u : State}
    (hrs : rs = (splitRecords ((imageHeader s).recLen / 4 + 1)
      (slotBytes s (imageHeader s).recOfs (imageHeader s).recLen)).getD [])
    (hu : u = measure (measure s 4 (sha384 (slotBytes s 0 (imageHeader s).sigOfs))) 5
      (sha384 (slotBytes s (imageHeader s).recOfs (imageHeader s).recLen))) :
    ((applyRecords u rs).isSome = true → ∃ t, exec (.imageReadDone cxl) s = .next t ∧
      t.boot.step = .running ∧ t.boot.records = rs ∧ t.boot.chain = u.boot.chain ∧ t.boot.wdStart = s.tick) ∧
    ((applyRecords u rs).isSome = false → exec (.imageReadDone cxl) s = .next (slotFail u 9)) := by
  have hexec : exec (.imageReadDone cxl) s = execImageReadDone cxl s := rfl
  rw [execImageReadDone, if_pos hstep, hcheck] at hexec
  dsimp only at hexec
  rw [← hrs, ← hu] at hexec
  cases happly : applyRecords u rs with
  | none =>
    rw [happly] at hexec
    exact ⟨nofun, fun _ => hexec⟩
  | some v =>
    rw [happly] at hexec
    obtain ⟨w, hw, hwbooks⟩ : ∃ w, exec (.imageReadDone cxl) s = .next { bringUp (enumerateCxl w cxl) with
        boot := { (bringUp (enumerateCxl w cxl)).boot with step := .running, wdStart := (bringUp (enumerateCxl w cxl)).tick } } ∧
        bootBooks w = bootBooks v := ⟨_, hexec, rfl⟩
    obtain ⟨hrecords, hchain, htick⟩ := boot_of_applyRecords happly
    have hbooks : bootBooks (bringUp (enumerateCxl w cxl)) = (rs, u.boot.chain, s.tick) := by
      rw [bootBooks_bringUp, bootBooks_enumerateCxl, hwbooks, bootBooks, hrecords, hchain, htick, hu]
      rfl
    exact ⟨fun _ => ⟨_, hw, rfl, congrArg Prod.fst hbooks, congrArg (·.2.1) hbooks, congrArg (·.2.2) hbooks⟩, nofun⟩

/-- Settles O3: each row of boot in its step. -/
theorem bootSequence : Obligations.BootSequence := by
  intro s codes cxl rs u code hs
  refine ⟨fun h => ?_, fun h => ?_, fun h hprst hwd => ?_, fun h hcheck => ?_,
    fun h hcheck hrs hu => ?_, fun h => ?_⟩
  · obtain ⟨d₁, d₂, d₃, w, hw, hexec⟩ := exec_strapRead_true h codes
    have hregs : w.regs = (strapLatched s codes).regs := by
      rw [hw]
      exact applyFuses_regs _
    have hraw : ∀ a, rawReg w a = rawReg (strapLatched s codes) a := fun a => congrArg (Sparse.get _ · a) hregs
    have hchain : w.boot.chain.map (fun e => e.1) = s.boot.chain.map (fun e => e.1) ++ [1, 2, 3] := by
      simp only [hw, boot_measure, applyFuses_boot, List.map_append, List.append_assoc]
      rfl
    refine ⟨_, hexec, rfl, (hraw _).trans (rawReg_strapLatched hs codes), ?_, hchain, fun nn hnn => ?_⟩
    · exact (congrArg (field · 27 27) (hraw _)).trans (bootSlot_strapLatched hs codes)
    · change (w.core nn).retired = true
      rw [hw]
      exact retired_applyFuses (s := strapLatched s codes) hnn
  · exact ⟨_, exec_strapRead_false h codes, rfl, field_bootFail (recordFail_canonical (setScBoot_canonical (setRaw_canonical hs _ _) _ _ _) _)⟩
  · exact ⟨⟨_, if_pos ⟨h, hprst, hwd⟩, rfl⟩, ⟨_, if_pos ⟨h, hprst, hwd⟩, rfl⟩⟩
  · refine ⟨slotFail s code, ?_, slotFail_spec hs h code⟩
    change execImageReadDone cxl s = _
    rw [execImageReadDone, if_pos h, hcheck]
  · obtain ⟨happlied, hrefused⟩ := exec_imageReadDone_of_sound h hcheck cxl hrs hu
    refine ⟨happlied, fun hnone => ⟨_, hrefused hnone, ?_⟩⟩
    have husame : u.Canonical ∧ u.boot.step = .image ∧ u.boot.fuses = s.boot.fuses ∧ bootSlot u = bootSlot s ∧
        strapChoice u = strapChoice s := by
      subst hu
      exact ⟨{ hs with regs := hs.regs }, h, rfl, rfl, rfl⟩
    obtain ⟨hcan, hstep, hfuses, hslot, hchoice⟩ := husame
    have hfail := slotFail_spec hcan hstep 9
    rw [hfuses, hslot, hchoice] at hfail
    exact hfail
  · have hkeys := setScBoot_canonical hs 25 25 1
    refine ⟨_, if_pos h, ⟨rfl, fun a ha => ?_⟩, ?_, ?_⟩
    · simp only [List.mem_cons, List.not_mem_nil, or_false, not_or] at ha
      rw [rawReg_setRaw_ne hkeys _ ha.2, rawReg_setScBoot_ne hs _ _ _ ha.1]
    · rw [rawReg_setRaw_ne hkeys _ (by decide), rawReg_setScBoot_same hs, flag_setField _ _ _ _ _ (by decide)]
      rfl
    · rw [rawReg_setRaw_same hkeys, flag_setBit _ _ _ _ (by decide), if_pos rfl]

end Sys2Proof.Machine
end

section
/-! The width-3 reset sources (R402 to R405, R410): what a reset of that width leaves, and O4. -/

namespace Sys2Proof.Machine

variable {s t : State}

/-! ### Registers -/

theorem filter_keptReg_wfBy (hs : s.Canonical) : Sparse.wfBy resetWord 0 (s.regs.filter (fun e => keptReg e.1)) = true :=
  Sparse.filter_wfBy _ hs.regs

/-- PM_RST_CAUSE after a width-3 source: the source, and one more reset counted. -/
def causeWord (s : State) (cause : Nat) : Word :=
  setField (setField (rawReg s 0xE0000008) 31 28 cause) 15 0 (min (field (rawReg s 0xE0000008) 15 0 + 1) 0xFFFF)

/-- What a stored register reads after a width-3 source. -/
theorem get_keptRegs (hs : s.Canonical) (cause a : Nat) :
    Sparse.get (resetWord a) (keptRegs s cause) a =
      if a = 0xE0000204 then rawReg s 0xE0000204 &&& mask32 26 26
      else if a = 0xE0000008 then causeWord s cause
      else if keptReg a then rawReg s a else resetWord a := by
  have hfilter := filter_keptReg_wfBy hs
  have hcause := Sparse.set_wf' 0xE0000008 (causeWord s cause) hfilter
  have hwrites : keptRegs s cause = Sparse.set (resetWord 0xE0000204) (Sparse.set (resetWord 0xE0000008)
      (s.regs.filter (fun e => keptReg e.1)) 0xE0000008 (causeWord s cause)) 0xE0000204
      (rawReg s 0xE0000204 &&& mask32 26 26) := by
    rw [show resetWord 0xE0000204 = 0#32 by decide]
    rfl
  rw [hwrites, Sparse.get_set_by _ _ hcause, Sparse.get_set_by _ _ hfilter, Sparse.get_filter_by _ hs.regs]
  rfl

theorem field_causeWord (s : State) {cause : Nat} (hcause : cause < 16) : field (causeWord s cause) 31 28 = cause := by
  rw [causeWord, field_setField_ne _ _ (by decide) (by decide), field_setField_same _ _ (by decide)]
  exact Nat.mod_eq_of_lt hcause

theorem resets_causeWord (s : State) (cause : Nat) :
    field (causeWord s cause) 15 0 = min (field (rawReg s 0xE0000008) 15 0 + 1) 0xFFFF := by
  rw [causeWord, field_setField_same _ _ (by decide)]
  omega

/-! ### Ports -/

theorem Port.stop_of_alive {x : Port} (h : x.dead = false) : x.stop = Port.off := by
  rw [Port.stop, h]
  rfl

/-- Only ports out of service keep anything, so that the others need not be listed. -/
theorem get_stopped_ports {m : Sparse Port} {lo : Nat} (hm : Sparse.wfBy (fun _ => Port.off) lo m = true) (i : Nat) :
    Sparse.get Port.off ((m.map (fun e => (e.1, e.2.stop))).filter (fun e => e.2.dead)) i = (Sparse.get Port.off m i).stop := by
  induction m generalizing lo with
  | nil => rfl
  | cons e rest ih =>
    obtain ⟨k, x⟩ := e
    simp only [Sparse.wfBy, Bool.and_eq_true] at hm
    have hbelow : i ≤ k → Sparse.get Port.off rest i = Port.off := fun h => Sparse.get_below hm.2 (by omega)
    cases hd : x.dead with
    | false =>
      have hdead : x.stop.dead = false := hd
      rw [List.map_cons, List.filter_cons_of_neg (by simp [hdead]), ih hm.2, Sparse.get]
      split
      · rw [hbelow (by omega), Port.stop_of_alive hd]
        rfl
      · split
        · rw [hbelow (by omega)]
        · rfl
    | true =>
      have hdead : x.stop.dead = true := hd
      rw [List.map_cons, List.filter_cons_of_pos (by simp [hdead]), Sparse.get, Sparse.get, ih hm.2]
      split
      · rfl
      · split <;> rfl

/-! ### The reset -/

theorem core_map (s : State) (f : Core → Core) (c : Fin 64) : (s.cores.map f)[c] = f (s.core c) := by
  simp [State.core]

/-- A width-3 reset, whatever the pin and the watchdog then hold. -/
theorem wideReset_spec (hs : s.Canonical) {cause : Nat} (hcause : cause < 16) (prst wd : Bool) :
    WideReset s { wideReset s cause with boot := { (wideReset s cause).boot with prstLow := prst, wdHeld := wd } } cause where
  step := rfl
  fuses := rfl
  flash := rfl
  chain := rfl
  pending := rfl
  cause := (congrArg (field · 31 28) (get_keptRegs hs cause 0xE0000008)).trans (field_causeWord s hcause)
  resets := (congrArg (field · 15 0) (get_keptRegs hs cause 0xE0000008)).trans (resets_causeWord s cause)
  kept a hkept hne := by
    have h204 : a ≠ 0xE0000204 := by
      rintro rfl
      exact absurd hkept (by decide)
    refine (get_keptRegs hs cause a).trans ?_
    rw [if_neg h204, if_neg hne, if_pos hkept]
  cleared a hclear hne := by
    have h008 : a ≠ 0xE0000008 := by
      rintro rfl
      exact absurd hclear (by decide)
    refine (get_keptRegs hs cause a).trans ?_
    rw [if_neg hne, if_neg h008, hclear]
    rfl
  counts _ := rfl
  parts := part_reset
  cores := core_map s clearCore
  doms d hd := (Sparse.get_set_ne _ (Sparse.nil_wf (d := Dom.off)) hd)
  always := rfl
  blks _ := rfl
  links e := by cases e <;> rfl
  ports := get_stopped_ports hs.ports
  objects := ⟨rfl, rfl, rfl, rfl⟩
  queues := ⟨rfl, rfl, rfl, rfl, rfl, rfl⟩

/-! ### O4 -/

/-- Settles O4: the four sources reset at width 3, and their releases change the source alone. -/
theorem wideResetSources : Obligations.WideResetSources := by
  intro s hs
  have hcut : (flashCut s).Canonical := (flashCut_kept (.refl s)).canonical hs
  refine ⟨⟨_, rfl, rfl, fun a => ?_⟩, fun h => ?_, fun h => ?_, ⟨_, rfl, rfl⟩, fun hen h => ?_, ⟨_, rfl, rfl⟩,
    fun h => ?_⟩
  · refine (count_bump hs 0xE0000038 none 1 a).trans ?_
    split <;> simp [wrap48, *]
  · refine ⟨_, rfl, ?_, rfl⟩
    rw [if_pos h]
    exact wideReset_spec hcut (by decide) true _
  · refine ⟨_, rfl, ?_⟩
    rw [if_neg (by rw [h]; decide)]
  · exact ⟨_, if_pos (by rw [hen, h]; rfl), wideReset_spec hs (by decide) _ true, rfl⟩
  · refine ⟨_, rfl, ?_⟩
    rw [if_pos h]
    exact wideReset_spec hs (by decide) (wideReset s 4).boot.prstLow (wideReset s 4).boot.wdHeld

end Sys2Proof.Machine
end

section
/-! Control writes (R10, R26, R28): what comes of one by its requester and its gate, the subsystem that a write reaches, and
O5. -/

namespace Sys2Proof.Machine

variable {s t : State} {who : Requester} {level : Level}

/-! ### The branches of a control write -/

theorem ctlWrite_of_no_level (h : requesterLevel s who = none) (a v : Word) : ctlWrite s who a v = s := by
  simp [ctlWrite, h]

theorem ctlWrite_of_behind (h : requesterLevel s who = some level) (hw : waitsBehind s who = true) (a v : Word) :
    ctlWrite s who a v = { s with accs := s.accs ++ [⟨who, none, a, v, []⟩] } := by
  simp [ctlWrite, h, hw, holdAcc]

theorem ctlWrite_of_first (h : requesterLevel s who = some level) (hw : waitsBehind s who = false) (a v : Word) :
    ctlWrite s who a v = match gateOf s level a.toNat with
      | .go => (doWrite s who a.toNat v).1
      | .stop _ => s
      | .sleep d => demandWake { s with accs := s.accs ++ [⟨who, none, a, v, []⟩] } d := by
  simp only [ctlWrite, h, hw]
  rfl

/-- A write that nothing stops takes its effect. -/
theorem ctlWrite_of_goes {n : Nat} (h : AccessGoes s who level n) {a : Word} (ha : a.toNat = n) (v : Word) :
    ctlWrite s who a v = (doWrite s who n v).1 := by
  obtain ⟨hlevel, hfirst, hgate⟩ := h
  rw [ctlWrite_of_first hlevel hfirst, ha, hgate]

theorem fromOwner_of_goes {n : Nat} (h : AccessGoes s who .owner n) : fromOwner s who = true := by
  rw [fromOwner, h.lvl]
  rfl

theorem fromOwner_iff_of_goes {n : Nat} (h : AccessGoes s who level n) : fromOwner s who = true ↔ level = .owner := by
  rw [fromOwner, h.lvl]
  simp

/-! ### The subsystem that a write reaches -/

theorem doWrite_sc {n : Nat} (hn : n < 0x10000000) (v : Word) :
    doWrite s who (0xD0000000 + n) v = writeSc s (fromOwner s who) n v := by
  have hcode : (0xD0000000 + n) / 0x10000000 = 13 := by omega
  have hofs : (0xD0000000 + n) % 0x10000000 = n := by omega
  simp only [doWrite, hcode, hofs]

theorem doWrite_pm {n : Nat} (hn : n < 0x10000000) (v : Word) :
    doWrite s who (0xE0000000 + n) v = (writePm s who n v, 0) := by
  have hcode : (0xE0000000 + n) / 0x10000000 = 14 := by omega
  have hofs : (0xE0000000 + n) % 0x10000000 = n := by omega
  simp only [doWrite, hcode, hofs]

theorem doWrite_db {n : Nat} (hn : n < 0x10000000) (v : Word) :
    doWrite s who (0xF0000000 + n) v = (writeDb s n v, 0) := by
  have hcode : (0xF0000000 + n) / 0x10000000 = 15 := by omega
  have hofs : (0xF0000000 + n) % 0x10000000 = n := by omega
  simp only [doWrite, hcode, hofs]

/-! ### Frames of stored registers -/

theorem OnlyRegs.of_setRaw (h : s.Canonical) (a : Nat) (w : Word) : OnlyRegs s (setRaw s a w) [a] :=
  ⟨rfl, fun b hb => rawReg_setRaw_ne h w (by simpa using hb)⟩

theorem OnlyRegs.refl (s : State) (as : List Nat) : OnlyRegs s s as := ⟨rfl, fun _ _ => rfl⟩

theorem OnlyRegs.mono {as bs : List Nat} (h : OnlyRegs s t as) (hsub : as ⊆ bs) : OnlyRegs s t bs :=
  ⟨h.1, fun a ha => h.2 a fun hmem => ha (hsub hmem)⟩

theorem OnlyRegs.trans {u : State} {as bs : List Nat} (h : OnlyRegs s t as) (h' : OnlyRegs t u bs) :
    OnlyRegs s u (as ++ bs) := by
  obtain ⟨ht, hregs⟩ := h
  obtain ⟨hu, hregs'⟩ := h'
  refine ⟨hu.trans ?_, fun a ha => ?_⟩
  · rw [ht]
  · rw [List.mem_append, not_or] at ha
    rw [hregs' a ha.2, hregs a ha.1]

/-! ### O5 -/

/-- Settles O5: each of the four outcomes is one branch of the control write. -/
theorem controlWriteOutcome : Obligations.ControlWriteOutcome := by
  intro s who level a v
  refine ⟨fun h => ⟨_, rfl, ctlWrite_of_goes h rfl v⟩, fun h => ⟨_, rfl, ctlWrite_of_no_level h a v⟩,
    fun h hw => ⟨_, rfl, ctlWrite_of_behind h hw a v⟩, fun h hw => ⟨fun st hst => ⟨_, rfl, ?_⟩, fun d hd => ⟨_, rfl, ?_⟩⟩⟩
  · rw [ctlWrite_of_first h hw, hst]
  · rw [ctlWrite_of_first h hw, hd]

end Sys2Proof.Machine
end

section
/-! The security controller (R389, R393, R397): fuse commands (O8), flash operations (O9, O10) and attestation (O11). -/

namespace Sys2Proof.Machine

variable {s t : State} {who : Requester} {level : Level}

/-! ### Fuse commands (Table 15-14) -/

theorem doWrite_fuseCmd (h : AccessGoes s who .owner 0xD000000C) (v : Word) : doWrite s who 0xD000000C v = writeFuseCmd s v := by
  rw [show 0xD000000C = 0xD0000000 + 0xC from rfl, doWrite_sc (by decide), fromOwner_of_goes h]
  rfl

/-- A command word with its key, as the rows write it. -/
theorem fields_fuseCmd {v : Word} (hkey : field v 31 16 = 0x5EC0) (op k : Nat) (hop : op < 16) (hk : k < 4) :
    let w := setField (setField v 7 4 op) 1 0 k
    field w 31 16 = 0x5EC0 ∧ field w 7 4 = op ∧ field w 1 0 = k := by
  refine ⟨?_, ?_, ?_⟩
  · rw [field_setField_ne _ _ (by decide) (by decide), field_setField_ne _ _ (by decide) (by decide), hkey]
  · rw [field_setField_ne _ _ (by decide) (by decide), field_setField_same _ _ (by decide)]
    exact Nat.mod_eq_of_lt hop
  · rw [field_setField_same _ _ (by decide)]
    exact Nat.mod_eq_of_lt hk

/-- Settles O8: each command burns its fuse, and a REVOKE of a slot that verified the booted image is refused. -/
theorem fuseCommands : Obligations.FuseCommands := by
  intro s who v k hgo hkey
  have hwrite := fun w => ctlWrite_of_goes hgo (a := 0xD000000C#32) rfl w
  have hrsa := fields_fuseCmd hkey 2 k.val (by decide) k.isLt
  have hslh := fields_fuseCmd hkey 3 k.val (by decide) k.isLt
  refine ⟨⟨_, congrArg Host.Outcome.next (hwrite _), ?_⟩, fun h => ⟨_, congrArg Host.Outcome.next (hwrite _), ?_⟩,
    fun h => ⟨_, congrArg Host.Outcome.next (hwrite _), ?_⟩, fun h => ⟨⟨_, congrArg Host.Outcome.next (hwrite _), ?_⟩, ?_⟩,
    fun h => ⟨⟨_, congrArg Host.Outcome.next (hwrite _), ?_⟩, ?_⟩⟩ <;> rw [doWrite_fuseCmd hgo, writeFuseCmd]
  · have hkey' : field (setField v 7 4 1) 31 16 = 0x5EC0 := by rw [field_setField_ne _ _ (by decide) (by decide), hkey]
    have hop : field (setField v 7 4 1) 7 4 = 1 := field_setField_same _ _ (by decide)
    simp only [hkey', hop]
    rfl
  · simp only [hrsa, bootedWith, scBoot, h]
    rfl
  · simp only [hslh, bootedWith, scBoot, h]
    rfl
  all_goals simp [hrsa, hslh, bootedWith, scBoot, h]

/-! ### Flash operations start (Table 15-16) -/

theorem doWrite_flashCtl (h : AccessGoes s who .owner 0xD0000200) (v : Word) : doWrite s who 0xD0000200 v = writeFlashCtl s v := by
  rw [show 0xD0000200 = 0xD0000000 + 0x200 from rfl, doWrite_sc (by decide), fromOwner_of_goes h]
  rfl

/-- SC_FLASH_CTL as a write of it leaves the fields that a START does not set. -/
def flashCtlWritten (w v : Word) : Word :=
  setField (setBit (if flag v 29 then setBit w 29 false else w) 23 (flag v 23)) 25 24 (field v 25 24)

theorem flag_busy_flashCtlWritten (w v : Word) : flag (flashCtlWritten w v) 30 = flag w 30 := by
  rw [flashCtlWritten, flag_setField_ne _ _ (by decide) (by decide), flag_setBit _ _ _ _ (by decide), if_neg (by decide)]
  split
  · rw [flag_setBit _ _ _ _ (by decide), if_neg (by decide)]
  · rfl

theorem field_op_flashCtlWritten (w v : Word) : field (flashCtlWritten w v) 25 24 = field v 25 24 := by
  rw [flashCtlWritten, field_setField_same _ _ (by decide)]
  exact Nat.mod_mod_of_dvd _ (dvd_refl _)

theorem flag_slot_flashCtlWritten (w v : Word) : flag (flashCtlWritten w v) 23 = flag v 23 := by
  rw [flashCtlWritten, flag_setField_ne _ _ (by decide) (by decide), flag_setBit _ _ _ _ (by decide), if_pos rfl]

theorem flashStart_fields (v : Word) {op : Nat} (hop : op < 3) :
    flag (flashStart op v) 31 = true ∧ field (flashStart op v) 25 24 = op ∧ flag (flashStart op v) 23 = flag v 23 := by
  refine ⟨?_, ?_, ?_⟩
  · rw [flashStart, flag_setField_ne _ _ (by decide) (by decide), flag_setBit _ _ _ _ (by decide), if_pos rfl]
  · rw [flashStart, field_setField_same _ _ (by decide)]
    omega
  · rw [flashStart, flag_setField_ne _ _ (by decide) (by decide), flag_setBit _ _ _ _ (by decide), if_neg (by decide)]

/-- What a START of an operation does while no operation is in progress: it is refused, or sets BUSY and the operation. -/
theorem writeFlashCtl_of_idle (hidle : flag (rawReg s flashCtl) 30 = false) {v : Word} (hstart : flag v 31 = true)
    (hop : field v 25 24 < 3) :
    (writeFlashCtl s v).1 =
      if flashDenied s v then setRaw s flashCtl (flashCtlWritten (rawReg s flashCtl) v)
      else
        let u := setRaw s flashCtl (setBit (flashCtlWritten (rawReg s flashCtl) v) 30 true)
        { u with boot := { u.boot with flashOp := some ⟨field v 25 24, flashPlace u v, flashWindow u⟩ } } := by
  have hbusy := flag_busy_flashCtlWritten (rawReg s flashCtl) v
  rw [hidle] at hbusy
  have hgoes : (flag (flashCtlWritten (rawReg s flashCtl) v) 30 || !flag v 31 || decide (field v 25 24 = 3)) = false := by
    rw [hbusy, hstart, decide_eq_false (by omega)]
    rfl
  unfold writeFlashCtl
  dsimp only
  rw [← flashCtlWritten, hgoes, if_neg Bool.false_ne_true]
  split <;> rfl

theorem field_eq_flag (v : Word) (i : Nat) : field v i i = if flag v i then 1 else 0 := by
  refine Nat.eq_of_testBit_eq fun k => ?_
  rw [testBit_field]
  cases k <;> cases flag v i <;> simp [Nat.testBit_succ]

theorem flashPlace_setRaw (hs : s.Canonical) (w v : Word) : flashPlace (setRaw s flashCtl w) v =
    (if flag v 23 then 0x2000000 else 0) +
      field (rawReg s 0xD0000204) 24 0 / (if field v 25 24 = 2 then 0x10000 else 256) *
        (if field v 25 24 = 2 then 0x10000 else 256) := by
  rw [flashPlace, rawReg_setRaw_ne hs _ (by decide), field_eq_flag]
  cases flag v 23 <;> simp

theorem flashWindow_setRaw (hs : s.Canonical) (w : Word) : flashWindow (setRaw s flashCtl w) = flashWindow s := by
  unfold flashWindow
  refine congrArg List.flatten (List.map_congr_left fun i _ => ?_)
  rw [rawReg_setRaw_ne hs _ (by rw [flashCtl]; omega)]

/-- A START that is not refused starts its operation. -/
theorem exec_flashStart (hs : s.Canonical) (hgo : AccessGoes s who .owner 0xD0000200)
    (hidle : flag (rawReg s 0xD0000200) 30 = false) {op : Nat} (hop : op < 3) (v : Word)
    (hok : op = 0 ∨ flag v 23 = false ∨ bootSlot s = 1) :
    FlashStarted s (ctlWrite s who 0xD0000200#32 (flashStart op v)) op (flag v 23) (if op = 2 then 0x10000 else 256) := by
  obtain ⟨hstart, hfield, hslot⟩ := flashStart_fields v hop
  have hdenied : flashDenied s (flashStart op v) = false := by
    rw [flashDenied, hfield, hslot]
    rcases hok with h | h | h <;> simp [h]
  have hwrite : ctlWrite s who 0xD0000200#32 (flashStart op v) = _ :=
    (ctlWrite_of_goes hgo rfl _).trans
      ((congrArg Prod.fst (doWrite_flashCtl hgo _)).trans (writeFlashCtl_of_idle hidle hstart (by omega)))
  rw [hdenied, if_neg Bool.false_ne_true] at hwrite
  have hreg : rawReg (ctlWrite s who 0xD0000200#32 (flashStart op v)) 0xD0000200 =
      setBit (flashCtlWritten (rawReg s flashCtl) (flashStart op v)) 30 true := by
    rw [hwrite]
    exact rawReg_setRaw_same hs _ _
  refine ⟨?_, ?_, ?_, ?_, ?_, ?_⟩
  · rw [hwrite]
    exact ⟨rfl, fun a ha => rawReg_setRaw_ne hs _ (by simpa [flashCtl] using ha)⟩
  · rw [hreg, flag_setBit _ _ _ _ (by decide), if_pos rfl]
  · rw [hreg, field_setBit_ne _ _ (by decide) (by decide), field_op_flashCtlWritten, hfield]
  · rw [hreg, flag_setBit _ _ _ _ (by decide), if_neg (by decide), flag_slot_flashCtlWritten, hslot]
  · rw [hwrite]
    rfl
  · rw [hwrite]
    dsimp only
    rw [flashPlace_setRaw hs, flashWindow_setRaw hs, hfield, hslot]

/-- A START that is refused stores its fields and starts nothing. -/
theorem exec_flashStart_denied (hs : s.Canonical) (hgo : AccessGoes s who .owner 0xD0000200)
    (hidle : flag (rawReg s 0xD0000200) 30 = false) {op : Nat} (hop : op < 3) (hwrites : op ≠ 0) (v : Word)
    (hslot : flag v 23 = true) (hnormal : bootSlot s = 0) :
    OnlyRegs s (ctlWrite s who 0xD0000200#32 (flashStart op v)) [0xD0000200] ∧
      flag (rawReg (ctlWrite s who 0xD0000200#32 (flashStart op v)) 0xD0000200) 30 = false := by
  obtain ⟨hstart, hfield, hslot'⟩ := flashStart_fields v hop
  have hdenied : flashDenied s (flashStart op v) = true := by
    simp [flashDenied, hfield, hslot', hslot, hnormal, hwrites]
  have hwrite : ctlWrite s who 0xD0000200#32 (flashStart op v) = _ :=
    (ctlWrite_of_goes hgo rfl _).trans
      ((congrArg Prod.fst (doWrite_flashCtl hgo _)).trans (writeFlashCtl_of_idle hidle hstart (by omega)))
  rw [hdenied, if_pos rfl] at hwrite
  rw [hwrite]
  refine ⟨OnlyRegs.of_setRaw hs _ _, ?_⟩
  rw [show 0xD0000200 = flashCtl from rfl, rawReg_setRaw_same hs, flag_busy_flashCtlWritten]
  exact hidle

/-- Settles O9: a START of the device owner while no operation is in progress. -/
theorem flashStarts : Obligations.FlashStarts := by
  intro s who v hs hgo hidle
  refine ⟨⟨_, rfl, exec_flashStart hs hgo hidle (by decide) v (.inl rfl)⟩, fun hok => ⟨⟨_, rfl, ?_⟩, ⟨_, rfl, ?_⟩⟩,
    fun ⟨hslot, hnormal⟩ => ⟨⟨_, rfl, ?_⟩, ⟨_, rfl, ?_⟩⟩⟩
  · exact exec_flashStart hs hgo hidle (by decide) v (.inr hok)
  · exact exec_flashStart hs hgo hidle (by decide) v (.inr hok)
  · exact exec_flashStart_denied hs hgo hidle (by decide) (by decide) v hslot hnormal
  · exact exec_flashStart_denied hs hgo hidle (by decide) (by decide) v hslot hnormal

/-! ### Flash operations end -/

/-- A run of stores at successive words. -/
theorem rawReg_foldl_setRaw (hs : s.Canonical) (base : Nat) (f : Nat → Word) (n a : Nat) :
    rawReg ((List.range n).foldl (fun s i => setRaw s (base + 4 * i) (f i)) s) a =
      if base ≤ a ∧ a < base + 4 * n ∧ (a - base) % 4 = 0 then f ((a - base) / 4) else rawReg s a := by
  have hcan : ∀ n, ((List.range n).foldl (fun s i => setRaw s (base + 4 * i) (f i)) s).Canonical := fun n => by
    induction n with
    | zero => exact hs
    | succ n ih =>
      rw [List.range_succ, List.foldl_append]
      exact setRaw_canonical ih _ _
  induction n with
  | zero => rw [if_neg (by omega)]; rfl
  | succ n ih =>
    rw [List.range_succ, List.foldl_append]
    refine (rawReg_setRaw (hcan n) _ _ a).trans ?_
    rw [ih]
    by_cases ha : a = base + 4 * n
    · rw [if_pos ha, if_pos (by omega), show (a - base) / 4 = n by omega]
    · rw [if_neg ha]
      exact if_congr (by omega) rfl rfl

/-- The frame of a run of stores. -/
theorem foldl_setRaw_frame (base : Nat) (f : Nat → Word) (n : Nat) (s : State) :
    (List.range n).foldl (fun s i => setRaw s (base + 4 * i) (f i)) s =
      { s with regs := ((List.range n).foldl (fun s i => setRaw s (base + 4 * i) (f i)) s).regs } := by
  have h := foldl_view (fun u : State => { u with regs := [] }) (g := fun s i => setRaw s (base + 4 * i) (f i))
    (fun _ _ => rfl) (List.range n) s
  exact congrArg (fun u : State => { u with regs := ((List.range n).foldl (fun s i => setRaw s (base + 4 * i) (f i)) s).regs }) h

/-- The state as the end of an operation leaves it before its effect. -/
def flashEnded (s : State) (ok : Bool) : State :=
  { setRaw s flashCtl (setBit (if ok then rawReg s flashCtl else setBit (rawReg s flashCtl) 29 true) 30 false) with
    boot := { s.boot with flashOp := none } }

theorem exec_flashOpDone {o : FlashOp} (h : s.boot.flashOp = some o) (ok : Bool) :
    exec (.flashOpDone ok) s = .next (if ok then flashEffect (flashEnded s ok) o else flashEnded s ok) := by
  change execFlashOpDone ok s = _
  rw [execFlashOpDone, h]
  rfl

theorem exec_flashOpDone_of_none (h : s.boot.flashOp = none) (ok : Bool) : exec (.flashOpDone ok) s = .next s := by
  change execFlashOpDone ok s = _
  rw [execFlashOpDone, h]

theorem flashEnded_canonical (hs : s.Canonical) (ok : Bool) : (flashEnded s ok).Canonical :=
  { hs with regs := (setRaw_canonical hs flashCtl _).regs }

theorem rawReg_flashEnded_ne (hs : s.Canonical) (ok : Bool) {a : Nat} (ha : a ≠ 0xD0000200) :
    rawReg (flashEnded s ok) a = rawReg s a := rawReg_setRaw_ne hs _ ha

theorem rawReg_flashEnded_ctl (hs : s.Canonical) (ok : Bool) : rawReg (flashEnded s ok) 0xD0000200 =
    setBit (if ok then rawReg s flashCtl else setBit (rawReg s flashCtl) 29 true) 30 false := rawReg_setRaw_same hs _ _

theorem flag_busy_flashEnded (hs : s.Canonical) (ok : Bool) : flag (rawReg (flashEnded s ok) 0xD0000200) 30 = false := by
  rw [rawReg_flashEnded_ctl hs, flag_setBit _ _ _ _ (by decide), if_pos rfl]

/-- Settles O10: the operation's end clears BUSY, and its effect is its own. -/
theorem flashOperationEnds : Obligations.FlashOperationEnds := by
  intro s o a hs
  refine ⟨fun ho => ⟨?_, fun hop => ?_, fun hop => ?_, fun hop => ?_⟩, fun h ok => ⟨s, exec_flashOpDone_of_none h ok, rfl⟩⟩
  · refine ⟨_, exec_flashOpDone ho false, ⟨rfl, fun b hb => rawReg_flashEnded_ne hs _ (by simpa using hb)⟩,
      flag_busy_flashEnded hs _, ?_⟩
    exact (congrArg (flag · 29) (rawReg_flashEnded_ctl hs _)).trans (by simp [flag_setBit])
  all_goals
    refine ⟨_, exec_flashOpDone ho true, ?_⟩
    simp only [flashEffect, hop, if_true]
  · have hwindow := fun b => rawReg_foldl_setRaw (flashEnded_canonical hs true) 0xD0000300 (fun i => BitVec.ofNat 32
      (leAt (Sparse.getRun 0xFF#8 s.boot.flash o.place 256) (4 * i) 4)) 64 b
    refine ⟨foldl_setRaw_frame _ _ _ _, ?_, fun i hi => ?_, fun hne hout => ?_⟩
    · exact (congrArg (flag · 30) (hwindow _)).trans (flag_busy_flashEnded hs true)
    · refine (hwindow _).trans ?_
      rw [if_pos (by omega), show (0xD0000300 + 4 * i - 0xD0000300) / 4 = i by omega]
    · refine (hwindow _).trans ?_
      rw [if_neg (by omega), rawReg_flashEnded_ne hs _ hne]
  · refine ⟨⟨rfl, fun b hb => rawReg_flashEnded_ne hs _ (by simpa using hb)⟩, flag_busy_flashEnded hs _, ?_⟩
    refine (Sparse.get_setRun _ _ hs.flash a).trans ?_
    split
    · rename_i hin
      rw [List.getD_eq_getElem _ _ (by omega), List.getD_eq_getElem]
    · rfl
  · refine ⟨⟨rfl, fun b hb => rawReg_flashEnded_ne hs _ (by simpa using hb)⟩, flag_busy_flashEnded hs _, ?_⟩
    refine (Sparse.get_clearRange _ _ hs.flash a).trans ?_
    split <;> split <;> first | rfl | omega

/-! ### Attestation (R393) -/

theorem doWrite_attCtl (s : State) (who : Requester) (v : Word) : doWrite s who 0xD0000100 v = (writeAttestCtl s v, 0) := by
  rw [show 0xD0000100 = 0xD0000000 + 0x100 from rfl, doWrite_sc (by decide)]
  rfl

/-- SC_ATTEST_CTL with DONE cleared where a one is written to it. -/
def attDoneCleared (w v : Word) : Word := if flag v 29 then setBit w 29 false else w

theorem flag_attDoneCleared (w v : Word) {i : Nat} (hi : i < 32) :
    flag (attDoneCleared w v) i = (flag w i && !(decide (i = 29) && flag v 29)) := by
  rw [attDoneCleared]
  split
  · rw [flag_setBit _ _ _ _ hi]
    split <;> simp [*]
  · simp [*]

/-- SC_ATTEST_CTL as the end of a report leaves it. -/
def reportWord (s : State) : Word :=
  setField (setBit (setBit (rawReg s attCtl) 30 false) 29 true) 14 0 (16848 + 64 * s.boot.chain.length)

/-- The report reads no register but SYS_IDENT. -/
theorem reportOf_setRaw_attCtl (hs : s.Canonical) (w : Word) : reportOf (setRaw s attCtl w) = reportOf s := by
  unfold reportOf
  rw [rawReg_setRaw_ne hs _ (by decide)]
  rfl

theorem exec_attestDone (hs : s.Canonical) (hbusy : flag (rawReg s 0xD0000100) 30 = true)
    (hkeys : flag (rawReg s 0xD0000100) 28 = false) : exec .attestDone s =
      .next { setRaw s attCtl (reportWord s) with boot := { s.boot with report := reportOf s } } := by
  have hready : (flag (rawReg s attCtl) 30 && !flag (rawReg s attCtl) 28) = true := by
    rw [attCtl, hbusy, hkeys]
    rfl
  change execAttestDone s = _
  unfold execAttestDone
  dsimp only
  rw [if_pos hready, ← reportWord, reportOf_setRaw_attCtl hs]
  rfl

/-- Settles O11: START begins a report unless one is being built, and the report's end gives its length. -/
theorem attestation : Obligations.Attestation := by
  intro s who level v hs
  have hword : ∀ i, i ≠ 31 → i < 32 → flag (setBit v 31 true) i = flag v i := fun i hne hi => by
    rw [flag_setBit _ _ _ _ hi, if_neg hne]
  have hstart : flag (setBit v 31 true) 31 = true := by rw [flag_setBit _ _ _ _ (by decide), if_pos rfl]
  have hwrite := fun (hgo : AccessGoes s who level 0xD0000100) =>
    (ctlWrite_of_goes hgo (a := 0xD0000100#32) rfl (setBit v 31 true)).trans (congrArg Prod.fst (doWrite_attCtl s who _))
  have hcleared := fun i => @flag_attDoneCleared (rawReg s attCtl) (setBit v 31 true) i
  refine ⟨fun hgo hidle => ⟨_, congrArg Host.Outcome.next (hwrite hgo), ?_⟩,
    fun hgo hbusy => ⟨_, congrArg Host.Outcome.next (hwrite hgo), ?_⟩, fun hbusy hkeys => ?_⟩
  · have hgoes : (flag (setBit v 31 true) 31 && !flag (attDoneCleared (rawReg s attCtl) (setBit v 31 true)) 30) = true := by
      rw [hstart, hcleared _ (by decide), show flag (rawReg s attCtl) 30 = false from hidle]
      rfl
    unfold writeAttestCtl
    dsimp only
    rw [← attDoneCleared, if_pos hgoes]
    have hreg := rawReg_setRaw_same hs attCtl (setBit (setBit (attDoneCleared (rawReg s attCtl) (setBit v 31 true)) 30 true) 28
      (!flag (rawReg s scBoot) 25))
    refine ⟨⟨rfl, fun a ha => rawReg_setRaw_ne hs _ (by simpa [attCtl] using ha)⟩, ?_, ?_, ?_, rfl⟩
    · refine (congrArg (flag · 30) hreg).trans ?_
      simp [flag_setBit]
    · refine (congrArg (flag · 29) hreg).trans ?_
      rw [flag_setBit _ _ _ _ (by decide), if_neg (by decide), flag_setBit _ _ _ _ (by decide), if_neg (by decide),
        hcleared _ (by decide), hword _ (by decide) (by decide)]
      rfl
    · refine (congrArg (flag · 28) hreg).trans ?_
      rw [flag_setBit _ _ _ _ (by decide), if_pos rfl]
      rfl
  · have hstays : (flag (setBit v 31 true) 31 && !flag (attDoneCleared (rawReg s attCtl) (setBit v 31 true)) 30) = false := by
      rw [hcleared _ (by decide), show flag (rawReg s attCtl) 30 = true from hbusy]
      simp
    unfold writeAttestCtl
    dsimp only
    rw [← attDoneCleared, hstays, if_neg Bool.false_ne_true]
    refine ⟨OnlyRegs.of_setRaw hs _ _, ?_⟩
    rw [show 0xD0000100 = attCtl from rfl, rawReg_setRaw_same hs, hcleared _ (by decide), show flag (rawReg s attCtl) 30 = true from hbusy]
    rfl
  · have hreg := rawReg_setRaw_same hs attCtl (reportWord s)
    refine ⟨_, exec_attestDone hs hbusy hkeys, ?_⟩
    generalize reportOf s = r
    refine ⟨⟨rfl, fun a ha => rawReg_setRaw_ne hs _ (by simpa [attCtl] using ha)⟩, ?_, ?_, ?_⟩
    · refine (congrArg (flag · 30) hreg).trans ?_
      rw [reportWord, flag_setField_ne _ _ (by decide) (by decide)]
      simp [flag_setBit]
    · refine (congrArg (flag · 29) hreg).trans ?_
      rw [reportWord, flag_setField_ne _ _ (by decide) (by decide)]
      simp [flag_setBit]
    · exact (congrArg (field · 14 0) hreg).trans (field_setField_same _ _ (by decide))

end Sys2Proof.Machine
end

section
/-! Numbers (R116, R120, R122, Table 5-5): binary exponents, the value of a floating-point code, what rounding to an integer
gives; O54 and O55. -/

namespace Sys2Proof.Machine

/-! ### Powers of two and binary exponents -/

theorem pow2_eq_zpow (i : Int) : pow2 i = (2 : Rat) ^ i := by
  unfold pow2
  split
  · next h =>
    obtain ⟨n, rfl⟩ := Int.eq_ofNat_of_zero_le h
    simp
  · next h =>
    obtain ⟨n, hn⟩ := Int.eq_ofNat_of_zero_le (show 0 ≤ -i by omega)
    obtain rfl : i = -(n : Int) := by omega
    simp

theorem two_zpow_log2_le {n : Nat} (h : n ≠ 0) : (2 : Rat) ^ (Nat.log2 n : Int) ≤ n := by
  rw [zpow_natCast]
  exact_mod_cast Nat.log2_self_le h

theorem lt_two_zpow_log2 (n : Nat) : (n : Rat) < 2 ^ ((Nat.log2 n : Int) + 1) := by
  rw [← Nat.cast_succ, zpow_natCast]
  exact_mod_cast Nat.lt_log2_self

/-- The exponent of a positive rational is the floor of its binary logarithm. -/
theorem floorLog2_spec {q : Rat} (hq : 0 < q) : (2 : Rat) ^ floorLog2 q ≤ q ∧ q < 2 ^ (floorLog2 q + 1) := by
  have hn : q.num.natAbs ≠ 0 := Int.natAbs_ne_zero.mpr (Rat.num_pos.mpr hq).ne'
  have hnum : ((q.num.natAbs : Nat) : Rat) = q * q.den := by
    rw [Rat.mul_den_eq_num, Nat.cast_natAbs, abs_of_pos (Rat.num_pos.mpr hq)]
  have hden : (0 : Rat) < q.den := by exact_mod_cast q.den_pos
  have hlow := two_zpow_log2_le hn
  have hhigh := lt_two_zpow_log2 q.num.natAbs
  have hdlow := two_zpow_log2_le q.den_nz
  have hdhigh := lt_two_zpow_log2 q.den
  rw [hnum] at hlow hhigh
  have habove : q < 2 ^ ((Nat.log2 q.num.natAbs : Int) - (Nat.log2 q.den : Int) + 1) := by
    rw [sub_add_eq_add_sub, zpow_sub₀ two_ne_zero, lt_div_iff₀ (by positivity)]
    exact (mul_le_mul_of_nonneg_left hdlow hq.le).trans_lt hhigh
  have hbelow : (2 : Rat) ^ ((Nat.log2 q.num.natAbs : Int) - (Nat.log2 q.den : Int) - 1) ≤ q := by
    rw [sub_sub, zpow_sub₀ two_ne_zero, div_le_iff₀ (by positivity)]
    exact hlow.trans (mul_le_mul_of_nonneg_left hdhigh.le hq.le)
  unfold floorLog2
  simp only [pow2_eq_zpow]
  split
  · next h => exact ⟨h, habove⟩
  · next h => exact ⟨hbelow, by rw [sub_add_cancel]; exact not_le.mp h⟩

theorem floorLog2_eq {q : Rat} {k : Int} (hlow : (2 : Rat) ^ k ≤ q) (hhigh : q < 2 ^ (k + 1)) : floorLog2 q = k := by
  obtain ⟨hle, hlt⟩ := floorLog2_spec ((by positivity : (0 : Rat) < 2 ^ k).trans_le hlow)
  have h1 := (zpow_lt_zpow_iff_right₀ (one_lt_two (α := Rat))).mp (hle.trans_lt hhigh)
  have h2 := (zpow_lt_zpow_iff_right₀ (one_lt_two (α := Rat))).mp (hlow.trans_lt hlt)
  omega

theorem floorLog2_lt {q : Rat} {k : Int} (hq : 0 < q) (hhigh : q < 2 ^ k) : floorLog2 q < k :=
  (zpow_lt_zpow_iff_right₀ (one_lt_two (α := Rat))).mp ((floorLog2_spec hq).1.trans_lt hhigh)

/-! ### Rounding to an integer (O55) -/

theorem roundInt_of_eq_floor {x : Rat} (m : Rounding) (h : x = x.floor) : roundInt m x = x.floor :=
  if_pos (sub_eq_zero.mpr h)

@[simp] theorem roundInt_intCast (m : Rounding) (k : Int) : roundInt m (k : Rat) = k := by
  rw [roundInt_of_eq_floor m (by simp)]
  simp

theorem ratAbs_eq_abs (x : Rat) : ratAbs x = |x| := by
  unfold ratAbs
  split
  · next h => exact (abs_of_neg h).symm
  · next h => exact (abs_of_nonneg (not_lt.mp h)).symm

/-- A number that is no integer lies strictly between its floor and the next integer. -/
theorem between_of_ne_floor {x : Rat} (h : x ≠ x.floor) : (x.floor : Rat) < x ∧ x < x.floor + 1 :=
  ⟨lt_of_le_of_ne (Rat.floor_le x) (Ne.symm h), sub_lt_iff_lt_add.mp Rat.lt_floor⟩


/-- Rounding to the nearest goes to an integer that is as near as both of its neighbours. -/
theorem abs_sub_roundInt_nearestEven_le (x : Rat) : |x - roundInt .nearestEven x| ≤ x - x.floor ∧
    |x - roundInt .nearestEven x| ≤ x.floor + 1 - x := by
  by_cases h : x = x.floor
  · rw [roundInt_of_eq_floor _ h, ← h]
    simp
  · obtain ⟨hlow, hhigh⟩ := between_of_ne_floor h
    have hdown : |x - x.floor| = x - x.floor := abs_of_pos (by linarith)
    have hup : |x - ((x.floor + 1 : Int) : Rat)| = x.floor + 1 - x := by
      rw [abs_sub_comm]
      push_cast
      exact abs_of_pos (by linarith)
    simp only [roundInt, sub_eq_zero, h, if_false]
    split
    · rw [hdown]
      constructor <;> linarith
    · split
      · rw [hup]
        constructor <;> linarith
      · split
        · rw [hdown]
          constructor <;> linarith
        · rw [hup]
          constructor <;> linarith

theorem abs_sub_roundInt_nearestEven_le_intCast (x : Rat) (k : Int) : |x - roundInt .nearestEven x| ≤ |x - k| := by
  obtain ⟨hlow, hhigh⟩ := abs_sub_roundInt_nearestEven_le x
  rcases Int.lt_or_le x.floor k with hk | hk
  · have hcast : (x.floor : Rat) + 1 ≤ k := by exact_mod_cast hk
    rw [abs_sub_comm x k]
    exact hhigh.trans ((sub_le_sub_right hcast x).trans (le_abs_self _))
  · have hcast : (k : Rat) ≤ x.floor := by exact_mod_cast hk
    exact hlow.trans ((sub_le_sub_left hcast x).trans (le_abs_self _))

/-- A tie goes to the even neighbour. -/
theorem roundInt_nearestEven_even_of_tie {x : Rat} (h : |x - roundInt .nearestEven x| = 1 / 2) :
    roundInt .nearestEven x % 2 = 0 := by
  obtain ⟨hlow, hhigh⟩ := abs_sub_roundInt_nearestEven_le x
  rw [h] at hlow hhigh
  have htie : x - x.floor = 1 / 2 := by linarith
  have hround : roundInt .nearestEven x = if x.floor % 2 = 0 then x.floor else x.floor + 1 := by
    simp only [roundInt, htie]
    norm_num
  rw [hround]
  split <;> omega

/-- Rounding toward zero never grows the magnitude, and stays within less than 1. -/
theorem roundInt_towardZero_spec (x : Rat) : |(roundInt .towardZero x : Rat)| ≤ |x| ∧ |x - roundInt .towardZero x| < 1 := by
  by_cases h : x = x.floor
  · rw [roundInt_of_eq_floor _ h, ← h]
    simp
  · obtain ⟨hlow, hhigh⟩ := between_of_ne_floor h
    simp only [roundInt, sub_eq_zero, h, if_false]
    split
    · next hx =>
      have hfloor : (0 : Rat) ≤ x.floor := by exact_mod_cast Rat.le_floor_iff.mpr (by exact_mod_cast hx)
      rw [abs_of_nonneg hfloor, abs_of_nonneg hx, abs_of_pos (by linarith)]
      constructor <;> linarith
    · next hx =>
      have hneg : x < 0 := not_le.mp hx
      have hfloor : x.floor + 1 ≤ 0 := by
        have hlt : (x.floor : Rat) < 0 := hlow.trans hneg
        have : x.floor < 0 := by exact_mod_cast hlt
        omega
      have hcast : ((x.floor + 1 : Int) : Rat) ≤ 0 := by exact_mod_cast hfloor
      rw [abs_of_nonpos hcast, abs_of_neg hneg, abs_sub_comm]
      push_cast
      rw [abs_of_pos (by linarith)]
      constructor <;> linarith

theorem roundInt_stoch_of_ne_floor {x : Rat} (d : Nat) (h : x ≠ x.floor) : roundInt (.stoch d) x =
    if (d : Int) < ((x - x.floor) * ((2 ^ 24 : Nat) : Rat)).floor then x.floor + 1 else x.floor := by
  simp only [roundInt, sub_eq_zero, h, if_false, stochUp, decide_eq_true_eq]

/-- Settles O55: an integer rounds to itself, and any other number to one of its two neighbours, by the rounding's own
choice. -/
theorem roundingToIntegers : Obligations.RoundingToIntegers := by
  intro x d
  simp only [ratAbs_eq_abs]
  exact ⟨abs_sub_roundInt_nearestEven_le_intCast x, roundInt_nearestEven_even_of_tie, roundInt_towardZero_spec x,
    roundInt_of_eq_floor _, roundInt_stoch_of_ne_floor d⟩

/-! ### The magnitude of a code (O54) -/

variable {f : FloatFmt}

/-- The value of a finite magnitude code (Table 5-5). -/
def FloatFmt.magValue (f : FloatFmt) (mag : Nat) : Rat :=
  let e := mag / 2 ^ f.fracBits
  let fr := mag % 2 ^ f.fracBits
  if e = 0 then (fr : Rat) * pow2 (1 - f.bias - f.fracBits)
  else ((2 ^ f.fracBits + fr : Nat) : Rat) * pow2 ((e : Int) - f.bias - f.fracBits)

/-- A number that is k steps of its grid encodes to what k is at that exponent: there is nothing to round. -/
theorem FloatFmt.magCode_of_grid (m : Rounding) (neg : Bool) {k : Nat} {e : Int} (hk : k ≠ 0)
    (he : max (floorLog2 (k * 2 ^ (e - f.fracBits))) (1 - f.bias) = e) :
    f.magCode m neg (k * 2 ^ (e - f.fracBits)) = ((e + f.bias - 1) * (2 ^ f.fracBits : Nat) + k).toNat := by
  have hstep : (2 : Rat) ^ (e - f.fracBits) ≠ 0 := by positivity
  have hround : (if neg then -(roundInt m (-(k : Rat))) else roundInt m (k : Rat)) = (k : Int) := by
    have hpos : roundInt m ((k : Int) : Rat) = k := roundInt_intCast m k
    have hneg : roundInt m ((-(k : Int) : Int) : Rat) = -k := roundInt_intCast m (-k)
    push_cast at hpos hneg
    rw [hpos, hneg, neg_neg, ite_self]
  rw [FloatFmt.magCode, if_neg (mul_ne_zero (by exact_mod_cast hk) hstep)]
  simp only [pow2_eq_zpow, he, mul_div_cancel_right₀ _ hstep, hround]

/-- A subnormal code, whose exponent is the least there is. -/
theorem FloatFmt.magCode_subnormal (m : Rounding) (neg : Bool) {k : Nat} (hk : k ≠ 0) (hlt : k < 2 ^ f.fracBits) :
    f.magCode m neg (k * 2 ^ (1 - f.bias - f.fracBits)) = k := by
  have hbound : (k : Rat) * 2 ^ (1 - f.bias - f.fracBits) < 2 ^ (1 - f.bias) := by
    rw [zpow_sub₀ two_ne_zero, mul_div_assoc', div_lt_iff₀ (by positivity), mul_comm]
    refine mul_lt_mul_of_pos_left ?_ (by positivity)
    rw [zpow_natCast]
    exact_mod_cast hlt
  have hlog := floorLog2_lt (by positivity) hbound
  rw [FloatFmt.magCode_of_grid m neg hk (max_eq_right hlog.le)]
  simp

/-- A normal code, whose significand lies between 2^F and 2^(F+1). -/
theorem FloatFmt.magCode_normal (m : Rounding) (neg : Bool) {k e : Nat} (he : e ≠ 0) (hlow : 2 ^ f.fracBits ≤ k)
    (hhigh : k < 2 ^ (f.fracBits + 1)) :
    f.magCode m neg (k * 2 ^ ((e : Int) - f.bias - f.fracBits)) = e * 2 ^ f.fracBits + (k - 2 ^ f.fracBits) := by
  have hlog : floorLog2 (k * 2 ^ ((e : Int) - f.bias - f.fracBits)) = e - f.bias := by
    have hlow' : (2 : Rat) ^ (f.fracBits : Int) ≤ k := by
      rw [zpow_natCast]
      exact_mod_cast hlow
    have hhigh' : (k : Rat) < 2 ^ ((f.fracBits : Int) + 1) := by
      rw [← Nat.cast_succ, zpow_natCast]
      exact_mod_cast hhigh
    refine floorLog2_eq ?_ ?_
    · rw [zpow_sub₀ two_ne_zero _ (f.fracBits : Int), mul_div_assoc', le_div_iff₀ (by positivity), mul_comm]
      exact mul_le_mul_of_nonneg_right hlow' (by positivity)
    · rw [zpow_sub₀ two_ne_zero _ (f.fracBits : Int), mul_div_assoc', div_lt_iff₀ (by positivity), ← zpow_add₀ two_ne_zero,
        show (e : Int) - f.bias + 1 + f.fracBits = (f.fracBits + 1) + (e - f.bias) by ring, zpow_add₀ two_ne_zero]
      exact mul_lt_mul_of_pos_right hhigh' (by positivity)
  have hpow : 2 ^ f.fracBits ≠ 0 := by positivity
  rw [FloatFmt.magCode_of_grid m neg (by omega) (by rw [hlog]; omega)]
  obtain ⟨j, rfl⟩ := Nat.exists_eq_add_of_le hlow
  obtain ⟨d, rfl⟩ := Nat.exists_eq_succ_of_ne_zero he
  rw [Nat.add_sub_cancel_left, show ((d.succ : Nat) : Int) - f.bias + f.bias - 1 = (d : Int) by push_cast; ring,
    ← Nat.cast_mul, ← Nat.cast_add, Int.toNat_natCast, Nat.succ_mul]
  ring

theorem FloatFmt.magCode_magValue (m : Rounding) (neg : Bool) (mag : Nat) : f.magCode m neg (f.magValue mag) = mag := by
  have hsplit := Nat.div_add_mod' mag (2 ^ f.fracBits)
  have hfr : mag % 2 ^ f.fracBits < 2 ^ f.fracBits := Nat.mod_lt _ (by positivity)
  unfold FloatFmt.magValue
  simp only [pow2_eq_zpow]
  split
  · next he =>
    rw [he, Nat.zero_mul, Nat.zero_add] at hsplit
    rw [hsplit] at hfr ⊢
    rcases eq_or_ne mag 0 with rfl | hne
    · simp [FloatFmt.magCode]
    · exact FloatFmt.magCode_subnormal m neg hne hfr
  · next he =>
    rw [FloatFmt.magCode_normal m neg he (Nat.le_add_right _ _) (by rw [pow_succ]; omega), Nat.add_sub_cancel_left, hsplit]

theorem FloatFmt.magValue_nonneg (f : FloatFmt) (mag : Nat) : 0 ≤ f.magValue mag := by
  unfold FloatFmt.magValue
  simp only [pow2_eq_zpow]
  split <;> positivity

theorem FloatFmt.eq_zero_of_magValue {mag : Nat} (h : f.magValue mag = 0) : mag = 0 := by
  rw [← FloatFmt.magCode_magValue (f := f) .nearestEven false mag, h, FloatFmt.magCode, if_pos rfl]

/-! ### Signs -/

/-- A code of its width is its sign bit and its magnitude. -/
theorem FloatFmt.sign_add_mag {code : Nat} (h : code < 2 * f.signBit) :
    (if decide (code / f.signBit % 2 = 1) then f.signBit else 0) + code % f.signBit = code := by
  have hpos : 0 < f.signBit := Nat.two_pow_pos _
  rcases Nat.lt_or_ge code f.signBit with hlt | hge
  · simp [Nat.div_eq_of_lt hlt, Nat.mod_eq_of_lt hlt]
  · have hdiv : code / f.signBit = 1 := Nat.div_eq_of_lt_le (by omega) (by omega)
    have hmod : code % f.signBit = code - f.signBit := by
      rw [Nat.mod_eq_sub_mod hge, Nat.mod_eq_of_lt (by omega)]
    simp [hdiv, hmod]
    omega

/-- The value of a sign and a magnitude, and what reads its sign and its magnitude back. -/
theorem isNeg_signed {a : Rat} (ha : 0 < a) (neg : Bool) :
    (Num.fin (if neg then -a else a) false).isNeg = neg ∧ ratAbs (if neg then -a else a) = a := by
  cases neg with
  | true => simp [Num.isNeg, ratAbs, ha, ha.ne']
  | false => simp [Num.isNeg, ratAbs, ha.ne', not_lt.mpr ha.le]

theorem FloatFmt.encodeWide_fin (m : Rounding) {q : Rat} {z neg : Bool} {mag : Nat} (hneg : (Num.fin q z).isNeg = neg)
    (habs : ratAbs q = f.magValue mag) (hmag : mag ≤ f.maxCode) :
    f.encodeWide m (.fin q z) = (if neg then f.signBit else 0) + mag := by
  simp only [FloatFmt.encodeWide, hneg, habs, FloatFmt.magCode_magValue, if_neg (Nat.not_lt.mpr hmag)]

/-- A code that is no NaN encodes back to itself, in every format. -/
theorem FloatFmt.encodeWide_of_decode (m : Rounding) {code : Nat} {v : Num} (hcode : code < 2 * f.signBit)
    (h : f.decode code = .ok v) : f.encodeWide m v = code := by
  rw [← FloatFmt.sign_add_mag hcode]
  unfold FloatFmt.decode at h
  extract_lets neg mag e fr val at h
  have hval : val = f.magValue mag := rfl
  have hnonneg := f.magValue_nonneg mag
  rw [← hval] at hnonneg
  split at h
  · split at h
    · next hinf =>
      simp only [Bool.and_eq_true, decide_eq_true_eq] at hinf
      obtain rfl := Except.ok.inj h
      exact congrArg (_ + ·) hinf.2.symm
    · cases h
  · next hmag =>
    have hle : mag ≤ f.maxCode := Nat.not_lt.mp hmag
    obtain rfl := Except.ok.inj h
    split
    · next hzero => exact FloatFmt.encodeWide_fin m rfl (by rw [← hval, hzero]; rfl) hle
    · next hzero =>
      obtain ⟨hsign, habs⟩ := isNeg_signed (lt_of_le_of_ne hnonneg (Ne.symm hzero)) neg
      exact FloatFmt.encodeWide_fin m hsign (habs.trans hval) hle

/-- Settles O54: a finite code's value lies on the grid of its own exponent, so nothing is rounded. -/
theorem numberCodesRoundTrip : Obligations.NumberCodesRoundTrip :=
  fun _ _ m _ _ hcode h => FloatFmt.encodeWide_of_decode m hcode h

end Sys2Proof.Machine
end

section
/-! O52: C256 and an error in one byte (R320). -/

namespace Sys2Proof.Machine

/-- A granule that no byte disturbs is read back clean. -/
theorem c256Decode_disturbed_of_weight_eq_zero (pol : Policy) {data err : List Byte} (hdata : data.length = 32)
    (herr : err.length = 36) (hw : weight err = 0) : c256Decode pol (disturbed data err) = .clean data := by
  have hsame : disturbed data err = data ++ c256Check data :=
    xorBytes_of_weight_eq_zero (herr.trans (length_append_c256Check hdata).symm) hw
  unfold c256Decode
  rw [hsame, if_pos ((c256Syns_eq_zero_iff _).mpr (isCodeword_append_c256Check data)), List.take_left' hdata]

/-- Settles O52: either policy reaches one byte. -/
theorem c256CorrectsOneByte : Obligations.C256CorrectsOneByte := by
  intro pol data err hdata herr
  refine ⟨c256Decode_disturbed_of_weight_eq_zero pol hdata herr, fun hw => ?_⟩
  exact c256Decode_disturbed_of_le_reach hdata herr (by omega) (hw.trans_le pol.one_le_reach)

end Sys2Proof.Machine
end

section
/-! Signals (R62, R91, R94): what a signal leaves, the order in which completed commands give theirs, and O50. -/

namespace Sys2Proof.Machine

variable {s t : State} {p : Fin 16} {n : Nat}

/-! ### What a signal leaves -/

/-- The state but for what signals write: the objects, and the waits that streams observe. -/
def offSignals (s : State) : State := { s with so := [], parts := Vector.replicate 16 Part.free }

theorem view_of_offSignals {α : Type} {f : State → α} (hf : ∀ s, f (offSignals s) = f s := by exact fun _ => rfl)
    (h : offSignals t = offSignals s) : f t = f s := by rw [← hf t, h, hf]

@[simp] theorem offSignals_applySignal (s : State) (n : Nat) (op : SigOp) (amount : Word) :
    offSignals (applySignal s n op amount) = offSignals s := by
  unfold applySignal
  dsimp only
  split <;> rfl

theorem offSignals_applyFlight (s : State) (f : Flight) : offSignals (applyFlight s f) = offSignals s := by
  unfold applyFlight
  split
  · exact offSignals_applySignal s _ _ _
  · rfl

theorem offSignals_foldl_applyFlight (fs : List Flight) (s : State) : offSignals (fs.foldl applyFlight s) = offSignals s :=
  foldl_view offSignals offSignals_applyFlight fs s

theorem steady_foldl_applyFlight (fs : List Flight) (s : State) : steady (fs.foldl applyFlight s) = steady s :=
  foldl_view steady steady_applyFlight fs s

/-- What signals make of the objects depends on the objects alone. -/
theorem applySignal_so_congr (h : t.so = s.so) (n : Nat) (op : SigOp) (amount : Word) :
    (applySignal t n op amount).so = (applySignal s n op amount).so := by
  rw [applySignal_so, applySignal_so, soGet, soGet, soSet, soSet, h]

theorem foldl_applyFlight_so_congr (fs : List Flight) (h : t.so = s.so) :
    (fs.foldl applyFlight t).so = (fs.foldl applyFlight s).so := by
  induction fs generalizing s t with
  | nil => exact h
  | cons f fs ih =>
    refine ih ?_
    unfold applyFlight
    split
    · exact applySignal_so_congr h _ _ _
    · exact h

/-! ### The waits that see a value (O50) -/

theorem observe_waitMet_of_waitMet {q : Stream} (h : q.waitMet = true) (n : Nat) (v : Word) : (observe q n v).waitMet = true := by
  unfold observe
  split
  · split
    · rfl
    · exact h
  · exact h

theorem observe_waitMet_of_holds {q : Stream} {g : Granule} {v : Word} (hhead : q.head = some g) (hwaits : waitsOn q n = true)
    (hcond : condHolds (cWaitCond g) v (cWaitValue g) = true) : (observe q n v).waitMet = true := by
  simp [observe, hhead, hwaits, hcond]

theorem stream_observePart {x : Part} (hfrozen : x.frozen = false) (n : Nat) (v : Word) (t : StreamTag) :
    (observePart x n v).stream t = observe (x.stream t) n v := by
  rw [observePart, hfrozen]
  cases t <;> rfl

theorem waitMet_observePart_of_waitMet {x : Part} {t : StreamTag} (h : (x.stream t).waitMet = true) (n : Nat) (v : Word) :
    ((observePart x n v).stream t).waitMet = true := by
  by_cases hfrozen : x.frozen = true
  · rwa [observePart, if_pos hfrozen]
  · rw [stream_observePart (Bool.eq_false_iff.mpr hfrozen)]
    exact observe_waitMet_of_waitMet h n v

/-- No signal takes back that a wait was seen to hold. -/
theorem waitMet_applySignal_of_waitMet {t : StreamTag} (h : (s.stream p t).waitMet = true) (n : Nat) (op : SigOp)
    (amount : Word) : ((applySignal s n op amount).stream p t).waitMet = true := by
  unfold applySignal
  dsimp only
  split
  · next r hr =>
    by_cases hpr : p = r
    · subst hpr
      rw [State.stream, State.part_modPart_same]
      exact waitMet_observePart_of_waitMet h n _
    · rw [State.stream, State.part_modPart_ne _ _ hpr]
      exact h
  · exact h

/-- A signal of an object of the partition shows its value to the head that waits for it. -/
theorem waitMet_applySignal_of_holds {t : StreamTag} {g : Granule} {op : SigOp} {amount : Word} (howner : soOwner s n = some p)
    (hfrozen : (s.part p).frozen = false) (hhead : (s.stream p t).head = some g) (hwaits : waitsOn (s.stream p t) n = true)
    (hcond : condHolds (cWaitCond g) ((soGet s n).apply op amount).value (cWaitValue g) = true) :
    ((applySignal s n op amount).stream p t).waitMet = true := by
  have hset : soOwner (soSet s n ((soGet s n).apply op amount)) n = some p := howner
  rw [applySignal, hset, State.stream, State.part_modPart_same]
  exact (congrArg Stream.waitMet (stream_observePart (x := s.part p) hfrozen n _ t)).trans
    (observe_waitMet_of_holds hhead hwaits hcond)

/-- Settles O50: the head sees the value as it is set, and what it saw stays seen. -/
theorem waitsObserveValues : Obligations.WaitsObserveValues := by
  intro s p t g n m op op' amount amount' howner hfrozen hhead hwaits hcond
  have hmet := waitMet_applySignal_of_holds howner hfrozen hhead hwaits hcond
  exact ⟨hmet, waitMet_applySignal_of_waitMet hmet m op' amount'⟩

/-! ### The signals that a completion gives -/

/-- Behind a signal that is still to come no signal is given. -/
theorem popFlights_true (fs : List Flight) : popFlights true fs = (fs.filter (fun q => !q.done || signals q), []) := by
  induction fs with
  | nil => rfl
  | cons f fs ih =>
    simp only [popFlights, Bool.true_or, if_true, ih]
    unfold signals
    rcases hd : f.done <;> rcases hs : ((sigOf f.word).isSome && !f.mute) <;> simp [hd, hs]

/-- What stays of the flights and what signals are given, of those that a completion finds. -/
structure Popped (fs stay given : List Flight) : Prop where
  sublist : given.Sublist fs
  sound : ∀ q ∈ given, q.done = true ∧ signals q = true
  ordered : ∀ (i j : Nat) (q e : Flight), fs[j]? = some q → q ∈ given → i < j → fs[i]? = some e → signals e = true → e ∈ given
  stay : stay = fs.filter (fun q => !q.done || (signals q && !given.contains q))

variable {f : Flight} {fs stay given : List Flight}

/-- A finished command without a signal leaves, and gives nothing. -/
theorem Popped.cons_silent (h : Popped fs stay given) (hd : f.done = true) (hf : signals f = false) :
    Popped (f :: fs) stay given := by
  obtain ⟨hsub, hsound, hord, hstay⟩ := h
  refine ⟨hsub.cons f, hsound, fun i j q e hj hq hij hi he => ?_, ?_⟩
  · obtain ⟨j, rfl⟩ := Nat.exists_eq_succ_of_ne_zero (by omega : j ≠ 0)
    cases i with
    | zero =>
      obtain rfl := Option.some.inj hi
      rw [hf] at he
      cases he
    | succ i => exact hord i j q e hj hq (by omega) hi he
  · rw [List.filter_cons_of_neg (by simp [hd, hf]), hstay]

/-- A command that goes on and carries no signal stays, and holds nothing back. -/
theorem Popped.cons_unfinished (h : Popped fs stay given) (hd : f.done = false) (hf : signals f = false) :
    Popped (f :: fs) (f :: stay) given := by
  obtain ⟨hsub, hsound, hord, hstay⟩ := h
  refine ⟨hsub.cons f, hsound, fun i j q e hj hq hij hi he => ?_, ?_⟩
  · obtain ⟨j, rfl⟩ := Nat.exists_eq_succ_of_ne_zero (by omega : j ≠ 0)
    cases i with
    | zero =>
      obtain rfl := Option.some.inj hi
      rw [hf] at he
      cases he
    | succ i => exact hord i j q e hj hq (by omega) hi he
  · rw [List.filter_cons_of_pos (by simp [hd]), hstay]

/-- A finished command with a signal and none before it gives the signal. -/
theorem Popped.cons_given (h : Popped fs stay given) (hnew : f ∉ fs) (hd : f.done = true) (hf : signals f = true) :
    Popped (f :: fs) stay (f :: given) := by
  obtain ⟨hsub, hsound, hord, hstay⟩ := h
  refine ⟨hsub.cons_cons f, ?_, fun i j q e hj hq hij hi he => ?_, ?_⟩
  · simpa [hd, hf] using hsound
  · obtain ⟨j, rfl⟩ := Nat.exists_eq_succ_of_ne_zero (by omega : j ≠ 0)
    have hqfs : q ∈ fs := List.mem_of_getElem? hj
    have hqgiven : q ∈ given := (List.mem_cons.mp hq).resolve_left fun heq => hnew (heq ▸ hqfs)
    cases i with
    | zero => exact List.mem_cons.mpr (.inl (Option.some.inj hi).symm)
    | succ i => exact List.mem_cons_of_mem f (hord i j q e hj hqgiven (by omega) hi he)
  · rw [List.filter_cons_of_neg (by simp [hd]), hstay]
    refine List.filter_congr fun q hq => ?_
    have hne : q ≠ f := fun heq => hnew (heq ▸ hq)
    simp [hne]

/-- Behind a command that still has its signal to give, none is given. -/
theorem popped_cons_blocking (hd : f.done = false) :
    Popped (f :: fs) (f :: fs.filter (fun q => !q.done || signals q)) [] := by
  refine ⟨List.nil_sublist _, by simp, by simp, ?_⟩
  rw [List.filter_cons_of_pos (by simp [hd])]
  simp

theorem popped_popFlights (hnodup : fs.Nodup) : Popped fs (popFlights false fs).1 (popFlights false fs).2 := by
  induction fs with
  | nil => exact ⟨List.Sublist.slnil, by simp [popFlights], by simp, rfl⟩
  | cons f fs ih =>
    obtain ⟨hnew, hrest⟩ := List.nodup_cons.mp hnodup
    have h := ih hrest
    by_cases hf : signals f = true <;> by_cases hd : f.done = true
    · have hpop : popFlights false (f :: fs) = ((popFlights false fs).1, f :: (popFlights false fs).2) := by
        rw [signals] at hf
        simp [popFlights, hf, hd]
      rw [hpop]
      exact h.cons_given hnew hd hf
    · have hpop : popFlights false (f :: fs) = (f :: fs.filter (fun q => !q.done || signals q), []) := by
        rw [signals] at hf
        simp [popFlights, hf, hd, popFlights_true]
      rw [hpop]
      exact popped_cons_blocking (Bool.eq_false_iff.mpr hd)
    · have hpop : popFlights false (f :: fs) = popFlights false fs := by
        rw [signals] at hf
        simp only [popFlights, Bool.eq_false_iff.mpr hf, hd, if_true, Bool.not_false]
      rw [hpop]
      exact h.cons_silent hd (Bool.eq_false_iff.mpr hf)
    · have hpop : popFlights false (f :: fs) = (f :: (popFlights false fs).1, (popFlights false fs).2) := by
        rw [signals] at hf
        simp only [popFlights, Bool.eq_false_iff.mpr hf, hd, Bool.or_false]
        simp
      rw [hpop]
      exact h.cons_unfinished (Bool.eq_false_iff.mpr hd) (Bool.eq_false_iff.mpr hf)

end Sys2Proof.Machine
end

section
/-! Completion (R57, R62): a partition where nothing waits is settled, what a completion makes of the flights and the
objects; O45 and O51. -/

namespace Sys2Proof.Machine

variable {s : State} {p : Fin 16} {t : StreamTag}

/-! ### Nothing to settle -/

theorem wait_of_flightOf {x : Part} {n : Nat} {f : Flight} (hx : Settled x) (h : flightOf x t n = some f) :
    f.wait ≠ .behind ∧ f.wait ≠ .ended :=
  hx.flights t f (List.mem_of_find?_eq_some h)

theorem settleFlight_of_settled (h : Settled (s.part p)) (n : Nat) : settleFlight p t s n = s := by
  unfold settleFlight
  split
  · next f hf =>
    obtain ⟨hbehind, hended⟩ := wait_of_flightOf h hf
    split <;> trivial
  · rfl

theorem settleStream_of_settled (h : Settled (s.part p)) (fuel : Nat) : settleStream p t fuel s = s := by
  have hfold : ∀ ns : List Nat, ns.foldl (settleFlight p t) s = s := by
    intro ns
    induction ns with
    | nil => rfl
    | cons n ns ih => rw [List.foldl_cons, settleFlight_of_settled h, ih]
  cases fuel with
  | zero => rfl
  | succ fuel =>
    rw [settleStream]
    simp only [hfold, if_true]

theorem settleOnce_of_settled (h : Settled (s.part p)) (hhalt : (s.part p).halted = false) : settleOnce p s = s := by
  simp only [settleOnce, List.foldl_cons, List.foldl_nil, settleStream_of_settled h, h.colls, endWaits, hhalt,
    Bool.false_eq_true, if_false]

/-- In a partition that runs on and where nothing waits, settling only lets draining banks go. -/
theorem settle_of_settled (h : Settled (s.part p)) (hhalt : (s.part p).halted = false) :
    settle p s = if goesOn (s.part p) then releaseBanks s p else s := by
  simp only [settle, settleOnce_of_settled h hhalt, hhalt, sweepColls, h.colls, List.filter_nil, List.foldl_nil,
    Bool.false_eq_true, if_false]

theorem settle_of_not_goesOn (h : goesOn (s.part p) = false) : settle p s = s := by
  rw [settle, if_neg (by simp [h])]

/-- The state but for the cores. -/
def offCores (s : State) : State := { s with cores := Vector.replicate 64 Core.reset }

theorem offCores_releaseBanks (s : State) (p : Fin 16) : offCores (releaseBanks s p) = offCores s :=
  foldl_view offCores (g := fun u nn => u.modCore (Fin.ofNat 64 nn) _) (fun _ _ => rfl) _ s

theorem core_modCore_draining (s : State) (f : Core → Core) (hf : ∀ x, f x = { x with draining := (f x).draining })
    (c k : Fin 64) : (s.modCore c f).core k = { s.core k with draining := ((s.modCore c f).core k).draining } := by
  by_cases hk : k = c
  · subst hk
    rw [State.core_modCore_same]
    exact hf _
  · rw [State.core_modCore_ne _ _ hk]

theorem core_releaseBanks (s : State) (p : Fin 16) (k : Fin 64) :
    (releaseBanks s p).core k = { s.core k with draining := ((releaseBanks s p).core k).draining } := by
  have hview := foldl_view (fun u : State => { u.core k with draining := none })
    (g := fun u nn => u.modCore (Fin.ofNat 64 nn) (fun x => match x.draining with
      | some (n, _) => if (((s.part p).sF.flight.filter (fun f => cOpcode f.word = 0x21 && !f.done)).map Flight.seq).any
          (fun k => decide (k < n)) then x else { x with draining := none }
      | none => x))
    (fun u nn => ?_) (partCores (s.part p)) s
  · exact congrArg (fun x : Core => { x with draining := ((releaseBanks s p).core k).draining }) hview
  · rw [core_modCore_draining]
    intro x
    split
    · split <;> rfl
    · rfl

/-- What settling leaves where nothing waits: everything but the banks that drain. -/
theorem offCores_settle (h : Settled (s.part p)) (hhalt : (s.part p).halted = false) : offCores (settle p s) = offCores s := by
  rw [settle_of_settled h hhalt, apply_ite offCores, offCores_releaseBanks, ite_self]

theorem core_settle (h : Settled (s.part p)) (hhalt : (s.part p).halted = false) (k : Fin 64) :
    (settle p s).core k = { s.core k with draining := ((settle p s).core k).draining } := by
  rw [settle_of_settled h hhalt]
  split
  · exact core_releaseBanks s p k
  · rfl

/-! ### Settled partitions -/

/-- Whether anything waits is read off the flights' waits and the COLLs. -/
theorem Settled.of_waits {x y : Part} (h : Settled x) (hcolls : y.colls = x.colls)
    (hflights : ∀ t, ∀ f ∈ (y.stream t).flight, ∃ e ∈ (x.stream t).flight, f.wait = e.wait) : Settled y := by
  refine ⟨fun t f hf => ?_, hcolls.trans h.colls⟩
  obtain ⟨e, he, hwait⟩ := hflights t f hf
  rw [hwait]
  exact h.flights t e he

theorem Settled.of_steady {x y : Part} (h : Settled x) (hsteady : y.steady = x.steady) : Settled y := by
  refine h.of_waits ?_ fun t f hf => ⟨f, ?_, rfl⟩
  · exact (congrArg (fun z : Part => z.colls) hsteady : y.steady.colls = x.steady.colls)
  · have hstream : ((y.steady.stream t).flight) = ((x.steady.stream t).flight) := by rw [hsteady]
    rw [Part.steady_stream, Part.steady_stream] at hstream
    exact hstream ▸ hf

/-! ### The completion of a flight -/

/-- The flights once the one numbered n is done. -/
def marked (fs : List Flight) (n : Nat) : List Flight := fs.map (fun f => if f.seq = n then { f with done := true } else f)

theorem find?_seq {fs : List Flight} {f : Flight} (hnodup : (fs.map Flight.seq).Nodup) (hf : f ∈ fs) :
    fs.find? (fun e => e.seq = f.seq) = some f := by
  induction fs with
  | nil => cases hf
  | cons g fs ih =>
    obtain ⟨hnew, hrest⟩ := List.nodup_cons.mp hnodup
    rcases List.mem_cons.mp hf with rfl | hmem
    · simp
    · have hne : g.seq ≠ f.seq := fun heq => hnew (heq ▸ List.mem_map_of_mem hmem)
      rw [List.find?_cons_of_neg (by simpa using hne), ih hrest hmem]

theorem nodup_marked {fs : List Flight} (h : (fs.map Flight.seq).Nodup) (n : Nat) : (marked fs n).Nodup := by
  have hseq : (marked fs n).map Flight.seq = fs.map Flight.seq := by
    rw [marked, List.map_map]
    refine List.map_congr_left fun f _ => ?_
    simp only [Function.comp_apply]
    split <;> rfl
  exact List.Nodup.of_map Flight.seq (hseq ▸ h)

/-- The flight is marked, its references end, and what is finished leaves; its signals are still to be given. -/
def completed (s : State) (p : Fin 16) (t : StreamTag) (f : Flight) : State :=
  (modRefs dropRef (s.modStream p t (fun q => { q with flight := marked q.flight f.seq })) p f.reads).modStream p t
    (fun q => { q with flight := (popFlights false (marked (s.stream p t).flight f.seq)).1 })

theorem stream_modStream_modRefs (s : State) (g : Stream → Stream) (f : PartMem → Nat → PartMem) (l : List Nat) :
    (modRefs f (s.modStream p t g) p l).stream p t = g (s.stream p t) := by
  have h : (modRefs f (s.modStream p t g) p l).stream p t = (s.modStream p t g).stream p t := by
    rw [State.stream, modRefs, State.part_modPart_same]
    cases t <;> rfl
  rw [h, State.stream_modStream_same]

theorem completeFlight_of_untraced {f : Flight} (hnodup : ((s.stream p t).flight.map Flight.seq).Nodup)
    (hf : f ∈ (s.stream p t).flight) (htrace : cTrace f.word = false) :
    completeFlight s p t f.seq =
      (popFlights false (marked (s.stream p t).flight f.seq)).2.foldl applyFlight (completed s p t f) := by
  unfold completeFlight
  simp only [find?_seq hnodup hf, htrace, Bool.false_eq_true, if_false]
  unfold settleSignals
  simp only [stream_modStream_modRefs]
  rfl

theorem flight_completed (s : State) (p : Fin 16) (t : StreamTag) (f : Flight) :
    ((completed s p t f).stream p t).flight = (popFlights false (marked (s.stream p t).flight f.seq)).1 := by
  rw [completed, State.stream_modStream_same]

/-- A completion touches nothing outside the partitions before its signals. -/
theorem offSignals_completed (s : State) (p : Fin 16) (t : StreamTag) (f : Flight) :
    ∃ parts, completed s p t f = { s with parts := parts } := ⟨_, rfl⟩

theorem part_completed (s : State) (p : Fin 16) (t : StreamTag) (f : Flight) : ∃ mem q, (completed s p t f).part p =
    { (s.part p).setStream t q with mem := mem } ∧ q.flight = (popFlights false (marked (s.stream p t).flight f.seq)).1 := by
  refine ⟨((completed s p t f).part p).mem, (completed s p t f).stream p t, ?_, flight_completed s p t f⟩
  unfold completed modRefs State.modStream State.setStream
  simp only [State.stream, State.part_modPart_same]
  cases t <;> rfl

theorem flight_of_steady {a b : State} (h : steady a = steady b) (p : Fin 16) (t : StreamTag) :
    (a.stream p t).flight = (b.stream p t).flight := by
  have hpart : ((a.part p).steady.stream t).flight = ((b.part p).steady.stream t).flight :=
    congrArg (fun x : Part => (x.stream t).flight) (congrFun h p)
  rwa [Part.steady_stream, Part.steady_stream] at hpart

/-! ### The row of a completion -/

theorem mem_marked {fs : List Flight} {n : Nat} {g : Flight} (h : g ∈ marked fs n) : ∃ e ∈ fs, g.wait = e.wait := by
  obtain ⟨e, he, rfl⟩ := List.mem_map.mp h
  refine ⟨e, he, ?_⟩
  split <;> rfl

theorem settled_completed {f : Flight} (h : Settled (s.part p)) (hnodup : ((s.stream p t).flight.map Flight.seq).Nodup) :
    Settled ((completed s p t f).part p) := by
  obtain ⟨mem, q, hpart, hq⟩ := part_completed s p t f
  rw [hpart]
  refine h.of_waits (by cases t <;> rfl) fun r g hg => ?_
  have hstream : ({ (s.part p).setStream t q with mem := mem } : Part).stream r = ((s.part p).setStream t q).stream r := by
    cases r <;> rfl
  rw [hstream] at hg
  by_cases hr : r = t
  · subst hr
    rw [Part.stream_setStream_same, hq, (popped_popFlights (nodup_marked hnodup f.seq)).stay] at hg
    exact mem_marked (List.mem_of_mem_filter hg)
  · rw [Part.stream_setStream_ne _ _ hr] at hg
    exact ⟨g, hg, rfl⟩

/-- The state in which a flight completes: a TBLLOAD's table is in the store. -/
theorem installTable_frame (s : State) (p : Fin 16) (f : Flight) : installTable s p f =
    { s with sramErrs := (installTable s p f).sramErrs, parts := (installTable s p f).parts } := by
  unfold installTable
  split <;> rfl

theorem part_installTable (s : State) (p : Fin 16) (f : Flight) : ∃ tables,
    (installTable s p f).part p = { s.part p with tables := tables } := by
  unfold installTable
  split
  · rw [State.part_modPart_same]
    exact ⟨_, rfl⟩
  · exact ⟨_, rfl⟩

/-- What a completion leaves, before the partition settles: the flight is done, and the signals that come are given. -/
def afterCompletion (s : State) (p : Fin 16) (t : StreamTag) (f : Flight) : State :=
  (popFlights false (marked (s.stream p t).flight f.seq)).2.foldl applyFlight (completed (installTable s p f) p t f)

theorem steady_afterCompletion (s : State) (p : Fin 16) (t : StreamTag) (f : Flight) :
    steady (afterCompletion s p t f) = steady (completed (installTable s p f) p t f) := steady_foldl_applyFlight _ _

theorem stream_installTable (s : State) (p : Fin 16) (t : StreamTag) (f : Flight) :
    (installTable s p f).stream p t = s.stream p t := by
  obtain ⟨tables, h⟩ := part_installTable s p f
  rw [State.stream, h]
  cases t <;> rfl

theorem settled_afterCompletion {f : Flight} (h : Settled (s.part p)) (hnodup : ((s.stream p t).flight.map Flight.seq).Nodup) :
    Settled ((afterCompletion s p t f).part p) := by
  obtain ⟨tables, hpart⟩ := part_installTable s p f
  have hinstalled : Settled ((installTable s p f).part p) := by
    rw [hpart]
    exact h.of_waits rfl fun r g hg => ⟨g, by cases r <;> exact hg, rfl⟩
  refine (settled_completed (t := t) (f := f) hinstalled ?_).of_steady (congrFun (steady_afterCompletion s p t f) p)
  rwa [stream_installTable]

theorem halted_afterCompletion {f : Flight} (hhalt : (s.part p).halted = false) :
    ((afterCompletion s p t f).part p).halted = false := by
  have hsteady : ((afterCompletion s p t f).part p).steady.halted = ((completed (installTable s p f) p t f).part p).steady.halted :=
    congrArg (fun x : Part => x.halted) (congrFun (steady_afterCompletion s p t f) p)
  obtain ⟨mem, q, hcomp, -⟩ := part_completed (installTable s p f) p t f
  obtain ⟨tables, hpart⟩ := part_installTable s p f
  have hkept : ∀ x : Part, (x.setStream t q).halted = x.halted := by intro x; cases t <;> rfl
  exact hsteady.trans (by rw [hcomp, hpart]; exact (hkept _).trans hhalt)

/-- A command that may complete, is no UPD and is not traced completes, and its partition settles. -/
theorem exec_commandComplete {k : Nat} {f : Flight} (hk : (s.stream p t).flight[k]? = some f)
    (hcan : canComplete (s.part p) f = true) (hwait : ∀ entry events, f.wait ≠ .update entry events)
    (htrace : cTrace f.word = false) (hnodup : ((s.stream p t).flight.map Flight.seq).Nodup) :
    exec (.commandComplete p t k) s = .next (settle p (afterCompletion s p t f)) := by
  have hfinish : finishUpd (installTable s p f) p t f = completeFlight (installTable s p f) p t f.seq := by
    unfold finishUpd
    split
    · next entry events h => exact absurd h (hwait entry events)
    · rfl
  change execCommandComplete p t k s = _
  unfold execCommandComplete
  simp only [hk, hcan, if_true, hfinish]
  rw [completeFlight_of_untraced _ _ htrace, stream_installTable]
  · rfl
  · rwa [stream_installTable]
  · rw [stream_installTable]
    exact List.mem_of_getElem? hk

/-- What a completion leaves once its partition has settled. -/
structure Completion (s v : State) (p : Fin 16) (t : StreamTag) (f : Flight) : Prop where
  so : v.so = ((popFlights false (marked (s.stream p t).flight f.seq)).2.foldl applyFlight s).so
  flight : (v.stream p t).flight = (popFlights false (marked (s.stream p t).flight f.seq)).1
  frame : v.mem = s.mem ∧ v.regs = s.regs ∧ v.store = s.store
  cores : ∀ k, v.core k = { s.core k with draining := (v.core k).draining }

theorem completion_settle {f : Flight} (h : Settled (s.part p)) (hhalt : (s.part p).halted = false)
    (hnodup : ((s.stream p t).flight.map Flight.seq).Nodup) : Completion s (settle p (afterCompletion s p t f)) p t f := by
  have hsettled := settled_afterCompletion (f := f) h hnodup
  have hrun := halted_afterCompletion (t := t) (f := f) hhalt
  have hcores := offCores_settle hsettled hrun
  have hsignals : offSignals (afterCompletion s p t f) = offSignals (completed (installTable s p f) p t f) :=
    offSignals_foldl_applyFlight _ _
  have hview : ∀ {α : Type} (g : State → α), (∀ u, g (offCores u) = g u) →
      g (settle p (afterCompletion s p t f)) = g (afterCompletion s p t f) := fun g hg => by rw [← hg, hcores, hg]
  have hinst := installTable_frame s p f
  have hframe : ∀ {α : Type} (g : State → α), (∀ u, g (offCores u) = g u) → (∀ u, g (offSignals u) = g u) →
      (∀ u e parts, g { u with sramErrs := e, parts := parts } = g u) →
      g (settle p (afterCompletion s p t f)) = g s := fun g hc ho hi => by
    rw [hview g hc, view_of_offSignals ho hsignals]
    exact (hi (installTable s p f) _ _).trans (by rw [hinst]; exact hi _ _ _)
  refine ⟨?_, ?_, ⟨hframe State.mem (fun _ => rfl) (fun _ => rfl) fun _ _ _ => rfl,
    hframe State.regs (fun _ => rfl) (fun _ => rfl) fun _ _ _ => rfl,
    hframe State.store (fun _ => rfl) (fun _ => rfl) fun _ _ _ => rfl⟩, fun k => ?_⟩
  · rw [hview State.so fun _ => rfl]
    refine foldl_applyFlight_so_congr _ ?_
    exact (rfl : _ = (installTable s p f).so).trans (by rw [hinst])
  · rw [hview (fun u => (u.stream p t).flight) fun _ => rfl, flight_of_steady (steady_afterCompletion s p t f),
      flight_completed, stream_installTable]
  · have hkept : (afterCompletion s p t f).core k = s.core k := by
      rw [view_of_offSignals (f := fun u => u.core k) (hf := fun _ => rfl) hsignals]
      exact (rfl : _ = (installTable s p f).core k).trans (by rw [hinst]; rfl)
    rw [← hkept]
    exact core_settle hsettled hrun k

/-- Settles O51: of the flights that the completion finds, the signals are given in issue order, up to the first command
that has still to give one. -/
theorem signalsInIssueOrder : Obligations.SignalsInIssueOrder := by
  rintro s p t k f _ hsettled hhalt hk hcan hwait htrace rfl hnodup
  obtain ⟨hso, hflight, -, -⟩ := completion_settle (f := f) hsettled hhalt hnodup
  obtain ⟨hsub, hsound, hord, hstay⟩ := popped_popFlights (nodup_marked hnodup f.seq)
  exact ⟨_, exec_commandComplete hk hcan hwait htrace hnodup, _, hsub, hsound, hso, hord, hflight.trans hstay⟩

/-! ### O45 -/

theorem canComplete_done {x : Part} {f : Flight} (h : canComplete x f = true) : f.done = false := by
  simp only [canComplete, Bool.and_eq_true, Bool.not_eq_true'] at h
  exact h.1.2

theorem popFlights_single {f : Flight} (hd : f.done = true) (hs : signals f = true) : popFlights false [f] = ([], [f]) := by
  rw [signals] at hs
  simp [popFlights, hd, hs]

/-- A finished command behind one that has still to signal keeps its own signal back. -/
theorem popFlights_behind {h f : Flight} (hh : h.done = false) (hsig : signals h = true) (hf : signals f = true) :
    popFlights false [h, f] = ([h, f], []) := by
  rw [signals] at hsig hf
  simp [popFlights, hh, hsig, hf]

/-- Settles O45: alone in its stream a command gives its signal as it completes; behind one that has still to give its own,
the signal waits. -/
theorem completionAndSignals : Obligations.CompletionAndSignals := by
  intro s p t f h op hs hsettled hhalt hcan hwait hmute hop htrace
  have hupd : ∀ entry events, f.wait ≠ .update entry events := by simp [hwait]
  have hsig : signals f = true := by simp [signals, hop, hmute]
  refine ⟨fun hone => ?_, fun htwo hd hm hsome hne => ?_⟩
  · have hnodup : ((s.stream p t).flight.map Flight.seq).Nodup := by simp [hone]
    have hmarked : marked (s.stream p t).flight f.seq = [{ f with done := true }] := by simp [marked, hone]
    obtain ⟨hso, hflight, ⟨hmem, hregs, hstore⟩, hcores⟩ := completion_settle (f := f) hsettled hhalt hnodup
    have hpop : popFlights false [{ f with done := true }] = ([], [{ f with done := true }]) := popFlights_single rfl hsig
    have happly : ∀ u : State, applyFlight u { f with done := true } = applySignal u (cSigSo f.word) op (cSigAmount f.word) := by
      intro u
      simp only [applyFlight, hop]
    simp only [hmarked, hpop, List.foldl_cons, List.foldl_nil, happly] at hso hflight
    refine ⟨_, exec_commandComplete (by simp [hone]) hcan hupd htrace hnodup, hflight, ?_, fun i hi => ?_, hmem, hregs, hstore,
      hcores⟩
    · rw [soGet, hso]
      exact soGet_applySignal_same hs _ _ _
    · rw [soGet, hso]
      exact soGet_applySignal_ne hs _ _ hi
  · have hnodup : ((s.stream p t).flight.map Flight.seq).Nodup := by simp [htwo, hne]
    have hmarked : marked (s.stream p t).flight f.seq = [h, { f with done := true }] := by simp [marked, htwo, hne]
    obtain ⟨hso, hflight, -, -⟩ := completion_settle (f := f) hsettled hhalt hnodup
    have hpop : popFlights false [h, { f with done := true }] = ([h, { f with done := true }], []) :=
      popFlights_behind hd (by simp [signals, hsome, hm]) hsig
    simp only [hmarked, hpop, List.foldl_nil] at hso hflight
    exact ⟨_, exec_commandComplete (by simp [htwo]) hcan hupd htrace hnodup, hso, hflight⟩

end Sys2Proof.Machine
end

section
/-! What work on the shelves leaves (R321, R326, R476): reads write books alone (registers and counts of the memory
controllers, proof-run requests, disturbances of links, wakes), writes also the memory; traces also write counts of the
sequencers. The registers and counts that a reader keeps in view are told by a predicate on their addresses. -/

namespace Sys2Proof.Machine

variable {g : Nat → Bool} {s t : State}

/-! ### Registers and counts in view -/

theorem Sparse.filter_set {α : Type} [DecidableEq α] {d : α} {k : Nat} (hk : g k = false) (m : Sparse α) (v : α) :
    (Sparse.set d m k v).filter (fun e => g e.1) = m.filter (fun e => g e.1) := by
  induction m with
  | nil =>
    rw [Sparse.set]
    split
    · rfl
    · simp [hk]
  | cons e m ih =>
    obtain ⟨j, w⟩ := e
    rw [Sparse.set]
    split
    · split
      · rfl
      · simp [hk]
    · split
      · next heq =>
        subst heq
        split <;> simp [hk]
      · rw [List.filter_cons, List.filter_cons, ih]

/-- The state but for what reads of the shelves write, and for the registers and counts out of view. -/
def offReads (g : Nat → Bool) (s : State) : State :=
  { s with regs := s.regs.filter (fun e => g e.1), counts := s.counts.filter (fun e => g e.1), lineErrs := [], proofs := [],
           doms := [], rises := [], freeCount := 0, sramErrs := [], parts := Vector.replicate 16 Part.free }

/-- The state but for what reads and writes of the shelves write, and for the registers and counts out of view. -/
def offWrites (g : Nat → Bool) (s : State) : State := { offReads g s with mem := [], errs := [] }

theorem offWrites_of_offReads (h : offReads g t = offReads g s) : offWrites g t = offWrites g s :=
  congrArg (fun u : State => { u with mem := [], errs := [] }) h

theorem view_of_offReads {α : Type} {f : State → α} (hf : ∀ s, f (offReads g s) = f s := by exact fun _ => rfl)
    (h : offReads g t = offReads g s) : f t = f s := by rw [← hf t, h, hf]

theorem view_of_offWrites {α : Type} {f : State → α} (hf : ∀ s, f (offWrites g s) = f s := by exact fun _ => rfl)
    (h : offWrites g t = offWrites g s) : f t = f s := by rw [← hf t, h, hf]

theorem rawReg_of_offWrites (hs : s.Canonical) (ht : t.Canonical) (h : offWrites g t = offWrites g s) {a : Nat}
    (ha : g a = true) : rawReg t a = rawReg s a := by
  have hregs : t.regs.filter (fun e => g e.1) = s.regs.filter (fun e => g e.1) := congrArg State.regs h
  have hget := fun {u : State} (hu : u.Canonical) => Sparse.get_filter_by (d := resetWord a) (f := resetWord) g hu.regs a
  simp only [ha, if_true] at hget
  rw [rawReg, rawReg, ← hget ht, ← hget hs, hregs]

theorem count_of_offWrites (hs : s.Canonical) (ht : t.Canonical) (h : offWrites g t = offWrites g s) {a : Nat}
    (ha : g a = true) : count t a = count s a := by
  have hcounts : t.counts.filter (fun e => g e.1) = s.counts.filter (fun e => g e.1) := congrArg State.counts h
  have hget := fun {u : State} (hu : u.Canonical) => Sparse.get_filter_by (d := 0) (f := fun _ => 0) g hu.counts a
  simp only [ha, if_true] at hget
  rw [count, count, ← hget ht, ← hget hs, hcounts]

/-! ### Registers and counts -/

theorem offReads_setRaw {a : Nat} (ha : g a = false) (s : State) (w : Word) : offReads g (setRaw s a w) = offReads g s :=
  congrArg (fun r : Sparse Word => { offReads g s with regs := r }) (Sparse.filter_set ha s.regs w)

theorem offReads_postBit {a : Nat} (ha : g a = false) (s : State) (i : Nat) : offReads g (postBit s a i) = offReads g s :=
  offReads_setRaw ha s _

theorem offReads_counts {lo : Nat} (hlo : g lo = false) (s : State) (v : Nat) :
    offReads g { s with counts := Sparse.set 0 s.counts lo v } = offReads g s :=
  congrArg (fun r : Sparse Nat => { offReads g s with counts := r }) (Sparse.filter_set hlo s.counts v)

theorem offReads_bump {lo : Nat} {ovf : Option (Nat × Nat)} (hlo : g lo = false) (hovf : ∀ o ∈ ovf, g o.1 = false)
    (s : State) (n : Nat) : offReads g (bump s lo ovf n) = offReads g s := by
  have hcounts := offReads_counts hlo s ((count s lo + n) % wrap48)
  cases ovf with
  | none => exact hcounts
  | some o =>
    obtain ⟨a, i⟩ := o
    unfold bump
    dsimp only
    split
    · refine Eq.trans ?_ hcounts
      exact offReads_postBit (hovf _ rfl) { s with counts := Sparse.set 0 s.counts lo ((count s lo + n) % wrap48) } i
    · exact hcounts

/-! ### Books of the memory controllers -/

theorem offReads_requestProof (s : State) (kind index : Nat) : offReads g (requestProof s kind index) = offReads g s := by
  unfold requestProof
  split
  · rfl
  · split <;> rfl

theorem offReads_countPage (s : State) (p : Fin 16) (a : Nat) : offReads g (countPage s p a) = offReads g s := by
  unfold countPage
  split <;> rfl

theorem offReads_proveLines (s : State) (ks : List Nat) : offReads g (proveLines s ks) = offReads g s :=
  foldl_view (offReads g) (fun s _ => offReads_requestProof s _ _) ks s

theorem Op.Leaves.offWrites {β : Type} {m : Op β} (h : Op.Leaves (offReads g) m) : Op.Leaves (Machine.offWrites g) m :=
  fun s => offWrites_of_offReads (h s)

theorem crossLinks_leaves_offReads (keys : List Nat) (place dev : Nat) (data : List Byte) :
    Op.Leaves (offReads g) (crossLinks keys place dev data) := by
  refine .bind .get (fun s => .ite (.pure _) (.bind (.mod fun _ => rfl) (fun _ => ?_)))
  have hprove : ∀ ks, Op.Leaves (offReads g) (Op.mod fun s => proveLines s ks) := fun ks =>
    .mod fun s => offReads_proveLines s ks
  split
  · exact .pure _
  · exact .bind (hprove _) (fun _ => .pure _)
  · exact .bind (hprove _) (fun _ => .stop _)

theorem crossIn_leaves_offReads (side : Side) (die dev : Nat) (data : List Byte) :
    Op.Leaves (offReads g) (crossIn side die dev data) := by
  have hlinks := crossLinks_leaves_offReads (g := g)
  cases side with
  | core nn => exact .bind (hlinks _ _ _ _) (fun _ => hlinks _ _ _ _)
  | compute => exact hlinks _ _ _ _
  | io e => exact .ite (.pure _) (.bind (hlinks _ _ _ _) (fun _ => hlinks _ _ _ _))

theorem crossOut_leaves_offReads (side : Side) (die dev : Nat) (data : List Byte) :
    Op.Leaves (offReads g) (crossOut side die dev data) := by
  have hlinks := crossLinks_leaves_offReads (g := g)
  cases side with
  | core nn => exact .bind (hlinks _ _ _ _) (fun _ => hlinks _ _ _ _)
  | compute => exact hlinks _ _ _ _
  | io e => exact .ite (.pure _) (.bind (hlinks _ _ _ _) (fun _ => hlinks _ _ _ _))

/-- The addresses that work on the shelves may write are out of view: the memory controllers', and the count of wakes. -/
structure HidesShelves (g : Nat → Bool) : Prop where
  controllers : ∀ a, 0x90000000 ≤ a → a < 0xB0000000 → g a = false
  wakes : g 0xE0000030 = false

theorem hidesShelves_nothing : HidesShelves (fun _ => false) := ⟨fun _ _ _ => rfl, rfl⟩

theorem groupOf_lt (a : Nat) : groupOf a < 4 := by
  have hxor : ∀ x y : Nat, x < 4 → y < 4 → Nat.xor x y < 4 := fun x y hx hy => Nat.xor_lt_two_pow (n := 2) hx hy
  exact hxor _ _ (hxor _ _ (by omega) (by omega)) (hxor _ _ (by omega) (by omega))

theorem channelOf_lt (a : Nat) : channelOf a < 35 := by
  have := groupOf_lt a
  unfold channelOf
  omega

theorem lowerPort_lt (id : Nat) : lowerPort id < 4 := by
  unfold lowerPort
  omega

section
variable (hg : HidesShelves g)
include hg

theorem offReads_controllerBump {lo a : Nat} (hlo : 0x90000000 ≤ lo) (hlo' : lo < 0xB0000000) (ha : 0x90000000 ≤ a)
    (ha' : a < 0xB0000000) (s : State) (i n : Nat) : offReads g (bump s lo (some (a, i)) n) = offReads g s := by
  refine offReads_bump (hg.controllers lo hlo hlo') (fun o ho => ?_) s n
  obtain rfl := Option.some.inj ho
  exact hg.controllers a ha ha'

theorem offReads_demandOne (s : State) (d : Nat) : offReads g (demandOne s d).1 = offReads g s := by
  have hbump : ∀ x, offReads g (domSet (bump s 0xE0000030 none 1) d x) = offReads g s := fun _ =>
    (rfl : _ = offReads g (bump s 0xE0000030 none 1)).trans (offReads_bump hg.wakes (by simp) s 1)
  unfold demandOne
  dsimp only
  split
  · rfl
  · split
    · rfl
    · split
      · exact hbump _
      · rfl
      · rfl

theorem offReads_demandAll (s : State) (ds : List Nat) : offReads g (demandAll s ds) = offReads g s := by
  have hfold := foldl_view (fun acc : State × List Nat => offReads g acc.1)
    (g := fun acc d => ((demandOne acc.1 d).1, if (demandOne acc.1 d).2 then acc.2 ++ [d] else acc.2))
    (fun acc d => offReads_demandOne hg acc.1 d) ds (s, [])
  unfold demandAll
  dsimp only
  split <;> exact hfold

theorem offReads_demandWake (s : State) (d : Nat) : offReads g (demandWake s d) = offReads g s := offReads_demandAll hg s _

theorem offReads_noteCorrected (s : State) (id ofs : Nat) : offReads g (noteCorrected s id ofs) = offReads g s := by
  have hc := channelOf_lt (id * frameBytes + ofs)
  unfold noteCorrected
  split
  · exact offReads_requestProof s _ _
  · dsimp only
    rw [offReads_requestProof, offReads_postBit (hg.controllers _ (by decide) (by decide)),
      offReads_controllerBump hg (by omega) (by omega) (by omega) (by omega)]

theorem offReads_noteUncorrectable (s : State) (id ofs : Nat) : offReads g (noteUncorrectable s id ofs) = offReads g s := by
  have hc := channelOf_lt (id * frameBytes + ofs)
  have hx := lowerPort_lt id
  unfold noteUncorrectable
  split <;>
  · dsimp only
    rw [offReads_requestProof, offReads_postBit (hg.controllers _ (by decide) (by decide)),
      offReads_controllerBump hg (by omega) (by omega) (by omega) (by omega)]

theorem offReads_notePort (s : State) (id ofs : Nat) (poison : Bool) : offReads g (notePort s id ofs poison) = offReads g s := by
  have hx := lowerPort_lt id
  unfold notePort
  dsimp only
  split
  · rw [offReads_requestProof, offReads_postBit (hg.controllers _ (by decide) (by decide)),
      offReads_controllerBump hg (by omega) (by omega) (by omega) (by omega)]
  · exact offReads_noteUncorrectable hg s id ofs

theorem offReads_countAccess (s : State) (id ofs : Nat) (write whole : Bool) (n : Nat) :
    offReads g (countAccess s id ofs write whole n) = offReads g s := by
  have hx := lowerPort_lt id
  have hgroup := groupOf_lt (id * frameBytes + ofs)
  have hwake : ∀ d, offReads g (if domOn s d then s else demandWake s d) = offReads g s := fun d => by
    rw [apply_ite (offReads g), offReads_demandWake hg, ite_self]
  unfold countAccess
  dsimp only
  split
  · split <;> rw [offReads_controllerBump hg (by omega) (by omega) (by omega) (by omega), hwake]
  · split
    · split <;> rw [offReads_controllerBump hg (by omega) (by omega) (by omega) (by omega), hwake]
    · rw [offReads_controllerBump hg (by omega) (by omega) (by omega) (by omega), hwake]

/-! ### Reads -/

theorem burstMask_leaves_offReads (id ofs : Nat) : Op.Leaves (offReads g) (burstMask id ofs) := by
  refine .bind .get (fun s => .ite (.pure _) (.bind (.mod fun u => ?_) (fun _ => .ite (.pure _)
    (.bind (.mod fun u => offReads_requestProof u _ _) (fun _ => .pure _)))))
  have hc := channelOf_lt (id * frameBytes + ofs)
  rw [offReads_controllerBump hg (by omega) (by omega) (by omega) (by omega)]
  rfl

theorem readGranule_leaves_offReads (id ofs dev : Nat) : Op.Leaves (offReads g) (readGranule id ofs dev) := by
  refine .bind .get (fun s => .ite (.bind (.mod fun u => offReads_notePort hg u _ _ _) (fun _ => .stop _))
    (.ite (.stop _) (.bind (burstMask_leaves_offReads hg _ _) (fun burst => ?_))))
  split
  · exact .pure _
  · exact .bind (.mod fun u => offReads_noteCorrected hg u _ _) (fun _ => .pure _)
  · exact .bind (.mod fun u => offReads_noteUncorrectable hg u _ _) (fun _ => .stop _)

theorem readStripe_leaves_offReads (side : Side) (p : Fin 16) (a n : Nat) :
    Op.Leaves (offReads g) (readStripe side p a n) := by
  refine .bind .get (fun s => ?_)
  split
  · exact .stop _
  · exact .pure _
  · refine .bind (.mod fun u => (offReads_countPage _ _ _).trans (offReads_countAccess hg u _ _ _ _ _)) (fun _ => ?_)
    refine .bind (.map fun b => ?_) (fun _ => .pure _)
    exact .bind (readGranule_leaves_offReads hg _ _ _) (fun _ =>
      .bind (.ite (.pure _) (crossIn_leaves_offReads _ _ _ _)) (fun _ => .pure _))

theorem readMem_leaves_offReads (side : Side) (p : Fin 16) (a n : Nat) : Op.Leaves (offReads g) (readMem side p a n) :=
  .bind (.map fun _ => readStripe_leaves_offReads hg _ _ _ _) (fun _ => .pure _)

/-! ### Writes -/

theorem openPage_leaves_offWrites (p : Fin 16) (a : Nat) : Op.Leaves (offWrites g) (openPage p a) := by
  refine .bind (.mod fun _ => rfl) (fun _ => .bind .get (fun s => ?_))
  dsimp only
  split
  · exact .mod fun _ => rfl
  · split
    · refine .mod fun u => ?_
      exact (rfl : _ = offWrites g (postBit u 0xA0000004 0)).trans
        (offWrites_of_offReads (offReads_postBit (hg.controllers _ (by decide) (by decide)) u 0))
    · exact .stop _

theorem writeStripe_leaves_offWrites (side : Side) (p : Fin 16) (a : Nat) (bytes : List Byte) :
    Op.Leaves (offWrites g) (writeStripe side p a bytes) := by
  unfold writeStripe
  refine .bind .get (fun s => ?_)
  extract_lets rest
  have hrest : ∀ r, Op.Leaves (offWrites g) (rest r) := by
    intro r
    refine .bind .get (fun s => ?_)
    split
    · refine .bind (.map fun b => ?_) (fun merged => .mod fun s => ?_)
      · refine .bind (.ite (.pure _) (Op.Leaves.offWrites (crossOut_leaves_offReads _ _ _ _))) (fun sent => .ite ?_ ?_)
        · exact .ite (.bind (.mod fun s => offWrites_of_offReads (offReads_noteUncorrectable hg s _ _)) (fun _ => .stop _))
            (.ite (.stop _) (.pure _))
        · exact .bind (Op.Leaves.offWrites (readGranule_leaves_offReads hg _ _ _)) (fun _ => .pure _)
      · rw [offWrites_of_offReads (offReads_countPage _ _ _), offWrites_of_offReads (offReads_countAccess hg _ _ _ _ _ _)]
        rfl
    · exact .pure _
  split
  · exact .bind (.stop _) hrest
  · exact .bind (openPage_leaves_offWrites hg p a) hrest
  · exact hrest ()

theorem writeMem_leaves_offWrites (side : Side) (p : Fin 16) (a : Nat) (bytes : List Byte) :
    Op.Leaves (offWrites g) (writeMem side p a bytes) := .each fun _ => writeStripe_leaves_offWrites hg _ _ _ _

end

/-! ### Traces -/

/-- The addresses that traces may write are out of view: those of the shelves, and the trace counts. -/
structure HidesTraces (g : Nat → Bool) : Prop extends HidesShelves g where
  traces : ∀ a, 0x70100000 ≤ a → a < 0x70110000 → g a = false

theorem hidesTraces_nothing : HidesTraces (fun _ => false) := ⟨hidesShelves_nothing, fun _ _ _ => rfl⟩

section
variable (hg : HidesTraces g)
include hg

theorem offWrites_sqBump (s : State) (p : Fin 16) {ofs : Nat} (hofs : ofs < 0x1000) (n : Nat) :
    offWrites g (bump s (sqReg p ofs) none n) = offWrites g s := by
  have hp := p.isLt
  refine offWrites_of_offReads (offReads_bump (hg.traces _ ?_ ?_) (by simp) s n) <;>
  · unfold sqReg
    omega

theorem offWrites_drainOne (p : Fin 16) (s : State) (r : TraceRec) : offWrites g (drainOne p s r) = offWrites g s := by
  have h : ∀ a bs n, offWrites g (Op.after (writeMem .compute p a bs) (s.modPart p (fun x => { x with drained := n }))) =
      offWrites g s := fun a bs n => writeMem_leaves_offWrites hg.toHidesShelves _ p a bs _
  exact h _ _ _

theorem offWrites_drainOn (p : Fin 16) (s : State) : offWrites g (drainOn p s) = offWrites g s := by
  have h : ∀ l : List TraceRec, ∀ u : State, offWrites g (l.foldl (drainOne p) u) = offWrites g u :=
    foldl_view (offWrites g) (offWrites_drainOne hg p)
  unfold drainOn
  dsimp only
  split
  · rw [offWrites_drainOne hg]
    exact h _ _
  · rw [h]
    rfl

theorem offWrites_queueRecord (p : Fin 16) (s : State) (r : TraceRec) : offWrites g (queueRecord p s r) = offWrites g s := by
  unfold queueRecord
  dsimp only
  split
  · rfl
  · rw [offWrites_sqBump hg _ p (by decide)]
    rfl

theorem offWrites_putTrace (s : State) (p : Fin 16) (r : TraceRec) : offWrites g (putTrace s p r) = offWrites g s := by
  have h : ∀ l : TraceRec, offWrites g (bump (s.modPart p (fun x => { x with ring := (l :: x.ring).take 8192 }))
      (sqReg p 0x320) none 1) = offWrites g s := fun l => (offWrites_sqBump hg _ p (by decide) 1).trans rfl
  unfold putTrace
  dsimp only
  split
  · split
    · rw [offWrites_drainOn hg, offWrites_queueRecord hg, h]
    · exact h _
  · rfl

end

end Sys2Proof.Machine
end

section
/-! Counters, monitors and dumps (R462, R464, R467, R470, R474, R479): O12 to O14. -/

namespace Sys2Proof.Machine

variable {s : State} {who : Requester} {level : Level}

/-! ### Wraps -/

theorem cntBase_lt (nn : Fin 64) (j : Fin 16) : 0x80000000 ≤ cntBase nn j ∧ cntBase nn j + 0x20 ≤ 0x90000000 := by
  have := nn.isLt
  have := j.isLt
  unfold cntBase
  omega

/-- The view of the counters' INFO registers hides all that traces write. -/
theorem hidesTraces_info (nn : Fin 64) (j : Fin 16) : HidesTraces (fun a => a = cntBase nn j + 4) := by
  have hbase := cntBase_lt nn j
  refine ⟨⟨fun a _ _ => ?_, ?_⟩, fun a _ _ => ?_⟩ <;>
  · rw [decide_eq_false_iff_not]
    omega

theorem wrapCounter_canonical (hs : s.Canonical) (p : Option (Fin 16)) (t : Option StreamTag) (nn j : Nat) :
    (wrapCounter s p t nn j).Canonical := (wrapCounter_kept (.refl s) p t nn j).canonical hs

/-- Whatever a wrap samples and signals, it leaves OVF set. -/
theorem rawReg_info_wrapCounter (hs : s.Canonical) (p : Option (Fin 16)) (t : Option StreamTag) (nn : Fin 64) (j : Fin 16) :
    rawReg (wrapCounter s p t nn j) (cntBase nn j + 4) = setBit (rawReg s (cntBase nn j + 4)) 15 true := by
  have hposted : rawReg (postBit s (cntBase nn j + 4) 15) (cntBase nn j + 4) =
      setBit (rawReg s (cntBase nn j + 4)) 15 true := by rw [rawReg_postBit hs, if_pos rfl]
  have hcanon : (postBit s (cntBase nn j + 4) 15).Canonical := setRaw_canonical hs _ _
  have htraced : ∀ q r, rawReg (putTrace (postBit s (cntBase nn j + 4) 15) q r) (cntBase nn j + 4) =
      setBit (rawReg s (cntBase nn j + 4)) 15 true := fun q r =>
    (rawReg_of_offWrites hcanon ((putTrace_kept (.refl _) q r).canonical hcanon)
      (offWrites_putTrace (hidesTraces_info nn j) _ q r) (decide_eq_true rfl)).trans hposted
  have hsignalled : ∀ (u : State) n op m a, rawReg (applySignal u n op m) a = rawReg u a := fun u n op m a =>
    view_of_offSignals (f := fun u => rawReg u a) (hf := fun _ => rfl) (offSignals_applySignal u n op m)
  unfold wrapCounter
  dsimp only
  split
  · split
    · split
      · rw [hsignalled, htraced]
      · exact htraced _ _
    · exact hposted
  · exact hposted

/-- The row of a wrap: OVF, the sample where one is asked for, and the value that it goes on from. -/
theorem exec_counterWrap {nn : Fin 64} {j : Fin 16} (h : counterRuns s nn j = true) : ∃ p t,
    exec (.counterWrap nn j) s = .next { wrapCounter { s with freeCount := s.freeCount + 1 } p t nn j with
      counts := Sparse.set 0 (wrapCounter { s with freeCount := s.freeCount + 1 } p t nn j).counts (cntBase nn j + 8)
        ((wrapStart s nn j + (wrap48 - wrap48)) % wrap48) } := by
  refine ⟨partOf s nn, if coreEvents.contains (field (rawReg s (cntBase nn j)) 23 16) then none
    else wrapStream s (rawReg s (cntBase nn j)), ?_⟩
  change execCounterWrap nn j s = _
  rw [execCounterWrap, if_pos h]
  simp only [addCounter, Nat.lt_irrefl, if_false]
  rfl

/-- A wrap without SAMPLE sets OVF and does nothing else. -/
theorem wrapCounter_of_no_sample {nn j : Nat} (h : flag (rawReg s (cntBase nn j)) 30 = false) (p : Option (Fin 16))
    (t : Option StreamTag) : wrapCounter s p t nn j = postBit s (cntBase nn j + 4) 15 := by
  unfold wrapCounter
  simp only [h, Bool.false_eq_true, if_false]
  split <;> rfl

/-! ### Writes of a counter's registers -/

theorem toNat_addr {n : Nat} (h : n < 2 ^ 32) : (BitVec.ofNat 32 n).toNat = n := by
  rw [BitVec.toNat_ofNat, Nat.mod_eq_of_lt h]

theorem doWrite_cnt (nn : Fin 64) (j : Fin 16) {ofs : Nat} (hofs : ofs < 0x20) (v : Word) :
    doWrite s who (cntBase nn j + ofs) v = (writeCnt s who nn (0x20 * j + ofs) v, 0) := by
  have := nn.isLt
  have := j.isLt
  have hcode : (cntBase nn j + ofs) / 0x10000000 = 8 := by unfold cntBase; omega
  have hcore : (cntBase nn j + ofs) % 0x10000000 / 0x400000 = nn := by unfold cntBase; omega
  have hin : (cntBase nn j + ofs) % 0x10000000 % 0x400000 = 0x1000 + (0x20 * j + ofs) := by unfold cntBase; omega
  simp only [doWrite, hcode, hcore, hin, Nat.le_add_right, and_self, if_true, Nat.add_sub_cancel_left]

theorem writeCnt_hi (nn : Fin 64) (j : Fin 16) (v : Word) : writeCnt s who nn (0x20 * j + 0xC) v =
    { s with heldHi := Sparse.set 0 s.heldHi (capKey who (cntBase nn j + 0xC)) (v.toNat + 1) } := by
  have hidx : (0x20 * j.val + 0xC) / 0x20 = j := by omega
  have hreg : (0x20 * j.val + 0xC) % 0x20 = 0xC := by omega
  simp only [writeCnt, hidx, hreg]

theorem writeCnt_lo (nn : Fin 64) (j : Fin 16) (v : Word) : writeCnt s who nn (0x20 * j + 8) v = completeCounter s who nn j v := by
  have hidx : (0x20 * j.val + 8) / 0x20 = j := by omega
  have hreg : (0x20 * j.val + 8) % 0x20 = 8 := by omega
  simp only [writeCnt, hidx, hreg]

theorem exec_dbCntWrite {nn : Fin 64} {j : Fin 16} {ofs : Nat} (hofs : ofs < 0x20)
    (h : AccessGoes s who level (cntBase nn j + ofs)) (v : Word) :
    exec (.dbCntWrite who (BitVec.ofNat 32 (cntBase nn j + ofs)) v) s = .next (writeCnt s who nn (0x20 * j + ofs) v) := by
  have := nn.isLt
  have := j.isLt
  have haddr : (BitVec.ofNat 32 (cntBase nn j + ofs)).toNat = cntBase nn j + ofs := toNat_addr (by unfold cntBase; omega)
  have hrange : (cntBase nn j + ofs) / 0x10000000 = 8 ∧ 0x1000 ≤ (cntBase nn j + ofs) % 0x400000 ∧
      (cntBase nn j + ofs) % 0x400000 < 0x1200 := by
    unfold cntBase
    omega
  change execDbCntWrite who _ v s = _
  unfold execDbCntWrite
  dsimp only
  rw [haddr, if_pos hrange, ctlWrite_of_goes h haddr, doWrite_cnt nn j hofs]

/-- Settles O13: a wrap's OVF and value, the held high half, and the write that completes with it. -/
theorem coreCounters : Obligations.CoreCounters := by
  intro s who level nn j v h hs
  have hfree : ({ s with freeCount := s.freeCount + 1 } : State).Canonical := { hs with }
  have hstart : ∀ c, (c + (wrap48 - wrap48)) % wrap48 = c % wrap48 := fun c => by rw [Nat.sub_self, Nat.add_zero]
  refine ⟨fun hrun hsample => ?_, fun hrun hsample => ?_, fun hgo => ?_, fun hgo hheld => ?_⟩
  · obtain ⟨p, t, hexec⟩ := exec_counterWrap hrun
    rw [wrapCounter_of_no_sample (by exact hsample), hstart, wrapStart, hsample] at hexec
    refine ⟨_, hexec, Sparse.get_set_same _ _ hs.counts, ⟨rfl, fun a ha => ?_⟩, ?_⟩
    · exact rawReg_setRaw_ne hs _ (by simpa using ha)
    · refine (congrArg (flag · 15) (rawReg_setRaw_same hs _ _)).trans ?_
      rw [flag_setBit _ _ _ _ (by decide), if_pos rfl]
  · obtain ⟨p, t, hexec⟩ := exec_counterWrap hrun
    rw [hstart, wrapStart, hsample] at hexec
    refine ⟨_, hexec, Sparse.get_set_same _ _ (wrapCounter_canonical hfree p t nn j).counts, ?_⟩
    refine (congrArg (flag · 15) (rawReg_info_wrapCounter hfree p t nn j)).trans ?_
    rw [flag_setBit _ _ _ _ (by decide), if_pos rfl]
  · have hexec := exec_dbCntWrite (by decide) hgo v
    rw [writeCnt_hi] at hexec
    exact ⟨_, hexec, Sparse.get_set_same _ _ hs.heldHi, rfl⟩
  · have hwritten : completeCounter s who nn j v = setRaw { s with
        heldHi := Sparse.set 0 s.heldHi (capKey who (cntBase nn j + 0xC)) 0,
        counts := Sparse.set 0 s.counts (cntBase nn j + 8) (h % 65536 * 2 ^ 32 + v.toNat) } (cntBase nn j + 4)
        (setField (rawReg s (cntBase nn j + 4)) 31 16 ((field (rawReg s (cntBase nn j + 4)) 31 16 + 1) % 65536)) := by
      unfold completeCounter
      simp only [hheld, Nat.succ_ne_zero, if_false, Nat.add_sub_cancel]
      rfl
    have hheldHi : ∀ k x, ({ s with heldHi := Sparse.set 0 s.heldHi k 0, counts := Sparse.set 0 s.counts (cntBase nn j + 8) x } :
        State).Canonical := fun k x => { hs with heldHi := Sparse.set_wf _ _ hs.heldHi, counts := Sparse.set_wf _ _ hs.counts }
    have hexec := exec_dbCntWrite (by decide) hgo v
    rw [writeCnt_lo, hwritten] at hexec
    refine ⟨_, hexec, Sparse.get_set_same _ _ hs.counts, ?_, Sparse.get_set_same _ _ hs.heldHi⟩
    rw [rawReg_setRaw_same (hheldHi _ _), field_setField_same _ _ (by decide)]
    exact Nat.mod_mod _ _

/-! ### Monitors -/

theorem flag_or_false_right {v w : Word} {i : Nat} (h : flag w i = false) : flag (v ||| w) i = flag v i := by
  rw [flag_or, h, Bool.or_false]

theorem field_congr {v w : Word} {hi lo : Nat} (h : ∀ i, lo ≤ i → i ≤ hi → flag v i = flag w i) : field v hi lo = field w hi lo := by
  refine Nat.eq_of_testBit_eq fun i => ?_
  rw [testBit_field, testBit_field]
  by_cases hi' : i < hi + 1 - lo
  · rw [h _ (by omega) (by omega)]
  · simp [hi']

theorem field_at32 {hi lo : Nat} (hhi : hi < 32) (hlo : lo ≤ hi) (v : Nat) : field (at32 lo v) hi lo = v % 2 ^ (hi + 1 - lo) := by
  refine Nat.eq_of_testBit_eq fun i => ?_
  rw [testBit_field, flag_at32, Nat.testBit_mod_two_pow]
  by_cases hi' : i < hi + 1 - lo
  · have hlt : lo + i < 32 := by omega
    simp [hi', hlt]
  · simp [hi']

/-- A monitor's CFG after a write of a WINDOW in range. -/
def monCfgSet (s : State) (a : Nat) (v : Word) : State := putBits (putBits s a (mask32 31 26) v) a (low 20) v

theorem monCfgSet_canonical (hs : s.Canonical) (a : Nat) (v : Word) : (monCfgSet s a v).Canonical :=
  setRaw_canonical (setRaw_canonical hs _ _) _ _

theorem onlyRegs_monCfgSet (hs : s.Canonical) (a : Nat) (v : Word) : OnlyRegs s (monCfgSet s a v) [a] :=
  ((OnlyRegs.of_setRaw hs a _).trans (OnlyRegs.of_setRaw (setRaw_canonical hs _ _) a _)).mono (by simp)

theorem rawReg_monCfgSet (hs : s.Canonical) (a : Nat) (v : Word) :
    rawReg (monCfgSet s a v) a = merge32 (merge32 (rawReg s a) (mask32 31 26) v) (low 20) v := by
  unfold monCfgSet putBits
  rw [rawReg_setRaw_same (setRaw_canonical hs _ _), rawReg_setRaw_same hs]

theorem flag_monCfg (w v : Word) {i : Nat} (hi : i < 32) (hin : i ≤ 19 ∨ 26 ≤ i) :
    flag (merge32 (merge32 w (mask32 31 26) v) (low 20) v) i = flag v i := by
  rw [flag_merge32 _ _ _ _ hi, flag_merge32 _ _ _ _ hi, low, flag_mask32, flag_mask32]
  rcases hin with h | h
  · simp [hi, h]
  · simp [hi, h, show i ≤ 31 by omega]

theorem writeMonCfg_of_window {v : Word} (hlow : 1 ≤ field v 19 0) (hhigh : field v 19 0 ≤ 1000000) (m : Nat) :
    writeMonCfg s m v = setRaw (monCfgSet s (0xF0002000 + 0x20 * m) v) (0xF0002000 + 0x20 * m + 4)
      (at32 16 ((field (rawReg (monCfgSet s (0xF0002000 + 0x20 * m) v) (0xF0002000 + 0x20 * m + 4)) 31 16 + 1) % 65536)) := by
  unfold writeMonCfg
  simp only [hlow, hhigh, and_self, if_true]
  rfl

theorem writeDb_mon {m : Nat} (hm : m < 56) (v : Word) : writeDb s (0x2000 + 0x20 * m) v = writeMonCfg s m v := by
  have hidx : (0x2000 + 0x20 * m - 0x2000) / 0x20 = m := by omega
  unfold writeDb
  dsimp only
  rw [if_neg (by omega), if_neg (by omega), if_neg (by omega), if_neg (by omega), if_pos (by omega), if_pos (by omega), hidx]

theorem exec_dbMonCfg {m : Fin 64} (hm : m.val < 56) (h : AccessGoes s who level (0xF0002000 + 0x20 * m.val)) (v : Word) :
    exec (.dbMonCfg who (BitVec.ofNat 32 (0xF0002000 + 0x20 * m.val)) v) s = .next (writeMonCfg s m v) := by
  have haddr : (BitVec.ofNat 32 (0xF0002000 + 0x20 * m.val)).toNat = 0xF0002000 + 0x20 * m.val := toNat_addr (by omega)
  change execDbMonCfg who _ v s = _
  unfold execDbMonCfg
  rw [haddr, if_pos (by omega), ctlWrite_of_goes h haddr,
    show 0xF0002000 + 0x20 * m.val = 0xF0000000 + (0x2000 + 0x20 * m.val) by omega, doWrite_db (by omega), writeDb_mon hm]

/-- The counts once a window's two are readable. -/
def windowCounts (s : State) (a b rx tx : Nat) : Sparse Nat :=
  Sparse.set 0 (Sparse.set 0 s.counts a (rx % wrap48)) b (tx % wrap48)

/-- EPOCH after it has advanced by 1. -/
theorem field_epoch (e : Nat) : field (at32 16 ((e + 1) % 65536)) 31 16 = (e + 1) % 2 ^ 16 := by
  rw [field_at32 (by decide) (by decide)]
  exact Nat.mod_mod _ _

/-- Settles O14: both write EPOCH's register last, and it reads the count before plus 1. -/
theorem bandwidthMonitors : Obligations.BandwidthMonitors := by
  intro s who level m v rx tx hs hm
  refine ⟨fun hgo hlow hhigh => ?_, fun hon => ?_⟩
  · have hexec := exec_dbMonCfg hm hgo v
    rw [writeMonCfg_of_window hlow hhigh] at hexec
    have hinfo : 0xF0002000 + 0x20 * m.val + 4 = 0xF0002004 + 0x20 * m.val := by omega
    rw [hinfo] at hexec
    have hset := monCfgSet_canonical hs (0xF0002000 + 0x20 * m.val) v
    have honly := onlyRegs_monCfgSet hs (0xF0002000 + 0x20 * m.val) v
    have hne : (0xF0002000 + 0x20 * m.val) ≠ 0xF0002004 + 0x20 * m.val := by omega
    refine ⟨_, hexec, honly.trans (OnlyRegs.of_setRaw hset _ _), ?_, ?_, ?_⟩
    · rw [rawReg_setRaw_ne hset _ hne, rawReg_monCfgSet hs]
      exact field_congr fun i _ hi => flag_monCfg _ _ (by omega) (.inl hi)
    · rw [rawReg_setRaw_ne hset _ hne, rawReg_monCfgSet hs]
      exact flag_monCfg _ _ (by decide) (.inr (by decide))
    · rw [rawReg_setRaw_same hset, field_epoch, honly.2 _ (by simp)]
  · have hexec : exec (.monitorWindowEnd m rx tx) s = .next (setRaw
        { s with counts := windowCounts s (0xF0002000 + 0x20 * m.val + 8) (0xF0002000 + 0x20 * m.val + 0x10) rx tx }
        (0xF0002000 + 0x20 * m.val + 4) (at32 16 ((field (rawReg s (0xF0002000 + 0x20 * m.val + 4)) 31 16 + 1) % 65536))) :=
      if_pos ⟨hm, hon⟩
    have hinfo : 0xF0002000 + 0x20 * m.val + 4 = 0xF0002004 + 0x20 * m.val := by omega
    have hrx : 0xF0002000 + 0x20 * m.val + 8 = 0xF0002008 + 0x20 * m.val := by omega
    have htx : 0xF0002000 + 0x20 * m.val + 0x10 = 0xF0002010 + 0x20 * m.val := by omega
    rw [hinfo, hrx, htx] at hexec
    have hfirst : Sparse.wf 0 (Sparse.set 0 s.counts (0xF0002008 + 0x20 * m.val) (rx % wrap48)) = true :=
      Sparse.set_wf _ _ hs.counts
    refine ⟨_, hexec, ⟨rfl, fun a ha => ?_⟩, ?_, Sparse.get_set_same _ _ hfirst, ?_⟩
    · exact rawReg_setRaw_ne hs _ (by simpa using ha)
    · exact (Sparse.get_set_ne _ hfirst (by omega)).trans (Sparse.get_set_same _ _ hs.counts)
    · exact (congrArg (field · 31 16) (rawReg_setRaw_same hs _ _)).trans (field_epoch _)

/-! ### Dumps -/

/-- DB_DUMP_CTL has taken PARTITION, and DEPTH where it is in range. -/
def dumpCtlSet (s : State) (v : Word) : State :=
  putField (putBits s 0xF000000C (mask32 27 24) v) 0xF000000C 23 22 v (fun d => d ≠ 3)

theorem putBits_canonical (hs : s.Canonical) (a : Nat) (m v : Word) : (putBits s a m v).Canonical := setRaw_canonical hs _ _

theorem dumpCtlSet_canonical (hs : s.Canonical) (v : Word) : (dumpCtlSet s v).Canonical := by
  unfold dumpCtlSet putField
  split
  · exact putBits_canonical (putBits_canonical hs _ _ _) _ _ _
  · exact putBits_canonical hs _ _ _

theorem onlyRegs_dumpCtlSet (hs : s.Canonical) (v : Word) : OnlyRegs s (dumpCtlSet s v) [0xF000000C] := by
  have hfirst : OnlyRegs s (putBits s 0xF000000C (mask32 27 24) v) [0xF000000C] := OnlyRegs.of_setRaw hs _ _
  unfold dumpCtlSet putField
  split
  · exact (hfirst.trans (OnlyRegs.of_setRaw (putBits_canonical hs _ _ _) _ _)).mono (by simp)
  · exact hfirst

theorem field_dumpCtlSet (hs : s.Canonical) (v : Word) : field (rawReg (dumpCtlSet s v) 0xF000000C) 27 24 = field v 27 24 := by
  have hfirst : ∀ i, 24 ≤ i → i ≤ 27 → flag (rawReg (putBits s 0xF000000C (mask32 27 24) v) 0xF000000C) i = flag v i := by
    intro i hlo hhi
    rw [putBits, rawReg_setRaw_same hs, flag_merge32 _ _ _ _ (by omega), flag_mask32]
    simp [hlo, hhi, show i < 32 by omega]
  refine field_congr fun i hlo hhi => ?_
  unfold dumpCtlSet putField
  split
  · rw [putBits, rawReg_setRaw_same (putBits_canonical hs _ _ _), flag_merge32 _ _ _ _ (by omega), flag_mask32]
    simp [show ¬ i ≤ 23 by omega, hfirst i hlo hhi]
  · exact hfirst i hlo hhi

theorem frame_dumpCtlSet (s : State) (v : Word) : dumpCtlSet s v = { s with regs := (dumpCtlSet s v).regs } := by
  unfold dumpCtlSet putField
  split <;> rfl

theorem writeDumpCtl_start {v : Word} (hstart : flag v 31 = true) (hrelease : flag v 30 = false) :
    writeDumpCtl s v = askDump (dumpCtlSet s v) := by
  simp only [writeDumpCtl, hstart, hrelease, if_true, Bool.false_eq_true, if_false]
  rfl

theorem writeDumpCtl_release {v : Word} (hstart : flag v 31 = false) (hrelease : flag v 30 = true) :
    writeDumpCtl s v = dropDump (dumpCtlSet s v) := by
  simp only [writeDumpCtl, hstart, hrelease, if_true, Bool.false_eq_true, if_false]
  rfl

theorem doWrite_dumpCtl (v : Word) : doWrite s who 0xF000000C v = (writeDumpCtl s v, 0) := doWrite_db (n := 0xC) (by decide) v

theorem ofNat_val (p : Fin 16) : Fin.ofNat 16 p.val = p := by
  rw [Fin.ofNat_eq_cast, Fin.cast_val_eq_self]

/-- A START for a partition that is FAULTED comes to the dump's start. -/
theorem exec_dumpStart (hs : s.Canonical) {p : Fin 16} {v : Word} (hgo : AccessGoes s who level 0xF000000C)
    (hp : field v 27 24 = p.val) (hstate : (s.part p).state = .faulted) : ∃ w,
    exec (.dumpStart who v) s = .next (startDump (dumpCtlSet s w) p) := by
  have hflags := fun i (hi : i < 32) => flag_setBit (setBit v 31 true) 30 false i hi
  refine ⟨setBit (setBit v 31 true) 30 false, ?_⟩
  change execDumpStart who v s = _
  rw [execDumpStart, ctlWrite_of_goes hgo rfl, doWrite_dumpCtl, writeDumpCtl_start]
  · have hsel : field (rawReg (dumpCtlSet s (setBit (setBit v 31 true) 30 false)) 0xF000000C) 27 24 = p.val := by
      rw [field_dumpCtlSet hs, field_setBit_ne _ _ (by decide) (.inr (by decide)),
        field_setBit_ne _ _ (by decide) (.inr (by decide)), hp]
    have hpart : (dumpCtlSet s (setBit (setBit v 31 true) 30 false)).part p = s.part p := by
      rw [frame_dumpCtlSet]
      rfl
    unfold askDump
    rw [hsel, ofNat_val]
    dsimp only
    rw [if_pos (by rw [hpart, hstate])]
  · rw [hflags 31 (by decide), if_neg (by decide), flag_setBit _ _ _ _ (by decide), if_pos rfl]
  · rw [hflags 30 (by decide), if_pos rfl]

theorem exec_dumpRelease {v : Word} (hgo : AccessGoes s who level 0xF000000C) : ∃ w,
    exec (.dumpRelease who v) s = .next (dropDump (dumpCtlSet s w)) := by
  have hflags := fun i (hi : i < 32) => flag_setBit (setBit v 31 false) 30 true i hi
  refine ⟨setBit (setBit v 31 false) 30 true, ?_⟩
  change execDumpRelease who v s = _
  rw [execDumpRelease, ctlWrite_of_goes hgo rfl, doWrite_dumpCtl, writeDumpCtl_release]
  · rw [hflags 31 (by decide), if_neg (by decide), flag_setBit _ _ _ _ (by decide), if_pos rfl]
  · rw [hflags 30 (by decide), if_pos rfl]

/-- The end of a capture, where no partition reset waits for it. -/
theorem exec_dumpCaptureDone {p : Fin 16} (hbusy : s.dump.busy = some p) (hreset : (s.part p).resetDue = false) :
    ∃ len data, exec .dumpCaptureDone s =
      .next (postBit { s with dump := { s.dump with busy := none, held := some p, len := len, data := data } } 0xF0000000 4) ∧
      data = dumpBytes s p ∧ len = sectionOfs (sectionLens s p) 9 := by
  refine ⟨sectionOfs (sectionLens s p) 9, dumpBytes s p, ?_, rfl, rfl⟩
  generalize hd : dumpBytes s p = data
  change execDumpCaptureDone s = _
  simp only [execDumpCaptureDone, hbusy, hd]
  exact congrArg Host.Outcome.next (if_neg (Bool.eq_false_iff.mp hreset))

theorem flag_setBit_same (w : Word) {i : Nat} (hi : i < 32) : flag (setBit w i true) i = true := by
  rw [flag_setBit _ _ _ _ hi, if_pos rfl]

/-- Settles O12: a START finds the area free or taken, a capture's end holds the dump, a RELEASE drops it. -/
theorem hangDump : Obligations.HangDump := by
  intro s who level v p hs
  refine ⟨fun hgo hp hstate => ?_, fun hbusy hreset => ?_, fun hgo hheld => ?_⟩
  · obtain ⟨w, hexec⟩ := exec_dumpStart hs hgo hp hstate
    have honly := onlyRegs_dumpCtlSet hs w
    have hdump : (dumpCtlSet s w).dump = s.dump := by rw [frame_dumpCtlSet]
    rw [startDump, hdump] at hexec
    refine ⟨fun hbusy hheld => ?_, fun htaken => ?_⟩
    · rw [hbusy, hheld, if_neg (by decide)] at hexec
      refine ⟨_, hexec, rfl, ?_, fun a ha => honly.2 a ha⟩
      generalize field (rawReg (dumpCtlSet s w) 0xF000000C) 23 22 = depth
      exact congrArg (fun u : State => { u with dump := { s.dump with busy := some p, depth := depth } }) (frame_dumpCtlSet s w)
    · rw [if_pos (by simpa [or_comm] using htaken)] at hexec
      have hset := dumpCtlSet_canonical hs w
      refine ⟨_, hexec, honly.trans (OnlyRegs.of_setRaw hset _ _), ?_⟩
      exact (congrArg (flag · 5) (rawReg_setRaw_same hset _ _)).trans (flag_setBit_same _ (by decide))
  · obtain ⟨len, data, hexec, hdata, hlen⟩ := exec_dumpCaptureDone hbusy hreset
    have hcanon : ∀ d, ({ s with dump := d } : State).Canonical := fun d => { hs with }
    refine ⟨_, hexec, rfl, rfl, hdata, hlen, ⟨rfl, fun a ha => ?_⟩, ?_⟩
    · exact rawReg_setRaw_ne (hcanon _) _ (by simpa using ha)
    · exact (congrArg (flag · 4) (rawReg_setRaw_same (hcanon _) _ _)).trans (flag_setBit_same _ (by decide))
  · obtain ⟨w, hexec⟩ := exec_dumpRelease (v := v) hgo
    have hdump : (dumpCtlSet s w).dump = s.dump := by rw [frame_dumpCtlSet]
    rw [dropDump, hdump, hheld, if_pos Option.isSome_some] at hexec
    refine ⟨_, hexec, rfl, rfl, ?_, fun a ha => (onlyRegs_dumpCtlSet hs w).2 a ha⟩
    exact congrArg (fun u : State => { u with dump := { s.dump with held := none, len := 0, data := [] } }) (frame_dumpCtlSet s w)

end Sys2Proof.Machine
end

section
/-! Faults (R449, R450, R451): what a freeze and a drain leave of the partition and of everything else; O46. -/

namespace Sys2Proof.Machine

variable {s : State} {p : Fin 16} {t : StreamTag}

/-! ### What stops leave -/

/-- The state but for what the stop of a command writes: the partitions, registers, counts, the dump, and frames sent. -/
def offStops (s : State) : State :=
  { s with regs := [], counts := [], conns := [], sess := [], wire := [], dump := ⟨none, none, 0, [], 0⟩,
           parts := Vector.replicate 16 Part.free }

theorem view_of_offStops {α : Type} {s t : State} {f : State → α} (hf : ∀ s, f (offStops s) = f s := by exact fun _ => rfl)
    (h : offStops t = offStops s) : f t = f s := by rw [← hf t, h, hf]

theorem offStops_linkSet (s : State) (e : Endpoint) (l : Link) : offStops (linkSet s e l) = offStops s := by
  cases e <;> rfl

theorem offStops_handOver (s : State) (code again : Nat) (ws : List WireFrame) :
    offStops (handOver s code again ws) = offStops s := by
  unfold handOver
  dsimp only
  split <;> rfl

theorem offStops_pump (s : State) (e : Endpoint) : offStops (pump s e) = offStops s := by
  unfold pump
  dsimp only
  split
  · rw [offStops_handOver, offStops_linkSet]
  · rfl

theorem offStops_sendFrame (s : State) (e : Endpoint) (op flags : Nat) (ext : Option (List Byte))
    (payload : List (List Byte)) : offStops (sendFrame s e op flags ext payload) = offStops s := by
  unfold sendFrame
  dsimp only
  split
  · rw [offStops_pump, offStops_linkSet]
  · rfl

theorem offStops_answerStops (s : State) (p : Fin 16) (status : Nat) : offStops (answerStops s p status) = offStops s := by
  refine foldl_view offStops (fun s r => ?_) _ _
  unfold answer
  split
  · exact offStops_sendFrame _ _ _ _ _ _
  · rfl

theorem offStops_startDump (s : State) (p : Fin 16) : offStops (startDump s p) = offStops s := by
  unfold startDump
  split <;> rfl

theorem offStops_stopUpds (s : State) (p : Fin 16) : offStops (stopUpds s p) = offStops s :=
  foldl_view offStops (fun s u => by dsimp only; split <;> rfl) _ s

theorem stopUpds_parts (s : State) (p : Fin 16) : (stopUpds s p).parts = s.parts :=
  foldl_view State.parts (fun s u => by dsimp only; split <;> rfl) _ s

theorem startDump_parts (s : State) (p : Fin 16) : (startDump s p).parts = s.parts := by
  unfold startDump
  split <;> rfl

theorem offStops_freeze (s : State) (p : Fin 16) (r : FaultRec) : offStops (freeze s p r) = offStops s := by
  have hstop : offStops (stopUpds (recordFault s p r) p) = offStops s := offStops_stopUpds _ p
  unfold freeze
  dsimp only
  split
  · rw [answerStop, offStops_answerStops, offStops_startDump]
    exact hstop
  · exact hstop

/-! ### The record and the freeze -/

/-- The partition once a fault is recorded at a tick (R451). -/
def Part.recorded (x : Part) (tick : Nat) (r : FaultRec) : Part :=
  if x.record.cause = 0 then { x with record := { r with further := 0, tick := tick } }
  else { x with record := { x.record with further := satAdd32 x.record.further 1 } }

theorem part_recordFault (s : State) (p : Fin 16) (r : FaultRec) :
    (recordFault s p r).part p = (s.part p).recorded s.tick r := State.part_modPart_same _ _ _

theorem Part.recorded_of_first {x : Part} (h : x.record.cause = 0) (tick : Nat) (r : FaultRec) :
    x.recorded tick r = { x with record := { r with further := 0, tick := tick } } := if_pos h

/-- A recorded fault changes the record alone. -/
theorem Part.recorded_frame (x : Part) (tick : Nat) (r : FaultRec) :
    x.recorded tick r = { x with record := (x.recorded tick r).record } := by
  unfold Part.recorded
  split <;> rfl

/-- The partition that a freeze leaves (R450). -/
def Part.frozenNow (x : Part) : Part :=
  { enterFaulted { x with mem := emptyQueue x.mem, colls := [], segs := [], handed := [], frozen := true } with
    stopWaiting := [] }

theorem part_freeze (hrun : (s.part p).state = .running ∨ (s.part p).state = .stopping) (r : FaultRec) :
    (freeze s p r).part p = ((s.part p).recorded s.tick r).frozenNow := by
  have hpart : (stopUpds (recordFault s p r) p).part p = (s.part p).recorded s.tick r := by
    rw [State.part, stopUpds_parts]
    exact part_recordFault s p r
  have hstate : ((s.part p).recorded s.tick r).state = (s.part p).state := by rw [Part.recorded_frame]
  unfold freeze
  dsimp only
  rw [hpart, hstate, if_pos hrun, answerStop, State.part, answerStops_parts]
  change State.part (State.modPart _ p _) p = _
  rw [State.part_modPart_same, State.part, startDump_parts]
  change { State.part (State.setPart _ p _) p with stopWaiting := [] } = _
  rw [State.part_setPart_same]
  rfl

theorem Part.frozenNow_stream (x : Part) (t : StreamTag) : x.frozenNow.stream t = faultStream (x.stream t) := by
  cases t <;> rfl

theorem faultStream_of_refused {q : Stream} (h : q.state = .refused) : faultStream q = q := by
  unfold faultStream
  rw [h]

theorem faultStream_of_faulted {q : Stream} (h : q.state = .faulted) : faultStream q = q := by
  obtain ⟨_⟩ := q
  subst h
  rfl

theorem Part.recorded_stream (x : Part) (tick : Nat) (r : FaultRec) (t : StreamTag) :
    (x.recorded tick r).stream t = x.stream t := by
  rw [Part.recorded_frame]
  cases t <;> rfl

/-- What a freeze leaves of a running or stopping partition whose stream was set to REFUSED or FAULTED. -/
structure FrozenBy (s v : State) (p : Fin 16) (t : StreamTag) (q : Stream) (r : FaultRec) : Prop where
  stream : v.stream p t = q
  state : (v.part p).state = .faulted
  frame : offStops v = offStops s
  cause : (v.part p).faultCause = (v.part p).record.cause
  record : (s.part p).record.cause = 0 → (v.part p).record = { r with further := 0, tick := s.tick }

theorem part_setStream (s : State) (p : Fin 16) (t : StreamTag) (q : Stream) :
    (s.setStream p t q).part p = (s.part p).setStream t q := State.part_modPart_same _ _ _

theorem frozenBy_setStream (hrun : (s.part p).state = .running ∨ (s.part p).state = .stopping) {q : Stream}
    (hq : q.state = .refused ∨ q.state = .faulted) (r : FaultRec) :
    FrozenBy s (freeze (s.setStream p t q) p r) p t q r := by
  have hpart := part_setStream s p t q
  have hset : ((s.setStream p t q).part p).state = (s.part p).state := by rw [hpart]; cases t <;> rfl
  have hrecord : ((s.setStream p t q).part p).record = (s.part p).record := by rw [hpart]; cases t <;> rfl
  have hfrozen := part_freeze (hset ▸ hrun) r
  refine ⟨?_, ?_, offStops_freeze _ _ _, ?_, fun hfirst => ?_⟩
  · rw [State.stream, hfrozen, Part.frozenNow_stream, Part.recorded_stream, hpart, Part.stream_setStream_same]
    exact hq.elim faultStream_of_refused faultStream_of_faulted
  · rw [hfrozen]
    rfl
  · rw [hfrozen]
    rfl
  · rw [hfrozen, Part.recorded_of_first (hrecord ▸ hfirst)]
    rfl

/-! ### Drains and timers (O46) -/

theorem timersRun_state {x : Part} (h : timersRun x t = true) : x.state = .running ∨ x.state = .stopping := by
  simp only [timersRun, Bool.and_eq_true, Bool.or_eq_true, decide_eq_true_eq] at h
  exact h.1.1

/-- The recorded wait fault names its object. -/
theorem field_waitFault (n : Nat) : field (at32 28 1 ||| BitVec.ofNat 32 n) 11 0 = n % 2 ^ 12 := by
  refine Nat.eq_of_testBit_eq fun i => ?_
  rw [testBit_field, flag_or, flag_at32, Nat.testBit_mod_two_pow]
  by_cases hi : i < 12
  · have hlow : flag (BitVec.ofNat 32 n) (0 + i) = n.testBit i := by
      rw [flag, BitVec.getLsbD_ofNat, Nat.zero_add, decide_eq_true (by omega : i < 32), Bool.true_and]
    rw [hlow]
    simp [hi, show ¬ 28 ≤ i by omega]
  · simp [hi]

theorem exec_waitTimeout {g : Granule} (hg : timedWait (s.stream p t) = some g) (htimers : timersRun (s.part p) t = true)
    (hhalt : (s.part p).halted = false) (hrun : (s.stream p t).state = .running) :
    exec (.waitTimeout p t) s = .next (freeze (s.setStream p t { s.stream p t with
      state := .faulted, waitFault := at32 28 1 ||| BitVec.ofNat 32 (cWaitSo g) }) p
      { cmdFault (s.stream p t) t g (s.stream p t).pc with cause := 3, kind := 2, unit := 0xA, tile := [cWaitSo g, 0, 0, 0] }) := by
  change execWaitTimeout p t s = _
  simp only [execWaitTimeout, hg, htimers, hhalt, hrun]
  rfl

theorem exec_waitTimeout_of_halted (hhalt : (s.part p).halted = true) : exec (.waitTimeout p t) s = .next s := by
  change execWaitTimeout p t s = _
  unfold execWaitTimeout
  dsimp only
  split
  · simp [hhalt]
  · rfl

theorem exec_progressWatchdogExpiry (htimers : timersRun (s.part p) t = true) :
    exec (.progressWatchdogExpiry p t) s = .next (freeze (s.setStream p t { s.stream p t with state := .faulted }) p
      { cmdFault (s.stream p t) t ((s.stream p t).head.getD 0#256) (s.stream p t).pc with cause := 3, kind := 1, unit := 0xA }) :=
  if_pos htimers

/-! ### Cores that leave service -/

/-- The state but for what a core that leaves service takes with it. -/
def offCoreOut (s : State) : State :=
  { s with regs := [], counts := [], sramErrs := [], cores := Vector.replicate 64 Core.reset, store := [], storeErrs := [],
           freeCount := 0, doms := [], boot := State.reset.boot, retire := [] }

theorem view_of_offCoreOut {α : Type} {s t : State} {f : State → α} (hf : ∀ s, f (offCoreOut s) = f s := by exact fun _ => rfl)
    (h : offCoreOut t = offCoreOut s) : f t = f s := by rw [← hf t, h, hf]

theorem offCoreOut_clearCoreSram (s : State) (nn : Nat) : offCoreOut (clearCoreSram s nn) = offCoreOut s :=
  foldl_view offCoreOut (g := fun s a => clearArray s a nn 0 (2 ^ 24)) (fun s a => by unfold clearArray; rfl) _ s

theorem offCoreOut_resetRange (s : State) (lo n : Nat) : offCoreOut (resetRange s lo n) = offCoreOut s := by
  unfold resetRange
  rfl

theorem offCoreOut_clearCoreRegs (s : State) (nn : Nat) : offCoreOut (clearCoreRegs s nn) = offCoreOut s := by
  unfold clearCoreRegs
  dsimp only
  rw [offCoreOut_resetRange]
  exact foldl_view offCoreOut (fun s c => offCoreOut_resetRange s _ _) _ s

theorem offCoreOut_modCore (s : State) (c : Fin 64) (f : Core → Core) : offCoreOut (s.modCore c f) = offCoreOut s := by
  unfold State.modCore
  rfl

theorem offCoreOut_burnIn (s : State) (cap : Nat) (get : Fuses → List Nat) (set : Fuses → List Nat → Fuses) (v : Nat) :
    offCoreOut (burnIn s cap get set v) = offCoreOut s := by
  unfold burnIn
  split <;> rfl

theorem offCoreOut_withStore (s : State) (store : Sparse Byte) (errs : Sparse Nat) (n : Nat) :
    offCoreOut { s with store := store, storeErrs := errs, freeCount := n } = offCoreOut s := rfl

theorem offCoreOut_loseCore (s : State) (nn : Nat) : offCoreOut (loseCore s nn) = offCoreOut s := by
  have hclear : offCoreOut ((clearCoreRegs (clearCoreSram s nn) nn).modCore (Fin.ofNat 64 nn) clearCore) = offCoreOut s := by
    rw [offCoreOut_modCore, offCoreOut_clearCoreRegs, offCoreOut_clearCoreSram]
  exact (offCoreOut_withStore _ _ _ _).trans hclear

theorem offCoreOut_coreOut (s : State) (nn : Nat) : offCoreOut (coreOut s nn) = offCoreOut s := by
  unfold coreOut
  dsimp only
  rw [offCoreOut_burnIn, offCoreOut_modCore, offCoreOut_loseCore]
  rfl

theorem offCoreOut_withRetire (s : State) (l : List ProofReq) : offCoreOut { s with retire := l } = offCoreOut s := rfl

theorem offCoreOut_foldl (l : List ProofReq) (s : State) :
    offCoreOut (l.foldl (fun s r => coreOut s r.index) s) = offCoreOut s := by
  induction l generalizing s with
  | nil => rfl
  | cons r l ih => rw [List.foldl_cons, ih, offCoreOut_coreOut]

theorem offCoreOut_coresOut (s : State) : offCoreOut (coresOut s) = offCoreOut s := by
  unfold coresOut
  dsimp only
  rw [offCoreOut_foldl, offCoreOut_withRetire]

theorem coresOut_part (s : State) (p : Fin 16) : (coresOut s).part p = s.part p :=
  view_of_offCoreOut (f := fun u => u.part p) (hf := fun _ => rfl) (offCoreOut_coresOut s)

/-- The drain ends: the partition is FAULTED, its STOPs are answered, and its retired cores leave. -/
theorem exec_partitionDrainDone (hdrain : (s.part p).draining = true) (hnone : partInflight (s.part p) = 0) :
    exec (.partitionDrainDone p) s = .next (coresOut (answerStop (s.setPart p (enterFaulted (s.part p))) p)) := by
  have hgo : ((s.part p).draining && decide (partInflight (s.part p) = 0)) = true := by simp [hdrain, hnone]
  exact congrArg (fun u => Host.Outcome.next (coresOut u)) (if_pos hgo)

theorem part_answerStop_setPart (s : State) (p : Fin 16) (x : Part) :
    (answerStop (s.setPart p x) p).part p = { x with stopWaiting := [] } := by
  rw [answerStop, State.part, answerStops_parts]
  change State.part (State.modPart _ p _) p = _
  rw [State.part_modPart_same, State.part_setPart_same]

/-- Settles O46: both timers freeze through the same operation, and the drain's end shows the recorded cause. -/
theorem timeoutsAndDrains : Obligations.TimeoutsAndDrains := by
  intro s p t g hs
  refine ⟨fun hfirst hg htimers hhalt hrun => ?_, fun hhalt => ⟨s, exec_waitTimeout_of_halted hhalt, rfl⟩,
    fun hfirst htimers => ?_, fun hdrain hnone => ?_⟩
  · obtain ⟨hstream, hstate, hframe, hcause, hrecord⟩ := frozenBy_setStream (t := t) (timersRun_state htimers)
      (q := { s.stream p t with state := .faulted, waitFault := at32 28 1 ||| BitVec.ofNat 32 (cWaitSo g) }) (.inr rfl)
      { cmdFault (s.stream p t) t g (s.stream p t).pc with cause := 3, kind := 2, unit := 0xA, tile := [cWaitSo g, 0, 0, 0] }
    have hrecord := hrecord hfirst
    refine ⟨_, exec_waitTimeout hg htimers hhalt hrun, ?_, hstate, ?_, ?_, ?_, view_of_offStops (f := State.mem) (hf := fun _ => rfl) hframe⟩
    · rw [hstream]
    · rw [hcause, hrecord]
    · rw [hrecord]
    · rw [hstream]
      exact field_waitFault _
  · obtain ⟨hstream, hstate, hframe, hcause, hrecord⟩ := frozenBy_setStream (t := t) (timersRun_state htimers)
      (q := { s.stream p t with state := .faulted }) (.inr rfl)
      { cmdFault (s.stream p t) t ((s.stream p t).head.getD 0#256) (s.stream p t).pc with cause := 3, kind := 1, unit := 0xA }
    have hrecord := hrecord hfirst
    refine ⟨_, exec_progressWatchdogExpiry htimers, hstate, ?_, ?_, ?_, view_of_offStops (f := State.mem) (hf := fun _ => rfl) hframe⟩
    · rw [hcause, hrecord]
    · rw [hrecord]
    · rw [hstream]
  · have hpart := part_answerStop_setPart s p (enterFaulted (s.part p))
    refine ⟨_, exec_partitionDrainDone hdrain hnone, ?_, ?_, ?_, ?_⟩
    · rw [coresOut_part, hpart]
      rfl
    · rw [coresOut_part, hpart]
      rfl
    · rw [coresOut_part, hpart]
      rfl
    · rw [view_of_offCoreOut (f := State.mem) (hf := fun _ => rfl) (offCoreOut_coresOut _)]
      exact view_of_offStops (f := State.mem) (hf := fun _ => rfl) (offStops_answerStops (s.setPart p _) p 0)

end Sys2Proof.Machine
end

section
/-! The sequencer's answers to its row (R56 to R59, R128, R449): a row that is held, one that is refused, and one that meets
a NaN; O36 and O37. -/

namespace Sys2Proof.Machine

variable {s u v : State} {p : Fin 16} {t : StreamTag} {g : Granule} {c : StreamCmd}

/-! ### What a fetch of descriptors leaves -/

theorem readStripe_leaves_steady (side : Side) (p : Fin 16) (a n : Nat) : Op.Leaves steady (readStripe side p a n) := by
  refine .bind .get (fun s => ?_)
  split
  · exact .stop _
  · exact .pure _
  · refine .bind (.mod fun u => (steady_countPage _ _ _).trans (steady_of_parts (countAccess_parts u _ _ _ _ _))) (fun _ => ?_)
    refine .bind (.map fun b => ?_) (fun _ => .pure _)
    refine .bind (readGranule_leaves_parts _ _ _).of_parts (fun _ => .bind (.ite (.pure _) ?_) (fun _ => .pure _))
    cases side with
    | core nn => exact Op.Leaves.of_parts (.bind (crossLinks_leaves_parts _ _ _ _) (fun _ => crossLinks_leaves_parts _ _ _ _))
    | compute => exact (crossLinks_leaves_parts _ _ _ _).of_parts
    | io e => exact Op.Leaves.of_parts (.ite (.pure _)
        (.bind (crossLinks_leaves_parts _ _ _ _) (fun _ => crossLinks_leaves_parts _ _ _ _)))

theorem readMem_leaves_steady (side : Side) (p : Fin 16) (a n : Nat) : Op.Leaves steady (readMem side p a n) :=
  .bind (.map fun _ => readStripe_leaves_steady _ _ _ _) (fun _ => .pure _)

/-- The SRAM of a descriptor cache belongs to no core: an error there only asks for a proof run. -/
theorem noteSram_arrDesc (s : State) (owner granule : Nat) (bad : Bool) :
    noteSram s arrDesc owner granule bad = requestProof s 0 (sramBank arrDesc owner granule) := rfl

theorem readArray_arrDesc_leaves {α : Type} {f : State → α} (hf : ∀ s kind index, f (requestProof s kind index) = f s)
    (owner lo : Nat) (bytes : List Byte) : Op.Leaves f (readArray arrDesc owner lo bytes) := by
  have hnote : ∀ granule bad, Op.Leaves f (Op.mod fun s => noteSram s arrDesc owner granule bad) := fun granule bad =>
    .mod fun s => by rw [noteSram_arrDesc, hf]
  refine .bind .get (fun s => .ite (.pure _) (.bind (.map fun i => ?_) (fun _ => .pure _)))
  unfold readSram
  split
  · exact .pure _
  · exact .bind (hnote _ _) (fun _ => .pure _)
  · exact .bind (hnote _ _) (fun _ => .stop _)

theorem fetchDesc_leaves {α : Type} {f : State → α} (hread : ∀ a n, Op.Leaves f (readMem .compute p a n))
    (hproof : ∀ s kind index, f (requestProof s kind index) = f s)
    (hset : ∀ s keep i bs, f (setDesc s p t keep i bs) = f s)
    (hclear : ∀ s owner lo n, f (clearArray s arrDesc owner lo n) = f s) (keep : List Nat) (i : Nat) :
    Op.Leaves f (fetchDesc p t keep i) := by
  refine .bind .get (fun s => .ite (.pure _) (.ite (.bind (hread _ _) (fun bs => .mod fun u => ?_))
    (.bind (readArray_arrDesc_leaves hproof _ _ _) (fun bs => .mod fun u => hset u keep i bs))))
  rw [hclear, hset]

/-- A partition but for what a fetch of descriptors changes: the books of its memory, its trace ring and the caches. -/
def Part.uncached (x : Part) : Part :=
  { x.steady with sF := { x.steady.sF with descCache := [] }, sB := { x.steady.sB with descCache := [] },
                  sU := { x.steady.sU with descCache := [] } }

/-- What of the partitions no fetch of descriptors changes. -/
def uncached (s : State) : Fin 16 → Part := fun p => (s.part p).uncached

theorem uncached_of_steady (h : steady v = steady u) : uncached v = uncached u := by
  funext p
  have hp : (v.part p).steady = (u.part p).steady := congrFun h p
  rw [uncached, Part.uncached, hp]
  rfl

theorem uncached_setDesc (s : State) (p : Fin 16) (t : StreamTag) (keep : List Nat) (i : Nat) (bs : List Byte) :
    uncached (setDesc s p t keep i bs) = uncached s := by
  funext r
  by_cases hr : r = p
  · subst hr
    change ((s.modPart r _).part r).uncached = _
    rw [State.part_modPart_same]
    cases t <;> rfl
  · exact congrArg Part.uncached (State.part_modPart_ne s _ hr)

theorem uncached_of_fetched (h : Fetched c s p t g u) : uncached u = uncached s := by
  have hleaves : Op.Leaves uncached (Op.each (c.descs s p g) (fetchDesc p t (c.descs s p g))) :=
    .each fun i => fetchDesc_leaves (fun a n v => uncached_of_steady (readMem_leaves_steady _ _ _ _ v))
      (fun v _ _ => uncached_of_steady (steady_of_parts (requestProof_parts v _ _))) (fun v => uncached_setDesc v p t)
      (fun _ _ _ _ => rfl) _ i
  have hleft := hleaves s
  rw [show Op.exec _ s = _ from h] at hleft
  exact hleft

theorem cores_of_fetched (h : Fetched c s p t g u) : u.cores = s.cores := by
  have hleaves : Op.Leaves State.cores (Op.each (c.descs s p g) (fetchDesc p t (c.descs s p g))) :=
    .each fun i => fetchDesc_leaves
      (fun a n v => view_of_offReads (f := State.cores) (hf := fun _ => rfl) (readMem_leaves_offReads hidesShelves_nothing _ _ _ _ v))
      (fun v kind index => view_of_offReads (g := fun _ => false) (f := State.cores) (hf := fun _ => rfl)
        (offReads_requestProof v kind index))
      (fun _ _ _ _ => rfl) (fun _ _ _ _ => rfl) _ i
  have hleft := hleaves s
  rw [show Op.exec _ s = _ from h] at hleft
  exact hleft

/-- What reads the same of the uncached partitions reads the same of the partitions. -/
theorem part_view_of_uncached {α : Type} {f : Part → α} (hf : ∀ x : Part, f x.uncached = f x) (h : uncached u = uncached s)
    (p : Fin 16) : f (u.part p) = f (s.part p) := by
  rw [← hf (u.part p), ← hf (s.part p)]
  exact congrArg f (congrFun h p)

theorem pc_of_uncached (h : uncached u = uncached s) (p : Fin 16) (t : StreamTag) : (u.stream p t).pc = (s.stream p t).pc :=
  part_view_of_uncached (f := fun x => (x.stream t).pc) (fun _ => by cases t <;> rfl) h p

/-! ### Refusals -/

theorem goesOn_of_faulted {x : Part} (h : x.state = .faulted) : goesOn x = false := by simp [goesOn, h]

theorem refusedWith_refuse (hcan : canIssue s p t = true) (hfetch : uncached u = uncached s) (hcores : u.cores = s.cores)
    (g : Granule) (code : Nat) : RefusedWith s u (refuse u p t g code) p t code := by
  have hrun : (u.part p).state = .running ∨ (u.part p).state = .stopping := by
    rw [part_view_of_uncached (f := Part.state) (fun _ => rfl) hfetch p]
    exact (canIssue_state hcan).1
  have hcause : (u.part p).record = (s.part p).record := part_view_of_uncached (f := Part.record) (fun _ => rfl) hfetch p
  obtain ⟨hstream, hstate, hframe, -, hrecord⟩ := frozenBy_setStream (t := t) hrun
    (q := { u.stream p t with state := .refused, refuse := code }) (.inl rfl)
    { cmdFault (u.stream p t) t g (u.stream p t).pc with cause := 3, kind := 3, unit := 0xA, refuse := code }
  change RefusedWith s u (freeze (u.setStream p t { u.stream p t with state := .refused, refuse := code }) p
    { cmdFault (u.stream p t) t g (u.stream p t).pc with cause := 3, kind := 3, unit := 0xA, refuse := code }) p t code
  refine ⟨?_, ?_, ?_, hstate, view_of_offStops (f := State.mem) (hf := fun _ => rfl) hframe, ?_, fun hfirst => ?_⟩
  · rw [hstream]
  · rw [hstream]
  · rw [hstream]
    exact pc_of_uncached hfetch p t
  · rw [view_of_offStops (f := State.cores) (hf := fun _ => rfl) hframe, hcores]
  · rw [hrecord (hcause ▸ hfirst)]
    exact ⟨rfl, rfl, rfl⟩

/-! ### The rows -/

theorem exec_plainRow {r : Instr × StreamCmd} (hr : r ∈ plainRows p t) (s : State) : exec r.1 s = .next (issue r.2 p t s) := by
  simp only [plainRows, List.mem_cons, List.not_mem_nil, or_false] at hr
  rcases hr with rfl | rfl | rfl | rfl | rfl | rfl | rfl | rfl | rfl | rfl | rfl | rfl | rfl | rfl | rfl | rfl | rfl | rfl | rfl | rfl <;> rfl

theorem exec_vectorRow {r : Instr × Nat} (hr : r ∈ vectorRows p t) (s : State) :
    exec r.1 s = .next (issue (vopCmd r.2) p t s) := by
  simp only [vectorRows, List.mem_cons, List.not_mem_nil, or_false] at hr
  rcases hr with rfl | rfl | rfl | rfl | rfl | rfl | rfl | rfl | rfl | rfl | rfl | rfl | rfl | rfl | rfl | rfl | rfl <;> rfl

/-- What a row that a sequencer carries out comes to: its command's issue, and for two of them the partition settles. -/
theorem exec_streamRow {r : Instr × StreamCmd × (State → State)} (hr : r ∈ streamRows p t) :
    (∀ s, exec r.1 s = .next (r.2.2 (issue r.2.1 p t s))) ∧ (r.2.2 = id ∨ r.2.2 = settle p) := by
  rw [streamRows, List.mem_append, List.mem_append] at hr
  rcases hr with (hr | hr) | hr
  · obtain ⟨x, hx, rfl⟩ := List.mem_map.1 hr
    exact ⟨exec_plainRow hx, .inl rfl⟩
  · obtain ⟨x, hx, rfl⟩ := List.mem_map.1 hr
    exact ⟨exec_vectorRow hx, .inl rfl⟩
  · simp only [List.mem_cons, List.not_mem_nil, or_false] at hr
    rcases hr with rfl | rfl <;> exact ⟨fun _ => rfl, .inr rfl⟩

/-- What follows a stream row at once does nothing once the partition is FAULTED. -/
theorem afterRow_of_faulted {r : Instr × StreamCmd × (State → State)} (hr : r ∈ streamRows p t)
    (h : (s.part p).state = .faulted) : r.2.2 s = s := by
  rcases (exec_streamRow hr).2 with hid | hsettle
  · rw [hid]; rfl
  · rw [hsettle, settle_of_not_goesOn (goesOn_of_faulted h)]

/-- A row whose command is refused leaves what the refusal leaves. -/
theorem row_refuses {r : Instr × StreamCmd × (State → State)} (hr : r ∈ streamRows p t) {code : Nat}
    (hcan : canIssue s p t = true) (hfetch : uncached u = uncached s) (hcores : u.cores = s.cores) (g : Granule)
    (h : issue r.2.1 p t s = refuse u p t g code) : ∃ v, exec r.1 s = .next v ∧ RefusedWith s u v p t code := by
  have hrefused := refusedWith_refuse (t := t) hcan hfetch hcores g code
  exact ⟨refuse u p t g code, by rw [(exec_streamRow hr).1, h, afterRow_of_faulted hr hrefused.part], hrefused⟩

/-- A row whose command neither issues nor is refused changes nothing but what follows the row. -/
theorem row_holds {r : Instr × StreamCmd × (State → State)} (hr : r ∈ streamRows p t) (h : issue r.2.1 p t s = u) :
    ∃ v, exec r.1 s = .next v ∧ v = r.2.2 u :=
  ⟨_, h ▸ (exec_streamRow hr).1 s, rfl⟩

/-! ### The issue of a command, by what stands at the head of its stream -/

theorem issue_of_cannot (h : canIssue s p t = false) : issue c p t s = s := by
  rw [issue, if_neg (by simp [h])]

theorem issue_of_unread (hcan : canIssue s p t = true) (hhead : (s.stream p t).head = none) :
    issue c p t s = refuse s p t 0#256 6 := by
  rw [issue, if_pos hcan, hhead]

theorem issue_of_head (hcan : canIssue s p t = true) (hhead : (s.stream p t).head = some g) :
    issue c p t s = if waitPending (s.stream p t) g then s
      else if !opcodeKnown (cOpcode g) then refuse s p t g 1
      else if cOpcode g = 0x30 && !vopFuncs.contains (vFunc g) then refuse s p t g 3
      else if !c.matches_ g then s
      else if held (s.part p) t g && !pairBad (s.part p) t g then s
      else checkHead c p t g s := by
  rw [issue, if_pos hcan, hhead]

theorem checkHead_of_early {code : Nat} (h : firstCode (earlyChecks (s.part p) t g) = some code) :
    checkHead c p t g s = refuse s p t g code := by
  rw [checkHead, h]

/-- A command whose descriptors are fetched is refused with the first further code that it fails, or held, or issues. -/
theorem issue_of_fetched (h : AtHead c s p t g) (hfetch : Fetched c s p t g u) :
    issue c p t s = match firstCode (failedChecks c u p t g) with
      | some code => refuse u p t g code
      | none => if c.hold u p t g then u else issueNow c u p t g := by
  rw [issue_of_offered h.toOffered, if_neg (by simp [h.free]), checkHead, h.early, show firstCode [] = none from rfl]
  rw [Fetched] at hfetch
  simp only [hfetch]
  rfl

/-- Settles O36: each clause names the branch of the issue that the head of the stream takes. -/
theorem streamRowsHeldAndRefused : Obligations.StreamRowsHeldAndRefused := by
  intro s u p t g code r hr
  refine ⟨fun hcan => row_holds hr (issue_of_cannot hcan), fun hcan hhead => ?_, fun hcan hhead hwait => ?_,
    fun hcan hhead hwait hop => ?_, fun hcan hhead hwait hop hfunc => ?_, fun hoff hheld => ?_, fun hoff hheld hcode => ?_,
    fun hat hfetch hcode => ?_, fun hat hfetch hpass hhold => ?_⟩
  · exact row_refuses hr hcan rfl rfl _ (issue_of_unread hcan hhead)
  · exact row_holds hr (by rw [issue_of_head hcan hhead, if_pos hwait])
  · exact row_refuses hr hcan rfl rfl _ (by rw [issue_of_head hcan hhead, if_neg (by simp [hwait]), if_pos (by simp [hop])])
  · have hknown : opcodeKnown (cOpcode g) = true := by rw [hop]; decide
    exact row_refuses hr hcan rfl rfl _ (by rw [issue_of_head hcan hhead, if_neg (by simp [hwait]), if_neg (by simp [hknown]),
      if_pos (by simp only [hop, hfunc]; decide)])
  · exact row_holds hr (by rw [issue_of_offered hoff, if_pos hheld])
  · exact row_refuses hr hoff.can rfl rfl _ (by rw [issue_of_offered hoff, if_neg (by simp [hheld]), checkHead_of_early hcode])
  · exact row_refuses hr hat.can (uncached_of_fetched hfetch) (cores_of_fetched hfetch) _
      (by rw [issue_of_fetched hat hfetch, hcode])
  · exact row_holds hr (by rw [issue_of_fetched hat hfetch, hpass]; exact if_pos hhold)

end Sys2Proof.Machine
end

section
/-! A command that stops on NaN inside its effect (R128, R129, R449, R451): the faults recorded, and the drain; O37. -/

namespace Sys2Proof.Machine

variable {s u : State} {p : Fin 16} {t : StreamTag} {g : Granule} {c : StreamCmd}

/-- The fault of one stopped core, and the further ones of its command (R129, R451). -/
def recordStop (q : Stream) (p : Fin 16) (t : StreamTag) (g : Granule) (pc : Nat) (s : State) (e : Trap) : State :=
  moreFaults (recordFault s p (trapFault q t g pc e)) p e.more

/-- A state but for the fault record of Pp. -/
def unrecorded (p : Fin 16) (s : State) : State := s.modPart p (fun x => { x with record := FaultRec.none })

/-- The kind of fault that the record of Pp holds, and of which cause. -/
def faultKind (p : Fin 16) (s : State) : Nat × Nat := ((s.part p).record.cause, (s.part p).record.kind)

theorem unrecorded_modPart (s : State) {f : Part → Part}
    (hf : ∀ x, { f x with record := FaultRec.none } = { x with record := FaultRec.none }) :
    unrecorded p (s.modPart p f) = unrecorded p s := by
  have hset : unrecorded p (s.modPart p f) = s.setPart p { f (s.part p) with record := FaultRec.none } := by
    rw [unrecorded, State.modPart, State.modPart, State.part_setPart_same]
    exact congrArg (fun parts => { s with parts := parts }) (Vector.set_set ..)
  rw [hset, hf]
  rfl

theorem unrecorded_moreFaults (s : State) (n : Nat) : unrecorded p (moreFaults s p n) = unrecorded p s := by
  unfold moreFaults
  exact unrecorded_modPart s fun _ => rfl

theorem unrecorded_recordFault (s : State) (r : FaultRec) : unrecorded p (recordFault s p r) = unrecorded p s := by
  unfold recordFault
  exact unrecorded_modPart s fun x => by split <;> rfl

theorem unrecorded_recordStop (q : Stream) (pc : Nat) (s : State) (e : Trap) :
    unrecorded p (recordStop q p t g pc s e) = unrecorded p s :=
  (unrecorded_moreFaults _ _).trans (unrecorded_recordFault s _)

theorem unrecorded_foldl_recordStop (q : Stream) (pc : Nat) (es : List Trap) (s : State) :
    unrecorded p (es.foldl (recordStop q p t g pc) s) = unrecorded p s :=
  foldl_view (unrecorded p) (unrecorded_recordStop q pc) es s

theorem view_of_unrecorded {α : Type} {f : State → α} (hf : ∀ s, f (unrecorded p s) = f s)
    (h : unrecorded p u = unrecorded p s) : f u = f s := by rw [← hf u, h, hf]

theorem record_recordStop (q : Stream) (pc : Nat) (s : State) (e : Trap) :
    ((recordStop q p t g pc s e).part p).record =
      { (((s.part p).recorded s.tick (trapFault q t g pc e)).record) with
        further := satAdd32 ((s.part p).recorded s.tick (trapFault q t g pc e)).record.further e.more } := by
  rw [recordStop, moreFaults, State.part_modPart_same, part_recordFault]

/-- A record that holds a fault keeps it. -/
theorem faultKind_recordStop_of_held (q : Stream) (pc : Nat) (e : Trap) (h : (s.part p).record.cause ≠ 0) :
    faultKind p (recordStop q p t g pc s e) = faultKind p s := by
  rw [faultKind, record_recordStop, Part.recorded, if_neg h]
  rfl

theorem faultKind_foldl_of_held (q : Stream) (pc : Nat) (es : List Trap) (h : (s.part p).record.cause ≠ 0) :
    faultKind p (es.foldl (recordStop q p t g pc) s) = faultKind p s := by
  induction es generalizing s with
  | nil => rfl
  | cons e es ih =>
    have hkind := faultKind_recordStop_of_held (t := t) (g := g) q pc e h
    have hcause : ((recordStop q p t g pc s e).part p).record.cause = (s.part p).record.cause := congrArg Prod.fst hkind
    rw [List.foldl_cons, ih (hcause ▸ h), hkind]

/-- A free record takes the first stop, if it is a NaN (Table 18-2), whatever other cores met. -/
theorem faultKind_foldl_of_nan (q : Stream) (pc : Nat) {e : Trap} (es : List Trap) {k : TrapKind} (he : e.stop = .nan k)
    (h : (s.part p).record.cause = 0) : faultKind p ((e :: es).foldl (recordStop q p t g pc) s) = (2, k.code) := by
  have hfirst : faultKind p (recordStop q p t g pc s e) = (2, k.code) := by
    rw [faultKind, record_recordStop, Part.recorded_of_first h, trapFault, he]
  have hheld : ((recordStop q p t g pc s e).part p).record.cause ≠ 0 := by
    rw [show ((recordStop q p t g pc s e).part p).record.cause = 2 from congrArg Prod.fst hfirst]
    decide
  rw [List.foldl_cons, faultKind_foldl_of_held q pc es hheld, hfirst]

theorem trapCommand_of_nan {e : Trap} {es : List Trap} {k : TrapKind} (he : e.stop = .nan k) (pc : Nat) :
    trapCommand s p t g pc (e :: es) =
      startDrain (stopStream ((e :: es).foldl (recordStop (s.stream p t) p t g pc) s) p t) p := by
  simp only [trapCommand, he]
  rfl

/-- The partition that a stopped stream leaves draining. -/
theorem part_startDrain_stopStream (hrun : (s.part p).state = .running ∨ (s.part p).state = .stopping) :
    (startDrain (stopStream s p t) p).part p =
      { (s.part p).setStream t { s.stream p t with state := .faulted, mute := true } with draining := true } := by
  have hstop : (stopStream s p t).part p = (s.part p).setStream t { s.stream p t with state := .faulted, mute := true } :=
    part_setStream s p t _
  have hrun : ((stopStream s p t).part p).state = .running ∨ ((stopStream s p t).part p).state = .stopping := by
    rw [hstop]
    cases t <;> exact hrun
  rw [startDrain, State.part_modPart_same, if_pos hrun, hstop]

/-- Settles O37: the issue ends in the command's traps, of which the first is recorded. -/
theorem streamRowsTrap : Obligations.StreamRowsTrap := by
  intro s u p t g e x xs k r hr hready he htraps hstop hrun
  have hissue : issue r.2.1 p t s = trapCommand e.state p t g (u.stream p t).pc (x :: xs) := by
    rw [issue_of_ready hready, issueNow]
    change issueEnd r.2.1 u p t g (effectOf r.2.1 u p t g) = _
    rw [← he, issueEnd, htraps]
  have hview := unrecorded_foldl_recordStop (p := p) (t := t) (g := g) (e.state.stream p t) (u.stream p t).pc (x :: xs) e.state
  generalize hw : (x :: xs).foldl (recordStop (e.state.stream p t) p t g (u.stream p t).pc) e.state = w at hview
  have hpart : ∀ {α : Type} (f : Part → α) (_ : ∀ y, f { y with record := FaultRec.none } = f y),
      f (w.part p) = f (e.state.part p) := fun f hf =>
    view_of_unrecorded (f := fun v => f (v.part p)) (fun v => by rw [unrecorded, State.part_modPart_same, hf]) hview
  have hdrain := part_startDrain_stopStream (s := w) (p := p) (t := t) (by rw [hpart Part.state fun _ => rfl]; exact hrun)
  refine ⟨_, (exec_streamRow hr).1 s, _, rfl, ?_⟩
  rw [hissue, trapCommand_of_nan hstop, hw]
  refine ⟨?_, by rw [hdrain], view_of_unrecorded (u := w) (p := p) (f := State.mem) (fun _ => rfl) hview,
    view_of_unrecorded (u := w) (p := p) (f := State.cores) (fun _ => rfl) hview, ?_,
    fun hfirst => ?_⟩
  · rw [State.stream, hdrain]
    cases t <;> rfl
  · rw [State.stream, hdrain]
    refine Eq.trans ?_ (hpart (fun y => (y.stream t).flight) fun y => by cases t <;> rfl)
    cases t <;> rfl
  · have hkind := faultKind_foldl_of_nan (t := t) (g := g) (e.state.stream p t) (u.stream p t).pc xs hstop hfirst
    rw [hw] at hkind
    have hrecord : ((startDrain (stopStream w p t) p).part p).record = (w.part p).record := by
      rw [hdrain]
      cases t <;> rfl
    rw [hrecord]
    exact ⟨congrArg Prod.fst hkind, congrArg Prod.snd hkind⟩

end Sys2Proof.Machine
end

section
/-! The command that arrives at the head of a stream (R54, R55): how a read of memory can stop, and what the arrival leaves. -/

namespace Sys2Proof.Machine

variable {s u : State} {p : Fin 16} {t : StreamTag}

/-! ### How work stops -/

/-- Every stop of the work is of a kind. -/
def Op.StopsIn {β : Type} (P : Stop → Prop) (m : Op β) : Prop := ∀ s e u, Op.exec m s = (.error e, u) → P e.stop

section
variable {β γ : Type} {P : Stop → Prop}

theorem Op.StopsIn.pure (b : β) : Op.StopsIn P (Pure.pure b : Op β) := fun _ _ _ h => by cases h

theorem Op.StopsIn.get : Op.StopsIn P Op.get := fun _ _ _ h => by cases h

theorem Op.StopsIn.mod (h : State → State) : Op.StopsIn P (Op.mod h) := fun _ _ _ h => by cases h

theorem Op.StopsIn.stop {st : Stop} (h : P st) : Op.StopsIn P (Op.stop st : Op β) := fun _ _ _ he => by cases he; exact h

theorem Op.StopsIn.bind {m : Op β} {k : β → Op γ} (hm : Op.StopsIn P m) (hk : ∀ b, Op.StopsIn P (k b)) :
    Op.StopsIn P (m >>= k) := by
  intro s e u h
  rw [Op.exec_bind] at h
  split at h
  · exact hk _ _ _ _ h
  · next he =>
    cases h
    exact hm _ _ _ he

theorem Op.StopsIn.ite {m n : Op β} {c : Prop} [Decidable c] (hm : Op.StopsIn P m) (hn : Op.StopsIn P n) :
    Op.StopsIn P (if c then m else n) := by split <;> assumption

theorem Op.StopsIn.map {l : List β} {k : β → Op γ} (hk : ∀ b, Op.StopsIn P (k b)) : Op.StopsIn P (Op.map l k) := by
  induction l with
  | nil => exact .pure _
  | cons b l ih => exact .bind (hk b) (fun _ => .bind ih (fun _ => .pure _))

end

/-- The stops of a read: data that does not come (cause 0x1), and an address outside the partition's range. -/
def Stop.ofRead : Stop → Prop
  | .mem .. => True
  | .refused _ => True
  | _ => False

theorem crossLinks_stops (keys : List Nat) (place dev : Nat) (data : List Byte) :
    Op.StopsIn Stop.ofRead (crossLinks keys place dev data) := by
  refine .bind .get (fun s => .ite (.pure _) (.bind (.mod _) (fun _ => ?_)))
  split
  · exact .pure _
  · exact .bind (.mod _) (fun _ => .pure _)
  · exact .bind (.mod _) (fun _ => .stop trivial)

theorem crossIn_stops (side : Side) (die dev : Nat) (data : List Byte) : Op.StopsIn Stop.ofRead (crossIn side die dev data) := by
  cases side with
  | core nn => exact .bind (crossLinks_stops _ _ _ _) (fun _ => crossLinks_stops _ _ _ _)
  | compute => exact crossLinks_stops _ _ _ _
  | io e => exact .ite (.pure _) (.bind (crossLinks_stops _ _ _ _) (fun _ => crossLinks_stops _ _ _ _))

theorem burstMask_stops (id ofs : Nat) : Op.StopsIn Stop.ofRead (burstMask id ofs) :=
  .bind .get (fun _ => .ite (.pure _) (.bind (.mod _) (fun _ => .ite (.pure _) (.bind (.mod _) (fun _ => .pure _)))))

theorem readGranule_stops (id ofs dev : Nat) : Op.StopsIn Stop.ofRead (readGranule id ofs dev) := by
  refine .bind .get (fun s => .ite (.bind (.mod _) (fun _ => .stop trivial))
    (.ite (.stop trivial) (.bind (burstMask_stops _ _) (fun burst => ?_))))
  split
  · exact .pure _
  · exact .bind (.mod _) (fun _ => .pure _)
  · exact .bind (.mod _) (fun _ => .stop trivial)

theorem readStripe_stops (side : Side) (p : Fin 16) (a n : Nat) : Op.StopsIn Stop.ofRead (readStripe side p a n) := by
  refine .bind .get (fun s => ?_)
  split
  · exact .stop trivial
  · exact .pure _
  · exact .bind (.mod _) (fun _ => .bind (.map fun _ => .bind (readGranule_stops _ _ _) (fun _ =>
      .bind (.ite (.pure _) (crossIn_stops _ _ _ _)) (fun _ => .pure _))) (fun _ => .pure _))

theorem readMem_stops (side : Side) (p : Fin 16) (a n : Nat) : Op.StopsIn Stop.ofRead (readMem side p a n) :=
  .bind (.map fun _ => readStripe_stops _ _ _ _) (fun _ => .pure _)

/-! ### What lasts of a partition -/

/-- A stream but for whether and how it goes on, and the command at its head. -/
def Stream.lasting (q : Stream) : Stream := { q with state := .running, refuse := 0, head := none, waitMet := false, mute := false }

/-- A partition but for its steady books, how its streams go on, and its faults: what no arrival of a command changes. -/
def Part.lasting (x : Part) : Part :=
  { x.steady with record := FaultRec.none, draining := false, sF := x.steady.sF.lasting, sB := x.steady.sB.lasting,
                  sU := x.steady.sU.lasting }

/-- What lasts of every partition. -/
def lasting (s : State) : Fin 16 → Part := fun p => (s.part p).lasting

theorem Part.lasting_stream (x : Part) (t : StreamTag) : x.lasting.stream t = (x.stream t).lasting := by
  cases t <;> rfl

theorem Part.lasting_setStream {x y : Part} (h : x.lasting = y.lasting) {q r : Stream} (hq : q.lasting = r.lasting)
    (t : StreamTag) : (x.setStream t q).lasting = (y.setStream t r).lasting := by
  have hset : ∀ (z : Part) (o : Stream), (z.setStream t o).lasting = z.lasting.setStream t o.lasting := fun z o => by
    cases t <;> rfl
  rw [hset, hset, h, hq]

theorem Part.setStream_stream (x : Part) (t : StreamTag) : x.setStream t (x.stream t) = x := by
  cases t <;> rfl

theorem lasting_of_steady (h : steady u = steady s) : lasting u = lasting s := by
  funext p
  have hp : (u.part p).steady = (s.part p).steady := congrFun h p
  rw [lasting, Part.lasting, hp]
  rfl

theorem lasting_modPart (s : State) (p : Fin 16) {f : Part → Part} (hf : ∀ x, (f x).lasting = x.lasting) :
    lasting (s.modPart p f) = lasting s := funext (part_modPart_view hf s p)

theorem lasting_modStream (s : State) (p : Fin 16) (t : StreamTag) {f : Stream → Stream}
    (hf : ∀ q, (f q).lasting = q.lasting) : lasting (s.modStream p t f) = lasting s := by
  funext r
  by_cases hr : r = p
  · subst hr
    change ((s.modPart r _).part r).lasting = _
    rw [State.part_modPart_same, Part.lasting_setStream rfl (hf _)]
    exact congrArg Part.lasting (Part.setStream_stream _ t)
  · exact congrArg Part.lasting (State.part_modPart_ne s _ hr)

/-- What is read alike of what lasts is read alike of the partition. -/
theorem part_view_of_lasting {α : Type} {f : Part → α} (hf : ∀ x : Part, f x.lasting = f x) (h : lasting u = lasting s)
    (p : Fin 16) : f (u.part p) = f (s.part p) := by
  rw [← hf (u.part p), ← hf (s.part p)]
  exact congrArg f (congrFun h p)

theorem stream_view_of_lasting {α : Type} {f : Stream → α} (hf : ∀ q : Stream, f q.lasting = f q) (h : lasting u = lasting s)
    (p : Fin 16) (t : StreamTag) : f (u.stream p t) = f (s.stream p t) :=
  part_view_of_lasting (f := fun x => f (x.stream t)) (fun x => by rw [Part.lasting_stream, hf]) h p

/-! ### Faults of cause 0x1 -/

theorem lasting_of_unrecorded (h : unrecorded p u = unrecorded p s) : lasting u = lasting s := by
  have hu : ∀ v, lasting (unrecorded p v) = lasting v := fun v => lasting_modPart v p fun _ => rfl
  rw [← hu u, h, hu]

theorem offReads_of_unrecorded {g : Nat → Bool} (h : unrecorded p u = unrecorded p s) : offReads g u = offReads g s :=
  view_of_unrecorded (p := p) (f := offReads g) (fun _ => rfl) h

theorem trapCommand_of_mem {e : Trap} {kind place addr chan : Nat} (he : e.stop = .mem kind place addr chan) (g : Granule)
    (pc : Nat) : trapCommand s p t g pc [e] = startDrain (stopStream (recordStop (s.stream p t) p t g pc s e) p t) p := by
  simp only [trapCommand, he]
  rfl

theorem lasting_stopStream_startDrain (s : State) : lasting (startDrain (stopStream s p t) p) = lasting s := by
  have hdrain : lasting (startDrain (stopStream s p t) p) = lasting (stopStream s p t) :=
    lasting_modPart _ p fun x => by split <;> rfl
  exact hdrain.trans (lasting_modStream s p t fun _ => rfl)

/-! ### The arrival -/

/-- What reads, new heads and faults of cause 0x1 leave, an arrival leaves. -/
theorem arrive_leaves {α : Type} {f : State → α} (hread : ∀ a n, Op.Leaves f (readMem .compute p a n))
    (hhead : ∀ (s : State) (k : Stream → Stream), (∀ q, (k q).lasting = q.lasting) → f (s.modStream p t k) = f s)
    (hfault : ∀ s e pc, f (startDrain (stopStream (recordStop (s.stream p t) p t 0#256 pc s e) p t) p) = f s) (s : State) :
    f (arrive s p t) = f s := by
  have hleft := hread (s.stream p t).pc 32 s
  unfold arrive
  dsimp only
  split
  · rfl
  · split
    · next w he =>
      rw [he] at hleft
      refine (hhead w _ ?_).trans hleft
      exact fun _ => rfl
    · next e w he =>
      rw [he] at hleft
      have hstop := readMem_stops _ _ _ _ _ _ _ he
      split
      · refine (hhead w _ ?_).trans hleft
        exact fun _ => rfl
      · next hnot =>
        obtain ⟨stop, unit, core, tile, elem, more⟩ := e
        cases stop with
        | mem kind place addr chan =>
          rw [trapCommand_of_mem rfl, hfault]
          refine (hhead w _ ?_).trans hleft
          exact fun _ => rfl
        | refused code => exact absurd rfl (hnot code)
        | nan _ | waits _ | shed | broken _ _ => cases hstop

theorem offReads_modPart (g : Nat → Bool) (s : State) (p : Fin 16) (f : Part → Part) :
    offReads g (s.modPart p f) = offReads g s := by
  unfold State.modPart State.setPart
  rfl

theorem offReads_startDrain_stopStream (g : Nat → Bool) (s : State) :
    offReads g (startDrain (stopStream s p t) p) = offReads g s :=
  (offReads_modPart g _ p _).trans (offReads_modPart g s p _)

theorem offReads_arrive {g : Nat → Bool} (hg : HidesShelves g) (s : State) : offReads g (arrive s p t) = offReads g s :=
  arrive_leaves (fun _ _ => readMem_leaves_offReads hg _ _ _ _) (fun s _ _ => offReads_modPart g s p _)
    (fun s e _ => (offReads_startDrain_stopStream g _).trans
      (offReads_of_unrecorded (unrecorded_recordStop _ _ s e))) s

theorem lasting_arrive (s : State) : lasting (arrive s p t) = lasting s :=
  arrive_leaves (fun _ _ v => lasting_of_steady (readMem_leaves_steady _ _ _ _ v))
    (fun s _ hk => lasting_modStream s p t hk)
    (fun s e _ => (lasting_stopStream_startDrain _).trans (lasting_of_unrecorded (unrecorded_recordStop _ _ s e))) s

end Sys2Proof.Machine
end

section
/-! The issue of a command (R56, R60, R85): what it leaves before its effect, and after an effect that met no stop. -/

namespace Sys2Proof.Machine

variable {s u v : State} {p : Fin 16} {t : StreamTag} {g : Granule} {c : StreamCmd}

/-! ### What an issue leaves of everything but the partitions -/

/-- The state but for what counts, traces, signals and the fetch of commands write. -/
def offIssue (s : State) : State := { offWrites (fun _ => false) s with so := [] }

theorem view_of_offIssue {α : Type} {f : State → α} (hf : ∀ s, f (offIssue s) = f s := by exact fun _ => rfl)
    (h : offIssue u = offIssue s) : f u = f s := by rw [← hf u, h, hf]

theorem offIssue_of_offWrites (h : offWrites (fun _ => false) u = offWrites (fun _ => false) s) : offIssue u = offIssue s :=
  congrArg (fun w : State => { w with so := [] }) h

theorem offIssue_of_offReads (h : offReads (fun _ => false) u = offReads (fun _ => false) s) : offIssue u = offIssue s :=
  offIssue_of_offWrites (offWrites_of_offReads h)

theorem offIssue_of_offSignals (h : offSignals u = offSignals s) : offIssue u = offIssue s :=
  view_of_offSignals (f := offIssue) (hf := fun _ => rfl) h

theorem offIssue_bump (s : State) (lo : Nat) (ovf : Option (Nat × Nat)) (n : Nat) : offIssue (bump s lo ovf n) = offIssue s :=
  offIssue_of_offReads (offReads_bump rfl (fun _ _ => rfl) s n)

theorem offIssue_putTrace (s : State) (p : Fin 16) (r : TraceRec) : offIssue (putTrace s p r) = offIssue s :=
  offIssue_of_offWrites (offWrites_putTrace hidesTraces_nothing s p r)

theorem offIssue_modPart (s : State) (p : Fin 16) (f : Part → Part) : offIssue (s.modPart p f) = offIssue s :=
  offIssue_of_offReads (offReads_modPart _ s p f)

theorem offIssue_applySignal (s : State) (n : Nat) (op : SigOp) (amount : Word) :
    offIssue (applySignal s n op amount) = offIssue s := offIssue_of_offSignals (offSignals_applySignal s n op amount)

theorem offIssue_wrapCounter (s : State) (q : Option (Fin 16)) (r : Option StreamTag) (nn j : Nat) :
    offIssue (wrapCounter s q r nn j) = offIssue s := by
  have hpost : offIssue (postBit s (cntBase nn j + 4) 15) = offIssue s := offIssue_of_offReads (offReads_postBit rfl s _)
  unfold wrapCounter
  dsimp only
  split
  · split
    · split
      · rw [offIssue_applySignal, offIssue_putTrace, hpost]
      · rw [offIssue_putTrace, hpost]
    · exact hpost
  · exact hpost

theorem offIssue_addCounter (q : Option (Fin 16)) (r : Option StreamTag) (nn j fuel n : Nat) (s : State) :
    offIssue (addCounter q r nn j fuel n s) = offIssue s := by
  have hcount : ∀ (s : State) (lo v : Nat), offIssue { s with counts := Sparse.set 0 s.counts lo v } = offIssue s := fun s _ v =>
    offIssue_of_offReads (offReads_counts rfl s v)
  induction fuel generalizing n s with
  | zero => exact hcount _ _ _
  | succ fuel ih =>
    rw [addCounter]
    split
    · exact hcount _ _ _
    · rw [ih, offIssue_wrapCounter]

theorem offIssue_countCores (s : State) (p : Fin 16) (t : StreamTag) (g : Granule) (code n : Nat) :
    offIssue (countCores s p t g code n) = offIssue s :=
  foldl_view offIssue (fun u nn => foldl_view offIssue (fun w j => by
    split
    · exact offIssue_addCounter _ _ _ _ _ _ _
    · rfl) _ u) _ s

theorem offIssue_countWait (s : State) (p : Fin 16) (t : StreamTag) (g : Granule) : offIssue (countWait s p t g) = offIssue s := by
  unfold countWait
  split
  · rfl
  · exact offIssue_countCores _ _ _ _ _ _

theorem offIssue_countBusy (s : State) (p : Fin 16) (g : Granule) : offIssue (countBusy s p g) = offIssue s := by
  unfold countBusy
  split
  · exact offIssue_bump { s with freeCount := s.freeCount + 1 } _ _ _
  · rfl

theorem offIssue_issueHead (c : StreamCmd) (s : State) (p : Fin 16) (t : StreamTag) (g : Granule) :
    offIssue (issueHead c s p t g) = offIssue s := by
  unfold issueHead
  dsimp only
  rw [modRefs, offIssue_modPart]
  split
  · rw [offIssue_putTrace, offIssue_countBusy, offIssue_countWait, offIssue_countCores, offIssue_modPart, State.setStream,
      offIssue_modPart]
  · rw [offIssue_countBusy, offIssue_countWait, offIssue_countCores, offIssue_modPart, State.setStream, offIssue_modPart]

/-! ### What an issue makes of its stream -/

theorem steady_issueHead (c : StreamCmd) (s : State) (p : Fin 16) (t : StreamTag) (g : Granule) :
    steady (issueHead c s p t g) = steady ((s.setStream p t (advance (s.stream p t) g)).modPart p
      (fun x => { x with nextSeq := (s.part p).nextSeq + 1 })) := by
  unfold issueHead
  dsimp only
  rw [steady_modRefs]
  split
  · rw [steady_putTrace, steady_countBusy, steady_countWait, steady_countCores]
  · rw [steady_countBusy, steady_countWait, steady_countCores]

/-- Before its effect, an issue advances the stream, counts the number of its flight, and leaves what else lasts. -/
theorem part_view_issueHead {α : Type} {f : Part → α} (hf : ∀ x : Part, f x.lasting = f x)
    (hset : ∀ (x : Part) (q : Stream), f (x.setStream t q) = f x) (hseq : ∀ (x : Part) n, f { x with nextSeq := n } = f x) :
    f ((issueHead c s p t g).part p) = f (s.part p) := by
  rw [part_view_of_lasting hf (lasting_of_steady (steady_issueHead c s p t g)), State.part_modPart_same, hseq, part_setStream, hset]

theorem lasting_stream_issueHead : ((issueHead c s p t g).stream p t).lasting = (advance (s.stream p t) g).lasting := by
  have hstream := stream_view_of_lasting (f := Stream.lasting) (fun _ => rfl)
    (lasting_of_steady (steady_issueHead c s p t g)) p t
  have hset : ∀ n, ((s.setStream p t (advance (s.stream p t) g)).modPart p (fun x => { x with nextSeq := n })).stream p t =
      advance (s.stream p t) g := fun n => by
    rw [State.stream, State.part_modPart_same, part_setStream]
    cases t <;> rfl
  rw [hstream, hset]

theorem stream_view_issueHead {α : Type} {f : Stream → α} (hf : ∀ q : Stream, f q.lasting = f q) :
    f ((issueHead c s p t g).stream p t) = f (advance (s.stream p t) g) := by
  rw [← hf, lasting_stream_issueHead, hf]

/-- The command that issues stands where its stream stood before its descriptors were fetched. -/
theorem pc_issueHead (h : Fetched c s p t g u) : ((issueHead c u p t g).stream p t).pc = (s.stream p t).pc + 32 := by
  rw [stream_view_issueHead (f := Stream.pc) (fun _ => rfl), ← pc_of_uncached (uncached_of_fetched h) p t]
  rfl

theorem stream_of_uncached {α : Type} {f : Stream → α} (hf : ∀ q : Stream, f { q.steady with descCache := [] } = f q)
    (h : uncached u = uncached s) (p : Fin 16) (t : StreamTag) : f (u.stream p t) = f (s.stream p t) :=
  part_view_of_uncached (f := fun x => f (x.stream t)) (fun x => by cases t <;> exact hf _) h p

theorem issued_issueHead (h : Fetched c s p t g u) :
    ((issueHead c u p t g).stream p t).issued = ((s.stream p t).issued + 1) % 2 ^ 48 := by
  rw [stream_view_issueHead (f := Stream.issued) (fun _ => rfl),
    ← stream_of_uncached (f := Stream.issued) (fun _ => rfl) (uncached_of_fetched h) p t]
  rfl

/-! ### After the effect -/

theorem lasting_modStream_congr (h : lasting v = lasting u) {k l : Stream → Stream}
    (hk : (k (v.stream p t)).lasting = (l (u.stream p t)).lasting) :
    lasting (v.modStream p t k) = lasting (u.modStream p t l) := by
  funext r
  by_cases hr : r = p
  · subst hr
    change ((v.modPart r _).part r).lasting = ((u.modPart r _).part r).lasting
    rw [State.part_modPart_same, State.part_modPart_same]
    exact Part.lasting_setStream (congrFun h r) hk t
  · exact (congrArg Part.lasting (State.part_modPart_ne v _ hr)).trans
      ((congrFun h r).trans (congrArg Part.lasting (State.part_modPart_ne u _ hr)).symm)

theorem modStream_modStream (s : State) (p : Fin 16) (t : StreamTag) (k l : Stream → Stream) :
    (s.modStream p t k).modStream p t l = s.modStream p t (fun q => l (k q)) := by
  have hset : ∀ (x : Part) (q r : Stream), (x.setStream t q).setStream t r = x.setStream t r := fun x q r => by cases t <;> rfl
  change State.modPart _ p (fun x => x.setStream t (l ((s.modStream p t k).stream p t))) = _
  rw [State.stream_modStream_same]
  change (s.setPart p _).setPart p ((((s.modStream p t k)).part p).setStream t (l (k (s.stream p t)))) = _
  rw [show (s.modStream p t k).part p = (s.part p).setStream t (k (s.stream p t)) from part_setStream s p t _, hset]
  exact congrArg (fun parts => { s with parts := parts }) (Vector.set_set ..)

/-- The flights of a stream once what is finished left. -/
def popped (q : Stream) : Stream := { q with flight := (popFlights false q.flight).1 }

theorem lasting_settleSignals (h : lasting v = lasting u) :
    lasting (settleSignals v p t) = lasting (u.modStream p t popped) := by
  refine (lasting_of_steady (steady_foldl_applyFlight _ _)).trans (lasting_modStream_congr h ?_)
  have hflight := stream_view_of_lasting (f := Stream.flight) (fun _ => rfl) h p t
  have hstream := stream_view_of_lasting (f := Stream.lasting) (fun _ => rfl) h p t
  rw [hflight]
  exact congrArg (fun q : Stream => { q with flight := (popFlights false (u.stream p t).flight).1 }) hstream

theorem offSignals_settleSignals (s : State) (p : Fin 16) (t : StreamTag) : offSignals (settleSignals s p t) = offSignals s :=
  (offSignals_foldl_applyFlight _ _).trans rfl

theorem mem_popFlights {f : Flight} {fs : List Flight} (hf : f ∈ fs) (hd : f.done = false) (blocked : Bool) :
    f ∈ (popFlights blocked fs).1 := by
  induction fs generalizing blocked with
  | nil => cases hf
  | cons e fs ih =>
    rcases List.mem_cons.mp hf with rfl | hmem
    · simp [popFlights, hd]
    · have hrest := ih hmem
      unfold popFlights
      dsimp only
      split
      · split
        · exact hrest _
        · split
          · exact List.mem_cons_of_mem _ (hrest _)
          · exact hrest _
      · exact List.mem_cons_of_mem _ (hrest _)

/-- A stream that a flight joined. -/
def joined (q : Stream) (f : Flight) : Stream := { q with flight := q.flight ++ [f] }

/-- The end of an issue that met no stop: the flight joins, perhaps traced, signals settle, and the next command arrives. -/
theorem issueEnd_of_no_traps {e : Effect} (h : e.traps = []) :
    issueEnd c s p t g e = arrive (settleSignals
      (if (issuedFlight c s p t g e).done && cTrace g then
        putTrace (e.state.modStream p t (joined · (issuedFlight c s p t g e))) p
          { cmdTrace (s.stream p t) t g with kind := 2, data := traceData ((e.state.modStream p t
            (joined · (issuedFlight c s p t g e))).stream p t) (s.stream p t).pc }
      else e.state.modStream p t (joined · (issuedFlight c s p t g e))) p t) p t := by
  rw [issueEnd, h]
  rfl

/-- A command that issued and met no stop is in flight, and what else lasts of its effect is left. -/
theorem lasting_issueEnd {e : Effect} (h : e.traps = []) :
    lasting (issueEnd c s p t g e) =
      lasting (e.state.modStream p t (fun q => popped (joined q (issuedFlight c s p t g e)))) := by
  rw [issueEnd_of_no_traps h, lasting_arrive, ← modStream_modStream e.state p t (joined · (issuedFlight c s p t g e)) popped]
  refine lasting_settleSignals ?_
  split
  · rw [lasting_of_steady (steady_putTrace _ _ _)]
  · rfl

theorem offIssue_issueEnd {e : Effect} (h : e.traps = []) : offIssue (issueEnd c s p t g e) = offIssue e.state := by
  rw [issueEnd_of_no_traps h, offIssue_of_offReads (offReads_arrive hidesShelves_nothing _),
    offIssue_of_offSignals (offSignals_settleSignals _ _ _)]
  split
  · rw [offIssue_putTrace]
    exact offIssue_modPart _ p _
  · exact offIssue_modPart _ p _

/-- Where no trace is asked for, the end of an issue leaves the shelves. -/
theorem mem_issueEnd_of_untraced {e : Effect} (h : e.traps = []) (hg : cTrace g = false) :
    (issueEnd c s p t g e).mem = e.state.mem := by
  rw [issueEnd_of_no_traps h, view_of_offReads (f := State.mem) (hf := fun _ => rfl) (offReads_arrive hidesShelves_nothing _),
    view_of_offSignals (f := State.mem) (hf := fun _ => rfl) (offSignals_settleSignals _ _ _), hg, Bool.and_false]
  rfl

/-! ### A command that issued -/

/-- What a command that issues with an effect that met no stop leaves. -/
theorem issued_of_ready {e : Effect} (h : Ready c s p t g u) (he : effectOf c u p t g = e) (htraps : e.traps = []) :
    Issued c s u p t g e (issueNow c u p t g) := by
  obtain rfl := he
  have hout : issueNow c u p t g = issueEnd c u p t g (effectOf c u p t g) := rfl
  generalize effectOf c u p t g = e at htraps hout ⊢
  have hlast := lasting_issueEnd (c := c) (s := u) (p := p) (t := t) (g := g) htraps
  have hview := offIssue_issueEnd (c := c) (s := u) (p := p) (t := t) (g := g) htraps
  rw [hout]
  refine ⟨rfl, pc_issueHead h.fetched, ?_, issued_issueHead h.fetched, view_of_offIssue (f := State.cores) (hf := fun _ => rfl) hview,
    view_of_offIssue (f := State.store) (hf := fun _ => rfl) hview, view_of_offIssue (f := State.slots) (hf := fun _ => rfl) hview,
    mem_issueEnd_of_untraced htraps, fun hlater => ?_⟩
  · rw [stream_view_of_lasting (f := Stream.pc) (fun _ => rfl) hlast, State.stream_modStream_same]
    rfl
  · rw [stream_view_of_lasting (f := Stream.flight) (fun _ => rfl) hlast, State.stream_modStream_same]
    exact mem_popFlights (List.mem_append_right _ (List.mem_singleton_self _)) hlater false

/-- A command on no core, which waits for no flight, begins at once. -/
theorem effectOf_of_first (hnear : awayCores (dueState c u p t g) p g = [])
    (hfirst : c.blocked (dueState c u p t g) p t g (u.part p).nextSeq = false)
    (htraps : (c.run (freshRows (dueState c u p t g)) p t g (u.part p).nextSeq).traps = []) :
    effectOf c u p t g = c.run (freshRows (dueState c u p t g)) p t g (u.part p).nextSeq := by
  rw [effectOf, StreamCmd.begin_, hnear]
  simp only [hfirst, Bool.false_eq_true, if_false]
  rw [StreamCmd.attempt, htraps]
  rfl

theorem awayCores_of_opcode (h : cOpcode g < 0x10 ∨ 0x40 ≤ cOpcode g) (s : State) (p : Fin 16) : awayCores s p g = [] :=
  if_neg (by omega)

end Sys2Proof.Machine
end

section
/-! Commands of the engines, the tiers and the connections that issue and meet no stop: O39 and O42. -/

namespace Sys2Proof.Machine

variable {s u : State} {p : Fin 16} {t : StreamTag} {g : Granule} {c : StreamCmd}

/-- A command that begins at once and meets no stop has its own effect. -/
theorem effectOf_of_begins (h : Begins c s p t g u)
    (htraps : (c.run (freshRows (dueState c u p t g)) p t g (u.part p).nextSeq).traps = []) :
    effectOf c u p t g = c.run (freshRows (dueState c u p t g)) p t g (u.part p).nextSeq :=
  effectOf_of_first h.near h.first htraps

/-- A command outside the cores that no earlier flight holds back, and that meets no stop, has its own effect. -/
theorem effectOf_of_unheld (hop : cOpcode g < 0x10 ∨ 0x40 ≤ cOpcode g)
    (hfirst : c.blocked (dueState c u p t g) p t g (u.part p).nextSeq = false)
    (htraps : (c.run (freshRows (dueState c u p t g)) p t g (u.part p).nextSeq).traps = []) :
    effectOf c u p t g = c.run (freshRows (dueState c u p t g)) p t g (u.part p).nextSeq :=
  effectOf_of_first (awayCores_of_opcode hop _ p) hfirst htraps

/-- Each row of an engine issues its command, which does the work of that engine. -/
theorem engineRow {r : Instr × StreamCmd × (State → State) × (State → Nat → Effect)} (hr : r ∈ engineRows p t g) :
    (∀ s, exec r.1 s = .next (r.2.2.1 (issue r.2.1 p t s))) ∧ ∀ s n, r.2.1.run s p t g n = r.2.2.2 s n := by
  simp only [engineRows, List.mem_cons, List.not_mem_nil, or_false] at hr
  rcases hr with rfl | rfl | rfl | rfl | rfl | rfl | rfl | rfl | rfl | rfl <;> exact ⟨fun _ => rfl, fun _ _ => rfl⟩

/-- Settles O39: the issue carries out the engine's work at once, and its flight waits for it. -/
theorem engineCommands : Obligations.EngineCommands := by
  intro s u p t g e _ r hr hbegins he htraps
  obtain ⟨hexec, hrun⟩ := engineRow hr
  rw [← hrun] at he
  have heffect := he.symm ▸ effectOf_of_begins hbegins (he ▸ htraps)
  exact ⟨_, hexec s, _, rfl, issue_of_ready hbegins.ready ▸ issued_of_ready hbegins.ready heffect htraps⟩

/-! ### Tiers and connections -/

theorem effectOf_migr (h : migrCmd.matches_ g = true) : effectOf migrCmd u p t g =
    migrCmd.run (freshRows (issueHead migrCmd u p t g)) p t g (u.part p).nextSeq := by
  have hop : cOpcode g = 0x42 := by simpa [migrCmd] using h
  exact effectOf_of_unheld (.inr (by omega)) rfl rfl

theorem pub_opcode (h : pubCmd.matches_ g = true) : cOpcode g = 0x43 := by simpa [pubCmd] using h

theorem effectOf_pub (h : pubCmd.matches_ g = true)
    (htraps : (pubCmd.run (freshRows (issueHead pubCmd u p t g)) p t g (u.part p).nextSeq).traps = []) :
    effectOf pubCmd u p t g = pubCmd.run (freshRows (issueHead pubCmd u p t g)) p t g (u.part p).nextSeq :=
  effectOf_of_unheld (.inr (by rw [pub_opcode h]; decide)) rfl htraps

theorem pubRun_of_no_copy (h : pubCopies g = false) (s : State) (n : Nat) : pubCmd.run s p t g n = ⟨s, [], .pub⟩ := by
  simp only [pubCmd, h, Bool.false_eq_true, if_false]

/-- A PUB that met no stop waits for its turn to publish. -/
theorem pubRun_wait {n : Nat} (h : (pubCmd.run s p t g n).traps = []) : (pubCmd.run s p t g n).wait = .pub := by
  revert h
  dsimp only [pubCmd]
  split
  · split
    · exact fun _ => rfl
    · exact fun h => absurd h (by simp)
  · exact fun _ => rfl

/-- Settles O42: each command that issues leaves the effect of its run; a MIGR and a PUB stand behind no flight. -/
theorem transferCommands : Obligations.TransferCommands := by
  intro s u p t g e _
  refine ⟨fun hready => ?_, fun hready hcopy => ?_, fun hready he htraps => ?_, fun hbegins he htraps => ?_,
    fun r hr hbegins he htraps => ?_⟩
  · have heffect := effectOf_migr (u := u) (p := p) (t := t) hready.atHead.row
    have hissued := issued_of_ready hready rfl (by rw [heffect]; rfl)
    refine ⟨_, congrArg Host.Outcome.next (issue_of_ready hready), hissued, ?_⟩
    rw [heffect]
    rfl
  · have hrun := pubRun_of_no_copy (p := p) (t := t) hcopy (freshRows (issueHead pubCmd u p t g)) (u.part p).nextSeq
    have heffect := effectOf_pub (u := u) (p := p) (t := t) hready.atHead.row (by rw [hrun])
    exact ⟨_, congrArg Host.Outcome.next (issue_of_ready hready), issued_of_ready hready (heffect.trans hrun) rfl⟩
  · have heffect := effectOf_pub (u := u) (p := p) (t := t) hready.atHead.row (he ▸ htraps)
    refine ⟨_, congrArg Host.Outcome.next (issue_of_ready hready), issued_of_ready hready (heffect.trans he.symm) htraps, ?_⟩
    rw [he]
    exact pubRun_wait (he ▸ htraps)
  · have hrun : e = prefCmd.run (freshRows (dueState prefCmd u p t g)) p t g (u.part p).nextSeq := he
    have heffect := hrun.symm ▸ effectOf_of_begins hbegins (hrun ▸ htraps)
    exact ⟨_, congrArg Host.Outcome.next (issue_of_ready hbegins.ready), issued_of_ready hbegins.ready heffect htraps⟩
  · have hrow : (∀ s, exec r.1 s = .next (r.2.2.1 (issue r.2.1 p t s))) ∧ r.2.1.run = r.2.2.2 := by
      simp only [List.mem_cons, List.not_mem_nil, or_false] at hr
      rcases hr with rfl | rfl | rfl <;> exact ⟨fun _ => rfl, rfl⟩
    rw [← hrow.2] at he
    have heffect := he.symm ▸ effectOf_of_begins hbegins (he ▸ htraps)
    have hissued := issued_of_ready hbegins.ready heffect htraps
    exact ⟨_, hrow.1 s, by rw [issue_of_ready hbegins.ready, hissued.outcome], hissued.passed⟩

end Sys2Proof.Machine
end

section
/-! Links and the frames that they send (R356, R363, R365): what a frame sent leaves of its own link, of every other, and of
everything else. -/

namespace Sys2Proof.Machine

variable {s t : State} {e e' : Endpoint}

/-! ### Links of a canonical state -/

theorem linkSet_canonical (hs : s.Canonical) (e : Endpoint) (l : Link) : (linkSet s e l).Canonical :=
  (linkSet_kept (.refl s) e l).canonical hs

theorem linkGet_linkSet_same (hs : s.Canonical) (e : Endpoint) (l : Link) : linkGet (linkSet s e l) e = l := by
  cases e with
  | conn c => exact Sparse.get_set_same _ _ hs.conns
  | sess n => exact Sparse.get_set_same _ _ hs.sess

theorem linkGet_linkSet_ne (hs : s.Canonical) (h : e' ≠ e) (l : Link) : linkGet (linkSet s e l) e' = linkGet s e' := by
  have hne : ∀ {k : Nat} {i j : Fin k}, i ≠ j → i.val ≠ j.val := fun hij heq => hij (Fin.ext heq)
  cases e <;> cases e'
  · exact Sparse.get_set_ne _ hs.conns (hne fun heq => h (congrArg _ heq))
  · rfl
  · rfl
  · exact Sparse.get_set_ne _ hs.sess (hne fun heq => h (congrArg _ heq))

theorem linkGet_linkMod_same (hs : s.Canonical) (e : Endpoint) (f : Link → Link) : linkGet (linkMod s e f) e = f (linkGet s e) :=
  linkGet_linkSet_same hs e _

theorem linkMod_canonical (hs : s.Canonical) (e : Endpoint) (f : Link → Link) : (linkMod s e f).Canonical :=
  linkSet_canonical hs e _

/-! ### Frames on the wire -/

/-- The state but for what frames on the wire change: counts of ports, their overflow, and the record of the wire. -/
def offWire (s : State) : State := { s with regs := [], counts := [], wire := [] }

/-- The state but for links and what frames on the wire change. -/
def offFrames (s : State) : State := { offWire s with conns := [], sess := [] }

theorem view_of_offWire {α : Type} {f : State → α} (hf : ∀ s, f (offWire s) = f s := by exact fun _ => rfl)
    (h : offWire t = offWire s) : f t = f s := by rw [← hf t, h, hf]

theorem view_of_offFrames {α : Type} {f : State → α} (hf : ∀ s, f (offFrames s) = f s := by exact fun _ => rfl)
    (h : offFrames t = offFrames s) : f t = f s := by rw [← hf t, h, hf]

theorem offFrames_of_offWire (h : offWire t = offWire s) : offFrames t = offFrames s :=
  congrArg (fun u : State => { u with conns := [], sess := [] }) h

theorem linkGet_of_offWire (h : offWire t = offWire s) (e : Endpoint) : linkGet t e = linkGet s e :=
  view_of_offWire (f := fun u => linkGet u e) (hf := fun _ => by cases e <;> rfl) h

theorem offWire_handOver (s : State) (code again : Nat) (ws : List WireFrame) : offWire (handOver s code again ws) = offWire s := by
  unfold handOver
  dsimp only
  split <;> rfl

theorem wire_handOver (s : State) (code again : Nat) (ws : List WireFrame) : (handOver s code again ws).wire = ws ++ s.wire := by
  unfold handOver
  dsimp only
  split <;> rfl

theorem handOver_canonical (hs : s.Canonical) (code again : Nat) (ws : List WireFrame) : (handOver s code again ws).Canonical :=
  (handOver_kept (.refl s) code again ws).canonical hs

theorem offFrames_linkSet (s : State) (e : Endpoint) (l : Link) : offFrames (linkSet s e l) = offFrames s := by
  cases e <;> rfl

/-! ### What a frame sent makes of its link -/

/-- A link but for the frames that it keeps, the credit that they took, and the frames since it last acknowledged. -/
def Link.standing (l : Link) : Link := { l with unacked := [], sentGran := 0, sinceAck := 0 }

theorem standing_pumpFrames (s : State) (e : Endpoint) (paused : Bool → Bool) (blocked : Bool) (fs : List TxFrame) (l : Link)
    (w : List WireFrame) : (pumpFrames s e paused blocked fs (l, w)).2.1.standing = l.standing := by
  induction fs generalizing blocked l w with
  | nil => rfl
  | cons f fs ih =>
    unfold pumpFrames
    dsimp only
    split
    · exact ih _ _ _
    · split
      · rw [ih]
        rfl
      · exact ih _ _ _

theorem offFrames_pump (s : State) (e : Endpoint) : offFrames (pump s e) = offFrames s := by
  unfold pump
  dsimp only
  split
  · rw [offFrames_of_offWire (offWire_handOver _ _ _ _), offFrames_linkSet]
  · rfl

theorem standing_pump (hs : s.Canonical) (e : Endpoint) : (linkGet (pump s e) e).standing = (linkGet s e).standing := by
  unfold pump
  dsimp only
  split
  · rw [linkGet_of_offWire (offWire_handOver _ _ _ _), linkGet_linkSet_same hs]
    exact congrArg (fun l : Link => { l with unacked := [] }) (standing_pumpFrames _ _ _ _ _ _ _)
  · rfl

theorem linkGet_pump_ne (hs : s.Canonical) (h : e' ≠ e) : linkGet (pump s e) e' = linkGet s e' := by
  unfold pump
  dsimp only
  split
  · rw [linkGet_of_offWire (offWire_handOver _ _ _ _), linkGet_linkSet_ne hs h]
  · rfl

theorem offFrames_sendFrame (s : State) (e : Endpoint) (op flags : Nat) (ext : Option (List Byte)) (payload : List (List Byte)) :
    offFrames (sendFrame s e op flags ext payload) = offFrames s := by
  unfold sendFrame
  dsimp only
  split
  · rw [offFrames_pump, offFrames_linkSet]
  · rfl

theorem sendFrame_canonical (hs : s.Canonical) (e : Endpoint) (op flags : Nat) (ext : Option (List Byte))
    (payload : List (List Byte)) : (sendFrame s e op flags ext payload).Canonical :=
  (sendFrame_kept (.refl s) e op flags ext payload).canonical hs

/-- A frame of a link that carries frames takes the link's next sequence number, and changes nothing else that stands. -/
theorem standing_sendFrame_of_live (hs : s.Canonical) (h : linkLive (linkGet s e) = true) (op flags : Nat)
    (ext : Option (List Byte)) (payload : List (List Byte)) : (linkGet (sendFrame s e op flags ext payload) e).standing =
      { (linkGet s e).standing with psnTx := ((linkGet s e).psnTx + 1) % psnMod } := by
  unfold sendFrame
  simp only [h, if_true]
  rw [standing_pump (linkSet_canonical hs e _), linkGet_linkSet_same hs]
  rfl

theorem sendFrame_of_not_live (h : linkLive (linkGet s e) = false) (op flags : Nat) (ext : Option (List Byte))
    (payload : List (List Byte)) : sendFrame s e op flags ext payload = s := by
  unfold sendFrame
  simp only [h, Bool.false_eq_true, if_false]

theorem linkGet_sendFrame_ne (hs : s.Canonical) (h : e' ≠ e) (op flags : Nat) (ext : Option (List Byte))
    (payload : List (List Byte)) : linkGet (sendFrame s e op flags ext payload) e' = linkGet s e' := by
  unfold sendFrame
  dsimp only
  split
  · rw [linkGet_pump_ne (linkSet_canonical hs e _) h, linkGet_linkSet_ne hs h]
  · rfl

theorem view_of_standing {α : Type} {f : Link → α} (hf : ∀ l : Link, f l.standing = f l := by exact fun _ => rfl) {l k : Link}
    (h : l.standing = k.standing) : f l = f k := by rw [← hf l, h, hf]

end Sys2Proof.Machine
end

section
/-! The control commands (R65, R78 to R83, R97, R99): O38. -/

namespace Sys2Proof.Machine

variable {s u v : State} {p : Fin 16} {t : StreamTag} {g : Granule} {c : StreamCmd}

/-! ### The stream of a command that issued -/

/-- The issue of a command leaves of its stream what its effect leaves, but for the flights and how the stream goes on. -/
theorem stream_view_issueEnd {α : Type} {f : Stream → α} (hf : ∀ q : Stream, f q.lasting = f q)
    (hflight : ∀ (q : Stream) (fs : List Flight), f { q with flight := fs } = f q) {e : Effect} (h : e.traps = []) :
    f ((issueEnd c s p t g e).stream p t) = f (e.state.stream p t) := by
  rw [stream_view_of_lasting hf (lasting_issueEnd h), State.stream_modStream_same]
  exact (hflight _ _).trans (hflight _ _)

theorem effectOf_control {op : Nat} {check : State → Fin 16 → StreamTag → Granule → List Nat}
    {run : State → Fin 16 → StreamTag → Granule → State} (hop : op < 0x10) (hg : (control op check run).matches_ g = true) :
    effectOf (control op check run) s p t g = Effect.done (run (freshRows (issueHead (control op check run) s p t g)) p t g) :=
  control_begin hop (by simpa [control] using hg) _

theorem pc_issued {e : Effect} (h : Issued c s u p t g e v)
    (hpc : (e.state.stream p t).pc = ((issueHead c u p t g).stream p t).pc) : (v.stream p t).pc = (s.stream p t).pc + 32 := by
  rw [h.pc, hpc, h.passed]

theorem issued_view {e : Effect} (h : Issued c s u p t g e v) (htraps : e.traps = [])
    (hissued : (e.state.stream p t).issued = ((issueHead c u p t g).stream p t).issued) :
    (v.stream p t).issued = ((s.stream p t).issued + 1) % 2 ^ 48 := by
  rw [h.outcome, stream_view_issueEnd (f := Stream.issued) (fun _ => rfl) (fun _ _ => rfl) htraps, hissued, h.counted]

/-! ### MARK -/

theorem beginMark_parts (s : State) (p : Fin 16) (t : StreamTag) : (beginMark s p t).parts = s.parts :=
  foldl_view State.parts (fun u nn => foldl_view State.parts (fun w j => by
    dsimp only
    split <;> rfl) _ u) _ s

/-- The stream that a MARK leaves, whose marker it sets. -/
def markedStream (q : Stream) (g : Granule) : Stream :=
  { q with marker := if markKind g = 1 then markValue g else if markKind g = 2 then 0 else q.marker }

theorem markRun_eq (s : State) (p : Fin 16) (t : StreamTag) (g : Granule) : markRun s p t g =
    if markKind g = 1 then beginMark ((putTrace s p { cmdTrace (s.stream p t) t g with
      kind := 3, data := markKind g + 2 ^ 32 * markValue g }).modStream p t (markedStream · g)) p t
    else (putTrace s p { cmdTrace (s.stream p t) t g with
      kind := 3, data := markKind g + 2 ^ 32 * markValue g }).modStream p t (markedStream · g) := rfl

theorem lasting_markRun (s : State) (p : Fin 16) (t : StreamTag) (g : Granule) :
    lasting (markRun s p t g) = lasting (s.modStream p t (markedStream · g)) := by
  have hmark : ∀ r, lasting ((putTrace s p r).modStream p t (markedStream · g)) = lasting (s.modStream p t (markedStream · g)) := fun r =>
    lasting_modStream_congr (lasting_of_steady (steady_putTrace s p r)) (congrArg (markedStream · g) (stream_view_of_lasting
      (f := Stream.lasting) (fun _ => rfl) (lasting_of_steady (steady_putTrace s p r)) p t))
  rw [markRun_eq]
  split
  · exact (lasting_of_steady (steady_of_parts (beginMark_parts _ _ _))).trans (hmark _)
  · exact hmark _

theorem stream_markRun {α : Type} {f : Stream → α} (hf : ∀ q : Stream, f q.lasting = f q) (s : State) :
    f ((markRun s p t g).stream p t) = f (markedStream (s.stream p t) g) := by
  rw [stream_view_of_lasting hf (lasting_markRun s p t g), State.stream_modStream_same]

/-! ### WAIT: where nothing is traced, no byte changes -/

/-- The state but for what counts and signals write: the register of the trace stays in view. -/
def offCounts (p : Fin 16) (s : State) : State := { offReads (fun a => a = sqReg p 0x310) s with so := [] }

/-- A canonical state that work has left but for counts and signals. -/
structure Untraced (p : Fin 16) (s u : State) : Prop where
  canonical : u.Canonical
  view : offCounts p u = offCounts p s

theorem sqReg_lt (p : Fin 16) {ofs : Nat} (h : ofs < 0x1000) : 0x70100000 ≤ sqReg p ofs ∧ sqReg p ofs < 0x70110000 := by
  have := p.isLt
  unfold sqReg
  omega

theorem hidesShelves_traceCfg (p : Fin 16) : HidesShelves (fun a => a = sqReg p 0x310) := by
  have := sqReg_lt p (ofs := 0x310) (by decide)
  exact ⟨fun a ha _ => decide_eq_false (by omega), decide_eq_false (by omega)⟩

theorem Untraced.refl (hs : s.Canonical) : Untraced p s s := ⟨hs, rfl⟩

theorem Untraced.trans (h : Untraced p s u) (h' : Untraced p u v) : Untraced p s v := ⟨h'.canonical, h'.view.trans h.view⟩

theorem Untraced.mem (h : Untraced p s u) : u.mem = s.mem :=
  (congrArg (fun w : State => w.mem) h.view : (offCounts p u).mem = (offCounts p s).mem)

theorem Untraced.traceCfg (hs : s.Canonical) (h : Untraced p s u) : rawReg u (sqReg p 0x310) = rawReg s (sqReg p 0x310) := by
  have hoff : ∀ w : State, rawReg { w with so := [] } (sqReg p 0x310) = rawReg w (sqReg p 0x310) := fun _ => rfl
  have hso : ∀ w : State, w.Canonical → ({ w with so := [] } : State).Canonical := fun w hw => { hw with so := rfl }
  exact rawReg_of_offWrites (g := fun a => a = sqReg p 0x310) (hso s hs) (hso u h.canonical)
    (offWrites_of_offReads h.view) (decide_eq_true rfl)

/-- A fold of work that leaves all but counts and signals, while the trace stays off. -/
theorem Untraced.foldl {α : Type} {f : State → α → State} (hs : s.Canonical) (hoff : flag (rawReg s (sqReg p 0x310)) 31 = false)
    (hf : ∀ u a, u.Canonical → flag (rawReg u (sqReg p 0x310)) 31 = false → Untraced p u (f u a)) (l : List α) :
    Untraced p s (l.foldl f s) := by
  induction l generalizing s with
  | nil => exact .refl hs
  | cons a l ih =>
    have hstep := hf s a hs hoff
    exact hstep.trans (ih hstep.canonical (hstep.traceCfg hs ▸ hoff))

theorem putTrace_of_off (hoff : flag (rawReg s (sqReg p 0x310)) 31 = false) (r : TraceRec) : putTrace s p r = s := by
  unfold putTrace
  simp only [hoff, Bool.false_and, Bool.false_eq_true, if_false]

theorem untraced_of_offReads (hu : u.Canonical) (h : offReads (fun a => a = sqReg p 0x310) u = offReads (fun a => a = sqReg p 0x310) s) :
    Untraced p s u := ⟨hu, congrArg (fun w : State => { w with so := [] }) h⟩

theorem offCounts_applySignal (s : State) (n : Nat) (op : SigOp) (amount : Word) :
    offCounts p (applySignal s n op amount) = offCounts p s :=
  view_of_offSignals (f := offCounts p) (hf := fun _ => rfl) (offSignals_applySignal s n op amount)

theorem cntBase_ne_traceCfg (nn j k : Nat) : decide (cntBase nn j + k = sqReg p 0x310) = false := by
  have := sqReg_lt p (ofs := 0x310) (by decide)
  unfold cntBase
  exact decide_eq_false (by omega)

theorem untraced_wrapCounter (hs : s.Canonical) (hoff : flag (rawReg s (sqReg p 0x310)) 31 = false) (r : Option StreamTag)
    (nn j : Nat) : Untraced p s (wrapCounter s (some p) r nn j) := by
  have hpost : Untraced p s (postBit s (cntBase nn j + 4) 15) :=
    untraced_of_offReads (setRaw_canonical hs _ _) (offReads_postBit (cntBase_ne_traceCfg nn j 4) s 15)
  refine ⟨wrapCounter_canonical hs _ _ _ _, ?_⟩
  unfold wrapCounter
  dsimp only
  rw [putTrace_of_off (hpost.traceCfg hs ▸ hoff)]
  split
  · split
    · rw [offCounts_applySignal, hpost.view]
    · exact hpost.view
  · exact hpost.view

theorem untraced_counts (hs : s.Canonical) (nn j v : Nat) :
    Untraced p s { s with counts := Sparse.set 0 s.counts (cntBase nn j + 8) v } :=
  untraced_of_offReads { hs with counts := Sparse.set_wf _ _ hs.counts } (offReads_counts (cntBase_ne_traceCfg nn j 8) s v)

theorem untraced_addCounter (hs : s.Canonical) (hoff : flag (rawReg s (sqReg p 0x310)) 31 = false) (r : Option StreamTag)
    (nn j fuel n : Nat) : Untraced p s (addCounter (some p) r nn j fuel n s) := by
  induction fuel generalizing n s with
  | zero => exact untraced_counts hs nn j _
  | succ fuel ih =>
    rw [addCounter]
    split
    · exact untraced_counts hs nn j n
    · have hwrap := untraced_wrapCounter hs hoff r nn j
      exact hwrap.trans (ih hwrap.canonical (hwrap.traceCfg hs ▸ hoff) _)

theorem untraced_countCores (hs : s.Canonical) (hoff : flag (rawReg s (sqReg p 0x310)) 31 = false) (t : StreamTag) (g : Granule)
    (code n : Nat) : Untraced p s (countCores s p t g code n) :=
  .foldl hs hoff (fun u nn hu hoffu => .foldl hu hoffu (fun w j hw hoffw => by
    split
    · exact untraced_addCounter hw hoffw _ _ _ _ _
    · exact .refl hw) _) _

theorem untraced_countWait (hs : s.Canonical) (hoff : flag (rawReg s (sqReg p 0x310)) 31 = false) (t : StreamTag) (g : Granule) :
    Untraced p s (countWait s p t g) := by
  have hfree : Untraced p s { s with freeCount := s.freeCount + 1 } := ⟨{ hs with }, rfl⟩
  unfold countWait
  split
  · exact .refl hs
  · exact hfree.trans (untraced_countCores hfree.canonical hoff t g _ _)

theorem modPart_canonical (hs : s.Canonical) (p : Fin 16) (f : Part → Part) : (s.modPart p f).Canonical :=
  (State.modPart_kept (.refl s) p f).canonical hs

theorem untraced_modPart (hs : s.Canonical) (q : Fin 16) (f : Part → Part) : Untraced p s (s.modPart q f) :=
  untraced_of_offReads (modPart_canonical hs q f) (offReads_modPart _ s q f)

/-- Before the effect of a WAIT, an issue that is not traced leaves all but counts. -/
theorem untraced_issueHead_wait (hs : s.Canonical) (hoff : flag (rawReg s (sqReg p 0x310)) 31 = false)
    (hop : cOpcode g = 0x02) : Untraced p s (issueHead waitCmd s p t g) := by
  have hadvance : Untraced p s ((s.setStream p t (advance (s.stream p t) g)).modPart p
      (fun x => { x with nextSeq := (s.part p).nextSeq + 1 })) :=
    (untraced_modPart hs p (fun x => x.setStream t (advance (s.stream p t) g))).trans
      (untraced_modPart (modPart_canonical hs p _) p _)
  have hcores := hadvance.trans (untraced_countCores hadvance.canonical (hadvance.traceCfg hs ▸ hoff) t g 0x03 1)
  have hwait := hcores.trans (untraced_countWait hcores.canonical (hcores.traceCfg hs ▸ hoff) t g)
  have hbusy : ∀ w, countBusy w p g = w := fun w => by simp only [countBusy, busyEngine, hop]
  unfold issueHead
  dsimp only
  rw [hbusy, putTrace_of_off (hwait.traceCfg hs ▸ hoff), ite_self]
  exact hwait.trans (untraced_modPart hwait.canonical p _)

/-- An issue that is not traced leaves the shelves as its effect left them. -/
theorem mem_issueEnd_of_off {e : Effect} (h : e.traps = []) (hoff : flag (rawReg e.state (sqReg p 0x310)) 31 = false) :
    (issueEnd c s p t g e).mem = e.state.mem := by
  rw [issueEnd_of_no_traps h, view_of_offReads (f := State.mem) (hf := fun _ => rfl) (offReads_arrive hidesShelves_nothing _),
    view_of_offSignals (f := State.mem) (hf := fun _ => rfl) (offSignals_settleSignals _ _ _), putTrace_of_off (s := e.state.modStream p t _) hoff,
    ite_self]
  rfl

/-! ### SIG -/

/-- What of a stored state names the connections of Pp. -/
theorem connMap_issueHead : ((issueHead c s p t g).part p).connMap = (s.part p).connMap :=
  part_view_issueHead (f := Part.connMap) (fun _ => rfl) (fun _ _ => by cases t <;> rfl) (fun _ _ => rfl)

theorem linkGet_of_offIssue (h : offIssue u = offIssue s) (e : Endpoint) : linkGet u e = linkGet s e :=
  view_of_offIssue (f := fun w => linkGet w e) (hf := fun _ => by cases e <;> rfl) h

theorem linkGet_freshHead (e : Endpoint) : linkGet (freshRows (issueHead c s p t g)) e = linkGet s e := by
  have h : linkGet (freshRows (issueHead c s p t g)) e = linkGet (issueHead c s p t g) e := by cases e <;> rfl
  rw [h, linkGet_of_offIssue (offIssue_issueHead c s p t g)]

theorem connEndpoint_freshHead (n : Nat) : connEndpoint ((freshRows (issueHead c s p t g)).part p) n = connEndpoint (s.part p) n := by
  rw [connEndpoint, connEndpoint]
  change ((issueHead c s p t g).part p).connMap[n]?.map _ = _
  rw [connMap_issueHead]

theorem sigHead_canonical (hs : s.Canonical) : (freshRows (issueHead sigCmd s p t g)).Canonical :=
  { (issueHead_kept sigCmd_kept (.refl s) p t g).canonical hs with }

theorem sig_opcode (h : sigCmd.matches_ g = true) : cOpcode g = 0x03 := by simpa [sigCmd] using h

/-- A remote SIG that issues found its connection open (R363). -/
theorem opened_of_ready_sig (h : Ready sigCmd s p t g s) (hremote : cOF g 0 = true) : connOpen s p (sigConn g) = true := by
  have hpass := (List.append_eq_nil_iff.mp h.passes).2
  cases hopen : connOpen s p (sigConn g) with
  | true => rfl
  | false => simp [sigCmd, hremote, failIf, hopen] at hpass

end Sys2Proof.Machine
end

section
/-! SIG and STEP (R79 to R82, R97 to R100), and the control commands together: O38. -/

namespace Sys2Proof.Machine

variable {s u v : State} {p : Fin 16} {t : StreamTag} {g : Granule} {c : StreamCmd}

/-! ### SIG -/

theorem sigRun_of_local (h : cOF g 0 = false) (s : State) (n : Nat) : sigCmd.run s p t g n = Effect.done s := by
  simp only [sigCmd, h, Bool.not_false, if_true]

theorem effectOf_sig_of_local (hrow : sigCmd.matches_ g = true) (h : cOF g 0 = false) :
    effectOf sigCmd s p t g = Effect.done (freshRows (issueHead sigCmd s p t g)) := by
  have hfirst : sigBlocked (dueState sigCmd s p t g) p t g (s.part p).nextSeq = false := by
    simp only [sigBlocked, h, Bool.false_and]
  rw [effectOf_of_unheld (.inl (by rw [sig_opcode hrow]; decide)) hfirst (by rw [sigRun_of_local h]; rfl), sigRun_of_local h]
  rfl

/-- A remote SIG that its connection blocks waits behind, and changes nothing more. -/
theorem effectOf_sig_of_blocked (hrow : sigCmd.matches_ g = true)
    (h : sigBlocked (dueState sigCmd s p t g) p t g (s.part p).nextSeq = true) :
    effectOf sigCmd s p t g = ⟨dueState sigCmd s p t g, [], .behind⟩ := by
  have hblocked : sigCmd.blocked (dueState sigCmd s p t g) p t g (s.part p).nextSeq = true := h
  rw [effectOf, StreamCmd.begin_, awayCores_of_opcode (.inl (by rw [sig_opcode hrow]; decide))]
  simp only [hblocked, if_true]

theorem connOpen_freshHead (n : Nat) : connOpen (freshRows (issueHead c s p t g)) p n = connOpen s p n := by
  unfold connOpen
  rw [connEndpoint_freshHead]
  split
  · rw [linkGet_freshHead]
  · rfl

theorem sigRun_of_opened (hremote : cOF g 0 = true) (hopen : connOpen s p (sigConn g) = true) (n : Nat) :
    sigCmd.run s p t g n = ⟨sigRemote s p t g n, [], .sigAck⟩ := by
  simp only [sigCmd, hremote, hopen, Bool.not_true, Bool.false_eq_true, if_false, if_true]

theorem effectOf_sig_of_remote (h : Begins sigCmd s p t g s) (hremote : cOF g 0 = true) : effectOf sigCmd s p t g =
    ⟨sigRemote (freshRows (issueHead sigCmd s p t g)) p t g (s.part p).nextSeq, [], .sigAck⟩ := by
  have hopen : connOpen (freshRows (dueState sigCmd s p t g)) p (sigConn g) = true :=
    (connOpen_freshHead _).trans (opened_of_ready_sig h.ready hremote)
  have hrun := sigRun_of_opened (t := t) hremote hopen (s.part p).nextSeq
  rw [effectOf_of_begins h (by rw [hrun]), hrun]
  rfl

/-- The remote signal takes the connection's next sequence number and one credit (R97). -/
theorem linkGet_sigRemote {e : Endpoint} (hs : s.Canonical) (he : connEndpoint (s.part p) (sigConn g) = some e)
    (hlive : linkLive (linkGet s e) = true) (n : Nat) :
    (linkGet (sigRemote s p t g n) e).sentSig = ((linkGet s e).sentSig + 1) % 2 ^ 16 ∧
    (linkGet (sigRemote s p t g n) e).psnTx = ((linkGet s e).psnTx + 1) % 2 ^ 32 := by
  unfold sigRemote
  rw [he]
  dsimp only
  generalize hl : ({ linkGet s e with sentSig := ((linkGet s e).sentSig + 1) % 2 ^ 16, sigs := (linkGet s e).sigs ++ [_] } : Link) = l
  have hget := linkGet_linkSet_same hs e l
  have hstanding := standing_sendFrame_of_live (linkSet_canonical hs e l) (e := e)
    (by rw [hget, ← hl]; exact hlive) 0x13 (flFirst + flLast) (some (granule32 (leBytes 2 (sigRso g) ++ leBytes 1 (sigRop g) ++
      leBytes 1 (linkGet s e).peerPart ++ leBytes 4 (sigRamount g)))) []
  rw [hget] at hstanding
  subst hl
  exact ⟨congrArg Link.sentSig hstanding, congrArg Link.psnTx hstanding⟩

theorem sigRemote_parts (s : State) (p : Fin 16) (t : StreamTag) (g : Granule) (n : Nat) : (sigRemote s p t g n).parts = s.parts := by
  unfold sigRemote
  split
  · rfl
  · exact (view_of_offFrames (f := State.parts) (hf := fun _ => rfl) (offFrames_sendFrame _ _ _ _ _ _)).trans
      (view_of_offFrames (f := State.parts) (hf := fun _ => rfl) (offFrames_linkSet _ _ _))

/-! ### STEP -/

/-- The stream of a partition, as far as no commit of slots and layers changes it. -/
def lastingStream (p : Fin 16) (t : StreamTag) (s : State) : Stream := (s.stream p t).lasting

theorem lastingStream_of_lasting (h : lasting u = lasting s) : lastingStream p t u = lastingStream p t s :=
  stream_view_of_lasting (f := Stream.lasting) (fun _ => rfl) h p t

theorem lastingStream_modPart (s : State) (q : Fin 16) {f : Part → Part} (hf : ∀ x, ((f x).stream t).lasting = (x.stream t).lasting) :
    lastingStream p t (s.modPart q f) = lastingStream p t s := part_modPart_view (v := fun x => (x.stream t).lasting) hf s q p

theorem lastingStream_postEvent (s : State) (q : Fin 16) (r : StreamTag) (code core layer oper data : Nat) :
    lastingStream p t (postEvent s q r code core layer oper data) = lastingStream p t s :=
  lastingStream_of_lasting (lasting_of_steady (steady_putTrace _ _ _))

theorem lastingStream_commitLayers (q : Fin 16) (ls : List (LayerEntry × Nat)) (s : State) :
    lastingStream p t (commitLayers q ls s).1 = lastingStream p t s := by
  induction ls generalizing s with
  | nil => rfl
  | cons e ls ih =>
    rw [commitLayers]
    dsimp only
    rw [ih]
    generalize hw : s.modPart q _ = w
    have hset : lastingStream p t w = lastingStream p t s := by
      rw [← hw]
      exact lastingStream_modPart s q fun x => by cases t <;> rfl
    split
    · exact (lastingStream_postEvent _ _ _ _ _ _ _ _).trans hset
    · exact hset
    · exact hset

theorem lastingStream_commitRungs (s : State) (q : Fin 16) : lastingStream p t (commitRungs s q) = lastingStream p t s := by
  unfold commitRungs
  dsimp only
  split
  · exact (lastingStream_postEvent _ _ _ _ _ _ _ _).trans (lastingStream_commitLayers _ _ _)
  · exact lastingStream_commitLayers _ _ _

theorem readMem_leaves_lastingStream (side : Side) (q : Fin 16) (a n : Nat) : Op.Leaves (lastingStream p t) (readMem side q a n) :=
  fun s => lastingStream_of_lasting (lasting_of_steady (readMem_leaves_steady _ _ _ _ s))

theorem writeMem_leaves_lastingStream (side : Side) (q : Fin 16) (a : Nat) (bs : List Byte) :
    Op.Leaves (lastingStream p t) (writeMem side q a bs) :=
  fun s => lastingStream_of_lasting (lasting_of_steady (writeMem_leaves_steady _ _ _ _ s))

theorem commitSlot_leaves_lastingStream (q : Fin 16) (r : StreamTag) (step k : Nat) :
    Op.Leaves (lastingStream p t) (commitSlot q r step k) := by
  refine .bind .get (fun s => .bind (.ite ?_ (.pure _)) (fun x => .mod fun u => ?_))
  · exact .bind (readMem_leaves_lastingStream _ _ _ _) (fun _ => .bind (writeMem_leaves_lastingStream _ _ _ _) (fun _ => .pure _))
  · dsimp only
    split
    · exact lastingStream_postEvent _ _ _ _ _ _ _ _
    · rfl

/-- The stream that a STEP leaves: its counter has risen, and a loop goes back or ends (R79, R81). -/
def steppedStream (q : Stream) (g : Granule) : Stream :=
  loopDecision { q with step := (q.step + 1) % 2 ^ 32 } g (q.pc - 32)

theorem lasting_loopDecision (q : Stream) (g : Granule) (pc : Nat) :
    (loopDecision q g pc).lasting = loopDecision q.lasting g pc := by
  have hloop : q.lasting.loop = q.loop := rfl
  unfold loopDecision
  rw [hloop]
  split
  · cases q.loop.getD (stepCount g) <;> rfl
  · rfl

theorem lastingStream_boundaryStop (s : State) (q : Fin 16) :
    lastingStream p t (s.modPart q (fun x => boundaryStop x t)) = lastingStream p t s := by
  refine lastingStream_modPart s q fun x => ?_
  unfold boundaryStop
  dsimp only
  split
  · split
    · rw [Part.stream_setStream_same]
      rfl
    · rfl
  · rfl

/-- Before its commits a STEP counts; an F-stream's STEP also commits the rungs. -/
def stepBegun (s : State) (p : Fin 16) (t : StreamTag) : State :=
  let s := s.modStream p t (fun q => { q with step := ((s.stream p t).step + 1) % 2 ^ 32 })
  if t = .F then commitRungs (s.modPart p (fun x => { x with infSeen := false })) p else s

theorem lastingStream_stepBegun (s : State) : lastingStream p t (stepBegun s p t) =
    { (s.stream p t).lasting with step := ((s.stream p t).step + 1) % 2 ^ 32 } := by
  have hcount : lastingStream p t (s.modStream p t (fun q => { q with step := ((s.stream p t).step + 1) % 2 ^ 32 })) =
      { (s.stream p t).lasting with step := ((s.stream p t).step + 1) % 2 ^ 32 } := by
    rw [lastingStream, State.stream_modStream_same]
    rfl
  unfold stepBegun
  dsimp only
  split
  · exact (lastingStream_commitRungs _ _).trans ((lastingStream_modPart _ p fun x => by cases t <;> rfl).trans hcount)
  · exact hcount

/-- A STEP that met no stop has committed its slots, decided its loop and looked for its boundary. -/
theorem stepRun_of_no_traps (h : (stepRun s p t g).traps = []) : ∃ w, lastingStream p t w = lastingStream p t (stepBegun s p t) ∧
    (stepRun s p t g).state =
      (w.modStream p t (fun q => loopDecision q g (q.pc - 32))).modPart p (fun x => boundaryStop x t) := by
  have hcommit : Op.Leaves (lastingStream p t) (Op.each (slotsOf (stepBegun s p t) p t)
      (commitSlot p t (((s.stream p t).step + 1) % 2 ^ 32))) := .each fun k => commitSlot_leaves_lastingStream _ _ _ k
  have hleft := hcommit (stepBegun s p t)
  have hrun : stepRun s p t g = match (Op.exec (Op.each (slotsOf (stepBegun s p t) p t)
      (commitSlot p t (((s.stream p t).step + 1) % 2 ^ 32))) (stepBegun s p t)).1 with
    | .error e => { state := (Op.exec (Op.each (slotsOf (stepBegun s p t) p t)
        (commitSlot p t (((s.stream p t).step + 1) % 2 ^ 32))) (stepBegun s p t)).2, traps := [{ e with unit := 0xA }], wait := .none }
    | .ok _ => Effect.done (((Op.exec (Op.each (slotsOf (stepBegun s p t) p t)
        (commitSlot p t (((s.stream p t).step + 1) % 2 ^ 32))) (stepBegun s p t)).2.modStream p t
          (fun q => loopDecision q g (q.pc - 32))).modPart p (fun x => boundaryStop x t)) := rfl
  generalize Op.exec _ _ = r at hleft hrun
  rw [hrun] at h ⊢
  obtain ⟨r, w⟩ := r
  cases r with
  | error e => exact absurd h (by simp)
  | ok _ => exact ⟨w, hleft, rfl⟩

theorem lastingStream_stepRun (h : (stepRun s p t g).traps = []) :
    lastingStream p t (stepRun s p t g).state = (steppedStream (s.stream p t) g).lasting := by
  obtain ⟨w, hw, hstate⟩ := stepRun_of_no_traps h
  rw [hstate, lastingStream_boundaryStop, lastingStream, State.stream_modStream_same, lasting_loopDecision]
  have hstream := hw.trans (lastingStream_stepBegun s)
  rw [lastingStream] at hstream
  rw [hstream, steppedStream, lasting_loopDecision, show (w.stream p t).pc = (w.stream p t).lasting.pc from rfl, hstream]
  rfl

/-- Where a STEP leaves its stream: at the next command, or at the start of its loop (R81). -/
theorem pc_steppedStream (q : Stream) (g : Granule) : (steppedStream q g).pc =
    if cOF g 0 = true ∧ q.loop.getD (stepCount g) ≠ 0 then stepLoop g else q.pc := by
  unfold steppedStream loopDecision
  dsimp only
  split
  · next h => cases hn : q.loop.getD (stepCount g) <;> simp [h]
  · next h => rw [if_neg (by simp [h])]

theorem step_steppedStream (q : Stream) (g : Granule) : (steppedStream q g).step = (q.step + 1) % 2 ^ 32 := by
  unfold steppedStream loopDecision
  dsimp only
  split
  · split <;> rfl
  · rfl

/-! ### O38 -/

theorem rawReg_freshRows (s : State) (a : Nat) : rawReg (freshRows s) a = rawReg s a := rfl

theorem mark_issued (h : Ready markCmd s p t g s) : ∃ v, exec (.mark p t) s = .next v ∧
    (v.stream p t).pc = (s.stream p t).pc + 32 ∧ (v.stream p t).issued = ((s.stream p t).issued + 1) % 2 ^ 48 ∧
    (v.stream p t).marker = if markKind g = 1 then markValue g else if markKind g = 2 then 0 else (s.stream p t).marker := by
  have heffect : effectOf markCmd s p t g = _ := effectOf_control (by decide) h.atHead.row
  have hissued := issued_of_ready h heffect rfl
  refine ⟨_, congrArg Host.Outcome.next (issue_of_ready h), pc_issued hissued ?_, issued_view hissued rfl ?_, ?_⟩
  · exact stream_markRun (f := Stream.pc) (fun _ => rfl) _
  · exact stream_markRun (f := Stream.issued) (fun _ => rfl) _
  · rw [hissued.outcome, stream_view_issueEnd (f := Stream.marker) (fun _ => rfl) (fun _ _ => rfl) rfl]
    refine (stream_markRun (f := Stream.marker) (fun _ => rfl) _).trans ?_
    have hmarker : ((freshRows (issueHead markCmd s p t g)).stream p t).marker = (s.stream p t).marker :=
      stream_view_issueHead (f := Stream.marker) fun _ => rfl
    change (if markKind g = 1 then _ else if markKind g = 2 then _ else ((freshRows (issueHead markCmd s p t g)).stream p t).marker) = _
    rw [hmarker]

theorem wait_issued (hs : s.Canonical) (h : Ready waitCmd s p t g s) : ∃ v, exec (.wait p t) s = .next v ∧
    (v.stream p t).pc = (s.stream p t).pc + 32 ∧ (v.stream p t).issued = ((s.stream p t).issued + 1) % 2 ^ 48 ∧
    v.cores = s.cores ∧ v.slots = s.slots ∧ (flag (rawReg s (sqReg p 0x310)) 31 = false → v.mem = s.mem) := by
  have heffect : effectOf waitCmd s p t g = Effect.done (freshRows (issueHead waitCmd s p t g)) := effectOf_control (by decide) h.atHead.row
  have hissued := issued_of_ready h heffect rfl
  have hhead := offIssue_issueHead waitCmd s p t g
  have hop : cOpcode g = 0x02 := by simpa [waitCmd, control] using h.atHead.row
  refine ⟨_, congrArg Host.Outcome.next (issue_of_ready h), pc_issued hissued rfl, issued_view hissued rfl rfl,
    hissued.cores.trans (view_of_offIssue (u := issueHead waitCmd s p t g) (f := State.cores) (hf := fun _ => rfl) hhead),
    hissued.slots.trans (view_of_offIssue (u := issueHead waitCmd s p t g) (f := State.slots) (hf := fun _ => rfl) hhead),
    fun hoff => ?_⟩
  have hquiet := untraced_issueHead_wait (t := t) hs hoff hop
  have hcfg : flag (rawReg (freshRows (issueHead waitCmd s p t g)) (sqReg p 0x310)) 31 = false := by
    rw [rawReg_freshRows, hquiet.traceCfg hs]
    exact hoff
  rw [hissued.outcome, mem_issueEnd_of_off (e := Effect.done (freshRows (issueHead waitCmd s p t g))) rfl (by exact hcfg)]
  exact hquiet.mem

theorem fence_issued (h : Ready fenceCmd s p t g s) : ∃ v, exec (.fence p t) s = .next v ∧
    (v.stream p t).pc = (s.stream p t).pc + 32 ∧
    (v.stream p t).descCache = if cOF g 0 then [] else (s.stream p t).descCache := by
  have heffect : effectOf fenceCmd s p t g = _ := effectOf_control (by decide) h.atHead.row
  have hissued := issued_of_ready h heffect rfl
  have hcache : ((freshRows (issueHead fenceCmd s p t g)).stream p t).descCache = (s.stream p t).descCache :=
    stream_view_issueHead (f := Stream.descCache) fun _ => rfl
  have hrun : ∀ w : State, (fenceRun w p t g).stream p t =
      if cOF g 0 then { w.stream p t with descCache := [] } else w.stream p t := fun w => by
    unfold fenceRun
    split
    · exact State.stream_modStream_same _ _ _ _
    · rfl
  refine ⟨_, congrArg Host.Outcome.next (issue_of_ready h), pc_issued hissued ?_, ?_⟩
  · rw [Effect.done, hrun]
    split <;> rfl
  · rw [hissued.outcome, stream_view_issueEnd (f := Stream.descCache) (fun _ => rfl) (fun _ _ => rfl) rfl, Effect.done, hrun]
    split
    · rfl
    · exact hcache

theorem sig_issued_local (h : Ready sigCmd s p t g s) (hlocal : cOF g 0 = false) : ∃ v, exec (.sig p t) s = .next v ∧
    (v.stream p t).pc = (s.stream p t).pc + 32 ∧ ∃ f ∈ (v.stream p t).flight, f.word = g ∧ f.done = false ∧ f.wait = .none := by
  have hissued := issued_of_ready h (effectOf_sig_of_local h.atHead.row hlocal) rfl
  exact ⟨_, congrArg Host.Outcome.next (issue_of_ready h), pc_issued hissued rfl, _, hissued.flight rfl, rfl, rfl, rfl⟩

theorem sig_issued_remote {e : Endpoint} (hs : s.Canonical) (h : Begins sigCmd s p t g s) (hremote : cOF g 0 = true)
    (he : connEndpoint (s.part p) (sigConn g) = some e) : ∃ v, exec (.sig p t) s = .next v ∧
    (v.stream p t).pc = (s.stream p t).pc + 32 ∧ (linkGet v e).sentSig = ((linkGet s e).sentSig + 1) % 2 ^ 16 ∧
    (linkGet v e).psnTx = ((linkGet s e).psnTx + 1) % 2 ^ 32 ∧
    ∃ f ∈ (v.stream p t).flight, f.word = g ∧ f.done = false ∧ f.wait = .sigAck := by
  have heffect := effectOf_sig_of_remote h hremote
  have hissued := issued_of_ready h.ready heffect rfl
  have hopen := opened_of_ready_sig h.ready hremote
  rw [connOpen, he] at hopen
  have hlive : linkLive (linkGet (freshRows (issueHead sigCmd s p t g)) e) = true := by
    rw [linkGet_freshHead, linkLive, show (linkGet s e).state = .opened from of_decide_eq_true hopen]
    rfl
  have hlink := linkGet_sigRemote (t := t) (sigHead_canonical hs) ((connEndpoint_freshHead _).trans he) hlive (s.part p).nextSeq
  rw [linkGet_freshHead] at hlink
  have hend : ∀ f : Link → Nat, f (linkGet (issueNow sigCmd s p t g) e) = f (linkGet (sigRemote (freshRows (issueHead sigCmd s p t g))
      p t g (s.part p).nextSeq) e) := fun f => by
    rw [hissued.outcome]
    exact congrArg f (linkGet_of_offIssue (offIssue_issueEnd rfl) e)
  refine ⟨_, congrArg Host.Outcome.next (issue_of_ready h.ready), pc_issued hissued ?_, (hend Link.sentSig).trans hlink.1,
    (hend Link.psnTx).trans hlink.2, _, hissued.flight rfl, rfl, rfl, rfl⟩
  rw [State.stream, State.part, sigRemote_parts]
  rfl

theorem sig_issued_behind (h : Ready sigCmd s p t g s)
    (hblocked : sigBlocked (dueState sigCmd s p t g) p t g (s.part p).nextSeq = true) : ∃ v, exec (.sig p t) s = .next v ∧
    v.conns = s.conns ∧ ∃ f ∈ (v.stream p t).flight, f.word = g ∧ f.done = false ∧ f.wait = .behind := by
  have hissued := issued_of_ready h (effectOf_sig_of_blocked h.atHead.row hblocked) rfl
  refine ⟨_, congrArg Host.Outcome.next (issue_of_ready h), ?_, _, hissued.flight rfl, rfl, rfl, rfl⟩
  rw [hissued.outcome, view_of_offIssue (f := State.conns) (hf := fun _ => rfl) (offIssue_issueEnd rfl)]
  exact view_of_offIssue (f := State.conns) (hf := fun _ => rfl) (offIssue_issueHead sigCmd s p t g)

theorem step_issued (h : Ready stepCmd s p t g s)
    (htraps : (stepRun (freshRows (dueState stepCmd s p t g)) p t g).traps = []) : ∃ v, exec (.step p t) s = .next v ∧
    (v.stream p t).step = ((s.stream p t).step + 1) % 2 ^ 32 ∧
    (v.stream p t).pc = if cOF g 0 = true ∧ (s.stream p t).loop.getD (stepCount g) ≠ 0 then stepLoop g
      else (s.stream p t).pc + 32 := by
  have hop : cOpcode g = 0x05 := by simpa [stepCmd] using h.atHead.row
  have heffect : effectOf stepCmd s p t g = stepRun (freshRows (dueState stepCmd s p t g)) p t g :=
    effectOf_of_unheld (.inl (by rw [hop]; decide)) rfl htraps
  have hissued := issued_of_ready h heffect htraps
  have hstream := lastingStream_stepRun htraps
  have hhead : ∀ {α : Type} (f : Stream → α), (∀ q : Stream, f q.lasting = f q) →
      f ((freshRows (dueState stepCmd s p t g)).stream p t) = f (advance (s.stream p t) g) := fun f hf =>
    stream_view_issueHead (c := stepCmd) hf
  have hview : ∀ {α : Type} (f : Stream → α), (∀ q : Stream, f q.lasting = f q) →
      f ((stepRun (freshRows (dueState stepCmd s p t g)) p t g).state.stream p t) =
        f (steppedStream ((freshRows (dueState stepCmd s p t g)).stream p t) g) := fun f hf => by
    rw [← hf, show Stream.lasting _ = _ from hstream, hf]
  refine ⟨_, congrArg Host.Outcome.next (issue_of_ready h), ?_, hissued.pc.trans ?_⟩
  · rw [hissued.outcome, stream_view_issueEnd (f := Stream.step) (fun _ => rfl) (fun _ _ => rfl) htraps]
    refine (hview Stream.step fun _ => rfl).trans ?_
    rw [step_steppedStream, hhead Stream.step fun _ => rfl]
    rfl
  · refine (hview Stream.pc fun _ => rfl).trans ?_
    rw [pc_steppedStream, hhead Stream.loop fun _ => rfl, hhead Stream.pc fun _ => rfl]
    rfl

/-- Settles O38: each command through the effect that it has at its issue; END is O48's. -/
theorem controlCommands : Obligations.ControlCommands := by
  intro s u p t g e hs
  have hsame : ∀ {c : StreamCmd}, Ready c s p t g u → c.descs s p g = [] → u = s := fun h hd => fetched_eq_of_no_descs h hd
  refine ⟨fun h => ?_, fun h => ?_, fun h => ?_, fun h hlocal => ?_, fun h hremote he => ?_, fun h _ hblocked => ?_,
    fun h htraps => ?_, fun h => ?_⟩
  · obtain rfl := hsame h rfl
    exact mark_issued h
  · obtain rfl := hsame h rfl
    exact wait_issued hs h
  · obtain rfl := hsame h rfl
    exact fence_issued h
  · obtain rfl := hsame h rfl
    exact sig_issued_local h hlocal
  · obtain rfl := hsame h.ready rfl
    exact sig_issued_remote hs h hremote he
  · obtain rfl := hsame h rfl
    exact sig_issued_behind h hblocked
  · obtain rfl := hsame h rfl
    exact step_issued h htraps
  · obtain ⟨-, v, hexec, hdone, hcomplete, -⟩ := (endOfStream s u p t g).2 h
    exact ⟨v, hexec, hdone, hcomplete⟩

end Sys2Proof.Machine
end

section
/-! What the work of the engines on operands leaves (R13, R16, R70 to R75, R127, R215): memory, the core stores, the books
of both, counts and traces change; nothing else of the state does, and of the partitions no more than their books. -/

namespace Sys2Proof.Machine

variable {s u : State} {p : Fin 16} {t : StreamTag}

/-! ### Stops with coordinates, results of the number formats, and folds -/

section
variable {α β γ : Type} {f : State → α}

theorem Op.Leaves.throw (e : Trap) : Op.Leaves f (MonadExcept.throw e : Op β) := fun _ => rfl

theorem Op.exec_tryCatch (m : Op β) (k : Trap → Op β) (s : State) :
    Op.exec (MonadExcept.tryCatch m k) s = match Op.exec m s with
      | (.ok b, t) => (.ok b, t)
      | (.error e, t) => Op.exec (k e) t := by
  change ExceptT.tryCatch m k s = match m s with
    | (.ok b, t) => (.ok b, t)
    | (.error e, t) => k e t
  simp only [ExceptT.tryCatch, ExceptT.mk, Bind.bind, StateT.bind]
  rcases m s with ⟨_ | _, t⟩ <;> rfl

theorem Op.Leaves.tryCatch {m : Op β} {k : Trap → Op β} (hm : Op.Leaves f m) (hk : ∀ e, Op.Leaves f (k e)) :
    Op.Leaves f (MonadExcept.tryCatch m k) := by
  intro s
  have h := hm s
  rw [Op.exec_tryCatch]
  split <;> rename_i he <;> rw [he] at h
  · exact h
  · exact (hk _ _).trans h

theorem Op.Leaves.at {m : Op β} (hm : Op.Leaves f m) (unit core : Nat) (tile : List Nat) : Op.Leaves f (Op.at unit core tile m) :=
  .tryCatch hm fun _ => .throw _

theorem Op.Leaves.atElem {m : Op β} (hm : Op.Leaves f m) (unit core : Nat) (tile : Nat → List Nat) :
    Op.Leaves f (Op.atElem unit core tile m) := .tryCatch hm fun _ => .throw _

theorem Op.Leaves.nan (e : Except TrapKind β) : Op.Leaves f (Op.nan e) := by
  cases e with
  | ok b => exact .pure b
  | error k => exact .stop _

theorem Op.Leaves.nanAt (base : Nat) (e : Except Nans β) : Op.Leaves f (Op.nanAt base e) := by
  cases e with
  | ok b => exact .pure b
  | error k => exact .throw _

theorem Op.Leaves.fold {l : List γ} {k : β → γ → Op β} (hk : ∀ b c, Op.Leaves f (k b c)) (b : β) : Op.Leaves f (Op.fold k b l) := by
  induction l generalizing b with
  | nil => exact .pure b
  | cons c l ih => exact .bind (hk b c) (fun b => ih b)

end

/-! ### The view -/

/-- A partition but for its books, the counts of its layers and the note of an infinity. -/
def Part.worked (x : Part) : Part := { x.steady with layers := [], infSeen := false }

/-- What work on operands leaves: the state but for memory, stores, slots and the books of all these, and what lasts of each
partition. -/
def offWork (s : State) : State × (Fin 16 → Part) :=
  ({ offIssue s with store := [], storeErrs := [], slots := [], rowRuns := [] }, fun p => (s.part p).worked)

theorem offWork_of {s u : State} (h : offIssue u = offIssue s) (h' : steady u = steady s) : offWork u = offWork s :=
  Prod.ext (congrArg (fun w : State => { w with store := [], storeErrs := [], slots := [], rowRuns := [] }) h)
    (funext fun p => congrArg (fun x : Part => { x with layers := [], infSeen := false }) (congrFun h' p))

theorem view_of_offWork {α : Type} {f : State → α} (hf : ∀ s, f (offWork s).1 = f s) (h : offWork u = offWork s) : f u = f s := by
  rw [← hf u, h, hf]

theorem part_view_of_offWork {α : Type} {f : Part → α} (hf : ∀ x : Part, f x.worked = f x) (h : offWork u = offWork s)
    (p : Fin 16) : f (u.part p) = f (s.part p) := by
  rw [← hf (u.part p), ← hf (s.part p)]
  exact congrArg f (congrFun (congrArg Prod.snd h) p)

theorem offWork_of_offReads (h : offReads (fun _ => false) u = offReads (fun _ => false) s) (h' : steady u = steady s) :
    offWork u = offWork s := offWork_of (offIssue_of_offReads h) h'

theorem offWork_bumpCore (s : State) (code nn lo ovf i n : Nat) : offWork (bumpCore s code nn lo ovf i n) = offWork s :=
  offWork_of (offIssue_bump s _ _ n) (steady_of_parts (bump_parts s _ _ n))

theorem offWork_putTrace (s : State) (p : Fin 16) (r : TraceRec) : offWork (putTrace s p r) = offWork s :=
  offWork_of (offIssue_putTrace s p r) (steady_putTrace s p r)

theorem offWork_modPart (s : State) (p : Fin 16) {f : Part → Part} (hf : ∀ x, (f x).worked = x.worked) :
    offWork (s.modPart p f) = offWork s :=
  Prod.ext (congrArg (fun w : State => { w with store := [], storeErrs := [], slots := [], rowRuns := [] }) (offIssue_modPart s p f))
    (funext (part_modPart_view hf s p))

theorem offWork_countEvent (s : State) (p : Fin 16) (t : StreamTag) (layer code nn n : Nat) :
    offWork (countEvent s p t layer code nn n) = offWork s :=
  foldl_view offWork (fun u j => by
    split
    · exact offWork_of (offIssue_addCounter _ _ _ _ _ _ u) (steady_addCounter _ _ _ _ _ _ u)
    · rfl) _ s

theorem offWork_countCore (s : State) (nn code n : Nat) : offWork (countCore s nn code n) = offWork s :=
  foldl_view offWork (fun u j => by
    split
    · exact offWork_of (offIssue_addCounter _ _ _ _ _ _ u) (steady_addCounter _ _ _ _ _ _ u)
    · rfl) _ s

theorem offWork_requestProof (s : State) (kind index : Nat) : offWork (requestProof s kind index) = offWork s :=
  offWork_of_offReads (offReads_requestProof s kind index) (steady_of_parts (requestProof_parts s kind index))

/-! ### On-die SRAM and the core stores -/

theorem offWork_noteSram (s : State) (array owner granule : Nat) (bad : Bool) : offWork (noteSram s array owner granule bad) = offWork s := by
  have hbump : ∀ lo, offWork (bump s lo none 1) = offWork s := fun lo =>
    offWork_of (offIssue_bump s lo none 1) (steady_of_parts (bump_parts s lo none 1))
  unfold noteSram
  dsimp only
  rw [offWork_requestProof, apply_ite offWork, offWork_countCore, ite_self, apply_ite offWork, hbump, ite_self]

theorem readSram_leaves (array owner granule : Nat) (data : List Byte) (mask : Nat) :
    Op.Leaves offWork (readSram array owner granule data mask) := by
  unfold readSram
  split
  · exact .pure _
  · exact .bind (.mod fun s => offWork_noteSram s _ _ _ _) (fun _ => .pure _)
  · exact .bind (.mod fun s => offWork_noteSram s _ _ _ _) (fun _ => .stop _)

theorem readArray_leaves (array owner lo : Nat) (bytes : List Byte) : Op.Leaves offWork (readArray array owner lo bytes) :=
  .bind .get (fun _ => .ite (.pure _) (.bind (.map fun _ => readSram_leaves _ _ _ _ _) (fun _ => .pure _)))

theorem readStoreGranule_leaves (nn ofs : Nat) : Op.Leaves offWork (readStoreGranule nn ofs) :=
  .bind .get (fun _ => readSram_leaves _ _ _ _ _)

theorem readStore_leaves (nn a n : Nat) : Op.Leaves offWork (readStore nn a n) :=
  .bind (.map fun _ => .bind (readStoreGranule_leaves _ _) (fun _ => .pure _)) (fun _ => .pure _)

theorem writeStore_leaves (nn a : Nat) (bytes : List Byte) : Op.Leaves offWork (writeStore nn a bytes) :=
  .each fun _ => .bind (.ite (.pure _) (readStoreGranule_leaves _ _)) (fun _ => .mod fun _ => rfl)

/-! ### Partition memory -/

theorem readMem_leaves (side : Side) (p : Fin 16) (a n : Nat) : Op.Leaves offWork (readMem side p a n) := fun s =>
  offWork_of_offReads (readMem_leaves_offReads hidesShelves_nothing _ _ _ _ s) (readMem_leaves_steady _ _ _ _ s)

theorem writeMem_leaves (side : Side) (p : Fin 16) (a : Nat) (bytes : List Byte) : Op.Leaves offWork (writeMem side p a bytes) :=
  fun s => offWork_of (offIssue_of_offWrites (writeMem_leaves_offWrites hidesShelves_nothing _ _ _ _ s))
    (writeMem_leaves_steady _ _ _ _ s)

theorem writeStripe_leaves (side : Side) (p : Fin 16) (a : Nat) (bytes : List Byte) : Op.Leaves offWork (writeStripe side p a bytes) :=
  fun s => offWork_of (offIssue_of_offWrites (writeStripe_leaves_offWrites hidesShelves_nothing _ _ _ _ s))
    (writeStripe_leaves_steady _ _ _ _ s)

theorem awaitPages_leaves (p : Fin 16) (a n : Nat) : Op.Leaves offWork (awaitPages p a n) :=
  .bind .get (fun _ => .ite (.stop _) (.ite (.stop _) (.pure _)))

theorem awaitFrame_leaves (p : Fin 16) (a : Nat) : Op.Leaves offWork (awaitFrame p a) :=
  .bind .get (fun _ => .ite (.stop _) (.pure _))

theorem readDev_leaves (c : Ctx) (a n : Nat) : Op.Leaves offWork (readDev c a n) :=
  .bind (awaitPages_leaves _ _ _) (fun _ => .bind .get (fun _ => .bind (readMem_leaves _ _ _ _) (fun _ => .pure _)))

theorem writeDev_leaves (c : Ctx) (a : Nat) (bytes : List Byte) : Op.Leaves offWork (writeDev c a bytes) :=
  .bind (awaitPages_leaves _ _ _) (fun _ => .each fun _ => .bind (awaitFrame_leaves _ _) (fun _ => writeStripe_leaves _ _ _ _))

/-! ### The space that a descriptor names -/

theorem readSpace_leaves (c : Ctx) (d : Desc) (a n : Nat) : Op.Leaves offWork (readSpace c d a n) :=
  .ite (.bind .get (fun _ => .bind (readStore_leaves _ _ _) (fun _ => .pure _))) (readDev_leaves _ _ _)

theorem putRow_leaves {put : List Byte → Op Unit} (hput : ∀ bs, Op.Leaves offWork (put bs)) (sp a : Nat) (bytes : List Byte) :
    Op.Leaves offWork (putRow sp a bytes put) := .bind .get (fun _ => .bind (.mod fun _ => rfl) (fun _ => hput _))

theorem writeSpace_leaves (c : Ctx) (d : Desc) (a : Nat) (bytes : List Byte) : Op.Leaves offWork (writeSpace c d a bytes) :=
  .ite (putRow_leaves (fun _ => writeStore_leaves _ _ _) _ _ _) (putRow_leaves (fun _ => writeDev_leaves _ _ _) _ _ _)

/-! ### Blocks -/

theorem readBlocks_leaves (c : Ctx) (d : Desc) (jb n : Nat) (r : Nat × Nat × Nat) : Op.Leaves offWork (readBlocks c d jb n r) :=
  .ite (.map fun _ => .bind (readSpace_leaves _ _ _ _) (fun _ => .bind (.ite (readSpace_leaves _ _ _ _) (.pure _)) (fun _ => .pure _)))
    (.bind (readSpace_leaves _ _ _ _) (fun _ => .bind (.ite (readSpace_leaves _ _ _ _) (.pure _)) (fun _ => .pure _)))

theorem readHeld_leaves (c : Ctx) (d : Desc) (jb n : Nat) (r : Nat × Nat × Nat) : Op.Leaves offWork (readHeld c d jb n r) :=
  .ite (readBlocks_leaves _ _ _ _ _) (.bind (readBlocks_leaves _ _ _ _ _) (fun _ => .bind (readSpace_leaves _ _ _ _) (fun _ =>
    .bind (.ite (readSpace_leaves _ _ _ _) (.pure _)) (fun _ => .pure _))))

theorem writeBlocks_leaves (c : Ctx) (d : Desc) (jb : Nat) (r : Nat × Nat × Nat) (bs : List RawBlock) :
    Op.Leaves offWork (writeBlocks c d jb r bs) :=
  .ite (.bind (writeSpace_leaves _ _ _ _) (fun _ => .ite (writeSpace_leaves _ _ _ _) (.pure _)))
    (.each fun _ => .bind (writeSpace_leaves _ _ _ _) (fun _ => .ite (writeSpace_leaves _ _ _ _) (.pure _)))

theorem readZps_leaves (c : Ctx) (d : Desc) (jb n : Nat) : Op.Leaves offWork (readZps c d jb n) :=
  .ite (.bind (readSpace_leaves _ _ _ _) (fun _ => .pure _)) (.pure _)

theorem malformed_leaves {α : Type} (c : Ctx) (d : Desc) (a : Nat) : Op.Leaves offWork (malformed c d a : Op α) := by
  refine .bind .get (fun s => ?_)
  split <;> exact .stop _

theorem recallGroup_leaves (c : Ctx) (d : Desc) (jb : Nat) (r : Nat × Nat × Nat) : Op.Leaves offWork (recallGroup c d jb r) := by
  refine .bind (readSpace_leaves _ _ _ _) (fun _ => .bind (readZps_leaves _ _ _ _) (fun _ =>
    .ite (.bind (readSpace_leaves _ _ _ _) (fun _ => .pure _)) (.ite (.ite (malformed_leaves _ _ _) (.pure _))
      (.ite (malformed_leaves _ _ _) (.bind (readSpace_leaves _ _ _ _) (fun _ => ?_))))))
  split
  · exact .pure _
  · exact malformed_leaves _ _ _

theorem offWork_countCrumb (s : State) (nn raw packed : Nat) (isRaw : Bool) : offWork (countCrumb s nn raw packed isRaw) = offWork s := by
  unfold countCrumb
  dsimp only
  split
  · rw [offWork_bumpCore, offWork_bumpCore, offWork_bumpCore]
  · rw [offWork_bumpCore, offWork_bumpCore]

theorem writeGroup_leaves (c : Ctx) (d : Desc) (jb : Nat) (r : Nat × Nat × Nat) (bs : List RawBlock) :
    Op.Leaves offWork (writeGroup c d jb r bs) := by
  have hscales : ∀ a bytes raw packed isRaw (n : Nat), Op.Leaves offWork (do
      writeSpace c d a bytes
      Op.mod (fun s => countCrumb s c.nn raw packed isRaw)
      pure n) := fun _ _ _ _ _ _ =>
    .bind (writeSpace_leaves _ _ _ _) (fun _ => .bind (.mod fun s => offWork_countCrumb s _ _ _ _) (fun _ => .pure _))
  exact .bind (readZps_leaves _ _ _ _) (fun _ => .ite (.bind (writeSpace_leaves _ _ _ _) (fun _ => hscales _ _ _ _ _ _))
    (hscales _ _ _ _ _ _))

theorem recallBlocks_leaves (c : Ctx) (d : Desc) (jb n : Nat) (r : Nat × Nat × Nat) : Op.Leaves offWork (recallBlocks c d jb n r) :=
  .ite (.bind (.map fun _ => .bind (recallGroup_leaves _ _ _ _) (fun _ =>
    .bind (.mod fun s => offWork_bumpCore s _ _ _ _ _ _) (fun _ => .pure _))) (fun _ => .pure _)) (readHeld_leaves _ _ _ _ _)

theorem readValues_leaves (c : Ctx) (d : Desc) (jb n : Nat) (r : Nat × Nat × Nat) : Op.Leaves offWork (readValues c d jb n r) :=
  .bind (recallBlocks_leaves _ _ _ _ _) (fun _ => .bind (readZps_leaves _ _ _ _) (fun _ => .bind (.nanAt _ _) (fun _ => .pure _)))

end Sys2Proof.Machine
end

section
/-! The vector operations (R220 to R232): no row of an accumulator memory changes; O40. -/

namespace Sys2Proof.Machine

variable {s u : State} {p : Fin 16} {t : StreamTag} {g : Granule}

/-! ### What the conversion stage leaves -/

theorem offWork_noteInf (s : State) (p : Fin 16) (t : StreamTag) (g : Granule) (unit core : Nat) (tile : List Nat) :
    offWork (noteInf s p t g unit core tile) = offWork s := by
  unfold noteInf
  split
  · rfl
  · exact (offWork_putTrace _ _ _).trans (offWork_modPart s p fun _ => rfl)

theorem Work.count_leaves (w : Work) (code lo ovf bit n : Nat) : Op.Leaves offWork (w.count code lo ovf bit n) :=
  .mod fun s => offWork_bumpCore s _ _ _ _ _ _

theorem Work.waits_leaves (w : Work) (code lo ovf bit : Nat) : Op.Leaves offWork (w.waits code lo ovf bit) :=
  .mod fun s => (offWork_bumpCore { s with freeCount := s.freeCount + 1 } _ _ _ _ _ _).trans rfl

theorem Work.event_leaves (w : Work) (code n : Nat) : Op.Leaves offWork (w.event code n) :=
  .mod fun s => offWork_countEvent s _ _ _ _ _ _

theorem Work.infAt_leaves (w : Work) (unit : Nat) (tile : Nat → List Nat) (places : List Nat) :
    Op.Leaves offWork (w.infAt unit tile places) := by
  cases places with
  | nil => exact .pure _
  | cons i _ => exact .mod fun s => offWork_noteInf s _ _ _ _ _ _

theorem Work.form_leaves (w : Work) (unit : Nat) (tile : Nat → List Nat) (rs : List Calc) : Op.Leaves offWork (w.form unit tile rs) :=
  .bind (w.infAt_leaves _ _ _) (fun _ => .atElem (.nanAt _ _) _ _ _)

theorem Work.lanes_leaves (w : Work) (q : Nat) (rs : List Calc) : Op.Leaves offWork (w.lanes q rs) :=
  .bind (.map fun _ => w.form_leaves _ _ _) (fun _ => .pure _)

theorem Work.convert_leaves (w : Work) (unit : Nat) (tile : Nat → List Nat) (rs : List (Except Nans ConvBlock)) (epb : Nat) :
    Op.Leaves offWork (w.convert unit tile rs epb) :=
  .bind (w.infAt_leaves _ _ _) (fun _ => .atElem (.nanAt _ _) _ _ _)

theorem mergeChannel_leaves (p : Fin 16) (addr : Nat) (vs : List Num) : Op.Leaves offWork (mergeChannel p addr vs) := by
  unfold mergeChannel
  split
  · exact .pure _
  · exact .bind (readMem_leaves _ _ _ _) (fun _ => writeMem_leaves _ _ _ _)

theorem reportChannel_leaves (w : Work) (k ch z : Nat) (x : Num) : Op.Leaves offWork (reportChannel w k ch z x) :=
  .bind .get (fun _ => .ite (.bind (mergeChannel_leaves _ _ _) (fun _ => .mod fun _ => rfl)) (.pure _))

theorem offWork_reportBlock (s : State) (nn n : Nat) (r : BlockReport) : offWork (reportBlock s nn n r) = offWork s := by
  have hslot : ∀ f, offWork (bump (slotMod s n f) (0x68000008 + nn * 0x100) none 1) = offWork s := fun f =>
    (offWork_of (offIssue_bump _ _ none 1) (steady_of_parts (bump_parts _ _ none 1))).trans rfl
  exact hslot _

theorem offWork_reportLayer (s : State) (p : Fin 16) (l sat full : Nat) : offWork (reportLayer s p l sat full) = offWork s :=
  offWork_modPart s p fun _ => rfl

theorem reportConv_leaves (w : Work) (d : Desc) (ch n : Nat) (zps : List Nat) (xs : List Num) (store : Bool) (b : ConvBlock) :
    Op.Leaves offWork (reportConv w d ch n zps xs store b) := by
  refine .ite (.bind (.mod fun s => ?_) (fun _ => .bind .get (fun _ => .ite (.each fun _ => reportChannel_leaves _ _ _ _ _) (.pure _))))
    (.pure _)
  dsimp only
  split
  · rw [apply_ite offWork, offWork_reportLayer, ite_self, offWork_reportBlock]
  · exact offWork_reportBlock s _ _ _

theorem writeRow_leaves (w : Work) (d : Desc) (jb : Nat) (r : Nat × Nat × Nat) (bs : List RawBlock) :
    Op.Leaves offWork (writeRow w d jb r bs) :=
  .ite (.bind (.map fun _ => .bind (writeGroup_leaves _ _ _ _ _) (fun _ => .bind (w.event_leaves _ _) (fun _ => .pure _)))
    (fun _ => .pure _)) (.bind (writeBlocks_leaves _ _ _ _ _) (fun _ => .pure _))

/-! ### What the operations of Table 9-1 leave -/

theorem readLane_leaves (w : Work) (q : Nat) (d : Desc) (idx : List (Nat × Nat × Nat)) : Op.Leaves offWork (readLane w q d idx) :=
  .bind (.map fun _ => .bind (.at (readValues_leaves _ _ _ _ _) _ _ _) (fun _ => w.lanes_leaves _ _)) (fun _ => .pure _)

theorem reduceTree_leaves (w : Work) (q : Nat) (xs : List Num) : Op.Leaves offWork (reduceTree w q xs) :=
  .bind (w.lanes_leaves _ _) (fun _ => .bind (.fold (fun _ _ => w.lanes_leaves _ _) _) (fun _ => .pure _))

theorem sumSquares_leaves (w : Work) (q : Nat) (xs : List Num) : Op.Leaves offWork (sumSquares w q xs) :=
  .bind (w.lanes_leaves _ _) (fun _ => reduceTree_leaves _ _ _)

theorem softmaxRow_leaves (w : Work) (q : Nat) (x : Num) (tbl : Option FuncTable) (xs : List Num) :
    Op.Leaves offWork (softmaxRow w q x tbl xs) :=
  .bind (w.lanes_leaves _ _) (fun _ => .ite (.at (.nan _) _ _ _)
    (.bind (w.lanes_leaves _ _) (fun _ => .bind (reduceTree_leaves _ _ _) (fun _ => w.lanes_leaves _ _))))

theorem normRow_leaves (w : Work) (q : Nat) (eps : Num) (gs bs : Option (List Num)) (xs : List Num) :
    Op.Leaves offWork (normRow w q eps gs bs xs) :=
  .bind (sumSquares_leaves _ _ _) (fun _ => .bind (w.lanes_leaves _ _) (fun _ => w.lanes_leaves _ _))

theorem centred_leaves (w : Work) (q : Nat) (xs : List Num) : Op.Leaves offWork (centred w q xs) :=
  .bind (reduceTree_leaves _ _ _) (fun _ => .bind (w.lanes_leaves _ _) (fun _ => w.lanes_leaves _ _))

theorem rowOp_leaves (w : Work) (q f : Nat) (x : Num) (tbl : Option FuncTable) (gs bs : Option (List Num)) (xs : List Num) :
    Op.Leaves offWork (rowOp w q f x tbl gs bs xs) := by
  unfold rowOp
  split
  · exact .bind (reduceTree_leaves _ _ _) (fun _ => .pure _)
  · exact .pure _
  · exact .pure _
  · exact .bind (sumSquares_leaves _ _ _) (fun _ => .pure _)
  · exact softmaxRow_leaves _ _ _ _ _
  · exact normRow_leaves _ _ _ _ _ _
  · exact .bind (centred_leaves _ _ _) (fun _ => normRow_leaves _ _ _ _ _ _)

theorem vopOut_leaves (w : Work) (d : Desc) (use : Option SlotUse) (zps : List Nat) (q : Nat)
    (rows : List ((Nat × Nat × Nat) × List Num)) : Op.Leaves offWork (vopOut w d use zps q rows) :=
  .bind (.map fun _ => w.convert_leaves _ _ _ _) (fun _ =>
    .bind (.each fun _ => .bind (writeRow_leaves _ _ _ _ _) (fun _ => .each fun _ => reportConv_leaves _ _ _ _ _ _ _ _)) (fun _ =>
      .bind (w.count_leaves _ _ _ _ _) (fun _ => .bind (w.count_leaves _ _ _ _ _) (fun _ => .bind (w.count_leaves _ _ _ _ _) (fun _ =>
        .bind (w.event_leaves _ _) (fun _ => w.event_leaves _ _))))))

theorem vopParam_leaves (w : Work) (q : Nat) : Op.Leaves offWork (vopParam w q) := .at (.nan _) _ _ _

theorem vopRow_leaves (w : Work) (j : VopJob) (use : Option SlotUse) (zps : List Nat) (tbl : Option FuncTable) (q : Nat) :
    Op.Leaves offWork (vopRow w j use zps tbl q) := by
  have haffine : ∀ d : Desc, Op.Leaves offWork (do
      let l ← readLane w q d (rowParts (vWide w.g) j.b 0)
      pure (some l)) := fun _ => .bind (readLane_leaves _ _ _ _) (fun _ => .pure _)
  exact .bind (vopParam_leaves _ _) (fun _ => .bind (readLane_leaves _ _ _ _) (fun _ =>
    .bind (.ite (haffine _) (.pure _)) (fun _ => .bind (.ite (haffine _) (.pure _)) (fun _ =>
      .bind (rowOp_leaves _ _ _ _ _ _ _ _) (fun _ => vopOut_leaves _ _ _ _ _ _)))))

theorem vopElems_leaves (w : Work) (j : VopJob) (use : Option SlotUse) (zps : List Nat) (tbl : Option FuncTable) (q : Nat) :
    Op.Leaves offWork (vopElems w j use zps tbl q) :=
  .bind (vopParam_leaves _ _) (fun _ => .bind (readLane_leaves _ _ _ _) (fun _ => .bind (.ite (readLane_leaves _ _ _ _) (.pure _))
    (fun _ => .bind (w.lanes_leaves _ _) (fun _ => vopOut_leaves _ _ _ _ _ _))))

/-! ### The accumulator memories -/

/-- The rows of every accumulator memory. -/
def amRows (s : State) : Fin 64 → Sparse AmRow := fun k => (s.core k).am

theorem Op.Leaves.amRows {β : Type} {m : Op β} (h : Op.Leaves offWork m) : Op.Leaves Machine.amRows m := fun s =>
  view_of_offWork (f := Machine.amRows) (fun _ => rfl) (h s)

theorem amRows_modCore (s : State) (c : Fin 64) {f : Core → Core} (hf : ∀ x, (f x).am = x.am) : amRows (s.modCore c f) = amRows s := by
  funext k
  by_cases hk : k = c
  · subst hk
    rw [amRows, State.core_modCore_same, hf]
    rfl
  · rw [amRows, State.core_modCore_ne _ _ hk]
    rfl

/-- A function table that a core takes up enters its cache of tables, and nothing else of the core changes. -/
theorem useTable_leaves_amRows (w : Work) (k : Nat) (tbl : Option FuncTable) : Op.Leaves amRows (useTable w k tbl) := by
  refine .bind .get (fun s => .bind (.bind .get (fun _ => .pure _)) (fun x => ?_))
  cases tbl with
  | none => exact .pure _
  | some f =>
    exact .ite (.pure _) (.bind (w.count_leaves _ _ _ _ _).amRows (fun _ => .bind (.mod fun s => amRows_modCore s _ fun _ => rfl)
      (fun _ => .bind (.mod fun _ => rfl) (fun _ => .ite (.pure _) (.bind (readArray_leaves _ _ _ _).amRows (fun _ => .pure _))))))

theorem vopCore_leaves_amRows (w : Work) (j : VopJob) (tbl : Option FuncTable) : Op.Leaves amRows (vopCore w j tbl) := by
  have hrest : ∀ use tbl, Op.Leaves amRows (do
      let tbl ← (if vopTable w.g then Op.at 5 w.c.nn [0, 0, 0, 0] (useTable w (vTable w.g) tbl) else pure none)
      let zps ← Op.at 5 w.c.nn [0, 0, 0, 0] (readZps w.c j.d 0 j.d.blocks)
      if isRowOp (vFunc w.g) then Op.each (List.range (rowCount w.g j.a)) (vopRow w j use zps tbl)
      else Op.each (List.range j.d.rows) (vopElems w j use zps tbl)) := fun _ _ =>
    .bind (.ite (.at (useTable_leaves_amRows _ _ _) _ _ _) (.pure _)) (fun _ => .bind (.at (readZps_leaves _ _ _ _).amRows _ _ _)
      (fun _ => .ite (.each fun _ => (vopRow_leaves _ _ _ _ _ _).amRows) (.each fun _ => (vopElems_leaves _ _ _ _ _ _).amRows)))
  exact .bind .get (fun _ => .ite (.bind (w.waits_leaves _ _ _ _).amRows (fun _ => hrest _ _)) (hrest _ _))

/-- Work at the cores of a command leaves what its work at each core leaves. -/
theorem onCoresOf_leaves {α : Type} {f : State → α} {k : Work → Op Unit} (hk : ∀ w, Op.Leaves f (k w))
    (hfresh : ∀ s, f (freshRows s) = f s) (s : State) : f (onCoresOf s p t g k).1 = f s := by
  have hcore : ∀ c, Op.Leaves f (Op.at 0 c.1 [0, 0, 0, 0] (if wrapperClosed s (engineBlk g c.1)
      then Op.stop (.mem 3 0 0 0xFFFF) else k (workOf s p t g c))) := fun c => .at (.ite (.stop _) (hk _)) _ _ _
  unfold onCoresOf onTargets
  refine (foldl_view (fun acc : State × List Trap => f acc.1) (fun acc c => ?_) _ _).trans (hfresh s)
  have hleft := hcore c acc.1
  split <;> rename_i he <;> rw [he] at hleft <;> exact hleft

theorem exec_vectorRow_issued {r : Instr × Nat} (hr : r ∈ vectorRows p t) (h : Ready (vopCmd r.2) s p t g u) :
    exec r.1 s = .next (issueNow (vopCmd r.2) u p t g) := by rw [exec_vectorRow hr, issue_of_ready h]

/-- Settles O40: the operation is done at each core at its issue, and none of its steps writes an accumulator memory. -/
theorem vectorCommands : Obligations.VectorCommands := by
  intro s u b p t g q _ r hr hbegins hb hq hstops
  have hrun : (vopCmd r.2).run (freshRows (dueState (vopCmd r.2) u p t g)) p t g (u.part p).nextSeq = ⟨q.1, [], .none⟩ := by
    rw [← hstops, hq, hb]
    rfl
  have heffect := (effectOf_of_begins hbegins (by rw [hrun])).trans hrun
  have hissued := issued_of_ready hbegins.ready heffect rfl
  refine ⟨_, exec_vectorRow_issued hr hbegins.ready, hissued, fun k => ?_⟩
  have hwork : amRows q.1 = amRows b := by
    rw [hq]
    exact onCoresOf_leaves (fun w => vopCore_leaves_amRows w _ _) (fun _ => rfl) b
  have hhead : b.cores = s.cores := by
    rw [hb]
    exact (view_of_offIssue (u := issueHead (vopCmd r.2) u p t g) (f := State.cores) (hf := fun _ => rfl)
      (offIssue_issueHead _ _ _ _ _)).trans (cores_of_fetched hbegins.ready.fetched)
  have hrows : amRows b = amRows s := congrArg (fun cs : Vector Core 64 => fun k : Fin 64 => cs[k].am) hhead
  have hend : amRows (issueNow (vopCmd r.2) u p t g) = amRows q.1 :=
    congrArg (fun cs : Vector Core 64 => fun k : Fin 64 => cs[k].am) hissued.cores
  exact congrFun (hend.trans (hwork.trans hrows)) k

end Sys2Proof.Machine
end

section
/-! Ports (R353, R355, R358): their bring-up, what other protocols send them, and the pauses of a class. -/

namespace Sys2Proof.Machine

variable {s t : State} {i : Nat}

/-! ### Ports after an update -/

theorem portGet_portSet (hs : s.Canonical) (i : Nat) (x : Port) (j : Nat) :
    portGet (portSet s i x) j = if j = i then x else portGet s j := Sparse.get_set i x hs.ports j

theorem portMoved_portSet (hs : s.Canonical) (i : Nat) (x : Port) : PortMoved s (portSet s i x) i x :=
  ⟨by rw [portGet_portSet hs, if_pos rfl], fun j hj => by rw [portGet_portSet hs, if_neg hj], rfl⟩

/-- A port that exists, is in service and is in one of the named states moves to the new one, and no other port does. -/
theorem portMoved_movePort (hs : s.Canonical) {olds : List PortState} (hst : olds.contains (portGet s i).state = true)
    (hdead : (portGet s i).dead = false) (hx : portExists s i = true) (new : PortState) :
    PortMoved s (movePort s i olds new) i { portGet s i with state := new } := by
  unfold movePort
  rw [if_pos (by rw [hst, hdead, hx]; rfl)]
  exact portMoved_portSet hs i _

/-- Letting what waits on a port go sends frames of its links, and changes nothing else. -/
theorem offFrames_pumpPort (s : State) (i : Nat) : offFrames (pumpPort s i) = offFrames s :=
  foldl_view offFrames (fun u e => offFrames_pump u e) _ s

theorem portGet_pumpPort (s : State) (i j : Nat) : portGet (pumpPort s i) j = portGet s j :=
  view_of_offFrames (f := fun u => portGet u j) (h := offFrames_pumpPort s i)

/-- Settles O27: each row moves its port from the state that it names, and the third flap of 10 s holds the port. -/
theorem portBringUp : Obligations.PortBringUp := by
  intro s i x flaps hs hx
  subst hx
  refine ⟨fun hdead hex => ?_, fun hup hflaps => ⟨_, if_pos hup, ?_⟩⟩
  · have moves (olds : List PortState) (new : PortState) (h : olds.contains (portGet s i.val).state = true) :=
      portMoved_movePort hs h hdead hex new
    refine ⟨fun h => ⟨_, rfl, moves [.training, .failed] .locking ?_⟩, fun h => ⟨_, rfl, ?_⟩,
      fun h => ⟨_, congrArg (f := Host.Outcome.next) (if_pos h), ?_⟩, fun h => ⟨_, rfl, moves [.locking] .training (by rw [h]; rfl)⟩,
      fun h => ⟨_, rfl, moves [.held] .training (by rw [h]; rfl)⟩,
      fun h => ⟨_, rfl, moves [.training] .failed (by rw [h]; rfl)⟩⟩
    · rcases h with h | h <;> rw [h] <;> rfl
    · have hsame : { portGet s i.val with state := .training } = portGet s i.val := by rw [← h]
      exact hsame ▸ moves [.training] .training (by rw [h]; rfl)
    · obtain ⟨hsame, hother, hframe⟩ := moves [.locking] .up (by rw [h]; rfl)
      have hkept := offFrames_pumpPort (movePort s i.val [.locking] .up) i.val
      refine ⟨by rw [portGet_pumpPort, hsame], fun j hj => by rw [portGet_pumpPort, hother j hj], ?_, ?_⟩
      · rw [view_of_offFrames (f := fun u => u.mem) (h := hkept), hframe]
      · rw [view_of_offFrames (f := fun u => u.parts) (h := hkept), hframe]
  · subst hflaps
    exact portMoved_portSet hs i.val _

/-! ### Frames of other protocols -/

theorem portOfCode_codeOfPort (i : Fin 20) : portOfCode (codeOfPort i.val) = some i.val := by
  revert i
  decide

theorem portCarries_of_up (i : Fin 20) (h : (portGet s i.val).state = .up) : portCarries s (codeOfPort i.val) = true := by
  unfold portCarries
  rw [portOfCode_codeOfPort]
  exact decide_eq_true h

/-- The state but for the registers and the counts. -/
def offTallies (s : State) : State := { s with regs := [], counts := [] }

theorem eq_of_offTallies (h : offTallies t = offTallies s) : t = { s with counts := t.counts, regs := t.regs } :=
  congrArg (fun u : State => { u with counts := t.counts, regs := t.regs }) h

theorem eq_of_offTallies_ports (h : offTallies t = offTallies s) :
    t = { s with counts := t.counts, regs := t.regs, ports := t.ports } :=
  congrArg (fun u : State => { u with counts := t.counts, regs := t.regs, ports := t.ports }) h

theorem view_of_offTallies {α : Type} {f : State → α} (hf : ∀ s, f (offTallies s) = f s := by exact fun _ => rfl)
    (h : offTallies t = offTallies s) : f t = f s := by rw [← hf t, h, hf]

theorem portMod_of_offTallies (h : offTallies t = offTallies s) (i : Nat) (f : Port → Port) :
    portMod t i f = { s with counts := t.counts, regs := t.regs, ports := (portMod t i f).ports } :=
  congrArg (fun u : State => { u with counts := t.counts, regs := t.regs, ports := (portMod t i f).ports }) h

theorem offTallies_bumpPort (s : State) (i j n : Nat) : offTallies (bumpPort s i j n) = offTallies s := rfl

/-- A count of a port's set counts, and no other count of a set does. -/
theorem count_bumpPort (hs : s.Canonical) (i j n k : Nat) :
    count (bumpPort s i j n) (portBase i + 8 + 8 * k) =
      if k = j then (count s (portBase i + 8 + 8 * j) + n) % wrap48 else count s (portBase i + 8 + 8 * k) := by
  unfold bumpPort
  rw [count_bump hs]
  by_cases h : k = j
  · subst h
    simp only [if_true]
  · rw [if_neg h, if_neg (by omega)]

theorem bumpPort_canonical (hs : s.Canonical) (i j n : Nat) : (bumpPort s i j n).Canonical :=
  (bumpPort_kept (.refl s) i j n).canonical hs

/-- What a frame of another protocol counts on a port that is UP: one frame received, and its bytes. -/
theorem hearOther_of_up (i : Fin 20) (h : (portGet s i.val).state = .up) :
    hearOther s i.val = bumpPort (bumpPort s i.val 1 1) i.val 3 (Config.frameOverhead (codeOfPort i.val)) := by
  unfold hearOther
  rw [if_pos (portCarries_of_up i h)]

theorem offTallies_hearOther (s : State) (i : Nat) : offTallies (hearOther s i) = offTallies s := by
  unfold hearOther
  split <;> rfl

theorem hearOther_canonical (hs : s.Canonical) (i : Nat) : (hearOther s i).Canonical :=
  (hearOther_kept (.refl s) i).canonical hs

theorem count_hearOther (hs : s.Canonical) (i : Fin 20) (h : (portGet s i.val).state = .up) :
    count (hearOther s i.val) (portBase i.val + 0x10) = (count s (portBase i.val + 0x10) + 1) % 2 ^ 48 := by
  rw [hearOther_of_up i h, count_bumpPort (bumpPort_canonical hs _ _ _) _ 3 _ 1, if_neg (by decide), count_bumpPort hs _ 1 _ 1,
    if_pos rfl]
  rfl

/-- An answer to a request for the port's own address is a host port's, and counts as one frame sent. -/
theorem offTallies_answerOther (s : State) (i : Nat) : offTallies (answerOther s i) = offTallies s := by
  unfold answerOther
  dsimp only
  split
  · rw [offTallies_bumpPort, offTallies_bumpPort, offTallies_hearOther]
  · exact offTallies_hearOther s i

theorem count_answerOther (hs : s.Canonical) (i : Fin 20) (h : (portGet s i.val).state = .up) :
    count (answerOther s i.val) (portBase i.val + 0x10) = (count s (portBase i.val + 0x10) + 1) % 2 ^ 48 ∧
      count (answerOther s i.val) (portBase i.val + 8) = if 12 ≤ i.val then (count s (portBase i.val + 8) + 1) % 2 ^ 48
        else count s (portBase i.val + 8) := by
  have hc := hearOther_canonical hs i.val
  have hsent : count (hearOther s i.val) (portBase i.val + 8) = count s (portBase i.val + 8) := by
    rw [hearOther_of_up i h, count_bumpPort (bumpPort_canonical hs _ _ _) _ 3 _ 0, if_neg (by decide),
      count_bumpPort hs _ 1 _ 0, if_neg (by decide)]
  unfold answerOther
  dsimp only
  by_cases hhost : 12 ≤ i.val
  · rw [if_pos ⟨hhost, portCarries_of_up i h⟩, if_pos hhost]
    have hcount (k : Nat) (hk : k ≠ 2) := (count_bumpPort (bumpPort_canonical hc i.val 0 1) i.val 2
      (Config.frameOverhead (codeOfPort i.val)) k).trans (if_neg hk)
    refine ⟨(hcount 1 (by decide)).trans ?_, (hcount 0 (by decide)).trans ?_⟩
    · rw [count_bumpPort hc _ 0 _ 1, if_neg (by decide)]
      exact count_hearOther hs i h
    · rw [count_bumpPort hc _ 0 _ 0, if_pos rfl, Nat.mul_zero, Nat.add_zero, hsent]
      rfl
  · rw [if_neg (fun hand => hhost hand.1), if_neg hhost]
    exact ⟨count_hearOther hs i h, hsent⟩

/-- Settles O28: each frame counts on its port, a pause moves its port alone, and a request is answered on a host port. -/
theorem otherProtocols : Obligations.OtherProtocols := by
  intro s i ctl x rx hs hx hup hrx
  subst hx hrx
  have hheard := count_hearOther hs i hup
  refine ⟨?_, fun hpaused => ⟨_, congrArg (f := Host.Outcome.next) (if_pos hpaused), ?_, ?_, ?_⟩,
    ⟨_, rfl, hheard, eq_of_offTallies (offTallies_hearOther s i.val)⟩, fun c hc => ⟨answerOther s i.val, ?_, ?_⟩⟩
  · change ∃ t, execPfcPause ⟨i, ctl⟩ s = _ ∧ _
    unfold execPfcPause
    dsimp only
    have hport (j : Nat) : portGet (hearOther s i.val) j = portGet s j :=
      view_of_offTallies (f := fun u => portGet u j) (h := offTallies_hearOther s i.val)
    rw [portCarries_of_up i hup, Bool.true_and]
    split
    · refine ⟨_, rfl, hheard, ?_, ?_⟩
      · unfold portMod
        rw [portGet_portSet (hearOther_canonical hs i.val), if_pos rfl, hport]
      · exact portMod_of_offTallies (offTallies_hearOther s i.val) i.val _
    · exact ⟨_, rfl, hheard, hport _, eq_of_offTallies_ports (offTallies_hearOther s i.val)⟩
  · rw [portGet_pumpPort, portGet_portSet hs, if_pos rfl]
  · exact (view_of_offFrames (f := fun u => u.mem) (h := offFrames_pumpPort _ _)).trans rfl
  · exact (view_of_offFrames (f := fun u => u.parts) (h := offFrames_pumpPort _ _)).trans rfl
  · simp only [List.mem_cons, List.not_mem_nil, or_false] at hc
    rcases hc with rfl | rfl | rfl <;> rfl
  · obtain ⟨hin, hout⟩ := count_answerOther hs i hup
    exact ⟨hin, hout, eq_of_offTallies (offTallies_answerOther s i.val)⟩

end Sys2Proof.Machine
end

section
/-! The timers of connections and sessions (R363, R365, R366, R395): what an acknowledgement and a frame sent again put on the
wire, and what a link that breaks becomes. -/

namespace Sys2Proof.Machine

variable {s t : State} {e : Endpoint}

/-! ### Commands that wait on a connection leave the connections -/

theorem conns_settleSignals (s : State) (p : Fin 16) (t : StreamTag) : (settleSignals s p t).conns = s.conns :=
  foldl_view State.conns (fun u f => by
    unfold applyFlight
    split
    · exact view_of_offSignals (f := State.conns) (h := offSignals_applySignal _ _ _ _)
    · rfl) _ _

theorem conns_endFlight (s : State) (p : Fin 16) (t : StreamTag) (n : Nat) : (endFlight s p t n).conns = s.conns :=
  conns_settleSignals _ p t

theorem conns_endDependents (p : Fin 16) (t : StreamTag) (gone : List Granule) (fs : List Flight) (s : State) :
    (endDependents p t gone fs s).conns = s.conns := by
  induction fs generalizing gone s with
  | nil => rfl
  | cons f fs ih =>
    unfold endDependents
    split
    · rw [ih, conns_endFlight]
    · exact ih _ _

theorem conns_dropFlight (s : State) (p : Fin 16) (t : StreamTag) (f : Flight) : (dropFlight s p t f).conns = s.conns := by
  unfold dropFlight
  rw [conns_endDependents, conns_endFlight]

theorem conns_handOver (s : State) (code again : Nat) (ws : List WireFrame) : (handOver s code again ws).conns = s.conns :=
  view_of_offWire (f := State.conns) (h := offWire_handOver s code again ws)

theorem conns_sendFrame_sess (s : State) (n : Fin 64) (op flags : Nat) (ext : Option (List Byte)) (payload : List (List Byte)) :
    (sendFrame s (.sess n) op flags ext payload).conns = s.conns := by
  unfold sendFrame
  dsimp only
  split
  · unfold pump
    dsimp only
    split
    · exact conns_handOver _ _ _ _
    · rfl
  · rfl

theorem conns_answerStop (s : State) (p : Fin 16) : (answerStop s p).conns = s.conns :=
  foldl_view State.conns (fun u r => by
    unfold answer
    split
    · exact conns_sendFrame_sess _ _ _ _ _ _
    · rfl) _ _

theorem conns_freeze (s : State) (p : Fin 16) (r : FaultRec) : (freeze s p r).conns = s.conns := by
  have hstop : (stopUpds (recordFault s p r) p).conns = s.conns :=
    foldl_view State.conns (fun u n => by dsimp only; split <;> rfl) _ _
  unfold freeze
  dsimp only
  split
  · rw [conns_answerStop]
    unfold startDump
    split <;> exact hstop
  · exact hstop

/-- The commands that wait on a connection stop or end, and no connection changes. -/
theorem conns_stopWaiters (s : State) (l : Link) : (stopWaiters s l).conns = s.conns := by
  unfold stopWaiters
  dsimp only
  split
  · refine foldl_view State.conns (fun u w => ?_) _ s
    unfold stopWaiter
    split
    · exact conns_freeze _ _ _
    · rfl
  · split
    · refine foldl_view State.conns (fun u w => ?_) _ s
      unfold endWaiter
      split
      · exact conns_dropFlight _ _ _ _
      · rfl
    · rfl

theorem linkGet_stopWaiters (s : State) (l : Link) (c : Fin 2048) :
    linkGet (stopWaiters s l) (.conn c) = linkGet s (.conn c) :=
  congrArg (fun m => Sparse.get Link.free m c.val) (conns_stopWaiters s l)

/-! ### A link that breaks (R363) -/

/-- A connection that breaks sends nothing further. -/
def Link.brokenBy (l : Link) (reason : Nat) : Link :=
  { l with state := .broken, reason := reason, unacked := [], ahead := [], msg := none, rts := [], sigs := [], sends := [],
           recvs := [], parts := [] }

theorem linkGet_breakLink_conn (hs : s.Canonical) (c : Fin 2048) (h : linkLive (linkGet s (.conn c)) = true) (reason : Nat) :
    linkGet (breakLink s (.conn c) reason) (.conn c) = (linkGet s (.conn c)).brokenBy reason := by
  unfold breakLink
  dsimp only
  rw [if_pos h, linkGet_stopWaiters, linkGet_linkSet_same hs]
  rfl

theorem linkGet_breakLink_sess (hs : s.Canonical) (n : Fin 64) (h : linkLive (linkGet s (.sess n)) = true) (reason : Nat) :
    linkGet (breakLink s (.sess n) reason) (.sess n) = freeLink (linkGet s (.sess n)) := by
  unfold breakLink
  dsimp only
  rw [if_pos h, linkGet_linkSet_same hs]

theorem state_breakLink (hs : s.Canonical) (h : linkLive (linkGet s e) = true) (reason : Nat) :
    (linkGet (breakLink s e reason) e).state = if isSession e then .free else .broken := by
  cases e with
  | conn c => rw [linkGet_breakLink_conn hs c h]; rfl
  | sess n => rw [linkGet_breakLink_sess hs n h]; rfl

/-! ### A frame sent again (R366) -/

theorem wire_linkSet (s : State) (e : Endpoint) (l : Link) : (linkSet s e l).wire = s.wire := by
  cases e <;> rfl

/-- The oldest frame, sent and the only one of its number, goes again alone, and counts one retransmission. -/
theorem resend_oldest (hs : s.Canonical) {f : TxFrame} {fs : List TxFrame} (hun : (linkGet s e).unacked = f :: fs)
    (hcar : portCarries s (linkGet s e).port = true) (hsent : f.sent = true) (honly : ∀ g ∈ fs, g.psn ≠ f.psn) :
    linkGet (resend s e [f.psn]) e =
        { linkGet s e with unacked := { f with rexmit := f.rexmit + 1 } :: fs, sinceAck := 0 } ∧
      (resend s e [f.psn]).wire = wireOf s e (linkGet s e) f :: s.wire := by
  have hother : ∀ g ∈ fs, (g.sent && [f.psn].contains g.psn) = false := fun g hg => by
    simp [honly g hg]
  have hone : (linkGet s e).unacked.filter (fun g => g.sent && [f.psn].contains g.psn) = [f] := by
    rw [hun, List.filter_cons_of_pos (by simp [hsent]), List.filter_eq_nil_iff.mpr (fun g hg => by rw [hother g hg]; decide)]
  have hmap : (linkGet s e).unacked.map (fun g => if g.sent && [f.psn].contains g.psn then { g with rexmit := g.rexmit + 1 }
      else g) = { f with rexmit := f.rexmit + 1 } :: fs := by
    rw [hun, List.map_cons, if_pos (by simp [hsent])]
    exact congrArg _ ((List.map_congr_left fun g hg => by rw [hother g hg]; rfl).trans fs.map_id)
  unfold resend
  dsimp only
  rw [hone, hmap, if_neg (by simp [hcar])]
  exact ⟨by rw [linkGet_of_offWire (offWire_handOver _ _ _ _), linkGet_linkSet_same hs],
    by rw [wire_handOver, wire_linkSet]; rfl⟩

/-- What RETRANSMIT_TIMEOUT does with the oldest frame in flight: it goes again, and a frame that has gone 32 times breaks
the connection. -/
theorem exec_retransmitTimeout {f : TxFrame} {fs : List TxFrame} (hlive : linkLive (linkGet s e) = true)
    (hun : (linkGet s e).unacked = f :: fs) (hsent : f.sent = true) {u : State}
    (hu : u = resend (linkSet s e { linkGet s e with rto := (linkGet s e).rto + 1 }) e [f.psn]) :
    exec (.retransmitTimeout e) s =
      .next (if (linkGet u e).unacked.any (fun g => decide (32 ≤ g.rexmit)) then breakLink u e reasonRetry else u) := by
  change execRetransmitTimeout e s = _
  have hfirst : (linkGet s e).unacked.filter (fun g => g.sent) = f :: fs.filter (fun g => g.sent) := by
    rw [hun, List.filter_cons_of_pos hsent]
  subst hu
  unfold execRetransmitTimeout
  simp only [hfirst, hlive]
  rfl

/-! ### What a frame carries, and an acknowledgement (R356, R365) -/

/-- The fields of a frame that its place on the wire does not set. -/
theorem wireOf_frame (s : State) (e : Endpoint) (l : Link) (f : TxFrame) :
    (wireOf s e l f).op = f.op ∧ (wireOf s e l f).psn = f.psn ∧ (wireOf s e l f).payload = f.payload ∧
      (wireOf s e l f).ack = l.psnRx ∧ (wireOf s e l f).dconn = l.peerIdx := by
  unfold wireOf
  dsimp only
  split <;> exact ⟨rfl, rfl, rfl, rfl, rfl⟩

/-- An acknowledgement is a frame of its own that takes no number. -/
theorem sendAck_of_live (hlive : linkLive (linkGet s e) = true) (hcar : portCarries s (linkGet s e).port = true) :
    ∃ f : TxFrame, f.op = 1 ∧ sendAck s e = handOver (linkSet s e { linkGet s e with sinceAck := 0 }) (linkGet s e).port 0
      [wireOf s e (linkGet s e) f] := by
  unfold sendAck
  dsimp only
  rw [hlive, hcar]
  exact ⟨_, rfl, if_pos rfl⟩

theorem linkGet_sendAck (hs : s.Canonical) (hlive : linkLive (linkGet s e) = true)
    (hcar : portCarries s (linkGet s e).port = true) : linkGet (sendAck s e) e = { linkGet s e with sinceAck := 0 } := by
  obtain ⟨f, -, h⟩ := sendAck_of_live hlive hcar
  rw [h, linkGet_of_offWire (offWire_handOver _ _ _ _), linkGet_linkSet_same hs]

theorem wire_sendAck (hlive : linkLive (linkGet s e) = true) (hcar : portCarries s (linkGet s e).port = true) :
    ∃ w, (sendAck s e).wire = w :: s.wire ∧ w.op = 1 ∧ w.ack = (linkGet s e).psnRx ∧ w.dconn = (linkGet s e).peerIdx := by
  obtain ⟨f, hop, h⟩ := sendAck_of_live hlive hcar
  obtain ⟨hwop, -, -, hack, hconn⟩ := wireOf_frame s e (linkGet s e) f
  exact ⟨_, by rw [h, wire_handOver, wire_linkSet]; rfl, hwop.trans hop, hack, hconn⟩

theorem offFrames_sendAck (s : State) (e : Endpoint) : offFrames (sendAck s e) = offFrames s := by
  unfold sendAck
  dsimp only
  split
  · rw [offFrames_of_offWire (offWire_handOver _ _ _ _), offFrames_linkSet]
  · rfl

/-- Settles O29: the acknowledgement timer, the oldest frame sent again, the break of a connection, and the session that never
verified a frame. -/
theorem transportTimers : Obligations.TransportTimers := by
  intro s e n f fs hs
  refine ⟨fun hlive hcar hsince => ⟨sendAck s e, congrArg Host.Outcome.next (if_pos hsince), ?_⟩,
    fun hlive hcar hun hsent honly => ?_, fun hlive hun => ⟨breakLink s e reasonTimeout, ?_, ?_, ?_⟩,
    fun hopen => ⟨linkMod s (.sess n) freeLink, congrArg Host.Outcome.next (if_pos hopen), ?_, ?_, rfl⟩⟩
  · obtain ⟨w, hw, hop, hack, hconn⟩ := wire_sendAck hlive hcar
    exact ⟨w, hw, hop, hack, hconn, linkGet_sendAck hs hlive hcar,
      view_of_offFrames (f := State.parts) (h := offFrames_sendAck s e)⟩
  · have hc := linkSet_canonical hs e { linkGet s e with rto := (linkGet s e).rto + 1 }
    have hget := linkGet_linkSet_same hs e { linkGet s e with rto := (linkGet s e).rto + 1 }
    have hcar' : portCarries (linkSet s e { linkGet s e with rto := (linkGet s e).rto + 1 })
        (linkGet (linkSet s e { linkGet s e with rto := (linkGet s e).rto + 1 }) e).port = true := by
      rw [hget]
      exact (view_of_offFrames (f := fun u => portCarries u (linkGet s e).port) (h := offFrames_linkSet s e _)).trans hcar
    obtain ⟨hlink, hwire⟩ := resend_oldest hc (by rw [hget]; exact hun) hcar' hsent honly
    rw [hget] at hlink
    refine ⟨fun hfew hothers => ?_, fun hlast => ?_⟩
    · obtain ⟨hop, hpsn, hpayload, -, -⟩ := wireOf_frame (linkSet s e { linkGet s e with rto := (linkGet s e).rto + 1 }) e
        { linkGet s e with rto := (linkGet s e).rto + 1 } f
      rw [hget] at hwire
      refine ⟨_, (exec_retransmitTimeout hlive hun hsent rfl).trans (congrArg Host.Outcome.next (if_neg ?_)), _,
        hwire.trans (congrArg _ (wire_linkSet _ _ _)), hop, hpsn, hpayload, ?_, ?_⟩
      · rw [hlink, List.any_eq_true]
        rintro ⟨g, hg, hmany⟩
        rcases List.mem_cons.mp hg with rfl | hg
        · exact absurd (of_decide_eq_true hmany) (by simp only; omega)
        · exact absurd (of_decide_eq_true hmany) (by have := hothers g hg; omega)
      · rw [hlink]
      · rw [hlink]
    · refine ⟨_, (exec_retransmitTimeout hlive hun hsent rfl).trans (congrArg Host.Outcome.next (if_pos ?_)),
        state_breakLink ((resend_kept (.refl _) e _).canonical hc) ?_ _⟩
      · rw [hlink, List.any_cons, hlast]
        rfl
      · rw [hlink]
        exact hlive
  · change Host.Outcome.next _ = _
    rw [hun]
    rfl
  · intro hconn
    cases e with
    | conn c =>
      rw [linkGet_breakLink_conn hs c hlive]
      exact ⟨rfl, rfl, rfl⟩
    | sess n => exact absurd hconn.symm Bool.false_ne_true
  · intro hsess
    cases e with
    | conn c => exact absurd hsess Bool.false_ne_true
    | sess n =>
      rw [linkGet_breakLink_sess hs n hlive]
      exact ⟨rfl, rfl⟩
  · rw [linkGet_linkMod_same hs]
    rfl
  · rw [linkGet_linkMod_same hs]
    rfl

end Sys2Proof.Machine
end

section
/-! A state in which nothing waits (R26, R28, R424): offering again what waits changes nothing. -/

namespace Sys2Proof.Machine

variable {s t : State}

/-- With no access held and no frame of a session ahead of its turn, what a row lets go is nothing. -/
theorem resumeAccs_of_none (haccs : s.accs = []) (hsess : ∀ e ∈ s.sess, e.2.ahead = []) : resumeAccs s = s := by
  have hretry : retryAccs s = s := by
    unfold retryAccs
    obtain ⟨⟩ := s
    subst haccs
    rfl
  have hnone : s.sess.filter (fun e => decide (e.2.ahead ≠ [])) = [] :=
    List.filter_eq_nil_iff.mpr fun e he => by simp [hsess e he]
  unfold resumeAccs waitingSessions
  rw [hretry]
  dsimp only
  rw [hnone]
  rfl

theorem settleAll_of_none (h : ∀ p, anyWaits (s.part p) = false) : settleAll s = s := by
  have hnone : (List.finRange 16).filter (fun p => anyWaits (s.part p)) = [] :=
    List.filter_eq_nil_iff.mpr fun p _ => by simp [h p]
  unfold settleAll
  rw [hnone]
  rfl

theorem resumeStart_of_none {p : Fin 16} (h : (s.part p).starting = false) : resumeStart s p = s := by
  unfold resumeStart
  simp [h]

theorem resumeStarts_of_none (h : ∀ p, (s.part p).starting = false) (l : List (Fin 16)) : l.foldl resumeStart s = s := by
  induction l with
  | nil => rfl
  | cons p l ih => rw [List.foldl_cons, resumeStart_of_none (h p), ih]

/-! ### Frames that go keep what is ahead of its turn -/

/-- No session has a frame ahead of its turn. -/
def NoneAhead (s : State) : Prop := ∀ e ∈ s.sess, e.2.ahead = []

theorem mem_sparse_set {α : Type} [DecidableEq α] {d : α} {m : Sparse α} {k : Nat} {v : α} {e : Nat × α}
    (h : e ∈ Sparse.set d m k v) : e = (k, v) ∨ e ∈ m := by
  induction m with
  | nil =>
    unfold Sparse.set at h
    split at h
    · exact .inr h
    · exact .inl (List.mem_singleton.mp h)
  | cons x m ih =>
    unfold Sparse.set at h
    split at h
    · split at h
      · exact .inr h
      · exact List.mem_cons.mp h
    · split at h
      · split at h
        · exact .inr (List.mem_cons_of_mem _ h)
        · exact (List.mem_cons.mp h).imp id (List.mem_cons_of_mem _)
      · rcases List.mem_cons.mp h with rfl | h
        · exact .inr List.mem_cons_self
        · exact (ih h).imp id (List.mem_cons_of_mem _)

theorem get_sparse_mem {α : Type} (d : α) (m : Sparse α) (k : Nat) : Sparse.get d m k = d ∨ (k, Sparse.get d m k) ∈ m := by
  induction m with
  | nil => exact .inl rfl
  | cons x m ih =>
    unfold Sparse.get
    split
    · next h => exact .inr (h ▸ List.mem_cons_self)
    · split
      · exact .inl rfl
      · exact ih.imp id (List.mem_cons_of_mem _)

theorem NoneAhead.linkGet (h : NoneAhead s) (n : Fin 64) : (linkGet s (.sess n)).ahead = [] := by
  rcases get_sparse_mem Link.free s.sess n.val with hfree | hmem
  · exact congrArg Link.ahead hfree
  · exact h _ hmem

theorem NoneAhead.linkSet (h : NoneAhead s) (e : Endpoint) {l : Link} (hl : isSession e = true → l.ahead = []) :
    NoneAhead (linkSet s e l) := by
  cases e with
  | conn c => exact h
  | sess n =>
    intro x hx
    rcases mem_sparse_set hx with rfl | hx
    · exact hl rfl
    · exact h x hx

theorem NoneAhead.of_sess (h : NoneAhead s) (hsess : t.sess = s.sess) : NoneAhead t := fun e he => h e (hsess ▸ he)

theorem NoneAhead.pump (h : NoneAhead s) (e : Endpoint) : NoneAhead (pump s e) := by
  unfold Machine.pump
  dsimp only
  split
  · refine NoneAhead.of_sess (NoneAhead.linkSet h e fun he => ?_) (view_of_offWire (f := State.sess) (h := offWire_handOver _ _ _ _))
    cases e with
    | conn c => exact absurd he Bool.false_ne_true
    | sess n => exact (congrArg Link.ahead (standing_pumpFrames _ _ _ _ _ _ _)).trans (h.linkGet n)
  · exact h

theorem NoneAhead.pumpPort (h : NoneAhead s) (i : Nat) : NoneAhead (pumpPort s i) := by
  unfold Machine.pumpPort
  generalize portLinks s (codeOfPort i) = es
  induction es generalizing s with
  | nil => exact h
  | cons e es ih => exact ih (h.pump e)

end Sys2Proof.Machine
end

section
/-! Peak, droop, the brake and shedding (R433 to R438): the operating point's move, the registers and counts that each row
writes, and O18 to O20. -/

namespace Sys2Proof.Machine

variable {s t : State}

/-! ### Registers posted and counts of PM -/

theorem postBit_canonical (hs : s.Canonical) (a i : Nat) : (postBit s a i).Canonical := setRaw_canonical hs _ _

theorem flag_postBit (hs : s.Canonical) (a : Nat) {i : Nat} (hi : i < 32) : flag (rawReg (postBit s a i) a) i = true := by
  rw [rawReg_postBit hs, if_pos rfl, flag_setBit_same _ hi]

theorem OnlyRegs.of_postBit (hs : s.Canonical) (a i : Nat) : OnlyRegs s (postBit s a i) [a] := .of_setRaw hs _ _

theorem setPower_canonical (hs : s.Canonical) (f : Power → Power) : (setPower s f).Canonical := { hs with }

theorem bumpPm_canonical (hs : s.Canonical) (ofs n : Nat) : (bumpPm s ofs n).Canonical :=
  (bumpPm_kept (.refl s) ofs n).canonical hs

theorem bumpPm_frame (s : State) (ofs n : Nat) : bumpPm s ofs n = { s with counts := (bumpPm s ofs n).counts } := rfl

theorem rawReg_bumpPm (s : State) (ofs n a : Nat) : rawReg (bumpPm s ofs n) a = rawReg s a := rfl

theorem count_bumpPm (hs : s.Canonical) (ofs n b : Nat) :
    count (bumpPm s ofs n) b = if b = 0xE0000000 + ofs then (count s b + n) % 2 ^ 48 else count s b := by
  unfold bumpPm
  rw [count_bump hs]
  split
  · next h => rw [h]; rfl
  · rfl

/-! ### The move of the operating point (R420) -/

/-- A move that begins writes PM_OP, the point that follows it, and the governor's rises. -/
theorem onlyRegs_startMove (hs : s.Canonical) :
    OnlyRegs { s with power := (startMove s).power, rises := (startMove s).rises } (startMove s) [0xE0000018] := by
  unfold startMove
  dsimp only
  split
  · exact .refl _ _
  · split
    · exact .refl _ _
    · split
      · exact ⟨rfl, fun a ha => rawReg_setRaw_ne hs _ (by simpa using ha)⟩
      · exact ⟨rfl, fun a ha => rawReg_setRaw_ne hs _ (by simpa using ha)⟩

/-- Of the power loops' state a move that begins writes the point that follows alone. -/
theorem power_startMove (s : State) : (startMove s).power = { s.power with opNext := (startMove s).power.opNext } := by
  unfold startMove
  dsimp only
  split
  · rfl
  · split
    · rfl
    · split <;> rfl

theorem view_power_startMove {α : Type} (f : Power → α) (hf : ∀ w n, f { w with opNext := n } = f w) (s : State) :
    f (startMove s).power = f s.power := by rw [power_startMove, hf]

/-- A move that begins after a row has posted to registers and written the loops' state. -/
theorem onlyRegs_startMove_after {as : List Nat} (ht : t.Canonical) (h : OnlyRegs { s with power := t.power } t as) :
    OnlyRegs { s with power := (startMove t).power, rises := (startMove t).rises } (startMove t) (as ++ [0xE0000018]) := by
  obtain ⟨hframe, hregs⟩ := onlyRegs_startMove ht
  obtain ⟨hframe', hregs'⟩ := h
  refine ⟨hframe.trans ?_, fun a ha => ?_⟩
  · exact congrArg (fun u : State => { u with power := (startMove t).power, rises := (startMove t).rises, regs := (startMove t).regs })
      hframe'
  · rw [List.mem_append, not_or] at ha
    exact (hregs a ha.2).trans (hregs' a ha.1)

/-! ### The brake (R437, R438) -/

theorem wantedLevel_of_brake {w : Power} (h : w.brake = true) (c : Nat) : wantedLevel w c = 15 := by
  unfold wantedLevel
  simp [h]

theorem wantedPoint_of_brake (h : s.power.brake = true) : wantedPoint s = 3 := by
  unfold wantedPoint
  simp [h]

theorem brake_startMove (s : State) : (startMove s).power.brake = s.power.brake :=
  view_power_startMove Power.brake (fun _ _ => rfl) s

theorem brakeHold_startMove (s : State) : (startMove s).power.brakeHold = s.power.brakeHold :=
  view_power_startMove Power.brakeHold (fun _ _ => rfl) s

/-- The loops' state as a low of 2 µs leaves it. -/
def Power.engaged (w : Power) (fresh : Bool) : Power :=
  { w with brake := true, brakeHold := false, longPosted := if fresh then false else w.longPosted }

/-- The state that the low leaves before the point moves: an event is posted where the brake was off. -/
def brakeEngaged (s : State) : State :=
  if s.power.brake then setPower s (fun w => w.engaged false) else pwrEvent (setPower s (fun w => w.engaged true)) 1

theorem exec_pwrbrkEngage (s : State) : exec .pwrbrkEngage s = .next (startMove (brakeEngaged s)) := by
  change execPwrbrkEngage s = _
  unfold execPwrbrkEngage brakeEngaged
  cases s.power.brake <;> rfl

theorem brakeEngaged_canonical (hs : s.Canonical) : (brakeEngaged s).Canonical := by
  unfold brakeEngaged
  split
  · exact setPower_canonical hs _
  · exact postBit_canonical (setPower_canonical hs _) _ _

theorem power_brakeEngaged (s : State) : (brakeEngaged s).power = s.power.engaged (!s.power.brake) := by
  unfold brakeEngaged
  cases s.power.brake <;> rfl

theorem onlyRegs_brakeEngaged (hs : s.Canonical) :
    OnlyRegs { s with power := (brakeEngaged s).power } (brakeEngaged s) [0xE0000224] := by
  unfold brakeEngaged
  split
  · exact .refl _ _
  · exact .of_postBit (setPower_canonical hs _) _ _

/-- Settles O20: the brake asks for OP3 and level 15, and each of its rows writes what it names. -/
theorem emergencyBrake : Obligations.EmergencyBrake := by
  intro s k hs
  refine ⟨⟨_, exec_pwrbrkEngage s, ?_⟩, ⟨_, rfl, (count_bumpPm hs 0x260 1 _).trans (if_pos rfl), bumpPm_frame s 0x260 1⟩,
    ⟨_, rfl, rfl, rfl⟩, fun hbrake hhold => ?_, fun hbrake hlong => ?_⟩
  · have hc := brakeEngaged_canonical hs
    have hbrake : (startMove (brakeEngaged s)).power.brake = true := by
      rw [brake_startMove, power_brakeEngaged]
      rfl
    have hlevel := wantedLevel_of_brake hbrake k.val
    refine ⟨hbrake, ?_, hlevel, hlevel ▸ Nat.le_max_left _ _, wantedPoint_of_brake hbrake, fun hfresh => ?_,
      onlyRegs_startMove_after hc (onlyRegs_brakeEngaged hs)⟩
    · rw [brakeHold_startMove, power_brakeEngaged]
      rfl
    · rw [(onlyRegs_startMove hc).2 _ (by decide)]
      unfold brakeEngaged
      rw [hfresh]
      exact flag_postBit (setPower_canonical hs _) _ (by decide)
  · refine ⟨startMove (setPower s (fun w => { w with brake := false, brakeHold := false })), if_pos ?_, ?_,
      onlyRegs_startMove (setPower_canonical hs _)⟩
    · rw [hbrake, hhold]
      rfl
    · rw [brake_startMove]
      rfl
  · refine ⟨pwrEvent (setPower s (fun w => { w with longPosted := true })) 2, if_pos ?_,
      flag_postBit (setPower_canonical hs _) _ (by decide), rfl, .of_postBit (setPower_canonical hs _) _ _⟩
    rw [hbrake, hlong]
    rfl

/-! ### Peak and droop (R433, R434) -/

/-- The reading and the tick. -/
def peakRead (m : PeakReading) (s : State) : State :=
  setRaw { s with tick := s.tick + 1 } 0xE000020C (at32 16 m.centivolts ||| at32 0 (m.centiamps % 65536))

/-- The counts of a tick: those of the brake, and those of requests that wait for a grant. -/
def peakCounted (s : State) : State :=
  let s := if s.power.brake then bumpPm s 0x258 1 else s
  if (s.rises ++ s.falls).any (fun r => !r.granted) then bumpPm s 0x20 1 else s

/-- PEAK_HOLD by its two margins. -/
def peakHeld (m : PeakReading) (s : State) : State :=
  if peakW s < m.p100us + 150 then setStatus s 28 true else if m.p100us + 200 < peakW s then setStatus s 28 false else s

/-- The levels that PEAK_HOLD keeps. -/
def Power.holding (w : Power) (hold : Bool) : Power :=
  { w with heldLevels := if hold then (List.range 3).map (levelOf w) else [0, 0, 0] }

theorem peakCounted_frame (s : State) : peakCounted s = { s with counts := (peakCounted s).counts } := by
  unfold peakCounted
  dsimp only
  split <;> split <;> rfl

/-- The state but for what the peak loop writes. -/
def offPeak (s : State) : State := { s with tick := 0, counts := [], regs := [], power := Power.reset }

theorem eq_of_offPeak (h : offPeak t = offPeak s) :
    t = { s with tick := t.tick, counts := t.counts, power := t.power, regs := t.regs } :=
  congrArg (fun u : State => { u with tick := t.tick, counts := t.counts, power := t.power, regs := t.regs }) h

theorem offPeak_peakCounted (s : State) : offPeak (peakCounted s) = offPeak s := by
  rw [peakCounted_frame]
  rfl

theorem offPeak_peakHeld (m : PeakReading) (s : State) : offPeak (peakHeld m s) = offPeak s := by
  unfold peakHeld
  split
  · rfl
  · split <;> rfl

theorem exec_peakLoop (m : PeakReading) (s : State) : exec (.peakLoop m) s =
    .next (setPower (peakHeld m (peakCounted (peakRead m s)))
      (fun w => w.holding (statusBit (peakHeld m (peakCounted (peakRead m s))) 28))) := rfl

theorem tick_canonical (hs : s.Canonical) (n : Nat) : ({ s with tick := n } : State).Canonical := { hs with }

theorem peakRead_canonical (hs : s.Canonical) (m : PeakReading) : (peakRead m s).Canonical :=
  setRaw_canonical (tick_canonical hs _) _ _

theorem peakCounted_canonical (hs : s.Canonical) : (peakCounted s).Canonical := by
  unfold peakCounted
  dsimp only
  split <;> split
  · exact bumpPm_canonical (bumpPm_canonical hs _ _) _ _
  · exact bumpPm_canonical hs _ _
  · exact bumpPm_canonical hs _ _
  · exact hs

theorem rawReg_peakCounted (s : State) (a : Nat) : rawReg (peakCounted s) a = rawReg s a := by
  rw [peakCounted_frame]
  rfl

theorem count_peakCounted (hs : s.Canonical) : count (peakCounted s) 0xE0000020 =
    if (s.rises ++ s.falls).any (fun r => !r.granted) then (count s 0xE0000020 + 1) % 2 ^ 48 else count s 0xE0000020 := by
  unfold peakCounted
  dsimp only
  by_cases hbrake : s.power.brake = true
  · have hfirst : count (bumpPm s 0x258 1) 0xE0000020 = count s 0xE0000020 := by rw [count_bumpPm hs, if_neg (by decide)]
    rw [if_pos hbrake, apply_ite (fun u => count u 0xE0000020), count_bumpPm (bumpPm_canonical hs _ _), if_pos rfl, hfirst]
    rfl
  · rw [if_neg hbrake, apply_ite (fun u => count u 0xE0000020), count_bumpPm hs, if_pos rfl]

theorem onlyRegs_peakHeld (hs : s.Canonical) (m : PeakReading) : OnlyRegs s (peakHeld m s) [0xE0000204] := by
  unfold peakHeld
  split
  · exact .of_setRaw hs _ _
  · split
    · exact .of_setRaw hs _ _
    · exact .refl _ _

theorem statusBit_peakHeld (hs : s.Canonical) (m : PeakReading) : statusBit (peakHeld m s) 28 =
    if peakW s < m.p100us + 150 then true else if m.p100us + 200 < peakW s then false else statusBit s 28 := by
  unfold peakHeld
  split
  · exact statusBit_setStatus_same hs _ (by decide)
  · split
    · exact statusBit_setStatus_same hs _ (by decide)
    · rfl

/-- Under PEAK_HOLD the level in force stays; otherwise it is the level that the loops ask for. -/
theorem levelOf_holding (w : Power) (hold : Bool) (k : Fin 3) :
    levelOf (w.holding hold) k.val = if hold then levelOf w k.val else wantedLevel w k.val := by
  have hwanted : wantedLevel (w.holding hold) k.val = wantedLevel w k.val := rfl
  have hle : wantedLevel w k.val ≤ levelOf w k.val := Nat.le_max_left _ _
  cases hold
  · have hzero : (w.holding false).heldLevels.getD k.val 0 = 0 := by fin_cases k <;> rfl
    rw [levelOf, hwanted, hzero]
    exact Nat.max_zero _
  · have hheld : (w.holding true).heldLevels.getD k.val 0 = levelOf w k.val := by fin_cases k <;> rfl
    rw [levelOf, hwanted, hheld, if_pos rfl]
    exact Nat.max_eq_right hle

theorem holding_frame {v w : Power} (h : v = w) (hold : Bool) :
    v.holding hold = { w with heldLevels := (v.holding hold).heldLevels } := by
  rw [h]
  rfl

theorem getD_set_same (l : List Bool) {i : Nat} (hi : i < l.length) (b : Bool) : (l.set i b).getD i false = b := by
  simp [List.getD, hi]

/-- While a droop outlasts a stretch, the compute level stands at 8 or more. -/
theorem eight_le_levelOf {w : Power} (h : w.droop.any id = true) : 8 ≤ levelOf w 0 := by
  refine le_trans ?_ (Nat.le_max_left _ _)
  unfold wantedLevel
  simp only [h, and_self, if_true]
  split
  · decide
  · exact Nat.le_max_right _ _

/-- Settles O19: the peak loop at every tick, and the four µs of a droop. -/
theorem peakAndDroop : Obligations.PeakAndDroop := by
  intro s m die k hs hstretch hdroop
  have hdie : die.val < s.power.stretch.length := by rw [hstretch]; exact die.isLt
  have hdie' : die.val < s.power.droop.length := by rw [hdroop]; exact die.isLt
  refine ⟨⟨_, exec_peakLoop m s, ?_⟩, ⟨_, rfl, getD_set_same _ hdie _, ?_, rfl⟩, fun hon => ?_,
    ⟨_, rfl, getD_set_same _ hdie _, getD_set_same _ hdie' _, rfl⟩⟩
  · have hread := peakRead_canonical hs m
    have hcounted := peakCounted_canonical hread
    have hregs (a : Nat) (h20c : a ≠ 0xE000020C) : rawReg (peakCounted (peakRead m s)) a = rawReg s a :=
      (rawReg_peakCounted _ _).trans (rawReg_setRaw_ne (tick_canonical hs _) _ h20c)
    have hstatus (i : Nat) : statusBit (peakCounted (peakRead m s)) i = statusBit s i :=
      congrArg (fun w => flag w i) (hregs _ (by decide))
    have hpeak : peakW (peakCounted (peakRead m s)) = peakW s := congrArg (fun w => field w 23 12) (hregs _ (by decide))
    obtain ⟨hframe, hkept⟩ := onlyRegs_peakHeld hcounted m
    have hcframe := peakCounted_frame (peakRead m s)
    have hpower : (peakHeld m (peakCounted (peakRead m s))).power = s.power := by
      rw [hframe, hcframe]
      rfl
    refine ⟨?_, ?_, ?_, ⟨?_, ?_⟩, ?_, ?_, ?_⟩
    · change (peakHeld m (peakCounted (peakRead m s))).tick = _
      rw [hframe, hcframe]
      rfl
    · refine (statusBit_peakHeld hcounted m).trans ?_
      rw [hpeak, hstatus]
    · refine (hkept _ (by decide)).trans ((rawReg_peakCounted _ _).trans ?_)
      exact rawReg_setRaw_same (tick_canonical hs _) _ _
    · refine eq_of_offPeak ?_
      exact (offPeak_peakHeld m _).trans (offPeak_peakCounted _)
    · intro a ha
      simp only [List.mem_cons, List.not_mem_nil, or_false, not_or] at ha
      exact (hkept a (by simpa using ha.1)).trans (hregs a ha.2)
    · exact holding_frame hpower _
    · refine (levelOf_holding _ _ k).trans ?_
      rw [hpower]
      rfl
    · change count (peakHeld m (peakCounted (peakRead m s))) _ = _
      rw [hframe]
      exact (count_peakCounted hread).trans rfl
  · exact (count_bumpPm (setPower_canonical hs _) 0x250 1 _).trans (if_pos rfl)
  · refine ⟨_, if_pos hon, getD_set_same _ hdie _, eight_le_levelOf ?_, rfl⟩
    exact List.any_eq_true.mpr ⟨true, List.mem_of_getElem? (i := die.val) (by simp [setPower, hdie']), rfl⟩

/-! ### Registers and counts in view while frames go -/

/-- The stored registers and the counts of the addresses in view. -/
def booksIn (g : Nat → Bool) (s : State) : Sparse Word × Sparse Nat :=
  (s.regs.filter (fun e => g e.1), s.counts.filter (fun e => g e.1))

theorem rawReg_of_booksIn {g : Nat → Bool} (hs : s.Canonical) (ht : t.Canonical) (h : booksIn g t = booksIn g s) {a : Nat}
    (ha : g a = true) : rawReg t a = rawReg s a := by
  have hregs : t.regs.filter (fun e => g e.1) = s.regs.filter (fun e => g e.1) := congrArg Prod.fst h
  have hget := fun {u : State} (hu : u.Canonical) => Sparse.get_filter_by (d := resetWord a) (f := resetWord) g hu.regs a
  simp only [ha, if_true] at hget
  rw [rawReg, rawReg, ← hget ht, ← hget hs, hregs]

theorem count_of_booksIn {g : Nat → Bool} (hs : s.Canonical) (ht : t.Canonical) (h : booksIn g t = booksIn g s) {a : Nat}
    (ha : g a = true) : count t a = count s a := by
  have hcounts : t.counts.filter (fun e => g e.1) = s.counts.filter (fun e => g e.1) := congrArg Prod.snd h
  have hget := fun {u : State} (hu : u.Canonical) => Sparse.get_filter_by (d := 0) (f := fun _ => 0) g hu.counts a
  simp only [ha, if_true] at hget
  rw [count, count, ← hget ht, ← hget hs, hcounts]

theorem booksIn_setRaw {g : Nat → Bool} {a : Nat} (ha : g a = false) (s : State) (w : Word) :
    booksIn g (setRaw s a w) = booksIn g s := Prod.ext (Sparse.filter_set ha s.regs w) rfl

theorem booksIn_bump {g : Nat → Bool} {lo : Nat} (hlo : g lo = false) {ovf : Option (Nat × Nat)}
    (hovf : ∀ o ∈ ovf, g o.1 = false) (s : State) (n : Nat) : booksIn g (bump s lo ovf n) = booksIn g s := by
  refine Prod.ext ?_ (Sparse.filter_set hlo s.counts _)
  cases ovf with
  | none => rfl
  | some o =>
    unfold bump booksIn
    dsimp only
    split
    · exact Sparse.filter_set (hovf _ rfl) s.regs _
    · rfl

/-- The registers and counts of the power manager. -/
def pmRegs (a : Nat) : Bool := decide (a / 0x10000000 = 0xE)

theorem portOfCode_lt {c i : Nat} (h : portOfCode c = some i) : i < 20 := by
  unfold portOfCode at h
  split at h
  · cases h
    omega
  · split at h
    · cases h
      omega
    · cases h

theorem portBase_lt {i : Nat} (hi : i < 20) : 0xB0000000 ≤ portBase i ∧ portBase i < 0xC0001000 := by
  unfold portBase
  split <;> omega

/-- The addresses that frames and faults may write are out of view: the ports' registers, the update units' and DB_EVENTS. -/
structure HidesFrames (g : Nat → Bool) : Prop where
  ports : ∀ a, 0xB0000000 ≤ a → a < 0xC0002000 → g a = false
  updates : ∀ a, 0x98000000 ≤ a → a < 0x98001000 → g a = false
  events : g 0xF0000000 = false

theorem hidesFrames_pmRegs : HidesFrames pmRegs :=
  ⟨fun _ _ _ => decide_eq_false (by omega), fun _ _ _ => decide_eq_false (by omega), by decide⟩

section
variable {g : Nat → Bool} (hg : HidesFrames g)
include hg

theorem booksIn_bumpPort {i j : Nat} (hi : i < 20) (hj : j < 16) (s : State) (n : Nat) :
    booksIn g (bumpPort s i j n) = booksIn g s := by
  have hbase := portBase_lt hi
  refine booksIn_bump (hg.ports _ (by omega) (by omega)) (fun o ho => ?_) s n
  cases ho
  exact hg.ports _ (by omega) (by omega)

theorem booksIn_handOver (s : State) (code again : Nat) (ws : List WireFrame) :
    booksIn g (handOver s code again ws) = booksIn g s := by
  unfold handOver
  dsimp only
  split
  · next h => rw [booksIn_bumpPort hg (portOfCode_lt h) (by decide), booksIn_bumpPort hg (portOfCode_lt h) (by decide),
      booksIn_bumpPort hg (portOfCode_lt h) (by decide)]; rfl
  · rfl

theorem booksIn_pump (s : State) (e : Endpoint) : booksIn g (pump s e) = booksIn g s := by
  have hset (l : Link) : booksIn g (linkSet s e l) = booksIn g s := by cases e <;> rfl
  unfold pump
  dsimp only
  split
  · rw [booksIn_handOver hg, hset]
  · rfl

theorem booksIn_pumpPort (s : State) (i : Nat) : booksIn g (pumpPort s i) = booksIn g s :=
  foldl_view (booksIn g) (fun u e => booksIn_pump hg u e) _ s

end

/-! ### Shedding (R435, R436) -/

/-- The domain of entry e returns: it is shed no longer, the status clears with the last one, and what demands it wakes. -/
def unshed (s : State) (e : Nat) : State :=
  let s := setPower s (fun w => { w with shed := w.shed.erase e })
  let s := if s.power.shed = [] then setStatus s 31 false else s
  demandAll s ((shedDoms e).filter (fun d => (domGet s d).want || !maySleep s d))

/-- The entry to return: the kept port's where that is shed, else the one shed last. -/
def nextToReturn (s : State) : Option Nat :=
  match (keptPort s).map (fun i => 12 + i) with
  | some e => if s.power.shed.contains e then some e else s.power.shed.getLast?
  | none => s.power.shed.getLast?

theorem unshedNext_of_next (hhead : 100 ≤ s.power.headRun) {e : Nat} (h : nextToReturn s = some e) : unshedNext s = unshed s e := by
  change (match nextToReturn s with
    | some e => if 100 ≤ s.power.headRun then unshed s e else s
    | none => s) = _
  rw [h]
  exact if_pos hhead

/-- What of the state a domain that returns may change. -/
def offUnshed (s : State) : State := { offWakes s with regs := [], power := Power.reset }

theorem view_of_offUnshed {α : Type} {f : State → α} (hf : ∀ s, f (offUnshed s) = f s := by exact fun _ => rfl)
    (h : offUnshed t = offUnshed s) : f t = f s := by rw [← hf t, h, hf]

theorem offUnshed_unshed (s : State) (e : Nat) : offUnshed (unshed s e) = offUnshed s := by
  have hkept : ∀ u v : State, offWakes v = offWakes u → offUnshed v = offUnshed u := fun _ _ h =>
    congrArg (fun w : State => { w with regs := [], power := Power.reset }) h
  unfold unshed
  dsimp only
  rw [hkept _ _ (offWakes_demandAll _ _)]
  split <;> rfl

theorem power_unshed (s : State) (e : Nat) : (unshed s e).power = { s.power with shed := s.power.shed.erase e } := by
  unfold unshed
  dsimp only
  rw [view_of_offWakes (f := State.power) (h := offWakes_demandAll _ _)]
  split <;> rfl

theorem statusBit_unshed_last (hs : s.Canonical) {e : Nat} (h : s.power.shed = [e]) : statusBit (unshed s e) 31 = false := by
  have hlast : (setPower s (fun w => { w with shed := w.shed.erase e })).power.shed = [] := by
    change s.power.shed.erase e = []
    rw [h, List.erase_cons_head]
  unfold unshed
  dsimp only
  rw [if_pos hlast]
  refine (view_of_offWakes (f := fun u => statusBit u 31) (h := offWakes_demandAll _ _)).trans ?_
  exact statusBit_setStatus_same (setPower_canonical hs _) _ (by decide)

theorem unshed_canonical (hs : s.Canonical) (e : Nat) : (unshed s e).Canonical := by
  have hset : (if (setPower s (fun w => { w with shed := w.shed.erase e })).power.shed = [] then
      setStatus (setPower s (fun w => { w with shed := w.shed.erase e })) 31 false
      else setPower s (fun w => { w with shed := w.shed.erase e })).Canonical := by
    split
    · exact setRaw_canonical (setPower_canonical hs _) _ _
    · exact setPower_canonical hs _
  exact (demandAll_kept (.refl _) _).canonical hset

/-- In a quiet state, UNSHED_DOMAIN lets go what waits for ports once the domain has returned. -/
theorem exec_unshedDomain (hq : Quiet s) (h : offUnshed (unshedNext s) = offUnshed s) :
    exec .unshedDomain s = .next ((List.range 12).foldl pumpPort (unshedNext s)) := by
  set u := (List.range 12).foldl pumpPort (unshedNext s) with hu
  have hframes : offFrames u = offFrames (unshedNext s) := foldl_view offFrames (fun v i => offFrames_pumpPort v i) _ _
  have hback {α : Type} (f : State → α) (hf : ∀ v, f (offUnshed v) = f v) (hg : ∀ v, f (offFrames v) = f v) : f u = f s := by
    rw [view_of_offFrames hg hframes, ← hf (unshedNext s), h, hf]
  have hparts : ∀ p, u.part p = s.part p := fun p => hback (fun v => v.part p) (fun _ => rfl) (fun _ => rfl)
  have hnone : ∀ (l : List Nat) (v : State), NoneAhead v → NoneAhead (l.foldl pumpPort v) := fun l => by
    induction l with
    | nil => exact fun _ hv => hv
    | cons i l ih => exact fun v hv => ih _ (hv.pumpPort i)
  have hsess : NoneAhead u := hnone _ _ (NoneAhead.of_sess hq.sess (view_of_offUnshed (f := State.sess) (h := h)))
  change Host.Outcome.next (resumeAccs (settleAll u)) = _
  rw [settleAll_of_none (fun p => (hparts p).symm ▸ hq.waits p), resumeAccs_of_none ?_ hsess]
  exact (hback State.accs (fun _ => rfl) (fun _ => rfl)).trans hq.accs

/-- What UNSHED_DOMAIN leaves when the entry e returns. -/
theorem exec_unshedDomain_of_next (hs : s.Canonical) (hq : Quiet s) {e : Nat} (hnext : unshedNext s = unshed s e) :
    ∃ t, exec .unshedDomain s = .next t ∧ (t.power.shed = s.power.shed.erase e ∧
      (s.power.shed = [e] → statusBit t 31 = false) ∧ t.mem = s.mem ∧ t.parts = s.parts) := by
  have hoff : offUnshed (unshedNext s) = offUnshed s := by rw [hnext, offUnshed_unshed]
  have hframes : offFrames ((List.range 12).foldl pumpPort (unshedNext s)) = offFrames (unshedNext s) :=
    foldl_view offFrames (fun v i => offFrames_pumpPort v i) _ _
  have hregs : booksIn pmRegs ((List.range 12).foldl pumpPort (unshedNext s)) = booksIn pmRegs (unshedNext s) :=
    foldl_view (booksIn pmRegs) (fun v i => booksIn_pumpPort hidesFrames_pmRegs v i) _ _
  refine ⟨_, exec_unshedDomain hq hoff, ?_, fun hlast => ?_, ?_, ?_⟩
  · rw [view_of_offFrames (f := fun v => v.power.shed) (h := hframes), hnext, power_unshed]
  · have hc : (unshedNext s).Canonical := hnext ▸ unshed_canonical hs e
    have hc' : ((List.range 12).foldl pumpPort (unshedNext s)).Canonical :=
      (Kept.foldl (.refl _) (fun _ i hv => pumpPort_kept hv i)).canonical hc
    have hword := rawReg_of_booksIn hc hc' hregs (a := 0xE0000204) (by decide)
    rw [statusBit, hword, hnext]
    exact statusBit_unshed_last hs hlast
  · exact (view_of_offFrames (f := State.mem) (h := hframes)).trans (view_of_offUnshed (f := State.mem) (h := hoff))
  · exact (view_of_offFrames (f := State.parts) (h := hframes)).trans (view_of_offUnshed (f := State.parts) (h := hoff))

/-- Settles O18: the next domain is shed at the floor, and the one to return is the kept port or the one shed last. -/
theorem shedding : Obligations.Shedding := by
  intro s e k hs hq
  refine ⟨fun hstatus hfloor hrun hfind => ?_, fun hnone => ?_, fun hkept hlast hhead => ?_, fun hkept hshed hhead => ?_,
    fun hhead => ?_⟩
  · refine ⟨pwrEvent (setPower s (fun w => { w with shed := w.shed ++ [e] })) 7, ?_, rfl,
      flag_postBit (setPower_canonical hs _) _ (by decide), .of_postBit (setPower_canonical hs _) _ _⟩
    have hnext : shedNext s = pwrEvent (setPower s (fun w => { w with shed := w.shed ++ [e] })) 7 := by
      unfold shedNext
      dsimp only
      rw [hstatus, hfloor, hrun, hfind]
      rfl
    change Host.Outcome.next (resumeAccs (shedNext s)) = _
    rw [hnext]
    exact congrArg Host.Outcome.next (resumeAccs_of_none hq.accs hq.sess)
  · refine ⟨s, ?_, rfl⟩
    have hnext : shedNext s = s := by
      unfold shedNext
      rw [if_neg]
      rcases hnone with h | h <;> simp [h]
    change Host.Outcome.next (resumeAccs (shedNext s)) = _
    rw [hnext, resumeAccs_of_none hq.accs hq.sess]
  · refine exec_unshedDomain_of_next hs hq (unshedNext_of_next hhead ?_)
    unfold nextToReturn
    cases hport : keptPort s with
    | none => exact hlast
    | some k =>
      refine (if_neg ?_).trans hlast
      rw [List.contains_iff_mem]
      exact hkept k hport
  · refine exec_unshedDomain_of_next hs hq (unshedNext_of_next hhead ?_)
    unfold nextToReturn
    rw [hkept]
    exact if_pos (List.contains_iff_mem.mpr hshed)
  · have hnext : unshedNext s = s := by
      unfold unshedNext
      dsimp only
      split
      · rw [if_neg (by omega)]
      · rfl
    have hframes : offFrames ((List.range 12).foldl pumpPort s) = offFrames s :=
      foldl_view offFrames (fun v i => offFrames_pumpPort v i) _ _
    refine ⟨_, exec_unshedDomain hq (by rw [hnext]), ?_⟩
    rw [hnext]
    exact ⟨view_of_offFrames (f := State.mem) (h := hframes), view_of_offFrames (f := State.parts) (h := hframes),
      view_of_offFrames (f := State.power) (h := hframes)⟩

end Sys2Proof.Machine
end

section
/-! Clocks, the operating point and the management view (R419 to R421, R461); O16. -/

namespace Sys2Proof.Machine

variable {s t : State} {who : Requester} {level : Level}

/-! ### PLLs (R421) -/

theorem blkMod_canonical (hs : s.Canonical) (b : Nat) (f : Blk → Blk) : (blkMod s b f).Canonical := blkSet_canonical hs _ _

theorem domMod_canonical (hs : s.Canonical) (d : Nat) (f : Dom → Dom) : (domMod s d f).Canonical := domSet_canonical hs _ _

/-- The word of a PLL that has locked. -/
def lockedWord (s : State) (c : Nat) : Word := setBit (setBit (rawReg s (0xE0000100 + 4 * c)) 31 true) 30 false

/-- The domains whose last PLL has locked no longer wait for one, and ask for their ramps together. -/
def askRamps (s : State) : State :=
  let ds := (List.range domCount).filter (fun i => (domGet s i).needPll && domLocked s i)
  let s := ds.foldl (fun s i => domMod s i (fun x => { x with needPll := false })) s
  if ds = [] then s else { s with rises := s.rises ++ [{ doms := ds, opMove := false, granted := false }] }

/-- The state but for the domains and the rises. -/
def offRamps (s : State) : State := { s with doms := [], rises := [] }

theorem offRamps_askRamps (s : State) : offRamps (askRamps s) = offRamps s := by
  have hfold (ds : List Nat) (u : State) :
      offRamps (ds.foldl (fun s i => domMod s i (fun x => { x with needPll := false })) u) = offRamps u :=
    foldl_view offRamps (g := fun s i => domMod s i (fun x => { x with needPll := false })) (fun _ _ => rfl) ds u
  unfold askRamps
  dsimp only
  split <;> exact hfold _ s

theorem askRamps_setRaw_frame (s : State) (a : Nat) (w : Word) : askRamps (setRaw s a w) =
    { s with doms := (askRamps (setRaw s a w)).doms, rises := (askRamps (setRaw s a w)).rises,
             regs := (askRamps (setRaw s a w)).regs } := by
  generalize ht : askRamps (setRaw s a w) = t
  have hoff : offRamps t = offRamps (setRaw s a w) := ht ▸ offRamps_askRamps _
  exact congrArg (fun u : State => { u with doms := t.doms, rises := t.rises, regs := t.regs }) hoff

theorem rawReg_askRamps (s : State) (a : Nat) : rawReg (askRamps s) a = rawReg s a := by
  have hregs : (offRamps (askRamps s)).regs = (offRamps s).regs := by rw [offRamps_askRamps]
  exact congrArg (fun m => Sparse.get (resetWord a) m a) hregs

theorem exec_pllLock (c : Fin 8) (s : State) :
    exec (.pllLock c) s = .next (askRamps (setRaw s (0xE0000100 + 4 * c.val) (lockedWord s c.val))) := rfl

/-- A block that waits for a PLL that fails. -/
def failBlk (x : Blk) : Blk := { x with inReset := true, heldClk := true }

theorem blkGet_foldl_failBlk (hs : s.Canonical) (l : List Nat) {b : Nat} (h : b ∈ l ∨ failBlk (blkGet s b) = blkGet s b) :
    failBlk (blkGet (l.foldl (fun s b => blkMod s b failBlk) s) b) = blkGet (l.foldl (fun s b => blkMod s b failBlk) s) b := by
  induction l generalizing s with
  | nil => exact h.resolve_left (List.not_mem_nil)
  | cons c l ih =>
    refine ih (blkMod_canonical hs c failBlk) ?_
    unfold blkMod
    rw [blkGet_blkSet hs]
    by_cases hc : b = c
    · exact .inr (by rw [if_pos hc]; rfl)
    · rw [if_neg hc]
      exact h.imp (fun hm => (List.mem_cons.mp hm).resolve_left hc) id

theorem foldl_failBlk_frame (l : List Nat) (s : State) : l.foldl (fun s b => blkMod s b failBlk) s =
    { s with blks := (l.foldl (fun s b => blkMod s b failBlk) s).blks } := by
  induction l generalizing s with
  | nil => rfl
  | cons c l ih => exact (ih _).trans rfl

/-- What a PLL that fails leaves of the state: its FAIL bit, and the blocks that wait for it. -/
theorem pllFail_eq (c : Nat) (s : State) : pllFail c s = (allBlks.filter (waitsPll s c)).foldl (fun s b => blkMod s b failBlk)
    (postBit s (0xE0000100 + 4 * c) 30) := rfl

theorem pllFail_frame (c : Nat) (s : State) : pllFail c s =
    { postBit s (0xE0000100 + 4 * c) 30 with blks := (pllFail c s).blks } := by
  rw [pllFail_eq]
  exact foldl_failBlk_frame _ _

theorem onlyRegs_pllFail (hs : s.Canonical) (c : Nat) :
    OnlyRegs { s with blks := (pllFail c s).blks } (pllFail c s) [0xE0000100 + 4 * c] := by
  have hframe := pllFail_frame c s
  generalize pllFail c s = t at hframe ⊢
  rw [hframe]
  exact ⟨rfl, fun a ha => rawReg_setRaw_ne hs _ (by simpa using ha)⟩

theorem flag_pllFail (hs : s.Canonical) (c : Nat) : flag (rawReg (pllFail c s) (0xE0000100 + 4 * c)) 30 = true := by
  have hframe := pllFail_frame c s
  generalize pllFail c s = t at hframe ⊢
  rw [hframe]
  exact flag_postBit hs _ (by decide)

theorem resumeAccs_pllFail (hq : Quiet s) (c : Nat) : resumeAccs (pllFail c s) = pllFail c s := by
  have hframe := pllFail_frame c s
  generalize pllFail c s = t at hframe ⊢
  rw [hframe]
  exact resumeAccs_of_none hq.accs hq.sess

/-! ### The operating point (R419, R420) -/

theorem field_startMove (hs : s.Canonical) {hi lo : Nat} (h : hi < 32) (hd : 28 < lo ∨ hi < 26) :
    field (rawReg (startMove s) 0xE0000018) hi lo = field (rawReg s 0xE0000018) hi lo := by
  have hword (n : Nat) : field (setField (setBit (rawReg s 0xE0000018) 28 true) 27 26 n) hi lo =
      field (rawReg s 0xE0000018) hi lo := by
    rw [field_setField_ne _ _ h (by omega), field_setBit_ne _ _ h (by omega)]
  have hset (n : Nat) : field (rawReg (setRaw s 0xE0000018 (setField (setBit (rawReg s 0xE0000018) 28 true) 27 26 n)) 0xE0000018)
      hi lo = field (rawReg s 0xE0000018) hi lo := by rw [rawReg_setRaw_same hs, hword]
  unfold startMove
  dsimp only
  split
  · rfl
  · split
    · rfl
    · split <;> exact hset _

/-- A point other than the one in force, asked while no move goes on, is the target of a move that begins. -/
theorem startMove_begins (hs : s.Canonical) (hidle : opMoving s = false) (hne : wantedPoint s ≠ opCur s)
    (hlt : wantedPoint s < 4) : opMoving (startMove s) = true ∧ opTarget (startMove s) = wantedPoint s := by
  have hreg : rawReg (startMove s) 0xE0000018 = setField (setBit (rawReg s 0xE0000018) 28 true) 27 26 (wantedPoint s) := by
    unfold startMove
    simp only [hidle, hne, if_false, Bool.false_eq_true]
    split <;> exact rawReg_setRaw_same hs _ _
  constructor
  · rw [opMoving, hreg, flag_setField_ne _ _ (by decide) (by decide), flag_setBit_same _ (by decide)]
  · rw [opTarget, hreg, field_setField_same _ _ (by decide)]
    omega

/-- PM_OP as it stands after a write of its pin. -/
theorem flag_pinned (w v : Word) {i : Nat} (hi : i < 32) (hlo : 29 ≤ i) : flag (merge32 w (mask32 31 29) v) i = flag v i := by
  have hin : i ≤ 31 := by omega
  rw [flag_merge32 _ _ _ _ hi, flag_mask32]
  simp [hi, hlo, hin]

theorem flag_unpinned (w v : Word) {i : Nat} (hi : i < 29) : flag (merge32 w (mask32 31 29) v) i = flag w i := by
  rw [flag_merge32 _ _ _ _ (by omega), flag_mask32]
  simp [show ¬29 ≤ i by omega]

theorem field_pinned (w v : Word) {hi lo : Nat} (hhi : hi < 32) (hlo : 29 ≤ lo) :
    field (merge32 w (mask32 31 29) v) hi lo = field v hi lo :=
  field_congr fun _ hi' hi'' => flag_pinned w v (by omega) (by omega)

theorem exec_pmOp (h : AccessGoes s who level 0xE0000018) (v : Word) :
    exec (.pmOp who v) s = .next (startMove (putBits s 0xE0000018 (mask32 31 29) v)) := by
  change Host.Outcome.next (ctlWrite s who 0xE0000018#32 v) = _
  rw [ctlWrite_of_goes h rfl, doWrite_pm (n := 0x18) (by decide)]
  rfl

theorem field_lt_four (w : Word) (lo : Nat) : field w (lo + 1) lo < 4 := by
  have h := Nat.mod_lt (w.toNat >>> lo) (show 0 < 2 ^ (lo + 1 + 1 - lo) by positivity)
  have hpow : lo + 1 + 1 - lo = 2 := by omega
  rw [hpow] at h
  unfold field
  rw [hpow]
  exact h

/-- The word that a move leaves as it ends: no move goes on, and the target is in force. -/
def movedWord (s : State) : Word := setField (setBit (rawReg s 0xE0000018) 28 false) 25 24 (opTarget s)

theorem exec_opMoveDone (hmoving : opMoving s = true) (hgranted : moveGranted s = true) : exec .opMoveDone s =
    .next (startMove { setRaw s 0xE0000018 (movedWord s) with rises := s.rises.filter (fun r => !r.opMove) }) := by
  change execOpMoveDone s = _
  unfold execOpMoveDone
  rw [hmoving, hgranted]
  rfl

theorem rises_canonical (hs : s.Canonical) (l : List Ramp) : ({ s with rises := l } : State).Canonical := { hs with }

/-! ### The management view (R461) -/

/-- The event of a mismatch, its block and its count. -/
def mismatchNoted (s : State) (b : Nat) : State := bump (setRaw (postBit s 0xF0000000 0) 0xF0000018 (BitVec.ofNat 32 b)) 0xF0000030 none 1

theorem exec_stateMismatch {b : Nat} (h : blkExists b = true) (n : Nat) (s : State) : exec (.stateMismatch b n) s =
    .next (if n ≠ 0 ∧ (domGet s (blkDom b)).pwr = .off then
      domSet (mismatchNoted s b) (blkDom b) { domGet s (blkDom b) with pwr := .on, clkGood := true } else mismatchNoted s b) := by
  change execStateMismatch b n s = _
  unfold execStateMismatch
  rw [if_pos h]
  rfl

theorem mismatchNoted_canonical (hs : s.Canonical) (b : Nat) : (mismatchNoted s b).Canonical :=
  (bump_kept (.refl _) _ none 1).canonical (setRaw_canonical (postBit_canonical hs _ _) _ _)

theorem onlyRegs_mismatchNoted (hs : s.Canonical) (b : Nat) :
    OnlyRegs { s with counts := (mismatchNoted s b).counts } (mismatchNoted s b) [0xF0000000, 0xF0000018] := by
  refine ⟨rfl, fun a ha => ?_⟩
  simp only [List.mem_cons, List.not_mem_nil, or_false, not_or] at ha
  exact (rawReg_setRaw_ne (postBit_canonical hs _ _) _ ha.2).trans ((OnlyRegs.of_postBit hs _ _).2 a (by simpa using ha.1))

/-- Settles O16: the PLLs, the pin and the move of the operating point, and the mismatch of the management view. -/
theorem clocksAndOperatingPoint : Obligations.ClocksAndOperatingPoint := by
  intro s c who level v b n hs
  refine ⟨⟨_, exec_pllLock c s, ?_⟩, fun hq => ?_, fun hgo => ⟨_, exec_pmOp hgo v, ?_⟩,
    fun hmoving hgranted => ⟨_, exec_opMoveDone hmoving hgranted, ?_⟩, fun hex => ⟨_, exec_stateMismatch hex n s, ?_⟩⟩
  · have hword : rawReg (askRamps (setRaw s (0xE0000100 + 4 * c.val) (lockedWord s c.val))) (0xE0000100 + 4 * c.val) =
        lockedWord s c.val := (rawReg_askRamps _ _).trans (rawReg_setRaw_same hs _ _)
    refine ⟨?_, ?_, askRamps_setRaw_frame _ _ _, fun a ha => (rawReg_askRamps _ a).trans (rawReg_setRaw_ne hs _ (by simpa using ha))⟩
    · rw [clkLocked, hword, lockedWord, flag_setBit _ _ _ _ (by decide), if_neg (by decide), flag_setBit_same _ (by decide)]
    · rw [hword, lockedWord, flag_setBit _ _ _ _ (by decide), if_pos rfl]
  · have hc := postBit_canonical hs (0xE0000100 + 4 * c.val) 30
    refine ⟨pllFail c.val s, congrArg Host.Outcome.next (resumeAccs_pllFail hq c.val), onlyRegs_pllFail hs c.val,
      flag_pllFail hs c.val, fun hb hwaits => ?_⟩
    · have hmem : b ∈ allBlks.filter (waitsPll s c.val) := List.mem_filter.mpr ⟨hb, hwaits⟩
      have hfail := blkGet_foldl_failBlk hc _ (.inl hmem)
      rw [pllFail_eq, ← hfail]
      exact ⟨rfl, rfl⟩
  · have hc := putBits_canonical hs 0xE0000018 (mask32 31 29) v
    have hreg : rawReg (putBits s 0xE0000018 (mask32 31 29) v) 0xE0000018 = merge32 (rawReg s 0xE0000018) (mask32 31 29) v :=
      rawReg_setRaw_same hs _ _
    refine ⟨?_, ?_, fun hbrake hpin hidle hne => ?_⟩
    · exact (onlyRegs_startMove_after hc (.of_setRaw hs _ _)).mono (by simp)
    · rw [field_startMove hc (by decide) (by decide), hreg, field_pinned _ _ (by decide) (by decide)]
    · have hwanted : wantedPoint (putBits s 0xE0000018 (mask32 31 29) v) = field v 30 29 := by
        have hpinned : opPin (putBits s 0xE0000018 (mask32 31 29) v) = some (field v 30 29) := by
          unfold opPin
          dsimp only
          rw [hreg, flag_pinned _ _ (by decide) (by decide), field_pinned _ _ (by decide) (by decide), if_pos hpin]
        have hoff : ¬(putBits s 0xE0000018 (mask32 31 29) v).power.brake = true := fun h => Bool.false_ne_true (hbrake.symm.trans h)
        unfold wantedPoint
        rw [if_neg hoff, hpinned]
      have hcur : opCur (putBits s 0xE0000018 (mask32 31 29) v) = opCur s := by
        unfold opCur
        rw [hreg]
        exact field_congr fun i _ _ => flag_unpinned _ _ (by omega)
      rw [← hwanted]
      refine startMove_begins hc ?_ ?_ ?_
      · rw [opMoving, hreg, flag_unpinned _ _ (by decide)]
        exact hidle
      · rwa [hwanted, hcur]
      · rw [hwanted]
        exact field_lt_four v 29
  · have hc : ({ setRaw s 0xE0000018 (movedWord s) with rises := s.rises.filter (fun r => !r.opMove) } : State).Canonical :=
      rises_canonical (setRaw_canonical hs _ _) _
    have hreg : rawReg { setRaw s 0xE0000018 (movedWord s) with rises := s.rises.filter (fun r => !r.opMove) } 0xE0000018 =
        movedWord s := rawReg_setRaw_same hs _ _
    obtain ⟨hframe, hregs⟩ := onlyRegs_startMove hc
    refine ⟨?_, ?_, fun a ha => (hregs a ha).trans (rawReg_setRaw_ne hs _ (by simpa using ha))⟩
    · rw [opCur, field_startMove hc (by decide) (by decide), hreg, movedWord, field_setField_same _ _ (by decide)]
      exact Nat.mod_eq_of_lt (field_lt_four _ 26)
    · exact hframe
  · have hc := mismatchNoted_canonical hs b
    obtain ⟨hframe, hregs⟩ := onlyRegs_mismatchNoted hs b
    have hevent : flag (rawReg (mismatchNoted s b) 0xF0000000) 0 = true := by
      refine (congrArg (fun w => flag w 0) (rawReg_setRaw_ne (postBit_canonical hs _ _) _ (by decide))).trans ?_
      exact flag_postBit hs _ (by decide)
    have hblock : rawReg (mismatchNoted s b) 0xF0000018 = BitVec.ofNat 32 b := rawReg_setRaw_same (postBit_canonical hs _ _) _ _
    have hcount : count (mismatchNoted s b) 0xF0000030 = (count s 0xF0000030 + 1) % 2 ^ 48 := by
      rw [mismatchNoted, count_bump (setRaw_canonical (postBit_canonical hs _ _) _ _), if_pos rfl]
      rfl
    split
    · refine ⟨hevent, hblock, hcount, ⟨rfl, hregs⟩, fun d hd => ?_⟩
      rw [domGet_domSet hc, if_neg hd]
      rfl
    · exact ⟨hevent, hblock, hcount, ⟨rfl, hregs⟩, fun _ _ => rfl⟩

end Sys2Proof.Machine
end

section
/-! Domains and the governor (R415 to R418, R424): a block's release, a core's lost contents, the wake of a domain that has
stopped; O15. -/

namespace Sys2Proof.Machine

variable {s t : State}

/-! ### What a release writes (Table 16-4) -/

/-- The state but for what the release of blocks writes. -/
def offRelease (s : State) : State := { offWakes s with blks := [], ports := [] }

theorem view_of_offRelease {α : Type} {f : State → α} (hf : ∀ s, f (offRelease s) = f s := by exact fun _ => rfl)
    (h : offRelease t = offRelease s) : f t = f s := by rw [← hf t, h, hf]

theorem offRelease_of_offWakes (h : offWakes t = offWakes s) : offRelease t = offRelease s :=
  congrArg (fun u : State => { u with blks := [], ports := [] }) h

theorem offRelease_blkSet (s : State) (b : Nat) (x : Blk) : offRelease (blkSet s b x) = offRelease s := rfl

theorem offRelease_domMod (s : State) (d : Nat) (f : Dom → Dom) : offRelease (domMod s d f) = offRelease s := rfl

theorem offRelease_trainPorts (s : State) (l : List Nat) : offRelease (trainPorts s l) = offRelease s := rfl

theorem trainPorts_doms (s : State) (l : List Nat) : (trainPorts s l).doms = s.doms := rfl

theorem offRelease_releaseBlk (s : State) (b : Nat) : offRelease (releaseBlk s b) = offRelease s := by
  unfold releaseBlk
  dsimp only
  split
  · split
    · rw [offRelease_of_offWakes (offWakes_demandWake _ _), offRelease_blkSet]
    · split
      · rfl
      · rw [offRelease_trainPorts, offRelease_blkSet]
  · rfl

theorem offRelease_releaseDomain (s : State) (d : Nat) : offRelease (releaseDomain s d) = offRelease s :=
  foldl_view offRelease (fun u b => offRelease_releaseBlk u b) _ s

theorem offRelease_domUp (s : State) (d : Nat) : offRelease (domUp s d) = offRelease s := by
  unfold domUp
  dsimp only
  rw [offRelease_releaseDomain, offRelease_trainPorts, offRelease_domMod]

/-- A block whose domain is on leaves reset without a wake. -/
theorem doms_releaseBlk {b : Nat} (h : (domGet s (blkDom b)).pwr = .on) : (releaseBlk s b).doms = s.doms := by
  unfold releaseBlk
  dsimp only
  split
  · rw [if_neg (fun hoff => hoff h)]
    split <;> rfl
  · rfl

theorem doms_releaseDomain {d : Nat} (h : (domGet s d).pwr = .on) : (releaseDomain s d).doms = s.doms := by
  have hfold (l : List Nat) (hl : ∀ b ∈ l, blkDom b = d) (u : State) (hu : u.doms = s.doms) :
      (l.foldl releaseBlk u).doms = s.doms := by
    induction l generalizing u with
    | nil => exact hu
    | cons b l ih =>
      refine ih (fun c hc => hl c (List.mem_cons_of_mem _ hc)) _ ?_
      refine (doms_releaseBlk ?_).trans hu
      rw [hl b List.mem_cons_self]
      exact (congrArg (fun m => (Sparse.get Dom.off m d).pwr) hu).trans h
  refine hfold _ (fun b hb => ?_) s rfl
  have hin := (List.mem_filter.mp hb).2
  rw [Bool.and_eq_true] at hin
  exact of_decide_eq_true hin.1

/-- A domain that comes up is on, with a good clock. -/
theorem domGet_domUp (hs : s.Canonical) (d : Nat) : (domGet (domUp s d) d).pwr = .on ∧ (domGet (domUp s d) d).clkGood = true := by
  have hset : domGet (domMod s d (fun x => { x with pwr := .on, retain := false, clkGood := true, needPll := false })) d =
      { domGet s d with pwr := .on, retain := false, clkGood := true, needPll := false } := by
    unfold domMod
    rw [domGet_domSet hs, if_pos rfl]
  have hdoms : (domUp s d).doms = (domMod s d (fun x =>
      { x with pwr := .on, retain := false, clkGood := true, needPll := false })).doms := by
    unfold domUp
    dsimp only
    rw [doms_releaseDomain, trainPorts_doms]
    rw [domGet, trainPorts_doms]
    exact congrArg Dom.pwr hset
  have hget : domGet (domUp s d) d = _ := (congrArg (fun m => Sparse.get Dom.off m d) hdoms).trans hset
  rw [hget]
  exact ⟨rfl, rfl⟩

/-! ### The contents of a core without power (R414) -/

theorem filter_clearRange {α : Type} {g : Nat → Bool} {lo n : Nat} (hg : ∀ a, lo ≤ a → a < lo + n → g a = false) (m : Sparse α) :
    (Sparse.clearRange m lo n).filter (fun e => g e.1) = m.filter (fun e => g e.1) := by
  unfold Sparse.clearRange
  rw [List.filter_filter]
  refine List.filter_congr fun e _ => ?_
  by_cases hin : lo ≤ e.1 ∧ e.1 < lo + n
  · rw [hg e.1 hin.1 hin.2, Bool.false_and]
  · have hout : (decide (e.1 < lo) || decide (lo + n ≤ e.1)) = true := by
      simp only [Bool.or_eq_true, decide_eq_true_eq]
      omega
    rw [hout, Bool.and_true]

/-- A range out of view returns to reset. -/
theorem booksIn_resetRange {g : Nat → Bool} {lo n : Nat} (hg : ∀ a, lo ≤ a → a < lo + n → g a = false) (s : State) :
    booksIn g (resetRange s lo n) = booksIn g s := by
  exact Prod.ext (filter_clearRange hg s.regs) (filter_clearRange hg s.counts)

theorem foldl_view_of_mem {α β σ : Type} (f : σ → α) {g : σ → β → σ} {l : List β} (hg : ∀ s, ∀ b ∈ l, f (g s b) = f s) (s : σ) :
    f (l.foldl g s) = f s := by
  induction l generalizing s with
  | nil => rfl
  | cons b l ih => exact (ih (fun u c hc => hg u c (List.mem_cons_of_mem _ hc)) _).trans (hg s b List.mem_cons_self)

/-- The registers of the thermal latch (R442). -/
def thermReg (a : Nat) : Bool := decide (a = 0xE0000228)

theorem thermalHold_of_booksIn (hs : s.Canonical) (ht : t.Canonical) (h : booksIn thermReg t = booksIn thermReg s) :
    thermalHold t = thermalHold s := congrArg (fun w => flag w 31) (rawReg_of_booksIn hs ht h rfl)

/-- The state but for its registers and counts, the contents of a core, and the free choices drawn. -/
def offLost (s : State) : State :=
  { s with regs := [], counts := [], sramErrs := [], storeErrs := [], store := [], freeCount := 0,
           cores := Vector.replicate 64 Core.reset }

theorem view_of_offLost {α : Type} {f : State → α} (hf : ∀ s, f (offLost s) = f s := by exact fun _ => rfl)
    (h : offLost t = offLost s) : f t = f s := by rw [← hf t, h, hf]

theorem offLost_clearCoreRegs (s : State) (nn : Nat) : offLost (clearCoreRegs s nn) = offLost s := rfl

theorem offLost_clearCoreSram (s : State) (nn : Nat) : offLost (clearCoreSram s nn) = offLost s := rfl

theorem offLost_modCore (s : State) (c : Fin 64) (f : Core → Core) : offLost (s.modCore c f) = offLost s := rfl

theorem offLost_put (s : State) (store : Sparse Byte) (errs : Sparse Nat) (n : Nat) :
    offLost { s with store := store, storeErrs := errs, freeCount := n } = offLost s := rfl

theorem loseCore_eq (s : State) (nn : Nat) : ∃ store errs n, loseCore s nn =
    { (clearCoreRegs (clearCoreSram s nn) nn).modCore (Fin.ofNat 64 nn) clearCore with
      store := store, storeErrs := errs, freeCount := n } := ⟨_, _, _, rfl⟩

theorem offLost_loseCore (s : State) (nn : Nat) : offLost (loseCore s nn) = offLost s := by
  obtain ⟨store, errs, n, h⟩ := loseCore_eq s nn
  rw [h, offLost_put, offLost_modCore, offLost_clearCoreRegs, offLost_clearCoreSram]

theorem booksIn_clearCoreRegs {nn : Nat} (h : nn < 64) (s : State) : booksIn thermReg (clearCoreRegs s nn) = booksIn thermReg s := by
  have hout {code ofs n : Nat} (hcode : code ≤ 8) (hsize : ofs + n ≤ 0x400000) (u : State) :
      booksIn thermReg (resetRange u (coreReg code nn ofs) n) = booksIn thermReg u :=
    booksIn_resetRange (fun a _ hhi => decide_eq_false (by unfold coreReg at hhi; omega)) u
  unfold clearCoreRegs
  dsimp only
  rw [hout (by decide) (by decide)]
  refine foldl_view_of_mem (booksIn thermReg) (fun u c hc => hout ?_ (by decide) u) s
  simp only [List.mem_cons, List.not_mem_nil, or_false] at hc
  omega

theorem booksIn_put (g : Nat → Bool) (s : State) (c : Fin 64) (f : Core → Core) (store : Sparse Byte) (errs : Sparse Nat) (n : Nat) :
    booksIn g { s.modCore c f with store := store, storeErrs := errs, freeCount := n } = booksIn g s := rfl

theorem booksIn_loseCore {nn : Nat} (h : nn < 64) (s : State) : booksIn thermReg (loseCore s nn) = booksIn thermReg s := by
  obtain ⟨store, errs, n, hlose⟩ := loseCore_eq s nn
  rw [hlose, booksIn_put]
  exact booksIn_clearCoreRegs h (clearCoreSram s nn)

theorem offLost_sleepPlls (s : State) : offLost (sleepPlls s) = offLost s :=
  foldl_view offLost (fun u c => by dsimp only; split <;> rfl) _ s

theorem booksIn_sleepPlls (s : State) : booksIn thermReg (sleepPlls s) = booksIn thermReg s := by
  refine foldl_view_of_mem (booksIn thermReg) (fun u c hc => ?_) s
  dsimp only
  split
  · refine booksIn_setRaw (decide_eq_false ?_) u _
    simp only [List.mem_cons, List.not_mem_nil, or_false] at hc
    omega
  · rfl

/-! ### The end of a stop (R418) -/

/-- The state in which a stop leaves its domain, before a latched demand takes effect. -/
def stoppedOff (s : State) (d : Nat) : State :=
  let s' := domSet s d { domGet s d with pwr := .off, retain := retains s d, clkGood := false, pendingOn := false }
  let s' := if d < 64 && !retains s d then loseCore s' d else s'
  let keepFlaps := fun (q : Port) => { q.stop with flaps := q.flaps }
  sleepPlls (if 69 ≤ d ∧ d ≤ 80 then { s' with ports := Sparse.modify Port.off s'.ports (d - 69) keepFlaps } else s')

theorem exec_powerStopDone {d : Nat} (hpwr : (domGet s d).pwr = .stopping) (hfalls : s.falls.all (fun r => !r.doms.contains d) = true) :
    exec (.powerStopDone d) s =
      .next (if (domGet s d).pendingOn then demandWake (stoppedOff s d) d else stoppedOff s d) := by
  change execPowerStopDone d s = _
  unfold execPowerStopDone
  dsimp only
  rw [if_pos ⟨hpwr, hfalls⟩]
  rfl

/-- The state but for a stop's lost contents, and the ports. -/
def offStopped (s : State) : State := { offLost s with ports := [] }

theorem offStopped_of_offLost (h : offLost t = offLost s) : offStopped t = offStopped s :=
  congrArg (fun u : State => { u with ports := [] }) h

theorem view_of_offStopped {α : Type} {f : State → α} (hf : ∀ s, f (offStopped s) = f s := by exact fun _ => rfl)
    (h : offStopped t = offStopped s) : f t = f s := by rw [← hf t, h, hf]

theorem offStopped_stoppedOff (s : State) (d : Nat) : offStopped (stoppedOff s d) =
    offStopped (domSet s d { domGet s d with pwr := .off, retain := retains s d, clkGood := false, pendingOn := false }) := by
  unfold stoppedOff
  dsimp only
  rw [offStopped_of_offLost (offLost_sleepPlls _)]
  split
  · change offStopped (ite _ _ _) = _
    split
    · exact offStopped_of_offLost (offLost_loseCore _ d)
    · rfl
  · split
    · exact offStopped_of_offLost (offLost_loseCore _ d)
    · rfl

theorem booksIn_stoppedOff (s : State) (d : Nat) : booksIn thermReg (stoppedOff s d) = booksIn thermReg s := by
  unfold stoppedOff
  dsimp only
  rw [booksIn_sleepPlls]
  have hlost : booksIn thermReg (if (decide (d < 64) && !retains s d) = true then
      loseCore (domSet s d { domGet s d with pwr := .off, retain := retains s d, clkGood := false, pendingOn := false }) d
      else domSet s d { domGet s d with pwr := .off, retain := retains s d, clkGood := false, pendingOn := false }) =
      booksIn thermReg s := by
    split
    · next h =>
      rw [Bool.and_eq_true] at h
      exact (booksIn_loseCore (of_decide_eq_true h.1) _).trans rfl
    · rfl
  split <;> exact hlost

theorem ports_canonical (hs : s.Canonical) {m : Sparse Port} (hm : Sparse.wf Port.off m = true) :
    ({ s with ports := m } : State).Canonical := { hs with ports := hm }

theorem stoppedOff_canonical (hs : s.Canonical) (d : Nat) : (stoppedOff s d).Canonical := by
  have hset := domSet_canonical hs d { domGet s d with pwr := .off, retain := retains s d, clkGood := false, pendingOn := false }
  have hlost : (if (decide (d < 64) && !retains s d) = true then
      loseCore (domSet s d { domGet s d with pwr := .off, retain := retains s d, clkGood := false, pendingOn := false }) d
      else domSet s d { domGet s d with pwr := .off, retain := retains s d, clkGood := false, pendingOn := false }).Canonical := by
    split
    · exact (loseCore_kept (.refl _) d).canonical hset
    · exact hset
  refine (sleepPlls_kept (.refl _)).canonical ?_
  split
  · exact ports_canonical hlost (Sparse.modify_wf _ _ hlost.ports)
  · exact hlost

/-! ### What a demand makes of its domain (R415, R418) -/

theorem demandOne_canonical (hs : s.Canonical) (d : Nat) : (demandOne s d).1.Canonical := (demandOne_kept (.refl s) d).canonical hs

theorem domGet_demandOne_ne (hs : s.Canonical) {d e : Nat} (h : e ≠ d) : domGet (demandOne s d).1 e = domGet s e := by
  unfold demandOne
  dsimp only
  split
  · rfl
  · split
    · rw [domGet_domSet hs, if_neg h]
    · split
      · rw [domGet_domSet ((bump_kept (.refl s) _ _ _).canonical hs), if_neg h]
        rfl
      · rw [domGet_domSet hs, if_neg h]
      · rfl

/-- A domain without power, not held by a trip and not shed, wakes on demand. -/
theorem domGet_demandOne_off (hs : s.Canonical) {d : Nat} (hhold : thermalHold s = false) (hshed : isShed s d = false)
    (hoff : (domGet s d).pwr = .off) : (domGet (demandOne s d).1 d).pwr = .waking ∧
      (domGet (demandOne s d).1 d).pendingOn = (domGet s d).pendingOn := by
  unfold demandOne
  simp only [hhold, hshed, hoff, Bool.false_and, Bool.false_eq_true, if_false]
  rw [domGet_domSet ((bump_kept (.refl s) _ _ _).canonical hs), if_pos rfl]
  exact ⟨rfl, rfl⟩

/-- Demands that arrive together reach their domains one after the other. -/
theorem doms_demandAll (s : State) (ds : List Nat) :
    (demandAll s ds).doms = (ds.foldl (fun u d => (demandOne u d).1) s).doms := by
  have hfold : ∀ (ds : List Nat) (acc : State × List Nat),
      (ds.foldl (fun (acc : State × List Nat) d => ((demandOne acc.1 d).1, if (demandOne acc.1 d).2 then acc.2 ++ [d] else acc.2))
        acc).1 = ds.foldl (fun u d => (demandOne u d).1) acc.1 := fun ds => by
    induction ds with
    | nil => exact fun _ => rfl
    | cons d ds ih => exact fun acc => ih _
  rw [← hfold ds (s, [])]
  unfold demandAll
  dsimp only
  split <;> rfl

theorem domGet_demandWake_off (hs : s.Canonical) {d : Nat} (hhold : thermalHold s = false) (hshed : isShed s d = false)
    (hoff : (domGet s d).pwr = .off) : (domGet (demandWake s d) d).pwr = .waking ∧
      (domGet (demandWake s d) d).pendingOn = (domGet s d).pendingOn := by
  unfold demandWake
  by_cases hcore : d < 64
  · have hbase := offWakes_demandOne s domBase
    have hne : domGet (demandOne s domBase).1 d = domGet s d := domGet_demandOne_ne hs (by unfold domBase; omega)
    have hget := domGet_demandOne_off (demandOne_canonical hs domBase)
      ((view_of_offWakes (f := thermalHold) (h := hbase)).trans hhold)
      ((view_of_offWakes (f := fun u => isShed u d) (h := hbase)).trans hshed) (hne ▸ hoff)
    rw [if_pos hcore, domGet, doms_demandAll]
    rw [hne] at hget
    exact hget
  · rw [if_neg hcore, domGet, doms_demandAll]
    exact domGet_demandOne_off hs hhold hshed hoff

/-! ### Ramps (R424) -/

/-- The first request without a grant is granted. -/
theorem grantHead_cons {r : Ramp} (h : r.granted = false) (rs : List Ramp) :
    grantHead (r :: rs) = { r with granted := true } :: rs := if_neg (fun hg => Bool.false_ne_true (h.symm.trans hg))

theorem offRelease_rampDone (s : State) (i : Nat) :
    offRelease (rampDone s false i) = offRelease s := by
  unfold rampDone
  simp only [Bool.false_eq_true, if_false]
  split
  · split
    · exact (foldl_view offRelease (fun u d => offRelease_domUp u d) _ _).trans rfl
    · rfl
  · rfl

/-- Settles O15: a domain's sleep and stop, the governor's grants, and the ends of ramps. -/
theorem domainPower : Obligations.DomainPower := by
  intro s d i r rs hs
  refine ⟨fun hon hmay => ⟨_, if_pos (by rw [hon, hmay]; rfl), ?_⟩, fun hpwr hfalls => ⟨fun hpend => ?_, fun hpend hhold hshed => ?_⟩,
    fun hrises hungranted hpeak => ?_, fun hpeak => ⟨s, if_pos hpeak, rfl⟩, fun hq hungranted => ?_,
    fun hq hr hgranted hmove => ?_, fun hq hr hgranted hmove hdoms => ?_⟩
  · refine ⟨?_, fun e he => ?_, rfl⟩
    · exact congrArg Dom.pwr ((domGet_domSet hs d _ d).trans (if_pos rfl))
    · exact (domGet_domSet hs d _ e).trans (if_neg he)
  · have hdoms : (stoppedOff s d).doms = _ := view_of_offStopped (f := State.doms) (h := offStopped_stoppedOff s d)
    have hget (e : Nat) : domGet (stoppedOff s d) e = _ := (congrArg (fun m => Sparse.get Dom.off m e) hdoms).trans (domGet_domSet hs d _ e)
    refine ⟨stoppedOff s d, ?_, ?_, ?_, ?_, fun e he => (hget e).trans (if_neg he)⟩
    · rw [exec_powerStopDone hpwr hfalls, hpend]
      rfl
    all_goals rw [hget d, if_pos rfl]
  · have hc := stoppedOff_canonical hs d
    have hoff := offStopped_stoppedOff s d
    have hget : domGet (stoppedOff s d) d = _ := (congrArg (fun m => Sparse.get Dom.off m d)
      (view_of_offStopped (f := State.doms) (h := hoff))).trans ((domGet_domSet hs d _ d).trans (if_pos rfl))
    refine ⟨demandWake (stoppedOff s d) d, ?_, ?_⟩
    · rw [exec_powerStopDone hpwr hfalls, hpend]
      rfl
    · obtain ⟨hwaking, hpending⟩ := domGet_demandWake_off hc ((thermalHold_of_booksIn hs hc (booksIn_stoppedOff s d)).trans hhold)
        ((view_of_offStopped (f := fun u => isShed u d) (h := hoff)).trans hshed) (congrArg Dom.pwr hget)
      exact ⟨hwaking, hpending.trans (congrArg Dom.pendingOn hget)⟩
  · refine ⟨_, (if_neg (fun h => Bool.false_ne_true (hpeak.symm.trans h))), ?_⟩
    rw [hrises, grantHead_cons hungranted]
  · refine ⟨{ s with falls := grantHead s.falls }, rfl, ?_⟩
    rw [hq, grantHead_cons hungranted]
  · refine ⟨{ s with falls := s.falls.eraseIdx i }, ?_, rfl⟩
    have hdone : rampDone s true i = { s with falls := s.falls.eraseIdx i } := by
      unfold rampDone
      simp only [if_true, hr, hgranted, hmove, Bool.not_false, Bool.and_self]
    change Host.Outcome.next (resumeAccs ((List.finRange 16).foldl resumeStart (rampDone s true i))) = _
    rw [hdone, resumeStarts_of_none (s := { s with falls := s.falls.eraseIdx i }) hq.starts]
    exact congrArg _ (resumeAccs_of_none (s := { s with falls := s.falls.eraseIdx i }) hq.accs hq.sess)
  · have hdone : rampDone s false i = domUp { s with rises := s.rises.eraseIdx i } d := by
      unfold rampDone
      simp only [Bool.false_eq_true, if_false, hr, hgranted, hmove, Bool.not_false, Bool.and_self, if_true, hdoms,
        List.foldl_cons, List.foldl_nil]
    have hoff := offRelease_rampDone s i
    have hparts (p : Fin 16) : (rampDone s false i).part p = s.part p := view_of_offRelease (f := fun u => u.part p) (h := hoff)
    refine ⟨rampDone s false i, ?_, ?_, ?_, view_of_offRelease (f := State.falls) (h := hoff),
      view_of_offRelease (f := State.mem) (h := hoff), view_of_offRelease (f := State.parts) (h := hoff)⟩
    · change Host.Outcome.next (resumeAccs (settleAll ((List.finRange 16).foldl resumeStart (rampDone s false i)))) = _
      rw [resumeStarts_of_none (fun p => (congrArg Part.starting (hparts p)).trans (hq.starts p)),
        settleAll_of_none (fun p => (congrArg anyWaits (hparts p)).trans (hq.waits p)), resumeAccs_of_none]
      · exact (view_of_offRelease (f := State.accs) (h := hoff)).trans hq.accs
      · exact NoneAhead.of_sess hq.sess (view_of_offRelease (f := State.sess) (h := hoff))
    all_goals rw [hdone]
    · exact (domGet_domUp (rises_canonical hs _) d).1
    · exact (domGet_domUp (rises_canonical hs _) d).2

end Sys2Proof.Machine
end

section
/-! Block resets (R407 to R413): a block's software source, the end of a drain, and the wait for a clock; O7. -/

namespace Sys2Proof.Machine

variable {s t : State} {who : Requester} {level : Level} {b : Nat}

/-! ### What a block's reset leaves (R408, R411) -/

/-- The state but for what the reset of a block writes. -/
def offReset (s : State) : State :=
  { offStops s with cores := Vector.replicate 64 Core.reset, sramErrs := [], slots := [], so := [], ports := [], freeCount := 0 }

theorem view_of_offReset {α : Type} {f : State → α} (hf : ∀ s, f (offReset s) = f s := by exact fun _ => rfl)
    (h : offReset t = offReset s) : f t = f s := by rw [← hf t, h, hf]

theorem offReset_so (s : State) (m : Sparse SyncObj) : offReset { s with so := m } = offReset s := rfl

theorem offReset_resetBlock (s : State) (b : Nat) : offReset (resetBlock s b) = offReset s := by
  unfold resetBlock
  dsimp only
  split
  · rfl
  · rfl
  · rfl
  · rfl
  · rfl
  · rfl
  · split <;> rfl
  · split <;> rfl
  · split
    · rfl
    · exact offReset_so s _
  · split
    · rfl
    · split <;> rfl
  · split
    · unfold cxlRetrain
      split <;> rfl
    · rfl
  · split <;> rfl
  · split <;> rfl
  · rfl
  · rfl
  · rfl
  · rfl

theorem offReset_faultOnReset (s : State) (b : Nat) : offReset (faultOnReset s b) = offReset s := by
  unfold faultOnReset
  dsimp only
  split
  · exact (congrArg (fun u : State => { u with cores := Vector.replicate 64 Core.reset, sramErrs := [], slots := [], so := [], ports := [], freeCount := 0 })
      (offStops_freeze _ _ _)).trans rfl
  · rfl

theorem blks_resetBlock (s : State) (b : Nat) : (resetBlock s b).blks = s.blks :=
  view_of_offReset (f := State.blks) (h := offReset_resetBlock s b)

theorem blks_faultOnReset (s : State) (b : Nat) : (faultOnReset s b).blks = s.blks :=
  view_of_offReset (f := State.blks) (h := offReset_faultOnReset s b)

/-- A block whose reset asserts: it is held, with what it held. -/
def Blk.asserted (x : Blk) (width : Nat) (iso : Bool) : Blk :=
  { x with inReset := true, iso := iso, draining := false, stuck := false, heldClk := false, widest := max x.widest width }

theorem assertBlk_one (s : State) (b : Nat) (iso : Bool) :
    assertBlk s b 1 iso = resetBlock (faultOnReset (blkMod s b (fun x => x.asserted 1 iso)) b) b := rfl

theorem blks_assertBlk (s : State) (b width : Nat) (iso : Bool) :
    (assertBlk s b width iso).blks = (blkMod s b (fun x => x.asserted width iso)).blks := by
  unfold assertBlk
  dsimp only
  rw [blks_resetBlock]
  split
  · exact blks_faultOnReset _ b
  · rfl

theorem blkGet_assertBlk (hs : s.Canonical) (b width : Nat) (iso : Bool) :
    blkGet (assertBlk s b width iso) b = (blkGet s b).asserted width iso := by
  have hget : blkGet (blkMod s b (fun x => x.asserted width iso)) b = (blkGet s b).asserted width iso := by
    unfold blkMod
    rw [blkGet_blkSet hs, if_pos rfl]
  exact (congrArg (fun m => Sparse.get Blk.reset m b) (blks_assertBlk s b width iso)).trans hget

/-! ### Writes of a block's register (Table 16-15) -/

theorem blkExists_lt (h : blkExists b = true) : b < 0x4000 := by
  by_contra hge
  unfold blkExists at h
  dsimp only at h
  split at h
  any_goals omega
  exact absurd h (by decide)

theorem blkSet_blkSet (hs : s.Canonical) (b : Nat) (x y : Blk) : blkSet (blkSet s b x) b y = blkSet s b y := by
  have hset : Sparse.set Blk.reset (Sparse.set Blk.reset s.blks b x) b y = Sparse.set Blk.reset s.blks b y := by
    refine Sparse.ext (Sparse.set_wf _ _ (Sparse.set_wf _ _ hs.blks)) (Sparse.set_wf _ _ hs.blks) (fun c => ?_)
    rw [Sparse.get_set _ _ (Sparse.set_wf _ _ hs.blks), Sparse.get_set _ _ hs.blks, Sparse.get_set _ _ hs.blks]
    split <;> rfl
  exact congrArg (fun m => ({ s with blks := m } : State)) hset

theorem blkMod_blkSet (hs : s.Canonical) (b : Nat) (x : Blk) (f : Blk → Blk) :
    blkMod (blkSet s b x) b f = blkSet s b (f x) := by
  unfold blkMod
  rw [blkGet_blkSet hs, if_pos rfl, blkSet_blkSet hs]

/-- The block as a write of its register leaves it, before its source acts. -/
def blkWritten (s : State) (b : Nat) (v : Word) : Blk :=
  { blkGet s b with mode := (if flag v 30 = classDrain b then none else some (flag v 30)), drainTo := field v 29 22,
                    err := (blkGet s b).err && !flag v 15 }

theorem writeBlk_setBit (s : State) (b : Nat) (v : Word) (on : Bool) :
    writeBlk s b (setBit v 31 on) = setSoft (blkSet s b (blkWritten s b v)) b on := by
  have hflag (i : Nat) (hi : i < 31) : flag (setBit v 31 on) i = flag v i := by
    rw [flag_setBit _ _ _ _ (by omega), if_neg (by omega)]
  have hset : flag (setBit v 31 on) 31 = on := by rw [flag_setBit _ _ _ _ (by decide), if_pos rfl]
  have hfield : field (setBit v 31 on) 29 22 = field v 29 22 := field_setBit_ne _ _ (by decide) (by decide)
  unfold writeBlk
  dsimp only
  rw [hset, hflag 30 (by decide), hfield, hflag 15 (by decide)]
  rfl

theorem ctlWrite_blk (hb : blkExists b = true) (hgo : AccessGoes s who level (0xE0100000 + 4 * b)) (v : Word) :
    ctlWrite s who (BitVec.ofNat 32 (0xE0100000 + 4 * b)) v = writeBlk s b v := by
  have hlt := blkExists_lt hb
  have haddr : 0xE0100000 + 4 * b = 0xE0000000 + (0x100000 + 4 * b) := by omega
  have hofs : (0x100000 + 4 * b - 0x100000) / 4 = b := by omega
  rw [ctlWrite_of_goes hgo (toNat_addr (by omega)), haddr, doWrite_pm (by omega)]
  unfold writePm
  dsimp only
  rw [if_pos (by omega), hofs]

theorem exec_blockResetSet (hb : blkExists b = true) (hgo : AccessGoes s who level (0xE0100000 + 4 * b)) (v : Word) :
    exec (.blockResetSet who b v) s = .next (setSoft (blkSet s b (blkWritten s b v)) b true) :=
  congrArg Host.Outcome.next ((ctlWrite_blk hb hgo _).trans (writeBlk_setBit s b v true))

theorem exec_blockResetClear (hb : blkExists b = true) (hgo : AccessGoes s who level (0xE0100000 + 4 * b)) (v : Word) :
    exec (.blockResetClear who b v) s = .next (setSoft (blkSet s b (blkWritten s b v)) b false) :=
  congrArg Host.Outcome.next ((ctlWrite_blk hb hgo _).trans (writeBlk_setBit s b v false))

/-- MODE as it was written is MODE in force. -/
theorem mode_blkWritten (s : State) (b : Nat) (v : Word) : (blkWritten s b v).mode.getD (classDrain b) = flag v 30 := by
  unfold blkWritten
  by_cases h : flag v 30 = classDrain b
  · simp [h]
  · simp [h]

/-- The source of a block that nothing holds: it drains where its MODE and DRAIN_TO say so, or its reset asserts. -/
theorem setSoft_of_free (hs : s.Canonical) {x : Blk} (hsoft : x.soft = false) (hdrain : x.draining = false)
    (hreset : x.inReset = false) : setSoft (blkSet s b x) b true =
      if x.mode.getD (classDrain b) && decide (x.drainTo ≠ 0) then blkSet s b { x with soft := true, draining := true }
      else resetBlock (faultOnReset (blkSet s b (Blk.asserted { x with soft := true } 1 true)) b) b := by
  have hget : blkGet (blkSet s b x) b = x := by rw [blkGet_blkSet hs, if_pos rfl]
  have hget' : blkGet (blkSet s b { x with soft := true }) b = { x with soft := true } := by rw [blkGet_blkSet hs, if_pos rfl]
  have hdrains : blkDrains (blkSet s b { x with soft := true }) b = x.mode.getD (classDrain b) := by rw [blkDrains, hget']
  have hoff : ∀ {c : Bool}, c = false → ¬c = true := fun h h' => Bool.false_ne_true (h.symm.trans h')
  unfold setSoft
  dsimp only
  rw [hget, if_pos (by rw [hsoft]; rfl), if_neg (hoff hdrain), if_neg (hoff hreset), blkSet_blkSet hs, hdrains]
  by_cases hmode : (x.mode.getD (classDrain b) && decide (x.drainTo ≠ 0)) = true
  · rw [if_pos hmode, if_pos hmode, blkMod_blkSet hs]
  · rw [if_neg hmode, if_neg hmode, assertBlk_one, blkMod_blkSet hs]

/-! ### Releases (R412, Table 16-4) -/

/-- A port that had stopped trains. -/
def Port.started (q : Port) : Port := if q.state = .off then q.train else q

theorem Port.started_started (q : Port) : q.started.started = q.started := by
  unfold Port.started
  by_cases h : q.state = .off
  · rw [if_pos h]
    refine if_neg ?_
    unfold Port.train Port.stop
    split <;> simp_all
  · rw [if_neg h, if_neg h]

theorem get_foldl_modify {α : Type} [DecidableEq α] {d : α} {f : α → α} (hf : ∀ x, f (f x) = f x) (l : List Nat) {m : Sparse α}
    (hm : Sparse.wf d m = true) (i : Nat) : Sparse.get d (l.foldl (fun m i => Sparse.modify d m i f) m) i =
      if i ∈ l then f (Sparse.get d m i) else Sparse.get d m i := by
  induction l generalizing m with
  | nil => rfl
  | cons j l ih =>
    rw [List.foldl_cons, ih (Sparse.modify_wf j f hm), Sparse.modify, Sparse.get_set _ _ hm]
    by_cases hj : i = j
    · subst hj
      rw [if_pos rfl, if_pos List.mem_cons_self, hf, ite_self]
    · rw [if_neg hj]
      simp only [List.mem_cons, hj, false_or]

theorem portGet_trainPorts (hs : s.Canonical) (l : List Nat) (i : Nat) : portGet (trainPorts s l) i =
    if i ∈ l.filter (portExists s) then (portGet s i).started else portGet s i :=
  get_foldl_modify Port.started_started _ hs.ports i

/-- A block that a source still holds stays in reset. -/
theorem releaseBlk_of_held (h : sourcesClear (blkGet s b) = false) : releaseBlk s b = s := by
  unfold releaseBlk
  simp only [h, Bool.and_false, Bool.false_and, Bool.false_eq_true, if_false]

/-- A block that has left reset. -/
def Blk.released (x : Blk) : Blk := { x with inReset := false, heldClk := false, stuck := false, widest := 0 }

/-- A block that nothing holds any more, with its domain on and its clock good, leaves reset and starts its ports. -/
theorem releaseBlk_of_good (hs : s.Canonical) {x : Blk} (hreset : x.inReset = true) (hclear : sourcesClear x = true)
    (hdrain : x.draining = false) (hpwr : (domGet s (blkDom b)).pwr = .on) (hclk : (domGet s (blkDom b)).clkGood = true) :
    releaseBlk (blkSet s b x) b = trainPorts (blkSet s b x.released) (blkPorts b) := by
  have hget : blkGet (blkSet s b x) b = x := by rw [blkGet_blkSet hs, if_pos rfl]
  unfold releaseBlk
  dsimp only
  rw [hget, if_pos (by rw [hreset, hclear, hdrain]; rfl), if_neg (fun h => h hpwr),
    if_neg (by rw [domGet_blkSet, hclk]; decide), blkSet_blkSet hs]
  rfl

theorem setSoft_clear (hs : s.Canonical) {x : Blk} (hsoft : x.soft = true) (hreset : x.inReset = true)
    (hclear : sourcesClear { x with soft := false } = true) (hdrain : x.draining = false) (hwidest : x.widest ≠ 2)
    (hpwr : (domGet s (blkDom b)).pwr = .on) (hclk : (domGet s (blkDom b)).clkGood = true) :
    setSoft (blkSet s b x) b false = trainPorts (blkSet s b (Blk.released { x with soft := false })) (blkPorts b) := by
  have hget : blkGet (blkSet s b x) b = x := by rw [blkGet_blkSet hs, if_pos rfl]
  unfold setSoft
  dsimp only
  rw [hget, if_neg (show ¬(false && !x.soft) = true from Bool.false_ne_true), if_pos (by rw [hsoft]; rfl)]
  unfold releaseSoft
  dsimp only
  rw [hget, if_neg (by simp [hwidest]), blkSet_blkSet hs]
  exact releaseBlk_of_good hs hreset hclear hdrain hpwr hclk

/-- The end of a drain whose software source still holds the block: the reset asserts and stays. -/
theorem blkGet_endDrain (hs : s.Canonical) (hsoft : (blkGet s b).soft = true) (iso : Bool) :
    (blkGet (endDrain s b iso) b).inReset = true ∧ (blkGet (endDrain s b iso) b).iso = iso := by
  set w := if (blkGet s b).part then 2 else 1
  have hc : (assertBlk s b w iso).Canonical := (assertBlk_kept (.refl s) b w iso).canonical hs
  have hget : blkGet (blkMod (assertBlk s b w iso) b (fun x => { x with part := false })) b =
      { (blkGet s b).asserted w iso with part := false } := by
    unfold blkMod
    rw [blkGet_blkSet hc, if_pos rfl, blkGet_assertBlk hs]
  have hheld : endDrain s b iso = blkMod (assertBlk s b w iso) b (fun x => { x with part := false }) := by
    refine releaseBlk_of_held ?_
    rw [hget]
    unfold sourcesClear Blk.asserted
    rw [hsoft]
    rfl
  rw [hheld, hget]
  exact ⟨rfl, rfl⟩

/-! ### Registers and counts in view while a block resets -/

theorem booksIn_mono {g g' : Nat → Bool} (hg : ∀ a, g a = true → g' a = true) (h : booksIn g' t = booksIn g' s) :
    booksIn g t = booksIn g s := by
  have hfilter {α : Type} (m : Sparse α) : m.filter (fun e => g e.1) = (m.filter (fun e => g' e.1)).filter (fun e => g e.1) := by
    rw [List.filter_filter]
    refine List.filter_congr fun e _ => ?_
    cases hge : g e.1
    · rfl
    · rw [hg _ hge]
      rfl
  have hregs : t.regs.filter (fun e => g' e.1) = s.regs.filter (fun e => g' e.1) := congrArg Prod.fst h
  have hcounts : t.counts.filter (fun e => g' e.1) = s.counts.filter (fun e => g' e.1) := congrArg Prod.snd h
  exact Prod.ext (by rw [booksIn, hfilter, hregs, ← hfilter]; rfl) (by rw [booksIn, hfilter t.counts, hcounts, ← hfilter]; rfl)

theorem booksIn_linkSet (g : Nat → Bool) (s : State) (e : Endpoint) (l : Link) : booksIn g (linkSet s e l) = booksIn g s := by
  cases e <;> rfl

section
variable {g : Nat → Bool} (hg : HidesFrames g)
include hg

theorem booksIn_sendFrame (s : State) (e : Endpoint) (op flags : Nat) (ext : Option (List Byte)) (payload : List (List Byte)) :
    booksIn g (sendFrame s e op flags ext payload) = booksIn g s := by
  unfold sendFrame
  dsimp only
  split
  · rw [booksIn_pump hg, booksIn_linkSet]
  · rfl

theorem booksIn_answerStop (s : State) (p : Fin 16) : booksIn g (answerStop s p) = booksIn g s :=
  (foldl_view (booksIn g) (fun u r => by
    unfold answer
    split
    · exact booksIn_sendFrame hg _ _ _ _ _ _
    · rfl) _ _).trans rfl

theorem booksIn_stopUpds (s : State) (p : Fin 16) : booksIn g (stopUpds s p) = booksIn g s := by
  refine foldl_view_of_mem (booksIn g) (fun u n hn => ?_) s
  have hlt := List.mem_range.mp hn
  dsimp only
  split
  · exact booksIn_setRaw (hg.updates _ (by omega) (by omega)) u _
  · rfl

theorem booksIn_freeze (s : State) (p : Fin 16) (r : FaultRec) : booksIn g (freeze s p r) = booksIn g s := by
  have hstop : booksIn g (stopUpds (recordFault s p r) p) = booksIn g s := booksIn_stopUpds hg _ p
  have hdump (u : State) : booksIn g (startDump u p) = booksIn g u := by
    unfold startDump
    split
    · exact booksIn_setRaw hg.events u _
    · rfl
  unfold freeze
  dsimp only
  split
  · rw [booksIn_answerStop hg, hdump]
    exact hstop
  · exact hstop

end

theorem booksIn_faultOnReset (s : State) (b : Nat) : booksIn pmRegs (faultOnReset s b) = booksIn pmRegs s := by
  unfold faultOnReset
  dsimp only
  split
  · exact (booksIn_freeze hidesFrames_pmRegs _ _ _).trans rfl
  · rfl

theorem booksIn_resetRange_below {lo n : Nat} (h : lo + n ≤ 0xE0000000) (s : State) :
    booksIn pmRegs (resetRange s lo n) = booksIn pmRegs s :=
  booksIn_resetRange (fun a _ hhi => decide_eq_false (by omega)) s

theorem booksIn_so (g : Nat → Bool) (s : State) (m : Sparse SyncObj) : booksIn g { s with so := m } = booksIn g s := rfl

theorem booksIn_cxlRetrain {x : Nat} (hx : x < 4) (s : State) : booksIn pmRegs (cxlRetrain s x) = booksIn pmRegs s := by
  unfold cxlRetrain
  split
  · exact booksIn_setRaw (decide_eq_false (by omega)) s _
  · rfl

/-- The engine blocks and routers are those of the 64 cores. -/
theorem index_lt_of_engine (hb : blkExists b = true) (hc : b / 0x400 ∈ [1, 2, 3, 4, 5, 8]) : b % 0x400 < 64 := by
  simp only [List.mem_cons, List.not_mem_nil, or_false] at hc
  unfold blkExists at hb
  rcases hc with h | h | h | h | h | h <;> simpa [h] using hb

/-- The power manager is one block. -/
theorem eq_pm_of_code (hb : blkExists b = true) (hc : b / 0x400 = 14) : b = 0x3800 := by
  unfold blkExists at hb
  have hindex : b % 0x400 = 0 := by simpa [hc] using hb
  omega

/-- Of the power manager, the reset of another block changes nothing. -/
theorem booksIn_resetBlock (hb : blkExists b = true) (hpm : b ≠ 0x3800) (s : State) :
    booksIn pmRegs (resetBlock s b) = booksIn pmRegs s := by
  have hlt : b % 0x400 < 0x400 := Nat.mod_lt _ (by decide)
  have hcore {code ofs n : Nat} (hi : b % 0x400 < 64) (hcode : code ≤ 8) (hend : ofs + n ≤ 0x400000) (u : State) :
      booksIn pmRegs (resetRange u (coreReg code (b % 0x400) ofs) n) = booksIn pmRegs u :=
    booksIn_resetRange_below (by unfold coreReg; omega) u
  unfold resetBlock
  dsimp only
  split
  · next h =>
    exact hcore (index_lt_of_engine hb (by rw [h]; decide)) (by decide) (by decide) s
  · next h =>
    exact hcore (index_lt_of_engine hb (by rw [h]; decide)) (by decide) (by decide)
      (clearArray (clearArray s arrTb (b % 0x400) 0 (2 ^ 24)) arrChest (b % 0x400) 0 (2 ^ 24))
  · next h => exact hcore (index_lt_of_engine hb (by rw [h]; decide)) (by decide) (by decide) s
  · next h =>
    exact hcore (index_lt_of_engine hb (by rw [h]; decide)) (by decide) (by decide) (clearArray s arrAm (b % 0x400) 0 (2 ^ 24))
  · next h => exact hcore (index_lt_of_engine hb (by rw [h]; decide)) (by decide) (by decide) s
  · next h => exact hcore (index_lt_of_engine hb (by rw [h]; decide)) (by decide) (by decide) s
  · split
    · next hi => exact hcore hi (by decide) (by decide) s
    · rfl
  · split
    · exact booksIn_resetRange_below (by omega) s
    · rfl
  · split
    · rfl
    · exact booksIn_so pmRegs s _
  · split
    · exact booksIn_resetRange_below (by omega) s
    · split
      · exact booksIn_resetRange_below (by omega) s
      · rfl
  · split
    · next hi => rw [booksIn_cxlRetrain hi, booksIn_resetRange_below (by omega)]
    · rfl
  · split
    · exact booksIn_resetRange_below (lo := 0xB0000104 + 0x80 * (b % 0x400)) (n := 0x54) (by omega) s
    · rfl
  · split
    · exact booksIn_resetRange_below (lo := 0xC0000204 + 0x80 * (b % 0x400)) (n := 0x54) (by omega) s
    · rfl
  · exact booksIn_resetRange_below (by decide) s
  · exact booksIn_resetRange_below (by decide) s
  · next h => exact absurd (eq_pm_of_code hb h) hpm
  · rfl

/-! ### The obligation -/

/-- The registers and the count that record a drain that ran out (R409). -/
def drainBooks (a : Nat) : Bool := decide (a = 0xE0000004) || decide (a = 0xE000001C) || decide (a = 0xE0000028)

theorem pmRegs_of_drainBooks (a : Nat) (h : drainBooks a = true) : pmRegs a = true := by
  unfold drainBooks at h
  simp only [Bool.or_eq_true, decide_eq_true_eq] at h
  rcases h with (h | h) | h <;> subst h <;> decide

/-- A wake demand writes the count of wakes, and no other register or count. -/
theorem booksIn_demandOne {g : Nat → Bool} (hg : g 0xE0000030 = false) (s : State) (d : Nat) :
    booksIn g (demandOne s d).1 = booksIn g s := by
  unfold demandOne
  dsimp only
  split
  · rfl
  · split
    · rfl
    · split
      · exact booksIn_bump (lo := 0xE0000030) hg (ovf := none) (fun _ ho => absurd ho (Option.not_mem_none _)) s 1
      · rfl
      · rfl

theorem booksIn_demandAll {g : Nat → Bool} (hg : g 0xE0000030 = false) (s : State) (ds : List Nat) :
    booksIn g (demandAll s ds) = booksIn g s := by
  have hfold := foldl_view (fun acc : State × List Nat => booksIn g acc.1)
    (g := fun acc d => ((demandOne acc.1 d).1, if (demandOne acc.1 d).2 then acc.2 ++ [d] else acc.2))
    (fun acc d => booksIn_demandOne hg acc.1 d) ds (s, [])
  unfold demandAll
  dsimp only
  split <;> exact hfold

theorem booksIn_releaseBlk (s : State) (b : Nat) : booksIn drainBooks (releaseBlk s b) = booksIn drainBooks s := by
  unfold releaseBlk
  dsimp only
  split
  · split
    · exact (booksIn_demandAll (by decide) _ _).trans rfl
    · split <;> rfl
  · rfl

/-- What a drain that ran out has recorded stands as its block's reset asserts. -/
theorem booksIn_endDrain (hb : blkExists b = true) (hpm : b ≠ 0x3800) (s : State) (iso : Bool) :
    booksIn drainBooks (endDrain s b iso) = booksIn drainBooks s := by
  have hassert (w : Nat) : booksIn drainBooks (assertBlk s b w iso) = booksIn drainBooks s := by
    refine booksIn_mono pmRegs_of_drainBooks ?_
    unfold assertBlk
    dsimp only
    rw [booksIn_resetBlock hb hpm]
    split
    · exact (booksIn_faultOnReset _ b).trans rfl
    · rfl
  exact (booksIn_releaseBlk _ b).trans (hassert _)

/-- The state in which a drain that ran out has been recorded. -/
def drainNoted (s : State) (b : Nat) : State := postBit (setRaw (bumpPm s 0x28 1) 0xE000001C (BitVec.ofNat 32 b)) 0xE0000004 1

theorem drainNoted_canonical (hs : s.Canonical) (b : Nat) : (drainNoted s b).Canonical :=
  postBit_canonical (setRaw_canonical (bumpPm_canonical hs _ _) _ _) _ _

theorem exec_drainTimeout (hb : blkExists b = true) (hdrain : (blkGet s b).draining = true) :
    exec (.drainTimeout b) s = .next (endDrain (drainNoted s b) b true) := by
  refine if_pos ?_
  rw [hb, hdrain]
  rfl

theorem exec_drainIdle (hb : blkExists b = true) (hdrain : (blkGet s b).draining = true) :
    exec (.drainIdle b) s = .next (endDrain s b false) := by
  refine congrArg Host.Outcome.next (if_pos ?_)
  rw [hb, hdrain]
  rfl

theorem exec_rstHeldClkExpiry (hb : blkExists b = true) (hheld : (blkGet s b).heldClk = true) :
    exec (.rstHeldClkExpiry b) s =
      .next (postBit (blkMod s b (fun x => { x with heldClk := false, err := true, stuck := true })) 0xE0000004 0) := by
  refine if_pos ?_
  rw [hb, hheld]
  rfl

/-- What is recorded of a drain that ran out. -/
theorem drainNoted_endDrain (hs : s.Canonical) (hb : blkExists b = true) (hpm : b ≠ 0x3800) (iso : Bool) :
    count (endDrain (drainNoted s b) b iso) 0xE0000028 = (count s 0xE0000028 + 1) % 2 ^ 48 ∧
      rawReg (endDrain (drainNoted s b) b iso) 0xE000001C = BitVec.ofNat 32 b ∧
      flag (rawReg (endDrain (drainNoted s b) b iso) 0xE0000004) 1 = true := by
  have hbump := bumpPm_canonical hs 0x28 1
  have hset := setRaw_canonical hbump 0xE000001C (BitVec.ofNat 32 b)
  have hc := drainNoted_canonical hs b
  have hc' : (endDrain (drainNoted s b) b iso).Canonical := (endDrain_kept (.refl _) b iso).canonical hc
  have hbooks := booksIn_endDrain hb hpm (drainNoted s b) iso
  refine ⟨?_, ?_, ?_⟩
  · rw [count_of_booksIn hc hc' hbooks (by decide)]
    exact (count_bumpPm hs 0x28 1 _).trans (if_pos rfl)
  · rw [rawReg_of_booksIn hc hc' hbooks (by decide)]
    exact (rawReg_setRaw_ne hset _ (by decide)).trans (rawReg_setRaw_same hbump _ _)
  · rw [rawReg_of_booksIn hc hc' hbooks (by decide)]
    exact flag_postBit hset _ (by decide)

/-- Settles O7: the software source in both modes, the end of a drain, and the release without a clock. -/
theorem blockResets : Obligations.BlockResets := by
  intro s who level b v x hs hb hx
  refine ⟨fun hgo hsoft hdrain hreset => ?_, fun hgo hsoft hreset hclear hdrain hwidest hpwr hclk => ?_,
    fun hdrain => ⟨⟨_, exec_drainIdle hb hdrain, rfl, fun hsoft => blkGet_endDrain hs hsoft false⟩,
      ⟨_, exec_drainTimeout hb hdrain, fun hsoft => blkGet_endDrain (drainNoted_canonical hs b) hsoft true,
        fun hpm => drainNoted_endDrain hs hb hpm true⟩⟩,
    fun hheld => ⟨_, exec_rstHeldClkExpiry hb hheld, ?_⟩⟩
  · have hfree := setSoft_of_free (b := b) hs (x := blkWritten s b v) hsoft hdrain hreset
    rw [mode_blkWritten] at hfree
    subst hx
    refine ⟨fun ⟨hmode, hto⟩ => ⟨_, exec_blockResetSet hb hgo v, ?_⟩, fun hmode => ⟨_, exec_blockResetSet hb hgo v, ?_⟩⟩
    · rw [hfree, if_pos (by rw [hmode]; exact decide_eq_true hto)]
      refine ⟨?_, fun c hc => ?_, rfl⟩
      · rw [blkGet_blkSet hs, if_pos rfl]
        rfl
      · rw [blkGet_blkSet hs, if_neg hc]
    · rw [hfree, if_neg (by rw [hmode]; exact Bool.false_ne_true)]
      have hblk : blkGet (resetBlock (faultOnReset (blkSet s b (Blk.asserted { blkWritten s b v with soft := true } 1 true)) b) b) b
          = Blk.asserted { blkWritten s b v with soft := true } 1 true := by
        rw [blkGet, blks_resetBlock, blks_faultOnReset]
        exact (blkGet_blkSet hs b _ b).trans (if_pos rfl)
      rw [hblk]
      exact ⟨rfl, rfl, rfl, rfl⟩
  · have hclear' := setSoft_clear (b := b) hs (x := blkWritten s b v) hsoft hreset hclear hdrain hwidest hpwr hclk
    have hc := blkSet_canonical hs b (Blk.released { blkWritten s b v with soft := false })
    refine ⟨_, exec_blockResetClear hb hgo v, ?_⟩
    rw [hclear']
    have hblk (c : Nat) := blkGet_blkSet hs b (Blk.released { blkWritten s b v with soft := false }) c
    refine ⟨?_, ?_, fun c hcne => (hblk c).trans (if_neg hcne), rfl, fun i hi => ?_, fun i hi hex hoff => ?_⟩
    · exact congrArg Blk.inReset ((hblk b).trans (if_pos rfl))
    · exact congrArg Blk.soft ((hblk b).trans (if_pos rfl))
    · exact (portGet_trainPorts hc _ i).trans (if_neg (fun hmem => hi (List.mem_filter.mp hmem).1))
    · refine (portGet_trainPorts hc _ i).trans ((if_pos (List.mem_filter.mpr ⟨hi, hex⟩)).trans ?_)
      exact if_pos hoff
  · have hc := blkMod_canonical hs b (fun x => { x with heldClk := false, err := true, stuck := true })
    have hblk : blkGet (blkMod s b (fun x => { x with heldClk := false, err := true, stuck := true })) b =
        { blkGet s b with heldClk := false, err := true, stuck := true } := (blkGet_blkSet hs b _ b).trans (if_pos rfl)
    exact ⟨congrArg Blk.heldClk hblk, congrArg Blk.err hblk, .of_postBit hc _ _, flag_postBit hc _ (by decide)⟩

end Sys2Proof.Machine
end

section
/-! The register rows of the reset controller (R404 to R406): what a partition reset leaves of its partition and of memory;
O6. -/

namespace Sys2Proof.Machine

variable {s t : State} {who : Requester} {level : Level}

/-! ### What a partition reset leaves before the copies of its prefetch entries stop -/

/-- What of partition p, and of memory, the steps of a partition reset leave. -/
def resetView (p : Fin 16) (s : State) : Nat × List Nat × List PrefEntry × Sparse Byte :=
  ((s.part p).shape, (s.part p).connMap, (s.part p).mem.prefQ, s.mem)

theorem resetView_of {p : Fin 16} (hparts : t.parts = s.parts) (hmem : t.mem = s.mem) : resetView p t = resetView p s := by
  unfold resetView State.part
  rw [hparts, hmem]

theorem resetView_modPart {p : Fin 16} {f : Part → Part} (hf : ∀ x, ((f x).shape, (f x).connMap, (f x).mem.prefQ) =
    (x.shape, x.connMap, x.mem.prefQ)) (s : State) : resetView p (s.modPart p f) = resetView p s := by
  unfold resetView
  rw [State.part_modPart_same]
  exact congrArg (fun v : Nat × List Nat × List PrefEntry => (v.1, v.2.1, v.2.2, s.mem)) (hf (s.part p))

theorem resetView_resetRange (p : Fin 16) (s : State) (lo n : Nat) : resetView p (resetRange s lo n) = resetView p s := rfl

theorem resetView_slots (p : Fin 16) (s : State) (m : Sparse Slot) : resetView p { s with slots := m } = resetView p s := rfl

theorem resetView_of_offFrames {p : Fin 16} (h : offFrames t = offFrames s) : resetView p t = resetView p s :=
  view_of_offFrames (f := resetView p) (h := h)

theorem resetView_answer (p : Fin 16) (s : State) (r : ReplyTo) (status : Nat) :
    resetView p (answer s r status) = resetView p s := by
  unfold answer
  split
  · exact resetView_of_offFrames (offFrames_sendFrame _ _ _ _ _ _)
  · rfl

theorem resetView_answerStops (p : Fin 16) (s : State) (status : Nat) : resetView p (answerStops s p status) = resetView p s := by
  unfold answerStops
  rw [foldl_view (resetView p) (fun u r => resetView_answer p u r status), resetView_modPart]
  exact fun _ => rfl

theorem offLost_clearEngines (s : State) (p : Fin 16) : offLost (clearEngines s p) = offLost s :=
  foldl_view offLost (fun u nn => by rw [offLost_modCore, offLost_clearCoreRegs, offLost_clearCoreSram]) _ s

theorem offLost_resetCounter (s : State) (nn j : Nat) : offLost (resetCounter s nn j) = offLost s := rfl

theorem offLost_resetCounters (s : State) (p : Fin 16) : offLost (resetCounters s p) = offLost s :=
  foldl_view offLost (fun u nn => foldl_view offLost (fun v j => offLost_resetCounter v nn j) _ u) _ s

theorem resetView_clearTrace (p : Fin 16) (s : State) : resetView p (clearTrace s p) = resetView p s := by
  unfold clearTrace
  rw [resetView_resetRange, resetView_modPart]
  exact fun _ => rfl

theorem resetView_resetObjects (p : Fin 16) (s : State) (rise : Bool) : resetView p (resetObjects s p rise) = resetView p s := by
  refine foldl_view (resetView p) (fun u i => ?_) _ s
  rfl

theorem resetView_dropLinkWaits (p : Fin 16) (s : State) : resetView p (dropLinkWaits s p) = resetView p s := by
  refine foldl_view (resetView p) (fun u i => ?_) _ s
  exact resetView_of_offFrames (offFrames_linkSet u _ _)

/-- The partition that a reset leaves of x. -/
def Part.afterReset (x : Part) : Part :=
  { startLayers (idleStreams x) with state := .admitted, tables := [], stopMode := .none, resetDue := false,
                                     mem := endRefs (emptyQueue (startLayers (idleStreams x)).mem) }

/-- A partition reset: what stops and clears first leaves shape, connections, prefetch entries and memory; then the copies of
the entries stop. -/
theorem resetPart_spec (s : State) (p : Fin 16) : ∃ u, resetView p u = resetView p s ∧ resetPart s p =
    ((u.part p).mem.prefQ.foldl (loseWindow p) u).setPart p
      (((u.part p).mem.prefQ.foldl (loseWindow p) u).part p).afterReset := by
  unfold resetPart
  extract_lets s1 s2 s3 s4 x s5 s6 _ s7
  have h1 : resetView p s1 = resetView p s := foldl_view (resetView p) (fun s u => by dsimp only; split <;> rfl) _ s
  clear_value s1
  have h2 : resetView p s2 = resetView p s1 := by
    change resetView p (match (s1.part p).active with
      | some v => answer (s1.modPart p (fun x => { x with active := none })) v.reply 3
      | none => s1) = _
    split
    · rw [resetView_answer, resetView_modPart]
      exact fun _ => rfl
    · rfl
  clear_value s2
  have h3 : resetView p s3 = resetView p s2 := resetView_answerStops p s2 3
  clear_value s3
  have h4 : resetView p s4 = resetView p s3 := by
    change resetView p (dropLinkWaits (resetObjects (clearTrace (resetCounters (clearEngines s3 p) p) p) p true) p) = _
    rw [resetView_dropLinkWaits, resetView_resetObjects, resetView_clearTrace,
      view_of_offLost (f := resetView p) (h := offLost_resetCounters _ p),
      view_of_offLost (f := resetView p) (h := offLost_clearEngines _ p)]
  clear_value s4
  have h6 : resetView p s6 = resetView p s4 := (resetView_resetRange p s5 _ _).trans (resetView_slots p s4 _)
  exact ⟨s6, h6.trans (h4.trans (h3.trans (h2.trans h1))), rfl⟩

/-! ### What the partition is after its reset -/

/-- What lasts of a partition's shape and connections. -/
def Part.hold (x : Part) : Nat × List Nat := (x.shape, x.connMap)

theorem hold_loseWindow (p : Fin 16) (s : State) (e : PrefEntry) : ((loseWindow p s e).part p).hold = (s.part p).hold := by
  unfold loseWindow
  split
  · rfl
  · have hwrite := (Op.Leaves.each (l := Config.windowBytes s.freeCount) fun b : Nat × Byte =>
      writeMem_leaves .compute p (e.dst + b.1 % (256 * e.len)) [b.2]) s
    exact part_view_of_offWork (f := Part.hold) (fun _ => rfl) hwrite p

theorem loseWindow_of_waiting {p : Fin 16} {e : PrefEntry} (h : e.src = none) (s : State) : loseWindow p s e = s := by
  unfold loseWindow
  rw [h]
  rfl

/-- Partition x once reset: ADMITTED, with its shape and its connections, and its streams idle. -/
structure ResetFrom (x y : Part) : Prop where
  state : y.state = .admitted
  hold : y.hold = x.hold
  streams : ∀ t, y.stream t = Stream.idle

theorem ResetFrom.shape {x y : Part} (h : ResetFrom x y) : y.shape = x.shape := congrArg (fun v : Nat × List Nat => v.1) h.hold

theorem ResetFrom.connMap {x y : Part} (h : ResetFrom x y) : y.connMap = x.connMap := congrArg (fun v : Nat × List Nat => v.2) h.hold

theorem resetFrom_resetPart (s : State) (p : Fin 16) : ResetFrom (s.part p) ((resetPart s p).part p) := by
  obtain ⟨u, hview, hreset⟩ := resetPart_spec s p
  rw [hreset, State.part_setPart_same]
  have hfold := foldl_view (fun u : State => (u.part p).hold) (g := loseWindow p) (fun u e => hold_loseWindow p u e)
    (u.part p).mem.prefQ u
  exact ⟨rfl, hfold.trans (congrArg (fun v : Nat × List Nat × List PrefEntry × Sparse Byte => (v.1, v.2.1)) hview),
    fun t => by cases t <;> rfl⟩

/-- Where no copy of a prefetch entry goes on, a partition reset writes no memory. -/
theorem mem_resetPart {p : Fin 16} (h : ∀ e ∈ (s.part p).mem.prefQ, e.src = none) : (resetPart s p).mem = s.mem := by
  obtain ⟨u, hview, hreset⟩ := resetPart_spec s p
  have hq : (u.part p).mem.prefQ = (s.part p).mem.prefQ := congrArg (fun v => v.2.2.1) hview
  have hfold := foldl_view_of_mem State.mem (g := loseWindow p) (l := (s.part p).mem.prefQ)
    (fun u e he => by rw [loseWindow_of_waiting (h e he)]) u
  rw [hreset, hq]
  exact hfold.trans (congrArg (fun v => v.2.2.2) hview)

theorem ResetFrom.idleStreams {x y : Part} (h : ResetFrom x y) : ResetFrom x (idleStreams y) := by
  obtain ⟨hstate, hhold, _⟩ := h
  exact ⟨hstate, hhold, fun t => by cases t <;> rfl⟩

/-- The reset of a block leaves the partitions, but that of a sequencer makes its partition's streams idle. -/
theorem parts_resetBlock (s : State) (b : Nat) :
    (resetBlock s b).parts = s.parts ∨ ∃ q, (resetBlock s b).parts = (s.modPart q idleStreams).parts := by
  unfold resetBlock
  dsimp only
  split
  · exact .inl rfl
  · exact .inl rfl
  · exact .inl rfl
  · exact .inl rfl
  · exact .inl rfl
  · exact .inl rfl
  · split <;> exact .inl rfl
  · split <;> exact .inl rfl
  · split
    · exact .inr ⟨_, rfl⟩
    · exact .inl rfl
  · split
    · exact .inl rfl
    · split <;> exact .inl rfl
  · split
    · unfold cxlRetrain
      split <;> exact .inl rfl
    · exact .inl rfl
  · split <;> exact .inl rfl
  · split <;> exact .inl rfl
  · exact .inl rfl
  · exact .inl rfl
  · exact .inl rfl
  · exact .inl rfl

theorem ResetFrom.resetBlock {x : Part} {p : Fin 16} (h : ResetFrom x (s.part p)) (b : Nat) :
    ResetFrom x ((resetBlock s b).part p) := by
  unfold State.part
  rcases parts_resetBlock s b with hparts | ⟨q, hparts⟩ <;> rw [hparts]
  · exact h
  · change ResetFrom x ((s.modPart q Machine.idleStreams).part p)
    by_cases hq : p = q
    · subst hq
      rw [State.part_modPart_same]
      exact h.idleStreams
    · rw [State.part_modPart_ne _ _ hq]
      exact h

theorem ResetFrom.releaseBlk {x : Part} {p : Fin 16} (h : ResetFrom x (s.part p)) (b : Nat) :
    ResetFrom x ((releaseBlk s b).part p) := by
  rw [view_of_offRelease (f := fun u => u.part p) (h := offRelease_releaseBlk s b)]
  exact h

theorem ResetFrom.coverBlk {x : Part} {p : Fin 16} (h : ResetFrom x (s.part p)) (b : Nat) :
    ResetFrom x ((coverBlk s b).part p) := by
  unfold Machine.coverBlk
  dsimp only
  split
  · exact h
  · split
    · exact h
    · exact (ResetFrom.resetBlock (s := blkMod s b (fun x => x.asserted 2 true)) h b).releaseBlk b

theorem mem_coverBlk (s : State) (b : Nat) : (coverBlk s b).mem = s.mem := by
  unfold coverBlk
  dsimp only
  split
  · rfl
  · split
    · rfl
    · rw [view_of_offRelease (f := State.mem) (h := offRelease_releaseBlk _ b)]
      exact (view_of_offReset (f := State.mem) (h := offReset_resetBlock (blkMod s b (fun x => x.asserted 2 true)) b)).trans rfl

theorem resetFrom_partitionReset (s : State) (p : Fin 16) : ResetFrom (s.part p) ((partitionReset s p).part p) := by
  have hcover (l : List Nat) (u : State) (hu : ResetFrom (s.part p) (u.part p)) :
      ResetFrom (s.part p) ((l.foldl coverBlk u).part p) := by
    induction l generalizing u with
    | nil => exact hu
    | cons b l ih => exact ih _ (hu.coverBlk b)
  refine hcover _ _ ?_
  rw [view_of_offWakes (f := fun u => u.part p) (h := offWakes_demandAll _ _)]
  exact resetFrom_resetPart s p

theorem mem_partitionReset {p : Fin 16} (h : ∀ e ∈ (s.part p).mem.prefQ, e.src = none) : (partitionReset s p).mem = s.mem := by
  refine (foldl_view State.mem (fun u b => mem_coverBlk u b) _ _).trans ?_
  rw [view_of_offWakes (f := State.mem) (h := offWakes_demandAll _ _)]
  exact mem_resetPart h

/-! ### The rows -/

theorem exec_partitionReset (hgo : AccessGoes s who level 0xE0000014) (p : Fin 16) {v : Word} (hkey : field v 31 16 = 0xA5C3) :
    exec (.partitionReset who p v) s = .next (
      if (s.part p).state = .free ∨ (s.part p).state = .scrubbing then badReq s
      else if s.dump.busy = some p then s.modPart p (fun x => { x with resetDue := true })
      else partitionReset s p) := by
  have hp : field (setField v 3 0 p.val) 3 0 = p.val := by
    rw [field_setField_same _ _ (by decide)]
    exact Nat.mod_eq_of_lt p.isLt
  have hk : field (setField v 3 0 p.val) 31 16 = 0xA5C3 := by rw [field_setField_ne _ _ (by decide) (by decide), hkey]
  change Host.Outcome.next (ctlWrite s who 0xE0000014#32 (setField v 3 0 p.val)) = _
  rw [ctlWrite_of_goes hgo rfl, doWrite_pm (n := 0x14) (by decide)]
  change Host.Outcome.next (askPartReset s (setField v 3 0 p.val)) = _
  unfold askPartReset
  dsimp only
  rw [hp, hk, if_neg (fun h => h rfl), ofNat_val]

/-- Settles O6: the watchdog's kick, the request of a remote reset, and the partition reset. -/
theorem resetRequests : Obligations.ResetRequests := by
  intro s who level v p hs
  refine ⟨fun hgo => ⟨kickWatchdog s v, ?_, rfl⟩, fun hgo => ⟨askRemoteReset s who v, ?_, ?_⟩, fun hgo hkey => ⟨fun hgone => ?_,
    fun hfree hscrub hbusy => ?_, fun hfree hscrub hbusy => ?_⟩⟩
  · change Host.Outcome.next (ctlWrite s who 0xE000000C#32 v) = _
    rw [ctlWrite_of_goes hgo rfl, doWrite_pm (n := 0xC) (by decide)]
    rfl
  · change Host.Outcome.next (ctlWrite s who 0xE0000010#32 v) = _
    rw [ctlWrite_of_goes hgo rfl, doWrite_pm (n := 0x10) (by decide)]
    rfl
  · have howner := fromOwner_iff_of_goes hgo
    unfold askRemoteReset
    simp only [Bool.and_eq_true, howner, decide_eq_true_eq]
  · refine ⟨badReq s, (exec_partitionReset hgo p hkey).trans (congrArg _ (if_pos hgone)), .of_postBit hs _ _,
      flag_postBit hs _ (by decide)⟩
  · exact ⟨_, (exec_partitionReset hgo p hkey).trans (congrArg _ ((if_neg (not_or.mpr ⟨hfree, hscrub⟩)).trans (if_pos hbusy))), rfl⟩
  · have hreset := resetFrom_partitionReset s p
    exact ⟨_, (exec_partitionReset hgo p hkey).trans (congrArg _ ((if_neg (not_or.mpr ⟨hfree, hscrub⟩)).trans (if_neg hbusy))), rfl,
      hreset.state, hreset.shape, hreset.connMap, hreset.streams, mem_partitionReset⟩

end Sys2Proof.Machine
end

section
/-! The thermal trip (R442) against O21: the statement speaks of every state, also of one whose partition lies where no SHAPE
places it. A trip resets the partitions, and the engines of core 576 would stand where the power manager's registers are, so
the reset of that partition clears the latch that the trip has just set. -/

namespace Sys2Proof.Machine

/-- The state after power-on, but for a partition that is ADMITTED and whose rectangle begins at core 576: `coreReg 5 576 0` is
0xE0000000, the power manager's first register. -/
def astray : State := State.reset.setPart 0 { Part.free with state := .admitted, origin := 576 }

theorem astray_canonical : astray.Canonical := { State.reset_canonical with }

theorem astray_quiet : Quiet astray :=
  ⟨rfl, fun _ he => absurd he List.not_mem_nil, by decide, by decide⟩

set_option maxRecDepth 4000 in
/-- What the trip leaves of the latch, by evaluation. -/
theorem thermalHold_trip_astray : thermalHold (resumeAccs (thermalTrip astray 1)) = false := by decide

/-- Refutes O21: a coolant trip of the state `astray` leaves the latch clear, where the statement has it set. -/
theorem not_heatAndCoolant : ¬ Obligations.HeatAndCoolant := by
  intro h
  obtain ⟨-, -, -, -, -, htrip, -⟩ := h astray ⟨[], []⟩ ⟨0, 0, 0⟩ 1 0 0 .firmware 0#32 astray_canonical astray_quiet
  obtain ⟨t, hexec, hhold, -⟩ := htrip (by decide) (by decide)
  have ht : resumeAccs (thermalTrip astray 1) = t := Host.Outcome.next.inj hexec
  rw [← ht, thermalHold_trip_astray] at hhold
  exact Bool.false_ne_true hhold

end Sys2Proof.Machine
end

section
/-! The patrol (R327): what the read of a stripe leaves, and that it counts it; O26. -/

namespace Sys2Proof.Machine

variable {s t : State}

/-! ### What disturbances and the patrol's reads leave -/

/-- The registers and counts of the channel groups, and the patrol's places and frames. -/
def groupBook (a : Nat) : Bool := decide (0x90000100 ≤ a) && decide (a < 0x90000400)

/-- What of the state the reads of the patrol leave: the books of the channel groups, the frames and the places. -/
def patrolView (s : State) : (Sparse Word × Sparse Nat) × Sparse Nat × Sparse Nat := (booksIn groupBook s, s.frames, s.patrol)

theorem patrolView_bump {lo a : Nat} (hlo : groupBook lo = false) (ha : groupBook a = false) (s : State) (i n : Nat) :
    patrolView (bump s lo (some (a, i)) n) = patrolView s :=
  Prod.ext (booksIn_bump hlo (fun _ ho => Option.some.inj ho ▸ ha) s n) rfl

theorem patrolView_postBit {a : Nat} (ha : groupBook a = false) (s : State) (i : Nat) :
    patrolView (postBit s a i) = patrolView s := Prod.ext (booksIn_setRaw ha s _) rfl

theorem patrolView_requestProof (s : State) (kind index : Nat) : patrolView (requestProof s kind index) = patrolView s := by
  unfold requestProof
  split
  · rfl
  · split <;> rfl

theorem groupBook_of_channel {a : Nat} (h : 0x90001000 ≤ a) : groupBook a = false := by
  unfold groupBook
  rw [decide_eq_false (show ¬a < 0x90000400 by omega), Bool.and_false]

theorem patrolView_noteCorrected (s : State) (id ofs : Nat) : patrolView (noteCorrected s id ofs) = patrolView s := by
  unfold noteCorrected
  dsimp only
  split
  · exact patrolView_requestProof _ _ _
  · rw [patrolView_requestProof, patrolView_postBit (by decide), patrolView_bump (groupBook_of_channel (by omega))
      (groupBook_of_channel (by omega))]

theorem patrolView_noteUncorrectable (s : State) (id ofs : Nat) : patrolView (noteUncorrectable s id ofs) = patrolView s := by
  unfold noteUncorrectable
  dsimp only
  split
  · rw [patrolView_requestProof, patrolView_postBit (groupBook_of_channel (by omega)), patrolView_bump (groupBook_of_channel (by omega))
      (groupBook_of_channel (by omega))]
  · rw [patrolView_requestProof, patrolView_postBit (by decide), patrolView_bump (groupBook_of_channel (by omega))
      (groupBook_of_channel (by omega))]

theorem patrolView_faultOwner (s : State) (id ofs : Nat) : patrolView (faultOwner s id ofs) = patrolView s := by
  unfold faultOwner
  dsimp only
  split
  · split <;> rfl
  · rfl

theorem burstMask_leaves_patrolView (id ofs : Nat) : Op.Leaves patrolView (burstMask id ofs) := by
  refine .bind .get (fun s => ?_)
  dsimp only
  refine .ite (.pure _) (.bind (.mod fun u => ?_) (fun _ => .ite (.pure _) (.bind (.mod fun u => ?_) (fun _ => .pure _))))
  · exact (patrolView_bump (groupBook_of_channel (by omega)) (groupBook_of_channel (by omega)) _ _ _).trans rfl
  · exact patrolView_requestProof u _ _

theorem patrolView_putBytes (s : State) (key : Nat) (bytes : List Byte) (clear : List Nat) :
    patrolView (putBytes s key bytes clear) = patrolView s := rfl

theorem patrolView_patrolGranule (a : Nat) (s : State) (i : Nat) : patrolView (patrolGranule a s i) = patrolView s := by
  have hburst := burstMask_leaves_patrolView ((a + 32 * i) / frameBytes) ((a + 32 * i) % frameBytes) s
  unfold patrolGranule
  dsimp only
  split
  · rw [patrolView_putBytes]
    exact hburst
  · rw [patrolView_noteCorrected, patrolView_putBytes]
    exact hburst
  · rw [patrolView_faultOwner, patrolView_noteUncorrectable]
    exact hburst

theorem patrolView_passEnd (s : State) (g : Nat) : patrolView (passEnd s g) = patrolView s :=
  foldl_view patrolView (fun u i => by
    dsimp only
    split
    · exact patrolView_requestProof _ _ _
    · rfl) _ s

/-- The state but for disturbances of the memories and links. -/
def offUpsets (s : State) : State := { s with errs := [], storeErrs := [], sramErrs := [], lineErrs := [] }

theorem view_of_offUpsets {α : Type} {f : State → α} (hf : ∀ s, f (offUpsets s) = f s := by exact fun _ => rfl)
    (h : offUpsets t = offUpsets s) : f t = f s := by rw [← hf t, h, hf]

theorem offUpsets_disturb (a : Nat) (s : State) (u : Upset) : offUpsets (disturb a s u) = offUpsets s := by
  unfold disturb
  dsimp only
  split
  · rfl
  · rfl
  · rfl
  · split <;> rfl
  · rfl
  · rfl

/-- The disturbances of a read leave every other part of the state, and its canonical form. -/
theorem offUpsets_upsets (a : Nat) (ups : List Upset) (s : State) : offUpsets (ups.foldl (disturb a) s) = offUpsets s :=
  foldl_view offUpsets (offUpsets_disturb a) ups s

theorem upsets_canonical (hs : s.Canonical) (a : Nat) (ups : List Upset) : (ups.foldl (disturb a) s).Canonical :=
  (Kept.foldl (.refl s) (fun _ u hv => disturb_kept hv a u)).canonical hs

/-! ### The read of a stripe -/

/-- The patrol of a group stands at its n-th stripe. -/
def placed (s : State) (g : Fin 4) (n : Nat) : State := { s with patrol := Sparse.set 0 s.patrol g.val n }

/-- Group g has read the stripe at `a`: its place goes one on, and its stripe is counted. -/
def stripeRead (g : Fin 4) (a : Nat) (s : State) : State :=
  bump (placed ((List.range 8).foldl (patrolGranule a) s) g (Sparse.get 0 s.patrol g.val + 1)) (0x90000120 + 0x40 * g.val)
    (some (0x90000104 + 0x40 * g.val, 3)) 1

/-- A group has read its n-th stripe: its pass may end with it. -/
def passStep (g : Fin 4) (n : Nat) (s : State) : State := if (n + 1) % groupStripes = 0 then passEnd s g.val else s

/-- What follows the read of a stripe: the end of a pass of the group, and the event of a pass of all groups. -/
def stripeEnd (g : Fin 4) (n was : Nat) (s : State) : State :=
  if was < passesDone (passStep g n s) then postBit (passStep g n s) 0x90000004 2 else passStep g n s

theorem patrolStripe_of_on {g : Fin 4} (a : Nat) (hen : flag (rawReg s 0x90000000) 0 = true) (hon : domOn s (domGroup g.val) = true) :
    patrolStripe g a s = stripeEnd g (Sparse.get 0 s.patrol g.val) (passesDone s) (stripeRead g a s) := by
  unfold patrolStripe
  rw [hen, hon]
  rfl

theorem patrolView_stripeEnd (g : Fin 4) (n was : Nat) (s : State) : patrolView (stripeEnd g n was s) = patrolView s := by
  have hpass : patrolView (passStep g n s) = patrolView s := by
    unfold passStep
    split
    · exact patrolView_passEnd s g.val
    · rfl
  unfold stripeEnd
  split
  · exact (patrolView_postBit (by decide) _ _).trans hpass
  · exact hpass

theorem stripeEnd_canonical (hs : s.Canonical) (g : Fin 4) (n was : Nat) : (stripeEnd g n was s).Canonical := by
  have hpass : (passStep g n s).Canonical := by
    unfold passStep
    split
    · exact (passEnd_kept (.refl s) g.val).canonical hs
    · exact hs
  unfold stripeEnd
  split
  · exact postBit_canonical hpass _ _
  · exact hpass

theorem granules_canonical (hs : s.Canonical) (a : Nat) (l : List Nat) : (l.foldl (patrolGranule a) s).Canonical :=
  (Kept.foldl (.refl s) (fun _ i hv => patrolGranule_kept hv a i)).canonical hs

theorem patrolView_granules (a : Nat) (l : List Nat) (s : State) : patrolView (l.foldl (patrolGranule a) s) = patrolView s :=
  foldl_view patrolView (patrolView_patrolGranule a) l s

theorem placed_canonical (hs : s.Canonical) (g : Fin 4) (n : Nat) : (placed s g n).Canonical :=
  { hs with patrol := Sparse.set_wf g.val n hs.patrol }

theorem stripeRead_canonical (hs : s.Canonical) (g : Fin 4) (a : Nat) : (stripeRead g a s).Canonical :=
  (bump_kept (.refl _) _ _ _).canonical (placed_canonical (granules_canonical hs a (List.range 8)) g _)

theorem patrol_stripeRead (hs : s.Canonical) (g : Fin 4) (a : Nat) :
    Sparse.get 0 (stripeRead g a s).patrol g.val = Sparse.get 0 s.patrol g.val + 1 :=
  Sparse.get_set_same _ _ (granules_canonical hs a _).patrol

theorem frames_stripeRead (g : Fin 4) (a : Nat) (s : State) : (stripeRead g a s).frames = s.frames :=
  congrArg (fun v => v.2.1) (patrolView_granules a (List.range 8) s)

theorem groupBook_stripes (g : Fin 4) : groupBook (0x90000120 + 0x40 * g.val) = true := by
  have := g.isLt
  unfold groupBook
  rw [decide_eq_true (show 0x90000100 ≤ 0x90000120 + 0x40 * g.val by omega),
    decide_eq_true (show 0x90000120 + 0x40 * g.val < 0x90000400 by omega), Bool.and_true]

theorem count_stripeRead (hs : s.Canonical) (g : Fin 4) (a : Nat) : count (stripeRead g a s) (0x90000120 + 0x40 * g.val) =
    (count s (0x90000120 + 0x40 * g.val) + 1) % 2 ^ 48 := by
  have hgr := granules_canonical hs a (List.range 8)
  have hcount := count_of_booksIn hs hgr (congrArg Prod.fst (patrolView_granules a (List.range 8) s)) (groupBook_stripes g)
  unfold stripeRead
  rw [count_bump (placed_canonical hgr g _), if_pos rfl]
  change (count ((List.range 8).foldl (patrolGranule a) s) _ + 1) % _ = _
  rw [hcount]
  rfl

/-! ### A stripe without a disturbance -/

theorem setRun_getRun {α : Type} [DecidableEq α] {d : α} {m : Sparse α} (hm : Sparse.wf d m = true) (k n : Nat) :
    Sparse.setRun d m k (Sparse.getRun d m k n) = m := by
  induction n generalizing k with
  | zero => rfl
  | succ n ih =>
    have hset : Sparse.set d m k (Sparse.get d m k) = m := by
      refine Sparse.ext (Sparse.set_wf _ _ hm) hm (fun j => ?_)
      rw [Sparse.get_set k _ hm]
      split
      · next h => rw [h]
      · rfl
    rw [Sparse.getRun, Sparse.setRun, hset, ih]

theorem set_of_get {α : Type} [DecidableEq α] {d : α} {m : Sparse α} (hm : Sparse.wf d m = true) {k : Nat} {v : α}
    (h : Sparse.get d m k = v) : Sparse.set d m k v = m := by
  refine Sparse.ext (Sparse.set_wf _ _ hm) hm (fun j => ?_)
  rw [Sparse.get_set k v hm]
  split
  · next hj => rw [hj, h]
  · rfl

theorem burstMask_of_quiet {id ofs : Nat} (h : ∀ c, c < 36 → Sparse.get 0 s.lineErrs (burstKey c) = 0) :
    Op.exec (burstMask id ofs) s = (.ok 0, s) := by
  have hnone : (if isLower id then 0 else Sparse.get 0 s.lineErrs (burstKey (channelOf (id * frameBytes + ofs)))) = 0 := by
    split
    · rfl
    · exact h _ (Nat.lt_succ_of_lt (channelOf_lt _))
  change (if _ = 0 then (pure 0 : Op Nat) else _ : Op Nat) s = _
  rw [if_pos hnone]
  rfl

theorem patrolGranule_of_quiet (hs : s.Canonical) {a i : Nat} (herr : Sparse.get 0 s.errs (a / 32 + i) = 0)
    (hline : ∀ c, c < 36 → Sparse.get 0 s.lineErrs (burstKey c) = 0) : patrolGranule a s i = s := by
  have hkey : (a + 32 * i) / 32 = a / 32 + i := by omega
  have hput : putBytes s (a + 32 * i) (Sparse.getRun 0#8 s.mem (a + 32 * i) 32) [(a + 32 * i) / 32] = s := by
    unfold putBytes
    rw [setRun_getRun hs.mem, List.foldl_cons, List.foldl_nil, set_of_get hs.errs (hkey ▸ herr)]
  unfold patrolGranule
  dsimp only
  rw [burstMask_of_quiet hline, hkey, herr]
  rw [hkey] at hput
  have hclean : ∀ pol data, decodeGranule pol data (Nat.xor 0 ((Except.ok 0 : Except Trap Nat).toOption.getD 0)) =
      .clean data := fun _ _ => rfl
  rw [hclean]
  exact hput

/-- A stripe whose granules hold no disturbance is read as it stands. -/
theorem granules_of_quiet (hs : s.Canonical) {a : Nat} {l : List Nat} (herr : ∀ i ∈ l, Sparse.get 0 s.errs (a / 32 + i) = 0)
    (hline : ∀ c, c < 36 → Sparse.get 0 s.lineErrs (burstKey c) = 0) : l.foldl (patrolGranule a) s = s := by
  induction l with
  | nil => rfl
  | cons i l ih =>
    rw [List.foldl_cons, patrolGranule_of_quiet hs (herr i List.mem_cons_self) hline]
    exact ih (fun j hj => herr j (List.mem_cons_of_mem _ hj))

/-- The shelves' bytes, their disturbances and the partitions. -/
def shelves (s : State) : Sparse Byte × Sparse Nat × Vector Part 16 := (s.mem, s.errs, s.parts)

theorem shelves_requestProof (s : State) (kind index : Nat) : shelves (requestProof s kind index) = shelves s := by
  unfold requestProof
  split
  · rfl
  · split <;> rfl

theorem shelves_passEnd (s : State) (g : Nat) : shelves (passEnd s g) = shelves s :=
  foldl_view shelves (fun u i => by
    dsimp only
    split
    · exact shelves_requestProof _ _ _
    · rfl) _ s

theorem shelves_stripeEnd (g : Fin 4) (n was : Nat) (s : State) : shelves (stripeEnd g n was s) = shelves s := by
  have hpass : shelves (passStep g n s) = shelves s := by
    unfold passStep
    split
    · exact shelves_passEnd s g.val
    · rfl
  unfold stripeEnd
  split
  · exact hpass
  · exact hpass

theorem proofs_stripeEnd_of_within {g : Fin 4} {n was : Nat} (h : (n + 1) % groupStripes ≠ 0) (s : State) :
    (stripeEnd g n was s).proofs = s.proofs := by
  unfold stripeEnd passStep
  rw [if_neg h]
  split <;> rfl

theorem shelves_stripeRead (g : Fin 4) (a : Nat) (s : State) :
    shelves (stripeRead g a s) = shelves ((List.range 8).foldl (patrolGranule a) s) := rfl

theorem proofs_stripeRead (g : Fin 4) (a : Nat) (s : State) :
    (stripeRead g a s).proofs = ((List.range 8).foldl (patrolGranule a) s).proofs := rfl

/-- Settles O26: the disturbances fall and leave what the group's read needs; the read counts its stripe, and a quiet stripe
is written back as it stood. -/
theorem patrol : Obligations.Patrol := by
  intro s g ups n hs hen hon hn
  have hup := offUpsets_upsets (stripeAddr g.val (n % groupStripes)) ups s
  generalize hu : ups.foldl (disturb (stripeAddr g.val (n % groupStripes))) s = u at hup
  have hucan : u.Canonical := hu ▸ upsets_canonical hs _ ups
  have hun : Sparse.get 0 u.patrol g.val = n :=
    (view_of_offUpsets (f := fun s => Sparse.get 0 s.patrol g.val) (h := hup)).trans hn.symm
  have hexec : exec (.patrolRead g ups) s = .next (stripeEnd g n (passesDone u) (stripeRead g (stripeAddr g.val (n % groupStripes)) u)) := by
    change execPatrolRead g ups s = _
    unfold execPatrolRead
    dsimp only
    rw [← hn, hu, patrolStripe_of_on _ ((view_of_offUpsets (f := fun s => flag (rawReg s 0x90000000) 0) (h := hup)).trans hen)
      ((view_of_offUpsets (f := fun s => domOn s (domGroup g.val)) (h := hup)).trans hon), hun]
  have hread := stripeRead_canonical hucan g (stripeAddr g.val (n % groupStripes))
  have hend := patrolView_stripeEnd g n (passesDone u) (stripeRead g (stripeAddr g.val (n % groupStripes)) u)
  refine ⟨⟨_, hexec, ?_, ?_, ?_⟩, fun hups herr hline => ⟨_, hexec, ?_⟩⟩
  · exact (congrArg (fun v => Sparse.get 0 v.2.2 g.val) hend).trans ((patrol_stripeRead hucan g _).trans (by rw [hun]))
  · rw [count_of_booksIn hread (stripeEnd_canonical hread g n _) (congrArg Prod.fst hend) (groupBook_stripes g), count_stripeRead hucan,
      view_of_offUpsets (f := fun s => count s (0x90000120 + 0x40 * g.val)) (h := hup)]
  · exact (congrArg (fun v => v.2.1) hend).trans ((frames_stripeRead g _ u).trans (view_of_offUpsets (f := State.frames) (h := hup)))
  · subst hups
    obtain rfl : s = u := hu
    have hquiet := granules_of_quiet hs (l := List.range 8) (fun i hi => herr i (List.mem_range.1 hi)) hline
    have hshelves := shelves_stripeEnd g n (passesDone s) (stripeRead g (stripeAddr g.val (n % groupStripes)) s)
    have hstripe : shelves (stripeRead g (stripeAddr g.val (n % groupStripes)) s) = shelves s :=
      (shelves_stripeRead g _ s).trans (congrArg shelves hquiet)
    have hproofs : (stripeRead g (stripeAddr g.val (n % groupStripes)) s).proofs = s.proofs :=
      (proofs_stripeRead g _ s).trans (congrArg State.proofs hquiet)
    rw [hstripe] at hshelves
    exact ⟨congrArg (fun v => v.1) hshelves, congrArg (fun v => v.2.1) hshelves, congrArg (fun v => v.2.2) hshelves,
      fun hn => (proofs_stripeEnd_of_within hn _).trans hproofs⟩

end Sys2Proof.Machine
end

section
/-! Proof runs and their verdicts (R455, R457); O24. -/

namespace Sys2Proof.Machine

variable {s t : State}

/-! ### Starting -/

/-- The requests with the run of one resource started. -/
def startedRun (kind index : Nat) (l : List ProofReq) : List ProofReq :=
  l.map (fun r => if r.kind = kind ∧ r.index = index then { r with running := true } else r)

theorem exec_proofRunStart {kind index : Nat} (h : mayProve s kind index = true) :
    exec (.proofRunStart kind index) s = .next { s with proofs := startedRun kind index s.proofs } :=
  congrArg (f := Host.Outcome.next) (if_pos h)

theorem mem_startedRun {r : ProofReq} {l : List ProofReq} (h : r ∈ l) :
    { r with running := true } ∈ startedRun r.kind r.index l :=
  List.mem_map.2 ⟨r, h, if_pos ⟨rfl, rfl⟩⟩

/-! ### The verdict -/

/-- The request is for the resource. -/
def ofResource (kind index : Nat) (r : ProofReq) : Bool := decide (r.kind = kind) && decide (r.index = index)

/-- Ticks of a resource's earlier verdicts within the day (R457). -/
def recentTicks (s : State) (kind index : Nat) : List Nat :=
  (Sparse.get [] s.transients (kind * 2 ^ 56 + index)).filter (fun t => decide (s.tick < t + dayTicks))

/-- The record of a verdict (Table 18-11). -/
def verdictWord (kind index verdict : Nat) : Word :=
  at32 28 (proofCode kind index).1 ||| at32 26 verdict ||| at32 0 ((proofCode kind index).2 % 2 ^ 24)

/-- The resource's request has left the queue, and its transient verdicts are those given. -/
def unqueued (s : State) (kind index : Nat) (ticks : List Nat) : State :=
  { s with proofs := s.proofs.filter (fun r => !ofResource kind index r),
           transients := Sparse.set [] s.transients (kind * 2 ^ 56 + index) ticks }

/-- A verdict is counted and recorded. -/
def recorded (s : State) (kind index verdict lo : Nat) : State :=
  setRaw (bump s lo none 1) 0xF0000014 (verdictWord kind index verdict)

theorem unqueued_canonical (hs : s.Canonical) (kind index : Nat) (ticks : List Nat) : (unqueued s kind index ticks).Canonical :=
  { hs with transients := Sparse.set_wf _ _ hs.transients }

theorem exec_proofRunDone_transient {r : ProofReq} (hr : r ∈ s.proofs) (hrun : r.running = true)
    (hfirst : recentTicks s r.kind r.index = []) (failing : List Nat) :
    exec (.proofRunDone r.kind r.index false failing) s =
      .next (recorded (unqueued s r.kind r.index [s.tick]) r.kind r.index 1 0xF0000020) := by
  have hany : s.proofs.any (fun q => ofResource r.kind r.index q && q.running) = true :=
    List.any_eq_true.2 ⟨r, hr, by simp [ofResource, hrun]⟩
  change execProofRunDone r.kind r.index false failing s = _
  unfold execProofRunDone
  refine (if_pos hany).trans ?_
  dsimp only
  unfold recentTicks at hfirst
  rw [hfirst]
  rfl

theorem exec_proofRunDone_lasting {r : ProofReq} (hr : r ∈ s.proofs) (hrun : r.running = true) (failing : List Nat) :
    exec (.proofRunDone r.kind r.index true failing) s =
      .next (retireRes (recorded (unqueued s r.kind r.index (recentTicks s r.kind r.index)) r.kind r.index 2 0xF0000028)
        r.kind r.index failing) := by
  have hany : s.proofs.any (fun q => ofResource r.kind r.index q && q.running) = true :=
    List.any_eq_true.2 ⟨r, hr, by simp [ofResource, hrun]⟩
  exact if_pos hany

theorem count_recorded (hs : s.Canonical) (kind index verdict lo : Nat) :
    count (recorded s kind index verdict lo) lo = (count s lo + 1) % 2 ^ 48 := by
  unfold recorded
  rw [count_setRaw, count_bump hs, if_pos rfl]
  rfl

/-- Neither the code above the verdict nor the place below it reaches the verdict's bits. -/
theorem field_verdictWord (kind index verdict : Nat) : field (verdictWord kind index verdict) 27 26 = verdict % 4 := by
  have hcongr : field (verdictWord kind index verdict) 27 26 = field (at32 26 verdict) 27 26 := by
    refine field_congr fun i hlo hhi => ?_
    have hplace : ((proofCode kind index).2 % 2 ^ 24).testBit (i - 0) = false := by
      rw [Nat.testBit_mod_two_pow, decide_eq_false (by omega), Bool.false_and]
    rw [verdictWord, flag_or, flag_or, flag_at32 28, flag_at32 0, hplace, decide_eq_false (show ¬28 ≤ i by omega)]
    simp
  exact hcongr.trans (field_at32 (by decide) (by decide) verdict)

theorem verdict_recorded (hs : s.Canonical) (kind index verdict lo : Nat) :
    field (rawReg (recorded s kind index verdict lo) 0xF0000014) 27 26 = verdict % 4 := by
  unfold recorded
  rw [rawReg_setRaw_same ((bump_kept (.refl s) _ _ _).canonical hs), field_verdictWord]

theorem onlyRegs_recorded (hs : s.Canonical) (kind index verdict lo : Nat) :
    OnlyRegs { s with counts := (bump s lo none 1).counts } (recorded s kind index verdict lo) [0xF0000014] :=
  OnlyRegs.of_setRaw ((bump_kept (.refl s) _ _ _).canonical hs) _ _

/-- Settles O24: each row in the form the request finds it, the verdict in its own bits of the record. -/
theorem proofRuns : Obligations.ProofRuns := by
  intro s r failing hs _
  refine ⟨fun hr hmay => ⟨_, exec_proofRunStart hmay, mem_startedRun hr, List.length_map _, rfl⟩,
    fun hr hrun hnone => ?_, fun hr hrun => ?_⟩
  · have hfirst : recentTicks s r.kind r.index = [] := by rw [recentTicks, hnone, List.filter_nil]
    have hu := unqueued_canonical hs r.kind r.index [s.tick]
    exact ⟨_, exec_proofRunDone_transient hr hrun hfirst failing, rfl, Sparse.get_set_same _ _ hs.transients,
      count_recorded hu _ _ _ _, verdict_recorded hu _ _ _ _, rfl, rfl, rfl, rfl⟩
  · have hu := unqueued_canonical hs r.kind r.index (recentTicks s r.kind r.index)
    exact ⟨_, exec_proofRunDone_lasting hr hrun failing, _, rfl, onlyRegs_recorded hu _ _ _ _, count_recorded hu _ _ _ _,
      verdict_recorded hu _ _ _ _, rfl⟩

end Sys2Proof.Machine
end

section
/-! The moves that retirement makes (R459, R460, Table 18-4); O25. -/

namespace Sys2Proof.Machine

variable {s t : State}

/-! ### A run of entries copied to another place -/

/-- A table's entries set again where they stand after a move from `lo` to `dst`. -/
def copyEntries (lo dst : Nat) (l m : Sparse Byte) : Sparse Byte := l.foldl (fun m e => Sparse.set 0#8 m (dst + (e.1 - lo)) e.2) m

/-- From the lowest key still to copy up to the end of the run, the copy reads what the entries hold, where the target reads 0. -/
theorem get_copyEntries {lo lo' dst n : Nat} {l m : Sparse Byte} (hl : Sparse.wfBy (fun _ => 0#8) lo' l = true) (hlo : lo ≤ lo')
    (hn : ∀ e ∈ l, e.1 < lo + n) (hm : Sparse.wf 0#8 m = true)
    (hzero : ∀ j, dst + (lo' - lo) ≤ j → j < dst + n → Sparse.get 0#8 m j = 0#8) (j : Nat) :
    Sparse.get 0#8 (copyEntries lo dst l m) j =
      if dst + (lo' - lo) ≤ j ∧ j < dst + n then Sparse.get 0#8 l (lo + (j - dst)) else Sparse.get 0#8 m j := by
  induction l generalizing lo' m with
  | nil =>
    split
    · next h => exact hzero j h.1 h.2
    · rfl
  | cons e rest ih =>
    obtain ⟨k, v⟩ := e
    have hk : k < lo + n := hn _ List.mem_cons_self
    simp only [Sparse.wfBy, Bool.and_eq_true, decide_eq_true_eq] at hl
    obtain ⟨⟨hlok, -⟩, hrest⟩ := hl
    have hset (i : Nat) := Sparse.get_set (dst + (k - lo)) v hm i
    have hcopy := ih hrest (by omega) (fun e he => hn e (List.mem_cons_of_mem _ he)) (Sparse.set_wf (dst + (k - lo)) v hm)
      (fun i hi hin => by rw [hset, if_neg (by omega), hzero i (by omega) hin])
    change Sparse.get 0#8 (copyEntries lo dst rest (Sparse.set 0#8 m (dst + (k - lo)) v)) j = _
    rw [hcopy, hset, Sparse.get]
    by_cases hj : j = dst + (k - lo)
    · rw [if_neg (by omega), if_pos hj, if_pos (by omega), if_pos (by omega)]
    · by_cases hafter : dst + (k + 1 - lo) ≤ j ∧ j < dst + n
      · rw [if_pos hafter, if_pos (by omega), if_neg (by omega), if_neg (by omega)]
      · rw [if_neg hafter, if_neg hj]
        split
        · next h => rw [hzero j h.1 h.2, if_neg (by omega), if_pos (by omega)]
        · rfl

/-! ### A frame moves -/

/-- The entries of a frame. -/
def frameEntries (m : Sparse Byte) (id : Nat) : Sparse Byte :=
  m.filter (fun e => decide (id * frameBytes ≤ e.1) && decide (e.1 < id * frameBytes + frameBytes))

theorem mem_copyFrame_of_undisturbed {id new : Nat} (h : disturbedIn s id = []) :
    (copyFrame s id new).mem =
      copyEntries (id * frameBytes) (new * frameBytes) (frameEntries s.mem id) (Sparse.clearRange s.mem (new * frameBytes) frameBytes) := by
  unfold copyFrame
  rw [h]
  rfl

theorem get_frameEntries (hs : s.Canonical) {id i : Nat} (hi : i < frameBytes) :
    Sparse.get 0#8 (frameEntries s.mem id) (id * frameBytes + i) = Sparse.get 0#8 s.mem (id * frameBytes + i) := by
  have h := Sparse.get_filter_by (d := 0#8) (f := fun _ => 0#8)
    (fun k => decide (id * frameBytes ≤ k) && decide (k < id * frameBytes + frameBytes)) hs.mem (id * frameBytes + i)
  rwa [decide_eq_true (Nat.le_add_right _ _), decide_eq_true (Nat.add_lt_add_left hi _), Bool.and_true, if_pos rfl] at h

/-- The entries of a frame start with the frame. -/
theorem frameEntries_wfBy {m : Sparse Byte} {lo : Nat} (hm : Sparse.wfBy (fun _ => 0#8) lo m = true) (id : Nat) :
    Sparse.wfBy (fun _ => 0#8) (id * frameBytes) (frameEntries m id) = true := by
  induction m generalizing lo with
  | nil => rfl
  | cons e rest ih =>
    obtain ⟨k, v⟩ := e
    simp only [Sparse.wfBy, Bool.and_eq_true, decide_eq_true_eq] at hm
    obtain ⟨⟨-, hv⟩, hrest⟩ := hm
    rw [frameEntries, List.filter_cons]
    split
    · next h =>
      simp only [Bool.and_eq_true, decide_eq_true_eq] at h
      simp only [Sparse.wfBy, Bool.and_eq_true, decide_eq_true_eq]
      exact ⟨⟨h.1, hv⟩, Sparse.filter_wfBy _ hrest⟩
    · exact ih hrest

/-- The copy of an undisturbed frame reads in the new frame as in the old, and elsewhere as before. -/
theorem get_mem_copyFrame (hs : s.Canonical) {id : Nat} (h : disturbedIn s id = []) (new a : Nat) :
    Sparse.get 0#8 (copyFrame s id new).mem a =
      if new * frameBytes ≤ a ∧ a < new * frameBytes + frameBytes then Sparse.get 0#8 s.mem (id * frameBytes + (a - new * frameBytes))
      else Sparse.get 0#8 s.mem a := by
  have hclear := Sparse.get_clearRange (new * frameBytes) frameBytes hs.mem
  have hentry : ∀ e ∈ frameEntries s.mem id, e.1 < id * frameBytes + frameBytes := fun e he => by
    have hin := (List.mem_filter.1 he).2
    rw [Bool.and_eq_true, decide_eq_true_eq, decide_eq_true_eq] at hin
    exact hin.2
  rw [mem_copyFrame_of_undisturbed h, get_copyEntries (frameEntries_wfBy hs.mem id) (Nat.le_refl _) hentry
    (Sparse.clearRange_wf _ _ hs.mem) (fun j hj hjn => by rw [hclear, if_neg (by omega)]), Nat.sub_self, Nat.add_zero]
  split
  · next hin => exact get_frameEntries hs (by omega)
  · next hout => rw [hclear, if_pos (by omega)]

/-- What the end of a frame's move leaves: its copy, the frames of its partition, and the old frame retired. -/
def frameMoved (s : State) (p : Fin 16) (id new : Nat) : State :=
  (copyFrame s id new).modPart p (fun x => { x with mem := replaceFrame id new x.mem })

theorem fuses_frameOut {id : Nat} (h : s.boot.fuses.frames.length < 1024) :
    (frameOut s id).boot.fuses.frames = s.boot.fuses.frames ++ [id] := by
  unfold frameOut burnFrame burnIn
  rw [if_pos h]
  rfl

theorem frameOut_frame (s : State) (id : Nat) : (frameOut s id).frames = Sparse.set 0 s.frames id 99 ∧
    (frameOut s id).retire = s.retire ∧ (frameOut s id).parts = s.parts ∧ (frameOut s id).mem = s.mem := by
  unfold frameOut burnFrame burnIn
  split <;> exact ⟨rfl, rfl, rfl, rfl⟩

/-- The state with an entry of the moves gone. -/
def unmoved (s : State) (i : Nat) : State := { s with retire := s.retire.eraseIdx i }

theorem unmoved_canonical (hs : s.Canonical) (i : Nat) : (unmoved s i).Canonical := { hs with }

theorem exec_retireMoveDone_frame {i : Nat} {r : ProofReq} {p : Fin 16} (hr : s.retire[i]? = some r) (hkind : r.kind = 1 ∨ r.kind = 3)
    (hexch : frameExchanging s r.index = false) (hp : holdsFrame s r.index = some p) :
    exec (.retireMoveDone i) s = .next (frameOut (frameMoved (unmoved s i) p r.index r.count) r.index) := by
  have hzero : r.kind ≠ 0 := by omega
  have hrest : holdsFrame (unmoved s i) r.index = some p := hp
  change execRetireMoveDone i s = _
  unfold execRetireMoveDone
  rw [hr]
  dsimp only
  rw [if_neg hzero, if_pos ⟨hkind, hexch⟩]
  change Host.Outcome.next (moveFrameDone (unmoved s i) r.index r.count) = _
  unfold moveFrameDone
  rw [hrest]
  rfl

theorem exec_retireMoveDone_row {i : Nat} {r : ProofReq} (hr : s.retire[i]? = some r) (hkind : r.kind = 0) :
    exec (.retireMoveDone i) s = .next (moveRowDone (unmoved s i) (r.index / 256) (r.index % 256)) := by
  change execRetireMoveDone i s = _
  unfold execRetireMoveDone
  rw [hr]
  exact if_pos hkind

/-! ### A row is replaced -/

/-- The masks at n keys from `lo` on as a copy leaves them. -/
def copyMasks (lo n : Nat) (m : Sparse Nat) : Sparse Nat :=
  (List.range n).foldl (fun m i => Sparse.set 0 m (lo + i) (copiedMask (Sparse.get 0 m (lo + i)))) m

theorem copyMasks_succ (lo n : Nat) (m : Sparse Nat) : copyMasks lo (n + 1) m =
    Sparse.set 0 (copyMasks lo n m) (lo + n) (copiedMask (Sparse.get 0 (copyMasks lo n m) (lo + n))) := by
  unfold copyMasks
  rw [List.range_succ, List.foldl_append]
  rfl

theorem copyMasks_wf {m : Sparse Nat} (hm : Sparse.wf 0 m = true) (lo n : Nat) : Sparse.wf 0 (copyMasks lo n m) = true :=
  Sparse.foldl_wf _ (fun _ _ hm => Sparse.set_wf _ _ hm) _ hm

theorem get_copyMasks {m : Sparse Nat} (hm : Sparse.wf 0 m = true) (lo n j : Nat) :
    Sparse.get 0 (copyMasks lo n m) j = if lo ≤ j ∧ j < lo + n then copiedMask (Sparse.get 0 m j) else Sparse.get 0 m j := by
  induction n with
  | zero => rw [if_neg (by omega)]; rfl
  | succ n ih =>
    rw [copyMasks_succ, Sparse.get_set _ _ (copyMasks_wf hm lo n)]
    by_cases hj : j = lo + n
    · subst hj
      rw [if_pos rfl, ih, if_neg (by omega), if_pos (by omega)]
    · rw [if_neg hj, ih]
      by_cases hin : lo ≤ j ∧ j < lo + n
      · rw [if_pos hin, if_pos (by omega)]
      · rw [if_neg hin, if_neg (by omega)]

theorem moveRowDone_frame (s : State) (bank row : Nat) :
    moveRowDone s bank row = { s with storeErrs := (moveRowDone s bank row).storeErrs, sramErrs := (moveRowDone s bank row).sramErrs } := by
  unfold moveRowDone
  dsimp only
  split <;> rfl

theorem retire_moveRowDone (s : State) (bank row : Nat) : (moveRowDone s bank row).retire = s.retire := by
  rw [moveRowDone_frame]

theorem storeErrs_moveRowDone {bank : Nat} (h : (bankPlace bank).1 = 0) (s : State) (row : Nat) :
    (moveRowDone s bank row).storeErrs =
      copyMasks ((bankPlace bank).2.1 * storeBytes / 32 + ((bankPlace bank).2.2 + 8 * row)) 8 s.storeErrs := by
  unfold moveRowDone
  dsimp only
  rw [if_pos h]
  rfl

/-- Settles O25: the copy of a frame, of a row's granules, and the entries that leave the queue of moves. -/
theorem retirementMoves : Obligations.RetirementMoves := by
  intro s i r p ofs a link hs hr
  refine ⟨fun hkind hexch hp _ hclean => ⟨_, exec_retireMoveDone_frame hr hkind hexch hp, ?_⟩,
    fun hkind => ⟨_, exec_retireMoveDone_row hr hkind, ?_, ?_, fun hplace n hn key hkey => ?_⟩, _, rfl, fun q hq hq5 => ?_, rfl, rfl⟩
  · obtain ⟨hframes, hretire, hparts, hmem⟩ := frameOut_frame (frameMoved (unmoved s i) p r.index r.count) r.index
    have hcopy := get_mem_copyFrame (s := unmoved s i) (unmoved_canonical hs i) (id := r.index) hclean r.count
    refine ⟨?_, hretire, ?_, fun hfuse => fuses_frameOut hfuse, fun hofs => ?_, fun ha => ?_⟩
    · rw [hframes]
      exact Sparse.get_set_same _ _ hs.frames
    · rw [State.part, hparts]
      exact congrArg (fun x => x.mem.pages) (State.part_modPart_same _ _ _)
    · rw [hmem]
      refine (hcopy _).trans ((if_pos ⟨Nat.le_add_right _ _, Nat.add_lt_add_left hofs _⟩).trans ?_)
      rw [Nat.add_sub_cancel_left]
      rfl
    · rw [hmem]
      refine (hcopy a).trans (if_neg ?_)
      rw [Nat.add_mul, Nat.one_mul] at ha
      omega
  · exact retire_moveRowDone _ _ _
  · rw [retire_moveRowDone]
    exact moveRowDone_frame _ _ _
  · rw [storeErrs_moveRowDone hplace, get_copyMasks (m := (unmoved s i).storeErrs) hs.storeErrs, if_pos (by omega)]
    rfl
  · have hleft := (List.mem_filter.1 hq).2
    rw [decide_eq_true_eq] at hleft
    exact hleft.resolve_left (not_not_intro hq5)

end Sys2Proof.Machine
end

section
/-! The mode of the management port (R352, R354) while frames are placed: it stands in SYS_CFG and the ports, which neither the
work on memory and stores, nor frames sent, nor the stop of a command reaches. -/

namespace Sys2Proof.Machine

variable {s t : State}

/-! ### The first registers -/

/-- The registers below SYS_STATUS, and the counts there. -/
def firstRegs (a : Nat) : Bool := decide (a < 8)

theorem firstRegs_of_le {a : Nat} (h : 8 ≤ a) : firstRegs a = false := decide_eq_false (by omega)

def firstBooks (s : State) : Sparse Word × Sparse Nat := booksIn firstRegs s

theorem hidesTraces_firstRegs : HidesTraces firstRegs where
  controllers _ h _ := firstRegs_of_le (by omega)
  wakes := firstRegs_of_le (by decide)
  traces _ h _ := firstRegs_of_le (by omega)

theorem hidesFrames_firstRegs : HidesFrames firstRegs where
  ports _ h _ := firstRegs_of_le (by omega)
  updates _ h _ := firstRegs_of_le (by omega)
  events := firstRegs_of_le (by decide)

theorem firstBooks_of_offWrites (h : offWrites firstRegs t = offWrites firstRegs s) : firstBooks t = firstBooks s :=
  Prod.ext (congrArg State.regs h) (congrArg State.counts h)

theorem firstBooks_of_offSignals (h : offSignals t = offSignals s) : firstBooks t = firstBooks s :=
  view_of_offSignals (f := firstBooks) (h := h)

theorem firstBooks_setRaw {a : Nat} (ha : 8 ≤ a) (s : State) (w : Word) : firstBooks (setRaw s a w) = firstBooks s :=
  booksIn_setRaw (firstRegs_of_le ha) s w

theorem firstBooks_counts {lo : Nat} (hlo : 8 ≤ lo) (s : State) (v : Nat) :
    firstBooks { s with counts := Sparse.set 0 s.counts lo v } = firstBooks s :=
  Prod.ext rfl (Sparse.filter_set (firstRegs_of_le hlo) s.counts v)

theorem firstBooks_bump {lo a : Nat} (hlo : 8 ≤ lo) (ha : 8 ≤ a) (s : State) (i n : Nat) :
    firstBooks (bump s lo (some (a, i)) n) = firstBooks s :=
  booksIn_bump (firstRegs_of_le hlo) (fun o ho => by
    cases ho
    exact firstRegs_of_le ha) s n

/-- The mode of the management port is that of the first registers and the ports. -/
theorem mgmtOnly_congr (hs : s.Canonical) (ht : t.Canonical) (hlow : firstBooks t = firstBooks s) (hports : t.ports = s.ports)
    (code : Nat) : mgmtOnly t code = mgmtOnly s code := by
  have hbreak : breakout t 0 = breakout s 0 := by
    unfold breakout portGet
    rw [hports, if_pos rfl, if_pos rfl, rawReg_of_booksIn hs ht hlow (by decide)]
  rw [mgmtOnly, mgmtOnly, hbreak]

/-! ### Counters and the core stores -/

theorem firstBooks_wrapCounter (s : State) (q : Option (Fin 16)) (r : Option StreamTag) (nn j : Nat) :
    firstBooks (wrapCounter s q r nn j) = firstBooks s := by
  have hpost : firstBooks (postBit s (cntBase nn j + 4) 15) = firstBooks s :=
    firstBooks_setRaw (by unfold cntBase; omega) s _
  have htrace (u : State) (p : Fin 16) (v : TraceRec) : firstBooks (putTrace u p v) = firstBooks u :=
    firstBooks_of_offWrites (offWrites_putTrace hidesTraces_firstRegs u p v)
  unfold wrapCounter
  dsimp only
  split
  · split
    · split
      · rw [firstBooks_of_offSignals (offSignals_applySignal _ _ _ _), htrace, hpost]
      · rw [htrace, hpost]
    · exact hpost
  · exact hpost

theorem firstBooks_addCounter (q : Option (Fin 16)) (r : Option StreamTag) (nn j fuel n : Nat) (s : State) :
    firstBooks (addCounter q r nn j fuel n s) = firstBooks s := by
  have hcount (s : State) (v : Nat) : firstBooks { s with counts := Sparse.set 0 s.counts (cntBase nn j + 8) v } = firstBooks s :=
    firstBooks_counts (by omega) s v
  induction fuel generalizing n s with
  | zero => exact hcount _ _
  | succ fuel ih =>
    rw [addCounter]
    split
    · exact hcount _ _
    · rw [ih, firstBooks_wrapCounter]

theorem firstBooks_requestProof (s : State) (kind index : Nat) : firstBooks (requestProof s kind index) = firstBooks s := by
  unfold requestProof
  split
  · rfl
  · split <;> rfl

theorem firstBooks_noteSram (s : State) (array owner granule : Nat) (bad : Bool) : firstBooks (noteSram s array owner granule bad) = firstBooks s := by
  have hbump (n : Nat) : firstBooks (bump s (0xF0004000 + n) none 1) = firstBooks s :=
    booksIn_bump (firstRegs_of_le (by omega)) (fun _ ho => by cases ho) s 1
  have hcore (u : State) : firstBooks (countCore u owner 0x60 1) = firstBooks u :=
    foldl_view firstBooks (fun v j => by
      split
      · exact firstBooks_addCounter _ _ _ _ _ _ v
      · rfl) _ u
  unfold noteSram
  dsimp only
  rw [firstBooks_requestProof, apply_ite firstBooks, hcore, ite_self, Nat.add_assoc, apply_ite firstBooks, hbump, ite_self]

theorem readStoreGranule_leaves_firstBooks (nn ofs : Nat) : Op.Leaves firstBooks (readStoreGranule nn ofs) := by
  refine .bind .get (fun s => ?_)
  unfold readSram
  dsimp only
  split
  · exact .pure _
  · exact .bind (.mod fun s => firstBooks_noteSram s _ _ _ _) (fun _ => .pure _)
  · exact .bind (.mod fun s => firstBooks_noteSram s _ _ _ _) (fun _ => .stop _)

theorem writeStore_leaves_firstBooks (nn a : Nat) (bytes : List Byte) : Op.Leaves firstBooks (writeStore nn a bytes) :=
  .each fun _ => .bind (.ite (.pure _) (readStoreGranule_leaves_firstBooks _ _)) (fun _ => .mod fun _ => rfl)

/-! ### Writes -/

theorem writeStripe_leaves_firstBooks (side : Side) (p : Fin 16) (a : Nat) (bytes : List Byte) :
    Op.Leaves firstBooks (writeStripe side p a bytes) := fun s =>
  firstBooks_of_offWrites (writeStripe_leaves_offWrites hidesTraces_firstRegs.toHidesShelves side p a bytes s)

theorem awaitPages_leaves_firstBooks (p : Fin 16) (a n : Nat) : Op.Leaves firstBooks (awaitPages p a n) :=
  .bind .get (fun _ => .ite (.stop _) (.ite (.stop _) (.pure _)))

theorem awaitFrame_leaves_firstBooks (p : Fin 16) (a : Nat) : Op.Leaves firstBooks (awaitFrame p a) :=
  .bind .get (fun _ => .ite (.stop _) (.pure _))

theorem writeDev_leaves_firstBooks (c : Ctx) (a : Nat) (bytes : List Byte) : Op.Leaves firstBooks (writeDev c a bytes) :=
  .bind (awaitPages_leaves_firstBooks _ _ _) (fun _ => .each fun _ =>
    .bind (awaitFrame_leaves_firstBooks _ _) (fun _ => writeStripe_leaves_firstBooks _ _ _ _))

theorem writeSpace_leaves_firstBooks (c : Ctx) (d : Desc) (a : Nat) (bytes : List Byte) : Op.Leaves firstBooks (writeSpace c d a bytes) :=
  .ite (.bind .get (fun _ => .bind (.mod fun _ => rfl) (fun _ => writeStore_leaves_firstBooks _ _ _)))
    (.bind .get (fun _ => .bind (.mod fun _ => rfl) (fun _ => writeDev_leaves_firstBooks _ _ _)))

theorem writeBlock_leaves_firstBooks (c : Ctx) (d : Desc) (k : Nat) (b : List Byte × Nat) : Op.Leaves firstBooks (writeBlock c d k b) :=
  .ite (.bind (writeSpace_leaves_firstBooks _ _ _ _) (fun _ => .ite (writeSpace_leaves_firstBooks _ _ _ _) (.pure _)))
    (.each fun _ => .bind (writeSpace_leaves_firstBooks _ _ _ _) (fun _ => .ite (writeSpace_leaves_firstBooks _ _ _ _) (.pure _)))

/-! ### The stop of a command -/

/-- What the stop of a command leaves: connections, ports and the first registers. -/
def plainView (s : State) : Sparse Link × Sparse Port × Sparse Word × Sparse Nat := (s.conns, s.ports, firstBooks s)

theorem plainView_endFlight (s : State) (p : Fin 16) (t : StreamTag) (n : Nat) : plainView (endFlight s p t n) = plainView s :=
  foldl_view plainView (fun u f => view_of_offSignals (f := plainView) (h := offSignals_applyFlight u f)) _ _

theorem plainView_endDependents (p : Fin 16) (t : StreamTag) (gone : List Granule) (fs : List Flight) (s : State) :
    plainView (endDependents p t gone fs s) = plainView s := by
  induction fs generalizing gone s with
  | nil => rfl
  | cons f fs ih =>
    unfold endDependents
    split
    · rw [ih, plainView_endFlight]
    · exact ih _ _

theorem plainView_freeze (s : State) (p : Fin 16) (r : FaultRec) : plainView (freeze s p r) = plainView s :=
  Prod.ext (conns_freeze s p r) (Prod.ext (view_of_offStops (f := State.ports) (h := offStops_freeze s p r))
    (booksIn_freeze hidesFrames_firstRegs s p r))

theorem plainView_trapCommand (s : State) (p : Fin 16) (t : StreamTag) (g : Granule) (pc : Nat) (es : List Trap) :
    plainView (trapCommand s p t g pc es) = plainView s := by
  unfold trapCommand
  split
  · rfl
  · dsimp only
    split
    · exact plainView_freeze _ _ _
    · exact plainView_freeze _ _ _
    · change plainView (List.foldl _ s _) = _
      refine foldl_view plainView (fun u e => ?_) _ s
      rfl

theorem plainView_trapFlight (s : State) (p : Fin 16) (t : StreamTag) (f : Flight) (es : List Trap) :
    plainView (trapFlight s p t f es) = plainView s := by
  unfold trapFlight
  split
  · rfl
  · rw [plainView_trapCommand, dropFlight, plainView_endDependents, plainView_endFlight]
    rfl

end Sys2Proof.Machine
end

section
/-! A frame that its endpoint takes in its turn (R364 to R367): what its arrival and its placement leave of the endpoint, and the
one effect that follows. -/

namespace Sys2Proof.Machine

variable {s t u v : State} {e : Endpoint} {f : RxFrame} {m : RxMsg}

/-! ### What the arrival leaves -/

/-- A link but for what credits, acknowledgements and data that is placed change of it. -/
def Link.turn (l : Link) : Link :=
  { l with unacked := [], sentGran := 0, sinceAck := 0, rto := 0, peerClimit := 0, peerSlimit := 0, recvs := [], parts := [] }

theorem view_of_turn {α : Type} {f : Link → α} (hf : ∀ l : Link, f l.turn = f l := by exact fun _ => rfl) {l k : Link}
    (h : l.turn = k.turn) : f l = f k := by rw [← hf l, h, hf]

/-- A state that stands for s in the turn of a frame of e: the link as `turn` has it, the ports, the first registers, and the
accesses held. -/
structure SameTurn (s t : State) (e : Endpoint) : Prop where
  canonical : t.Canonical
  link : (linkGet t e).turn = (linkGet s e).turn
  books : firstBooks t = firstBooks s
  ports : t.ports = s.ports

theorem SameTurn.refl (hs : s.Canonical) (e : Endpoint) : SameTurn s s e := ⟨hs, rfl, rfl, rfl⟩

theorem SameTurn.trans (h : SameTurn s t e) (h' : SameTurn t u e) : SameTurn s u e :=
  ⟨h'.canonical, h'.link.trans h.link, h'.books.trans h.books, h'.ports.trans h.ports⟩

theorem SameTurn.mgmtOnly (hs : s.Canonical) (h : SameTurn s t e) (code : Nat) : mgmtOnly t code = mgmtOnly s code :=
  mgmtOnly_congr hs h.canonical h.books h.ports code

theorem offTallies_countPort (s : State) (code j n : Nat) : offTallies (countPort s code j n) = offTallies s := by
  unfold countPort
  split <;> rfl

theorem offTallies_countRx (s : State) (code : Nat) (f : RxFrame) : offTallies (countRx s code f) = offTallies s := by
  unfold countRx
  rw [offTallies_countPort, offTallies_countPort, offTallies_countPort, offTallies_countPort]

theorem firstBooks_countPort (s : State) (code n : Nat) {j : Nat} (hj : j < 16) : firstBooks (countPort s code j n) = firstBooks s := by
  unfold countPort
  split
  · next h => exact booksIn_bumpPort hidesFrames_firstRegs (portOfCode_lt h) hj s n
  · rfl

theorem firstBooks_countRx (s : State) (code : Nat) (f : RxFrame) : firstBooks (countRx s code f) = firstBooks s := by
  unfold countRx
  rw [firstBooks_countPort _ _ _ (by decide), firstBooks_countPort _ _ _ (by decide), firstBooks_countPort _ _ _ (by decide),
    firstBooks_countPort _ _ _ (by decide)]

theorem linkGet_countRx (s : State) (code : Nat) (f : RxFrame) (e : Endpoint) : linkGet (countRx s code f) e = linkGet s e :=
  view_of_offTallies (f := fun u => linkGet u e) (hf := fun _ => by cases e <;> rfl) (offTallies_countRx s code f)

theorem sameTurn_countRx (hs : s.Canonical) (code : Nat) (f : RxFrame) (e : Endpoint) : SameTurn s (countRx s code f) e where
  canonical := (countRx_kept (.refl s) code f).canonical hs
  link := congrArg Link.turn (linkGet_countRx s code f e)
  books := firstBooks_countRx s code f
  ports := view_of_offTallies (f := State.ports) (h := offTallies_countRx s code f)

theorem firstBooks_linkSet (s : State) (e : Endpoint) (l : Link) : firstBooks (linkSet s e l) = firstBooks s := by cases e <;> rfl

theorem ports_linkSet (s : State) (e : Endpoint) (l : Link) : (linkSet s e l).ports = s.ports := by cases e <;> rfl

theorem sameTurn_linkSet (hs : s.Canonical) {l : Link} (hl : l.turn = (linkGet s e).turn) : SameTurn s (linkSet s e l) e where
  canonical := linkSet_canonical hs e l
  link := by rw [linkGet_linkSet_same hs, hl]
  books := firstBooks_linkSet s e l
  ports := ports_linkSet s e l

theorem offFrames_resend (s : State) (e : Endpoint) (ps : List Nat) : offFrames (resend s e ps) = offFrames s := by
  unfold resend
  dsimp only
  split
  · rfl
  · rw [offFrames_of_offWire (offWire_handOver _ _ _ _), offFrames_linkSet]

theorem sameTurn_resend (hs : s.Canonical) (e : Endpoint) (ps : List Nat) : SameTurn s (resend s e ps) e where
  canonical := (resend_kept (.refl s) e ps).canonical hs
  link := by
    unfold resend
    dsimp only
    split
    · rfl
    · rw [linkGet_of_offWire (offWire_handOver _ _ _ _), linkGet_linkSet_same hs]
      rfl
  books := by
    unfold resend
    dsimp only
    split
    · rfl
    · exact (booksIn_handOver hidesFrames_firstRegs _ _ _ _).trans (firstBooks_linkSet s e _)
  ports := view_of_offFrames (f := State.ports) (h := offFrames_resend s e ps)

theorem sameTurn_pump (hs : s.Canonical) (e : Endpoint) : SameTurn s (pump s e) e where
  canonical := (pump_kept (.refl s) e).canonical hs
  link := view_of_standing (f := Link.turn) (h := standing_pump hs e)
  books := booksIn_pump hidesFrames_firstRegs s e
  ports := view_of_offFrames (f := State.ports) (h := offFrames_pump s e)

/-- What the credits of a header make of its link. -/
theorem takeCredit_eq (s : State) (e : Endpoint) (m : RxMsg) :
    ∃ l ps, l.turn = (linkGet s e).turn ∧ takeCredit s e m = pump (resend (linkSet s e l) e ps) e := by
  refine ⟨_, _, ?_, rfl⟩
  rfl

theorem sameTurn_takeCredit (hs : s.Canonical) (e : Endpoint) (m : RxMsg) : SameTurn s (takeCredit s e m) e := by
  obtain ⟨l, ps, hl, heq⟩ := takeCredit_eq s e m
  have hset := sameTurn_linkSet hs hl
  have hres := hset.trans (sameTurn_resend hset.canonical e ps)
  rw [heq]
  exact hres.trans (sameTurn_pump hres.canonical e)

theorem offFrames_takeCredit (s : State) (e : Endpoint) (m : RxMsg) : offFrames (takeCredit s e m) = offFrames s := by
  obtain ⟨l, ps, -, heq⟩ := takeCredit_eq s e m
  rw [heq, offFrames_pump, offFrames_resend, offFrames_linkSet]

theorem sameTurn_heard (hs : s.Canonical) (f : RxFrame) (e : Endpoint) (m : RxMsg) : SameTurn s (heard s f e m) e := by
  have hrx := sameTurn_countRx hs (codeOfPort f.port.val) f e
  exact hrx.trans (sameTurn_takeCredit hrx.canonical e m)

/-- The arrival of a frame leaves everything but the links, the wire, and registers and counts. -/
theorem offFrames_heard (s : State) (f : RxFrame) (e : Endpoint) (m : RxMsg) : offFrames (heard s f e m) = offFrames s :=
  (offFrames_takeCredit _ e m).trans (congrArg (fun u : State => { u with wire := [], conns := [], sess := [] })
    (offTallies_countRx s (codeOfPort f.port.val) f))

/-! ### What placement leaves -/

theorem placeFrame_of_plain (hconn : isSession e = false → mgmtOnly s (linkGet s e).port = false) (hwrite : m.op ≠ 0x10)
    (hsend : m.op ≠ 0x14) (hcoll : m.op ≠ 0x15) : placeFrame s e m = some (s, 0) := by
  cases e with
  | sess n => exact if_neg hwrite
  | conn c =>
    unfold placeFrame
    dsimp only
    rw [hconn rfl, if_neg Bool.false_ne_true, if_neg hsend, if_neg hcoll]

theorem sameTurn_of_offWork (ht : t.Canonical) (hwork : offWork t = offWork s) (hbooks : firstBooks t = firstBooks s) (e : Endpoint) :
    SameTurn s t e where
  canonical := ht
  link := congrArg Link.turn (view_of_offWork (f := fun u => linkGet u e) (fun _ => by cases e <;> rfl) hwork)
  books := hbooks
  ports := view_of_offWork (f := State.ports) (fun _ => rfl) hwork

/-- The write of one stripe of a host WRITE. -/
def hostStripe (side : Side) (p : Fin 16) (a : Nat) (bytes : List Byte) (st : Nat × Nat) : Op Unit := do
  awaitPages p st.1 st.2
  awaitFrame p st.1
  writeStripe side p st.1 ((bytes.drop (st.1 - a)).take st.2)

theorem hostWrite_cons (side : Side) (p : Fin 16) (a : Nat) (bytes : List Byte) (st : Nat × Nat) (rest : List (Nat × Nat)) (s : State) :
    hostWrite side p a bytes (st :: rest) s = match Op.exec (hostStripe side p a bytes st) s with
      | (.ok _, s) => hostWrite side p a bytes rest s
      | (.error t, s) => if t.waits then none else (hostWrite side p a bytes rest s).map (fun r => (r.1, stopStatus t)) := rfl

/-- What every stripe of a host WRITE leaves, the WRITE leaves. -/
theorem hostWrite_leaves {α : Type} {g : State → α} {side : Side} {p : Fin 16} {a : Nat} {bytes : List Byte}
    (hg : ∀ st, Op.Leaves g (hostStripe side p a bytes st)) (l : List (Nat × Nat)) (s : State) :
    ∀ r ∈ hostWrite side p a bytes l s, g r.1 = g s := by
  induction l generalizing s with
  | nil =>
    intro r hr
    cases hr
    rfl
  | cons st rest ih =>
    intro r hr
    have hone := hg st s
    rw [hostWrite_cons] at hr
    generalize Op.exec (hostStripe side p a bytes st) s = x at hone hr
    obtain ⟨_ | _, u⟩ := x
    · dsimp only at hr
      split at hr
      · cases hr
      · obtain ⟨q, hq, rfl⟩ := Option.map_eq_some_iff.1 hr
        exact (ih u q hq).trans hone
    · exact (ih u r hr).trans hone

theorem hostStripe_leaves (side : Side) (p : Fin 16) (a : Nat) (bytes : List Byte) (st : Nat × Nat) :
    Op.Leaves offWork (hostStripe side p a bytes st) :=
  .bind (awaitPages_leaves _ _ _) (fun _ => .bind (awaitFrame_leaves _ _) (fun _ => writeStripe_leaves _ _ _ _))

theorem hostStripe_leaves_firstBooks (side : Side) (p : Fin 16) (a : Nat) (bytes : List Byte) (st : Nat × Nat) :
    Op.Leaves firstBooks (hostStripe side p a bytes st) :=
  .bind (awaitPages_leaves_firstBooks _ _ _) (fun _ => .bind (awaitFrame_leaves_firstBooks _ _) (fun _ =>
    writeStripe_leaves_firstBooks _ _ _ _))

theorem placeWrite_leaves {α : Type} {g : State → α}
    (hg : ∀ side p a bytes st, Op.Leaves g (hostStripe side p a bytes st)) (s : State) (n : Fin 64) (m : RxMsg) :
    ∀ r ∈ placeWrite s n m, g r.1 = g s := by
  intro r hr
  unfold placeWrite at hr
  dsimp only at hr
  split at hr
  · cases hr
    rfl
  · split at hr
    · exact hostWrite_leaves (hg _ _ _ _) _ _ r hr
    · cases hr
      rfl

theorem sameTurn_placeWrite (hs : s.Canonical) {n : Fin 64} {r : State × Nat} (h : placeWrite s n m = some r) (e : Endpoint) :
    SameTurn s r.1 e :=
  sameTurn_of_offWork ((placeWrite_kept (.refl s) n m r h).canonical hs) (placeWrite_leaves hostStripe_leaves s n m r h)
    (placeWrite_leaves hostStripe_leaves_firstBooks s n m r h) e

/-- Blocks of a SEND that are placed: in memory, or kept by their link. -/
theorem sameTurn_placeBlocks (hs : s.Canonical) (c : Ctx) (e : Endpoint) (d : Desc) (b : SentBlocks) :
    SameTurn s (Op.exec (placeBlocks c e d b) s).2 e := by
  have hcan := (Op.exec_kept (placeBlocks_kept c e d b) (.refl s)).canonical hs
  have hsend {α : Type} {g : State → α} (hg : ∀ d k b, Op.Leaves g (writeBlock c d k b)) : Op.Leaves g
      (Op.each (b.blocks.zipIdx) (fun x => if b.first + x.2 < d.rows * d.blocks then writeBlock c d (b.first + x.2) x.1 else pure ())) :=
    .each fun _ => .ite (hg _ _ _) (.pure _)
  unfold placeBlocks at hcan ⊢
  by_cases hfmt : b.fmt = fmtCode d.fmt
  · rw [if_pos hfmt] at hcan ⊢
    exact sameTurn_of_offWork hcan (hsend (g := offWork) (fun _ _ _ => writeBlocks_leaves _ _ _ _ _) s)
      (hsend (writeBlock_leaves_firstBooks c) s) e
  · rw [if_neg hfmt]
    exact sameTurn_linkSet hs rfl

theorem sameTurn_freshRows (hs : s.Canonical) (e : Endpoint) : SameTurn s (freshRows s) e where
  canonical := (freshRows_kept (.refl s)).canonical hs
  link := by cases e <;> rfl
  books := rfl
  ports := rfl

/-- The stop of a RECV leaves its connection but for the RECV. -/
theorem sameTurn_trapRecv (hs : s.Canonical) (c : Fin 2048) (w : LinkWait) (f : Flight) (x : Trap) :
    SameTurn s (trapRecv s (.conn c) w f x) (.conn c) := by
  have hmod : SameTurn s (linkMod s (.conn c) (fun l => { l with recvs := l.recvs.erase w })) (.conn c) := sameTurn_linkSet hs rfl
  have hview := plainView_trapFlight (linkMod s (.conn c) (fun l => { l with recvs := l.recvs.erase w }))
    (linkGet s (.conn c)).owner w.stream f [x]
  refine hmod.trans ⟨(trapFlight_kept (.refl _) _ _ _ _).canonical hmod.canonical, ?_, congrArg (fun v => v.2.2) hview,
    congrArg (fun v => v.2.1) hview⟩
  exact congrArg (fun v => (Sparse.get Link.free v.1 c.val).turn) hview

theorem Op.exec_at_state {α : Type} (unit core : Nat) (tile : List Nat) (x : Op α) (s : State) :
    (Op.exec (Op.at unit core tile x) s).2 = (Op.exec x s).2 := by
  unfold Op.at
  rw [Op.exec_tryCatch]
  split <;> rename_i heq <;> rw [heq]
  rfl

theorem sameTurn_placeSendData (hs : s.Canonical) {c : Fin 2048} {r : State × Nat} (h : placeSendData s (.conn c) m = some r) :
    SameTurn s r.1 (.conn c) := by
  have hfresh := sameTurn_freshRows hs (.conn c)
  have hdone {α : Type} {x : Op α} (hx : SameTurn (freshRows s) (Op.exec x (freshRows s)).2 (.conn c)) {y : Except Trap α × State}
      (hy : Op.exec x (freshRows s) = y) : SameTurn s y.2 (.conn c) := hy ▸ hfresh.trans hx
  have hat (p d b) : SameTurn (freshRows s) (Op.exec (Op.at 0xC 0xFF [0, 0, 0, 0] (placeBlocks p (.conn c) d b)) (freshRows s)).2 (.conn c) :=
    (Op.exec_at_state 0xC 0xFF [0, 0, 0, 0] (placeBlocks p (.conn c) d b) (freshRows s)) ▸
      sameTurn_placeBlocks hfresh.canonical p (.conn c) d b
  unfold placeSendData at h
  dsimp only at h
  split at h
  · split at h
    · cases h
      exact .refl hs _
    · split at h
      · next heq =>
        cases h
        exact hdone (sameTurn_placeBlocks hfresh.canonical _ _ _ _) heq
      · next heq =>
        split at h
        · cases h
        · cases h
          exact hdone (sameTurn_placeBlocks hfresh.canonical _ _ _ _) heq
  · split at h
    · cases h
      exact .refl hs _
    · split at h
      · split at h
        · next heq =>
          cases h
          exact hdone (hat _ _ _) heq
        · next heq =>
          split at h
          · cases h
          · cases h
            have hplaced := hdone (hat _ _ _) heq
            exact hplaced.trans (sameTurn_trapRecv hplaced.canonical c _ _ _)
      · cases h
        exact .refl hs _

theorem sameTurn_placeCollData (hs : s.Canonical) (e e' : Endpoint) (m : RxMsg) : SameTurn s (placeCollData s e m).1 e' := by
  have hadd (p : Fin 16) (gs : List CollSeg) : SameTurn s (addSegs s p gs) e' :=
    ⟨(addSegs_kept (.refl s) p gs).canonical hs, by cases e' <;> rfl, rfl, rfl⟩
  have hrefl : SameTurn s s e' := .refl hs e'
  unfold placeCollData
  dsimp only
  split
  · exact hrefl
  · split
    · exact hrefl
    · split
      · exact hrefl
      · split
        · split
          · exact hadd _ _
          · exact hrefl
        · split
          · exact hrefl
          · split
            · exact hrefl
            · exact hadd _ _

theorem sameTurn_placeFrame (hs : s.Canonical) {r : State × Nat} (h : placeFrame s e m = some r) : SameTurn s r.1 e := by
  have hrefl : SameTurn s s e := .refl hs e
  unfold placeFrame at h
  split at h
  · split at h
    · exact sameTurn_placeWrite hs h _
    · cases h
      exact hrefl
  · split at h
    · cases h
      exact hrefl
    · split at h
      · exact sameTurn_placeSendData hs h
      · split at h
        · cases h
          exact sameTurn_placeCollData hs _ _ m
        · cases h
          exact hrefl

/-- The placement of a session's frame leaves the accesses held. -/
theorem accs_placeFrame_sess {n : Fin 64} {r : State × Nat} (h : placeFrame s (.sess n) m = some r) : r.1.accs = s.accs := by
  unfold placeFrame at h
  dsimp only at h
  split at h
  · exact view_of_offWork (f := State.accs) (fun _ => rfl) (placeWrite_leaves hostStripe_leaves s n m r h)
  · cases h
    rfl

/-! ### A frame in its turn -/

theorem linkLive_of_brings (h : Brings s f e m) : linkLive (linkGet s e) = true := by
  unfold linkLive
  rcases h.opened with hopen | ⟨-, hopen, -⟩ <;> rw [hopen] <;> rfl

/-- A frame that its endpoint takes passes every check, and meets the window or, an ACK, the credits alone. -/
theorem hearLink_of_brings (h : Brings s f e m) {gs : List (List Byte)} (htag : (isSession e || (linkGet s e).authFull) = true →
      tagged (linkGet s e).key gs m = true) {u : State} (hu : linkGet u e = linkGet s e) :
    hearLink u (codeOfPort f.port.val) e gs m = if m.op = 0x01 then ackArrives u e m else windowFrame u e m := by
  have hplace : (decide (m.dgen ≠ (linkGet s e).gen) || decide ((linkGet s e).port ≠ codeOfPort f.port.val)) = false := by
    rw [h.gen, h.port]
    simp
  have hwhole : (linkGet s e).state ≠ .broken := by
    rcases h.opened with hopen | ⟨-, hopen, -⟩ <;> rw [hopen] <;> decide
  have hauth : ((isSession e || (linkGet s e).authFull) && !tagged (linkGet s e).key gs m) = false := by
    cases hneed : (isSession e || (linkGet s e).authFull)
    · rfl
    · rw [htag hneed]
      rfl
  have hhand : (!isSession e && decide ((linkGet s e).state = .opening) && !openingTakes (linkGet s e) m) = false := by
    rcases h.opened with hopen | ⟨hconn, hopen, htakes⟩
    · rw [hopen]
      simp
    · rw [htakes]
      simp
  have hsess : (isSession e && decide ((linkGet s e).state = .opening)) = false := by
    rcases h.opened with hopen | ⟨hconn, -, -⟩
    · rw [hopen]
      simp
    · rw [hconn]
      rfl
  unfold hearLink
  dsimp only
  rw [hu, hplace, hauth, hhand, hsess, linkLive_of_brings h]
  rw [if_neg Bool.false_ne_true, if_neg (fun hb => hwhole hb.1), if_neg (by decide), if_neg (Nat.not_lt.2 h.size),
    if_neg Bool.false_ne_true, if_neg Bool.false_ne_true, if_neg Bool.false_ne_true]

theorem hear_of_brings {mine : RxMsg → Bool} (h : Brings s f e m) (hmine : mine m = true) :
    hear f mine s = if m.op = 0x01 then ackArrives (countRx s (codeOfPort f.port.val) f) e m
      else windowFrame (countRx s (codeOfPort f.port.val) f) e m := by
  obtain ⟨gs, hgs, rfl, hversion, htag⟩ := h.whole
  obtain ⟨hopen, hend⟩ := h.names
  unfold hear
  dsimp only
  rw [h.carries, h.fcs, h.head, hgs]
  dsimp only
  rw [hmine]
  simp only [Bool.not_true, Bool.false_eq_true, if_false, Nat.lt_irrefl]
  unfold hearMsg
  rw [if_neg (not_not_intro hversion), if_neg (fun hb => hopen hb.1), hend]
  exact hearLink_of_brings h htag (linkGet_countRx _ _ _ _)

/-- A link that a placed frame joins, with the status of its placement. -/
def Link.joins (l : Link) (m : RxMsg) (st : Nat) : Link :=
  { l with ahead := l.ahead ++ [{ m with st := st }], sinceAck := l.sinceAck + 1,
           gotGran := if creditFree m.op then l.gotGran else (l.gotGran + m.payload.length) % psnMod }

/-- A frame of the turn of its endpoint, once it is placed with a status. -/
def joinedTurn (u : State) (e : Endpoint) (m : RxMsg) (st : Nat) : State := linkMod u e (fun l => l.joins m st)

/-- It leaves the window, which goes on to the next number. -/
def passedTurn (u : State) (e : Endpoint) (m : RxMsg) : State :=
  linkMod u e (fun l => { l with psnRx := (l.psnRx + 1) % psnMod, ahead := l.ahead.filter (fun b => b.psn ≠ m.psn) })

theorem atTurn_eq (s : State) (f : RxFrame) (e : Endpoint) (m : RxMsg) : atTurn s f e m =
    (placeFrame (heard s f e m) e m).map (fun r => (passedTurn (joinedTurn r.1 e m r.2) e m, { m with st := r.2 })) := rfl

theorem windowFrame_of_turn {u : State} (hturn : m.psn = (linkGet u e).psnRx) (hfirst : (linkGet u e).ahead = []) :
    windowFrame u e m = match placeFrame (takeCredit u e m) e m with
      | some r => joinWindow r.1 e m false r.2
      | none => takeCredit u e m := by
  have hd : (m.psn + psnMod - m.psn) % psnMod = 0 := by
    rw [Nat.add_sub_cancel_left, Nat.mod_self]
  unfold windowFrame
  dsimp only
  rw [← hturn, hd, hfirst]
  rfl

/-- The only frame at hand takes its effect; then the acknowledgement goes if it is due. -/
theorem joinWindow_of_first {u : State} (hu : u.Canonical) {st : Nat} (hturn : m.psn = (linkGet u e).psnRx)
    (hfirst : (linkGet u e).ahead = []) (hfree : heldUp (joinedTurn u e m st) e { m with st := st } = false) :
    joinWindow u e m false st = afterFrame (linkGet u e).gen (linkGet u e).owner e m
      (frameEffect (passedTurn (joinedTurn u e m st) e m) e { m with st := st }) := by
  have hlink : linkGet (joinedTurn u e m st) e = (linkGet u e).joins m st := linkGet_linkMod_same hu e _
  have hgen : (linkGet (joinedTurn u e m st) e).gen = (linkGet u e).gen := by rw [hlink]; rfl
  have howner : (linkGet (joinedTurn u e m st) e).owner = (linkGet u e).owner := by rw [hlink]; rfl
  have hahead : ((linkGet u e).joins m st).ahead = [{ m with st := st }] := by
    rw [Link.joins, hfirst]
    rfl
  have hdeliver : deliverAll (joinedTurn u e m st) e = takeFrameEffect (joinedTurn u e m st) e { m with st := st } := by
    have hfind : (linkGet (joinedTurn u e m st) e).ahead.find? (fun b => b.psn = (linkGet (joinedTurn u e m st) e).psnRx) =
        some { m with st := st } := by
      rw [hlink, hahead]
      exact List.find?_cons_of_pos (decide_eq_true hturn)
    have hlen : (linkGet (joinedTurn u e m st) e).ahead.length = 1 := by
      rw [hlink, hahead]
      rfl
    rw [deliverAll, hlen, deliver, hfind]
    dsimp only
    rw [hfree, if_neg Bool.false_ne_true]
    rfl
  have htake : takeFrameEffect (joinedTurn u e m st) e { m with st := st } =
      settleLink (if (linkGet (frameEffect (passedTurn (joinedTurn u e m st) e m) e { m with st := st }) e).gen = (linkGet u e).gen then
        noteAck (frameEffect (passedTurn (joinedTurn u e m st) e m) e { m with st := st }) e m.ack
        else frameEffect (passedTurn (joinedTurn u e m st) e m) e { m with st := st }) e (linkGet u e).owner := by
    rw [← hgen, ← howner]
    rfl
  change (if (false || m.flags.testBit 4 || decide (8 ≤ (linkGet (deliverAll (joinedTurn u e m st) e) e).sinceAck)) &&
      decide ((linkGet (deliverAll (joinedTurn u e m st) e) e).gen = (linkGet u e).gen) &&
      decide (0 < (linkGet (deliverAll (joinedTurn u e m st) e) e).sinceAck)
    then sendAck (deliverAll (joinedTurn u e m st) e) e else deliverAll (joinedTurn u e m st) e) = _
  rw [hdeliver, htake]
  unfold afterFrame
  dsimp only
  simp only [Bool.false_or, Bool.and_eq_true, Bool.or_eq_true, decide_eq_true_eq, and_assoc]

/-- What a session's held access, or a READ that waits, is told from: the accesses held, the message begun, and for a READ the
partitions. -/
theorem heldUp_congr {u : State} (haccs : isSession e = true → u.accs = s.accs) (hmsg : (linkGet u e).msg = (linkGet s e).msg)
    (hparts : m.op = 0x11 → u.parts = s.parts) (st : Nat) : heldUp u e { m with st := st } = heldUp s e m := by
  cases e with
  | conn c => rfl
  | sess n =>
    have hwaits : waitsBehind u (.session n) = waitsBehind s (.session n) := by rw [waitsBehind, waitsBehind, haccs rfl]
    have hreads : readWaits u (.sess n) { m with st := st } = readWaits s (.sess n) m := by
      by_cases hop : m.op = 0x11
      · have hext : (joinMsg (linkGet u (.sess n)).msg { m with st := st }).ext = (joinMsg (linkGet s (.sess n)).msg m).ext := by
          rw [hmsg]
          unfold joinMsg
          dsimp only
          split
          · rfl
          · split <;> rfl
        unfold readWaits State.part
        dsimp only
        rw [hext, hparts hop]
      · unfold readWaits
        dsimp only
        simp only [decide_eq_false hop, Bool.false_and]
    unfold heldUp
    dsimp only
    rw [hwaits, hreads]

theorem ahead_of_turn {l k : Link} (h : l.turn = k.turn) : l.ahead = k.ahead := view_of_turn (f := Link.ahead) (h := h)

theorem parts_linkSet (s : State) (e : Endpoint) (l : Link) : (linkSet s e l).parts = s.parts := by cases e <;> rfl

theorem accs_linkSet (s : State) (e : Endpoint) (l : Link) : (linkSet s e l).accs = s.accs := by cases e <;> rfl

/-- A frame in its turn, no ACK, has the one effect of its verb where its payload has a place. -/
theorem hear_of_turn (hs : s.Canonical) {mine : RxMsg → Bool} (h : Brings s f e m) (hmine : mine m = true) (hop : m.op ≠ 0x01) :
    hear f mine s = match atTurn s f e m with
      | some a => afterFrame m.dgen (linkGet s e).owner e m (frameEffect a.1 e a.2)
      | none => heard s f e m := by
  have hrx := linkGet_countRx s (codeOfPort f.port.val) f e
  have hheard := sameTurn_heard hs f e m
  rw [hear_of_brings h hmine, if_neg hop, windowFrame_of_turn (by rw [hrx, h.turn]) (by rw [hrx, h.first]), atTurn_eq]
  change (match placeFrame (heard s f e m) e m with
    | some r => joinWindow r.1 e m false r.2
    | none => heard s f e m) = _
  cases hplace : placeFrame (heard s f e m) e m with
  | none => rfl
  | some r =>
    have hr := hheard.trans (sameTurn_placeFrame hheard.canonical hplace)
    have haccs (he : isSession e = true) : (joinedTurn r.1 e m r.2).accs = s.accs := by
      cases e with
      | conn c => cases he
      | sess n => exact (accs_linkSet _ _ _).trans ((accs_placeFrame_sess hplace).trans
          (view_of_offFrames (f := State.accs) (h := offFrames_heard s f (.sess n) m)))
    have hmsg : (linkGet (joinedTurn r.1 e m r.2) e).msg = (linkGet s e).msg :=
      (congrArg Link.msg (linkGet_linkMod_same hr.canonical e (fun l => l.joins m r.2))).trans
        (show (linkGet r.1 e).msg = _ from view_of_turn (f := Link.msg) (h := hr.link))
    have hparts (hread : m.op = 0x11) : (joinedTurn r.1 e m r.2).parts = s.parts := by
      have hplain := placeFrame_of_plain (s := heard s f e m) (e := e) (m := m) (fun he => by
        rw [hheard.mgmtOnly hs, view_of_turn (f := Link.port) (h := hheard.link), h.plain he]) (by omega) (by omega) (by omega)
      obtain rfl : r = (heard s f e m, 0) := Option.some.inj (hplace.symm.trans hplain)
      exact (parts_linkSet _ _ _).trans (view_of_offFrames (f := State.parts) (h := offFrames_heard s f e m))
    have hgen : (linkGet r.1 e).gen = m.dgen := (view_of_turn (f := Link.gen) (h := hr.link)).trans h.gen.symm
    have howner : (linkGet r.1 e).owner = (linkGet s e).owner := view_of_turn (f := Link.owner) (h := hr.link)
    dsimp only [Option.map_some]
    rw [joinWindow_of_first hr.canonical (h.turn.trans (view_of_turn (f := Link.psnRx) (h := hr.link)).symm)
      ((ahead_of_turn hr.link).trans h.first) ((heldUp_congr haccs hmsg hparts r.2).trans h.free), hgen, howner]

/-! ### The state of the effect -/

/-- A link but for what the arrival of a frame in its turn changes of it. -/
def Link.kept (l : Link) : Link := { l.turn with psnRx := 0, ahead := [], gotGran := 0 }

theorem view_of_kept {α : Type} {f : Link → α} (hf : ∀ l : Link, f l.kept = f l := by exact fun _ => rfl) {l k : Link}
    (h : l.kept = k.kept) : f l = f k := by rw [← hf l, h, hf]

/-- The state in which a frame takes its effect. -/
structure Turned (s : State) (e : Endpoint) (t : State) : Prop where
  canonical : t.Canonical
  link : (linkGet t e).kept = (linkGet s e).kept
  psnRx : (linkGet t e).psnRx = ((linkGet s e).psnRx + 1) % psnMod
  books : firstBooks t = firstBooks s
  ports : t.ports = s.ports

theorem turned_of_placed (hs : s.Canonical) {r : State × Nat} (hplace : placeFrame (heard s f e m) e m = some r) :
    Turned s e (passedTurn (joinedTurn r.1 e m r.2) e m) := by
  have hheard := sameTurn_heard hs f e m
  have hr := hheard.trans (sameTurn_placeFrame hheard.canonical hplace)
  have hjoin := linkMod_canonical hr.canonical e (fun l => l.joins m r.2)
  have hlink : linkGet (passedTurn (joinedTurn r.1 e m r.2) e m) e = { (linkGet r.1 e).joins m r.2 with
      psnRx := (((linkGet r.1 e).joins m r.2).psnRx + 1) % psnMod,
      ahead := ((linkGet r.1 e).joins m r.2).ahead.filter (fun b => b.psn ≠ m.psn) } := by
    have hjoined : linkGet (joinedTurn r.1 e m r.2) e = (linkGet r.1 e).joins m r.2 := linkGet_linkMod_same hr.canonical e _
    refine (linkGet_linkMod_same hjoin e _).trans ?_
    exact congrArg (fun l : Link => { l with psnRx := (l.psnRx + 1) % psnMod, ahead := l.ahead.filter (fun b => b.psn ≠ m.psn) }) hjoined
  refine ⟨linkMod_canonical hjoin e _, ?_, ?_, ?_, ?_⟩
  · rw [hlink]
    exact congrArg (fun l : Link => { l with psnRx := 0, ahead := [], gotGran := 0 }) hr.link
  · rw [hlink]
    exact congrArg (fun n => (n + 1) % psnMod) (show (linkGet r.1 e).psnRx = _ from view_of_turn (f := Link.psnRx) (h := hr.link))
  · exact (firstBooks_linkSet _ _ _).trans ((firstBooks_linkSet _ _ _).trans hr.books)
  · exact (ports_linkSet _ _ _).trans ((ports_linkSet _ _ _).trans hr.ports)

theorem turned_of_atTurn (hs : s.Canonical) {a : State × RxMsg} (ha : atTurn s f e m = some a) :
    Turned s e a.1 ∧ ∃ st, a.2 = { m with st := st } := by
  rw [atTurn_eq] at ha
  obtain ⟨r, hr, rfl⟩ := Option.map_eq_some_iff.1 ha
  exact ⟨turned_of_placed hs hr, r.2, rfl⟩

theorem Turned.mgmtOnly (hs : s.Canonical) (h : Turned s e t) (code : Nat) : mgmtOnly t code = mgmtOnly s code :=
  mgmtOnly_congr hs h.canonical h.books h.ports code

/-- A frame whose verb places nothing takes its effect on a state that differs from s in links, counts and the wire alone. -/
theorem atTurn_of_plain (hs : s.Canonical) (h : Brings s f e m) (hwrite : m.op ≠ 0x10) (hsend : m.op ≠ 0x14) (hcoll : m.op ≠ 0x15) :
    ∃ u, atTurn s f e m = some (u, { m with st := 0 }) ∧ offFrames u = offFrames s := by
  have hheard := sameTurn_heard hs f e m
  have hplain := placeFrame_of_plain (s := heard s f e m) (e := e) (m := m) (fun he => by
    rw [hheard.mgmtOnly hs, view_of_turn (f := Link.port) (h := hheard.link), h.plain he]) hwrite hsend hcoll
  rw [atTurn_eq, hplain]
  refine ⟨_, rfl, ?_⟩
  rw [passedTurn, linkMod, offFrames_linkSet, joinedTurn, linkMod, offFrames_linkSet, offFrames_heard]

end Sys2Proof.Machine
end

section
/-! Frames of connections (R360 to R367, R372, R373): the one effect of a frame in its turn; O30. -/

namespace Sys2Proof.Machine

variable {s t u : State} {e : Endpoint} {f : RxFrame} {m : RxMsg} {c : Fin 2048} {op : Nat}

/-! ### The effect of a connection's frame -/

theorem rowTakes_of_op (h : m.op = op) : rowTakes op m = true := by
  unfold rowTakes
  rw [decide_eq_true h, Bool.true_or]

/-- The effect of a verb of a connection. -/
def connVerb (s : State) (e : Endpoint) (m : RxMsg) (op : Nat) : State :=
  match op with
  | 0x03 => openAckEffect s e m
  | 0x04 => closeEffect s e
  | 0x05 => closeLink s e
  | 0x13 => signalEffect s e m
  | 0x14 => sendDataEffect s e m
  | 0x15 => collDataEffect s e m
  | 0x16 => sendRtsEffect s e m
  | 0x17 => sendCtsEffect s e m
  | 0x18 => rejectEffect s e m
  | _ => sendReject s e m.psn 1 0

/-- On a port that takes every verb, a frame of a connection has the effect of its verb (R354). -/
theorem connEffect_of_plain (h : mgmtOnly s (linkGet s e).port = false) (m : RxMsg) : connEffect s e m = connVerb s e m m.op := by
  unfold connEffect
  rw [h, Bool.false_and, Bool.false_and, if_neg Bool.false_ne_true]
  rfl

theorem Turned.plain (hs : s.Canonical) (h : Brings s f e m) (ht : Turned s e t) (he : isSession e = false) :
    Machine.mgmtOnly t (linkGet t e).port = false := by
  rw [ht.mgmtOnly hs, view_of_kept (f := Link.port) (h := ht.link), h.plain he]

/-- A frame of a connection that is placed in its turn, an ACK apart: its row's exec is the effect of its verb on the state of
its turn. -/
theorem hearVerb_of_placed (hs : s.Canonical) (h : Brings s f (.conn c) m) (hop : m.op = op) (hack : op ≠ 0x01) {a : State × RxMsg}
    (ha : atTurn s f (.conn c) m = some a) : hearVerb op f s =
      afterFrame m.dgen (linkGet s (.conn c)).owner (.conn c) m (connEffect a.1 (.conn c) a.2) := by
  unfold hearVerb
  rw [hear_of_turn hs h (rowTakes_of_op hop) (hop ▸ hack), ha]
  rfl

/-- A frame whose place waits is heard, and not taken. -/
theorem hearVerb_of_waiting (hs : s.Canonical) (h : Brings s f (.conn c) m) (hop : m.op = op) (hack : op ≠ 0x01)
    (ha : atTurn s f (.conn c) m = none) : hearVerb op f s = heard s f (.conn c) m := by
  unfold hearVerb
  rw [hear_of_turn hs h (rowTakes_of_op hop) (hop ▸ hack), ha]

/-- An ACK in its turn brings its credits and its acknowledgement. -/
theorem hearVerb_ack (hs : s.Canonical) (h : Brings s f (.conn c) m) (hop : m.op = 0x01) : hearVerb 0x01 f s =
    settle (linkGet s (.conn c)).owner (noteAck (heard s f (.conn c) m) (.conn c) m.ack) := by
  have hheard := sameTurn_heard hs f (.conn c) m
  have hturn : m.psn = (linkGet (heard s f (.conn c) m) (.conn c)).psnRx :=
    h.turn.trans (view_of_turn (f := Link.psnRx) (h := hheard.link)).symm
  unfold hearVerb
  rw [hear_of_brings h (rowTakes_of_op hop), if_pos hop]
  change settleLink (if m.psn = (linkGet (heard s f (.conn c) m) (.conn c)).psnRx then noteAck (heard s f (.conn c) m) (.conn c) m.ack
    else heard s f (.conn c) m) (.conn c) (linkGet (heard s f (.conn c) m) (.conn c)).owner = _
  rw [if_pos hturn, view_of_turn (f := Link.owner) (h := hheard.link)]
  rfl

/-- Every verb of a connection but SEND_DATA has its place. -/
theorem atTurn_of_conn (hs : s.Canonical) (h : Brings s f (.conn c) m) (hsend : m.op ≠ 0x14) :
    ∃ a, atTurn s f (.conn c) m = some a := by
  have hheard := sameTurn_heard hs f (.conn c) m
  have hplain : mgmtOnly (heard s f (.conn c) m) (linkGet (heard s f (.conn c) m) (.conn c)).port = false := by
    rw [hheard.mgmtOnly hs, view_of_turn (f := Link.port) (h := hheard.link), h.plain rfl]
  have hplace : ∃ r, placeFrame (heard s f (.conn c) m) (.conn c) m = some r := by
    unfold placeFrame
    dsimp only
    rw [hplain, if_neg Bool.false_ne_true, if_neg hsend]
    split <;> exact ⟨_, rfl⟩
  obtain ⟨r, hr⟩ := hplace
  rw [atTurn_eq, hr]
  exact ⟨_, rfl⟩

/-- A frame whose verb places no data: the state of its turn, its exec, and the mode of its port. -/
structure Runs (s : State) (f : RxFrame) (c : Fin 2048) (m : RxMsg) (op : Nat) (a : State × RxMsg) : Prop where
  taken : atTurn s f (.conn c) m = some a
  turned : Turned s (.conn c) a.1
  msg : ∃ st, a.2 = { m with st := st }
  plain : mgmtOnly a.1 (linkGet a.1 (.conn c)).port = false
  exec : hearVerb op f s = afterFrame m.dgen (linkGet s (.conn c)).owner (.conn c) m (connEffect a.1 (.conn c) a.2)

theorem runs_of_taken (hs : s.Canonical) (h : Brings s f (.conn c) m) (hop : m.op = op) (hack : op ≠ 0x01) {a : State × RxMsg}
    (ha : atTurn s f (.conn c) m = some a) : Runs s f c m op a := by
  obtain ⟨hturn, hmsg⟩ := turned_of_atTurn hs ha
  exact ⟨ha, hturn, hmsg, hturn.plain hs h rfl, hearVerb_of_placed hs h hop hack ha⟩

theorem runs_of_brings (hs : s.Canonical) (h : Brings s f (.conn c) m) (hop : m.op = op) (hack : op ≠ 0x01) (hsend : op ≠ 0x14) :
    ∃ a, Runs s f c m op a := by
  obtain ⟨a, ha⟩ := atTurn_of_conn hs h (hop ▸ hsend)
  exact ⟨a, runs_of_taken hs h hop hack ha⟩

/-- The effect of a frame that runs is that of its verb. -/
theorem Runs.next {a : State × RxMsg} (h : Runs s f c m op a) (hop : m.op = op) :
    (.next (hearVerb op f s) : Host.Outcome State Fault Refusal) = .next (afterFrame m.dgen (linkGet s (.conn c)).owner (.conn c) m (connVerb a.1 (.conn c) a.2 op)) := by
  obtain ⟨st, hmsg⟩ := h.msg
  have ha : a.2.op = op := by rw [hmsg]; exact hop
  rw [h.exec, connEffect_of_plain h.plain, ha]

/-! ### The handshake and the close -/

theorem state_sendFrame (hs : s.Canonical) (e : Endpoint) (op flags : Nat) (ext : Option (List Byte)) (payload : List (List Byte)) :
    (linkGet (sendFrame s e op flags ext payload) e).state = (linkGet s e).state ∧
    (linkGet (sendFrame s e op flags ext payload) e).gen = (linkGet s e).gen := by
  cases hlive : linkLive (linkGet s e) with
  | false => rw [sendFrame_of_not_live hlive]; exact ⟨rfl, rfl⟩
  | true =>
    have h := standing_sendFrame_of_live hs hlive op flags ext payload
    exact ⟨(congrArg Link.state h).trans rfl, (congrArg Link.gen h).trans rfl⟩

theorem state_openAckEffect (hs : s.Canonical) (h : (linkGet s e).state = .opening) (m : RxMsg) :
    (linkGet (openAckEffect s e m) e).state = .opened := by
  unfold openAckEffect
  dsimp only
  rw [if_neg (not_not_intro h)]
  split
  · exact (state_sendFrame (linkSet_canonical hs e _) e _ _ _ _).1.trans (by rw [linkGet_linkSet_same hs])
  · rw [linkGet_linkSet_same hs]

theorem linkGet_closeLink (hs : s.Canonical) (c : Fin 2048) : linkGet (closeLink s (.conn c)) (.conn c) = freeLink (linkGet s (.conn c)) := by
  unfold closeLink
  dsimp only
  split
  · rw [linkGet_stopWaiters, linkGet_linkSet_same hs]
  · rw [linkGet_linkSet_same hs]

theorem freeLink_gen (l : Link) : (freeLink l).state = .free ∧ (freeLink l).gen = (l.gen + 1) % 2 ^ 16 := ⟨rfl, rfl⟩

theorem closed_closeEffect (hs : s.Canonical) (c : Fin 2048) : (linkGet (closeEffect s (.conn c)) (.conn c)).state = .free ∧
    (linkGet (closeEffect s (.conn c)) (.conn c)).gen = ((linkGet s (.conn c)).gen + 1) % 2 ^ 16 := by
  unfold closeEffect
  rw [linkGet_closeLink (sendFrame_canonical hs _ _ _ _ _), ← (state_sendFrame hs (.conn c) 0x05 (flFirst + flLast) none []).2]
  exact freeLink_gen _

/-- Settles O30: a frame in its turn runs as the effect of its verb on the state of that turn. -/
theorem connectionFrames : Obligations.ConnectionFrames := by
  rintro s u f c m m' e p hs rfl h rfl
  have hgen {a : State × RxMsg} {op : Nat} (ha : Runs s f c m op a) : (linkGet a.1 (.conn c)).gen = m.dgen :=
    (view_of_kept (f := Link.gen) (h := ha.turned.link)).trans h.gen.symm
  refine ⟨fun hop => ?_, fun hop => ?_, fun hop => ?_, fun hop => ?_, fun hop => ?_, fun hop hplaced => ?_, fun hop hwaits => ?_,
    fun hop => ?_, fun hop => ?_, fun hop => ?_, fun hop => ?_⟩
  · exact ⟨_, congrArg Host.Outcome.next (hearVerb_ack hs h hop), rfl⟩
  · obtain ⟨a, ha⟩ := runs_of_brings hs h hop (by decide) (by decide)
    refine ⟨_, ha.next hop, a, ha.taken, rfl, fun hopen => ?_⟩
    exact state_openAckEffect ha.turned.canonical ((view_of_kept (f := Link.state) (h := ha.turned.link)).trans hopen) a.2
  · obtain ⟨a, ha⟩ := runs_of_brings hs h hop (by decide) (by decide)
    refine ⟨_, ha.next hop, a, ha.taken, rfl, ?_⟩
    rw [← hgen ha]
    exact closed_closeEffect ha.turned.canonical c
  · obtain ⟨a, ha⟩ := runs_of_brings hs h hop (by decide) (by decide)
    refine ⟨_, ha.next hop, a, ha.taken, rfl, ?_⟩
    rw [← hgen ha, linkGet_closeLink ha.turned.canonical]
    exact freeLink_gen _
  · obtain ⟨a, ha⟩ := runs_of_brings hs h hop (by decide) (by decide)
    exact ⟨_, ha.next hop, a, ha.taken, rfl⟩
  · have ha := runs_of_taken hs h hop (by decide) hplaced
    exact ⟨_, ha.next hop, rfl⟩
  · exact ⟨_, congrArg Host.Outcome.next (hearVerb_of_waiting hs h hop (by decide) hwaits), rfl⟩
  · obtain ⟨a, ha⟩ := runs_of_brings hs h hop (by decide) (by decide)
    exact ⟨_, ha.next hop, a, ha.taken, rfl⟩
  · obtain ⟨a, ha⟩ := runs_of_brings hs h hop (by decide) (by decide)
    exact ⟨_, ha.next hop, a, ha.taken, rfl⟩
  · obtain ⟨a, ha⟩ := runs_of_brings hs h hop (by decide) (by decide)
    exact ⟨_, ha.next hop, a, ha.taken, rfl⟩
  · obtain ⟨a, ha⟩ := runs_of_brings hs h hop (by decide) (by decide)
    exact ⟨_, ha.next hop, a, ha.taken, rfl⟩

end Sys2Proof.Machine
end

section
/-! Remote signals (R87, R97, R98): applied or rejected where they arrive, and what the rest of the frame leaves of the objects;
O31. -/

namespace Sys2Proof.Machine

variable {s t v : State} {e : Endpoint} {f : RxFrame} {m : RxMsg} {c : Fin 2048} {p : Fin 16}

/-! ### The objects after a frame of a settled partition -/

/-- Nothing in the partition waits, and no STOP HALT has stopped its timers. -/
structure Standing (x : Part) : Prop where
  settled : Settled x
  halted : x.halted = false

theorem Standing.of_steady {x y : Part} (h : Standing x) (hsteady : y.steady = x.steady) : Standing y :=
  ⟨h.settled.of_steady hsteady, (congrArg (fun z : Part => z.halted) hsteady : y.steady.halted = x.steady.halted).trans h.halted⟩

/-- A flight that needs to wait no more leaves its partition standing. -/
theorem Standing.setWait (h : Standing (s.part p)) (q : Fin 16) (t : StreamTag) (n : Nat) :
    Standing ((setWait s q t n .none).part p) := by
  by_cases hp : p = q
  · subst hp
    have hpart : (Machine.setWait s p t n .none).part p = (s.part p).setStream t
        { s.stream p t with flight := (s.stream p t).flight.map (fun f => if f.seq = n then { f with wait := .none } else f) } :=
      State.part_modPart_same s p _
    rw [hpart]
    refine ⟨⟨fun t' g hg => ?_, ?_⟩, ?_⟩
    · by_cases ht : t' = t
      · subst ht
        rw [Part.stream_setStream_same] at hg
        obtain ⟨e, he, rfl⟩ := List.mem_map.1 hg
        split
        · exact ⟨by simp, by simp⟩
        · exact h.settled.flights t' e he
      · rw [Part.stream_setStream_ne _ _ ht] at hg
        exact h.settled.flights t' g hg
    · cases t <;> exact h.settled.colls
    · cases t <;> exact h.halted
  · rw [Machine.setWait, State.modStream, State.setStream, State.part_modPart_ne _ _ hp]
    exact h

theorem Standing.noteAck (h : Standing (s.part p)) (e : Endpoint) (ack : Nat) : Standing ((noteAck s e ack).part p) := by
  have hset (u : State) (l : Link) (hu : Standing (u.part p)) : Standing ((linkSet u e l).part p) := by
    rw [State.part, parts_linkSet]
    exact hu
  have hfold (q : Fin 16) (ws : List LinkWait) (u : State) (hu : Standing (u.part p)) :
      Standing ((ws.foldl (fun s w => Machine.setWait s q w.stream w.seq .none) u).part p) := by
    induction ws generalizing u with
    | nil => exact hu
    | cons w ws ih => exact ih _ (hu.setWait q w.stream w.seq)
  unfold Machine.noteAck
  dsimp only
  split
  · exact hfold _ _ _ (hset _ _ (hset _ _ h))
  · exact hset _ _ h

theorem so_linkSet (s : State) (e : Endpoint) (l : Link) : (linkSet s e l).so = s.so := by cases e <;> rfl

theorem so_noteAck (s : State) (e : Endpoint) (ack : Nat) : (noteAck s e ack).so = s.so := by
  have hfold (q : Fin 16) (ws : List LinkWait) (u : State) :
      (ws.foldl (fun s w => setWait s q w.stream w.seq .none) u).so = u.so := by
    refine foldl_view State.so (fun v w => ?_) ws u
    rfl
  unfold noteAck
  dsimp only
  split
  · exact (hfold _ _ _).trans ((so_linkSet _ _ _).trans (so_linkSet _ _ _))
  · exact so_linkSet _ _ _

/-- In a partition where nothing waits, what follows the effect of a frame leaves the objects. -/
theorem so_afterFrame (h : Standing (v.part p)) (g : Nat) (e : Endpoint) (m : RxMsg) : (afterFrame g p e m v).so = v.so := by
  have hsettle {u : State} (hu : Standing (u.part p)) : (settleLink u e p).so = u.so := by
    cases e with
    | conn c => exact show (offCores (settle p u)).so = (offCores u).so from congrArg State.so (offCores_settle hu.settled hu.halted)
    | sess n => rfl
  have hack : (settleLink (if (linkGet v e).gen = g then noteAck v e m.ack else v) e p).so = v.so := by
    split
    · rw [hsettle (h.noteAck e m.ack), so_noteAck]
    · exact hsettle h
  unfold afterFrame
  dsimp only
  generalize settleLink (if (linkGet v e).gen = g then noteAck v e m.ack else v) e p = w at hack
  split
  · exact (view_of_offFrames (f := State.so) (h := offFrames_sendAck _ _)).trans hack
  · exact hack

/-! ### The effect of a signal -/

/-- The state of a signal's effect: its credit has returned (R97). -/
def credited (s : State) (e : Endpoint) : State := linkMod s e (fun l => { l with gotSig := (l.gotSig + 1) % 65536 })

theorem credited_canonical (hs : s.Canonical) (e : Endpoint) : (credited s e).Canonical := linkMod_canonical hs e _

theorem signalStatus_congr (h : t.parts = s.parts) (part rso : Nat) : signalStatus t part rso = signalStatus s part rso := by
  unfold signalStatus State.part
  rw [h]

theorem signalEffect_of_own (h : leAt m.ext 3 1 = (linkGet s e).part) : signalEffect s e m =
    if signalStatus s (leAt m.ext 3 1) (leAt m.ext 0 2) = 0 then
      applyRemote (credited s e) (leAt m.ext 0 2) (leAt m.ext 2 1) (leAt m.ext 4 4)
    else sendReject (credited s e) e m.psn (signalStatus s (leAt m.ext 3 1) (leAt m.ext 0 2)) (leAt m.ext 0 2) := by
  unfold signalEffect
  dsimp only
  rw [if_pos h]
  rfl

theorem steady_applyRemote (s : State) (rso rop amount : Nat) : steady (applyRemote s rso rop amount) = steady s := by
  unfold applyRemote
  split
  · exact steady_applySignal _ _ _ _
  · exact steady_applySignal _ _ _ _
  · rfl

theorem offSignals_applyRemote (s : State) (rso rop amount : Nat) : offSignals (applyRemote s rso rop amount) = offSignals s := by
  unfold applyRemote
  split
  · exact offSignals_applySignal _ _ _ _
  · exact offSignals_applySignal _ _ _ _
  · rfl

theorem soGet_applyRemote_ne (hs : s.Canonical) {i k : Nat} (h : i ≠ k) (rop amount : Nat) :
    soGet (applyRemote s k rop amount) i = soGet s i := by
  unfold applyRemote
  split
  · exact soGet_applySignal_ne hs _ _ h
  · exact soGet_applySignal_ne hs _ _ h
  · rfl

theorem linkGet_applyRemote (s : State) (rso rop amount : Nat) (e : Endpoint) :
    linkGet (applyRemote s rso rop amount) e = linkGet s e :=
  view_of_offSignals (f := fun u => linkGet u e) (hf := fun _ => by cases e <;> rfl) (h := offSignals_applyRemote s rso rop amount)

theorem gotSig_credited (hs : s.Canonical) (e : Endpoint) : (linkGet (credited s e) e).gotSig = ((linkGet s e).gotSig + 1) % 2 ^ 16 := by
  rw [credited, linkGet_linkMod_same hs]
  rfl

theorem gotSig_sendReject (hs : s.Canonical) (e : Endpoint) (psn status obj : Nat) :
    (linkGet (sendReject s e psn status obj) e).gotSig = (linkGet s e).gotSig := by
  unfold sendReject
  cases hlive : linkLive (linkGet s e) with
  | false => rw [sendFrame_of_not_live hlive]
  | true => exact (congrArg Link.gotSig (standing_sendFrame_of_live hs hlive _ _ _ _)).trans rfl

/-- Settles O31: the signal meets the objects as they stood, its credit has returned, and nothing that follows the effect in a
settled partition touches an object. -/
theorem remoteSignals : Obligations.RemoteSignals := by
  rintro s f c m k o e p hs rfl rfl h hop - rfl rfl hown
  obtain ⟨u, hu, hoff⟩ := atTurn_of_plain hs h (by omega) (by omega) (by omega)
  have hrun := runs_of_taken hs h hop (by decide) hu
  have hso : u.so = s.so := view_of_offFrames (f := State.so) (h := hoff)
  have hparts : u.parts = s.parts := view_of_offFrames (f := State.parts) (h := hoff)
  have hown' : leAt m.ext 3 1 = (linkGet u (.conn c)).part :=
    hown.trans (view_of_kept (f := Link.part) (h := hrun.turned.link)).symm
  have hgot : (linkGet u (.conn c)).gotSig = (linkGet s (.conn c)).gotSig := view_of_kept (f := Link.gotSig) (h := hrun.turned.link)
  have hcred : (credited u (.conn c)).Canonical := credited_canonical hrun.turned.canonical _
  have hcredso : (credited u (.conn c)).so = s.so := (so_linkSet _ _ _).trans hso
  have hcredget (i : Nat) : soGet (credited u (.conn c)) i = soGet s i := by rw [soGet, soGet, hcredso]
  have hsteady : steady (credited u (.conn c)) = steady s := steady_of_parts ((parts_linkSet _ _ _).trans hparts)
  have hstand {v : State} (hv : steady v = steady s) (hset : Settled (s.part (linkGet s (.conn c)).owner))
      (hhalt : (s.part (linkGet s (.conn c)).owner).halted = false) : Standing (v.part (linkGet s (.conn c)).owner) :=
    Standing.of_steady ⟨hset, hhalt⟩ (congrFun hv _)
  have heffect := signalEffect_of_own (s := u) (e := .conn c) (m := { m with st := 0 }) hown'
  rw [signalStatus_congr hparts] at heffect
  refine ⟨fun hok => ⟨_, hrun.next hop, _, rfl, ?_⟩, fun hbad => ⟨_, hrun.next hop, _, rfl, ?_⟩⟩
  · rw [if_pos hok] at heffect
    change (_ → soGet (signalEffect u (.conn c) { m with st := 0 }) _ = _) ∧
      (_ → soGet (signalEffect u (.conn c) { m with st := 0 }) _ = _) ∧
      (∀ i, _ → soGet (signalEffect u (.conn c) { m with st := 0 }) i = _) ∧
      (linkGet (signalEffect u (.conn c) { m with st := 0 }) _).gotSig = _ ∧
      (_ → _ → (afterFrame _ _ _ _ (signalEffect u (.conn c) { m with st := 0 })).so = (signalEffect u (.conn c) { m with st := 0 }).so)
    rw [heffect]
    refine ⟨fun hrop => ?_, fun hrop => ?_, fun i hi => ?_, ?_, fun hset hhalt => ?_⟩
    · rw [hrop]
      exact (soGet_applySignal_same hcred _ _ _).trans (congrArg (fun x : SyncObj => x.apply .add _) (hcredget _))
    · rw [hrop]
      exact (soGet_applySignal_same hcred _ _ _).trans (congrArg (fun x : SyncObj => x.apply .set _) (hcredget _))
    · rw [soGet_applyRemote_ne hcred hi, hcredget]
    · rw [linkGet_applyRemote, gotSig_credited hrun.turned.canonical, hgot]
    · exact so_afterFrame (hstand ((steady_applyRemote _ _ _ _).trans hsteady) hset hhalt) _ _ _
  · rw [if_neg hbad] at heffect
    change (signalEffect u (.conn c) { m with st := 0 }).so = _ ∧
      (linkGet (signalEffect u (.conn c) { m with st := 0 }) _).gotSig = _ ∧
      (_ → _ → (afterFrame _ _ _ _ (signalEffect u (.conn c) { m with st := 0 })).so = (signalEffect u (.conn c) { m with st := 0 }).so)
    rw [heffect]
    refine ⟨?_, ?_, fun hset hhalt => ?_⟩
    · exact (view_of_offFrames (f := State.so) (h := offFrames_sendFrame _ _ _ _ _ _)).trans hcredso
    · rw [gotSig_sendReject hcred, gotSig_credited hrun.turned.canonical, hgot]
    · exact so_afterFrame (hstand ((steady_of_parts (view_of_offFrames (f := State.parts) (h := offFrames_sendFrame _ _ _ _ _ _))).trans
        hsteady) hset hhalt) _ _ _

end Sys2Proof.Machine
end

section
/-! Verbs of host sessions (R98, R321, R341, R361, R368, R369, R464, R473): a whole verb that its session may send has its one
effect; O32. -/

namespace Sys2Proof.Machine

variable {s t u : State} {f : RxFrame} {n : Fin 64} {m : RxMsg} {v : PartialMsg}

/-! ### The message of a verb in one frame -/

theorem linkSet_linkSet (hs : s.Canonical) (e : Endpoint) (l k : Link) : linkSet (linkSet s e l) e k = linkSet s e k := by
  have hset {m : Sparse Link} (hm : Sparse.wf Link.free m = true) (i : Nat) :
      Sparse.set Link.free (Sparse.set Link.free m i l) i k = Sparse.set Link.free m i k := by
    refine Sparse.ext (Sparse.set_wf _ _ (Sparse.set_wf _ _ hm)) (Sparse.set_wf _ _ hm) (fun j => ?_)
    rw [Sparse.get_set _ _ (Sparse.set_wf _ _ hm), Sparse.get_set _ _ hm, Sparse.get_set _ _ hm]
    split <;> rfl
  cases e with
  | conn c => exact congrArg (fun x => { s with conns := x }) (hset hs.conns c.val)
  | sess n => exact congrArg (fun x => { s with sess := x }) (hset hs.sess n.val)

theorem linkMod_linkMod (hs : s.Canonical) (e : Endpoint) (g k : Link → Link) :
    linkMod (linkMod s e g) e k = linkMod s e (fun l => k (g l)) := by
  rw [linkMod, linkGet_linkMod_same hs, linkMod, linkSet_linkSet hs]
  rfl

/-- A first frame begins its message, whatever the session kept. -/
theorem joinMsg_of_first (h : m.flags.testBit 0 = true) (old : Option PartialMsg) : joinMsg old m = joinMsg none m := by
  cases old with
  | none => rfl
  | some v =>
    unfold joinMsg
    dsimp only
    rw [h]
    rfl

/-- The session as a whole verb finds it: no part of the message is kept, and a SIGNAL is counted. -/
def turnedVerb (s : State) (n : Fin 64) (m : RxMsg) : State :=
  linkMod s (.sess n) (fun l => { l with msg := none, gotSig := if m.op = 0x13 then (l.gotSig + 1) % 65536 else l.gotSig })

theorem sessionEffect_of_whole (hs : s.Canonical) (hfirst : m.flags.testBit 0 = true) (hlast : m.flags.testBit 1 = true)
    (hopen : m.op ≠ 0x03) (hclose : m.op ≠ 0x04) (hclosed : m.op ≠ 0x05) (hreject : m.op ≠ 0x18) :
    sessionEffect s n m = sessionVerb (turnedVerb s n m) n (joinMsg none m) := by
  have hbegun : linkMod (if m.op = 0x13 then linkMod s (.sess n) (fun l => { l with gotSig := (l.gotSig + 1) % 65536 }) else s)
      (.sess n) (fun l => { l with msg := none }) = turnedVerb s n m := by
    unfold turnedVerb
    by_cases hsig : m.op = 0x13
    · simp only [if_pos hsig]
      exact linkMod_linkMod hs _ _ _
    · simp only [if_neg hsig]
  unfold sessionEffect
  split
  · contradiction
  · contradiction
  · contradiction
  · contradiction
  · dsimp only
    rw [if_pos hlast, joinMsg_of_first hfirst, hbegun]

/-! ### Who may send a verb -/

theorem verbDenied_congr {v w : PartialMsg} (hlevel : (linkGet t (.sess n)).level = (linkGet s (.sess n)).level)
    (hmode : mgmtOnly t (linkGet t (.sess n)).port = mgmtOnly s (linkGet s (.sess n)).port) (hop : v.op = w.op) (hext : v.ext = w.ext)
    (hpayload : w.op ≠ 0x10 → v.payload = w.payload) : verbDenied t n v = verbDenied s n w := by
  unfold verbDenied
  dsimp only
  rw [hlevel, hmode, hop, hext]
  by_cases hwrite : w.op = 0x10
  · rw [hwrite]
    rfl
  · rw [hpayload hwrite]

/-- The verbs that Table 14-6 lets someone send are those of sessions alone. -/
theorem op_of_allowed (h : verbDenied s n v = false) : v.op ≠ 0x01 ∧ v.op ≠ 0x03 ∧ v.op ≠ 0x04 ∧ v.op ≠ 0x05 ∧ v.op ≠ 0x18 := by
  have hno {op : Nat} (hdenied : v.op = op → verbDenied s n v = true) : v.op ≠ op := fun hop => by
    rw [hdenied hop] at h
    cases h
  refine ⟨hno fun hop => ?_, hno fun hop => ?_, hno fun hop => ?_, hno fun hop => ?_, hno fun hop => ?_⟩ <;>
  · unfold verbDenied
    rw [hop]
    rfl

/-! ### The effect of a verb -/

/-- The effect of a verb that is no job verb. -/
def plainVerb (s : State) (n : Fin 64) (v : PartialMsg) (op : Nat) : State :=
  let e := Endpoint.sess n
  match op with
  | 0x10 => sendStatus s e v.psn v.status
  | 0x11 => hostReadVerb s n v
  | 0x13 => hostSignal s n v
  | 0x24 => dumpReadVerb s n v
  | 0x25 =>
    let r := connSet s v.payload.flatten (hideMask (linkGet s e).key "CONN-SECRET" v.psn)
    sendStatus r.1 e v.psn r.2
  | 0x26 =>
    let r := commSet s v.payload.flatten
    sendStatus r.1 e v.psn r.2
  | _ =>
    frameAccesses s n { op := v.op, flags := 0, dconn := 0, dgen := 0, psn := v.psn, ack := 0, climit := 0, slimit := 0,
                        sack := 0, ext := v.ext, payload := v.payload, st := 0 }

/-- The effect of a whole verb that its session may send. -/
def allowedVerb (s : State) (n : Fin 64) (v : PartialMsg) : State :=
  match jobOf (linkGet s (.sess n)).key v.payload.flatten v with
  | some j => jobVerb s n v.psn j.1 j.2
  | none => plainVerb s n v v.op

theorem sessionVerb_of_allowed (h : verbDenied s n v = false) : sessionVerb s n v = allowedVerb s n v := by
  unfold sessionVerb
  dsimp only
  rw [h, if_neg Bool.false_ne_true]
  rfl

theorem verbTurn_eq (s : State) (f : RxFrame) (n : Fin 64) (m : RxMsg) :
    verbTurn s f n m = (atTurn s f (.sess n) m).map (fun a => (turnedVerb a.1 n m, joinMsg none a.2)) := rfl

theorem joinMsg_none (m : RxMsg) (st : Nat) : joinMsg none { m with st := st } =
    { op := m.op, psn := m.psn, status := st, ext := m.ext, payload := if m.op = 0x10 then [] else m.payload } := rfl

/-- A link but for what the arrival of a whole verb changes of it. -/
def Link.spoken (l : Link) : Link := { l.kept with msg := none, gotSig := 0 }

theorem view_of_spoken {α : Type} {f : Link → α} (hf : ∀ l : Link, f l.spoken = f l := by exact fun _ => rfl) {l k : Link}
    (h : l.spoken = k.spoken) : f l = f k := by rw [← hf l, h, hf]

/-- What the turn of a whole verb gives: the state of its effect, and the verb as its message spells it. -/
structure VerbRuns (s : State) (n : Fin 64) (m : RxMsg) (u : State) (v : PartialMsg) : Prop where
  canonical : u.Canonical
  link : (linkGet u (.sess n)).spoken = (linkGet s (.sess n)).spoken
  books : firstBooks u = firstBooks s
  ports : u.ports = s.ports
  spells : ∃ st, v = { op := m.op, psn := m.psn, status := st, ext := m.ext, payload := if m.op = 0x10 then [] else m.payload }

theorem verbRuns_of_turn (hs : s.Canonical) (h : verbTurn s f n m = some (u, v)) : VerbRuns s n m u v ∧
    ∃ a, atTurn s f (.sess n) m = some a ∧ u = turnedVerb a.1 n m ∧ v = joinMsg none a.2 := by
  rw [verbTurn_eq] at h
  obtain ⟨a, ha, heq⟩ := Option.map_eq_some_iff.1 h
  cases heq
  obtain ⟨hturn, st, hmsg⟩ := turned_of_atTurn hs ha
  refine ⟨⟨linkMod_canonical hturn.canonical _ _, ?_, ?_, ?_, st, ?_⟩, a, ha, rfl, rfl⟩
  · rw [turnedVerb, linkGet_linkMod_same hturn.canonical]
    exact congrArg (fun l : Link => { l with msg := none, gotSig := 0 }) hturn.link
  · exact (firstBooks_linkSet _ _ _).trans hturn.books
  · exact (ports_linkSet _ _ _).trans hturn.ports
  · rw [hmsg]
    rfl

/-- A whole verb in its turn has its one effect. -/
theorem hear_of_verb (hs : s.Canonical) {mine : RxMsg → Bool} (h : WholeVerb s f n m) (hmine : mine m = true)
    (hv : verbTurn s f n m = some (u, v)) :
    hear f mine s = afterFrame m.dgen (linkGet s (.sess n)).owner (.sess n) m (allowedVerb u n v) := by
  obtain ⟨hack, hopen, hclose, hclosed, hreject⟩ := op_of_allowed h.allowed
  obtain ⟨hrun, a, ha, rfl, rfl⟩ := verbRuns_of_turn hs hv
  obtain ⟨hturn, st, hmsg⟩ := turned_of_atTurn hs ha
  have hlevel : (linkGet (turnedVerb a.1 n m) (.sess n)).level = (linkGet s (.sess n)).level :=
    view_of_spoken (f := Link.level) (h := hrun.link)
  have hport : (linkGet (turnedVerb a.1 n m) (.sess n)).port = (linkGet s (.sess n)).port :=
    view_of_spoken (f := Link.port) (h := hrun.link)
  have hallowed : verbDenied (turnedVerb a.1 n m) n (joinMsg none a.2) = false := by
    rw [hmsg, ← h.allowed]
    refine verbDenied_congr hlevel ?_ rfl rfl (fun hwrite => if_neg hwrite)
    rw [hport, mgmtOnly_congr hs hrun.canonical hrun.books hrun.ports]
  rw [hear_of_turn hs h.brings hmine hack, ha]
  dsimp only
  have heffect : frameEffect a.1 (.sess n) a.2 = sessionVerb (turnedVerb a.1 n m) n (joinMsg none a.2) := by
    rw [hmsg]
    exact sessionEffect_of_whole hturn.canonical h.first h.last hopen hclose hclosed hreject
  rw [heffect, sessionVerb_of_allowed hallowed]

/-- The exec of a row whose whole verb is no job verb. -/
theorem hearVerb_of_verb (hs : s.Canonical) {op : Nat} (h : WholeVerb s f n m) (hop : m.op = op)
    (hv : verbTurn s f n m = some (u, v)) (hjob : ∀ key bytes, jobOf key bytes v = none) : hearVerb op f s =
      afterFrame m.dgen (linkGet s (.sess n)).owner (.sess n) m (plainVerb u n v op) := by
  obtain ⟨st, rfl⟩ := (verbRuns_of_turn hs hv).1.spells
  rw [hearVerb, hear_of_verb hs h (rowTakes_of_op hop) hv, allowedVerb, hjob, hop]

/-- Settles O32: each row is the effect of its verb on the state of its turn. -/
theorem sessionVerbs : Obligations.SessionVerbs := by
  rintro s f n m u v e p bs hs h hv rfl rfl rfl
  obtain ⟨st, rfl⟩ := (verbRuns_of_turn hs hv).1.spells
  have hnext {op : Nat} (hop : m.op = op) (hjob : ∀ key bytes, jobOf key bytes
      { op := m.op, psn := m.psn, status := st, ext := m.ext, payload := if m.op = 0x10 then [] else m.payload } = none) :=
    congrArg (Host.Outcome.next : State → Host.Outcome State Fault Refusal) (hearVerb_of_verb hs h hop hv hjob)
  have haccess {op : Nat} (hop : m.op = op) (hwrite : op ≠ 0x10) : (if m.op = 0x10 then [] else m.payload) = m.payload :=
    if_neg (hop ▸ hwrite)
  refine ⟨fun hop => ⟨_, hnext hop (fun _ _ => ?_), rfl⟩, fun hop => ⟨_, hnext hop (fun _ _ => ?_), rfl⟩,
    fun hop => ⟨_, hnext hop (fun _ _ => ?_), rfl⟩, fun hop => ⟨_, hnext hop (fun _ _ => ?_), rfl⟩,
    fun hop => ⟨_, hnext hop (fun _ _ => ?_), rfl⟩, fun hop => ⟨_, hnext hop (fun _ _ => ?_), rfl⟩,
    fun hop => ⟨_, hnext hop (fun _ _ => ?_), ?_⟩, fun hop => ⟨_, hnext hop (fun _ _ => ?_), ?_⟩,
    fun hop => ⟨_, hnext hop (fun _ _ => ?_), ?_⟩⟩
  case refine_8 => rw [haccess hop (by decide)]; rfl
  case refine_10 => rw [haccess hop (by decide)]; rfl
  case refine_12 => rw [haccess hop (by decide)]; rfl
  all_goals simp only [jobOf, hop]

end Sys2Proof.Machine
end

section
/-! OPEN of hosts and of peers (R39, R361, R394, R395); O35. -/

namespace Sys2Proof.Machine

variable {s t u : State} {e : Endpoint} {f : RxFrame} {m : RxMsg} {code : Nat}

/-! ### The arrival of an OPEN -/

/-- The registers that give MAX_LEN: FB_CFG and HP_CFG. -/
def lenRegs (a : Nat) : Bool := decide (a = 0xB0000000) || decide (a = 0xC0000000)

theorem portBase_ge {i : Nat} (hi : i < 20) : 0xB0000100 ≤ portBase i ∧ (portBase i < 0xB0001000 ∨ 0xC0000200 ≤ portBase i) := by
  unfold portBase
  split <;> omega

theorem lenRegs_port {i k : Nat} (hi : i < 20) (hk : k < 0x1000) : lenRegs (portBase i + k) = false := by
  have := portBase_ge hi
  unfold lenRegs
  rw [decide_eq_false (by omega), decide_eq_false (by omega), Bool.or_false]

theorem booksIn_lenRegs_countPort (s : State) (code n : Nat) {j : Nat} (hj : j < 16) :
    booksIn lenRegs (countPort s code j n) = booksIn lenRegs s := by
  unfold countPort
  split
  · next h =>
    have hi := portOfCode_lt h
    refine booksIn_bump ?_ (fun o ho => ?_) s n
    · rw [Nat.add_assoc]
      exact lenRegs_port hi (by omega)
    · cases ho
      exact lenRegs_port hi (by decide)
  · rfl

theorem portMaxLen_countRx (hs : s.Canonical) (f : RxFrame) : portMaxLen (countRx s code f) code = portMaxLen s code := by
  have hbooks : booksIn lenRegs (countRx s code f) = booksIn lenRegs s := by
    unfold countRx
    rw [booksIn_lenRegs_countPort _ _ _ (by decide), booksIn_lenRegs_countPort _ _ _ (by decide),
      booksIn_lenRegs_countPort _ _ _ (by decide), booksIn_lenRegs_countPort _ _ _ (by decide)]
  have hcan := (countRx_kept (.refl s) code f).canonical hs
  unfold portMaxLen
  rw [rawReg_of_booksIn hs hcan hbooks (by decide), rawReg_of_booksIn hs hcan hbooks (by decide)]

/-- An OPEN that a port takes, whole and not longer than the port's frames, reaches its host or its peer. -/
theorem hear_open (hs : s.Canonical) {gs : List (List Byte)} (hcode : code = codeOfPort f.port.val) (hcarries : portCarries s code = true)
    (hfcs : f.fcsOk = true) (hhead : headOk s code f.head = true) (hgs : frameGranules f.granules = some (gs, 0)) (hm : m = msgOf gs)
    (hversion : leAt (gs.headD []) 0 1 = 1) (hconn : m.dconn = 0xFFF) (hop : m.op = 0x02) (hlen : m.payload.length ≤ portMaxLen s code) :
    hearVerb 0x02 f s = if (helloOf m.ext).session then openSession (countRx s code f) code m (helloOf m.ext)
      else if mgmtOnly (countRx s code f) code then rejectOpen (countRx s code f) (helloOf m.ext) code m.psn 1
      else match respondent (countRx s code f) code (helloOf m.ext) with
        | none => countRx s code f
        | some e => if (linkGet (countRx s code f) e).authFull && !tagged (linkGet (countRx s code f) e).key gs m then
            countPort (countRx s code f) code 8 1 else openLink (countRx s code f) e m (helloOf m.ext) := by
  unfold hearVerb hear
  dsimp only
  rw [← hcode, hcarries, hfcs, hhead, hgs]
  dsimp only
  rw [← hm, rowTakes_of_op hop]
  simp only [Bool.not_true, Bool.false_eq_true, if_false, Nat.lt_irrefl]
  unfold hearMsg
  rw [if_neg (not_not_intro hversion), if_pos ⟨hconn, hop⟩]
  unfold hearOpen
  dsimp only
  rw [portMaxLen_countRx hs, if_neg (Nat.not_lt.2 hlen)] <;> rfl

/-! ### The link that answers -/

/-- A link but for what a frame that it sends changes of it. -/
def Link.sent (l : Link) : Link := { l.standing with psnTx := 0 }

theorem view_of_sent {α : Type} {f : Link → α} (hf : ∀ l : Link, f l.sent = f l := by exact fun _ => rfl) {l k : Link}
    (h : l.sent = k.sent) : f l = f k := by rw [← hf l, h, hf]

theorem sent_sendFrame (hs : s.Canonical) (e : Endpoint) (op flags : Nat) (ext : Option (List Byte)) (payload : List (List Byte)) :
    (linkGet (sendFrame s e op flags ext payload) e).sent = (linkGet s e).sent := by
  cases hlive : linkLive (linkGet s e) with
  | false => rw [sendFrame_of_not_live hlive]
  | true => exact congrArg (fun l : Link => { l with psnTx := 0 }) (standing_sendFrame_of_live hs hlive op flags ext payload)

/-- A link set to answer an OPEN stands as it was set, and the rest of the state but the links and the wire as it was. -/
theorem opened_sendOpenAck (hs : s.Canonical) (e : Endpoint) (l : Link) (tag : List Byte) :
    (linkGet (sendOpenAck (linkSet s e l) e tag) e).sent = l.sent ∧
    offFrames (sendOpenAck (linkSet s e l) e tag) = offFrames s := by
  unfold sendOpenAck
  refine ⟨?_, ?_⟩
  · rw [sent_sendFrame (linkSet_canonical hs e l), linkGet_linkSet_same hs]
  · rw [offFrames_sendFrame, offFrames_linkSet]

/-! ### A host opens a session -/

/-- The session n as an OPEN of a host under the credential c sets it. -/
def hostLink (l : Link) (c nd : List Byte) (code len : Nat) (m : RxMsg) (h : Hello) : Link :=
  takePeer { l with
    state := .opening, level := if h.a = 0 then .owner else .tenant (Fin.ofNat 16 h.b), part := h.b, port := code,
    key := sessionKey c h.a h.b h.nonce nd, nonceOwn := nd, psnRx := (m.psn + 1) % psnMod, peerClimit := m.climit,
    peerSlimit := m.slimit } h len h.nonce

/-- The state in which the session is set: what an earlier one captured is forgotten, and a nonce is drawn. -/
def drawn (s : State) : State := { s with freeCount := s.freeCount + 1 }

theorem drawn_canonical (hs : s.Canonical) : (drawn s).Canonical := { hs with }

theorem linkGet_forgetCaptures (s : State) (n : Fin 64) (e : Endpoint) : linkGet (drawn (forgetCaptures s n)) e = linkGet s e := by
  cases e <;> rfl

theorem openSession_of_free {c : List Byte} {n : Fin 64} {h : Hello} (hcred : sessionCredential s h.a h.b = some c)
    (hopening : ∀ e ∈ s.sess, e.2.state ≠ .opening) (hfree : freeSession s = some n) :
    openSession s code m h = sendOpenAck (linkSet (drawn (forgetCaptures s n)) (.sess n)
      (hostLink (linkGet s (.sess n)) c (slice (Config.nonce s.freeCount) 0 16) code (portMaxLen s code) m h)) (.sess n)
      (hmac384 (sessionKey c h.a h.b h.nonce (slice (Config.nonce s.freeCount) 0 16)) (ascii "B7")) := by
  have hagain : (s.sess.any (fun e => e.2.state = .opening && e.2.noncePeer = h.nonce && decide (e.2.port = code)) ||
      decide (16 ≤ openingSessions s)) = false := by
    have hnone : s.sess.filter (fun e => e.2.state = .opening) = [] :=
      List.filter_eq_nil_iff.2 (fun e he => by simpa using hopening e he)
    rw [openingSessions, hnone, Bool.or_eq_false_iff]
    refine ⟨?_, rfl⟩
    rw [List.any_eq_false]
    intro e he
    rw [decide_eq_false (hopening e he)]
    simp
  unfold openSession
  rw [hcred]
  dsimp only
  rw [hagain, if_neg Bool.false_ne_true, hfree]
  rfl

theorem hostLink_sent {l k : Link} {c nd : List Byte} {len : Nat} {h : Hello} (hk : k.sent = (hostLink l c nd code len m h).sent) :
    k.state = .opening ∧ k.port = code ∧ k.key = sessionKey c h.a h.b h.nonce nd ∧
    k.level = (if h.a = 0 then .owner else .tenant (Fin.ofNat 16 h.b)) ∧ k.psnRx = (m.psn + 1) % 2 ^ 32 :=
  ⟨view_of_sent (f := Link.state) (h := hk), view_of_sent (f := Link.port) (h := hk), view_of_sent (f := Link.key) (h := hk),
    view_of_sent (f := Link.level) (h := hk), view_of_sent (f := Link.psnRx) (h := hk)⟩

/-! ### A peer opens a connection -/

/-- A connection as the OPEN of its peer sets it. -/
def peerLink (l : Link) (nd : List Byte) (len : Nat) (m : RxMsg) (h : Hello) : Link :=
  takePeer { l with nonceOwn := nd, psnRx := (m.psn + 1) % psnMod, peerClimit := m.climit, peerSlimit := m.slimit } h len h.nonce

theorem openLink_eq (s : State) (e : Endpoint) (m : RxMsg) (h : Hello) : ∃ len tag, openLink s e m h =
    sendOpenAck (linkSet (drawn s) e (peerLink (linkGet s e) (slice (Config.nonce s.freeCount) 0 16) len m h)) e tag := by
  cases e with
  | conn c => exact ⟨_, _, rfl⟩
  | sess n => exact ⟨_, _, rfl⟩

theorem peerLink_sent {l k : Link} {nd : List Byte} {len : Nat} {h : Hello} (hk : k.sent = (peerLink l nd len m h).sent) :
    k.state = l.state ∧ k.key = l.key ∧ k.nonceOwn = nd ∧ k.noncePeer = h.nonce ∧ k.peerIdx = h.idx ∧ k.peerGen = h.gen ∧
    k.psnRx = (m.psn + 1) % 2 ^ 32 :=
  ⟨show k.state = (peerLink l nd len m h).state from view_of_sent (f := Link.state) (h := hk),
    show k.key = (peerLink l nd len m h).key from view_of_sent (f := Link.key) (h := hk), view_of_sent (f := Link.nonceOwn) (h := hk),
    view_of_sent (f := Link.noncePeer) (h := hk), view_of_sent (f := Link.peerIdx) (h := hk), view_of_sent (f := Link.peerGen) (h := hk),
    view_of_sent (f := Link.psnRx) (h := hk)⟩

/-- Settles O35: the counts of the arrival touch nothing that the OPEN reads, and the answer keeps the link as the OPEN set it. -/
theorem sessionOpens : Obligations.SessionOpens := by
  rintro s f gs m h c nd n e code hs hcode hcarries hfcs hhead hgs hm hversion hconn hop rfl hlen rfl
  have hcan := (countRx_kept (.refl s) code f).canonical hs
  have htallies := offTallies_countRx s code f
  have hrx {α : Type} (g : State → α) (hg : ∀ s, g (offTallies s) = g s) : g (countRx s code f) = g s :=
    view_of_offTallies (f := g) (hf := hg) htallies
  have hopen := hear_open hs hcode hcarries hfcs hhead hgs hm hversion hconn hop hlen
  refine ⟨fun hsess hcred hopening hfree => ?_, fun hsess hmode hresp htag => ?_⟩
  · rw [if_pos hsess, openSession_of_free ((hrx (fun u => sessionCredential u _ _) (fun _ => rfl)).trans hcred)
      (by rw [hrx State.sess (fun _ => rfl)]; exact hopening) ((hrx freeSession (fun _ => rfl)).trans hfree)] at hopen
    obtain ⟨hlink, hoff⟩ := opened_sendOpenAck (drawn_canonical ((forgetCaptures_kept (.refl _) n).canonical hcan)) (.sess n)
      (hostLink (linkGet (countRx s code f) (.sess n)) c (slice (Config.nonce (countRx s code f).freeCount) 0 16) code
        (portMaxLen (countRx s code f) code) m (helloOf m.ext))
      (hmac384 (sessionKey c (helloOf m.ext).a (helloOf m.ext).b (helloOf m.ext).nonce
        (slice (Config.nonce (countRx s code f).freeCount) 0 16)) (ascii "B7"))
    obtain ⟨hstate, hport, hkey, hlevel, hpsn⟩ := hostLink_sent hlink
    refine ⟨_, congrArg Host.Outcome.next hopen, hstate, hport, hkey.trans ?_, hlevel, hpsn, ?_, ?_⟩
    · rw [hrx State.freeCount (fun _ => rfl)]
      rfl
    · exact (view_of_offFrames (f := State.freeCount) (h := hoff)).trans (congrArg (· + 1) (hrx State.freeCount (fun _ => rfl)))
    · exact (view_of_offFrames (f := State.parts) (h := hoff)).trans (hrx State.parts (fun _ => rfl))
  · have hmode' : mgmtOnly (countRx s code f) code = false :=
      (mgmtOnly_congr hs hcan (firstBooks_countRx s code f) (hrx State.ports (fun _ => rfl)) code).trans hmode
    have hresp' : respondent (countRx s code f) code (helloOf m.ext) = some e :=
      (hrx (fun u => respondent u code (helloOf m.ext)) (fun _ => rfl)).trans hresp
    have hlinkrx := linkGet_countRx s code f e
    have htag' : ((linkGet (countRx s code f) e).authFull && !tagged (linkGet (countRx s code f) e).key gs m) = false := by
      rw [hlinkrx]
      cases hfull : (linkGet s e).authFull
      · rfl
      · rw [htag hfull]
        rfl
    obtain ⟨len, tag, heq⟩ := openLink_eq (countRx s code f) e m (helloOf m.ext)
    rw [hsess, if_neg Bool.false_ne_true, hmode', if_neg Bool.false_ne_true, hresp'] at hopen
    dsimp only at hopen
    rw [htag', if_neg Bool.false_ne_true, heq] at hopen
    obtain ⟨hlink, hoff⟩ := opened_sendOpenAck (drawn_canonical hcan) e
      (peerLink (linkGet (countRx s code f) e) (slice (Config.nonce (countRx s code f).freeCount) 0 16) len m (helloOf m.ext)) tag
    obtain ⟨hstate, hkey, hown, hpeer, hidx, hgen, hpsn⟩ := peerLink_sent hlink
    refine ⟨_, congrArg Host.Outcome.next hopen, by rw [hstate, hlinkrx], by rw [hkey, hlinkrx], ?_, hpeer, hidx, hgen, hpsn, ?_, ?_⟩
    · rw [hown, hrx State.freeCount (fun _ => rfl)]
    · exact (view_of_offFrames (f := State.freeCount) (h := hoff)).trans (congrArg (· + 1) (hrx State.freeCount (fun _ => rfl)))
    · exact (view_of_offFrames (f := State.parts) (h := hoff)).trans (hrx State.parts (fun _ => rfl))

end Sys2Proof.Machine
end

section
/-! The ends of job verbs (R39, R41, R44, R48, R49); O34. -/

namespace Sys2Proof.Machine

variable {s t : State} {p : Fin 16}

/-! ### Answers -/

theorem offFrames_answer (s : State) (r : ReplyTo) (status : Nat) : offFrames (answer s r status) = offFrames s := by
  unfold answer
  split
  · exact offFrames_sendFrame _ _ _ _ _ _
  · rfl

/-- The verb being carried out, where there is one, is answered OK. -/
def answered (o : Option VerbReq) (s : State) : State :=
  match o with
  | some v => answer s v.reply 0
  | none => s

theorem offFrames_answered (o : Option VerbReq) (s : State) : offFrames (answered o s) = offFrames s := by
  cases o with
  | none => rfl
  | some v => exact offFrames_answer s _ _

theorem part_answered (o : Option VerbReq) (s : State) (p : Fin 16) : (answered o s).part p = s.part p :=
  view_of_offFrames (f := fun u => u.part p) (h := offFrames_answered o s)

/-! ### Frames zeroed -/

theorem zeroFrames_canonical (hs : s.Canonical) (ids : List Nat) : (ids.foldl zeroFrame s).Canonical :=
  (Kept.foldl (.refl s) (fun _ id hv => zeroFrame_kept hv id)).canonical hs

theorem get_zeroFrame (hs : s.Canonical) (id a : Nat) : Sparse.get 0#8 (zeroFrame s id).mem a =
    if a < id * frameBytes ∨ id * frameBytes + frameBytes ≤ a then Sparse.get 0#8 s.mem a else 0#8 :=
  Sparse.get_clearRange _ _ hs.mem a

/-- A byte that reads 0 does so after more frames are zeroed. -/
theorem get_zeroFrames_of_zero (hs : s.Canonical) {a : Nat} (h : Sparse.get 0#8 s.mem a = 0#8) (ids : List Nat) :
    Sparse.get 0#8 (ids.foldl zeroFrame s).mem a = 0#8 := by
  induction ids generalizing s with
  | nil => exact h
  | cons id ids ih =>
    refine ih ((zeroFrame_kept (.refl s) id).canonical hs) ?_
    rw [get_zeroFrame hs, h, ite_self]

theorem get_zeroFrames (hs : s.Canonical) {id ofs : Nat} {ids : List Nat} (hid : id ∈ ids) (hofs : ofs < frameBytes) :
    Sparse.get 0#8 (ids.foldl zeroFrame s).mem (id * frameBytes + ofs) = 0#8 := by
  induction ids generalizing s with
  | nil => cases hid
  | cons j ids ih =>
    have hj := (zeroFrame_kept (.refl s) j).canonical hs
    rcases List.mem_cons.1 hid with rfl | hid
    · exact get_zeroFrames_of_zero hj (by rw [get_zeroFrame hs, if_neg (by omega)]) ids
    · exact ih hj hid

/-! ### ADMIT ends -/

/-- The partition as its ADMIT's record gives it: its credential and its layers. -/
def Part.recordTaken (x : Part) : Part :=
  startLayers (match x.active.map VerbReq.verb with
    | some (.admission r) => { x with credential := r.credential, layerTable := r.layers }
    | _ => x)

/-- The partition once its ADMIT is done. -/
def Part.admitted (x : Part) : Part :=
  { x.recordTaken with admitting := false, state := .admitted, job := Job.none, comms := [], active := none }

/-- The state in which the frames of an ADMIT are zero, and its slots, objects and registers reset. -/
def admitCleared (s : State) (p : Fin 16) : State :=
  let s := (s.part p).mem.pages.foldl zeroFrame s
  clearPartRegs (clearScaleSlots (resetObjects s p false) (s.part p)) p

theorem finishAdmit_eq (s : State) (p : Fin 16) : finishAdmit s p =
    answered ((admitCleared s p).part p).recordTaken.active ((admitCleared s p).setPart p ((admitCleared s p).part p).admitted) := rfl

/-- The partitions and the shelves' bytes. -/
def partsMem (s : State) : Vector Part 16 × Sparse Byte := (s.parts, s.mem)

theorem partsMem_resetObjects (s : State) (p : Fin 16) (rise : Bool) : partsMem (resetObjects s p rise) = partsMem s := by
  refine foldl_view partsMem (fun u i => ?_) _ s
  rfl

theorem parts_zeroFrames (ids : List Nat) (s : State) : (ids.foldl zeroFrame s).parts = s.parts := by
  refine foldl_view State.parts (fun u i => ?_) ids s
  rfl

theorem partsMem_clearPartRegs (s : State) (x : Part) (p : Fin 16) : partsMem (clearPartRegs (clearScaleSlots s x) p) = partsMem s := rfl

theorem partsMem_admitCleared (s : State) (p : Fin 16) :
    partsMem (admitCleared s p) = (s.parts, ((s.part p).mem.pages.foldl zeroFrame s).mem) := by
  unfold admitCleared
  dsimp only
  rw [partsMem_clearPartRegs, partsMem_resetObjects, partsMem, parts_zeroFrames]

theorem part_admitCleared (s : State) (p : Fin 16) : (admitCleared s p).part p = s.part p := by
  have hparts : (admitCleared s p).parts = s.parts := congrArg Prod.fst (partsMem_admitCleared s p)
  rw [State.part, hparts, State.part]

theorem mem_admitCleared (s : State) (p : Fin 16) : (admitCleared s p).mem = ((s.part p).mem.pages.foldl zeroFrame s).mem :=
  congrArg Prod.snd (partsMem_admitCleared s p)

theorem part_finishAdmit (s : State) (p : Fin 16) : (finishAdmit s p).part p = (s.part p).admitted := by
  rw [finishAdmit_eq, part_answered, State.part_setPart_same, part_admitCleared]

theorem mem_setPart (s : State) (p : Fin 16) (x : Part) : (s.setPart p x).mem = s.mem := rfl

theorem mem_finishAdmit (s : State) (p : Fin 16) : (finishAdmit s p).mem = ((s.part p).mem.pages.foldl zeroFrame s).mem := by
  rw [finishAdmit_eq, view_of_offFrames (f := State.mem) (h := offFrames_answered _ _), mem_setPart, mem_admitCleared]

theorem Part.admitted_of_active {x : Part} {v : VerbReq} {r : AdmitRecord} (hv : x.active = some v) (hr : v.verb = .admission r) :
    x.admitted.credential = r.credential ∧ x.admitted.layerTable = r.layers := by
  unfold Part.admitted Part.recordTaken
  rw [hv, Option.map_some, hr]
  exact ⟨rfl, rfl⟩

/-! ### STOP ends -/

theorem exec_stopDone (hstate : (s.part p).state = .stopping) (hstop : streamsStopped (s.part p) = true) :
    exec (.stopDone p) s = .next (answerStop (s.setPart p { s.part p with
      state := .stopped, resumable := !(s.part p).halted, stopTarget := none,
      sF := stoppedStream (s.part p).sF, sB := stoppedStream (s.part p).sB, sU := stoppedStream (s.part p).sU }) p) :=
  if_pos ⟨hstate, hstop⟩

theorem part_answerStop (s : State) (p : Fin 16) : (answerStop s p).part p = { s.part p with stopWaiting := [] } := by
  rw [State.part, answerStop, answerStops_parts]
  exact State.part_modPart_same s p _

/-! ### The scrub ends -/

/-- What the end of a scrub makes of the frames and the partitions is not touched by the rest of it. -/
def partsFrames (s : State) : Vector Part 16 × Sparse Nat := (s.parts, s.frames)

/-- A frame given back stays free, and one held that is not retired becomes free. -/
theorem get_giveFrame {m : State} (hm : Sparse.wf 0 m.frames = true) (j id : Nat) : Sparse.get 0 (giveFrame m j).frames id =
    if id = j ∧ Sparse.get 0 m.frames j ≠ 99 then 0 else Sparse.get 0 m.frames id := by
  unfold giveFrame
  dsimp only
  change Sparse.get 0 (if Sparse.get 0 m.frames j = 99 then zeroFrame m j else _).frames id = _
  by_cases hret : Sparse.get 0 m.frames j = 99
  · rw [if_pos hret, if_neg (fun h => h.2 hret)]
    rfl
  · rw [if_neg hret]
    refine (Sparse.get_set j 0 hm id).trans ?_
    by_cases hid : id = j
    · rw [if_pos hid, if_pos ⟨hid, hret⟩]
    · rw [if_neg hid, if_neg (fun h => hid h.1)]

theorem parts_giveFrame (m : State) (j : Nat) : (giveFrame m j).parts = m.parts := by
  unfold giveFrame
  dsimp only
  split <;> rfl

theorem get_giveFrames_of_free {ids : List Nat} (hs : s.Canonical) {id : Nat} (h : Sparse.get 0 s.frames id = 0) :
    Sparse.get 0 (ids.foldl giveFrame s).frames id = 0 := by
  induction ids generalizing s with
  | nil => exact h
  | cons j ids ih =>
    refine ih ((giveFrame_kept (.refl s) j).canonical hs) ?_
    rw [get_giveFrame hs.frames, h, ite_self]

theorem get_giveFrames {ids : List Nat} (hs : s.Canonical) {id : Nat} (hid : id ∈ ids) (h : Sparse.get 0 s.frames id ≠ 99) :
    Sparse.get 0 (ids.foldl giveFrame s).frames id = 0 := by
  induction ids generalizing s with
  | nil => cases hid
  | cons j ids ih =>
    have hj := (giveFrame_kept (.refl s) j).canonical hs
    by_cases hij : id = j
    · exact get_giveFrames_of_free hj (by rw [get_giveFrame hs.frames, if_pos ⟨hij, hij ▸ h⟩])
    · refine ih hj ((List.mem_cons.1 hid).resolve_left hij) ?_
      rwa [get_giveFrame hs.frames, if_neg (fun hb => hij hb.1)]

theorem partsFrames_scrubCore (s : State) (nn : Nat) : partsFrames (scrubCore s nn) = partsFrames s := rfl

/-- The state of a scrub whose frames and cores are given back, before its own runs are free. -/
def scrubCleared (s : State) (p : Fin 16) : State :=
  let x := s.part p
  let s := (partCores x).foldl scrubCore ((heldFrames x.mem).foldl giveFrame s)
  let s := clearPartRegs (clearScaleSlots (resetObjects (clearTrace s p) p false) x) p
  { s with
    soBlk := (List.range (x.soCount + 1)).foldl (fun m i => Sparse.set SoBlock.free m (x.soBase + i) SoBlock.free) s.soBlk,
    slotBlk := (List.range (x.slotCount + 1)).foldl (fun m i => Sparse.set 0 m (x.slotBase + i) 0) s.slotBlk }

theorem finishScrub_eq (s : State) (p : Fin 16) : finishScrub s p =
    answered (s.part p).active ((scrubCleared s p).setPart p { Part.free with queue := (s.part p).queue }) := rfl

theorem frames_scrubClear (s : State) (x : Part) (p : Fin 16) (so : Sparse SoBlock) (slots : Sparse Nat) :
    ({ clearPartRegs (clearScaleSlots s x) p with soBlk := so, slotBlk := slots } : State).frames = s.frames := rfl

theorem frames_clearTrace (s : State) (p : Fin 16) : (clearTrace s p).frames = s.frames := rfl

theorem frames_resetObjects (s : State) (p : Fin 16) (rise : Bool) : (resetObjects s p rise).frames = s.frames := by
  refine foldl_view State.frames (fun v i => ?_) _ s
  rfl

theorem frames_scrubCleared (s : State) (p : Fin 16) :
    (scrubCleared s p).frames = ((heldFrames (s.part p).mem).foldl giveFrame s).frames := by
  have hcores (u : State) : ((partCores (s.part p)).foldl scrubCore u).frames = u.frames :=
    foldl_view State.frames (fun v nn => congrArg Prod.snd (partsFrames_scrubCore v nn)) _ u
  unfold scrubCleared
  dsimp only
  rw [frames_scrubClear, frames_resetObjects, frames_clearTrace, hcores]

theorem partsFrames_domSet (s : State) (nn : Nat) (d : Dom) : partsFrames (domSet s nn d) = partsFrames s := rfl

theorem partsFrames_burnCore (s : State) (nn : Nat) :
    partsFrames (burnIn s 64 Fuses.cores (fun f l => { f with cores := l }) nn) = partsFrames s := by
  unfold burnIn
  split <;> rfl

theorem partsFrames_loseCore (s : State) (nn : Nat) : partsFrames (loseCore s nn) = partsFrames s :=
  view_of_offLost (f := partsFrames) (h := offLost_loseCore s nn)

theorem partsFrames_modCore (s : State) (n : Fin 64) (f : Core → Core) : partsFrames (s.modCore n f) = partsFrames s := rfl

theorem partsFrames_coreOut (s : State) (nn : Nat) : partsFrames (coreOut s nn) = partsFrames s := by
  unfold coreOut
  dsimp only
  rw [partsFrames_burnCore, partsFrames_modCore, partsFrames_loseCore, partsFrames_domSet]

theorem partsFrames_coresOut (s : State) : partsFrames (coresOut s) = partsFrames s := by
  have hkeep (l : List ProofReq) (u : State) : partsFrames (l.foldl (fun s r => coreOut s r.index) u) = partsFrames u := by
    refine foldl_view partsFrames (fun v r => ?_) l u
    exact partsFrames_coreOut v r.index
  unfold coresOut
  dsimp only
  rw [hkeep]
  rfl

theorem part_coresOut (s : State) (p : Fin 16) : (coresOut s).part p = s.part p := by
  have hparts : (coresOut s).parts = s.parts := congrArg Prod.fst (partsFrames_coresOut s)
  rw [State.part, hparts, State.part]

theorem frames_coresOut (s : State) : (coresOut s).frames = s.frames := congrArg Prod.snd (partsFrames_coresOut s)

theorem part_finishScrub (s : State) (p : Fin 16) : (finishScrub s p).part p = { Part.free with queue := (s.part p).queue } := by
  rw [finishScrub_eq, part_answered, State.part_setPart_same]

theorem frames_setPart (s : State) (p : Fin 16) (x : Part) : (s.setPart p x).frames = s.frames := rfl

theorem frames_finishScrub (s : State) (p : Fin 16) :
    (finishScrub s p).frames = ((heldFrames (s.part p).mem).foldl giveFrame s).frames := by
  rw [finishScrub_eq, view_of_offFrames (f := State.frames) (h := offFrames_answered _ _), frames_setPart, frames_scrubCleared]

theorem exec_scrubDone (hstate : (s.part p).state = .scrubbing) (hflight : partInflight (s.part p) = 0)
    (hpref : (s.part p).mem.prefQ = []) (hexch : (s.part p).mem.exch = []) (hhold : thermalHold s = false) :
    exec (.scrubDone p) s = .next (coresOut (finishScrub s p)) :=
  congrArg (fun u => Host.Outcome.next (coresOut u)) (if_pos ⟨hstate, hflight, hpref, hexch, hhold⟩)

/-! ### The verb queues -/

theorem exec_verbDequeue_part {v : VerbReq} {rest : List VerbReq} (hq : (s.part p).queue = v :: rest)
    (hbusy : (verbBusy s p || dumpHolds s p v.verb) = false) : exec (.verbDequeue (some p)) s =
      .next (if v.verb.admits.isSome then admitIntake (s.modPart p (fun x => { x with queue := rest })) p v
        else verbEffect (s.modPart p (fun x => { x with queue := rest })) p v) := by
  change execVerbDequeue (some p) s = _
  unfold execVerbDequeue
  dsimp only
  rw [hq]
  dsimp only
  rw [hbusy]
  rfl

theorem exec_verbDequeue_module {v : VerbReq} {rest : List VerbReq} (hq : s.admits = v :: rest) (hnone : admittingPart s = none) :
    exec (.verbDequeue none) s = .next (verbEffect { s with admits := rest } (Fin.ofNat 16 (v.verb.admits.getD 0)) v) := by
  change execVerbDequeue none s = _
  unfold execVerbDequeue
  dsimp only
  rw [hq]
  dsimp only
  rw [hnone]
  rfl

/-- Settles O34: each end of a verb, in the form of what it clears and what it leaves. -/
theorem jobVerbEnds : Obligations.JobVerbEnds := by
  intro s p id ofs v rest r hs
  refine ⟨fun hadm hid hofs => ?_, fun hstate hstop => ⟨_, exec_stopDone hstate hstop, ?_⟩,
    fun hstate hflight hpref hexch hhold => ⟨_, exec_scrubDone hstate hflight hpref hexch hhold, ?_, fun hheld hret => ?_⟩,
    fun hq hbusy hdump => ?_, fun hq hnone hadmits => ?_⟩
  · have hexec : exec .admitDone s = .next (finishAdmit s p) := by
      change execAdmitDone s = _
      unfold execAdmitDone
      rw [hadm]
    refine ⟨_, hexec, ?_, ?_, ?_, fun hv hr => ?_⟩
    · rw [part_finishAdmit]; rfl
    · rw [part_finishAdmit]; rfl
    · rw [mem_finishAdmit]
      exact get_zeroFrames hs hid hofs
    · rw [part_finishAdmit]
      exact Part.admitted_of_active hv hr
  · rw [part_answerStop, State.part_setPart_same]
    exact ⟨rfl, rfl, rfl⟩
  · rw [part_coresOut, part_finishScrub]
  · rw [frames_coresOut, frames_finishScrub]
    exact get_giveFrames hs hheld hret
  · have hnext := exec_verbDequeue_part hq (by rw [hbusy, hdump]; rfl)
    refine ⟨fun hno => ⟨_, hnext.trans (by rw [hno]; rfl), rfl⟩, fun hyes => ⟨_, hnext.trans (by rw [hyes]; rfl), rfl⟩⟩
  · refine ⟨_, exec_verbDequeue_module hq hnone, ?_⟩
    rw [hadmits]
    exact congrArg (fun q => verbEffect { s with admits := rest } q v) (Fin.ofNat_val_eq_self p)

end Sys2Proof.Machine
end

section
/-! Work at completion (R231, R302): a TBLLOAD's table stands in the store, and a UPD writes its entry, only as the command
completes; O41. -/

namespace Sys2Proof.Machine

variable {s u : State} {p : Fin 16} {t : StreamTag} {g : Granule} {f : Flight}

/-! ### The table store of a partition while a TBLLOAD issues -/

/-- The tables of partition p. -/
def tablesOf (p : Fin 16) (s : State) : Sparse (Option FuncTable) := (s.part p).tables

theorem tablesOf_noteWait (s : State) (e : Trap) : tablesOf p (noteWait p s e) = tablesOf p s := by
  unfold noteWait
  split
  · rfl
  · exact part_modPart_view (v := Part.tables) (f := fun x => { x with mem := openSlot x.mem _ }) (fun _ => rfl) _ p p
  · rfl

theorem readTable_leaves (c : Ctx) (d : Desc) : Op.Leaves offWork (readTable c d) :=
  .at (.bind (readSpace_leaves _ _ _ _) fun _ => .nan _) _ _ _

theorem tablesOf_tblloadRun (s : State) : tablesOf p (tblloadRun s p t g).state = tablesOf p s := by
  unfold tblloadRun
  split
  · rfl
  · next c _ _ =>
    have hread := readTable_leaves (ctxOf s p t c) (descOf s p t g (vSrc1 g)) s
    have hkeep := part_view_of_offWork (f := Part.tables) (fun _ => rfl) hread p
    split <;> rename_i he <;> rw [he] at hkeep <;> exact hkeep

/-- Begun, or waiting for its cores or for earlier flights, a TBLLOAD has put nothing in the store. -/
theorem tablesOf_begin_tblload (s : State) (n : Nat) : tablesOf p (tblloadCmd.begin_ s p t g n).state = tablesOf p s := by
  have hrun : tablesOf p (tblloadCmd.run (freshRows s) p t g n).state = tablesOf p s := tablesOf_tblloadRun (freshRows s)
  unfold StreamCmd.begin_
  split
  · split
    · rfl
    · unfold StreamCmd.attempt
      dsimp only
      split
      · exact foldl_view (tablesOf p) (fun u e => tablesOf_noteWait u e) _ s
      · exact hrun
  · exact view_of_offWakes (f := tablesOf p) (h := offWakes_demandAll s _)

theorem tablesOf_issueNow_tblload (h : Ready tblloadCmd s p t g u) (htraps : (effectOf tblloadCmd u p t g).traps = []) :
    tablesOf p (issueNow tblloadCmd u p t g) = tablesOf p s := by
  have hend : tablesOf p (issueNow tblloadCmd u p t g) = tablesOf p (effectOf tblloadCmd u p t g).state := by
    refine (part_view_of_lasting (f := Part.tables) (fun _ => rfl) (lasting_issueEnd htraps) p).trans ?_
    exact congrArg Part.tables (part_setStream _ p t _) |>.trans (by cases t <;> rfl)
  have hhead : tablesOf p (issueHead tblloadCmd u p t g) = tablesOf p u :=
    part_view_issueHead (f := Part.tables) (fun _ => rfl) (fun x q => by cases t <;> rfl) (fun _ _ => rfl)
  have hfetched : tablesOf p u = tablesOf p s :=
    part_view_of_uncached (f := Part.tables) (fun _ => rfl) (uncached_of_fetched h.fetched) p
  rw [hend, ← hfetched, ← hhead]
  exact tablesOf_begin_tblload _ _

/-! ### A flight completes -/

/-- A stream once its flight of number n is done. -/
def flightDone (n : Nat) (q : Stream) : Stream := { q with flight := marked q.flight n }

/-- What lasts of a completion, traced or not: the flight is done, and what is finished left. -/
theorem lasting_completeFlight {n : Nat} (hf : (s.stream p t).flight.find? (fun e => e.seq = n) = some f) :
    lasting (completeFlight s p t n) = lasting (s.modStream p t (fun q => popped (flightDone n q))) := by
  unfold completeFlight
  simp only [hf]
  rw [← modStream_modStream s p t (flightDone n) popped]
  refine lasting_settleSignals ?_
  refine lasting_of_steady ((steady_modRefs _ _ _ _).trans ?_)
  split
  · exact steady_putTrace _ _ _
  · rfl

theorem Settled.of_lasting (h : Settled (s.part p)) (hl : lasting u = lasting s) : Settled (u.part p) := by
  refine h.of_waits (part_view_of_lasting (f := Part.colls) (fun _ => rfl) hl p) fun r e he => ⟨e, ?_, rfl⟩
  have hflight : (u.stream p r).flight = (s.stream p r).flight := stream_view_of_lasting (f := Stream.flight) (fun _ => rfl) hl p r
  exact hflight ▸ he

theorem settled_popped {n : Nat} (h : Settled (s.part p)) (hone : (s.stream p t).flight = [f]) :
    Settled ((s.modStream p t (fun q => popped (flightDone n q))).part p) := by
  rw [show (s.modStream p t _).part p = _ from part_setStream s p t _]
  refine h.of_waits (by cases t <;> rfl) fun r e he => ?_
  by_cases hr : r = t
  · subst hr
    rw [Part.stream_setStream_same] at he
    have hmem : e ∈ (popFlights false (marked [f] n)).1 := by rwa [← hone]
    have hnodup : (marked [f] n).Nodup := List.nodup_singleton _
    rw [show ((s.part p).stream r).flight = [f] from hone]
    rw [(popped_popFlights hnodup).stay] at hmem
    exact mem_marked (List.mem_of_mem_filter hmem)
  · rw [Part.stream_setStream_ne _ _ hr] at he
    exact ⟨e, he, rfl⟩

/-- Once a stream's only flight is done and has no signal held back, none is left. -/
theorem popFlights_only (f : Flight) : (popFlights false (marked [f] f.seq)).1 = [] := by
  have hdone : marked [f] f.seq = [{ f with done := true }] := by simp [marked]
  rw [hdone]
  unfold popFlights
  dsimp only
  cases (sigOf f.word).isSome && !f.mute <;> rfl

/-- What lasts once a stream's only flight completed and its partition settled. -/
theorem lasting_settle_only (h : Settled (s.part p)) (hhalt : (s.part p).halted = false) (hone : (s.stream p t).flight = [f]) :
    lasting (settle p (completeFlight s p t f.seq)) = lasting (s.modStream p t (fun q => popped (flightDone f.seq q))) := by
  have hlast := lasting_completeFlight (s := s) (p := p) (t := t) (f := f) (n := f.seq) (by simp [hone])
  have hhalted : ((completeFlight s p t f.seq).part p).halted = false := by
    rw [part_view_of_lasting (f := Part.halted) (fun _ => rfl) hlast p, show (s.modStream p t _).part p = _ from part_setStream s p t _]
    cases t <;> exact hhalt
  have hsettled := (settled_popped (n := f.seq) h hone).of_lasting hlast
  have hparts : (settle p (completeFlight s p t f.seq)).parts = (completeFlight s p t f.seq).parts :=
    (congrArg State.parts (offCores_settle hsettled hhalted) : _)
  rw [← hlast]
  exact lasting_of_steady (steady_of_parts hparts)

theorem flight_settle_only (h : Settled (s.part p)) (hhalt : (s.part p).halted = false) (hone : (s.stream p t).flight = [f]) :
    ((settle p (completeFlight s p t f.seq)).stream p t).flight = [] := by
  rw [stream_view_of_lasting (f := Stream.flight) (fun _ => rfl) (lasting_settle_only h hhalt hone), State.stream_modStream_same]
  change (popFlights false (marked (s.stream p t).flight f.seq)).1 = []
  rw [hone, popFlights_only]

theorem canComplete_running {x : Part} (hstate : x.state = .running ∨ x.state = .stopping) (hd : f.done = false)
    (hwait : (match f.wait with | .none => true | .table _ _ => true | .update _ _ => true | _ => false) = true) :
    canComplete x f = true := by
  unfold canComplete
  rw [hd]
  rcases hstate with h | h <;> rw [h] <;> exact hwait

theorem exec_complete_only (hone : (s.stream p t).flight = [f]) (hcan : canComplete (s.part p) f = true) :
    exec (.commandComplete p t 0) s = .next (settle p (finishUpd (installTable s p f) p t f)) := by
  change execCommandComplete p t 0 s = _
  unfold execCommandComplete
  simp only [hone, List.getElem?_cons_zero, hcan, if_true]

/-! ### A TBLLOAD completes -/

theorem Sparse.get_set_of_ne_default {α : Type} [DecidableEq α] {d v : α} (hv : v ≠ d) (m : Sparse α) (k : Nat) :
    Sparse.get d (Sparse.set d m k v) k = v := by
  induction m with
  | nil => rw [Sparse.set, if_neg hv, Sparse.get, if_pos rfl]
  | cons e rest ih =>
    rw [Sparse.set, if_neg hv, if_neg hv]
    split
    · rw [Sparse.get, if_pos rfl]
    · split
      · rw [Sparse.get, if_pos rfl]
      · rw [Sparse.get, if_neg ‹_›, if_neg ‹_›, ih]

theorem tables_installTable {k : Nat} {x : FuncTable} (hwait : f.wait = .table k x) :
    Sparse.get none (tablesOf p (installTable s p f)) k = some x := by
  unfold installTable tablesOf
  rw [hwait]
  dsimp only
  rw [State.part_modPart_same]
  exact Sparse.get_set_of_ne_default (by simp) _ k

theorem settled_installTable (h : Settled (s.part p)) : Settled ((installTable s p f).part p) := by
  obtain ⟨tables, hpart⟩ := part_installTable s p f
  rw [hpart]
  exact h.of_waits rfl fun r e he => ⟨e, by cases r <;> exact he, rfl⟩

theorem halted_installTable (s : State) (p : Fin 16) (f : Flight) : ((installTable s p f).part p).halted = (s.part p).halted := by
  obtain ⟨tables, hpart⟩ := part_installTable s p f
  rw [hpart]

theorem tablesOf_settle_only (h : Settled (s.part p)) (hhalt : (s.part p).halted = false) (hone : (s.stream p t).flight = [f]) :
    tablesOf p (settle p (completeFlight s p t f.seq)) = tablesOf p s := by
  refine (part_view_of_lasting (f := Part.tables) (fun _ => rfl) (lasting_settle_only h hhalt hone) p).trans ?_
  exact (congrArg Part.tables (part_setStream s p t _)).trans (by cases t <;> rfl)

theorem finishUpd_of_table {k : Nat} {x : FuncTable} (hwait : f.wait = .table k x) (s : State) :
    finishUpd s p t f = completeFlight s p t f.seq := by
  unfold finishUpd
  rw [hwait]

/-! ### A UPD completes -/

/-- The place and the bytes of the entry that a completing UPD writes. -/
def entryWrite (s : State) (p : Fin 16) (f : Flight) (entry : List Byte) : Op Unit :=
  Op.at 9 0xFF [uGroup f.word, 0, 0, 0] (writeMem (.io 0) p (groupAddr (s.part p) (uGroup f.word) + 64) entry)

theorem finishUpd_of_update {entry : List Byte} {events : Nat} (hwait : f.wait = .update entry events)
    (hwrite : Op.exec (entryWrite s p f entry) s = (.ok (), u)) :
    finishUpd s p t f = completeFlight (postUpds u p t f.word events) p t f.seq := by
  have hexec : Op.exec (Op.at 9 0xFF [uGroup f.word, 0, 0, 0]
    (writeMem (.io 0) p (groupAddr (s.part p) (uGroup f.word) + 64) entry)) s = (.ok (), u) := hwrite
  unfold finishUpd
  rw [hwait]
  dsimp only
  rw [hexec]

/-- Of the events of an entry that is clipped or not, only CLIPPED is posted. -/
theorem postUpds_clipped (s : State) (p : Fin 16) (t : StreamTag) (g : Granule) (clipped : Bool) :
    postUpds s p t g (if clipped then 1 else 0) = if clipped then postBit s (0x98010000 + 4 * p.val) 0 else s := by
  cases clipped <;> rfl

theorem installTable_of_update {entry : List Byte} {events : Nat} (hwait : f.wait = .update entry events) (s : State) :
    installTable s p f = s := by
  unfold installTable
  rw [hwait]

/-- The end of a UPD whose entry is written: the CLIPPED event, and the flight done. -/
theorem completeFlight_silent (hone : (s.stream p t).flight = [f]) (htrace : cTrace f.word = false) (hsig : sigOf f.word = none) :
    completeFlight s p t f.seq = completed s p t f := by
  rw [completeFlight_of_untraced (by simp [hone]) (by simp [hone]) htrace]
  have hpop : (popFlights false (marked (s.stream p t).flight f.seq)).2 = [] := by
    simp [hone, marked, popFlights, hsig]
  rw [hpop]
  rfl

/-- A silent completion, with what then settles, changes nothing outside the partitions and the cores. -/
theorem offCores_settle_silent (h : Settled (s.part p)) (hhalt : (s.part p).halted = false) (hone : (s.stream p t).flight = [f])
    (htrace : cTrace f.word = false) (hsig : sigOf f.word = none) :
    offCores (settle p (completeFlight s p t f.seq)) = offCores (completed s p t f) := by
  have hnodup : ((s.stream p t).flight.map Flight.seq).Nodup := by simp [hone]
  rw [completeFlight_silent hone htrace hsig]
  refine offCores_settle (settled_completed (f := f) h hnodup) ?_
  obtain ⟨mem, q, hpart, -⟩ := part_completed s p t f
  rw [hpart]
  cases t <;> exact hhalt

theorem mem_settle_silent (h : Settled (s.part p)) (hhalt : (s.part p).halted = false) (hone : (s.stream p t).flight = [f])
    (htrace : cTrace f.word = false) (hsig : sigOf f.word = none) : (settle p (completeFlight s p t f.seq)).mem = s.mem := by
  have hview : (offCores (settle p (completeFlight s p t f.seq))).mem = (offCores (completed s p t f)).mem := by
    rw [offCores_settle_silent h hhalt hone htrace hsig]
  exact hview

theorem regs_settle_silent (h : Settled (s.part p)) (hhalt : (s.part p).halted = false) (hone : (s.stream p t).flight = [f])
    (htrace : cTrace f.word = false) (hsig : sigOf f.word = none) : (settle p (completeFlight s p t f.seq)).regs = s.regs := by
  have hview : (offCores (settle p (completeFlight s p t f.seq))).regs = (offCores (completed s p t f)).regs := by
    rw [offCores_settle_silent h hhalt hone htrace hsig]
  exact hview

/-- What the write of an entry leaves of the partitions, and with it the posting of its event. -/
theorem steady_postUpds_entry {entry : List Byte} (clipped : Bool) (hwrite : Op.exec (entryWrite s p f entry) s = (.ok (), u)) :
    steady (postUpds u p t f.word (if clipped then 1 else 0)) = steady s := by
  have hleft : steady u = steady s := by
    have h := Op.Leaves.at (writeMem_leaves_steady (.io 0) p (groupAddr (s.part p) (uGroup f.word) + 64) entry) 9 0xFF
      [uGroup f.word, 0, 0, 0] s
    rwa [show Op.exec (Op.at 9 0xFF [uGroup f.word, 0, 0, 0] (writeMem (.io 0) p _ entry)) s = _ from hwrite] at h
  rw [postUpds_clipped, ← hleft]
  cases clipped <;> rfl

theorem canonical_of_entryWrite {entry : List Byte} (hs : s.Canonical) (hwrite : Op.exec (entryWrite s p f entry) s = (.ok (), u)) :
    u.Canonical := by
  have h := Op.exec_kept (OpKept.at (unit := 9) (core := 0xFF) (tile := [uGroup f.word, 0, 0, 0])
    (writeMem_kept (.io 0) p (groupAddr (s.part p) (uGroup f.word) + 64) entry)) (.refl s)
  rw [show Op.exec (Op.at 9 0xFF [uGroup f.word, 0, 0, 0] (writeMem (.io 0) p _ entry)) s = _ from hwrite] at h
  exact h.canonical hs

/-- Settles O41: TBLLOAD's work at its issue reads only, and its table enters the store at its completion; UPD's entry is written
and CLIPPED posted at its completion. -/
theorem workAtCompletion : Obligations.WorkAtCompletion := by
  intro s u p t g k x f entry clipped hs
  refine ⟨fun hready htraps => ?_, fun hsettled hhalt hone hd hstate => ⟨fun hwait => ?_, fun hwait hsig htrace hwrite _ => ?_⟩⟩
  · have hexec : exec (.tblload p t) s = .next (issueNow tblloadCmd u p t g) := congrArg Host.Outcome.next (issue_of_ready hready)
    exact ⟨_, hexec, issued_of_ready hready rfl htraps, tablesOf_issueNow_tblload hready htraps⟩
  · have hcan : canComplete (s.part p) f = true := canComplete_running hstate hd (by rw [hwait])
    have hones : ((installTable s p f).stream p t).flight = [f] := by rw [stream_installTable, hone]
    have hhalts := (halted_installTable s p f).trans hhalt
    refine ⟨_, exec_complete_only hone hcan, ?_⟩
    rw [finishUpd_of_table hwait]
    refine ⟨?_, flight_settle_only (settled_installTable hsettled) hhalts hones⟩
    have htables := tablesOf_settle_only (settled_installTable hsettled) hhalts hones
    exact (congrArg (fun m => Sparse.get none m k) htables).trans (tables_installTable hwait)
  · have hcan : canComplete (s.part p) f = true := canComplete_running hstate hd (by rw [hwait])
    have hsteady := steady_postUpds_entry (t := t) clipped hwrite
    have hdone := hsettled.of_steady (congrFun hsteady p)
    have hrun : ((postUpds u p t f.word (if clipped then 1 else 0)).part p).halted = false :=
      (congrArg (fun y : Part => y.halted) (congrFun hsteady p)).trans hhalt
    have hones := (flight_of_steady hsteady p t).trans hone
    refine ⟨_, exec_complete_only hone hcan, ?_⟩
    rw [installTable_of_update hwait, finishUpd_of_update hwait hwrite]
    refine ⟨(mem_settle_silent hdone hrun hones htrace hsig).trans ?_, flight_settle_only hdone hrun hones, fun hclip => ?_⟩
    · rw [postUpds_clipped]
      cases clipped <;> rfl
    · rw [rawReg, regs_settle_silent hdone hrun hones htrace hsig, postUpds_clipped, if_pos hclip]
      exact flag_postBit (canonical_of_entryWrite hs hwrite) _ (by decide)

end Sys2Proof.Machine
end

section
/-! The tier controllers and the region slots in their own time (R334, R336, R339, R342, R344); O43. -/

namespace Sys2Proof.Machine

variable {s t u : State} {p : Fin 16}

/-! ### Work without a stop -/

theorem Op.exec_bind_of_ok {β γ : Type} {m : Op β} {b : β} (h : Op.exec m s = (.ok b, t)) (k : β → Op γ) :
    Op.exec (m >>= k) s = Op.exec (k b) t := by
  rw [Op.exec_bind, h]

theorem Op.exec_each_of_still {β : Type} {k : β → Op Unit} {l : List β} (h : ∀ b ∈ l, Op.exec (k b) s = (.ok (), s)) :
    Op.exec (Op.each l k) s = (.ok (), s) := by
  induction l with
  | nil => rfl
  | cons b l ih => exact (Op.exec_bind_of_ok (h b List.mem_cons_self) _).trans (ih fun c hc => h c (List.mem_cons_of_mem _ hc))

/-! ### The window's end (R334) -/

theorem migrates_autoChoice {west : Bool} {q : Fin 16} {e : Exchange} (h : autoChoice west s = some (q, e)) :
    migrates (s.part q) = true := by
  have hcand : ∀ x ∈ (List.finRange 16).filterMap (fun p =>
      if migrates (s.part p) then (autoPair west (s.part p).mem).map (fun e => (p, e)) else none), migrates (s.part x.1) = true := by
    intro x hx
    obtain ⟨r, -, hr⟩ := List.mem_filterMap.1 hx
    split at hr
    · next hmigr =>
      obtain ⟨y, -, rfl⟩ := Option.map_eq_some_iff.1 hr
      exact hmigr
    · cases hr
  unfold autoChoice at h
  dsimp only at h
  generalize (List.finRange 16).filterMap (fun p =>
      if migrates (s.part p) then (autoPair west (s.part p).mem).map (fun e => (p, e)) else none) = cands at h hcand
  cases cands with
  | nil => cases h
  | cons c rest =>
    have hbest : ∀ (l : List (Fin 16 × Nat × Exchange)) (b : Fin 16 × Nat × Exchange) (k : Fin 16 × Nat × Exchange → Fin 16 × Nat × Exchange → Bool),
        l.foldl (fun b e => if k e b then e else b) b ∈ b :: l := by
      intro l b k
      induction l generalizing b with
      | nil => exact List.mem_cons_self
      | cons e l ih =>
        rw [List.foldl_cons]
        rcases List.mem_cons.1 (ih (if k e b then e else b)) with heq | hmem
        · rw [heq]
          split
          · exact List.mem_cons_of_mem _ List.mem_cons_self
          · exact List.mem_cons_self
        · exact List.mem_cons_of_mem _ (List.mem_cons_of_mem _ hmem)
    simp only [List.head?_cons, Option.map_some, List.tail_cons, Option.some.injEq, Prod.mk.injEq] at h
    rw [← h.1]
    exact hcand _ (hbest rest c _)

/-- What a window's end keeps of a partition before its counts restart: all but the exchanges, and these where it does not migrate. -/
structure ExchangesJoin (x y : Part) : Prop where
  rest : y = { x with mem := { x.mem with exch := y.mem.exch } }
  still : migrates x = false → y.mem.exch = x.mem.exch

theorem ExchangesJoin.refl (x : Part) : ExchangesJoin x x := ⟨rfl, fun _ => rfl⟩

theorem ExchangesJoin.trans {x y z : Part} (h : ExchangesJoin x y) (h' : ExchangesJoin y z) : ExchangesJoin x z := by
  obtain ⟨hrest, hstill⟩ := h
  obtain ⟨hrest', hstill'⟩ := h'
  have hmigr : migrates y = migrates x := by
    rw [hrest]
    rfl
  refine ⟨?_, fun hno => (hstill' (hmigr.trans hno)).trans (hstill hno)⟩
  rw [hrest', hrest]

theorem part_autoExchanges (west : Bool) (n : Nat) (s : State) (q : Fin 16) :
    ExchangesJoin (s.part q) ((autoExchanges west n s).part q) := by
  induction n generalizing s with
  | zero => exact .refl _
  | succ n ih =>
    unfold autoExchanges
    split
    · next r e hchoice =>
      refine .trans ?_ (ih _)
      by_cases hq : q = r
      · subst hq
        rw [State.part_modPart_same]
        exact ⟨rfl, fun hno => absurd (migrates_autoChoice hchoice) (by simp [hno])⟩
      · rw [State.part_modPart_ne _ _ hq]
        exact .refl _
    · exact .refl _

theorem mem_autoExchanges (west : Bool) (n : Nat) (s : State) : (autoExchanges west n s).mem = s.mem := by
  induction n generalizing s with
  | zero => rfl
  | succ n ih =>
    unfold autoExchanges
    split
    · exact ih _
    · rfl

/-- A partition in a new window. -/
def Part.recounted (x : Part) : Part := { x with mem := { x.mem with access := [] } }

theorem part_newWindows (l : List (Fin 16)) (s : State) (q : Fin 16) :
    (l.foldl newWindow s).part q = if q ∈ l then (s.part q).recounted else s.part q := by
  induction l generalizing s with
  | nil => rfl
  | cons r l ih =>
    rw [List.foldl_cons, ih]
    by_cases hq : q = r
    · subst hq
      have hstep : (newWindow s q).part q = (s.part q).recounted := State.part_modPart_same s q _
      rw [hstep, if_pos List.mem_cons_self]
      split <;> rfl
    · have hstep : (newWindow s r).part q = s.part q := State.part_modPart_ne s _ hq
      rw [hstep]
      exact if_congr (by simp [hq]) rfl rfl

theorem mem_newWindows (l : List (Fin 16)) (s : State) : (l.foldl newWindow s).mem = s.mem :=
  foldl_view State.mem (g := newWindow) (fun _ _ => rfl) l s

theorem partsMem_notePins (l : List (Fin 16)) (s : State) : partsMem (l.foldl notePin s) = partsMem s := by
  refine foldl_view partsMem (fun u q => ?_) l s
  unfold notePin
  split <;> rfl

theorem mem_notePins (l : List (Fin 16)) (s : State) : (l.foldl notePin s).mem = s.mem := congrArg Prod.snd (partsMem_notePins l s)

theorem part_notePins (l : List (Fin 16)) (s : State) (q : Fin 16) : (l.foldl notePin s).part q = s.part q := by
  have hparts : (l.foldl notePin s).parts = s.parts := congrArg Prod.fst (partsMem_notePins l s)
  rw [State.part, hparts, State.part]

/-- The state of a window's end before its counts restart. -/
def windowEnd (s : State) (east : Bool) : State :=
  autoExchanges east (autoPairs s) (autoExchanges (!east) (autoPairs s) ((List.finRange 16).foldl notePin s))

theorem exec_autoMigrationWindow (s : State) (east : Bool) :
    exec (.autoMigrationWindow east) s = .next ((List.finRange 16).foldl newWindow (windowEnd s east)) := rfl

theorem part_windowEnd (s : State) (east : Bool) (q : Fin 16) : ExchangesJoin (s.part q) ((windowEnd s east).part q) := by
  have hfirst := part_autoExchanges (!east) (autoPairs s) ((List.finRange 16).foldl notePin s) q
  rw [part_notePins] at hfirst
  exact hfirst.trans (part_autoExchanges _ _ _ _)

theorem mem_windowEnd (s : State) (east : Bool) : (windowEnd s east).mem = s.mem := by
  rw [windowEnd, mem_autoExchanges, mem_autoExchanges, mem_notePins]

/-! ### A PUB publishes (R342) -/

theorem names_freeRetired (m : PartMem) (i : Nat) : (freeRetired m i).names = m.names := by
  unfold freeRetired
  dsimp only
  split <;> rfl

theorem get_names_publish (m : PartMem) (i : Nat) {name : Nat} (h : name ≠ 0xFFFF) :
    Sparse.get NameEntry.zero (publish m i name).names name = ⟨(Sparse.get NameEntry.zero m.names name).version + 1, i + 1⟩ := by
  have hne : (⟨(Sparse.get NameEntry.zero m.names name).version + 1, i + 1⟩ : NameEntry) ≠ NameEntry.zero := fun heq =>
    absurd (congrArg NameEntry.slot heq) (Nat.succ_ne_zero i)
  have hset := Sparse.get_set_of_ne_default hne m.names name
  unfold publish
  dsimp only
  rw [if_neg h]
  split
  · exact hset
  · rw [names_freeRetired]
    exact hset

theorem part_setWait (s : State) (p : Fin 16) (t : StreamTag) (n : Nat) (w : FlightWait) :
    ((setWait s p t n w).part p).mem = (s.part p).mem := by
  rw [show (setWait s p t n w).part p = _ from part_setStream s p t _]
  cases t <;> rfl

theorem exec_pubPublish {r : StreamTag} {k i : Nat} {f : Flight} (hf : (s.stream p r).flight[k]? = some f) (hwait : f.wait = .pub)
    (hslot : f.writes.head? = some i) (hfirst : ((s.stream p r).flight.take k).any pubWaits = false)
    (hquiet : slotWritten (s.part p) f.seq i = false) (hgo : goesOn (s.part p) = true) : exec (.pubPublish p r k) s =
      .next (setWait (s.modPart p (fun x => { x with mem := publish x.mem i (pName f.word) })) p r f.seq .none) := by
  have hf' : ((s.part p).stream r).flight[k]? = some f := hf
  have hfirst' : (((s.part p).stream r).flight.take k).any pubWaits = false := hfirst
  change execPubPublish p r k s = _
  unfold execPubPublish
  dsimp only
  rw [hf']
  dsimp only
  rw [hwait, hslot]
  dsimp only
  rw [hfirst', hquiet, hgo]
  rfl

/-! ### A region frame is zeroed (R339) -/

theorem settled_of_streams {x y : Part} (h : Settled x) (hcolls : y.colls = x.colls) (hstreams : ∀ r, y.stream r = x.stream r) :
    Settled y := h.of_waits hcolls fun r f hf => ⟨f, hstreams r ▸ hf, rfl⟩

/-- The partition whose region frame number i rejoins the pool. -/
def Part.pooled (x : Part) (i id : Nat) : Part :=
  { x with mem := { x.mem with poolFree := x.mem.poolFree ++ [id], poolZeroing := x.mem.poolZeroing.eraseIdx i } }

theorem frameZeroed_eq {i id : Nat} (h : (s.part p).mem.poolZeroing[i]? = some id) :
    frameZeroed p i s = (zeroFrame s id).modPart p (fun x => x.pooled i id) := by
  unfold frameZeroed
  rw [h]
  rfl

theorem part_zeroFrame (s : State) (id : Nat) (p : Fin 16) : (zeroFrame s id).part p = s.part p := rfl

theorem part_frameZeroed {i id : Nat} (h : (s.part p).mem.poolZeroing[i]? = some id) :
    (frameZeroed p i s).part p = (s.part p).pooled i id := by
  rw [frameZeroed_eq h, State.part_modPart_same, part_zeroFrame]

theorem mem_frameZeroed {i id : Nat} (h : (s.part p).mem.poolZeroing[i]? = some id) :
    (frameZeroed p i s).mem = (zeroFrame s id).mem := by
  rw [frameZeroed_eq h]
  rfl

theorem part_settle (h : Settled (s.part p)) (hhalt : (s.part p).halted = false) : (settle p s).part p = s.part p :=
  (congrArg (fun v : State => v.part p) (offCores_settle h hhalt) : (offCores (settle p s)).part p = (offCores s).part p)

theorem mem_settle (h : Settled (s.part p)) (hhalt : (s.part p).halted = false) : (settle p s).mem = s.mem :=
  (congrArg State.mem (offCores_settle h hhalt) : (offCores (settle p s)).mem = (offCores s).mem)

theorem counts_settle (h : Settled (s.part p)) (hhalt : (s.part p).halted = false) : (settle p s).counts = s.counts :=
  (congrArg State.counts (offCores_settle h hhalt) : (offCores (settle p s)).counts = (offCores s).counts)

theorem sess_settle (h : Settled (s.part p)) (hhalt : (s.part p).halted = false) : (settle p s).sess = s.sess :=
  (congrArg State.sess (offCores_settle h hhalt) : (offCores (settle p s)).sess = (offCores s).sess)

end Sys2Proof.Machine
end

section
/-! An exchange of two undisturbed frames (R336): their contents and their pages change places. -/

namespace Sys2Proof.Machine

variable {s t u : State} {p : Fin 16} {a b id : Nat}

theorem Op.exec_get_bind {β : Type} (k : State → Op β) (s : State) : Op.exec (Op.get >>= k) s = Op.exec (k s) s :=
  Op.exec_bind_of_ok (show Op.exec Op.get s = (.ok s, s) from rfl) k

/-! ### Ranges that change places -/

theorem copyEntries_wf {lo dst : Nat} (l : Sparse Byte) {m : Sparse Byte} (hm : Sparse.wf 0#8 m = true) :
    Sparse.wf 0#8 (copyEntries lo dst l m) = true := by
  induction l generalizing m with
  | nil => exact hm
  | cons e l ih => exact ih (Sparse.set_wf _ _ hm)

theorem swapRange_frames (m : Sparse Byte) (a b : Nat) : swapRange 0#8 m (a * frameBytes) (b * frameBytes) frameBytes =
    copyEntries (b * frameBytes) (a * frameBytes) (frameEntries m b) (copyEntries (a * frameBytes) (b * frameBytes) (frameEntries m a)
      (Sparse.clearRange (Sparse.clearRange m (a * frameBytes) frameBytes) (b * frameBytes) frameBytes)) := by
  unfold swapRange copyEntries frameEntries
  simp only [Nat.add_comm]

theorem lt_of_mem_frameEntries {m : Sparse Byte} {e : Nat × Byte} (h : e ∈ frameEntries m id) :
    e.1 < id * frameBytes + frameBytes := by
  have hin := (List.mem_filter.1 h).2
  rw [Bool.and_eq_true, decide_eq_true_eq, decide_eq_true_eq] at hin
  exact hin.2

/-- The entries of a frame, copied to a place that reads 0. -/
theorem get_copyFrameEntries (hs : s.Canonical) {m : Sparse Byte} (hm : Sparse.wf 0#8 m = true) (a b : Nat)
    (hzero : ∀ j, b * frameBytes ≤ j → j < b * frameBytes + frameBytes → Sparse.get 0#8 m j = 0#8) (j : Nat) :
    Sparse.get 0#8 (copyEntries (a * frameBytes) (b * frameBytes) (frameEntries s.mem a) m) j =
      if b * frameBytes ≤ j ∧ j < b * frameBytes + frameBytes then Sparse.get 0#8 s.mem (a * frameBytes + (j - b * frameBytes))
      else Sparse.get 0#8 m j := by
  rw [get_copyEntries (frameEntries_wfBy hs.mem a) (Nat.le_refl _) (fun e he => lt_of_mem_frameEntries he) hm
    (fun i hi hin => hzero i (by omega) hin), Nat.sub_self, Nat.add_zero]
  split
  · next hin => exact get_frameEntries hs (by omega)
  · rfl

/-- Distinct frames share no byte. -/
theorem frames_apart (h : a ≠ b) : a * frameBytes + frameBytes ≤ b * frameBytes ∨ b * frameBytes + frameBytes ≤ a * frameBytes := by
  unfold frameBytes
  omega

theorem not_in_frame {k : Nat} (h : k / frameBytes ≠ id) : ¬(id * frameBytes ≤ k ∧ k < id * frameBytes + frameBytes) := by
  unfold frameBytes at *
  omega

theorem get_swapFrames (hs : s.Canonical) (hab : a ≠ b) (j : Nat) : Sparse.get 0#8 (swapFrames s a b).mem j =
    if a * frameBytes ≤ j ∧ j < a * frameBytes + frameBytes then Sparse.get 0#8 s.mem (b * frameBytes + (j - a * frameBytes))
    else if b * frameBytes ≤ j ∧ j < b * frameBytes + frameBytes then Sparse.get 0#8 s.mem (a * frameBytes + (j - b * frameBytes))
    else Sparse.get 0#8 s.mem j := by
  have hapart := frames_apart hab
  have hcleared := Sparse.clearRange_wf (a * frameBytes) frameBytes hs.mem
  have hclear (i : Nat) := Sparse.get_clearRange (b * frameBytes) frameBytes hcleared i
  have hfirst := get_copyFrameEntries hs (Sparse.clearRange_wf (b * frameBytes) frameBytes hcleared) a b
    (fun i hi hin => by rw [hclear, if_neg (by omega)])
  have hrest (i : Nat) (h : ¬(b * frameBytes ≤ i ∧ i < b * frameBytes + frameBytes)) :
      Sparse.get 0#8 (Sparse.clearRange (Sparse.clearRange s.mem (a * frameBytes) frameBytes) (b * frameBytes) frameBytes) i =
        if i < a * frameBytes ∨ a * frameBytes + frameBytes ≤ i then Sparse.get 0#8 s.mem i else 0#8 := by
    rw [hclear, if_pos (by omega), Sparse.get_clearRange _ _ hs.mem]
  change Sparse.get 0#8 (swapRange 0#8 s.mem (a * frameBytes) (b * frameBytes) frameBytes) j = _
  rw [swapRange_frames, get_copyFrameEntries hs (copyEntries_wf _ (Sparse.clearRange_wf _ _ hcleared)) b a
    (fun i hi hin => by rw [hfirst, if_neg (by omega), hrest i (by omega), if_neg (by omega)])]
  split
  · rfl
  · rw [hfirst]
    split
    · rfl
    · next hin => rw [hrest j hin, if_pos (by omega)]

/-! ### A frame that nothing disturbs -/

/-- Frame id reads as it stands: no granule of it and no link carries a disturbance, its wrappers are open, and its port is up. -/
structure Whole (s : State) (id : Nat) : Prop where
  granules : disturbedIn s id = []
  links : s.lineErrs = []
  wrappers : ∀ ofs, wrapperClosed s (memBlk id ofs) = false
  port : isLower id = true → portUp s (lowerPort id) = true

theorem errs_of_disturbedIn (h : disturbedIn s id = []) {k : Nat} (hk : k / (frameBytes / 32) = id) : Sparse.get 0 s.errs k = 0 := by
  rcases get_sparse_mem 0 s.errs k with hzero | hmem
  · exact hzero
  · have hnone : s.errs.filter (fun e => decide (e.1 / (frameBytes / 32) = id)) = [] := List.map_eq_nil_iff.1 h
    exact absurd (decide_eq_true hk) (List.filter_eq_nil_iff.1 hnone _ hmem)

theorem exec_burstMask_of_links (h : s.lineErrs = []) (id ofs : Nat) : Op.exec (burstMask id ofs) s = (.ok 0, s) :=
  burstMask_of_quiet fun c _ => by rw [h]; rfl

theorem isPoison_zero : isPoison 0 = false := by simp [isPoison]

/-- A granule of a whole frame reads as it stands, and its read leaves no trace. -/
theorem exec_readGranule_of_whole (h : Whole s id) {ofs : Nat} (hofs : ofs < frameBytes) (dev : Nat) :
    Op.exec (readGranule id ofs dev) s = (.ok (Sparse.getRun 0#8 s.mem (id * frameBytes + ofs) 32), s) := by
  have herr : Sparse.get 0 s.errs ((id * frameBytes + ofs) / 32) = 0 :=
    errs_of_disturbedIn h.granules (by unfold frameBytes at hofs ⊢; omega)
  have hport : (isLower id && (!portUp s (lowerPort id) || isPoison 0)) = false := by
    cases hl : isLower id with
    | false => rfl
    | true => rw [h.port hl, isPoison_zero]; rfl
  change Op.exec (if isLower id && (!portUp s (lowerPort id) || isPoison (Sparse.get 0 s.errs ((id * frameBytes + ofs) / 32))) then _
    else if wrapperClosed s (memBlk id ofs) then _ else _) s = _
  rw [herr, hport, h.wrappers, if_neg Bool.false_ne_true, if_neg Bool.false_ne_true, Op.exec_bind_of_ok (exec_burstMask_of_links h.links _ _)]
  rfl

theorem putBytes_of_get (hs : s.Canonical) {key : Nat} (herr : Sparse.get 0 s.errs (key / 32) = 0) :
    putBytes s key (Sparse.getRun 0#8 s.mem key 32) [key / 32] = s := by
  unfold putBytes
  rw [setRun_getRun hs.mem, List.foldl_cons, List.foldl_nil, set_of_get hs.errs herr]

theorem exec_cleanFrame_of_whole (hs : s.Canonical) (h : Whole s id) (page : Nat) : Op.exec (cleanFrame id page) s = (.ok (), s) := by
  unfold cleanFrame
  rw [Op.exec_get_bind, h.granules, List.filter_nil, List.append_nil]
  refine Op.exec_each_of_still fun g hg => ?_
  have hlt : g < 32 := List.mem_range.1 hg
  have hofs : 32 * g < frameBytes := by unfold frameBytes; omega
  have hkey : id * (frameBytes / 32) + g = (id * frameBytes + 32 * g) / 32 := by unfold frameBytes; omega
  rw [Op.exec_bind_of_ok (exec_readGranule_of_whole h hofs _)]
  have hput := putBytes_of_get hs (key := id * frameBytes + 32 * g)
    (errs_of_disturbedIn h.granules (by unfold frameBytes; omega))
  rw [← hkey] at hput
  exact congrArg (fun v => (Except.ok (), v)) hput

theorem exec_crossed_of_links (h : s.lineErrs = []) (cross : List Byte → Op (List Byte)) (data : List Byte) (v : State) :
    Op.exec (crossed s cross data) v = (.ok data, v) := by
  unfold crossed
  rw [h]
  rfl

theorem exec_crossFrames_of_links (h : s.lineErrs = []) (die upper page : Nat) : Op.exec (crossFrames die upper page) s = (.ok (), s) := by
  unfold crossFrames
  rw [Op.exec_get_bind]
  generalize ((List.range 4).map (fun i => 256 * i)).find? (fun o => decide (dieOf upper o ≠ die)) = o
  cases o with
  | none => rfl
  | some o =>
    refine (Op.exec_bind_of_ok (exec_crossed_of_links h _ _ s) _).trans ?_
    exact (Op.exec_bind_of_ok (exec_crossed_of_links h _ _ s) _).trans rfl

/-! ### What the traffic of frames counts -/

/-- The state but for registers, counts and wakes. -/
def offCounting (s : State) : State := { s with regs := [], counts := [], doms := [], rises := [] }

theorem view_of_offCounting {α : Type} {f : State → α} (hf : ∀ s, f (offCounting s) = f s := by exact fun _ => rfl)
    (h : offCounting t = offCounting s) : f t = f s := by rw [← hf t, h, hf]

theorem offCounting_bump (s : State) (lo : Nat) (ovf : Option (Nat × Nat)) (n : Nat) : offCounting (bump s lo ovf n) = offCounting s := rfl

theorem offCounting_woken (s : State) (d : Nat) : offCounting (if domOn s d then s else demandWake s d) = offCounting s := by
  split
  · rfl
  · exact view_of_offWakes (f := offCounting) (h := offWakes_demandAll s _)

theorem offCounting_countAccess (s : State) (id ofs : Nat) (write whole : Bool) (n : Nat) :
    offCounting (countAccess s id ofs write whole n) = offCounting s := by
  unfold countAccess
  dsimp only
  split
  · split <;> rw [offCounting_bump, offCounting_woken]
  · split
    · split <;> rw [offCounting_bump, offCounting_woken]
    · rw [offCounting_bump, offCounting_woken]

theorem offCounting_countFrame (s : State) (id : Nat) (write : Bool) : offCounting (countFrame s id write) = offCounting s := by
  unfold countFrame
  split
  · exact offCounting_countAccess s _ _ _ _ _
  · refine foldl_view offCounting (fun u g => ?_) _ s
    exact offCounting_bump u _ _ _

/-- The status registers of the CXL ports, and the counts of the tier controllers for the partitions. -/
def tierBook (a : Nat) : Bool :=
  decide (0xA0000100 ≤ a) && decide (a < 0xA0000200) && decide (a % 0x40 = 0) || decide (0xA0001000 ≤ a) && decide (a < 0xA0001400)

theorem tierBook_of_lt {a : Nat} (h : a < 0xA0000100) : tierBook a = false := by
  simp only [tierBook, Bool.or_eq_false_iff, Bool.and_eq_false_iff, decide_eq_false_iff_not]
  omega

theorem tierBook_of_inner {a : Nat} (h : 0xA0000100 ≤ a ∧ a < 0xA0000200) (hmod : a % 0x40 ≠ 0) : tierBook a = false := by
  simp only [tierBook, Bool.or_eq_false_iff, Bool.and_eq_false_iff, decide_eq_false_iff_not]
  omega

theorem tierBook_port {x : Nat} (h : x < 4) : tierBook (0xA0000100 + 0x40 * x) = true := by
  simp only [tierBook, Bool.or_eq_true, Bool.and_eq_true, decide_eq_true_eq]
  omega

theorem tierBook_exchanges (p : Fin 16) : tierBook (0xA0001018 + 0x40 * p.val) = true := by
  simp only [tierBook, Bool.or_eq_true, Bool.and_eq_true, decide_eq_true_eq]
  omega

theorem booksIn_woken (s : State) (d : Nat) : booksIn tierBook (if domOn s d then s else demandWake s d) = booksIn tierBook s := by
  split
  · rfl
  · exact booksIn_demandAll (by decide) s _

theorem booksIn_portBump {x : Nat} (h : x < 4) (s : State) (write : Bool) (n : Nat) :
    booksIn tierBook (if write then bump s (0xA0000118 + 0x40 * x) (some (0xA0000108 + 0x40 * x, 1)) n
      else bump s (0xA0000110 + 0x40 * x) (some (0xA0000108 + 0x40 * x, 0)) n) = booksIn tierBook s := by
  have hovf (i : Nat) : ∀ o ∈ some (0xA0000108 + 0x40 * x, i), tierBook o.1 = false := fun o ho =>
    Option.some.inj ho ▸ tierBook_of_inner (by omega) (by omega)
  split
  · exact booksIn_bump (tierBook_of_inner (by omega) (by omega)) (hovf _) s n
  · exact booksIn_bump (tierBook_of_inner (by omega) (by omega)) (hovf _) s n

theorem booksIn_countFrame (s : State) (id : Nat) (write : Bool) : booksIn tierBook (countFrame s id write) = booksIn tierBook s := by
  unfold countFrame
  split
  · next hl =>
    unfold countAccess
    rw [if_pos hl]
    exact (booksIn_portBump (lowerPort_lt id) _ _ _).trans (booksIn_woken s _)
  · refine foldl_view_of_mem (booksIn tierBook) (fun u g hg => ?_) s
    have hlt := List.mem_range.1 hg
    refine booksIn_bump ?_ (fun o ho => Option.some.inj ho ▸ tierBook_of_lt ?_) u 2048
    · split <;> exact tierBook_of_lt (by omega)
    · dsimp only
      omega

theorem countFrame_canonical (hs : s.Canonical) (id : Nat) (write : Bool) : (countFrame s id write).Canonical :=
  (countFrame_kept (.refl s) id write).canonical hs

/-- A whole frame stays whole while the traffic of frames is counted. -/
theorem Whole.countFrame (hs : s.Canonical) (h : Whole s id) (j : Nat) (write : Bool) : Whole (countFrame s j write) id := by
  have hview := offCounting_countFrame s j write
  refine ⟨(view_of_offCounting (f := fun u => disturbedIn u id) (h := hview)).trans h.granules,
    (view_of_offCounting (f := State.lineErrs) (h := hview)).trans h.links,
    fun ofs => (view_of_offCounting (f := fun u => wrapperClosed u (memBlk id ofs)) (h := hview)).trans (h.wrappers ofs), fun hl => ?_⟩
  unfold portUp
  rw [rawReg_of_booksIn hs (countFrame_canonical hs j write) (booksIn_countFrame s j write) (tierBook_port (lowerPort_lt id))]
  exact h.port hl

/-- The read of both frames of an exchange, where nothing disturbs them, only counts. -/
theorem exec_readExchange_of_whole (hs : s.Canonical) {m : PartMem} {e : Exchange} (ha : a = m.pages.getD e.pageA 0)
    (hb : b = m.pages.getD e.pageB 0) (hwa : Whole s a) (hwb : Whole s b) :
    Op.exec (readExchange m e) s = (.ok (), countFrame (countFrame s a false) b false) := by
  have hmod (f : State → State) (u : State) : Op.exec (Op.mod f) u = (.ok (), f u) := rfl
  have hs' := countFrame_canonical hs a false
  have hs'' := countFrame_canonical hs' b false
  have hwa' := hwa.countFrame hs a false
  have hwb' := (hwb.countFrame hs a false).countFrame hs' b false
  unfold readExchange
  dsimp only
  rw [← ha, ← hb, Op.exec_bind_of_ok (hmod _ _), Op.exec_bind_of_ok (exec_cleanFrame_of_whole hs' hwa' _), Op.exec_bind_of_ok (hmod _ _),
    Op.exec_bind_of_ok (exec_cleanFrame_of_whole hs'' hwb' _)]
  split
  · exact exec_crossFrames_of_links hwb'.links _ _ _
  · exact exec_crossFrames_of_links hwb'.links _ _ _

/-! ### MIGRs that go on -/

theorem pages_startExchanges (m : PartMem) (toLower : Bool) (free : Nat → Bool) (is : List Nat) :
    (startExchanges m toLower free is).pages = m.pages := by
  induction is generalizing m with
  | nil => rfl
  | cons i is ih =>
    unfold startExchanges
    dsimp only
    rw [ih]
    split
    · rfl
    · split <;> rfl

theorem pages_advanceMigr (m : PartMem) (g : Granule) (todo : List Nat) : (advanceMigr m g todo).1.pages = m.pages :=
  pages_startExchanges _ _ _ _

/-- What MIGRs that go on keep of their partition: its pages, and all but the waits of its flights; and nothing waits for others. -/
structure MigrsOn (p : Fin 16) (s t : State) : Prop where
  rest : { t with parts := s.parts } = s
  pages : (t.part p).mem.pages = (s.part p).mem.pages
  halted : (t.part p).halted = (s.part p).halted
  settled : Settled (s.part p) → Settled (t.part p)

theorem MigrsOn.refl : MigrsOn p s s := ⟨rfl, rfl, rfl, id⟩

theorem MigrsOn.trans (h : MigrsOn p s t) (h' : MigrsOn p t u) : MigrsOn p s u := by
  obtain ⟨hrest, hpages, hhalted, hsettled⟩ := h
  obtain ⟨hrest', hpages', hhalted', hsettled'⟩ := h'
  exact ⟨(congrArg (fun v : State => { v with parts := s.parts }) hrest').trans hrest, hpages'.trans hpages, hhalted'.trans hhalted,
    fun hs => hsettled' (hsettled hs)⟩

theorem migrWait_of_settled (left : List Nat) : migrWait left ≠ .behind ∧ migrWait left ≠ .ended := by
  unfold migrWait
  split <;> exact ⟨nofun, nofun⟩

theorem Settled.setWait {r : StreamTag} {n : Nat} {w : FlightWait} (h : Settled (s.part p)) (hw : w ≠ .behind ∧ w ≠ .ended) :
    Settled ((setWait s p r n w).part p) := by
  rw [show (Machine.setWait s p r n w).part p = _ from part_setStream s p r _]
  refine ⟨fun k f hf => ?_, (by cases r <;> rfl : _ = (s.part p).colls).trans h.colls⟩
  by_cases hk : k = r
  · subst hk
    rw [Part.stream_setStream_same] at hf
    obtain ⟨e, he, rfl⟩ := List.mem_map.1 hf
    split
    · exact hw
    · exact h.flights k e he
  · rw [Part.stream_setStream_ne _ _ hk] at hf
    exact h.flights k f hf

theorem MigrsOn.advance (s : State) (p : Fin 16) (r : StreamTag) (f : Flight) (todo : List Nat) :
    MigrsOn p s (setWait (s.modPart p (fun x => { x with mem := (advanceMigr (s.part p).mem f.word todo).1 })) p r f.seq
      (migrWait (advanceMigr (s.part p).mem f.word todo).2)) := by
  have hpart := State.part_modPart_same s p (fun x => { x with mem := (advanceMigr (s.part p).mem f.word todo).1 })
  refine ⟨rfl, ?_, ?_, fun h => Settled.setWait ?_ (migrWait_of_settled _)⟩
  · rw [part_setWait, hpart]
    exact pages_advanceMigr _ _ _
  · rw [show (setWait _ p r _ _).part p = _ from part_setStream _ p r _, hpart]
    cases r <;> rfl
  · rw [hpart]
    exact settled_of_streams h rfl fun k => by cases k <;> rfl

theorem MigrsOn.stream (p : Fin 16) (r : StreamTag) (fs : List Flight) (s : State) : MigrsOn p s (advanceStream p r fs s) := by
  induction fs generalizing s with
  | nil => exact .refl
  | cons f fs ih =>
    unfold advanceStream
    dsimp only
    refine .trans ?_ (ih _)
    split
    · exact .advance s p r f _
    · exact .refl

theorem MigrsOn.all (s : State) (p : Fin 16) : MigrsOn p s (advanceMigrs s p) :=
  (MigrsOn.stream p .F _ s).trans ((MigrsOn.stream p .B _ _).trans (MigrsOn.stream p .U _ _))

/-! ### The exchange ends -/

/-- Exchange number i of a partition is over. -/
def exchangeOver (s : State) (p : Fin 16) (i : Nat) : State :=
  s.modPart p (fun x => { x with mem := { x.mem with exch := x.mem.exch.eraseIdx i } })

/-- The frames that were read changed places, and the exchange is counted. -/
def exchangeCounted (s : State) (p : Fin 16) (a b : Nat) : State :=
  bump (countFrame (countFrame (swapFrames s a b) a true) b true) (0xA0001018 + 0x40 * p.val) none 1

/-- The pages of an exchange trade their frames. -/
def pagesTraded (s : State) (p : Fin 16) (e : Exchange) (a b : Nat) : State :=
  s.modPart p (fun x => { x with mem := { x.mem with pages := (x.mem.pages.set e.pageA b).set e.pageB a } })

/-- The state that an exchange of whole frames leaves before the MIGRs go on. -/
def exchanged (s : State) (p : Fin 16) (i : Nat) (e : Exchange) (a b : Nat) : State :=
  pagesTraded (exchangeCounted (countFrame (countFrame (exchangeOver s p i) a false) b false) p a b) p e a b

theorem exchangeOver_canonical (hs : s.Canonical) (p : Fin 16) (i : Nat) : (exchangeOver s p i).Canonical := { hs with }

theorem Whole.exchangeOver (h : Whole s id) (p : Fin 16) (i : Nat) : Whole (exchangeOver s p i) id :=
  ⟨h.granules, h.links, h.wrappers, h.port⟩

theorem endExchange_of_whole (hs : s.Canonical) {i : Nat} {e : Exchange} (he : (s.part p).mem.exch[i]? = some e)
    (ha : a = (s.part p).mem.pages.getD e.pageA 0) (hb : b = (s.part p).mem.pages.getD e.pageB 0) (hwa : Whole s a) (hwb : Whole s b) :
    endExchange p i s = advanceMigrs (exchanged s p i e a b) p := by
  have hread := exec_readExchange_of_whole (exchangeOver_canonical hs p i) ha hb (hwa.exchangeOver p i) (hwb.exchangeOver p i)
  unfold endExchange
  rw [he]
  dsimp only
  rw [← ha, ← hb]
  change (match Op.exec (readExchange (s.part p).mem e) (Machine.exchangeOver s p i) with | (.error t, s) => _ | (.ok _, s) => _) = _
  rw [hread]
  rfl

theorem pagesTraded_canonical (hs : s.Canonical) (p : Fin 16) (e : Exchange) (a b : Nat) : (pagesTraded s p e a b).Canonical := { hs with }

theorem swapFrames_canonical (hs : s.Canonical) (a b : Nat) : (swapFrames s a b).Canonical :=
  { hs with mem := swapRange_wf hs.mem _ _ _, errs := swapRange_wf hs.errs _ _ _ }

/-- The state in which both frames of an exchange are read. -/
def exchangeRead (s : State) (p : Fin 16) (i a b : Nat) : State := countFrame (countFrame (exchangeOver s p i) a false) b false

theorem exchangeRead_canonical (hs : s.Canonical) (p : Fin 16) (i a b : Nat) : (exchangeRead s p i a b).Canonical :=
  countFrame_canonical (countFrame_canonical (exchangeOver_canonical hs p i) a false) b false

theorem offCounting_exchangeRead (s : State) (p : Fin 16) (i a b : Nat) :
    offCounting (exchangeRead s p i a b) = offCounting (exchangeOver s p i) := by
  rw [exchangeRead, offCounting_countFrame, offCounting_countFrame]

theorem offCounting_exchangeCounted (s : State) (p : Fin 16) (a b : Nat) :
    offCounting (exchangeCounted s p a b) = offCounting (swapFrames s a b) := by
  rw [exchangeCounted, offCounting_bump, offCounting_countFrame, offCounting_countFrame]

theorem part_exchanged (s : State) (p : Fin 16) (i : Nat) (e : Exchange) (a b : Nat) : (exchanged s p i e a b).part p =
    { s.part p with mem := { (s.part p).mem with
      exch := (s.part p).mem.exch.eraseIdx i, pages := ((s.part p).mem.pages.set e.pageA b).set e.pageB a } } := by
  have hcounted : (exchangeCounted (exchangeRead s p i a b) p a b).part p = (swapFrames (exchangeRead s p i a b) a b).part p :=
    view_of_offCounting (f := fun u => u.part p) (h := offCounting_exchangeCounted _ p a b)
  have hswap (u : State) : (swapFrames u a b).part p = u.part p := rfl
  have hread : (exchangeRead s p i a b).part p = (exchangeOver s p i).part p :=
    view_of_offCounting (f := fun u => u.part p) (h := offCounting_exchangeRead s p i a b)
  rw [show (exchanged s p i e a b).part p = _ from State.part_modPart_same (exchangeCounted (exchangeRead s p i a b) p a b) p _,
    hcounted, hswap, hread, show (exchangeOver s p i).part p = _ from State.part_modPart_same s p _]

theorem mem_exchanged (s : State) (p : Fin 16) (i : Nat) (e : Exchange) (a b : Nat) :
    (exchanged s p i e a b).mem = (swapFrames (exchangeRead s p i a b) a b).mem := by
  have hcounted : (exchangeCounted (exchangeRead s p i a b) p a b).mem = _ :=
    view_of_offCounting (f := State.mem) (h := offCounting_exchangeCounted (exchangeRead s p i a b) p a b)
  exact hcounted

theorem mem_exchangeRead (s : State) (p : Fin 16) (i a b : Nat) : (exchangeRead s p i a b).mem = s.mem := by
  have hread : (exchangeRead s p i a b).mem = (exchangeOver s p i).mem :=
    view_of_offCounting (f := State.mem) (h := offCounting_exchangeRead s p i a b)
  exact hread

theorem get_exchanged (hs : s.Canonical) (p : Fin 16) (i : Nat) (e : Exchange) (hab : a ≠ b) (j : Nat) :
    Sparse.get 0#8 (exchanged s p i e a b).mem j =
      if a * frameBytes ≤ j ∧ j < a * frameBytes + frameBytes then Sparse.get 0#8 s.mem (b * frameBytes + (j - a * frameBytes))
      else if b * frameBytes ≤ j ∧ j < b * frameBytes + frameBytes then Sparse.get 0#8 s.mem (a * frameBytes + (j - b * frameBytes))
      else Sparse.get 0#8 s.mem j := by
  rw [mem_exchanged, get_swapFrames (exchangeRead_canonical hs p i a b) hab, mem_exchangeRead]

theorem sess_exchanged (s : State) (p : Fin 16) (i : Nat) (e : Exchange) (a b : Nat) : (exchanged s p i e a b).sess = s.sess := by
  have hcounted : (exchangeCounted (exchangeRead s p i a b) p a b).sess = (swapFrames (exchangeRead s p i a b) a b).sess :=
    view_of_offCounting (f := State.sess) (h := offCounting_exchangeCounted (exchangeRead s p i a b) p a b)
  have hread : (exchangeRead s p i a b).sess = (exchangeOver s p i).sess :=
    view_of_offCounting (f := State.sess) (h := offCounting_exchangeRead s p i a b)
  exact hcounted.trans hread

theorem count_exchanged (hs : s.Canonical) (p : Fin 16) (i : Nat) (e : Exchange) (a b : Nat) :
    count (exchanged s p i e a b) (0xA0001018 + 0x40 * p.val) = (count s (0xA0001018 + 0x40 * p.val) + 1) % 2 ^ 48 := by
  have hread := exchangeRead_canonical hs p i a b
  have hswap := swapFrames_canonical hread a b
  have hone := countFrame_canonical hswap a true
  have htwo := countFrame_canonical hone b true
  have hbooks : booksIn tierBook (countFrame (countFrame (swapFrames (exchangeRead s p i a b) a b) a true) b true) = booksIn tierBook s := by
    rw [booksIn_countFrame, booksIn_countFrame]
    refine (rfl : _ = booksIn tierBook (exchangeRead s p i a b)).trans ?_
    rw [exchangeRead, booksIn_countFrame, booksIn_countFrame]
    rfl
  rw [← count_of_booksIn hs htwo hbooks (tierBook_exchanges p)]
  exact (count_bump htwo _ none 1 _).trans (if_pos rfl)

/-! ### The row -/

theorem waitingSessions_of_none (h : NoneAhead s) : waitingSessions s = [] := by
  unfold waitingSessions
  rw [List.filter_eq_nil_iff.mpr fun e he => by simp [h e he]]
  rfl

theorem exec_exchangeDone {i : Nat} (h : NoneAhead (settle p (endExchange p i s))) :
    exec (.exchangeDone p i) s = .next (settle p (endExchange p i s)) := by
  change Host.Outcome.next ((waitingSessions (settle p (endExchange p i s))).foldl deliverAll (settle p (endExchange p i s))) = _
  rw [waitingSessions_of_none h]
  rfl

/-- Where nothing waits, an exchange of whole frames ends with the MIGRs of the partition going on, and settles. -/
theorem exec_exchangeDone_of_whole (hs : s.Canonical) (hsettled : Settled (s.part p)) (hhalt : (s.part p).halted = false)
    (hnone : NoneAhead s) {i : Nat} {e : Exchange} (he : (s.part p).mem.exch[i]? = some e)
    (ha : a = (s.part p).mem.pages.getD e.pageA 0) (hb : b = (s.part p).mem.pages.getD e.pageB 0) (hwa : Whole s a) (hwb : Whole s b) :
    ∃ v, exec (.exchangeDone p i) s = .next v ∧
      (v.part p).mem.pages = ((s.part p).mem.pages.set e.pageA b).set e.pageB a ∧
      v.mem = (exchanged s p i e a b).mem ∧ v.counts = (exchanged s p i e a b).counts := by
  have hend := endExchange_of_whole hs he ha hb hwa hwb
  have hpart := part_exchanged s p i e a b
  obtain ⟨hrest, hpages, hhalted, hsettles⟩ := MigrsOn.all (exchanged s p i e a b) p
  have hsess := sess_exchanged s p i e a b
  have hmem : (advanceMigrs (exchanged s p i e a b) p).mem = (exchanged s p i e a b).mem :=
    (congrArg State.mem hrest : ({ advanceMigrs _ p with parts := _ } : State).mem = _)
  have hcounts : (advanceMigrs (exchanged s p i e a b) p).counts = (exchanged s p i e a b).counts :=
    (congrArg State.counts hrest : ({ advanceMigrs _ p with parts := _ } : State).counts = _)
  have hsess' : (advanceMigrs (exchanged s p i e a b) p).sess = s.sess :=
    (congrArg State.sess hrest : ({ advanceMigrs _ p with parts := _ } : State).sess = _).trans hsess
  rw [hpart] at hpages hhalted
  have hdone := hsettles (hpart ▸ settled_of_streams hsettled rfl fun r => by cases r <;> rfl)
  have hrun := hhalted.trans hhalt
  refine ⟨_, exec_exchangeDone ?_, ?_⟩
  · rw [hend]
    exact hnone.of_sess ((sess_settle hdone hrun).trans hsess')
  · rw [hend, part_settle hdone hrun, mem_settle hdone hrun, counts_settle hdone hrun]
    exact ⟨hpages, hmem, hcounts⟩

/-- Settles O43, row by row: what the window's end, an exchange of whole frames, a zeroed frame and a PUB each leave. -/
theorem tierEvents : Obligations.TierEvents := by
  intro s p t i k id a b ofs slot name e f east hs
  refine ⟨⟨_, exec_autoMigrationWindow s east, ?_, fun q => ?_⟩,
    fun hsettled hhalt hnone he ha hb hab hda hdb hlines hwrap hupa hupb hofs => ?_, fun hsettled hhalt hid hofs => ?_,
    fun hf hwait hslot hname hnamed hfirst hquiet hgo => ?_⟩
  · rw [mem_newWindows, mem_windowEnd]
  · obtain ⟨hrest, hstill⟩ := part_windowEnd s east q
    rw [part_newWindows, if_pos (List.mem_finRange q)]
    have hpages : ((windowEnd s east).part q).mem.pages = (s.part q).mem.pages := by rw [hrest]
    exact ⟨rfl, hpages, hstill⟩
  · obtain ⟨v, hexec, hpages, hmem, hcounts⟩ := exec_exchangeDone_of_whole hs hsettled hhalt hnone he ha hb
      ⟨hda, hlines, hwrap a (.inl rfl), hupa⟩ ⟨hdb, hlines, hwrap b (.inr rfl), hupb⟩
    have hapart := frames_apart hab
    have hget := get_exchanged hs p i e hab
    refine ⟨v, hexec, hpages, ?_, ?_, fun hka hkb => ?_, ?_⟩
    · rw [hmem, hget, if_neg (by omega), if_pos (by omega), Nat.add_sub_cancel_left]
    · rw [hmem, hget, if_pos (by omega), Nat.add_sub_cancel_left]
    · rw [hmem, hget, if_neg (not_in_frame hka), if_neg (not_in_frame hkb)]
    · rw [count, hcounts]
      exact count_exchanged hs p i e a b
  · have hpart := part_frameZeroed hid
    have hdone : Settled ((frameZeroed p i s).part p) := hpart ▸ settled_of_streams hsettled rfl fun r => by cases r <;> rfl
    have hrun : ((frameZeroed p i s).part p).halted = false := hpart ▸ hhalt
    refine ⟨settle p (frameZeroed p i s), rfl, ?_⟩
    rw [part_settle hdone hrun, mem_settle hdone hrun, hpart, mem_frameZeroed hid]
    refine ⟨rfl, rfl, ?_, fun hk => ?_⟩
    · rw [get_zeroFrame hs, if_neg (by omega)]
      rfl
    · have hout := not_in_frame hk
      rw [get_zeroFrame hs, if_pos (by omega)]
  · subst hname
    refine ⟨_, exec_pubPublish hf hwait hslot hfirst hquiet hgo, ?_⟩
    rw [part_setWait, State.part_modPart_same]
    have hget := get_names_publish (s.part p).mem slot hnamed
    exact ⟨congrArg NameEntry.version hget, congrArg NameEntry.slot hget, rfl⟩

end Sys2Proof.Machine
end

section
/-! A prefetch entry starts and ends (R348); O44. -/

namespace Sys2Proof.Machine

variable {s u : State} {p : Fin 16}

/-! ### PREFs that wait for room -/

theorem retryStream_of_none {r : StreamTag} {fs : List Flight} (h : ∀ f ∈ fs, f.wait ≠ .pref) : retryStream p r fs s = s := by
  induction fs with
  | nil => rfl
  | cons f fs ih =>
    unfold retryStream
    rw [if_neg (h f List.mem_cons_self), ih fun e he => h e (List.mem_cons_of_mem _ he), ite_self]

theorem retryPrefs_of_none (h : ∀ r, ∀ f ∈ (s.stream p r).flight, f.wait ≠ .pref) : retryPrefs s p = s := by
  simp only [retryPrefs, List.foldl_cons, List.foldl_nil, retryStream_of_none (h _)]

/-! ### The copy of an entry -/

theorem prefCopy_leaves {α : Type} {f : State → α} (hread : ∀ side a n, Op.Leaves f (readMem side p a n))
    (hwrite : ∀ side a bs, Op.Leaves f (writeMem side p a bs)) (e : PrefEntry) (slot : Nat) : Op.Leaves f (prefCopy p e slot) := by
  have hstripe {die : State → Nat} {a b : Nat} : Op.Leaves f (Op.get >>= fun s => readMem (.io (die s)) p a 256 >>= fun bs =>
      writeMem (.io (die s)) p b bs) := .bind .get (fun _ => .bind (hread _ _ _) (fun _ => hwrite _ _ _))
  unfold prefCopy
  refine .ite (.bind (.stop _) (fun _ => .each fun i => ?_)) (.each fun i => ?_)
  · exact hstripe
  · exact hstripe

theorem prefCopy_leaves_steady (p : Fin 16) (e : PrefEntry) (slot : Nat) : Op.Leaves steady (prefCopy p e slot) :=
  prefCopy_leaves (fun _ _ _ => readMem_leaves_steady _ _ _ _) (fun _ _ _ => writeMem_leaves_steady _ _ _ _) e slot

theorem prefCopy_leaves_so (p : Fin 16) (e : PrefEntry) (slot : Nat) : Op.Leaves State.so (prefCopy p e slot) :=
  prefCopy_leaves (fun _ _ _ s => view_of_offReads (f := State.so) (h := readMem_leaves_offReads hidesShelves_nothing _ _ _ _ s))
    (fun _ _ _ s => view_of_offWrites (f := State.so) (h := writeMem_leaves_offWrites hidesShelves_nothing _ _ _ _ s)) e slot

/-! ### The rows -/

theorem exec_prefetchEntryStart {e : PrefEntry} {rest : List PrefEntry} {y : NameEntry} {n : Nat} (hq : (s.part p).mem.prefQ = e :: rest)
    (hy : y = Sparse.get NameEntry.zero (s.part p).mem.names e.name) (hgo : prefetches (s.part p) = true) (hsrc : e.src = none)
    (hready : prefReady s (s.part p) e = true) (hslot : y.slot = n + 1) : exec (.prefetchEntryStart p) s =
      .next (s.setPart p { s.part p with mem := addRef { (s.part p).mem with prefQ := { e with src := some n, ver := y.version } :: rest } n }) := by
  change execPrefetchEntryStart p s = _
  unfold execPrefetchEntryStart
  dsimp only
  rw [hq]
  dsimp only
  rw [← hy, hgo, hready, hsrc, hslot]
  rfl

theorem exec_prefetchCopyDone_of_exchanging {e : PrefEntry} {rest : List PrefEntry} {slot : Nat} (hq : (s.part p).mem.prefQ = e :: rest)
    (hsrc : e.src = some slot) (hexch : exchanging (s.part p).mem e.dst (256 * e.len) = true) : exec (.prefetchCopyDone p) s = .next s := by
  change execPrefetchCopyDone p s = _
  unfold execPrefetchCopyDone
  dsimp only
  rw [hq]
  dsimp only
  rw [hsrc]
  exact if_pos hexch

/-- The entry at the head is gone from its queue, with the reference on its slot. -/
def entryGone (s : State) (p : Fin 16) (rest : List PrefEntry) (slot : Nat) : State :=
  s.modPart p (fun x => { x with mem := dropRef { x.mem with prefQ := rest } slot })

/-- The copy's bytes are counted. -/
def copyCounted (s : State) (p : Fin 16) (e : PrefEntry) : State := bump s (0xA0001028 + 0x40 * p.val) none (256 * e.len)

/-- The entry's FULL signal is given. -/
def fullGiven (s : State) (e : PrefEntry) : State := if e.fullEn then applySignal s e.fullSo .add 1#32 else s

theorem exec_prefetchCopyDone {e : PrefEntry} {rest : List PrefEntry} {slot : Nat} (hq : (s.part p).mem.prefQ = e :: rest)
    (hsrc : e.src = some slot) (hexch : exchanging (s.part p).mem e.dst (256 * e.len) = false)
    (hcopy : Op.exec (prefCopy p e slot) s = (.ok (), u)) :
    exec (.prefetchCopyDone p) s = .next (retryPrefs (fullGiven (copyCounted (entryGone u p rest slot) p e) e) p) := by
  change execPrefetchCopyDone p s = _
  unfold execPrefetchCopyDone
  dsimp only
  rw [hq]
  dsimp only
  rw [hsrc]
  dsimp only
  rw [hexch, if_neg Bool.false_ne_true, hcopy]
  rfl

theorem prefQ_dropRef (m : PartMem) (i : Nat) : (dropRef m i).prefQ = m.prefQ := by
  unfold dropRef freeRetired
  dsimp only
  split <;> rfl

theorem mem_part_entryGone (s : State) (p : Fin 16) (rest : List PrefEntry) (slot : Nat) : ((entryGone s p rest slot).part p).mem.prefQ = rest := by
  rw [show (entryGone s p rest slot).part p = _ from State.part_modPart_same s p _]
  exact prefQ_dropRef _ _

theorem steady_entryGone (s : State) (p : Fin 16) (rest : List PrefEntry) (slot : Nat) : steady (entryGone s p rest slot) = steady s :=
  steady_modPart s p _

theorem steady_fullGiven (s : State) (e : PrefEntry) : steady (fullGiven s e) = steady s := by
  unfold fullGiven
  split
  · exact steady_applySignal _ _ _ _
  · rfl

theorem mem_part_applySignal (s : State) (n : Nat) (op : SigOp) (amount : Word) (q : Fin 16) :
    ((applySignal s n op amount).part q).mem = (s.part q).mem := by
  unfold applySignal
  dsimp only
  split
  · exact part_modPart_view (v := Part.mem) (f := fun y => observePart y n _) (fun x => by
      unfold observePart
      split <;> rfl) _ _ q
  · rfl

theorem mem_part_fullGiven (s : State) (e : PrefEntry) (q : Fin 16) : ((fullGiven s e).part q).mem = (s.part q).mem := by
  unfold fullGiven
  split
  · exact mem_part_applySignal _ _ _ _ _
  · rfl

theorem offSignals_fullGiven (s : State) (e : PrefEntry) : offSignals (fullGiven s e) = offSignals s := by
  unfold fullGiven
  split
  · exact offSignals_applySignal _ _ _ _
  · rfl

theorem entryGone_canonical (hs : s.Canonical) (p : Fin 16) (rest : List PrefEntry) (slot : Nat) : (entryGone s p rest slot).Canonical :=
  { hs with }

/-- Settles O44: the entry's resolution, and the end of its copy with the signal that it gives. -/
theorem prefetchEntries : Obligations.PrefetchEntries := by
  intro s u p e rest y n slot hs hq hy
  refine ⟨fun hgo hsrc hready hslot => ⟨_, exec_prefetchEntryStart hq hy hgo hsrc hready hslot, ?_, rfl⟩,
    fun hsrc hexch => ⟨s, exec_prefetchCopyDone_of_exchanging hq hsrc hexch, rfl⟩, fun hsrc hexch hcopy hnone => ?_⟩
  · rw [State.part_setPart_same]
    rfl
  · have hu : u.Canonical := by
      have h := Op.exec_kept (prefCopy_kept p e slot) (.refl s)
      rw [hcopy] at h
      exact h.canonical hs
    have hsteady : steady u = steady s := by
      have h := prefCopy_leaves_steady p e slot s
      rwa [hcopy] at h
    have hso : u.so = s.so := by
      have h := prefCopy_leaves_so p e slot s
      rwa [hcopy] at h
    have hgone := entryGone_canonical hu p rest slot
    have hcounted : (copyCounted (entryGone u p rest slot) p e).Canonical := (bump_kept (.refl _) _ _ _).canonical hgone
    have hretry : retryPrefs (fullGiven (copyCounted (entryGone u p rest slot) p e) e) p =
        fullGiven (copyCounted (entryGone u p rest slot) p e) e := by
      have hcounted : steady (copyCounted (entryGone u p rest slot) p e) = steady s :=
        (steady_entryGone u p rest slot).trans hsteady
      refine retryPrefs_of_none fun r f hf => hnone r f ?_
      rwa [flight_of_steady ((steady_fullGiven _ e).trans hcounted) p r] at hf
    refine ⟨_, exec_prefetchCopyDone hq hsrc hexch hcopy, ?_⟩
    rw [hretry, mem_part_fullGiven, view_of_offSignals (f := State.mem) (h := offSignals_fullGiven _ e)]
    refine ⟨mem_part_entryGone u p rest slot, rfl, ?_, fun hfull => ?_⟩
    · rw [count, view_of_offSignals (f := State.counts) (h := offSignals_fullGiven _ e)]
      exact (count_bump hgone _ none _ _).trans (if_pos rfl)
    · have hvalue := soGet_applySignal_same hcounted e.fullSo .add 1#32
      rw [fullGiven, if_pos hfull, hvalue]
      have hget : soGet (copyCounted (entryGone u p rest slot) p e) e.fullSo = soGet s e.fullSo :=
        congrArg (fun m => Sparse.get SyncObj.zero m e.fullSo) hso
      rw [hget]
      rfl

end Sys2Proof.Machine
end

section
/-! Bytes written to tiered pages (R326) read back as written, and no other byte changes; O47. -/

namespace Sys2Proof.Machine

variable {s u v : State} {p : Fin 16}

/-! ### What a decoded granule holds -/

/-- The bytes that a decoder delivers, if it delivers any. -/
def Decoded.data? : Decoded → Option (List Byte)
  | .clean d => some d
  | .corrected d => some d
  | .uncorrectable => none

theorem length_leBytes (n v : Nat) : (leBytes n v).length = n := by
  induction n generalizing v with
  | zero => rfl
  | succ n ih => rw [leBytes, List.length_cons, ih]

theorem length_granuleWord {data : List Byte} (h : data.length = 32) (mask : Nat) : (granuleWord data mask).length = 36 := by
  rw [granuleWord, List.length_zipWith, length_append_c256Check h, length_leBytes]
  rfl

theorem length_c256Try1 {word w : List Byte} {i : Nat} (hword : word.length = 36) (h : c256Try1 word i = some w) : w.length = 36 := by
  unfold c256Try1 at h
  dsimp only at h
  split at h
  · cases h
    exact length_flipByte hword _ _
  · cases h

theorem length_c256Try2 {word w : List Byte} {i j : Nat} (hword : word.length = 36) (h : c256Try2 word i j = some w) :
    w.length = 36 := by
  unfold c256Try2 at h
  dsimp only at h
  split at h
  · cases h
    exact length_flipByte (length_flipByte hword _ _) _ _
  · cases h

theorem length_c256Decode {pol : Policy} {word d : List Byte} (hword : word.length = 36) (h : (c256Decode pol word).data? = some d) :
    d.length = 32 := by
  have htake {w : List Byte} (hw : w.length = 36) : (w.take 32).length = 32 := by rw [List.length_take, hw]; rfl
  unfold c256Decode at h
  split at h
  · cases h
    exact htake hword
  · split at h
    · next w hw =>
      cases h
      obtain ⟨i, -, hi⟩ := List.exists_of_findSome?_eq_some hw
      exact htake (length_c256Try1 hword hi)
    · cases pol with
      | correct1 => cases h
      | correct2 =>
        dsimp only at h
        split at h
        · next w hw =>
          cases h
          obtain ⟨x, -, hx⟩ := List.exists_of_findSome?_eq_some hw
          exact htake (length_c256Try2 hword hx)
        · cases h

theorem length_getRun {α : Type} (d : α) (m : Sparse α) (k n : Nat) : (Sparse.getRun d m k n).length = n := by
  induction n generalizing k with
  | zero => rfl
  | succ n ih => rw [Sparse.getRun, List.length_cons, ih]

theorem getD_getRun {α : Type} (d : α) (m : Sparse α) (k : Nat) {n j : Nat} (h : j < n) :
    (Sparse.getRun d m k n).getD j d = Sparse.get d m (k + j) := by
  induction n generalizing k j with
  | zero => omega
  | succ n ih =>
    cases j with
    | zero => rfl
    | succ j =>
      rw [Sparse.getRun, List.getD_cons_succ, ih (k + 1) (by omega)]
      congr 1
      omega

theorem length_decodeGranule {pol : Policy} {data d : List Byte} {mask : Nat} (hdata : data.length = 32)
    (h : (decodeGranule pol data mask).data? = some d) : d.length = 32 := by
  unfold decodeGranule at h
  split at h
  · cases h
    exact hdata
  · split at h
    · cases h
    · exact length_c256Decode (length_granuleWord hdata mask) h

/-! ### A granule read -/

/-- The shelves' bytes and disturbances, the links' disturbances, and the partitions. -/
def ground (s : State) : Sparse Byte × Sparse Nat × Sparse Nat × Vector Part 16 := (s.mem, s.errs, s.lineErrs, s.parts)

theorem ground_requestProof (s : State) (kind index : Nat) : ground (requestProof s kind index) = ground s := by
  unfold requestProof
  split
  · rfl
  · split <;> rfl

theorem ground_noteCorrected (s : State) (id ofs : Nat) : ground (noteCorrected s id ofs) = ground s := by
  unfold noteCorrected
  dsimp only
  split
  · exact ground_requestProof _ _ _
  · exact (ground_requestProof _ _ _).trans rfl

/-- A granule that is read, no link being disturbed: 32 bytes, as they stand where no disturbance lies, and the ground stays. -/
theorem readGranule_lands (hlines : s.lineErrs = []) {id ofs dev : Nat} {d : List Byte}
    (h : Op.exec (readGranule id ofs dev) s = (.ok d, u)) : d.length = 32 ∧ ground u = ground s ∧
      (Sparse.get 0 s.errs ((id * frameBytes + ofs) / 32) = 0 → d = Sparse.getRun 0#8 s.mem (id * frameBytes + ofs) 32) := by
  unfold readGranule at h
  rw [Op.exec_get_bind] at h
  dsimp only at h
  split at h
  · cases h
  · split at h
    · cases h
    · rw [Op.exec_bind_of_ok (exec_burstMask_of_links hlines _ _)] at h
      have hlen := fun {d} => length_decodeGranule (pol := shelfPolicy s id) (d := d)
        (mask := Nat.xor (Sparse.get 0 s.errs ((id * frameBytes + ofs) / 32)) 0) (length_getRun 0#8 s.mem (id * frameBytes + ofs) 32)
      have hclean : Sparse.get 0 s.errs ((id * frameBytes + ofs) / 32) = 0 →
          decodeGranule (shelfPolicy s id) (Sparse.getRun 0#8 s.mem (id * frameBytes + ofs) 32)
            (Nat.xor (Sparse.get 0 s.errs ((id * frameBytes + ofs) / 32)) 0) = .clean (Sparse.getRun 0#8 s.mem (id * frameBytes + ofs) 32) :=
        fun hz => by rw [hz]; rfl
      generalize decodeGranule (shelfPolicy s id) (Sparse.getRun 0#8 s.mem (id * frameBytes + ofs) 32)
        (Nat.xor (Sparse.get 0 s.errs ((id * frameBytes + ofs) / 32)) 0) = r at h hlen hclean
      cases r with
      | clean x =>
        cases h
        exact ⟨hlen rfl, rfl, fun hz => Decoded.clean.inj (hclean hz)⟩
      | corrected x =>
        cases h
        exact ⟨hlen rfl, ground_noteCorrected s _ _, fun hz => nomatch hclean hz⟩
      | uncorrectable => cases h

/-! ### A granule written -/

/-- What the write of a stripe makes of one granule of it, whole or in part. -/
def granuleOut (s : State) (side : Side) (id ofs a : Nat) (bytes : List Byte) (g : Nat × Nat) : Op (List Byte) := do
  let dev := a - ofs % 32 + (g.1 - ofs + ofs % 32) / 32 * 32
  let sent ← crossed s (crossOut side (dieOf id ofs) dev) (slice ((bytes.drop (g.1 - ofs)).take g.2) 0 32)
  let new := sent.take g.2
  if g.2 = 32 then
    if isLower id && !portUp s (lowerPort id) then do
      Op.mod (fun s => noteUncorrectable s id ofs)
      Op.stop (.mem 4 5 a (chanCode id ofs))
    else if wrapperClosed s (memBlk id g.1) then Op.stop (.mem 3 (placeCode id) a (chanCode id g.1))
    else pure new
  else do
    let old ← readGranule id (g.1 / 32 * 32) dev
    pure (old.take (g.1 % 32) ++ new ++ old.drop (g.1 % 32 + g.2))

/-- The bytes d of n granules from that of offset o on, of a frame in which the bytes from o to o + n are written: they hold these,
and else what the frame held, where nothing disturbs it. -/
structure Lands (s : State) (id ofs : Nat) (bytes : List Byte) (o n len : Nat) (d : List Byte) : Prop where
  length : d.length = len
  written : ∀ j < len, o ≤ o / 32 * 32 + j → o / 32 * 32 + j < o + n → d.getD j 0#8 = bytes.getD (o / 32 * 32 + j - ofs) 0#8
  kept : (∀ k, Sparse.get 0 s.errs k = 0) → ∀ j < len, ¬(o ≤ o / 32 * 32 + j ∧ o / 32 * 32 + j < o + n) →
    d.getD j 0#8 = Sparse.get 0#8 s.mem (id * frameBytes + o / 32 * 32 + j)

theorem take_slice {xs : List Byte} {n : Nat} (h : xs.length ≤ n) : (slice xs 0 n).take xs.length = xs := by
  unfold slice
  rw [List.drop_zero, List.take_of_length_le h, List.take_left]

/-- A granule's bytes between those that it held. -/
theorem getD_splice {old new : List Byte} {lo n : Nat} (hold : old.length = 32) (hnew : new.length = n) (hn : lo + n ≤ 32) {j : Nat} :
    (old.take lo ++ new ++ old.drop (lo + n)).getD j 0#8 = if lo ≤ j ∧ j < lo + n then new.getD (j - lo) 0#8 else old.getD j 0#8 := by
  have htake : (old.take lo).length = lo := by rw [List.length_take, hold]; omega
  have hboth : (old.take lo ++ new).length = lo + n := by rw [List.length_append, htake, hnew]
  by_cases hlo : j < lo
  · rw [if_neg (by omega), List.append_assoc, List.getD_append _ _ _ _ (by omega)]
    simp only [List.getD_eq_getElem?_getD, List.getElem?_take_of_lt hlo]
  · by_cases hhi : j < lo + n
    · rw [if_pos ⟨by omega, hhi⟩, List.getD_append _ _ _ _ (by omega), List.getD_append_right _ _ _ _ (by omega), htake]
    · rw [if_neg (by omega), List.getD_append_right _ _ _ _ (by omega), hboth]
      simp only [List.getD_eq_getElem?_getD, List.getElem?_drop]
      rw [show lo + n + (j - (lo + n)) = j by omega]

theorem getD_drop_take {xs : List Byte} {lo n j : Nat} (h : j < n) : ((xs.drop lo).take n).getD j 0#8 = xs.getD (lo + j) 0#8 := by
  simp only [List.getD_eq_getElem?_getD, List.getElem?_take_of_lt h, List.getElem?_drop]

theorem granuleOut_lands {side : Side} {id ofs a g n : Nat} {bytes d : List Byte} (hlines : s.lineErrs = []) (hv : v.lineErrs = [])
    (hg : ofs ≤ g) (hn : g % 32 + n ≤ 32) (hin : g - ofs + n ≤ bytes.length)
    (h : Op.exec (granuleOut s side id ofs a bytes (g, n)) v = (.ok d, u)) :
    Lands v id ofs bytes g n 32 d ∧ ground u = ground v := by
  have hlen : ((bytes.drop (g - ofs)).take n).length = n := by rw [List.length_take, List.length_drop]; omega
  have hnew : (slice ((bytes.drop (g - ofs)).take n) 0 32).take n = (bytes.drop (g - ofs)).take n := by
    have htake := take_slice (xs := (bytes.drop (g - ofs)).take n) (n := 32) (by omega)
    rwa [hlen] at htake
  unfold granuleOut at h
  dsimp only at h
  rw [Op.exec_bind_of_ok (exec_crossed_of_links hlines _ _ _), hnew] at h
  split at h
  · next hwhole =>
    split at h
    · cases h
    · split at h
      · cases h
      · cases h
        have hzero : g % 32 = 0 := by omega
        refine ⟨⟨by rw [hlen, hwhole], fun j hj _ _ => ?_, fun _ j hj hout => absurd ⟨by omega, by omega⟩ hout⟩, rfl⟩
        rw [getD_drop_take (by omega)]
        congr 1
        omega
  · rw [Op.exec_bind] at h
    split at h
    · next old w hread =>
      cases h
      obtain ⟨hold, hground, hclean⟩ := readGranule_lands hv hread
      have hsplice := fun {j} => getD_splice (j := j) hold hlen hn
      refine ⟨⟨?_, fun j hj hlo hhi => ?_, fun herr j hj hout => ?_⟩, hground⟩
      · rw [List.length_append, List.length_append, List.length_take, List.length_drop, hlen, hold]
        omega
      · rw [hsplice, if_pos (by omega), getD_drop_take (by omega)]
        congr 1
        omega
      · rw [hsplice, if_neg (by omega), hclean (herr _), getD_getRun _ _ _ hj]
    · cases h

/-! ### The granules of a stripe -/

theorem pieces_succ (unit fuel a : Nat) {n : Nat} (h : n ≠ 0) : pieces unit (fuel + 1) a n =
    (a, min n (unit - a % unit)) :: pieces unit fuel (a + min n (unit - a % unit)) (n - min n (unit - a % unit)) := by
  rw [pieces]
  exact if_neg h

theorem pieces_of_none (unit fuel a : Nat) : pieces unit fuel a 0 = [] := by
  cases fuel with
  | zero => rfl
  | succ fuel => exact if_pos rfl

/-- The granules of a run cover it, from the start of its first granule to the end of its last. -/
theorem length_granules {fuel o n : Nat} (hn : n ≠ 0) (hfuel : o % 32 + n ≤ 32 * fuel) :
    o % 32 + n ≤ 32 * (pieces 32 fuel o n).length ∧ 32 * (pieces 32 fuel o n).length < o % 32 + n + 32 := by
  induction fuel generalizing o n with
  | zero => omega
  | succ fuel ih =>
    rw [pieces_succ 32 fuel o hn, List.length_cons]
    by_cases hrest : n - min n (32 - o % 32) = 0
    · rw [hrest, pieces_of_none]
      simp only [List.length_nil]
      omega
    · have h := ih (o := o + min n (32 - o % 32)) hrest (by omega)
      omega

theorem Lands.of_ground {id ofs o n len : Nat} {bytes d : List Byte} (h : Lands u id ofs bytes o n len d) (hg : ground u = ground s) :
    Lands s id ofs bytes o n len d := by
  have hmem : u.mem = s.mem := congrArg Prod.fst hg
  have herrs : u.errs = s.errs := congrArg (fun x => x.2.1) hg
  exact ⟨h.length, h.written, fun hz j hj hout => hmem ▸ h.kept (herrs ▸ hz) j hj hout⟩

theorem Lands.none {id ofs o n : Nat} {bytes : List Byte} : Lands s id ofs bytes o n 0 [] :=
  ⟨rfl, fun _ hj => absurd hj (Nat.not_lt_zero _), fun _ _ hj => absurd hj (Nat.not_lt_zero _)⟩

/-- A first granule and those after it. -/
theorem Lands.append {id ofs o n len : Nat} {bytes d ds : List Byte} (hhead : Lands s id ofs bytes o (min n (32 - o % 32)) 32 d)
    (htail : Lands s id ofs bytes (o + min n (32 - o % 32)) (n - min n (32 - o % 32)) len ds)
    (hlen : n - min n (32 - o % 32) = 0 → len = 0) : Lands s id ofs bytes o n (32 + len) (d ++ ds) := by
  refine ⟨by rw [List.length_append, hhead.length, htail.length], fun j hj hlo hhi => ?_, fun hz j hj hout => ?_⟩
  · by_cases hfirst : j < 32
    · rw [List.getD_append _ _ _ _ (by rw [hhead.length]; exact hfirst)]
      exact hhead.written j hfirst hlo (by omega)
    · have hnext : (o + min n (32 - o % 32)) / 32 * 32 = o / 32 * 32 + 32 := by omega
      rw [List.getD_append_right _ _ _ _ (by rw [hhead.length]; omega), hhead.length,
        htail.written (j - 32) (by omega) (by omega) (by omega)]
      congr 1
      omega
  · by_cases hfirst : j < 32
    · rw [List.getD_append _ _ _ _ (by rw [hhead.length]; exact hfirst)]
      exact hhead.kept hz j hfirst (by omega)
    · have hnext : (o + min n (32 - o % 32)) / 32 * 32 = o / 32 * 32 + 32 := by omega
      rw [List.getD_append_right _ _ _ _ (by rw [hhead.length]; omega), hhead.length, htail.kept hz (j - 32) (by omega) (by omega)]
      congr 1
      omega

theorem granulesOut_land {side : Side} {id ofs a fuel o n : Nat} {bytes : List Byte} {ds : List (List Byte)} (hlines : s.lineErrs = [])
    (hv : v.lineErrs = []) (ho : ofs ≤ o) (hin : o - ofs + n ≤ bytes.length)
    (h : Op.exec (Op.map (pieces 32 fuel o n) (granuleOut s side id ofs a bytes)) v = (.ok ds, u)) :
    Lands v id ofs bytes o n (32 * (pieces 32 fuel o n).length) ds.flatten ∧ ground u = ground v := by
  induction fuel generalizing o n v ds with
  | zero =>
    cases h
    exact ⟨.none, rfl⟩
  | succ fuel ih =>
    by_cases hn : n = 0
    · subst hn
      rw [pieces_of_none] at h ⊢
      cases h
      exact ⟨.none, rfl⟩
    · rw [pieces_succ 32 fuel o hn] at h ⊢
      change Op.exec (granuleOut s side id ofs a bytes _ >>= fun d => Op.map _ _ >>= fun ds => pure (d :: ds)) v = _ at h
      rw [Op.exec_bind] at h
      split at h
      · next d w hd =>
        rw [Op.exec_bind] at h
        split at h
        · next rest x hrest =>
          cases h
          obtain ⟨hhead, hground⟩ := granuleOut_lands hlines hv ho (by omega) (by omega) hd
          have hw : w.lineErrs = [] := (congrArg (fun y => y.2.2.1) hground : w.lineErrs = v.lineErrs).trans hv
          obtain ⟨htail, hground'⟩ := ih hw (by omega) (by omega) hrest
          refine ⟨?_, hground'.trans hground⟩
          rw [List.length_cons, List.flatten_cons, Nat.mul_succ, Nat.add_comm]
          exact hhead.append (htail.of_ground hground) fun hz => by rw [hz, pieces_of_none]; rfl
        · cases h
      · cases h

/-! ### A stripe written -/

/-- What the write of a stripe's bytes into a frame leaves. -/
structure StripeLands (s u : State) (p : Fin 16) (id ofs : Nat) (bytes : List Byte) : Prop where
  lines : u.lineErrs = []
  pages : (u.part p).mem.pages = (s.part p).mem.pages
  written : ∀ i < bytes.length, Sparse.get 0#8 u.mem (id * frameBytes + ofs + i) = bytes.getD i 0#8
  outside : ∀ k, ¬(id * frameBytes + ofs / 256 * 256 ≤ k ∧ k < id * frameBytes + ofs / 256 * 256 + 256) →
    Sparse.get 0#8 u.mem k = Sparse.get 0#8 s.mem k
  kept : (∀ k, Sparse.get 0 s.errs k = 0) → ∀ k, ¬(id * frameBytes + ofs ≤ k ∧ k < id * frameBytes + ofs + bytes.length) →
    Sparse.get 0#8 u.mem k = Sparse.get 0#8 s.mem k
  errs : (∀ k, Sparse.get 0 s.errs k = 0) → ∀ k, Sparse.get 0 u.errs k = 0

/-- The granules of a stripe stand in their frame, and the access is counted. -/
def stripePut (p : Fin 16) (a id ofs n : Nat) (ds : List Byte) (clear : List Nat) (s : State) : State :=
  countPage (countAccess (putBytes s (id * frameBytes + ofs / 32 * 32) ds clear) id ofs true (decide (n = 256)) n) p a

theorem exec_writeStripe {side : Side} {a id ofs : Nat} {bytes : List Byte} (hloc : locate (s.part p).mem a = .frame id ofs) :
    Op.exec (writeStripe side p a bytes) s = Op.exec (Op.map (granules ofs bytes.length) (granuleOut s side id ofs a bytes) >>= fun ds =>
      Op.mod (stripePut p a id ofs bytes.length ds.flatten ((List.range (granules ofs bytes.length).length).map
        (fun i => (id * frameBytes + ofs / 32 * 32) / 32 + i)))) s := by
  unfold writeStripe
  rw [Op.exec_get_bind]
  extract_lets rest
  have hrest : Op.exec (rest ()) s = _ := Op.exec_get_bind _ s
  rw [hloc]
  change Op.exec (rest ()) s = _
  rw [hrest]
  dsimp only
  rw [hloc]
  rfl

theorem bytes_countPage (s : State) (p : Fin 16) (a : Nat) :
    (countPage s p a).mem = s.mem ∧ (countPage s p a).errs = s.errs ∧ (countPage s p a).lineErrs = s.lineErrs := by
  unfold countPage
  split <;> exact ⟨rfl, rfl, rfl⟩

theorem pages_countPage (s : State) (p : Fin 16) (a : Nat) (q : Fin 16) : ((countPage s p a).part q).mem.pages = (s.part q).mem.pages := by
  unfold countPage
  split
  · exact part_modPart_view (v := fun x : Part => x.mem.pages)
      (f := fun x => { x with mem := { x.mem with access := Sparse.modify 0 x.mem.access (a / frameBytes) (fun n => n + 1) } })
      (fun _ => rfl) s p q
  · rfl

/-- The count of an access leaves the ground but for the partitions, of which it keeps the pages. -/
theorem ground_stripePut (p : Fin 16) (a id ofs n : Nat) (ds : List Byte) (clear : List Nat) (s : State) :
    (stripePut p a id ofs n ds clear s).mem = Sparse.setRun 0#8 s.mem (id * frameBytes + ofs / 32 * 32) ds ∧
    (stripePut p a id ofs n ds clear s).errs = clear.foldl (fun e k => Sparse.set 0 e k 0) s.errs ∧
    (stripePut p a id ofs n ds clear s).lineErrs = s.lineErrs ∧
    ((stripePut p a id ofs n ds clear s).part p).mem.pages = (s.part p).mem.pages := by
  unfold stripePut
  have haccess := offCounting_countAccess (putBytes s (id * frameBytes + ofs / 32 * 32) ds clear) id ofs true (decide (n = 256)) n
  generalize countAccess (putBytes s (id * frameBytes + ofs / 32 * 32) ds clear) id ofs true (decide (n = 256)) n = w at haccess
  obtain ⟨hmem, herrs, hlines⟩ := bytes_countPage w p a
  have hwlines : w.lineErrs = (putBytes s (id * frameBytes + ofs / 32 * 32) ds clear).lineErrs :=
    view_of_offCounting (f := State.lineErrs) (h := haccess)
  have hwparts : w.parts = (putBytes s (id * frameBytes + ofs / 32 * 32) ds clear).parts :=
    view_of_offCounting (f := State.parts) (h := haccess)
  have hparts : w.parts = s.parts := hwparts
  refine ⟨hmem.trans (view_of_offCounting (f := State.mem) (h := haccess)), herrs.trans (view_of_offCounting (f := State.errs) (h := haccess)),
    hlines.trans hwlines, (pages_countPage w p a p).trans ?_⟩
  rw [State.part, hparts, State.part]

theorem get_cleared {m : Sparse Nat} (hm : Sparse.wf 0 m = true) (clear : List Nat) (h : ∀ k, Sparse.get 0 m k = 0) (k : Nat) :
    Sparse.get 0 (clear.foldl (fun e k => Sparse.set 0 e k 0) m) k = 0 := by
  induction clear generalizing m with
  | nil => exact h k
  | cons c clear ih =>
    refine ih (Sparse.set_wf _ _ hm) fun j => ?_
    rw [Sparse.get_set c 0 hm, h, ite_self]

theorem writeStripe_lands (hs : s.Canonical) {side : Side} {a id ofs : Nat} {bytes : List Byte} (hlines : s.lineErrs = [])
    (hloc : locate (s.part p).mem a = .frame id ofs) (hne : bytes.length ≠ 0) (hin : ofs % 256 + bytes.length ≤ 256)
    (h : Op.exec (writeStripe side p a bytes) s = (.ok (), u)) : StripeLands s u p id ofs bytes := by
  rw [exec_writeStripe hloc, Op.exec_bind] at h
  split at h
  · next ds w hds =>
    cases h
    obtain ⟨hlands, hground⟩ := granulesOut_land hlines hlines (Nat.le_refl _) (by omega) hds
    have hmem : w.mem = s.mem := congrArg Prod.fst hground
    have herrs : w.errs = s.errs := congrArg (fun x => x.2.1) hground
    have hwlines : w.lineErrs = s.lineErrs := congrArg (fun x => x.2.2.1) hground
    have hparts : w.parts = s.parts := congrArg (fun x => x.2.2.2) hground
    obtain ⟨hput, hcleared, hline, hpages⟩ := ground_stripePut p a id ofs bytes.length ds.flatten
      ((List.range (granules ofs bytes.length).length).map (fun i => (id * frameBytes + ofs / 32 * 32) / 32 + i)) w
    have hcover := length_granules (fuel := bytes.length / 32 + 2) (o := ofs) hne (by omega)
    have hlen : ds.flatten.length = 32 * (pieces 32 (bytes.length / 32 + 2) ofs bytes.length).length := hlands.length
    have hget (k : Nat) := Sparse.get_setRun (id * frameBytes + ofs / 32 * 32) ds.flatten hs.mem k
    rw [hmem] at hput
    rw [← hput] at hget
    refine ⟨hline.trans (hwlines.trans hlines), hpages.trans ?_, fun i hi => ?_, fun k hk => ?_, fun hz k hk => ?_, fun hz k => ?_⟩
    · rw [State.part, hparts, State.part]
    · rw [hget, if_pos (by omega), hlands.written _ (by omega) (by omega) (by omega)]
      congr 1
      omega
    · rw [hget, if_neg (by omega)]
    · rw [hget]
      split
      · next hrun =>
        rw [hlands.kept hz _ (by omega) (by omega)]
        congr 1
        omega
      · rfl
    · rw [hcleared, herrs]
      exact get_cleared hs.errs _ hz k
  · cases h

/-! ### The places of tiered addresses -/

/-- The frame behind a tiered address. -/
def frameAt (ps : List Nat) (x : Nat) : Nat := ps.getD (x / frameBytes) 0

/-- The place of a tiered address in the shelves, and that of its stripe. -/
def placeOf (ps : List Nat) (x : Nat) : Nat := frameAt ps x * frameBytes + x % frameBytes
def stripeOf (ps : List Nat) (x : Nat) : Nat := frameAt ps x * frameBytes + x % frameBytes / 256 * 256

theorem page_lt {ps : List Nat} {x : Nat} (h : x < ps.length * frameBytes) : x / frameBytes < ps.length := by
  unfold frameBytes at *
  omega

theorem locate_of_tiered {m : PartMem} {x : Nat} (hx : x < m.pages.length * frameBytes) (hregion : m.pages.length * frameBytes ≤ regionBase) :
    locate m x = .frame (frameAt m.pages x) (x % frameBytes) := by
  unfold locate frameAt
  rw [if_pos (by omega), List.getElem?_eq_getElem (page_lt hx), List.getD_eq_getElem _ _ (page_lt hx)]

/-- Addresses of different stripes have places in different stripes. -/
theorem placeOf_apart {ps : List Nat} (hps : ps.Nodup) {x y : Nat} (hx : x < ps.length * frameBytes) (hy : y < ps.length * frameBytes)
    (hxy : x / 256 ≠ y / 256) : ¬(stripeOf ps x ≤ placeOf ps y ∧ placeOf ps y < stripeOf ps x + 256) := by
  unfold stripeOf placeOf
  by_cases hpage : x / frameBytes = y / frameBytes
  · have hframe : frameAt ps x = frameAt ps y := congrArg (fun i => ps.getD i 0) hpage
    rw [hframe]
    unfold frameBytes at *
    omega
  · have hframe : frameAt ps x ≠ frameAt ps y := by
      unfold frameAt
      rw [List.getD_eq_getElem _ _ (page_lt hx), List.getD_eq_getElem _ _ (page_lt hy)]
      exact fun heq => hpage ((List.Nodup.getElem_inj_iff hps).1 heq)
    have hapart := frames_apart hframe
    unfold frameBytes at *
    omega

/-! ### The whole write -/

/-- What the write of n bytes from address b on leaves, which are the bytes from b - a on of those that go to address a. -/
structure BytesLand (s u : State) (p : Fin 16) (a b n : Nat) (bytes : List Byte) : Prop where
  written : ∀ i, b ≤ a + i → a + i < b + n → Sparse.get 0#8 u.mem (placeOf (s.part p).mem.pages (a + i)) = bytes.getD i 0#8
  outside : ∀ k, (∀ x, b ≤ x → x < b + n → ¬(stripeOf (s.part p).mem.pages x ≤ k ∧ k < stripeOf (s.part p).mem.pages x + 256)) →
    Sparse.get 0#8 u.mem k = Sparse.get 0#8 s.mem k
  kept : (∀ k, Sparse.get 0 s.errs k = 0) → ∀ k, (∀ x, b ≤ x → x < b + n → k ≠ placeOf (s.part p).mem.pages x) →
    Sparse.get 0#8 u.mem k = Sparse.get 0#8 s.mem k

theorem BytesLand.none {a b n : Nat} {bytes : List Byte} (hn : n = 0) : BytesLand s s p a b n bytes :=
  ⟨fun i _ _ => by omega, fun _ _ => rfl, fun _ _ _ => rfl⟩

/-- The addresses of a run within one stripe have their places in a row, in one stripe. -/
theorem placeOf_within {ps : List Nat} {b i : Nat} (h : b % 256 + i < 256) :
    placeOf ps (b + i) = frameAt ps b * frameBytes + b % frameBytes + i ∧
    stripeOf ps (b + i) = frameAt ps b * frameBytes + b % frameBytes / 256 * 256 := by
  have hpage : (b + i) / frameBytes = b / frameBytes := by unfold frameBytes; omega
  have hframe : frameAt ps (b + i) = frameAt ps b := congrArg (fun j => ps.getD j 0) hpage
  unfold placeOf stripeOf
  rw [hframe]
  unfold frameBytes
  omega

theorem BytesLand.cons {w : State} {a b n m : Nat} {bytes : List Byte} (hps : (s.part p).mem.pages.Nodup)
    (hrange : b + n ≤ (s.part p).mem.pages.length * frameBytes) (ha : a ≤ b) (hm : m = min n (256 - b % 256)) (hm0 : m ≠ 0)
    (hlen : b - a + n ≤ bytes.length)
    (hhead : StripeLands s w p (frameAt (s.part p).mem.pages b) (b % frameBytes) ((bytes.drop (b - a)).take m))
    (htail : BytesLand w u p a (b + m) (n - m) bytes) : BytesLand s u p a b n bytes := by
  obtain ⟨-, hpages, hwritten, houtside, hkept, herrs⟩ := hhead
  obtain ⟨hwritten', houtside', hkept'⟩ := htail
  rw [hpages] at hwritten' houtside' hkept'
  have htake : ((bytes.drop (b - a)).take m).length = m := by rw [List.length_take, List.length_drop]; omega
  rw [htake] at hwritten hkept
  have hlast {y x : Nat} (hy : b ≤ y ∧ y < b + m) (hx : b + m ≤ x ∧ x < b + m + (n - m)) : x / 256 ≠ y / 256 := by omega
  refine ⟨fun i hlo hhi => ?_, fun k hk => ?_, fun hz k hk => ?_⟩
  · by_cases hfirst : a + i < b + m
    · have hsame := houtside' (placeOf (s.part p).mem.pages (a + i)) fun x hx hx' =>
        placeOf_apart hps (by omega) (by omega) (hlast ⟨hlo, hfirst⟩ ⟨hx, hx'⟩)
      obtain ⟨j, rfl⟩ : ∃ j, i = b - a + j := ⟨a + i - b, by omega⟩
      have hplace := (placeOf_within (ps := (s.part p).mem.pages) (b := b) (i := j) (by omega)).1
      rw [show a + (b - a + j) = b + j by omega] at hsame ⊢
      rw [hsame, hplace, hwritten j (by omega), getD_drop_take (by omega)]
    · exact hwritten' i (by omega) (by omega)
  · rw [houtside' k fun x hx hx' => hk x (by omega) (by omega)]
    have hstripe := (placeOf_within (ps := (s.part p).mem.pages) (b := b) (i := 0) (by omega)).2
    have hfirst := hk b (Nat.le_refl _) (by omega)
    rw [Nat.add_zero] at hstripe
    rw [hstripe] at hfirst
    exact houtside k hfirst
  · rw [hkept' (herrs hz) k fun x hx hx' => hk x (by omega) (by omega)]
    refine hkept hz k fun hin => ?_
    obtain ⟨j, rfl⟩ : ∃ j, k = frameAt (s.part p).mem.pages b * frameBytes + b % frameBytes + j :=
      ⟨k - (frameAt (s.part p).mem.pages b * frameBytes + b % frameBytes), by omega⟩
    exact hk (b + j) (by omega) (by omega) (placeOf_within (by omega)).1.symm

theorem stripesLand (hs : s.Canonical) {side : Side} {a fuel b n : Nat} {bytes : List Byte} (hlines : s.lineErrs = [])
    (hps : (s.part p).mem.pages.Nodup) (hrange : b + n ≤ (s.part p).mem.pages.length * frameBytes)
    (hregion : (s.part p).mem.pages.length * frameBytes ≤ regionBase) (ha : a ≤ b) (hlen : b - a + n ≤ bytes.length)
    (hfuel : n ≠ 0 → b % 256 + n ≤ 256 * fuel)
    (h : Op.exec (Op.each (pieces 256 fuel b n) (fun st => writeStripe side p st.1 ((bytes.drop (st.1 - a)).take st.2))) s = (.ok (), u)) :
    BytesLand s u p a b n bytes := by
  induction fuel generalizing s b n with
  | zero =>
    cases h
    exact .none (by omega)
  | succ fuel ih =>
    by_cases hn : n = 0
    · subst hn
      rw [pieces_of_none] at h
      cases h
      exact .none rfl
    · rw [pieces_succ 256 fuel b hn] at h
      generalize hm : min n (256 - b % 256) = m at h
      change Op.exec (writeStripe side p b ((bytes.drop (b - a)).take m) >>= fun _ => Op.each _ _) s = _ at h
      rw [Op.exec_bind] at h
      split at h
      · next x w hw =>
        have htake : ((bytes.drop (b - a)).take m).length = m := by rw [List.length_take, List.length_drop]; omega
        have hhead := writeStripe_lands hs hlines (locate_of_tiered (by omega) hregion) (by rw [htake]; omega)
          (by rw [htake]; unfold frameBytes; omega) hw
        have hwcan : w.Canonical := by
          have hk := Op.exec_kept (writeStripe_kept side p b ((bytes.drop (b - a)).take m)) (.refl s)
          rw [hw] at hk
          exact hk.canonical hs
        exact .cons hps hrange ha hm.symm (by omega) hlen hhead (ih hwcan hhead.lines (hhead.pages ▸ hps)
          (hhead.pages ▸ (by omega)) (hhead.pages ▸ hregion) (by omega) (by omega) (by omega) h)
      · cases h

/-- Settles O47: stripe by stripe and granule by granule, what is written lands at the places of its addresses. -/
theorem tierWritesLand : Obligations.TierWritesLand := by
  intro s u side p a i k bs hs hlines hps hrange hregion h
  have hland := stripesLand hs hlines hps hrange hregion (Nat.le_refl a) (by omega) (by omega) h
  refine ⟨fun hi => ⟨_, locate_of_tiered (by omega) hregion, hland.written i (by omega) (by omega)⟩, fun hk hz => ?_⟩
  refine hland.kept hz k fun x hlo hhi => ?_
  obtain ⟨j, rfl⟩ : ∃ j, x = a + j := ⟨x - a, by omega⟩
  exact hk j (by omega) _ (locate_of_tiered (by omega) hregion)

end Sys2Proof.Machine
end

section
/-! What of a partition lasts while its commands in flight end (R42, R98, R449): a property that no signal observed, no flight that
goes or needs to wait no more, and no collective that ends can undo. -/

namespace Sys2Proof.Machine

variable {s t u : State} {p : Fin 16} {Q : Part → Prop}

/-- The flights fs come of the flights gs: none is new, and none waits for anything else. -/
structure Dwindle (gs fs : List Flight) : Prop where
  length : fs.length ≤ gs.length
  waits : ∀ f ∈ fs, f.wait = .none ∨ ∃ g ∈ gs, f.wait = g.wait

theorem Dwindle.of_sublist {gs fs : List Flight} (h : fs.Sublist gs) : Dwindle gs fs :=
  ⟨h.length_le, fun f hf => .inr ⟨f, h.subset hf, rfl⟩⟩

/-- A property of a partition that lasts while its flights dwindle. -/
def Dwindles (Q : Part → Prop) : Prop := ∀ (x : Part) (r : StreamTag) (fs : List Flight), Dwindle (x.stream r).flight fs → Q x →
  Q (x.setStream r { x.stream r with flight := fs })

/-- A property of a partition that lasts while its flights end and its streams observe signals. -/
structure Endures (Q : Part → Prop) : Prop where
  dwindles : Dwindles Q
  observes : ∀ (x : Part) (n : Nat) (v : Word), Q x → Q (observePart x n v)
  colls : ∀ (x : Part) (k : Coll → Bool), Q x → Q { x with colls := x.colls.filter k }
  waits : ∀ (x : Part) (d c : Option Nat), Q x → Q { x with directWait := d, crustWait := c }

/-! ### Steps of one partition -/

theorem keeps_modPart (q : Fin 16) {f : Part → Part} (hf : Q (s.part q) → Q (f (s.part q))) (h : Q (s.part p)) : Q ((s.modPart q f).part p) := by
  by_cases hq : p = q
  · subst hq
    rw [State.part_modPart_same]
    exact hf h
  · rwa [State.part_modPart_ne _ _ hq]

theorem keeps_modFlights (hQ : Dwindles Q) (q : Fin 16) (r : StreamTag) {k : List Flight → List Flight} (hk : ∀ gs, Dwindle gs (k gs))
    (h : Q (s.part p)) : Q ((s.modStream q r (fun x => { x with flight := k x.flight })).part p) := by
  by_cases hq : p = q
  · subst hq
    rw [show (s.modStream p r _).part p = _ from part_setStream s p r _]
    exact hQ _ r _ (hk _) h
  · rwa [show (s.modStream q r (fun x => { x with flight := k x.flight })).part p = s.part p from State.part_modPart_ne s _ hq]

theorem keeps_foldl {α : Type} {g : State → α → State} {l : List α} (hg : ∀ v, ∀ a ∈ l, Q (v.part p) → Q ((g v a).part p)) (h : Q (s.part p)) :
    Q ((l.foldl g s).part p) := by
  induction l generalizing s with
  | nil => exact h
  | cons a l ih => exact ih (fun v b hb => hg v b (List.mem_cons_of_mem _ hb)) (hg s a List.mem_cons_self h)

theorem keeps_applySignal (hQ : Endures Q) (n : Nat) (op : SigOp) (amount : Word) (h : Q (s.part p)) :
    Q ((applySignal s n op amount).part p) := by
  unfold applySignal
  dsimp only
  split
  · exact keeps_modPart _ (hQ.observes _ _ _) h
  · exact h

theorem keeps_applyFlight (hQ : Endures Q) (f : Flight) (h : Q (s.part p)) : Q ((applyFlight s f).part p) := by
  unfold applyFlight
  split
  · exact keeps_applySignal hQ _ _ _ h
  · exact h

theorem popFlights_sublist (blocked : Bool) (fs : List Flight) : (popFlights blocked fs).1.Sublist fs := by
  induction fs generalizing blocked with
  | nil => exact List.Sublist.refl _
  | cons f fs ih =>
    unfold popFlights
    dsimp only
    split
    · split
      · exact (ih _).cons f
      · split
        · exact (ih _).cons_cons f
        · exact (ih _).cons f
    · exact (ih _).cons_cons f

theorem keeps_settleSignals (hQ : Endures Q) (q : Fin 16) (r : StreamTag) (h : Q (s.part p)) : Q ((settleSignals s q r).part p) := by
  unfold settleSignals
  refine keeps_foldl (fun v f _ hv => keeps_applyFlight hQ f hv) ?_
  by_cases hq : p = q
  · subst hq
    rw [show (s.modStream p r _).part p = _ from part_setStream s p r _]
    exact hQ.dwindles _ r _ (.of_sublist (popFlights_sublist _ _)) h
  · rwa [show (s.modStream q r _).part p = s.part p from State.part_modPart_ne s _ hq]

theorem keeps_endFlight (hQ : Endures Q) (q : Fin 16) (r : StreamTag) (n : Nat) (h : Q (s.part p)) : Q ((endFlight s q r n).part p) :=
  keeps_settleSignals hQ q r (keeps_modFlights hQ.dwindles q r (fun _ => .of_sublist List.filter_sublist) h)

theorem keeps_endDependents (hQ : Endures Q) (q : Fin 16) (r : StreamTag) (gone : List Granule) (fs : List Flight) (h : Q (s.part p)) :
    Q ((endDependents q r gone fs s).part p) := by
  induction fs generalizing gone s with
  | nil => exact h
  | cons f fs ih =>
    unfold endDependents
    split
    · exact ih _ (keeps_endFlight hQ q r _ h)
    · exact ih _ h

theorem keeps_dropFlight (hQ : Endures Q) (q : Fin 16) (r : StreamTag) (f : Flight) (h : Q (s.part p)) : Q ((dropFlight s q r f).part p) :=
  keeps_endDependents hQ q r _ _ (keeps_endFlight hQ q r _ h)

theorem parts_dropWaiter (s : State) (q : Fin 16) (r : StreamTag) (n : Nat) : (dropWaiter s q r n).parts = s.parts := by
  refine foldl_view State.parts (fun v i => ?_) _ s
  exact parts_linkSet _ _ _

theorem keeps_of_parts (hparts : t.parts = s.parts) (h : Q (s.part p)) : Q (t.part p) := by
  rwa [State.part, hparts]

theorem keeps_endWait (hQ : Endures Q) (r : StreamTag) (n : Nat) (h : Q (s.part p)) : Q ((endWait p r s n).part p) := by
  unfold endWait
  split
  · split
    · refine keeps_dropFlight hQ p r _ (keeps_of_parts (parts_dropWaiter _ _ _ _) ?_)
      exact keeps_modPart p (hQ.waits _ _ _) h
    · exact h
  · exact h

theorem keeps_endWaits (hQ : Endures Q) (h : Q (s.part p)) : Q ((endWaits s p).part p) := by
  unfold endWaits
  split
  · exact keeps_foldl (fun v r _ hv => keeps_foldl (fun w n _ hw => keeps_endWait hQ r n hw) hv) h
  · exact h

/-! ### A settled partition settles -/

theorem keeps_settleOnce (hQ : Endures Q) (hsettled : ∀ x, Q x → Settled x) (h : Q (s.part p)) : Q ((settleOnce p s).part p) := by
  have hs := hsettled _ h
  have hstreams : settleOnce p s = endWaits s p := by
    simp only [settleOnce, List.foldl_cons, List.foldl_nil, settleStream_of_settled hs, hs.colls]
  rw [hstreams]
  exact keeps_endWaits hQ h

theorem parts_releaseBanks (s : State) (p : Fin 16) : (releaseBanks s p).parts = s.parts :=
  (congrArg State.parts (offCores_releaseBanks s p) : (offCores (releaseBanks s p)).parts = (offCores s).parts)

theorem keeps_settle (hQ : Endures Q) (hsettled : ∀ x, Q x → Settled x) (h : Q (s.part p)) : Q ((settle p s).part p) := by
  have hbanks {v : State} (hv : Q (v.part p)) : Q ((releaseBanks (sweepColls v p) p).part p) := by
    rw [show sweepColls v p = v by simp only [sweepColls, (hsettled _ hv).colls, List.filter_nil, List.foldl_nil]]
    exact keeps_of_parts (parts_releaseBanks v p) hv
  have honce := keeps_settleOnce hQ hsettled h
  unfold settle
  dsimp only
  split
  · split
    · exact hbanks (keeps_settleOnce hQ hsettled honce)
    · exact hbanks honce
  · exact h

/-! ### Links that break -/

theorem part_answerStop_ne (s : State) {q : Fin 16} (h : p ≠ q) : (answerStop s q).part p = s.part p := by
  rw [State.part, answerStop, answerStops_parts]
  exact State.part_modPart_ne s _ h

theorem part_stopUpds (s : State) (q : Fin 16) : (stopUpds s q).parts = s.parts := by
  refine foldl_view State.parts (fun v n => ?_) _ s
  dsimp only
  split <;> rfl

theorem part_freeze_ne (s : State) {q : Fin 16} (h : p ≠ q) (r : FaultRec) : (freeze s q r).part p = s.part p := by
  have hstop : (stopUpds (recordFault s q r) q).part p = s.part p := by
    rw [State.part, part_stopUpds]
    exact State.part_modPart_ne s _ h
  have hdump (v : State) : (startDump v q).part p = v.part p := by
    unfold startDump
    split <;> rfl
  unfold freeze
  dsimp only
  split
  · rw [part_answerStop_ne _ h, hdump, State.part_setPart_ne _ _ h, hstop]
  · exact hstop

theorem keeps_stopWaiter (q : Fin 16) (hq : p ≠ q) (conn chan : Nat) (w : StreamTag × Nat) (h : Q (s.part p)) :
    Q ((stopWaiter q conn chan s w).part p) := by
  unfold stopWaiter
  split
  · rw [part_freeze_ne _ hq, State.modStream, State.setStream, State.part_modPart_ne _ _ hq]
    exact h
  · exact h

theorem keeps_endWaiter (hQ : Endures Q) (q : Fin 16) (w : StreamTag × Nat) (h : Q (s.part p)) : Q ((endWaiter q s w).part p) := by
  unfold endWaiter
  split
  · exact keeps_dropFlight hQ q _ _ (keeps_modPart q (hQ.colls _ _) h)
  · exact h

/-- The commands that wait on a connection that is gone end in a scrubbed partition, and stop in another. -/
theorem keeps_stopWaiters (hQ : Endures Q) (hscrub : ∀ x, Q x → x.state = .scrubbing) (l : Link) (h : Q (s.part p)) :
    Q ((stopWaiters s l).part p) := by
  unfold stopWaiters
  dsimp only
  by_cases howner : p = l.owner
  · rw [← howner, hscrub _ h, if_neg (by decide), if_pos rfl]
    exact keeps_foldl (fun v w _ hv => keeps_endWaiter hQ p w hv) h
  · split
    · exact keeps_foldl (fun v w _ hv => keeps_stopWaiter _ howner _ _ w hv) h
    · split
      · exact keeps_foldl (fun v w _ hv => keeps_endWaiter hQ _ w hv) h
      · exact h

theorem keeps_breakLink (hQ : Endures Q) (hscrub : ∀ x, Q x → x.state = .scrubbing) (e : Endpoint) (reason : Nat) (h : Q (s.part p)) :
    Q ((breakLink s e reason).part p) := by
  unfold breakLink
  dsimp only
  split
  · cases e with
    | sess n => exact keeps_of_parts (parts_linkSet _ _ _) h
    | conn c => exact keeps_stopWaiters hQ hscrub _ (keeps_of_parts (parts_linkSet _ _ _) h)
  · exact h

theorem keeps_revokeConns (hQ : Endures Q) (hscrub : ∀ x, Q x → x.state = .scrubbing) (q : Fin 16) (h : Q (s.part p)) :
    Q ((revokeConns s q).part p) := keeps_foldl (fun _ _ _ hv => keeps_breakLink hQ hscrub _ _ hv) h

/-! ### What follows a frame -/

theorem keeps_setWait (hQ : Dwindles Q) (q : Fin 16) (r : StreamTag) (n : Nat) (h : Q (s.part p)) : Q ((setWait s q r n .none).part p) := by
  refine keeps_modFlights hQ q r (fun gs => ⟨(List.length_map _).le, fun f hf => ?_⟩) h
  obtain ⟨g, hg, rfl⟩ := List.mem_map.1 hf
  split
  · exact .inl rfl
  · exact .inr ⟨g, hg, rfl⟩

theorem keeps_noteAck (hQ : Dwindles Q) (e : Endpoint) (ack : Nat) (h : Q (s.part p)) : Q ((noteAck s e ack).part p) := by
  unfold noteAck settleAcks
  dsimp only
  split
  · exact keeps_foldl (fun v w _ hv => keeps_setWait hQ _ _ _ hv) (keeps_of_parts ((parts_linkSet _ _ _).trans (parts_linkSet _ _ _)) h)
  · exact keeps_of_parts (parts_linkSet _ _ _) h

/-- What follows a session's frame keeps of a partition what lasts while its flights dwindle. -/
theorem keeps_afterFrame (hQ : Dwindles Q) (g : Nat) (q : Fin 16) (n : Fin 64) (m : RxMsg) (h : Q (s.part p)) :
    Q ((afterFrame g q (.sess n) m s).part p) := by
  have hack : Q ((settleLink (if (linkGet s (.sess n)).gen = g then noteAck s (.sess n) m.ack else s) (.sess n) q).part p) := by
    change Q ((if (linkGet s (.sess n)).gen = g then noteAck s (.sess n) m.ack else s).part p)
    split
    · exact keeps_noteAck hQ _ _ h
    · exact h
  unfold afterFrame
  dsimp only
  generalize settleLink (if (linkGet s (.sess n)).gen = g then noteAck s (.sess n) m.ack else s) (.sess n) q = w at hack ⊢
  split
  · exact keeps_of_parts (view_of_offFrames (f := State.parts) (h := offFrames_sendAck _ _)) hack
  · exact hack

/-- The state but for the partitions, the links, the wire, and registers and counts. -/
def outside (s : State) : State := { offFrames s with parts := Vector.replicate 16 Part.free }

theorem view_of_outside {α : Type} {f : State → α} (hf : ∀ s, f (outside s) = f s := by exact fun _ => rfl)
    (h : outside t = outside s) : f t = f s := by rw [← hf t, h, hf]

theorem outside_of_offFrames (h : offFrames t = offFrames s) : outside t = outside s :=
  congrArg (fun v : State => { v with parts := Vector.replicate 16 Part.free }) h

theorem outside_noteAck (s : State) (e : Endpoint) (ack : Nat) : outside (noteAck s e ack) = outside s := by
  have hset (v : State) (l : Link) : outside (linkSet v e l) = outside v := outside_of_offFrames (offFrames_linkSet _ _ _)
  have hwaits (q : Fin 16) (ws : List LinkWait) (v : State) :
      outside (ws.foldl (fun s w => setWait s q w.stream w.seq .none) v) = outside v := by
    refine foldl_view outside (fun w x => ?_) ws v
    rfl
  unfold noteAck settleAcks
  dsimp only
  split
  · rw [hwaits, hset, hset]
  · exact hset _ _

theorem outside_afterFrame (g : Nat) (q : Fin 16) (n : Fin 64) (m : RxMsg) (s : State) :
    outside (afterFrame g q (.sess n) m s) = outside s := by
  have hack : outside (settleLink (if (linkGet s (.sess n)).gen = g then noteAck s (.sess n) m.ack else s) (.sess n) q) = outside s := by
    change outside (if (linkGet s (.sess n)).gen = g then noteAck s (.sess n) m.ack else s) = outside s
    rw [apply_ite outside, outside_noteAck, ite_self]
  unfold afterFrame
  dsimp only
  generalize settleLink (if (linkGet s (.sess n)).gen = g then noteAck s (.sess n) m.ack else s) (.sess n) q = w at hack ⊢
  split
  · exact (outside_of_offFrames (offFrames_sendAck _ _)).trans hack
  · exact hack

end Sys2Proof.Machine
end

section
/-! A job verb of the device owner takes its effect as it arrives (R41, R44): where nothing of its partition is being carried out,
neither a queue nor a capture holds it. -/

namespace Sys2Proof.Machine

variable {s t u : State} {p : Fin 16} {f : RxFrame} {n : Fin 64} {m : RxMsg}

/-! ### Registers that the arrival of a frame leaves -/

section
variable {g : Nat → Bool} (hg : HidesFrames g)
include hg

theorem booksIn_countPort (s : State) (code k : Nat) {j : Nat} (hj : j < 16) : booksIn g (countPort s code j k) = booksIn g s := by
  unfold countPort
  split
  · next h => exact booksIn_bumpPort hg (portOfCode_lt h) hj s k
  · rfl

theorem booksIn_countRx (s : State) (code : Nat) (f : RxFrame) : booksIn g (countRx s code f) = booksIn g s := by
  unfold countRx
  rw [booksIn_countPort hg _ _ _ (by decide), booksIn_countPort hg _ _ _ (by decide), booksIn_countPort hg _ _ _ (by decide),
    booksIn_countPort hg _ _ _ (by decide)]

theorem booksIn_resend (s : State) (e : Endpoint) (ps : List Nat) : booksIn g (resend s e ps) = booksIn g s := by
  unfold resend
  dsimp only
  split
  · rfl
  · rw [booksIn_handOver hg, booksIn_linkSet]

theorem booksIn_heard (s : State) (f : RxFrame) (e : Endpoint) (m : RxMsg) : booksIn g (heard s f e m) = booksIn g s := by
  obtain ⟨l, ps, -, heq⟩ := takeCredit_eq (countRx s (codeOfPort f.port.val) f) e m
  have hheard : heard s f e m = takeCredit (countRx s (codeOfPort f.port.val) f) e m := rfl
  rw [hheard, heq, booksIn_pump hg, booksIn_resend hg, booksIn_linkSet, booksIn_countRx hg]

end

/-- The registers that a job verb reads: the thermal latch, and the frames behind each CXL port. -/
def jobRegs (a : Nat) : Bool := decide (a = 0xE0000228) || decide (0xA0000104 ≤ a ∧ a ≤ 0xA00001C4)

theorem hidesFrames_jobRegs : HidesFrames jobRegs where
  ports a hlo _ := by
    unfold jobRegs
    rw [decide_eq_false (by omega), decide_eq_false (by omega), Bool.or_false]
  updates a _ hhi := by
    unfold jobRegs
    rw [decide_eq_false (by omega), decide_eq_false (by omega), Bool.or_false]
  events := by decide

/-! ### The turn -/

/-- What a job verb finds as s is when it takes effect: everything but the links, the wire, and other registers and counts. -/
structure JobTurn (s : State) (n : Fin 64) (u : State) : Prop where
  canonical : u.Canonical
  rest : offFrames u = offFrames s
  books : booksIn jobRegs u = booksIn jobRegs s
  link : (linkGet u (.sess n)).spoken = (linkGet s (.sess n)).spoken

theorem JobTurn.part (h : JobTurn s n u) (p : Fin 16) : u.part p = s.part p :=
  view_of_offFrames (f := fun v => v.part p) (h := h.rest)

theorem JobTurn.hold (hs : s.Canonical) (h : JobTurn s n u) : thermalHold u = thermalHold s :=
  congrArg (fun w => flag w 31) (rawReg_of_booksIn hs h.canonical h.books (a := 0xE0000228) (by decide))

theorem JobTurn.freeLower (hs : s.Canonical) (h : JobTurn s n u) (k : Nat) : freeLower u k = freeLower s k := by
  have hport {x : Nat} (hx : x ∈ List.range 4) : portFrames u x = portFrames s x := by
    have hlt := List.mem_range.1 hx
    refine congrArg BitVec.toNat (rawReg_of_booksIn hs h.canonical h.books ?_)
    unfold jobRegs
    rw [decide_eq_true (p := 0xA0000104 ≤ 0xA0000104 + 0x40 * x ∧ 0xA0000104 + 0x40 * x ≤ 0xA00001C4) (by omega), Bool.or_true]
  have hframes : u.frames = s.frames := view_of_offFrames (f := State.frames) (h := h.rest)
  unfold Machine.freeLower
  rw [hframes]
  exact List.foldl_ext _ _ _ (fun acc x hx => by rw [hport hx])

theorem JobTurn.freeConns (h : JobTurn s n u) (k : Nat) : freeConns u k = freeConns s k :=
  view_of_offFrames (f := fun v => Machine.freeConns v k) (h := h.rest)

/-- The turn of a verb that places nothing: it runs on a state that the arrival alone changed. -/
theorem jobTurn_of_plain (f : RxFrame) (n : Fin 64) (hs : s.Canonical) (hwrite : m.op ≠ 0x10) (hsend : m.op ≠ 0x14) (hcoll : m.op ≠ 0x15) :
    ∃ u, verbTurn s f n m = some (u, { op := m.op, psn := m.psn, status := 0, ext := m.ext, payload := m.payload }) ∧ JobTurn s n u := by
  have hplain := placeFrame_of_plain (s := heard s f (.sess n) m) (e := .sess n) (m := m) (fun he => by cases he) hwrite hsend hcoll
  have hmsg : joinMsg none { m with st := 0 } = { op := m.op, psn := m.psn, status := 0, ext := m.ext, payload := m.payload } := by
    rw [joinMsg_none, if_neg hwrite]
  have hrun : verbTurn s f n m = some (turnedVerb (passedTurn (joinedTurn (heard s f (.sess n) m) (.sess n) m 0) (.sess n) m) n m,
      { op := m.op, psn := m.psn, status := 0, ext := m.ext, payload := m.payload }) := by
    rw [verbTurn_eq, atTurn_eq, hplain, ← hmsg]
    rfl
  obtain ⟨hverb, -⟩ := verbRuns_of_turn hs hrun
  refine ⟨_, hrun, hverb.canonical, ?_, ?_, hverb.link⟩
  · rw [turnedVerb, linkMod, offFrames_linkSet, passedTurn, linkMod, offFrames_linkSet, joinedTurn, linkMod, offFrames_linkSet,
      offFrames_heard]
  · rw [turnedVerb, linkMod, booksIn_linkSet, passedTurn, linkMod, booksIn_linkSet, joinedTurn, linkMod, booksIn_linkSet,
      booksIn_heard hidesFrames_jobRegs]

/-! ### The intake -/

/-- The verb of a job, as the device owner sends it in the message m. -/
def ownerReq (n : Fin 64) (m : RxMsg) (j : JobVerb) : VerbReq := ⟨j, ⟨n, m.dgen, m.psn⟩, false⟩

/-- Where nothing of its partition is being carried out or waits, a verb takes effect. -/
theorem verbIntake_of_free (h : JobTurn s n u) (hfree : VerbFree s p) (v : VerbReq) :
    verbIntake u p v = verbEffect u p v := by
  have hpart := h.part p
  have hadm : u.admits = [] := (view_of_offFrames (f := State.admits) (h := h.rest)).trans hfree.admits
  have hadmitting : admittingPart u = none := (view_of_offFrames (f := admittingPart) (h := h.rest)).trans hfree.admitting
  have hdump : dumpHolds u p v.verb = false := by
    have hbusy : u.dump.busy ≠ some p := (view_of_offFrames (f := fun w => w.dump.busy) (h := h.rest)) ▸ hfree.dump
    unfold dumpHolds
    rw [decide_eq_false hbusy, Bool.false_and]
  have hatOnce : takesAtOnce u p v.verb = false := by
    unfold takesAtOnce
    rw [hpart, hfree.stops, decide_eq_false (not_not_intro rfl), Bool.false_and, Bool.false_and]
  have hbusy : verbBusy u p = false := by
    rw [verbBusy, hpart, hfree.active, hfree.stops, hadm]
    rfl
  unfold verbIntake
  rw [hatOnce, Bool.false_and, if_neg Bool.false_ne_true, hbusy, hdump, hpart, hfree.queue]
  rw [if_neg (by decide)]
  unfold admitIntake
  rw [hadmitting, hadm, if_neg (by decide : ¬ (Option.isSome (none : Option (Fin 16)) || decide (([] : List VerbReq) ≠ [])) = true), ite_self]

/-- A job verb of the device owner that nothing holds: the row is its effect, and what follows a frame. -/
theorem hear_of_job (hs : s.Canonical) {mine : RxMsg → Bool} (h : WholeVerb s f n m) (hmine : mine m = true)
    (howner : (linkGet s (.sess n)).level = .owner) (hfree : VerbFree s p) (hturn : JobTurn s n u)
    (hrun : verbTurn s f n m = some (u, { op := m.op, psn := m.psn, status := 0, ext := m.ext, payload := m.payload })) {j : JobVerb}
    (hjob : jobOf (linkGet s (.sess n)).key m.payload.flatten
      { op := m.op, psn := m.psn, status := 0, ext := m.ext, payload := m.payload } = some (p.val, j)) :
    hear f mine s = afterFrame m.dgen (linkGet s (.sess n)).owner (.sess n) m (verbEffect u p (ownerReq n m j)) := by
  have hkey : (linkGet u (.sess n)).key = (linkGet s (.sess n)).key := view_of_spoken (f := Link.key) (h := hturn.link)
  have hlevel : (linkGet u (.sess n)).level = .owner := (view_of_spoken (f := Link.level) (h := hturn.link)).trans howner
  have hgen : (linkGet u (.sess n)).gen = m.dgen :=
    (view_of_spoken (f := Link.gen) (h := hturn.link)).trans h.brings.gen.symm
  rw [hear_of_verb hs h hmine hrun, allowedVerb, hkey]
  rw [hjob]
  unfold jobVerb
  dsimp only
  rw [if_pos p.isLt, hlevel, hgen, Fin.ofNat_val_eq_self]
  exact congrArg _ (verbIntake_of_free hturn hfree _)

end Sys2Proof.Machine
end

section
/-! The effects of ADMIT, LOAD, START and STOP BOUNDARY on the partition that they name (R41, R43, R48, R82, Table 2-5). -/

namespace Sys2Proof.Machine

variable {s t u : State} {p : Fin 16} {v : VerbReq}

/-! ### What lasts while flights dwindle -/

/-- A partition but for its streams. -/
def Part.offStreams (x : Part) : Part := { x with sF := Stream.idle, sB := Stream.idle, sU := Stream.idle }

theorem view_of_offStreams {α : Type} {g : Part → α} (hg : ∀ x, g (Part.offStreams x) = g x := by exact fun _ => rfl) {x y : Part}
    (h : y.offStreams = x.offStreams) : g y = g x := by rw [← hg y, h, hg]

theorem dwindles_offStreams (y : Part) : Dwindles (fun x => x.offStreams = y) :=
  fun x r _ _ h => (by cases r <;> rfl : Part.offStreams (x.setStream r _) = x.offStreams).trans h

/-- What follows a session's frame keeps the partitions but for their streams. -/
theorem offStreams_afterFrame (g : Nat) (q : Fin 16) (n : Fin 64) (m : RxMsg) (s : State) (p : Fin 16) :
    ((afterFrame g q (.sess n) m s).part p).offStreams = (s.part p).offStreams :=
  keeps_afterFrame (dwindles_offStreams _) g q n m rfl

theorem Dwindle.eq_nil {fs : List Flight} (h : Dwindle [] fs) : fs = [] := List.length_eq_zero_iff.1 (Nat.le_zero.1 h.length)

/-! ### ADMIT -/

theorem admit_effect {r : AdmitRecord} (hverb : v.verb = .admission r) (hstate : (s.part p).state = .free) (hhold : thermalHold s = false)
    (hcode : admitCode s r = none) : verbEffect s p v = carry (reserve s p r) p v := by
  unfold verbEffect
  dsimp only
  rw [hverb]
  dsimp only
  rw [if_neg (by rw [hstate, hhold]; decide), hcode]

/-- What an ADMIT checks is not among what the arrival of its frame changes. -/
theorem JobTurn.admitCode {n : Fin 64} (hs : s.Canonical) (h : JobTurn s n u) (r : AdmitRecord) : admitCode u r = admitCode s r := by
  have hcore (c : Fin 64) : u.core c = s.core c := view_of_offFrames (f := fun w => w.core c) (h := h.rest)
  have hpart (c : Nat) : corePart u c = corePart s c := view_of_offFrames (f := fun w => corePart w c) (h := h.rest)
  have hso : u.soBlk = s.soBlk := view_of_offFrames (f := State.soBlk) (h := h.rest)
  have hslot : u.slotBlk = s.slotBlk := view_of_offFrames (f := State.slotBlk) (h := h.rest)
  have hframes : u.frames = s.frames := view_of_offFrames (f := State.frames) (h := h.rest)
  unfold Machine.admitCode
  simp only [hcore, hpart, hso, hslot, hframes, h.freeConns, h.freeLower hs]

/-- The partition as an ADMIT's record reserves it. -/
def Part.reserved (x : Part) (s : State) (r : AdmitRecord) (v : VerbReq) : Part :=
  { x with
    admitting := true, shape := r.shape, origin := r.origin, soBase := r.soBase, soCount := r.soCount,
    slotBase := r.slotBase, slotCount := r.slotCount, desc := r.desc, groups := r.groups, conns := r.conns,
    connMap := freeConns s r.conns, active := some v,
    mem := { PartMem.none with
      u := r.u, lT := r.lT, lR := r.lR,
      pages := freeFrames s.frames upperFrames 0 r.u ++ (freeLower s (r.lT + r.lR)).take r.lT,
      poolZeroing := (freeLower s (r.lT + r.lR)).drop r.lT } }

theorem part_carry (s : State) (p : Fin 16) (v : VerbReq) : (carry s p v).part p = { s.part p with active := some v } :=
  State.part_modPart_same s p _

theorem part_carry_reserve (s : State) (p : Fin 16) (r : AdmitRecord) (v : VerbReq) :
    (carry (reserve s p r) p v).part p = (s.part p).reserved s r v := by
  have hreserve : (reserve s p r).part p = { (s.part p).reserved s r v with active := (s.part p).active } := State.part_modPart_same _ p _
  rw [part_carry, hreserve]
  rfl

theorem frames_carry_reserve (s : State) (p : Fin 16) (r : AdmitRecord) (v : VerbReq) : (carry (reserve s p r) p v).frames =
    (holdFrames s p (freeFrames s.frames upperFrames 0 r.u ++ freeLower s (r.lT + r.lR))).frames := rfl

/-- A frame that is held by the partition stays so while others are. -/
theorem get_holdFrames_of_held (hs : s.Canonical) {id : Nat} (h : Sparse.get 0 s.frames id = 1 + p.val) (ids : List Nat) :
    Sparse.get 0 (holdFrames s p ids).frames id = 1 + p.val := by
  induction ids generalizing s with
  | nil => exact h
  | cons j ids ih =>
    refine ih (s := { s with frames := Sparse.set 0 s.frames j (1 + p.val) }) { hs with frames := Sparse.set_wf _ _ hs.frames } ?_
    exact (Sparse.get_set j _ hs.frames id).trans (by rw [h, ite_self])

theorem get_holdFrames (hs : s.Canonical) {id : Nat} {ids : List Nat} (hid : id ∈ ids) :
    Sparse.get 0 (holdFrames s p ids).frames id = 1 + p.val := by
  induction ids generalizing s with
  | nil => cases hid
  | cons j ids ih =>
    have hj : ({ s with frames := Sparse.set 0 s.frames j (1 + p.val) } : State).Canonical :=
      { hs with frames := Sparse.set_wf _ _ hs.frames }
    rcases List.mem_cons.1 hid with rfl | hid
    · exact get_holdFrames_of_held hj ((Sparse.get_set id _ hs.frames id).trans (if_pos rfl)) ids
    · exact ih hj hid

theorem get_frames_reserve (hs : s.Canonical) {r : AdmitRecord} {id : Nat}
    (hid : id ∈ freeFrames s.frames upperFrames 0 r.u ++ (freeLower s (r.lT + r.lR)).take r.lT) :
    Sparse.get 0 (carry (reserve s p r) p v).frames id = 1 + p.val := by
  rw [frames_carry_reserve]
  refine get_holdFrames hs ?_
  rcases List.mem_append.1 hid with h | h
  · exact List.mem_append_left _ h
  · exact List.mem_append_right _ (List.mem_of_mem_take h)

/-! ### LOAD -/

theorem load_effect {l : LoadRecord} (hverb : v.verb = .load l) (howner : v.tenant = false) (hstate : loadAllowed (s.part p).state = true)
    (hhold : thermalHold s = false) : verbEffect s p v = answer (loadPart s p false l) v.reply 0 := by
  unfold verbEffect
  dsimp only
  rw [hverb]
  dsimp only
  rw [hstate, hhold, howner, Bool.not_true, Bool.false_or, if_neg Bool.false_ne_true, Bool.false_and, Bool.false_and,
    if_neg Bool.false_ne_true]

/-- What the record of a LOAD gives its partition. -/
structure LoadedBy (l : LoadRecord) (x : Part) : Prop where
  state : x.state = .loaded
  cause : x.faultCause = 0
  seed : x.job.seed = l.seed
  sF : x.sF = boundStream l.fEntry
  sB : x.sB = boundStream l.bEntry
  sU : x.sU = boundStream l.uEntry

theorem boundStream_of_dwindle {q : Stream} {pc : Nat} {fs : List Flight} (hq : q = boundStream pc) (h : Dwindle q.flight fs) :
    { q with flight := fs } = boundStream pc := by
  subst hq
  have hnil : fs = [] := Dwindle.eq_nil h
  rw [hnil]
  rfl

theorem dwindles_loadedBy (l : LoadRecord) : Dwindles (LoadedBy l) := by
  intro x r fs hfs h
  cases r with
  | F => exact ⟨h.state, h.cause, h.seed, boundStream_of_dwindle h.sF hfs, h.sB, h.sU⟩
  | B => exact ⟨h.state, h.cause, h.seed, h.sF, boundStream_of_dwindle h.sB hfs, h.sU⟩
  | U => exact ⟨h.state, h.cause, h.seed, h.sF, h.sB, boundStream_of_dwindle h.sU hfs⟩

/-- The shelves' bytes and the sync objects. -/
def memSo (s : State) : Sparse Byte × Sparse SyncObj := (s.mem, s.so)

theorem mem_of_memSo (h : memSo t = memSo s) : t.mem = s.mem := congrArg Prod.fst h

theorem soGet_of_memSo (h : memSo t = memSo s) (i : Nat) : soGet t i = soGet s i :=
  congrArg (fun m : Sparse SyncObj => Sparse.get SyncObj.zero m i) (congrArg Prod.snd h : t.so = s.so)

theorem memSo_clearTrace (s : State) (p : Fin 16) : memSo (clearTrace s p) = memSo s := rfl

/-- The state in which a LOAD has cleared the engines, the counters and the trace of its partition. -/
def loadCleared (s : State) (p : Fin 16) : State := clearTrace (resetCounters (clearEngines s p) p) p

theorem offLost_loadCleared (s : State) (p : Fin 16) : offLost (resetCounters (clearEngines s p) p) = offLost s :=
  (offLost_resetCounters _ p).trans (offLost_clearEngines s p)

theorem part_clearTrace (s : State) (p : Fin 16) :
    (clearTrace s p).part p = { s.part p with ring := [], undrained := [], drained := 0, lostRecs := 0 } := by
  have hmod : (clearTrace s p).part p = (s.modPart p (fun x => { x with ring := [], undrained := [], drained := 0, lostRecs := 0 })).part p :=
    rfl
  rw [hmod, State.part_modPart_same]

theorem memSo_loadCleared (s : State) (p : Fin 16) : memSo (loadCleared s p) = memSo s := by
  rw [loadCleared, memSo_clearTrace]
  exact view_of_offLost (f := memSo) (h := offLost_loadCleared s p)

theorem part_loadCleared (s : State) (p : Fin 16) :
    (loadCleared s p).part p = { s.part p with ring := [], undrained := [], drained := 0, lostRecs := 0 } := by
  have hpart : (resetCounters (clearEngines s p) p).part p = s.part p := view_of_offLost (f := fun w => w.part p) (h := offLost_loadCleared s p)
  rw [loadCleared, part_clearTrace, hpart]

/-- The state in which a LOAD has also reset the objects, and dropped what its connections hold. -/
def loadReset (s : State) (p : Fin 16) : State := dropLinkWaits (resetObjects (loadCleared s p) p true) p

/-- What a LOAD binds: the slots, the registers and counts of its partition, and the partition itself. -/
def loadBound (s : State) (p : Fin 16) (tenant : Bool) (r : LoadRecord) : State :=
  let x := s.part p
  let s := { s with slots := (partSlots x).foldl (fun m n => Sparse.modify Slot.reset m n loadSlot) s.slots }
  let s := resetRange (resetRange s (0x98010000 + 4 * p.val) 4) (qsReg p.val 0xC) 4
  let counts := [0x18, 0x20, 0x28].foldl (fun m o => Sparse.set 0 m (0xA0001000 + 0x40 * p.val + o) 0) s.counts
  let s := { s with counts := Sparse.set 0 counts (0xF0005000 + 8 * p.val) 0 }
  let x := startLayers (idleStreams x)
  s.setPart p { x with
    state := .loaded, faultCause := 0, record := FaultRec.none, tables := [],
    job := { seed := loadSeed s x tenant r.seed, skip := r.skip, wdRelaxed := r.wdRelaxed, fEntry := r.fEntry,
             bEntry := r.bEntry, uEntry := r.uEntry, loaded := true },
    sF := boundStream r.fEntry, sB := boundStream r.bEntry, sU := boundStream r.uEntry, comms := loadComms x,
    mem := { x.mem with pin := r.tierMode = 1, flags := loadFlags x, access := [] } }

theorem loadPart_eq (s : State) (p : Fin 16) (tenant : Bool) (r : LoadRecord) :
    loadPart s p tenant r = loadBound (loadReset s p) p tenant r := by
  unfold loadPart loadReset loadCleared loadBound
  rfl

theorem memSo_loadBound (s : State) (p : Fin 16) (tenant : Bool) (r : LoadRecord) : memSo (loadBound s p tenant r) = memSo s := rfl

theorem loadedBy_loadBound (s : State) (p : Fin 16) (r : LoadRecord) : LoadedBy r ((loadBound s p false r).part p) := by
  unfold loadBound
  dsimp only
  rw [State.part_setPart_same]
  exact ⟨rfl, rfl, rfl, rfl, rfl, rfl⟩

theorem loadedBy_loadPart (s : State) (p : Fin 16) (r : LoadRecord) : LoadedBy r ((loadPart s p false r).part p) := by
  rw [loadPart_eq]
  exact loadedBy_loadBound _ p r

theorem memSo_loadReset (s : State) (p : Fin 16) : memSo (loadReset s p) = memSo (resetObjects (loadCleared s p) p true) := by
  refine foldl_view memSo (fun w i => ?_) _ _
  exact view_of_offFrames (f := memSo) (h := offFrames_linkSet _ _ _)

theorem memSo_loadPart (s : State) (p : Fin 16) (tenant : Bool) (l : LoadRecord) :
    memSo (loadPart s p tenant l) = memSo (resetObjects (loadCleared s p) p true) := by
  rw [loadPart_eq, memSo_loadBound, memSo_loadReset]

theorem mem_of_partsMem (h : partsMem t = partsMem s) : t.mem = s.mem := congrArg Prod.snd h

theorem mem_loadPart (s : State) (p : Fin 16) (tenant : Bool) (l : LoadRecord) : (loadPart s p tenant l).mem = s.mem := by
  rw [mem_of_memSo (memSo_loadPart s p tenant l), mem_of_partsMem (partsMem_resetObjects _ p true), mem_of_memSo (memSo_loadCleared s p)]

/-- One object of a run returns to reset; its epoch rises. -/
def raiseObject (base : Nat) (s : State) (i : Nat) : State :=
  soSet s (base + i) ⟨0#32, (soGet s (base + i)).epoch + 1, false⟩

theorem raiseObject_canonical (hs : s.Canonical) (base i : Nat) : (raiseObject base s i).Canonical := (soSet_kept (.refl s) _ _).canonical hs

theorem soGet_raiseObject (hs : s.Canonical) (base i k : Nat) : soGet (raiseObject base s i) (base + k) =
    if k = i then ⟨0#32, (soGet s (base + i)).epoch + 1, false⟩ else soGet s (base + k) := by
  refine (Sparse.get_set _ _ hs.so _).trans ?_
  simp only [Nat.add_left_cancel_iff]
  rfl

theorem soGet_raiseObjects (hs : s.Canonical) (base : Nat) {l : List Nat} (hl : l.Nodup) (k : Nat) :
    soGet (l.foldl (raiseObject base) s) (base + k) =
      if k ∈ l then ⟨0#32, (soGet s (base + k)).epoch + 1, false⟩ else soGet s (base + k) := by
  induction l generalizing s with
  | nil => rw [if_neg List.not_mem_nil, List.foldl_nil]
  | cons i l ih =>
    obtain ⟨hi, hl⟩ := List.nodup_cons.1 hl
    rw [List.foldl_cons, ih (raiseObject_canonical hs base i) hl, soGet_raiseObject hs]
    by_cases hki : k = i
    · subst hki
      rw [if_pos rfl, if_pos List.mem_cons_self, if_neg hi]
    · simp only [List.mem_cons, hki, false_or, if_false]

theorem soGet_loadPart (hs : s.Canonical) (p : Fin 16) (tenant : Bool) (l : LoadRecord) {k : Nat} (hk : k < 64 * ((s.part p).soCount + 1)) :
    soGet (loadPart s p tenant l) ((s.part p).soBase * 64 + k) = ⟨0, (soGet s ((s.part p).soBase * 64 + k)).epoch + 1, false⟩ := by
  have hcan : (loadCleared s p).Canonical :=
    (clearTrace_kept (resetCounters_kept (clearEngines_kept (.refl s) p) p) p).canonical hs
  have hobjects : resetObjects (loadCleared s p) p true =
      (List.range (64 * ((s.part p).soCount + 1))).foldl (raiseObject ((s.part p).soBase * 64)) (loadCleared s p) := by
    unfold resetObjects
    rw [part_loadCleared]
    rfl
  have hget := soGet_raiseObjects hcan ((s.part p).soBase * 64) (List.nodup_range (n := 64 * ((s.part p).soCount + 1))) k
  rw [← hobjects, if_pos (List.mem_range.2 hk), soGet_of_memSo (memSo_loadCleared s p)] at hget
  rw [soGet_of_memSo (memSo_loadPart s p tenant l)]
  exact hget

/-! ### START and STOP BOUNDARY -/

theorem start_effect (hverb : v.verb = .start)
    (hstate : (s.part p).state = .loaded ∨ ((s.part p).state = .stopped ∧ (s.part p).resumable = true)) (hhold : thermalHold s = false) :
    verbEffect s p v = startPart (carry s p v) p := by
  have hallowed : ((s.part p).state = .loaded || ((s.part p).state = .stopped && (s.part p).resumable) : Bool) = true := by
    rcases hstate with h | ⟨h, hres⟩
    · rw [h]; rfl
    · rw [h, hres]; rfl
  unfold verbEffect
  dsimp only
  rw [hverb]
  dsimp only
  rw [hallowed, hhold]
  rfl

theorem coresOn_carry (s : State) (p : Fin 16) (v : VerbReq) : coresOn (carry s p v) ((carry s p v).part p) = coresOn s (s.part p) := by
  rw [part_carry]
  rfl

theorem startPart_of_on (h : coresOn s (s.part p) = true) : startPart (carry s p v) p = beginRun (carry s p v) p :=
  if_pos ((coresOn_carry s p v).trans h)

theorem part_startPart_of_off (h : coresOn s (s.part p) = false) :
    (startPart (carry s p v) p).part p = { s.part p with active := some v, starting := true } := by
  unfold startPart
  rw [coresOn_carry, h, if_neg Bool.false_ne_true, view_of_offWakes (f := fun w => w.part p) (h := offWakes_demandAll _ _),
    State.part_modPart_same, part_carry]

theorem stopBoundary_effect (hverb : v.verb = .stop false) (hstate : (s.part p).state = .running) :
    (verbEffect s p v).part p = { s.part p with
      state := .stopping, stopMode := .boundary, stopWaiting := (s.part p).stopWaiting ++ [v.reply],
      stopTarget := some (max (s.part p).sF.step (max (s.part p).sB.step (s.part p).sU.step) + 1) } := by
  unfold verbEffect
  dsimp only
  rw [hverb]
  dsimp only
  rw [if_neg (not_not_intro hstate), stopAtBoundary, State.part_modPart_same, State.part_modPart_same]

end Sys2Proof.Machine
end

section
/-! The effects of STOP HALT and of RELEASE on their partition (R39, R41, R42, R49). -/

namespace Sys2Proof.Machine

variable {s t u : State} {p : Fin 16} {v : VerbReq} {Q : Part → Prop}

/-! ### Settled partitions last -/

theorem Part.stream_congr {x y : Part} (hF : y.sF = x.sF) (hB : y.sB = x.sB) (hU : y.sU = x.sU) (r : StreamTag) : y.stream r = x.stream r := by
  cases r with
  | F => exact hF
  | B => exact hB
  | U => exact hU

theorem settled_of_dwindle {x : Part} {r : StreamTag} {fs : List Flight} (hfs : Dwindle (x.stream r).flight fs) (h : Settled x) :
    Settled (x.setStream r { x.stream r with flight := fs }) := by
  refine ⟨fun k f hf => ?_, (by cases r <;> rfl : _ = x.colls).trans h.colls⟩
  by_cases hk : k = r
  · subst hk
    rw [Part.stream_setStream_same] at hf
    rcases hfs.waits f hf with hnone | ⟨g, hg, hwait⟩
    · rw [hnone]
      exact ⟨by decide, by decide⟩
    · rw [hwait]
      exact h.flights k g hg
  · rw [Part.stream_setStream_ne _ _ hk] at hf
    exact h.flights k f hf

theorem flight_observe (q : Stream) (n : Nat) (w : Word) : (observe q n w).flight = q.flight := by
  unfold observe
  split
  · split <;> rfl
  · rfl

theorem settled_observePart {x : Part} (n : Nat) (w : Word) (h : Settled x) : Settled (observePart x n w) := by
  unfold observePart
  split
  · exact h
  · refine h.of_waits rfl fun k f hf => ⟨f, ?_, rfl⟩
    cases k <;> exact flight_observe _ n w ▸ hf

theorem settled_filterColls {x : Part} (k : Coll → Bool) (h : Settled x) : Settled { x with colls := x.colls.filter k } :=
  ⟨h.flights, by rw [h.colls]; rfl⟩

/-- What streams, collectives and waits on others do not tell of a partition. -/
def Part.offJobs (x : Part) : Part := { x.offStreams with colls := [], directWait := none, crustWait := none }

theorem view_of_offJobs {α : Type} {g : Part → α} (hg : ∀ x, g (Part.offJobs x) = g x := by exact fun _ => rfl) {x y : Part}
    (h : y.offJobs = x.offJobs) : g y = g x := by rw [← hg y, h, hg]

theorem offJobs_setStream (x : Part) (r : StreamTag) (q : Stream) : (x.setStream r q).offJobs = x.offJobs := by cases r <;> rfl

theorem offJobs_observePart (x : Part) (n : Nat) (w : Word) : (observePart x n w).offJobs = x.offJobs := by
  unfold observePart
  split <;> rfl

/-- A settled partition stays so, and keeps all but its streams, collectives and waits. -/
theorem endures_settled (y : Part) : Endures (fun x => Settled x ∧ x.offJobs = y) where
  dwindles x r _ hfs h := ⟨settled_of_dwindle hfs h.1, (offJobs_setStream x r _).trans h.2⟩
  observes x n w h := ⟨settled_observePart n w h.1, (offJobs_observePart x n w).trans h.2⟩
  colls _ k h := ⟨settled_filterColls k h.1, h.2⟩
  waits _ _ _ h := ⟨⟨h.1.flights, h.1.colls⟩, h.2⟩

/-! ### HALT -/

theorem dropPrefetches_of_none (h : ∀ r, ∀ f ∈ (s.stream p r).flight, f.wait ≠ .pref) : dropPrefetches s p =
    s.modPart p (fun x => { x with mem := { x.mem with prefQ := x.mem.prefQ.filter (fun e => e.src.isSome) } }) := by
  refine retryPrefs_of_none fun r f hf => h r f ?_
  rw [State.stream, State.part_modPart_same] at hf
  cases r <;> exact hf

/-- The partition as a HALT leaves it before what waits in it ends. -/
def Part.haltedAt (x : Part) : Part :=
  { x with halted := true, stopTarget := none, mem := { x.mem with prefQ := x.mem.prefQ.filter (fun e => e.src.isSome) } }

/-- A HALT of a settled partition without a PREF that waits for room keeps it settled, and ends nothing else. -/
theorem haltPart_of_settled (hset : Settled (s.part p)) (h : ∀ r, ∀ f ∈ ((s.part p).stream r).flight, f.wait ≠ .pref) :
    Settled ((haltPart s p).part p) ∧ ((haltPart s p).part p).offJobs = (s.part p).haltedAt.offJobs := by
  refine keeps_settle (endures_settled _) (fun x hx => hx.1) ?_
  have hnone (r : StreamTag) : ∀ f ∈ ((s.modPart p (fun x => { x with halted := true, stopTarget := none })).stream p r).flight,
      f.wait ≠ .pref := by
    rw [State.stream, State.part_modPart_same]
    cases r with
    | F => exact h .F
    | B => exact h .B
    | U => exact h .U
  rw [dropPrefetches_of_none hnone, State.part_modPart_same, State.part_modPart_same]
  exact ⟨settled_of_streams hset rfl (Part.stream_congr rfl rfl rfl), rfl⟩

theorem stopHalt_effect (hverb : v.verb = .stop true) (hstate : (s.part p).state = .running) (hset : Settled (s.part p))
    (h : ∀ r, ∀ f ∈ ((s.part p).stream r).flight, f.wait ≠ .pref) :
    ((verbEffect s p v).part p).offJobs = ({ s.part p with
      state := .stopping, stopMode := .halt, stopWaiting := (s.part p).stopWaiting ++ [v.reply] } : Part).haltedAt.offJobs := by
  have hhalt := haltPart_of_settled (s := s.modPart p (fun x =>
    { x with state := .stopping, stopMode := .halt, stopWaiting := x.stopWaiting ++ [v.reply] })) (p := p)
  rw [State.part_modPart_same] at hhalt
  unfold verbEffect
  dsimp only
  rw [hverb]
  dsimp only
  rw [if_neg (fun hb => hb.1 hstate)]
  exact (hhalt (settled_of_streams hset rfl (Part.stream_congr rfl rfl rfl)) (fun r => h r)).2

/-! ### RELEASE -/

theorem release_effect (hverb : v.verb = .release) (hfree : (s.part p).state ≠ .free) (hscrub : (s.part p).state ≠ .scrubbing) :
    verbEffect s p v = releasePart (carry s p v) p := by
  unfold verbEffect
  dsimp only
  rw [hverb]
  dsimp only
  rw [if_neg (not_or.2 ⟨hfree, hscrub⟩)]

theorem offFrames_revokeSessions (s : State) (p : Fin 16) : offFrames (revokeSessions s p) = offFrames s := by
  refine foldl_view offFrames (fun w n => ?_) _ s
  dsimp only
  split
  · exact (offFrames_linkSet _ _ _).trans ((offFrames_sendFrame _ _ _ _ _ _).trans (offFrames_sendFrame _ _ _ _ _ _))
  · rfl

/-- The state in which a RELEASE has stopped the streams of its partition. -/
def releaseStopped (s : State) (p : Fin 16) : State :=
  if (s.part p).state = .running || (s.part p).state = .stopping then haltPart s p else dropPrefetches (s.modPart p idleStreams) p

/-- The partition once a RELEASE has revoked its credential. -/
def Part.released (x : Part) : Part :=
  { x with stopWaiting := [], state := .scrubbing, draining := false, credential := [], record := FaultRec.none, faultCause := 0 }

theorem settled_released {x : Part} (h : Settled x) : Settled x.released := settled_of_streams h rfl (Part.stream_congr rfl rfl rfl)

theorem offJobs_released {x y : Part} (h : y.offJobs = x.offJobs) : y.released.offJobs = x.released.offJobs := congrArg Part.released h

/-- The state in which a RELEASE has also closed the sessions of the credential, and answered the STOPs. -/
def releaseRevoked (s : State) (p : Fin 16) : State :=
  (answerStop (revokeSessions (releaseStopped s p) p) p).modPart p (fun x =>
    { x with state := .scrubbing, draining := false, credential := [], record := FaultRec.none, faultCause := 0 })

theorem releasePart_eq (s : State) (p : Fin 16) : ∃ x, releasePart s p =
    scrubBlocks (settle p (resetRange (revokeConns (releaseRevoked s p) p) (0x98010000 + 4 * p.val) 4)) x := ⟨_, rfl⟩

theorem part_releaseRevoked (s : State) (p : Fin 16) : (releaseRevoked s p).part p = ((releaseStopped s p).part p).released := by
  rw [releaseRevoked, State.part_modPart_same, part_answerStop,
    view_of_offFrames (f := fun w => w.part p) (h := offFrames_revokeSessions (releaseStopped s p) p)]
  rfl

theorem part_scrubBlocks (s : State) (x : Part) (p : Fin 16) : (scrubBlocks s x).part p = s.part p := rfl

theorem part_resetRange (s : State) (lo n : Nat) (p : Fin 16) : (resetRange s lo n).part p = s.part p := rfl

/-- What endures in a partition that is scrubbed, and settles it, lasts through a RELEASE. -/
theorem keeps_releasePart (hQ : Endures Q) (hscrub : ∀ x, Q x → x.state = .scrubbing) (hsettled : ∀ x, Q x → Settled x)
    (h : Q ((releaseStopped s p).part p).released) : Q ((releasePart s p).part p) := by
  obtain ⟨x, heq⟩ := releasePart_eq s p
  rw [heq, part_scrubBlocks]
  refine keeps_settle hQ hsettled ?_
  rw [part_resetRange]
  refine keeps_revokeConns hQ hscrub p ?_
  rwa [part_releaseRevoked]

/-- A partition that is scrubbed with its streams idle. -/
structure ReleasedIdle (x : Part) : Prop where
  state : x.state = .scrubbing
  credential : x.credential = []
  colls : x.colls = []
  idle : ∀ r, x.stream r = Stream.idle

theorem observe_idle (n : Nat) (w : Word) : observe Stream.idle n w = Stream.idle := rfl

theorem endures_releasedIdle : Endures ReleasedIdle where
  dwindles x r fs hfs h := by
    rw [h.idle r] at hfs ⊢
    have hnil : fs = [] := Dwindle.eq_nil hfs
    subst hnil
    refine ⟨(by cases r <;> rfl : _ = x.state).trans h.state, (by cases r <;> rfl : _ = x.credential).trans h.credential,
      (by cases r <;> rfl : _ = x.colls).trans h.colls, fun k => ?_⟩
    by_cases hk : k = r
    · subst hk
      rw [Part.stream_setStream_same]
      rfl
    · rw [Part.stream_setStream_ne _ _ hk]
      exact h.idle k
  observes x n w h := by
    unfold observePart
    split
    · exact h
    · refine ⟨h.state, h.credential, h.colls, fun k => ?_⟩
      cases k with
      | F => exact (congrArg (observe · n w) (h.idle .F)).trans (observe_idle n w)
      | B => exact (congrArg (observe · n w) (h.idle .B)).trans (observe_idle n w)
      | U => exact (congrArg (observe · n w) (h.idle .U)).trans (observe_idle n w)
  colls x k h := ⟨h.state, h.credential, by rw [h.colls]; rfl, h.idle⟩
  waits _ _ _ h := ⟨h.state, h.credential, h.colls, h.idle⟩

theorem ReleasedIdle.settled {x : Part} (h : ReleasedIdle x) : Settled x := by
  refine ⟨fun r f hf => ?_, h.colls⟩
  rw [h.idle r] at hf
  cases hf

/-- A RELEASE of a partition that does not run leaves its streams idle. -/
theorem release_of_still (hrun : (s.part p).state ≠ .running) (hstop : (s.part p).state ≠ .stopping) :
    ReleasedIdle ((releasePart s p).part p) := by
  refine keeps_releasePart endures_releasedIdle (fun x h => h.state) (fun x h => h.settled) ?_
  have hstopped : releaseStopped s p = dropPrefetches (s.modPart p idleStreams) p := by
    unfold releaseStopped
    rw [decide_eq_false hrun, decide_eq_false hstop]
    rfl
  have hnone (r : StreamTag) : ∀ f ∈ ((s.modPart p idleStreams).stream p r).flight, f.wait ≠ .pref := by
    rw [State.stream, State.part_modPart_same]
    cases r <;> exact fun f hf => absurd hf List.not_mem_nil
  rw [hstopped, dropPrefetches_of_none hnone, State.part_modPart_same, State.part_modPart_same]
  exact ⟨rfl, rfl, rfl, fun r => by cases r <;> rfl⟩

/-- A RELEASE of a settled partition that runs halts it. -/
theorem release_of_running (hrun : (s.part p).state = .running ∨ (s.part p).state = .stopping) (hset : Settled (s.part p))
    (h : ∀ r, ∀ f ∈ ((s.part p).stream r).flight, f.wait ≠ .pref) :
    ((releasePart s p).part p).offJobs = (s.part p).haltedAt.released.offJobs := by
  have hstopped : releaseStopped s p = haltPart s p := by
    unfold releaseStopped
    rcases hrun with hstate | hstate <;> rw [hstate, if_pos (by decide)]
  obtain ⟨hhalted, hoff⟩ := haltPart_of_settled hset h
  refine (keeps_releasePart (endures_settled (s.part p).haltedAt.released.offJobs) (fun x hx => ?_) (fun x hx => hx.1) ?_).2
  · exact view_of_offJobs (g := Part.state) (h := hx.2)
  · rw [hstopped]
    exact ⟨settled_released hhalted, offJobs_released hoff⟩

end Sys2Proof.Machine
end

section
/-! The job verbs of the device owner (R41 to R44, R48, R49, R82, Table 2-5); O33. -/

namespace Sys2Proof.Machine

variable {s t u : State} {p : Fin 16} {f : RxFrame} {n : Fin 64} {m : RxMsg}

/-- The message of a verb, whole in one frame that places nothing. -/
def wholeMsg (m : RxMsg) : PartialMsg := { op := m.op, psn := m.psn, status := 0, ext := m.ext, payload := m.payload }

/-- The row of a job verb of the device owner: the effect of the verb where the arrival left the state, then what follows a frame. -/
structure JobRow (s : State) (f : RxFrame) (n : Fin 64) (m : RxMsg) (p : Fin 16) (mine : RxMsg → Bool) (j : JobVerb) (u : State) : Prop where
  turn : JobTurn s n u
  run : verbTurn s f n m = some (u, wholeMsg m)
  row : hear f mine s = afterFrame m.dgen (linkGet s (.sess n)).owner (.sess n) m (verbEffect u p (ownerReq n m j))

theorem jobRow_of_verb (hs : s.Canonical) {mine : RxMsg → Bool} (h : WholeVerb s f n m) (howner : (linkGet s (.sess n)).level = .owner)
    (hfree : VerbFree s p) (hmine : mine m = true) {j : JobVerb} (hlo : 0x30 ≤ m.op)
    (hjob : jobOf (linkGet s (.sess n)).key m.payload.flatten (wholeMsg m) = some (p.val, j)) : ∃ u, JobRow s f n m p mine j u := by
  obtain ⟨u, hrun, hturn⟩ := jobTurn_of_plain f n hs (m := m) (by omega) (by omega) (by omega)
  exact ⟨u, hturn, hrun, hear_of_job hs h hmine howner hfree hturn hrun hjob⟩

section
variable {mine : RxMsg → Bool} {j : JobVerb} (hrow : JobRow s f n m p mine j u)
include hrow

/-- What the row leaves of the partition but for its streams is what the verb's effect leaves of it. -/
theorem JobRow.offStreams : ((hear f mine s).part p).offStreams = ((verbEffect u p (ownerReq n m j)).part p).offStreams := by
  rw [hrow.row, offStreams_afterFrame]

theorem JobRow.keeps {Q : Part → Prop} (hQ : Dwindles Q) (h : Q ((verbEffect u p (ownerReq n m j)).part p)) : Q ((hear f mine s).part p) := by
  rw [hrow.row]
  exact keeps_afterFrame hQ _ _ _ _ h

theorem JobRow.outside : outside (hear f mine s) = outside (verbEffect u p (ownerReq n m j)) := by
  rw [hrow.row, outside_afterFrame]

end

/-! ### The verbs that messages spell -/

theorem jobOf_admit {key : List Byte} {r : AdmitRecord} (hop : m.op = 0x30)
    (hparse : parseAdmit m.payload.flatten (hideMask key "ADMIT-CRED" m.psn) = some r) (hpart : leAt m.payload.flatten 0 1 = p.val) :
    jobOf key m.payload.flatten (wholeMsg m) = some (p.val, .admission r) := by
  simp only [jobOf, wholeMsg, hop, hparse, hpart]

theorem jobOf_load {key : List Byte} {l : LoadRecord} (hop : m.op = 0x31) (hparse : parseLoad m.payload.flatten = some l)
    (hpart : leAt m.payload.flatten 0 1 = p.val) : jobOf key m.payload.flatten (wholeMsg m) = some (p.val, .load l) := by
  simp only [jobOf, wholeMsg, hop, hparse, hpart]

theorem jobOf_start {key bytes : List Byte} (hop : m.op = 0x32) (hpart : leAt m.ext 0 1 = p.val) :
    jobOf key bytes (wholeMsg m) = some (p.val, .start) := by
  simp only [jobOf, wholeMsg, hop, hpart]

theorem jobOf_stop {key bytes : List Byte} (halt : Bool) (hop : m.op = 0x33) (hpart : leAt m.ext 0 1 = p.val)
    (hmode : leAt m.ext 1 1 = halt.toNat) : jobOf key bytes (wholeMsg m) = some (p.val, .stop halt) := by
  cases halt <;> simp only [jobOf, wholeMsg, hop, hpart, hmode] <;> rfl

theorem jobOf_release {key bytes : List Byte} (hop : m.op = 0x34) (hpart : leAt m.ext 0 1 = p.val) :
    jobOf key bytes (wholeMsg m) = some (p.val, .release) := by
  simp only [jobOf, wholeMsg, hop, hpart]

theorem stopTakes_of_mode (halt : Bool) (hop : m.op = 0x33) (hmode : leAt m.ext 1 1 = halt.toNat) : stopTakes halt m = true := by
  unfold stopTakes
  rw [if_pos hop, hmode]
  cases halt <;> rfl

/-! ### What each verb leaves -/

section
variable (hs : s.Canonical) {mine : RxMsg → Bool}
include hs

theorem admit_leaves {r : AdmitRecord} (hfree : VerbFree s p) (hrow : JobRow s f n m p mine (.admission r) u)
    (hstate : (s.part p).state = .free) (hcode : admitCode s r = none) :
    ((hear f mine s).part p).offStreams = ((s.part p).reserved s r (ownerReq n m (.admission r))).offStreams ∧
    ∀ id ∈ ((hear f mine s).part p).mem.pages, Sparse.get 0 (hear f mine s).frames id = 1 + p.val := by
  have hframes : u.frames = s.frames := view_of_offFrames (f := State.frames) (h := hrow.turn.rest)
  have heffect : verbEffect u p (ownerReq n m (.admission r)) = carry (reserve u p r) p (ownerReq n m (.admission r)) :=
    admit_effect rfl (by rw [hrow.turn.part, hstate]) ((hrow.turn.hold hs).trans hfree.hold) ((hrow.turn.admitCode hs r).trans hcode)
  have hpart : ((hear f mine s).part p).offStreams = ((u.part p).reserved u r (ownerReq n m (.admission r))).offStreams := by
    rw [hrow.offStreams, heffect, part_carry_reserve]
  refine ⟨?_, fun id hid => ?_⟩
  · rw [hpart, hrow.turn.part]
    unfold Part.reserved
    rw [hrow.turn.freeConns, hrow.turn.freeLower hs, hframes]
  · rw [view_of_outside (f := State.frames) (h := hrow.outside), heffect]
    refine get_frames_reserve hrow.turn.canonical ?_
    rw [view_of_offStreams (g := fun x => x.mem.pages) (h := hpart)] at hid
    exact hid

theorem load_leaves {l : LoadRecord} (hfree : VerbFree s p) (hrow : JobRow s f n m p mine (.load l) u)
    (hstate : loadAllowed (s.part p).state = true) : LoadedBy l ((hear f mine s).part p) ∧ (hear f mine s).mem = s.mem ∧
    ∀ k < 64 * ((s.part p).soCount + 1), soGet (hear f mine s) ((s.part p).soBase * 64 + k) =
      ⟨0, (soGet s ((s.part p).soBase * 64 + k)).epoch + 1, false⟩ := by
  have hpart := hrow.turn.part p
  have heffect : verbEffect u p (ownerReq n m (.load l)) = answer (loadPart u p false l) ⟨n, m.dgen, m.psn⟩ 0 :=
    load_effect rfl rfl (by rw [hpart, hstate]) ((hrow.turn.hold hs).trans hfree.hold)
  have hanswer : offFrames (verbEffect u p (ownerReq n m (.load l))) = offFrames (loadPart u p false l) := by
    rw [heffect, offFrames_answer]
  refine ⟨hrow.keeps (dwindles_loadedBy l) ?_, ?_, fun k hk => ?_⟩
  · rw [view_of_offFrames (f := fun w => w.part p) (h := hanswer)]
    exact loadedBy_loadPart u p l
  · rw [view_of_outside (f := State.mem) (h := hrow.outside), view_of_offFrames (f := State.mem) (h := hanswer), mem_loadPart,
      view_of_offFrames (f := State.mem) (h := hrow.turn.rest)]
  · have hload := soGet_loadPart hrow.turn.canonical p false l (k := k) (by rwa [hpart])
    rw [hpart] at hload
    rw [view_of_outside (f := fun w => soGet w ((s.part p).soBase * 64 + k)) (h := hrow.outside),
      view_of_offFrames (f := fun w => soGet w ((s.part p).soBase * 64 + k)) (h := hanswer), hload,
      view_of_offFrames (f := fun w => soGet w ((s.part p).soBase * 64 + k)) (h := hrow.turn.rest)]

theorem start_leaves (hfree : VerbFree s p) (hrow : JobRow s f n m p mine .start u)
    (hstate : (s.part p).state = .loaded ∨ ((s.part p).state = .stopped ∧ (s.part p).resumable = true)) :
    (coresOn s (s.part p) = false → ((hear f mine s).part p).starting = true ∧ ((hear f mine s).part p).state = (s.part p).state) ∧
    (coresOn s (s.part p) = true → hear f mine s = afterFrame m.dgen (linkGet s (.sess n)).owner (.sess n) m
      (beginRun (carry u p (ownerReq n m .start)) p)) := by
  have hpart := hrow.turn.part p
  have hcores : coresOn u (u.part p) = coresOn s (s.part p) :=
    (view_of_offFrames (f := fun w => coresOn w (u.part p)) (h := hrow.turn.rest)).trans (by rw [hpart])
  have heffect : verbEffect u p (ownerReq n m .start) = startPart (carry u p (ownerReq n m .start)) p :=
    start_effect rfl (by rwa [hpart]) ((hrow.turn.hold hs).trans hfree.hold)
  refine ⟨fun hoff => ?_, fun hon => ?_⟩
  · have hleft := hrow.offStreams
    rw [heffect, part_startPart_of_off (hcores.trans hoff), hpart] at hleft
    exact ⟨view_of_offStreams (g := Part.starting) (h := hleft), (view_of_offStreams (g := Part.state) (h := hleft)).trans rfl⟩
  · rw [hrow.row, heffect, startPart_of_on (hcores.trans hon)]

end

theorem stopBoundary_leaves {mine : RxMsg → Bool} (hrow : JobRow s f n m p mine (.stop false) u) (hstate : (s.part p).state = .running) :
    ((hear f mine s).part p).state = .stopping ∧ ((hear f mine s).part p).stopMode = .boundary ∧
    ((hear f mine s).part p).stopTarget = some (max (s.part p).sF.step (max (s.part p).sB.step (s.part p).sU.step) + 1) := by
  have hleft := hrow.offStreams
  rw [stopBoundary_effect rfl (by rw [hrow.turn.part, hstate]), hrow.turn.part] at hleft
  exact ⟨view_of_offStreams (g := Part.state) (h := hleft), view_of_offStreams (g := Part.stopMode) (h := hleft),
    view_of_offStreams (g := Part.stopTarget) (h := hleft)⟩

theorem offJobs_of_offStreams {x y : Part} (h : y.offStreams = x.offStreams) : y.offJobs = x.offJobs :=
  view_of_offStreams (g := Part.offJobs) (h := h)

theorem stopHalt_leaves {mine : RxMsg → Bool} (hrow : JobRow s f n m p mine (.stop true) u) (hstate : (s.part p).state = .running)
    (hset : Settled (s.part p)) (hpref : ∀ st, ∀ q ∈ ((s.part p).stream st).flight, q.wait ≠ .pref) :
    ((hear f mine s).part p).state = .stopping ∧ ((hear f mine s).part p).stopMode = .halt ∧ ((hear f mine s).part p).halted = true ∧
    ((hear f mine s).part p).mem.prefQ = (s.part p).mem.prefQ.filter (fun q => q.src.isSome) := by
  have hpart := hrow.turn.part p
  have hleft := offJobs_of_offStreams hrow.offStreams
  rw [stopHalt_effect rfl (by rw [hpart, hstate]) (by rwa [hpart]) (by rwa [hpart]), hpart] at hleft
  exact ⟨view_of_offJobs (g := Part.state) (h := hleft), view_of_offJobs (g := Part.stopMode) (h := hleft),
    view_of_offJobs (g := Part.halted) (h := hleft), view_of_offJobs (g := fun x => x.mem.prefQ) (h := hleft)⟩

theorem dwindles_releasedIdle : Dwindles ReleasedIdle := endures_releasedIdle.dwindles

theorem release_leaves_still {mine : RxMsg → Bool} (hrow : JobRow s f n m p mine .release u) (hfree : (s.part p).state ≠ .free)
    (hscrub : (s.part p).state ≠ .scrubbing) (hrun : (s.part p).state ≠ .running) (hstop : (s.part p).state ≠ .stopping) :
    ReleasedIdle ((hear f mine s).part p) := by
  have hpart := hrow.turn.part p
  refine hrow.keeps dwindles_releasedIdle ?_
  rw [release_effect rfl (by rwa [hpart]) (by rwa [hpart])]
  refine release_of_still ?_ ?_ <;> rw [part_carry, hpart]
  · exact hrun
  · exact hstop

theorem release_leaves_running {mine : RxMsg → Bool} (hrow : JobRow s f n m p mine .release u)
    (hrun : (s.part p).state = .running ∨ (s.part p).state = .stopping) (hset : Settled (s.part p))
    (hpref : ∀ st, ∀ q ∈ ((s.part p).stream st).flight, q.wait ≠ .pref) : ((hear f mine s).part p).state = .scrubbing ∧
    ((hear f mine s).part p).credential = [] ∧ ((hear f mine s).part p).halted = true := by
  have hpart := hrow.turn.part p
  have hcarried : (carry u p (ownerReq n m .release)).part p = { s.part p with active := some (ownerReq n m .release) } := by
    rw [part_carry, hpart]
  have hleft := offJobs_of_offStreams hrow.offStreams
  rw [release_effect rfl (by rw [hpart]; rcases hrun with h | h <;> rw [h] <;> decide)
    (by rw [hpart]; rcases hrun with h | h <;> rw [h] <;> decide),
    release_of_running (by rw [hcarried]; exact hrun) (by rw [hcarried]; exact settled_of_streams hset rfl (Part.stream_congr rfl rfl rfl))
      (by rw [hcarried]; exact fun st => hpref st), hcarried] at hleft
  exact ⟨view_of_offJobs (g := Part.state) (h := hleft), view_of_offJobs (g := Part.credential) (h := hleft),
    view_of_offJobs (g := Part.halted) (h := hleft)⟩

/-- Settles O33: nothing holds the verb at its intake, so each row is the effect of its verb and what follows a frame; what the
effect leaves of the partition is not undone by it. -/
theorem jobVerbs : Obligations.JobVerbs := by
  intro s f n m p r l k hs h howner hfree
  have hrow {mine : RxMsg → Bool} (hmine : mine m = true) {j : JobVerb} (hlo : 0x30 ≤ m.op)
      (hjob : jobOf (linkGet s (.sess n)).key m.payload.flatten (wholeMsg m) = some (p.val, j)) : ∃ u, JobRow s f n m p mine j u :=
    jobRow_of_verb hs h howner hfree hmine hlo hjob
  refine ⟨fun hop hparse _ hpart hstate hcode => ?_, fun hop hparse hpart hstate => ?_, fun hop hpart hstate => ?_,
    fun hop hpart hmode hstate => ?_, fun hop hpart hmode hstate hset hpref => ?_, fun hop hpart hnfree hscrub => ?_⟩
  · obtain ⟨u, hu⟩ := hrow (rowTakes_of_op hop) (by omega) (jobOf_admit hop hparse hpart)
    obtain ⟨hleft, hframes⟩ := admit_leaves hs hfree hu hstate hcode
    exact ⟨_, rfl, view_of_offStreams (g := Part.admitting) (h := hleft),
      (view_of_offStreams (g := Part.state) (h := hleft)).trans hstate, view_of_offStreams (g := Part.shape) (h := hleft),
      view_of_offStreams (g := Part.origin) (h := hleft), view_of_offStreams (g := Part.connMap) (h := hleft),
      view_of_offStreams (g := Part.active) (h := hleft), view_of_offStreams (g := fun x => x.mem.pages) (h := hleft), hframes⟩
  · obtain ⟨u, hu⟩ := hrow (rowTakes_of_op hop) (by omega) (jobOf_load hop hparse hpart)
    obtain ⟨hload, hmem, hso⟩ := load_leaves hs hfree hu hstate
    exact ⟨_, rfl, hload.state, hload.seed, hload.sF, hload.sB, hload.sU, hload.cause, hmem, hso k⟩
  · obtain ⟨u, hu⟩ := hrow (rowTakes_of_op hop) (by omega) (jobOf_start hop hpart)
    obtain ⟨hoff, hon⟩ := start_leaves hs hfree hu hstate
    exact ⟨fun hcores => ⟨_, rfl, hoff hcores⟩, fun hcores => ⟨_, rfl, _, hu.run, hon hcores⟩⟩
  · obtain ⟨u, hu⟩ := hrow (stopTakes_of_mode false hop hmode) (by omega) (jobOf_stop false hop hpart hmode)
    exact ⟨_, rfl, stopBoundary_leaves hu hstate⟩
  · obtain ⟨u, hu⟩ := hrow (stopTakes_of_mode true hop hmode) (by omega) (jobOf_stop true hop hpart hmode)
    exact ⟨_, rfl, stopHalt_leaves hu hstate hset hpref⟩
  · obtain ⟨u, hu⟩ := hrow (rowTakes_of_op hop) (by omega) (jobOf_release hop hpart)
    refine ⟨fun hrun hstop => ?_, fun hrun hset hpref => ⟨_, rfl, release_leaves_running hu hrun hset hpref⟩⟩
    have hidle := release_leaves_still hu hnfree hscrub hrun hstop
    exact ⟨_, rfl, hidle.state, hidle.credential, hidle.idle⟩

end Sys2Proof.Machine
end
